-- ==== Sys2Proof/Word.lean ====
section
/-! DEFINITION. The word types of the DX-9160 and nothing else. -/

namespace Sys2Proof

/-- A scalar register's 64 bits (R37). -/
abbrev Word := BitVec 64

/-- One byte. -/
abbrev Byte := BitVec 8

/-- A vector register, and a row image of an accumulator (R37, R263). -/
abbrev VReg2048 := BitVec 2048

/-- The 64-bit word of a natural number, modulo 2^64. -/
abbrev word (n : Nat) : Word := BitVec.ofNat 64 n

end Sys2Proof
end

