-- ==== Sys2Proof/Config.lean ====
section
/-! DEFINITION. What the module's design fixes (R1, R2, R330, R436, R440) and the free values: results
that the specification leaves open and that nothing in this model can evaluate (log 4, 6). -/

namespace Sys2Proof.Config

/-- R1: dies of a module. -/
def dies : Nat := 16
/-- R1: M-dies are dies 0 to 3, S-dies are dies 4 to 15. -/
def isM (die : Nat) : Bool := die < 4
/-- R330: bytes of DRAM of a die: 24 GB on an M-die, 64 GB on an S-die. -/
def dramBytes (die : Nat) : Nat := if isM die then 6 * 2 ^ 32 else 2 ^ 36
/-- R1: bytes of a ring's tile store. -/
def tileBytes : Nat := 2 ^ 21
/-- R332: bytes of a tile-store bank. -/
def bankBytes : Nat := 2 ^ 18
/-- R14, R394: ticks a strand spins before it parks, and stays parked before deep park. -/
def spinTicks : Nat := 4096
/-- R175: consecutive refusals that end an instruction whose home is another die. -/
def nackLimit : Nat := 16
/-- R175: ticks between a refusal and the next try. -/
def nackTicks : Nat := 64
/-- R315: entries of a chunk's commit list. -/
def commitEntries : Nat := 1024
/-- R341: sector entries of a pending-store table. -/
def pendEntries : Nat := 64
/-- R356: entries of a slice's waiter table. -/
def waiterEntries : Nat := 64
/-- R356: entries of a slice's reservation table. -/
def reservations : Nat := 256
/-- R319: predictor tables of a ring. -/
def predTables : Nat := 8
/-- R209: entries of a slot's interlock table. -/
def ilkEntries : Nat := 8
/-- R215: entries of a die's group table. -/
def groupEntries : Nat := 256
/-- R434: RDMA windows of a die. -/
def rdmaWindows : Nat := 64
/-- R428: asynchronous messages that wait at an endpoint. -/
def asyncQueue : Nat := 64
/-- R9: compute-clock ticks of a microsecond. -/
def ticksPerUs : Nat := 1600
/-- R416: bytes of a save area. -/
def saveBytes : Nat := 0x25000
/-- R313: sets and ways of a core's L1D. -/
def l1Sets : Nat := 128
def l1Ways : Nat := 8
/-- R336: ways of a set of a shared-cache slice. R357: of the memory-side cache. -/
def sliceWays : Nat := 12
def memWays : Nat := 16
/-- R1: lines of a core's L1I. -/
def l1iLines : Nat := 256
/-- R369: entries of a core's micro-TLB, a ring's TLB, a die's last level and its walk cache. -/
def tlbEntries (rank : Nat) : Nat := if rank = 0 then 64 else if rank = 1 then 512 else 8192
def walkEntries : Nat := 256
/-- R2, R357, R358: slices of the memory-side cache below a die, one to a channel, the sets of 16 lines in each (2 MiB, or 4 MiB
beside a GDDR 7 device), and the lines of a DRAM row. -/
def memSlices (die : Nat) : Nat := if isM die then 8 else 32
def sliceSets (die : Nat) : Nat := if isM die then 1024 else 512
def rowLines (die : Nat) : Nat := if isM die then 8 else 4

/-- A free value: the correctly rounded value of the transcendental function `f` (R252 gives the
numbers) at an operand where the evaluation of this model does not decide it (log 6). -/
opaque freeRound (f : Nat) (fmt : Nat) (x : Nat) : Nat
/-- A free value: the RDMA key that MEM OPEN returns (R434 gives it no value; log 4). -/
opaque freeKey (n : Nat) : Word
/-- A free value: the starting PSN of a connection (R428 gives it no value; log 4). -/
opaque freePsn (n : Nat) : BitVec 24

/-- A free value: the EUI-48 fused into die 4 (R427 gives it no value; log 4). -/
opaque freeMac : BitVec 48
/-- A free value: GEN and HANDLE in the result of a `gform` that fails (R215 states its STATUS only; log 45). -/
opaque freeForm (n : Nat) : BitVec 48
/-- A free value: the set of the memory-side cache in which a row's lines fall (R357 gives no mapping; log 63). -/
opaque freeSet (die channel bank row line : Nat) : Nat
/-- A free value: the correctable errors that a scrub of a die finds (R467; log 64). -/
opaque freeScrub (n : Nat) : Nat
/-- A free value: the MARGIN of a ring that has not been sampled (R460; log 78). -/
opaque freeMargin (die ring : Nat) : Word

/-- A free value: the flits of a packet on a Saddle link (R442 counts them and no rule gives their number; log 55). -/
opaque freeFlits (n : Nat) : Nat
/-- A free value: which partial results the fabric combines next in a group formed without DET (R222; log 43). -/
opaque freePick (n elem step : Nat) : Nat

/-- A free value: what a byte of device space that is no register of R331 reads as (log 8). -/
opaque freeDev (loc : Nat) : Byte

end Sys2Proof.Config
end

