-- ==== Sys2Proof/Syntax.lean ====
section
/-! DEFINITION. The syntax: operand kinds, the operands of the events, and the one inductive `Instr`
with a constructor for every row of spec/opcode_table.json. -/

namespace Sys2Proof

/-- A scalar register s0 to s31 (R91). -/
abbrev SReg := Fin 32
/-- A vector register v0 to v31 (R91). -/
abbrev VReg := Fin 32
/-- A mask register m0 to m7 (R91). -/
abbrev MReg := Fin 8
/-- An accumulator acc0 to acc3 (R91). -/
abbrev AccReg := Fin 4
/-- An operand-extension register ox0 to ox7 (R91). -/
abbrev OxReg := Fin 8
/-- A die (R17). -/
abbrev DieId := Fin 16
/-- A slot of a die: ring * 32 + core * 4 + index (R17). -/
abbrev SlotNo := Fin 256

/-- Access or source size (R96): byte, half, word, dword. -/
inductive Sz where
  | b | h | w | d
  deriving DecidableEq, Repr

/-- Width of an atomic (R97): 4 or 8 bytes. -/
inductive Wid where
  | w | d
  deriving DecidableEq, Repr

/-- Scope of an acquire, release or fence (R165). -/
inductive Scope where
  | strand | ring | die | mask | pod
  deriving DecidableEq, Repr

/-- Scalar floating-point format (R94). -/
inductive Fmt where
  | f64 | f32 | f16 | bf16
  deriving DecidableEq, Repr

/-- Source and destination types of `fcvt` (R94). -/
inductive CvtTy where
  | f64 | f32 | f16 | bf16 | i64 | n64 | i32 | n32
  deriving DecidableEq, Repr

/-- Rounding field of a conversion (R94): a mode, or `dyn`, the mode of RMODE. -/
inductive Rnd where
  | rne | rtz | rup | rdn | rna | dyn
  deriving DecidableEq, Repr

/-- Element types in the order of the SPAN.ET codes 0x0 to 0xF (R42). -/
inductive ETy where
  | i8 | i16 | i32 | i64 | n8 | n16 | n32 | n64 | i4 | n4 | f64 | f32 | f16 | bf16 | dxb8 | dxb4
  deriving DecidableEq, Repr

/-- Accumulator TYPE (R40): 0 f32, 1 i32, 2 f64, 3 exact-wide. -/
inductive AccTy where
  | f32 | i32 | f64 | x
  deriving DecidableEq, Repr

/-- Kinds of operand-extension records (R109). -/
inductive OxKind where
  | raw | shape | mat | st | pack | geom | qinit | coll
  deriving DecidableEq, Repr

/-- Level named by `cncl` (R100). -/
inductive Level5 where
  | strand | launch | graph | phase | job
  deriving DecidableEq, Repr

/-- The four Saddle links of a die (R437). -/
inductive Dir where
  | east | west | south | north
  deriving DecidableEq, Repr

/-- The six endpoints of a die (R426). -/
inductive EpKind where
  | job | mem | ctl | tel | dbg | age
  deriving DecidableEq, Repr

/-- One endpoint: its die and its kind (R426). -/
structure Endpoint where
  die : DieId
  kind : EpKind
  deriving DecidableEq, Repr

/-- A host request: the queue pair that receives it and the fields of its header (R429). -/
structure HostReq where
  qp : Endpoint
  ver : BitVec 8
  ep : BitVec 8
  op : BitVec 8
  /-- The reserved bits of header bytes 3 and 4, and RESP, ASYNC and STATUS, are all zero. -/
  clean : Bool
  die : DieId
  seq : Word
  tag : Word
  addr : Word
  arg0 : Word
  arg1 : Word
  arg2 : Word
  /-- PLEN: the payload length stated, or the length to return for a read. -/
  plen : Nat
  payload : List Byte
  deriving DecidableEq, Repr

/-- Integer atomics that arrive from the pod (R443). -/
inductive PodAtomic where
  | add | and | or | xor | swap | cas | min | max | minn | maxn | fadd
  deriving DecidableEq, Repr

/-- What a request from the pod asks (R446). -/
inductive PodOp where
  | read
  | write (data : List Byte)
  | atomic (op : PodAtomic) (operand compare : Word)
  deriving DecidableEq, Repr

/-- A request that arrives from the pod at an ingress port (R446). -/
structure PodReq where
  port : Fin 8
  addr : Word
  /-- Access size in bytes. -/
  size : Nat
  op : PodOp
  deriving DecidableEq, Repr

/-- A member of a collective group (R214). -/
structure Member where
  modl : BitVec 10
  die : DieId
  deriving DecidableEq, Repr

/-- The GID of a group (R447): the module, die and local handle of rank 0 of the list that formed it. -/
structure Gid where
  modl : BitVec 10
  die : DieId
  handle : BitVec 8
  deriving DecidableEq, Repr

/-- A registration that reaches rank 0 of a list (R449). -/
structure GroupReg where
  /-- The die of this module that is rank 0. -/
  die : DieId
  /-- Its group-table entry. -/
  handle : BitVec 8
  /-- The registering member's rank. -/
  rank : Nat
  members : List Member
  det : Bool
  reform : Bool
  /-- The member's current GEN for a re-form. -/
  gen : BitVec 32
  deriving DecidableEq, Repr

/-- A collective packet (R447): its destination die, the fields it is matched by and the sender's contribution. -/
structure CollPkt where
  die : DieId
  gid : Gid
  gen : BitVec 32
  seqno : Nat
  /-- OP, DTYPE, ROP, ROOT and COUNT of the sender's collective record. -/
  fields : BitVec 48
  rank : Nat
  data : List Byte
  deriving DecidableEq, Repr

/-- What a die's boot ROM reads of the flash, and what the checks of R453 compute from it. -/
structure BootReport where
  /-- The image table as it is read, from MAGIC to the end of SIG (R452). -/
  table : List Byte
  /-- The bytes that the flash holds. -/
  flash : Nat
  /-- SIG verifies over the bytes before it under the fused key hash. -/
  sigOk : Bool
  /-- SHA-256 of the image of each entry, as it is read, and of the table. -/
  shas : List (BitVec 256)
  tableSha : BitVec 256
  /-- The first 48 bytes of the boot-data image (R427). -/
  net : List Byte
  deriving DecidableEq, Repr

/-- The end of a link's authentication exchange (R457): does the certificate and signature of the die verify at its neighbour, and those
of the neighbour at the die? -/
structure LinkAuth where
  ours : Bool
  theirs : Bool
  deriving DecidableEq, Repr

/-- The structures whose errors are counted (R468), in the order of their counters. -/
inductive ErrArray where
  | l1d | l1i | tile | slice | memside | dram | registers
  deriving DecidableEq, Repr
/-- Where a clean line lies (R466): the L1D or the L1I of a core, a slice, the memory-side cache. -/
inductive CleanAt where
  | l1d (core : Fin 64)
  | l1i (core : Fin 64)
  | slice
  | memside
  deriving DecidableEq, Repr
/-- Where a dirty sector lies (R466). -/
inductive DirtyAt where
  | slice | memside | pending
  deriving DecidableEq, Repr

/-- Where an error lies (R466). -/
inductive ErrPlace where
  /-- An error of one bit, which the code corrects, in an array of a die (R466, R468). -/
  | corrected (die : DieId) (what : ErrArray)
  /-- A clean line of a die. -/
  | clean (die : DieId) (what : CleanAt) (line : Nat)
  /-- A speculative line of the L1D holding `loc`. -/
  | specLine (die : DieId) (slot : SlotNo)
  /-- A dirty sector of a die: the sector that `loc` lies in. -/
  | dirtySector (die : DieId) (what : DirtyAt) (loc : Nat)
  /-- Queue or barrier state at `loc`, and the directory state of a line, at their slice. -/
  | sliceState (loc : Nat)
  | directory (line : Nat)
  /-- DRAM or a tile-store bank: aligned 8-byte units from that of `loc`. -/
  | store (loc units : Nat)
  /-- Register file, ox tags or accumulator of a slot. -/
  | registers (die : DieId) (slot : SlotNo)
  /-- A TLB or walk-cache entry of a die, the TLB's numbered first. -/
  | tlb (die : DieId) (index : Nat)
  deriving DecidableEq, Repr

/-- An access of the IEEE 1687 network while frozen (R471). -/
inductive ScanAcc where
  | memRead (loc : Nat)
  | memWrite (loc : Nat) (data : Word)
  | sReg (die : DieId) (slot : SlotNo) (r : SReg)
  | sRegWrite (die : DieId) (slot : SlotNo) (r : SReg) (data : Word)
  | svnMin (die : DieId)
  | leaves (die : DieId)
  | vReg (die : DieId) (slot : SlotNo) (r : VReg)
  | vRegWrite (die : DieId) (slot : SlotNo) (r : VReg) (data : VReg2048)
  | mReg (die : DieId) (slot : SlotNo) (r : MReg)
  | mRegWrite (die : DieId) (slot : SlotNo) (r : MReg) (data : BitVec 256)
  | accRow (die : DieId) (slot : SlotNo) (a : AccReg) (row : Fin 64)
  | accRowWrite (die : DieId) (slot : SlotNo) (a : AccReg) (row : Fin 64) (data : VReg2048)
  /-- A replica that a die holds, by its tag. -/
  | replica (die : DieId) (line : Nat)
  | oxReg (die : DieId) (slot : SlotNo) (r : OxReg)
  | oxRegWrite (die : DieId) (slot : SlotNo) (r : OxReg) (data : Word)
  /-- A control register of a slot by its number (R42), and its PC. -/
  | ctlReg (die : DieId) (slot : SlotNo) (n : Fin 22)
  | ctlRegWrite (die : DieId) (slot : SlotNo) (n : Fin 22) (data : Word)
  | pc (die : DieId) (slot : SlotNo)
  | pcWrite (die : DieId) (slot : SlotNo) (data : Word)
  /-- Tags: the cores whose L1D holds a line and its dirty sectors in the slice of a die; its dirty sectors in the memory-side cache. -/
  | sharedTag (die : DieId) (line : Nat)
  | memTag (die : DieId) (line : Nat)
  /-- A line of the L1I of a core, a line of the L1D that the chunk in a slot versions (its WR bytes, and those that are VALID), a TLB entry
  of a die. -/
  | l1iLine (die : DieId) (core : Fin 64) (line : Nat)
  | l1dLine (die : DieId) (slot : SlotNo) (line : Nat)
  | tlbEntry (die : DieId) (index : Nat)
  deriving DecidableEq, Repr


/-- A packet that a die arbitrates (R399): one of the net, one of a strip, gather or collective in progress, that of an access which
a slot has made to the die's own slices, or one of the management cores, the host interface or scan. -/
inductive LateAt where
  | packet (k : Nat)
  | strip (id : Nat)
  | access (slot : SlotNo)
  | management
  deriving DecidableEq, Repr

/-- Who needs a translation (R369): a slot of a die, or an agent of the die other than a slot. -/
structure Walker where
  die : DieId
  slot : Option SlotNo
  deriving DecidableEq, Repr

/-- The bank that an access below the memory-side cache names (R359): that of the line at `loc`, numbered `bank` in its channel. -/
structure RowBank where
  loc : Nat
  bank : Nat
  deriving DecidableEq, Repr

/-- A generation of a group-table entry (R448), with rank 0's own handle, which a confirmation from another module brings as part of
the GID (R447). -/
structure EntryGen where
  handle : BitVec 8
  gen : BitVec 32
  zero : BitVec 8
  deriving DecidableEq, Repr

/-- What PTPCTL selects of IEEE 1588 (R436): domainNumber, the delay mechanism (peer-to-peer), and UDP over IPv6. -/
structure PtpPort where
  domain : BitVec 8
  peer : Bool
  ip6 : Bool
  deriving DecidableEq, Repr
/-- A PTP message of the grandmaster: the offset that the clock takes from it, and what it was sent under. -/
structure PtpMsg where
  offset : Word
  port : PtpPort
  deriving DecidableEq, Repr

/-- One constructor per row of the opcode table: 295 instructions and 123 events (a step of an agent
other than the instruction stream, 95_what_each_step_holds.md). Operands stand in the order D, A, B, then
the other fields of the row. -/
inductive Instr where
  /-- R128. Writes (a + b) mod 2^64 to sd. -/
  | add (d : SReg) (a : SReg) (b : SReg)
  /-- R128. Writes (a - b) mod 2^64 to sd. -/
  | sub (d : SReg) (a : SReg) (b : SReg)
  /-- R128. Writes the bitwise and of a and b to sd. -/
  | and (d : SReg) (a : SReg) (b : SReg)
  /-- R128. Writes the bitwise or of a and b to sd. -/
  | or (d : SReg) (a : SReg) (b : SReg)
  /-- R128. Writes the bitwise xor of a and b to sd. -/
  | xor (d : SReg) (a : SReg) (b : SReg)
  /-- R128. Shifts a left by b[5:0]. -/
  | shl (d : SReg) (a : SReg) (b : SReg)
  /-- R128. Shifts a right logically by b[5:0]. -/
  | shr (d : SReg) (a : SReg) (b : SReg)
  /-- R128. Shifts a right arithmetically by b[5:0]. -/
  | sra (d : SReg) (a : SReg) (b : SReg)
  /-- R128. Writes 1 if a is less than b signed, else 0. -/
  | slt (d : SReg) (a : SReg) (b : SReg)
  /-- R128. Writes 1 if a is less than b unsigned, else 0. -/
  | sltn (d : SReg) (a : SReg) (b : SReg)
  /-- R128. Writes the signed minimum of a and b. -/
  | min (d : SReg) (a : SReg) (b : SReg)
  /-- R128. Writes the signed maximum of a and b. -/
  | max (d : SReg) (a : SReg) (b : SReg)
  /-- R128. Writes the unsigned minimum of a and b. -/
  | minn (d : SReg) (a : SReg) (b : SReg)
  /-- R128. Writes the unsigned maximum of a and b. -/
  | maxn (d : SReg) (a : SReg) (b : SReg)
  /-- R128. Writes the low 64 bits of a × b. -/
  | mul (d : SReg) (a : SReg) (b : SReg)
  /-- R128. Writes the high 64 bits of the signed product. -/
  | mulh (d : SReg) (a : SReg) (b : SReg)
  /-- R128. Writes the high 64 bits of the unsigned product. -/
  | mulhn (d : SReg) (a : SReg) (b : SReg)
  /-- R128. Writes the high 64 bits of signed a times unsigned b. -/
  | mulhin (d : SReg) (a : SReg) (b : SReg)
  /-- R129. Signed division truncating toward zero, with defined corner cases. -/
  | div (d : SReg) (a : SReg) (b : SReg)
  /-- R129. Unsigned division, with all ones for a zero divisor. -/
  | divn (d : SReg) (a : SReg) (b : SReg)
  /-- R129. Signed remainder with the sign of the dividend. -/
  | rem (d : SReg) (a : SReg) (b : SReg)
  /-- R129. Unsigned remainder. -/
  | remn (d : SReg) (a : SReg) (b : SReg)
  /-- R128. Counts the leading zero bits of a. -/
  | clz (d : SReg) (a : SReg)
  /-- R128. Counts the trailing zero bits of a. -/
  | ctz (d : SReg) (a : SReg)
  /-- R128. Counts the one bits of a. -/
  | popc (d : SReg) (a : SReg)
  /-- R128. Reverses the bytes of a. -/
  | bswap (d : SReg) (a : SReg)
  /-- R128. Sign-extends the low byte, half or word of a. -/
  | sext (d : SReg) (a : SReg) (s : Sz)
  /-- R128. Zero-extends the low byte, half or word of a. -/
  | zext (d : SReg) (a : SReg) (s : Sz)
  /-- R130. Adds the sign-extended immediate to a. -/
  | addi (d : SReg) (a : SReg) (i : BitVec 11)
  /-- R130. Ands a with the sign-extended immediate. -/
  | andi (d : SReg) (a : SReg) (i : BitVec 11)
  /-- R130. Ors a with the sign-extended immediate. -/
  | ori (d : SReg) (a : SReg) (i : BitVec 11)
  /-- R130. Xors a with the sign-extended immediate. -/
  | xori (d : SReg) (a : SReg) (i : BitVec 11)
  /-- R130. Signed compare of a with the immediate. -/
  | slti (d : SReg) (a : SReg) (i : BitVec 11)
  /-- R130. Unsigned compare of a with the sign-extended immediate. -/
  | sltni (d : SReg) (a : SReg) (i : BitVec 11)
  /-- R130. Shifts a left by an immediate 0-63. -/
  | shli (d : SReg) (a : SReg) (i : BitVec 6)
  /-- R130. Shifts a right logically by an immediate. -/
  | shri (d : SReg) (a : SReg) (i : BitVec 6)
  /-- R130. Shifts a right arithmetically by an immediate. -/
  | srai (d : SReg) (a : SReg) (i : BitVec 6)
  /-- R131. Writes sext(imm19) × 2^11. -/
  | lui (d : SReg) (i : BitVec 19)
  /-- R131. Writes PC + sext(imm19) × 2^11. -/
  | pcadd (d : SReg) (i : BitVec 19)
  /-- R90. 16-bit form of add sd, s0, sa. -/
  | cMov (d : SReg) (a : SReg)
  /-- R90. 16-bit form of add sd, sd, sa. -/
  | cAdd (d : SReg) (a : SReg)
  /-- R90. 16-bit form of addi sd, sd, imm5. -/
  | cAddi (d : SReg) (i : BitVec 5)
  /-- R90. 16-bit form of ld.d sd, @[sa+0]. -/
  | cLd (d : SReg) (a : SReg)
  /-- R90. 16-bit form of st.d sb, @[sa+0]. -/
  | cSt (a : SReg) (b : SReg)
  /-- R90. 16-bit branch if sa is zero. -/
  | cBeqz (a : SReg) (o : BitVec 7)
  /-- R90. 16-bit branch if sa is not zero. -/
  | cBnez (a : SReg) (o : BitVec 7)
  /-- R90. 16-bit jump, the form of jl s0, target. -/
  | cJ (o : BitVec 12)
  /-- R134. Scalar floating add rounded once under RMODE. -/
  | fadd (d : SReg) (a : SReg) (b : SReg) (t : Fmt)
  /-- R134. Scalar floating subtract. -/
  | fsub (d : SReg) (a : SReg) (b : SReg) (t : Fmt)
  /-- R134. Scalar floating multiply. -/
  | fmul (d : SReg) (a : SReg) (b : SReg) (t : Fmt)
  /-- R134. Scalar floating divide, DZ for a zero divisor. -/
  | fdiv (d : SReg) (a : SReg) (b : SReg) (t : Fmt)
  /-- R134. Scalar minimumNumber. -/
  | fmin (d : SReg) (a : SReg) (b : SReg) (t : Fmt)
  /-- R134. Scalar maximumNumber. -/
  | fmax (d : SReg) (a : SReg) (b : SReg) (t : Fmt)
  /-- R134. Scalar square root. -/
  | fsqrt (d : SReg) (a : SReg) (t : Fmt)
  /-- R134. Scalar fused sa × sb + sd with one rounding. -/
  | fma (d : SReg) (a : SReg) (b : SReg) (t : Fmt)
  /-- R134. Scalar fused sa × sb - sd with one rounding. -/
  | fms (d : SReg) (a : SReg) (b : SReg) (t : Fmt)
  /-- R134. Quiet equality compare writing 1 or 0. -/
  | feq (d : SReg) (a : SReg) (b : SReg) (t : Fmt)
  /-- R134. Signalling less-than compare. -/
  | flt (d : SReg) (a : SReg) (b : SReg) (t : Fmt)
  /-- R134. Signalling less-or-equal compare. -/
  | fle (d : SReg) (a : SReg) (b : SReg) (t : Fmt)
  /-- R135. Writes the one-hot class word of the operand. -/
  | fclass (d : SReg) (a : SReg) (t : Fmt)
  /-- R136. Converts between scalar types under the given rounding. -/
  | fcvt (d : SReg) (a : SReg) (x : CvtTy) (y : CvtTy) (r : Rnd)
  /-- R137. Branches when a = b. -/
  | beq (a : SReg) (b : SReg) (o : BitVec 11)
  /-- R137. Branches when a ≠ b. -/
  | bne (a : SReg) (b : SReg) (o : BitVec 11)
  /-- R137. Branches when a < b signed. -/
  | blt (a : SReg) (b : SReg) (o : BitVec 11)
  /-- R137. Branches when a ≥ b signed. -/
  | bge (a : SReg) (b : SReg) (o : BitVec 11)
  /-- R137. Branches when a < b unsigned. -/
  | bltn (a : SReg) (b : SReg) (o : BitVec 11)
  /-- R137. Branches when a ≥ b unsigned. -/
  | bgen (a : SReg) (b : SReg) (o : BitVec 11)
  /-- R138. Jumps PC-relative and writes the return address. -/
  | jl (d : SReg) (i : BitVec 19)
  /-- R139. Jumps to sa + imm11 and writes the return address. -/
  | jlr (d : SReg) (a : SReg) (i : BitVec 11)
  /-- R141. Enters a forked region, takes the fork image and claims slots. -/
  | fork (a : SReg) (o : BitVec 11)
  /-- R144. Back-edge that counts iterations and ends a chunk after c of them. -/
  | floop (a : SReg) (b : SReg) (o : BitVec 11)
  /-- R147. Waits until its chunk is oldest. -/
  | fhold
  /-- R146. Makes the chunk final at the target, or jumps outside a region. -/
  | fexit (o : BitVec 11)
  /-- R170. Loads a sign-extended byte. -/
  | ldB (d : SReg) (a : SReg) (i : BitVec 11)
  /-- R170. Loads a sign-extended halfword. -/
  | ldH (d : SReg) (a : SReg) (i : BitVec 11)
  /-- R170. Loads a sign-extended word. -/
  | ldW (d : SReg) (a : SReg) (i : BitVec 11)
  /-- R170. Loads a dword. -/
  | ldD (d : SReg) (a : SReg) (i : BitVec 11)
  /-- R170. Loads a zero-extended byte. -/
  | ldBn (d : SReg) (a : SReg) (i : BitVec 11)
  /-- R170. Loads a zero-extended halfword. -/
  | ldHn (d : SReg) (a : SReg) (i : BitVec 11)
  /-- R170. Loads a zero-extended word. -/
  | ldWn (d : SReg) (a : SReg) (i : BitVec 11)
  /-- R170. Stores a byte. -/
  | stB (a : SReg) (b : SReg) (i : BitVec 11)
  /-- R170. Stores a halfword. -/
  | stH (a : SReg) (b : SReg) (i : BitVec 11)
  /-- R170. Stores a word. -/
  | stW (a : SReg) (b : SReg) (i : BitVec 11)
  /-- R170. Stores a dword. -/
  | stD (a : SReg) (b : SReg) (i : BitVec 11)
  /-- R172. Acquire load of 8 bytes at the scope in F3. -/
  | ldAcq (d : SReg) (a : SReg) (i : BitVec 11) (s : Scope)
  /-- R172. Release store of 8 bytes at the scope in F3. -/
  | stRel (a : SReg) (b : SReg) (i : BitVec 11) (s : Scope)
  /-- R174. Waits for FULL, reads the word and sets it EMPTY. -/
  | ldFe (d : SReg) (a : SReg)
  /-- R174. Waits for EMPTY, writes the word and sets it FULL. -/
  | stFe (a : SReg) (b : SReg)
  /-- R174. Waits for FULL and reads the word, leaving it FULL. -/
  | ldFf (d : SReg) (a : SReg)
  /-- R174. Sets the word's state FULL. -/
  | feSet (a : SReg)
  /-- R174. Sets the word's state EMPTY. -/
  | feClr (a : SReg)
  /-- R224. Uncached load from another module in the pod. -/
  | ldPod (d : SReg) (a : SReg) (b : SReg) (z : Sz)
  /-- R223. Uncached store to another module in the pod. -/
  | stPod (d : SReg) (a : SReg) (b : SReg) (z : Sz)
  /-- R178. Loads a word at home and sets the slot's reservation. -/
  | lr (d : SReg) (a : SReg) (w : Wid)
  /-- R178. Stores if the reservation stands, writing the status. -/
  | sc (d : SReg) (a : SReg) (b : SReg) (w : Wid)
  /-- R179. Compare-and-swap at home returning the old value. -/
  | cas (d : SReg) (a : SReg) (b : SReg) (w : Wid)
  /-- R180. Atomic add at home returning the old value. -/
  | amoAdd (d : SReg) (a : SReg) (b : SReg) (w : Wid)
  /-- R180. Atomic and at home. -/
  | amoAnd (d : SReg) (a : SReg) (b : SReg) (w : Wid)
  /-- R180. Atomic or at home. -/
  | amoOr (d : SReg) (a : SReg) (b : SReg) (w : Wid)
  /-- R180. Atomic xor at home. -/
  | amoXor (d : SReg) (a : SReg) (b : SReg) (w : Wid)
  /-- R180. Atomic signed minimum at home. -/
  | amoMin (d : SReg) (a : SReg) (b : SReg) (w : Wid)
  /-- R180. Atomic signed maximum at home. -/
  | amoMax (d : SReg) (a : SReg) (b : SReg) (w : Wid)
  /-- R180. Atomic unsigned minimum at home. -/
  | amoMinn (d : SReg) (a : SReg) (b : SReg) (w : Wid)
  /-- R180. Atomic unsigned maximum at home. -/
  | amoMaxn (d : SReg) (a : SReg) (b : SReg) (w : Wid)
  /-- R180. Atomic swap at home. -/
  | amoSwap (d : SReg) (a : SReg) (b : SReg) (w : Wid)
  /-- R181. Atomic floating add at home, rounded RNE. -/
  | amoFadd (d : SReg) (a : SReg) (b : SReg) (w : Wid)
  /-- R182. Fire-and-forget add update sent to home. -/
  | rredAdd (a : SReg) (b : SReg) (w : Wid)
  /-- R182. Fire-and-forget and update. -/
  | rredAnd (a : SReg) (b : SReg) (w : Wid)
  /-- R182. Fire-and-forget or update. -/
  | rredOr (a : SReg) (b : SReg) (w : Wid)
  /-- R182. Fire-and-forget xor update. -/
  | rredXor (a : SReg) (b : SReg) (w : Wid)
  /-- R182. Fire-and-forget signed minimum update. -/
  | rredMin (a : SReg) (b : SReg) (w : Wid)
  /-- R182. Fire-and-forget signed maximum update. -/
  | rredMax (a : SReg) (b : SReg) (w : Wid)
  /-- R182. Fire-and-forget unsigned minimum update. -/
  | rredMinn (a : SReg) (b : SReg) (w : Wid)
  /-- R182. Fire-and-forget unsigned maximum update. -/
  | rredMaxn (a : SReg) (b : SReg) (w : Wid)
  /-- R182. Fire-and-forget floating add update. -/
  | rredFadd (a : SReg) (b : SReg) (w : Wid)
  /-- R185. Waits for the scope's release conditions before later accesses. -/
  | fence (s : Scope)
  /-- R184. Waits until the slot's reservation is lost. -/
  | wres
  /-- R188. Sets a barrier's reload and state words. -/
  | binit (a : SReg) (b : SReg)
  /-- R189. Adds expected bytes to a barrier. -/
  | bpost (a : SReg) (b : SReg)
  /-- R190. Arrives at a barrier, possibly completing its phase. -/
  | barr (a : SReg)
  /-- R191. Waits for the barrier to leave a phase or for a timeout. -/
  | bwait (d : SReg) (a : SReg) (b : SReg)
  /-- R196. Blocking enqueue of one element after a mask-scope release. -/
  | qput (a : SReg) (b : SReg)
  /-- R200. Non-blocking enqueue writing a count. -/
  | qputNb (d : SReg) (a : SReg) (b : SReg)
  /-- R196. Blocking dequeue of one element with acquire. -/
  | qget (d : SReg) (a : SReg)
  /-- R200. Non-blocking dequeue writing a count. -/
  | qgetNb (d : SReg) (a : SReg) (b : SReg)
  /-- R197. Blocking enqueue of a vector group's bytes. -/
  | qputv (d : VReg) (a : SReg)
  /-- R200. Non-blocking vector enqueue. -/
  | qputvNb (d : VReg) (a : SReg) (b : SReg)
  /-- R197. Blocking dequeue into a vector group. -/
  | qgetv (d : VReg) (a : SReg)
  /-- R200. Non-blocking vector dequeue. -/
  | qgetvNb (d : VReg) (a : SReg) (b : SReg)
  /-- R201. Reads a snapshot of a QCB at home. -/
  | qstat (d : SReg) (a : SReg)
  /-- R202. Validates and writes a QCB from a queue-init record. -/
  | qinit (a : SReg) (b : SReg) (x : OxReg)
  /-- R205. Streamer copy of rows from global memory into a tile store. -/
  | cpIn (d : SReg) (a : SReg) (b : SReg) (x : OxReg)
  /-- R205. Streamer copy of rows from a tile store to global memory. -/
  | cpOut (d : SReg) (a : SReg) (b : SReg) (x : OxReg)
  /-- R206. Streamer copy between tile-store banks, converting formats. -/
  | cpTt (d : SReg) (a : SReg) (b : SReg) (x : OxReg)
  /-- R210. Gathers indexed elements into a dense tile-store vector. -/
  | gx (d : VReg) (a : SReg) (b : SReg) (w : Wid) (s : Sz) (x : OxReg)
  /-- R212. Pins a region's replication degree. -/
  | rdegPin (a : SReg) (g : BitVec 2)
  /-- R212. Returns a region's degree to hardware control. -/
  | rdegAuto (a : SReg) (g : BitVec 2)
  /-- R213. Requests replicas of the remote lines of a range. -/
  | rpref (a : SReg) (b : SReg)
  /-- R215. Forms or re-forms a collective group and waits for all members. -/
  | gform (d : SReg) (a : SReg) (b : SReg)
  /-- R217. Reads a group's rank, generation, cause and state. -/
  | gstat (d : SReg) (a : SReg)
  /-- R218. Issues a collective operation on a group. -/
  | coll (d : SReg) (a : SReg) (b : SReg) (x : OxReg)
  /-- R221. Aborts the group's current generation. -/
  | cabort (a : SReg)
  /-- R233. Sets VL to min(request, VLMAX) and returns it. -/
  | setvl (d : SReg) (a : SReg)
  /-- R234. Writes SPAN.ET and SPAN.G from the word. -/
  | setspanImm (g : BitVec 2) (t : ETy)
  /-- R234. Writes SPAN.ET and SPAN.G from sa. -/
  | setspanReg (a : SReg)
  /-- R235. Loads an ox register from memory and sets its tags. -/
  | oxl (a : SReg) (k : OxKind) (x : OxReg)
  /-- R235. Stores an ox register to memory. -/
  | oxs (a : SReg) (x : OxReg)
  /-- R235. Loads an ox register from sa and sets its tags. -/
  | oxr (a : SReg) (k : OxKind) (x : OxReg)
  /-- R237. Unit-stride vector load. -/
  | vld (d : VReg) (a : SReg) (m : MReg)
  /-- R237. Strided vector load. -/
  | vlds (d : VReg) (a : SReg) (b : SReg) (m : MReg)
  /-- R237. Indexed vector load. -/
  | vldx (d : VReg) (a : SReg) (b : VReg) (m : MReg)
  /-- R240. Indexed vector load with ordered elements. -/
  | vldxOi (d : VReg) (a : SReg) (b : VReg) (m : MReg)
  /-- R237. Unit-stride vector store. -/
  | vst (d : VReg) (a : SReg) (m : MReg)
  /-- R237. Strided vector store. -/
  | vsts (d : VReg) (a : SReg) (b : SReg) (m : MReg)
  /-- R237. Indexed vector store. -/
  | vstx (d : VReg) (a : SReg) (b : VReg) (m : MReg)
  /-- R240. Indexed vector store with ordered elements. -/
  | vstxOi (d : VReg) (a : SReg) (b : VReg) (m : MReg)
  /-- R241. Stores active elements consecutively and advances the pointer. -/
  | vappend (d : VReg) (a : SReg) (m : MReg)
  /-- R242. Integer vector add. -/
  | vadd (d : VReg) (a : VReg) (b : VReg) (m : MReg)
  /-- R242. Integer vector subtract. -/
  | vsub (d : VReg) (a : VReg) (b : VReg) (m : MReg)
  /-- R242. Integer vector multiply, low half. -/
  | vmul (d : VReg) (a : VReg) (b : VReg) (m : MReg)
  /-- R242. Integer vector multiply, high half. -/
  | vmulh (d : VReg) (a : VReg) (b : VReg) (m : MReg)
  /-- R242. Integer vector minimum. -/
  | vmin (d : VReg) (a : VReg) (b : VReg) (m : MReg)
  /-- R242. Integer vector maximum. -/
  | vmax (d : VReg) (a : VReg) (b : VReg) (m : MReg)
  /-- R242. Vector bitwise and. -/
  | vand (d : VReg) (a : VReg) (b : VReg) (m : MReg)
  /-- R242. Vector bitwise or. -/
  | vor (d : VReg) (a : VReg) (b : VReg) (m : MReg)
  /-- R242. Vector bitwise xor. -/
  | vxor (d : VReg) (a : VReg) (b : VReg) (m : MReg)
  /-- R242. Vector shift left. -/
  | vshl (d : VReg) (a : VReg) (b : VReg) (m : MReg)
  /-- R242. Vector shift right by type. -/
  | vshr (d : VReg) (a : VReg) (b : VReg) (m : MReg)
  /-- R242. Vector arithmetic shift right. -/
  | vsra (d : VReg) (a : VReg) (b : VReg) (m : MReg)
  /-- R242. Selects a or b per element by the selector mask. -/
  | vsel (d : VReg) (a : VReg) (b : VReg) (m : MReg)
  /-- R242. Integer vector absolute value. -/
  | vabs (d : VReg) (a : VReg) (m : MReg)
  /-- R242. Integer vector negate. -/
  | vneg (d : VReg) (a : VReg) (m : MReg)
  /-- R242. Integer vector equal compare into a mask. -/
  | vcmpEq (d : MReg) (a : VReg) (b : VReg) (m : MReg)
  /-- R242. Integer vector not-equal compare. -/
  | vcmpNe (d : MReg) (a : VReg) (b : VReg) (m : MReg)
  /-- R242. Integer vector less-than compare. -/
  | vcmpLt (d : MReg) (a : VReg) (b : VReg) (m : MReg)
  /-- R242. Integer vector less-or-equal compare. -/
  | vcmpLe (d : MReg) (a : VReg) (b : VReg) (m : MReg)
  /-- R242. Integer vector greater-than compare. -/
  | vcmpGt (d : MReg) (a : VReg) (b : VReg) (m : MReg)
  /-- R242. Integer vector greater-or-equal compare. -/
  | vcmpGe (d : MReg) (a : VReg) (b : VReg) (m : MReg)
  /-- R242. Integer vector add with a scalar. -/
  | vaddVs (d : VReg) (a : VReg) (b : SReg) (m : MReg)
  /-- R242. Integer vector subtract of a scalar. -/
  | vsubVs (d : VReg) (a : VReg) (b : SReg) (m : MReg)
  /-- R242. Integer vector multiply by a scalar. -/
  | vmulVs (d : VReg) (a : VReg) (b : SReg) (m : MReg)
  /-- R242. Integer vector high multiply by a scalar. -/
  | vmulhVs (d : VReg) (a : VReg) (b : SReg) (m : MReg)
  /-- R242. Integer vector minimum with a scalar. -/
  | vminVs (d : VReg) (a : VReg) (b : SReg) (m : MReg)
  /-- R242. Integer vector maximum with a scalar. -/
  | vmaxVs (d : VReg) (a : VReg) (b : SReg) (m : MReg)
  /-- R242. Vector and with a scalar. -/
  | vandVs (d : VReg) (a : VReg) (b : SReg) (m : MReg)
  /-- R242. Vector or with a scalar. -/
  | vorVs (d : VReg) (a : VReg) (b : SReg) (m : MReg)
  /-- R242. Vector xor with a scalar. -/
  | vxorVs (d : VReg) (a : VReg) (b : SReg) (m : MReg)
  /-- R242. Vector shift left by a scalar. -/
  | vshlVs (d : VReg) (a : VReg) (b : SReg) (m : MReg)
  /-- R242. Vector shift right by a scalar. -/
  | vshrVs (d : VReg) (a : VReg) (b : SReg) (m : MReg)
  /-- R242. Vector arithmetic shift right by a scalar. -/
  | vsraVs (d : VReg) (a : VReg) (b : SReg) (m : MReg)
  /-- R242. Selects a or the scalar per element. -/
  | vselVs (d : VReg) (a : VReg) (b : SReg) (m : MReg)
  /-- R242. Equal compare with a scalar into a mask. -/
  | vcmpEqVs (d : MReg) (a : VReg) (b : SReg) (m : MReg)
  /-- R242. Not-equal compare with a scalar. -/
  | vcmpNeVs (d : MReg) (a : VReg) (b : SReg) (m : MReg)
  /-- R242. Less-than compare with a scalar. -/
  | vcmpLtVs (d : MReg) (a : VReg) (b : SReg) (m : MReg)
  /-- R242. Less-or-equal compare with a scalar. -/
  | vcmpLeVs (d : MReg) (a : VReg) (b : SReg) (m : MReg)
  /-- R242. Greater-than compare with a scalar. -/
  | vcmpGtVs (d : MReg) (a : VReg) (b : SReg) (m : MReg)
  /-- R242. Greater-or-equal compare with a scalar. -/
  | vcmpGeVs (d : MReg) (a : VReg) (b : SReg) (m : MReg)
  /-- R244. Vector floating add. -/
  | vfadd (d : VReg) (a : VReg) (b : VReg) (m : MReg)
  /-- R244. Vector floating subtract. -/
  | vfsub (d : VReg) (a : VReg) (b : VReg) (m : MReg)
  /-- R244. Vector floating multiply. -/
  | vfmul (d : VReg) (a : VReg) (b : VReg) (m : MReg)
  /-- R244. Vector floating divide. -/
  | vfdiv (d : VReg) (a : VReg) (b : VReg) (m : MReg)
  /-- R244. Vector minimumNumber. -/
  | vfmin (d : VReg) (a : VReg) (b : VReg) (m : MReg)
  /-- R244. Vector maximumNumber. -/
  | vfmax (d : VReg) (a : VReg) (b : VReg) (m : MReg)
  /-- R244. Vector fused a × b + d. -/
  | vfma (d : VReg) (a : VReg) (b : VReg) (m : MReg)
  /-- R244. Vector fused a × b - d. -/
  | vfms (d : VReg) (a : VReg) (b : VReg) (m : MReg)
  /-- R244. Vector square root. -/
  | vfsqrt (d : VReg) (a : VReg) (m : MReg)
  /-- R244. Clears the sign bit of each element. -/
  | vfabs (d : VReg) (a : VReg) (m : MReg)
  /-- R244. Inverts the sign bit of each element. -/
  | vfneg (d : VReg) (a : VReg) (m : MReg)
  /-- R244. Writes each element's class word. -/
  | vfclass (d : VReg) (a : VReg) (m : MReg)
  /-- R244. Quiet floating equal compare into a mask. -/
  | vfcmpEq (d : MReg) (a : VReg) (b : VReg) (m : MReg)
  /-- R244. Quiet floating not-equal compare. -/
  | vfcmpNe (d : MReg) (a : VReg) (b : VReg) (m : MReg)
  /-- R244. Signalling floating less-than compare. -/
  | vfcmpLt (d : MReg) (a : VReg) (b : VReg) (m : MReg)
  /-- R244. Signalling floating less-or-equal compare. -/
  | vfcmpLe (d : MReg) (a : VReg) (b : VReg) (m : MReg)
  /-- R244. Vector floating add of a scalar. -/
  | vfaddVs (d : VReg) (a : VReg) (b : SReg) (m : MReg)
  /-- R244. Vector floating subtract of a scalar. -/
  | vfsubVs (d : VReg) (a : VReg) (b : SReg) (m : MReg)
  /-- R244. Vector floating multiply by a scalar. -/
  | vfmulVs (d : VReg) (a : VReg) (b : SReg) (m : MReg)
  /-- R244. Vector floating divide by a scalar. -/
  | vfdivVs (d : VReg) (a : VReg) (b : SReg) (m : MReg)
  /-- R244. Vector minimumNumber with a scalar. -/
  | vfminVs (d : VReg) (a : VReg) (b : SReg) (m : MReg)
  /-- R244. Vector maximumNumber with a scalar. -/
  | vfmaxVs (d : VReg) (a : VReg) (b : SReg) (m : MReg)
  /-- R244. Vector fused a × scalar + d. -/
  | vfmaVs (d : VReg) (a : VReg) (b : SReg) (m : MReg)
  /-- R244. Vector fused a × scalar - d. -/
  | vfmsVs (d : VReg) (a : VReg) (b : SReg) (m : MReg)
  /-- R244. Quiet equal compare with a scalar. -/
  | vfcmpEqVs (d : MReg) (a : VReg) (b : SReg) (m : MReg)
  /-- R244. Quiet not-equal compare with a scalar. -/
  | vfcmpNeVs (d : MReg) (a : VReg) (b : SReg) (m : MReg)
  /-- R244. Signalling less-than compare with a scalar. -/
  | vfcmpLtVs (d : MReg) (a : VReg) (b : SReg) (m : MReg)
  /-- R244. Signalling less-or-equal compare with a scalar. -/
  | vfcmpLeVs (d : MReg) (a : VReg) (b : SReg) (m : MReg)
  /-- R245. Converts each element from the source type to SPAN.ET. -/
  | vcvt (d : VReg) (a : VReg) (s : ETy) (m : MReg) (r : Rnd)
  /-- R246. Packs active elements into DXB element and exponent planes. -/
  | vpack (d : VReg) (a : VReg) (b : VReg) (m : MReg) (x : OxReg)
  /-- R247. Decodes DXB planes into elements of SPAN.ET. -/
  | vunpack (d : VReg) (a : VReg) (b : VReg) (m : MReg) (x : OxReg)
  /-- R248. Add reduction on the canonical tree into element 0. -/
  | vredAdd (d : VReg) (a : VReg) (m : MReg)
  /-- R248. Minimum reduction. -/
  | vredMin (d : VReg) (a : VReg) (m : MReg)
  /-- R248. Maximum reduction. -/
  | vredMax (d : VReg) (a : VReg) (m : MReg)
  /-- R248. And reduction. -/
  | vredAnd (d : VReg) (a : VReg) (m : MReg)
  /-- R248. Or reduction. -/
  | vredOr (d : VReg) (a : VReg) (m : MReg)
  /-- R248. Xor reduction. -/
  | vredXor (d : VReg) (a : VReg) (m : MReg)
  /-- R248. Inclusive add scan. -/
  | vscanIncAdd (d : VReg) (a : VReg) (m : MReg)
  /-- R248. Inclusive minimum scan. -/
  | vscanIncMin (d : VReg) (a : VReg) (m : MReg)
  /-- R248. Inclusive maximum scan. -/
  | vscanIncMax (d : VReg) (a : VReg) (m : MReg)
  /-- R248. Inclusive and scan. -/
  | vscanIncAnd (d : VReg) (a : VReg) (m : MReg)
  /-- R248. Inclusive or scan. -/
  | vscanIncOr (d : VReg) (a : VReg) (m : MReg)
  /-- R248. Inclusive xor scan. -/
  | vscanIncXor (d : VReg) (a : VReg) (m : MReg)
  /-- R248. Exclusive add scan. -/
  | vscanExcAdd (d : VReg) (a : VReg) (m : MReg)
  /-- R248. Exclusive minimum scan. -/
  | vscanExcMin (d : VReg) (a : VReg) (m : MReg)
  /-- R248. Exclusive maximum scan. -/
  | vscanExcMax (d : VReg) (a : VReg) (m : MReg)
  /-- R248. Exclusive and scan. -/
  | vscanExcAnd (d : VReg) (a : VReg) (m : MReg)
  /-- R248. Exclusive or scan. -/
  | vscanExcOr (d : VReg) (a : VReg) (m : MReg)
  /-- R248. Exclusive xor scan. -/
  | vscanExcXor (d : VReg) (a : VReg) (m : MReg)
  /-- R249. Two-level block-scaled f32 reduction. -/
  | vredbs (d : VReg) (a : VReg) (b : VReg) (m : MReg)
  /-- R250. Exchanges elements with partner i xor k. -/
  | vxchg (d : VReg) (a : VReg) (b : SReg) (m : MReg)
  /-- R250. Rotates elements by k modulo VL. -/
  | vrot (d : VReg) (a : VReg) (b : SReg) (m : MReg)
  /-- R250. Broadcasts the low EW bits of sa. -/
  | vbcast (d : VReg) (a : SReg) (m : MReg)
  /-- R250. Packs selected elements to the front. -/
  | vcompress (d : VReg) (a : VReg) (m : MReg)
  /-- R250. Spreads leading elements to selected positions. -/
  | vexpand (d : VReg) (a : VReg) (m : MReg)
  /-- R250. Permutes elements by an index vector. -/
  | vperm (d : VReg) (a : VReg) (b : VReg) (m : MReg)
  /-- R250. Slides elements up by k. -/
  | vslideUp (d : VReg) (a : VReg) (b : SReg) (m : MReg)
  /-- R250. Slides elements down by k. -/
  | vslideDn (d : VReg) (a : VReg) (b : SReg) (m : MReg)
  /-- R251. Mask and below VL. -/
  | mand (d : MReg) (a : MReg) (b : MReg)
  /-- R251. Mask or below VL. -/
  | mor (d : MReg) (a : MReg) (b : MReg)
  /-- R251. Mask xor below VL. -/
  | mxor (d : MReg) (a : MReg) (b : MReg)
  /-- R251. Mask not below VL. -/
  | mnot (d : MReg) (a : MReg)
  /-- R251. Counts set mask bits below VL. -/
  | mpop (d : SReg) (a : MReg)
  /-- R251. Finds the lowest set mask bit below VL. -/
  | mfirst (d : SReg) (a : MReg)
  /-- R251. Sets mask bits below n(sa). -/
  | mset (d : MReg) (a : SReg)
  /-- R255. Vector 2^x. -/
  | vexp2 (d : VReg) (a : VReg) (m : MReg)
  /-- R256. Vector log2 x. -/
  | vlog2 (d : VReg) (a : VReg) (m : MReg)
  /-- R257. Vector reciprocal. -/
  | vrcp (d : VReg) (a : VReg) (m : MReg)
  /-- R258. Vector reciprocal square root. -/
  | vrsqrt (d : VReg) (a : VReg) (m : MReg)
  /-- R259. Vector sin(πx). -/
  | vsinpi (d : VReg) (a : VReg) (m : MReg)
  /-- R259. Vector cos(πx). -/
  | vcospi (d : VReg) (a : VReg) (m : MReg)
  /-- R261. Vector tanh x. -/
  | vtanh (d : VReg) (a : VReg) (m : MReg)
  /-- R261. Vector logistic sigmoid. -/
  | vsigm (d : VReg) (a : VReg) (m : MReg)
  /-- R262. Counter-based random numbers per element. -/
  | vrng (d : VReg) (a : SReg) (b : SReg) (m : MReg)
  /-- R271. Matrix multiply-accumulate of VL A rows into an accumulator. -/
  | mma (d : AccReg) (a : SReg) (b : SReg) (x : OxReg)
  /-- R274. Zeroes an accumulator and sets TYPE and F. -/
  | mzero (d : AccReg) (t : AccTy) (a : SReg)
  /-- R275. Loads accumulator row images from memory. -/
  | mld (d : AccReg) (a : SReg) (b : SReg) (t : AccTy)
  /-- R276. Stores scaled accumulator rows with one rounding. -/
  | mst (d : AccReg) (a : SReg) (x : OxReg)
  /-- R277. Adds one accumulator into another. -/
  | macc (d : AccReg) (a : AccReg)
  /-- R278. Copies an accumulator row image into a v register. -/
  | mrowR (d : VReg) (a : AccReg) (b : SReg)
  /-- R278. Copies a v register into an accumulator row image. -/
  | mrowW (d : AccReg) (a : VReg) (b : SReg)
  /-- R282. Exact 2D orientation sign per element. -/
  | gor2 (d : VReg) (a : VReg) (t : Bool) (z : MReg) (m : MReg) (x : OxReg)
  /-- R282. Exact 3D orientation sign per element. -/
  | gor3 (d : VReg) (a : VReg) (t : Bool) (z : MReg) (m : MReg) (x : OxReg)
  /-- R282. Exact in-circle sign per element. -/
  | ginc (d : VReg) (a : VReg) (t : Bool) (z : MReg) (m : MReg) (x : OxReg)
  /-- R282. Exact in-sphere sign per element. -/
  | gins (d : VReg) (a : VReg) (t : Bool) (z : MReg) (m : MReg) (x : OxReg)
  /-- R283. Exact segment-crossing classification per element. -/
  | gsegx (d : VReg) (a : VReg) (t : Bool) (z : MReg) (m : MReg) (x : OxReg)
  /-- R151. Raises the SVC trap with EPC at the next instruction. -/
  | svc (i : BitVec 11)
  /-- R151. Raises the BRK trap at this instruction. -/
  | brk (i : BitVec 11)
  /-- R152. Returns to the level in CAUSE.SPL at EPC. -/
  | eret
  /-- R156. Makes later fetches see earlier writes. -/
  | ifence
  /-- R153. Releases, waits for transfers, retires the strand and frees the slot. -/
  | done
  /-- R154. Suspends the strand and makes it ready at once. -/
  | yield
  /-- R155. Migrates the strand to a stated die. -/
  | hop (a : SReg)
  /-- R157. Cancels a strand, launch, graph, phase or job. -/
  | cncl (a : SReg) (l : Level5)
  /-- R158. Reads a control register. -/
  | ctlr (d : SReg) (n : BitVec 11)
  /-- R158. Writes a control register. -/
  | ctlw (a : SReg) (n : BitVec 11)
  /-- R158. Exchanges a control register. -/
  | ctlx (d : SReg) (a : SReg) (n : BitVec 11)
  /-- R160. Releases and removes overlapping translations on the named dies. -/
  | tlbinv (a : SReg) (b : SReg)
  /-- R319. Writing 1 to PREDCTL.CLR puts the predictor table in the clear state. -/
  | predctlClr
  /-- R391. A free slot takes the best-ranked ready strand. -/
  | dispatch (die : DieId)
  /-- R413. A pre-emption request stops the strand and saves it. -/
  | preemption (die : DieId) (slot : SlotNo)
  /-- R392. An equal-priority strand that ran its quantum is pre-empted. -/
  | quantumExpiry (die : DieId) (slot : SlotNo)
  /-- R394. After 4,096 ticks of SPIN the strand parks and frees its slot. -/
  | park (die : DieId) (slot : SlotNo)
  /-- R394. After 4,096 ticks PARKED the waiter entry is removed. -/
  | deepPark (strand : Word)
  /-- R394. Every DEEPPOLL period a deep-parked strand becomes ready. -/
  | deepRetry (strand : Word)
  /-- R175. A wake from home makes a waiting request re-execute. -/
  | wakeUp (k : Nat)
  /-- R175. After 64 ticks a refused request is sent again. -/
  | nackRetry (die : DieId) (slot : SlotNo)
  /-- R199. A bwait without waiter entry re-reads the state word every 64 ticks. -/
  | bwaitPoll (die : DieId) (slot : SlotNo)
  /-- R191. The bwait limit runs out and WTO is returned. -/
  | bwaitTimeout (strand : Word)
  /-- R215. A formation's TMO runs out and gform returns TIMEOUT. -/
  | gformTimeout (strand : Word)
  /-- R384. A cancel mark stops a strand, which then retires. -/
  | cancelStop (strand : Word)
  /-- R400. A late packet of a strand marks it for LATE. -/
  | lateMark (die : DieId) (packet : LateAt)
  /-- R401. A marked strand takes LATE at its next boundary. -/
  | lateTrap (die : DieId) (slot : SlotNo)
  /-- R33. A migrating strand becomes ready on the home die. -/
  | migrationArrival (k : Nat)
  /-- R325. A CLAIM reaches a core, which may reserve a slot for the region. -/
  | rillClaim (k : Nat)
  /-- R326. A chunk starts 2 ticks after its slot is reserved or freed. -/
  | chunkStart (die : DieId) (slot : SlotNo)
  /-- R317. A LIVEOUT arrival sets a live-in final or squashes on mismatch. -/
  | liveout (k : Nat)
  /-- R318. An OXW arrival sets an ox live-in or squashes. -/
  | oxw (k : Nat)
  /-- R320. A STORE arrival squashes ER sectors or clears VALID bytes. -/
  | store (k : Nat)
  /-- R322. A SQUASH arrival discards a younger chunk's speculative state. -/
  | squash (k : Nat)
  /-- R322. A squashed chunk restarts at the head 4 ticks later. -/
  | chunkRestart (die : DieId) (slot : SlotNo)
  /-- R327. A COMMIT arrival makes the next chunk oldest. -/
  | commit (k : Nat)
  /-- R327. The end of a commit-list drain sends COMMIT. -/
  | commitListDrain (die : DieId) (slot : SlotNo)
  /-- R328. A RELEASE arrival frees a claimed slot at region end. -/
  | rillRelease (k : Nat)
  /-- R314. A lookup probe completes and merges older chunks' bytes. -/
  | olderVersionLookup (die : DieId) (slot : SlotNo) (loc : Nat)
  /-- R183. An atomic, rred or sc arrives at the home slice and is applied. -/
  | homeAtomic (k : Nat)
  /-- R175. A full/empty request arrives at home and is performed or waits. -/
  | homeFeRequest (k : Nat)
  /-- R196. A queue request arrives at the QCB home and is performed whole. -/
  | homeQueueRequest (k : Nat)
  /-- R190. A barrier update arrives at the barrier's home. -/
  | homeBarrierRequest (k : Nat)
  /-- R167. A reply from home writes the result of a sent request. -/
  | homeReply (k : Nat)
  /-- R341. A pending store arrives at home and is performed. -/
  | pendingStoreArrival (k : Nat)
  /-- R345. A COLLAPSE arrival drops the replica and sends CACK. -/
  | collapse (k : Nat)
  /-- R346. A PERF arrival frees a pending entry and raises COLPEND. -/
  | perf (k : Nat)
  /-- R346. A CACK arrival lowers COLPEND. -/
  | cack (k : Nat)
  /-- R344. A read of a remote line arrives at home, which may grant a replica. -/
  | remoteReadRequest (k : Nat)
  /-- R347. A granted fill arrives and is installed unless collapsed. -/
  | replicaFill (k : Nat)
  /-- R343. An eviction notice removes a holder pointer at home. -/
  | evictionNotice (die : DieId) (line : Nat)
  /-- R349. At each epoch end unpinned regions raise or lower their degree. -/
  | epochEnd (die : DieId)
  /-- R367. A walker completes a translation walk and fills the TLBs. -/
  | pageWalk (who : Walker) (root : Word) (va : Word)
  /-- R160. A named die acknowledges removal of translations. -/
  | tlbinvAck (k : Nat)
  /-- R334. A streamer accepts a strip and applies any placement. -/
  | stripAccept (k : Nat)
  /-- R208. A strip lands at its destination and counts its bytes. -/
  | stripLand (k : Nat)
  /-- R190. A landing subtracts bytes at the barrier's home and may complete the phase. -/
  | landing (k : Nat)
  /-- R363. A gather unit accepts a gx request and reads local elements. -/
  | gatherRequest (k : Nat)
  /-- R363. A batch of foreign gather indices is read at its home unit. -/
  | foreignBatch (k : Nat)
  /-- R359. A DRAM activation updates the tracker and may capture the row. -/
  | rowActivation (bank : RowBank) (row : Nat) (served : Bool)
  /-- R359. At each window boundary all trackers are cleared. -/
  | hotRowWindow (die : DieId)
  /-- R360. A captured row's hold ends and its lines are unpinned. -/
  | hotRowHoldExpiry (die : DieId) (row : Nat)
  /-- R467. The controller scrubs memory, correcting correctable errors. -/
  | scrub (die : DieId)
  /-- R466. An uncorrectable error is handled by where it lies. -/
  | uncorrectableError (place : ErrPlace)
  /-- R387. A node is handed to its target die's reservoir. -/
  | nodeHandoff (node : Nat)
  /-- R387. A batch of strands is offered to another die. -/
  | batchOffer (launch : Nat) (die : DieId)
  /-- R377. Submits a graph or job to its home reservoir. -/
  | jobSubmit (req : HostReq)
  /-- R383. Cancels an object as cncl at system level. -/
  | jobCancel (req : HostReq)
  /-- R432. Releases a phase waiting at its host gate. -/
  | jobRelease (req : HostReq)
  /-- R434. Opens an RDMA window on a physical range. -/
  | memOpen (req : HostReq)
  /-- R434. Closes an RDMA window. -/
  | memClose (req : HostReq)
  /-- R432. Reads physical memory in the payload. -/
  | memRead (req : HostReq)
  /-- R432. Writes physical memory from the payload. -/
  | memWrite (req : HostReq)
  /-- R434. Host RDMA read through a window, atomic per 8 bytes. -/
  | rdmaRead (die : DieId) (key : Word) (addr : Nat) (len : Nat)
  /-- R434. Host RDMA write, acknowledged once settled on every die. -/
  | rdmaWrite (die : DieId) (key : Word) (addr : Nat) (data : List Byte)
  /-- R432. Reads a device register. -/
  | ctlRdreg (req : HostReq)
  /-- R432. Writes a device register without a row of its own. -/
  | ctlWrreg (req : HostReq)
  /-- R436. Writes PTPCTL, starting or configuring the PTP clock. -/
  | ptpctlWrite (req : HostReq)
  /-- R432. Host-issued translation invalidation. -/
  | ctlTlbinv (req : HostReq)
  /-- R448. Frees a group table entry. -/
  | ctlGfree (req : HostReq)
  /-- R470. Freezes the module by command. -/
  | ctlFreeze (req : HostReq)
  /-- R433. Reads a snapshot of a counter block. -/
  | telRead (req : HostReq)
  /-- R432. Sets or stops a periodic counter subscription. -/
  | telSubscribe (req : HostReq)
  /-- R432. Each subscription period sends the counters. -/
  | telSample (die : DieId)
  /-- R423. Reads virtual memory through a given root. -/
  | dbgRead (req : HostReq)
  /-- R423. Writes a halted strand's record or save area. -/
  | dbgWrite (req : HostReq)
  /-- R423. Halts a strand in place of a trap or on command. -/
  | dbgHalt (req : HostReq)
  /-- R423. Recomputes CHK and makes a halted strand ready. -/
  | dbgResume (req : HostReq)
  /-- R432. Reads a line's home-directory entry. -/
  | dbgRddir (req : HostReq)
  /-- R432. Reads a bank's BFMT. -/
  | dbgRdbfmt (req : HostReq)
  /-- R465. Reads a ring's margin, guard-band and state. -/
  | ageRead (req : HostReq)
  /-- R465. Requests retirement of a logical ring. -/
  | ageRetire (req : HostReq)
  /-- R428. A connection request for an endpoint is answered REP or REJ. -/
  | cmReq (service : Word)
  /-- R428. The host's RTU establishes the connection. -/
  | cmRtu (ep : Endpoint)
  /-- R428. Closes a connection with DREP. -/
  | cmDreq (ep : Endpoint)
  /-- R428. The transport declares a connection broken and it closes. -/
  | connectionBroken (ep : Endpoint)
  /-- R425. A congestion notification lowers the send rate. -/
  | ecnNotification (ep : Endpoint)
  /-- R427. The module answers ARP for its address. -/
  | arpRequest (ip : BitVec 32)
  /-- R427. The module answers IPv6 neighbour discovery. -/
  | neighbourSolicitation (ip : BitVec 128)
  /-- R427. The DHCP lease is renewed when due. -/
  | dhcpRenewal
  /-- R436. A PTP message disciplines TICK by rate. -/
  | ptpMessage (offset : PtpMsg)
  /-- R439. A flit failing its CRC is replayed. -/
  | flitReplay (die : DieId) (dir : Dir) (good : Bool)
  /-- R439. After 16 failed replays a link goes down and flows reroute. -/
  | linkDown (die : DieId) (dir : Dir)
  /-- R439. A retrained link comes back and flows reroute. -/
  | linkUp (die : DieId) (dir : Dir)
  /-- R441. A transaction unanswered within the timeout ends as tabled. -/
  | fabricTimeout (k : Nat)
  /-- R444. A port stops being usable and routes change. -/
  | ualinkPortDown (port : Fin 8)
  /-- R444. A port becomes usable again. -/
  | ualinkPortUp (port : Fin 8)
  /-- R446. A request from the pod is translated and performed or refused. -/
  | podRequest (req : PodReq)
  /-- R224. A pod reply or acknowledgement completes an ld.pod or st.pod. -/
  | podReply (k : Nat) (data : Option Word)
  /-- R449. Rank 0 receives a member's registration. -/
  | groupRegistration (reg : GroupReg)
  /-- R448. Rank 0's confirmation makes the group READY. -/
  | groupConfirm (die : DieId) (entry : EntryGen) (ok : Bool)
  /-- R447. A collective packet arrives, is combined, dropped or aborts. -/
  | collectivePacket (pkt : CollPkt)
  /-- R450. An ABORT message applies REMOTE to the generation. -/
  | abort (die : DieId) (handle : Gid) (gen : BitVec 32)
  /-- R450. A group transaction times out and the group aborts. -/
  | groupTimeout (die : DieId) (handle : BitVec 8)
  /-- R450. A lost port or die aborts the group with LOST. -/
  | memberLost (die : DieId) (handle : BitVec 8)
  /-- R470. Module reset repeats boot in full. -/
  | moduleReset
  /-- R453. A die verifies the image table and its images. -/
  | bootVerify (die : DieId) (report : BootReport)
  /-- R457. A link's authentication exchange is verified. -/
  | linkAuth (die : DieId) (dir : Dir) (result : LinkAuth)
  /-- R457. A link with no answer in 500 ms stays down. -/
  | linkAuthTimeout (die : DieId) (dir : Dir)
  /-- R458. After 2 s the remaining dies are excluded. -/
  | inclusionTimeout
  /-- R460. Sampling the monitors may raise a ring's guard-band. -/
  | ageSample (die : DieId) (ring : Fin 9) (slack : Nat)
  /-- R472. Above 100 °C the die stops dispatching new strands. -/
  | thermalAlert (die : DieId) (temp : Nat)
  /-- R472. Below 95 °C dispatch resumes. -/
  | thermalClear (die : DieId) (temps : List Nat)
  /-- R472. At 115 °C the module freezes and asserts THERMTRIP. -/
  | thermtrip (die : DieId) (temp : Nat)
  /-- R470. The FREEZE pin stops all clocks and asserts FROZEN. -/
  | freeze
  /-- R471. The test access port returns IDCODE. -/
  | tapIdcode
  /-- R471. The test access port selects BYPASS. -/
  | tapBypass
  /-- R471. While frozen, the IEEE 1687 network reads or writes internal state. -/
  | scanAccess (acc : ScanAcc)
  /-- R266. An mma's compute phase adds its last row: LOCK clears, RIDX becomes 0 and its flags are ORed into FLAGS. -/
  | mmaRetirement (die : DieId) (slot : SlotNo) (acc : AccReg)
  /-- R117. Issue of a reserved or all-zero or all-ones instruction word traps with ILLEGAL and has no other effect. -/
  | reservedEncoding (w : Word)
  /-- R87. A fetch of an instruction's first or second halfword faults, and the trap is taken with TVAL the failing halfword address. -/
  | instructionFetchFault (code : BitVec 8) (addr : Word)
  /-- R432. A host request with an undefined OP or a bad header is answered with BADOP or BADMSG and is not performed. -/
  | reservedOpRequest (req : HostReq)
  /-- R427. A DHCP reply from the server reaches die 4, which takes or keeps its IPv4 address under RFC 2131. -/
  | dhcpMessage (ip : BitVec 32)
  /-- R427. A router advertisement reaches die 4, which forms its IPv6 address by stateless autoconfiguration. -/
  | routerAdvertisement (ip : BitVec 128)
  /-- R436. While EN = 1, the slave clock sends its delay request of the chosen delay mechanism at its own interval. -/
  | ptpDelayRequest
  deriving DecidableEq, Repr

end Sys2Proof
end

