-- ==== Sys2Proof/WellFormed.lean ====
section
/-! DEFINITION. The codes of the operand kinds (R94 to R100, R109) and well-formedness: what an instruction's encoding, or an event's
message, demands beyond the types of its operands. -/

namespace Sys2Proof

/-- R96: SZ codes. -/
def Sz.code : Sz → Nat | .b => 0 | .h => 1 | .w => 2 | .d => 3
def Sz.ofCode : Nat → Sz | 0 => .b | 1 => .h | 2 => .w | _ => .d
/-- Size in bytes. -/
def Sz.bytes : Sz → Nat | .b => 1 | .h => 2 | .w => 4 | .d => 8

/-- R97: W codes. -/
def Wid.code : Wid → Nat | .w => 0 | .d => 1
def Wid.ofCode : Nat → Wid | 0 => .w | _ => .d
def Wid.bytes : Wid → Nat | .w => 4 | .d => 8

/-- R96: SCOPE codes; 5 to 7 are reserved. -/
def Scope.code : Scope → Nat | .strand => 0 | .ring => 1 | .die => 2 | .mask => 3 | .pod => 4
def Scope.ofCode? : Nat → Option Scope
  | 0 => some .strand | 1 => some .ring | 2 => some .die | 3 => some .mask | 4 => some .pod | _ => none

/-- R94: FMT codes. -/
def Fmt.code : Fmt → Nat | .f64 => 0 | .f32 => 1 | .f16 => 2 | .bf16 => 3
def Fmt.ofCode : Nat → Fmt | 0 => .f64 | 1 => .f32 | 2 => .f16 | _ => .bf16

/-- R94: the type codes of `fcvt`. -/
def CvtTy.code : CvtTy → Nat
  | .f64 => 0 | .f32 => 1 | .f16 => 2 | .bf16 => 3 | .i64 => 4 | .n64 => 5 | .i32 => 6 | .n32 => 7
def CvtTy.ofCode : Nat → CvtTy
  | 0 => .f64 | 1 => .f32 | 2 => .f16 | 3 => .bf16 | 4 => .i64 | 5 => .n64 | 6 => .i32 | _ => .n32
def CvtTy.isInt (t : CvtTy) : Bool := 4 ≤ t.code
/-- R94: equal codes and two integer codes are reserved. -/
def CvtTy.legal (dst src : CvtTy) : Bool := dst != src && !(dst.isInt && src.isInt)

/-- R94, R136: the rounding field; 5 and 6 are reserved. -/
def Rnd.code : Rnd → Nat | .rne => 0 | .rtz => 1 | .rup => 2 | .rdn => 3 | .rna => 4 | .dyn => 7
def Rnd.ofCode? : Nat → Option Rnd
  | 0 => some .rne | 1 => some .rtz | 2 => some .rup | 3 => some .rdn | 4 => some .rna | 7 => some .dyn | _ => none

/-- R42: the ET codes. -/
def ETy.code : ETy → Nat
  | .i8 => 0 | .i16 => 1 | .i32 => 2 | .i64 => 3 | .n8 => 4 | .n16 => 5 | .n32 => 6 | .n64 => 7
  | .i4 => 8 | .n4 => 9 | .f64 => 10 | .f32 => 11 | .f16 => 12 | .bf16 => 13 | .dxb8 => 14 | .dxb4 => 15
def ETy.ofCode : Nat → ETy
  | 0 => .i8 | 1 => .i16 | 2 => .i32 | 3 => .i64 | 4 => .n8 | 5 => .n16 | 6 => .n32 | 7 => .n64
  | 8 => .i4 | 9 => .n4 | 10 => .f64 | 11 => .f32 | 12 => .f16 | 13 => .bf16 | 14 => .dxb8 | _ => .dxb4

/-- R40: the TYPE codes. -/
def AccTy.code : AccTy → Nat | .f32 => 0 | .i32 => 1 | .f64 => 2 | .x => 3
def AccTy.ofCode : Nat → AccTy | 0 => .f32 | 1 => .i32 | 2 => .f64 | _ => .x

/-- R109: the KIND codes. -/
def OxKind.code : OxKind → Nat
  | .raw => 0 | .shape => 1 | .mat => 2 | .st => 3 | .pack => 4 | .geom => 5 | .qinit => 6 | .coll => 7
def OxKind.ofCode : Nat → OxKind
  | 0 => .raw | 1 => .shape | 2 => .mat | 3 => .st | 4 => .pack | 5 => .geom | 6 => .qinit | _ => .coll

/-- R100: the level codes of `cncl`; 5 to 7 are reserved. -/
def Level5.code : Level5 → Nat | .strand => 0 | .launch => 1 | .graph => 2 | .phase => 3 | .job => 4
def Level5.ofCode? : Nat → Option Level5
  | 0 => some .strand | 1 => some .launch | 2 => some .graph | 3 => some .phase | 4 => some .job | _ => none

/-- R426: endpoint numbers. -/
def EpKind.code : EpKind → Nat | .job => 0 | .mem => 1 | .ctl => 2 | .tel => 3 | .dbg => 4 | .age => 5

/-- The request is operation `op` of endpoint kind `k`, with a good header (R429, R431, R432). -/
def HostReq.isOp (r : HostReq) (k : EpKind) (op : Nat) : Bool :=
  r.ver == 1 && r.clean && r.ep.toNat == k.code && r.qp.kind == k && r.op.toNat == op && r.plen ≤ 4032

/-- R432: how many operations an endpoint kind defines; they are numbered from 1. -/
def EpKind.ops : EpKind → Nat | .job => 3 | .mem => 4 | .ctl => 5 | .tel => 2 | .dbg => 6 | .age => 2

/-- The request is some operation of R432 with a good header. -/
def HostReq.isAnyOp (r : HostReq) : Bool :=
  r.ver == 1 && r.clean && r.ep.toNat == r.qp.kind.code && 1 ≤ r.op.toNat && r.op.toNat ≤ r.qp.kind.ops && r.plen ≤ 4032

/-- R436: the device offset of PTPCTL. -/
def ptpctlOffset : Word := 0x138

/-- A pod write carries exactly its size in bytes. -/
def PodOp.dataOk : PodOp → Nat → Bool
  | .write data, n => data.length == n
  | .atomic .., n => n == 4 || n == 8
  | .read, _ => true

/-- R471: the DRAM access of the scan network is 8 bytes, aligned. -/
def ScanAcc.ok : ScanAcc → Bool
  | .memRead loc => loc % 8 == 0
  | .memWrite loc _ => loc % 8 == 0
  | _ => true


/-- Well-formedness of a row's operands: what the encoding or the message format demands beyond the
operands' types. -/
def Instr.WF : Instr → Prop
  | .sext d _ s => s ≠ .d
  | .zext d _ s => s ≠ .d
  | .cMov d a => d ≠ 0 ∨ a ≠ 0
  | .fcvt _ _ x y _ => CvtTy.legal x y = true
  | .vcvt _ _ s _ _ => s ≠ .dxb8 ∧ s ≠ .dxb4
  | .mzero _ t a => (t = .x ∨ a = 0)
  | .jobSubmit req => req.isOp .job 1 = true
  | .jobCancel req => req.isOp .job 2 = true
  | .jobRelease req => req.isOp .job 3 = true
  | .memOpen req => req.isOp .mem 1 = true
  | .memClose req => req.isOp .mem 2 = true
  | .memRead req => req.isOp .mem 3 = true
  | .memWrite req => req.isOp .mem 4 = true
  | .ctlRdreg req => req.isOp .ctl 1 = true
  | .ctlWrreg req => req.isOp .ctl 2 = true ∧ req.addr ≠ ptpctlOffset
  | .ptpctlWrite req => req.isOp .ctl 2 = true ∧ req.addr = ptpctlOffset
  | .ctlTlbinv req => req.isOp .ctl 3 = true
  | .ctlGfree req => req.isOp .ctl 4 = true
  | .ctlFreeze req => req.isOp .ctl 5 = true
  | .telRead req => req.isOp .tel 1 = true
  | .telSubscribe req => req.isOp .tel 2 = true
  | .dbgRead req => req.isOp .dbg 1 = true
  | .dbgWrite req => req.isOp .dbg 2 = true
  | .dbgHalt req => req.isOp .dbg 3 = true
  | .dbgResume req => req.isOp .dbg 4 = true
  | .dbgRddir req => req.isOp .dbg 5 = true
  | .dbgRdbfmt req => req.isOp .dbg 6 = true
  | .ageRead req => req.isOp .age 1 = true
  | .ageRetire req => req.isOp .age 2 = true
  | .podRequest req => (req.size = 1 ∨ req.size = 2 ∨ req.size = 4 ∨ req.size = 8) ∧ req.op.dataOk req.size = true
  | .scanAccess acc => acc.ok = true
  | .reservedOpRequest req => req.isAnyOp = false
  | _ => True

/-- The decision procedure of `Instr.WF`. -/
def Instr.wf (i : Instr) : Bool :=
  match i with
  | .sext d _ s => s != .d
  | .zext d _ s => s != .d
  | .cMov d a => d != 0 || a != 0
  | .fcvt _ _ x y _ => CvtTy.legal x y
  | .vcvt _ _ s _ _ => s != .dxb8 && s != .dxb4
  | .mzero _ t a => t == .x || a == 0
  | .jobSubmit req => req.isOp .job 1
  | .jobCancel req => req.isOp .job 2
  | .jobRelease req => req.isOp .job 3
  | .memOpen req => req.isOp .mem 1
  | .memClose req => req.isOp .mem 2
  | .memRead req => req.isOp .mem 3
  | .memWrite req => req.isOp .mem 4
  | .ctlRdreg req => req.isOp .ctl 1
  | .ctlWrreg req => req.isOp .ctl 2 && req.addr != ptpctlOffset
  | .ptpctlWrite req => req.isOp .ctl 2 && req.addr == ptpctlOffset
  | .ctlTlbinv req => req.isOp .ctl 3
  | .ctlGfree req => req.isOp .ctl 4
  | .ctlFreeze req => req.isOp .ctl 5
  | .telRead req => req.isOp .tel 1
  | .telSubscribe req => req.isOp .tel 2
  | .dbgRead req => req.isOp .dbg 1
  | .dbgWrite req => req.isOp .dbg 2
  | .dbgHalt req => req.isOp .dbg 3
  | .dbgResume req => req.isOp .dbg 4
  | .dbgRddir req => req.isOp .dbg 5
  | .dbgRdbfmt req => req.isOp .dbg 6
  | .ageRead req => req.isOp .age 1
  | .ageRetire req => req.isOp .age 2
  | .podRequest req => (req.size == 1 || req.size == 2 || req.size == 4 || req.size == 8) && req.op.dataOk req.size
  | .scanAccess acc => acc.ok
  | .reservedOpRequest req => !req.isAnyOp
  | _ => true

/-- The rows that the agenda may name: steps of an agent other than the instruction stream. The clearing of a
prediction table, a reserved word and a fetch fault are parts of a slot's own turn. -/
def Instr.isEvent (i : Instr) : Bool :=
  match i with
  | .dispatch _ => true
  | .preemption _ _ => true
  | .quantumExpiry _ _ => true
  | .park _ _ => true
  | .deepPark _ => true
  | .deepRetry _ => true
  | .wakeUp _ => true
  | .nackRetry _ _ => true
  | .bwaitPoll _ _ => true
  | .bwaitTimeout _ => true
  | .gformTimeout _ => true
  | .cancelStop _ => true
  | .lateMark _ _ => true
  | .lateTrap _ _ => true
  | .migrationArrival _ => true
  | .rillClaim _ => true
  | .chunkStart _ _ => true
  | .liveout _ => true
  | .oxw _ => true
  | .store _ => true
  | .squash _ => true
  | .chunkRestart _ _ => true
  | .commit _ => true
  | .commitListDrain _ _ => true
  | .rillRelease _ => true
  | .olderVersionLookup _ _ _ => true
  | .homeAtomic _ => true
  | .homeFeRequest _ => true
  | .homeQueueRequest _ => true
  | .homeBarrierRequest _ => true
  | .homeReply _ => true
  | .pendingStoreArrival _ => true
  | .collapse _ => true
  | .perf _ => true
  | .cack _ => true
  | .remoteReadRequest _ => true
  | .replicaFill _ => true
  | .evictionNotice _ _ => true
  | .epochEnd _ => true
  | .pageWalk _ _ _ => true
  | .tlbinvAck _ => true
  | .stripAccept _ => true
  | .stripLand _ => true
  | .landing _ => true
  | .gatherRequest _ => true
  | .foreignBatch _ => true
  | .rowActivation _ _ _ => true
  | .hotRowWindow _ => true
  | .hotRowHoldExpiry _ _ => true
  | .scrub _ => true
  | .uncorrectableError _ => true
  | .nodeHandoff _ => true
  | .batchOffer _ _ => true
  | .jobSubmit _ => true
  | .jobCancel _ => true
  | .jobRelease _ => true
  | .memOpen _ => true
  | .memClose _ => true
  | .memRead _ => true
  | .memWrite _ => true
  | .rdmaRead _ _ _ _ => true
  | .rdmaWrite _ _ _ _ => true
  | .ctlRdreg _ => true
  | .ctlWrreg _ => true
  | .ptpctlWrite _ => true
  | .ctlTlbinv _ => true
  | .ctlGfree _ => true
  | .ctlFreeze _ => true
  | .telRead _ => true
  | .telSubscribe _ => true
  | .telSample _ => true
  | .dbgRead _ => true
  | .dbgWrite _ => true
  | .dbgHalt _ => true
  | .dbgResume _ => true
  | .dbgRddir _ => true
  | .dbgRdbfmt _ => true
  | .ageRead _ => true
  | .ageRetire _ => true
  | .cmReq _ => true
  | .cmRtu _ => true
  | .cmDreq _ => true
  | .connectionBroken _ => true
  | .ecnNotification _ => true
  | .arpRequest _ => true
  | .neighbourSolicitation _ => true
  | .dhcpRenewal => true
  | .ptpMessage _ => true
  | .flitReplay _ _ _ => true
  | .linkDown _ _ => true
  | .linkUp _ _ => true
  | .fabricTimeout _ => true
  | .ualinkPortDown _ => true
  | .ualinkPortUp _ => true
  | .podRequest _ => true
  | .podReply _ _ => true
  | .groupRegistration _ => true
  | .groupConfirm _ _ _ => true
  | .collectivePacket _ => true
  | .abort _ _ _ => true
  | .groupTimeout _ _ => true
  | .memberLost _ _ => true
  | .moduleReset => true
  | .bootVerify _ _ => true
  | .linkAuth _ _ _ => true
  | .linkAuthTimeout _ _ => true
  | .inclusionTimeout => true
  | .ageSample _ _ _ => true
  | .thermalAlert _ _ => true
  | .thermalClear _ _ => true
  | .thermtrip _ _ => true
  | .freeze => true
  | .tapIdcode => true
  | .tapBypass => true
  | .scanAccess _ => true
  | .mmaRetirement _ _ _ => true
  | .reservedOpRequest _ => true
  | .dhcpMessage _ => true
  | .routerAdvertisement _ => true
  | .ptpDelayRequest => true
  | _ => false

end Sys2Proof
end

