-- ==== Sys2Proof/Decode.lean ====
section
/-! DEFINITION. The decoder, total on any bytes and rejecting by name, and after it the encoder
(R86 to R101, R117). A word is a natural number; fields are cut out of it with / and %. -/

namespace Sys2Proof

/-- Why a word is no instruction (R87 step 3, R92, R117). -/
inductive Reject where
  /-- The bytes end before the word does. -/
  | short
  /-- The all-zero halfword. -/
  | allZeros
  /-- The all-ones word. -/
  | allOnes
  /-- A reserved op4 or 16-bit function. -/
  | reserved16
  /-- A reserved MAJOR. -/
  | reservedMajor
  /-- A reserved function or code, a non-zero reserved bit, or a register field outside R91. -/
  | reservedField
  deriving DecidableEq, Repr

/-- The fields of a 32-bit word (R88): A, B, [21:16], MAJOR, D and F3. -/
structure Fields where
  a : Nat
  b : Nat
  f6 : Nat
  maj : Nat
  d : Nat
  f3 : Nat
  deriving DecidableEq, Repr

/-- R88: cutting a word into its fields. -/
def fieldsOf (w : Nat) : Fields :=
  ⟨w / 134217728 % 32, w / 4194304 % 32, w / 65536 % 64, w / 256 % 64, w / 8 % 32, w % 8⟩

/-- R88: the word of given fields; bits [15:14] are 0b11. -/
def Fields.word (f : Fields) : Nat :=
  f.a * 134217728 + f.b * 4194304 + f.f6 * 65536 + 49152 + f.maj * 256 + f.d * 8 + f.f3


/-- The instructions of MAJOR 0x00 (R93 to R100). -/
noncomputable def decMaj00 (f : Fields) : Option Instr :=
  if f.f6 = 0 ∧ f.f3 = 0 then some (Instr.add (Fin.ofNat 32 (f.d)) (Fin.ofNat 32 (f.a)) (Fin.ofNat 32 (f.b))) else
  if f.f6 = 0 ∧ f.f3 = 1 then some (Instr.sub (Fin.ofNat 32 (f.d)) (Fin.ofNat 32 (f.a)) (Fin.ofNat 32 (f.b))) else
  if f.f6 = 0 ∧ f.f3 = 2 then some (Instr.and (Fin.ofNat 32 (f.d)) (Fin.ofNat 32 (f.a)) (Fin.ofNat 32 (f.b))) else
  if f.f6 = 0 ∧ f.f3 = 3 then some (Instr.or (Fin.ofNat 32 (f.d)) (Fin.ofNat 32 (f.a)) (Fin.ofNat 32 (f.b))) else
  if f.f6 = 0 ∧ f.f3 = 4 then some (Instr.xor (Fin.ofNat 32 (f.d)) (Fin.ofNat 32 (f.a)) (Fin.ofNat 32 (f.b))) else
  if f.f6 = 0 ∧ f.f3 = 5 then some (Instr.shl (Fin.ofNat 32 (f.d)) (Fin.ofNat 32 (f.a)) (Fin.ofNat 32 (f.b))) else
  if f.f6 = 0 ∧ f.f3 = 6 then some (Instr.shr (Fin.ofNat 32 (f.d)) (Fin.ofNat 32 (f.a)) (Fin.ofNat 32 (f.b))) else
  if f.f6 = 0 ∧ f.f3 = 7 then some (Instr.sra (Fin.ofNat 32 (f.d)) (Fin.ofNat 32 (f.a)) (Fin.ofNat 32 (f.b))) else
  none

/-- The instructions of MAJOR 0x01 (R93 to R100). -/
noncomputable def decMaj01 (f : Fields) : Option Instr :=
  if f.f6 = 0 ∧ f.f3 = 0 then some (Instr.slt (Fin.ofNat 32 (f.d)) (Fin.ofNat 32 (f.a)) (Fin.ofNat 32 (f.b))) else
  if f.f6 = 0 ∧ f.f3 = 1 then some (Instr.sltn (Fin.ofNat 32 (f.d)) (Fin.ofNat 32 (f.a)) (Fin.ofNat 32 (f.b))) else
  if f.f6 = 0 ∧ f.f3 = 2 then some (Instr.min (Fin.ofNat 32 (f.d)) (Fin.ofNat 32 (f.a)) (Fin.ofNat 32 (f.b))) else
  if f.f6 = 0 ∧ f.f3 = 3 then some (Instr.max (Fin.ofNat 32 (f.d)) (Fin.ofNat 32 (f.a)) (Fin.ofNat 32 (f.b))) else
  if f.f6 = 0 ∧ f.f3 = 4 then some (Instr.minn (Fin.ofNat 32 (f.d)) (Fin.ofNat 32 (f.a)) (Fin.ofNat 32 (f.b))) else
  if f.f6 = 0 ∧ f.f3 = 5 then some (Instr.maxn (Fin.ofNat 32 (f.d)) (Fin.ofNat 32 (f.a)) (Fin.ofNat 32 (f.b))) else
  none

/-- The instructions of MAJOR 0x02 (R93 to R100). -/
noncomputable def decMaj02 (f : Fields) : Option Instr :=
  if f.f6 = 0 ∧ f.f3 = 0 then some (Instr.mul (Fin.ofNat 32 (f.d)) (Fin.ofNat 32 (f.a)) (Fin.ofNat 32 (f.b))) else
  if f.f6 = 0 ∧ f.f3 = 1 then some (Instr.mulh (Fin.ofNat 32 (f.d)) (Fin.ofNat 32 (f.a)) (Fin.ofNat 32 (f.b))) else
  if f.f6 = 0 ∧ f.f3 = 2 then some (Instr.mulhn (Fin.ofNat 32 (f.d)) (Fin.ofNat 32 (f.a)) (Fin.ofNat 32 (f.b))) else
  if f.f6 = 0 ∧ f.f3 = 3 then some (Instr.mulhin (Fin.ofNat 32 (f.d)) (Fin.ofNat 32 (f.a)) (Fin.ofNat 32 (f.b))) else
  if f.f6 = 0 ∧ f.f3 = 4 then some (Instr.div (Fin.ofNat 32 (f.d)) (Fin.ofNat 32 (f.a)) (Fin.ofNat 32 (f.b))) else
  if f.f6 = 0 ∧ f.f3 = 5 then some (Instr.divn (Fin.ofNat 32 (f.d)) (Fin.ofNat 32 (f.a)) (Fin.ofNat 32 (f.b))) else
  if f.f6 = 0 ∧ f.f3 = 6 then some (Instr.rem (Fin.ofNat 32 (f.d)) (Fin.ofNat 32 (f.a)) (Fin.ofNat 32 (f.b))) else
  if f.f6 = 0 ∧ f.f3 = 7 then some (Instr.remn (Fin.ofNat 32 (f.d)) (Fin.ofNat 32 (f.a)) (Fin.ofNat 32 (f.b))) else
  none

/-- The instructions of MAJOR 0x03 (R93 to R100). -/
noncomputable def decMaj03 (f : Fields) : Option Instr :=
  if f.b = 0 ∧ f.f6 = 0 ∧ f.f3 = 0 then some (Instr.clz (Fin.ofNat 32 (f.d)) (Fin.ofNat 32 (f.a))) else
  if f.b = 0 ∧ f.f6 = 0 ∧ f.f3 = 1 then some (Instr.ctz (Fin.ofNat 32 (f.d)) (Fin.ofNat 32 (f.a))) else
  if f.b = 0 ∧ f.f6 = 0 ∧ f.f3 = 2 then some (Instr.popc (Fin.ofNat 32 (f.d)) (Fin.ofNat 32 (f.a))) else
  if f.b = 0 ∧ f.f6 = 0 ∧ f.f3 = 3 then some (Instr.bswap (Fin.ofNat 32 (f.d)) (Fin.ofNat 32 (f.a))) else
  if f.b = 0 ∧ f.f6 / 4 = 0 ∧ f.f3 = 4 ∧ f.f6 % 4 ≠ 3 then some (Instr.sext (Fin.ofNat 32 (f.d)) (Fin.ofNat 32 (f.a)) (Sz.ofCode (f.f6 % 4))) else
  if f.b = 0 ∧ f.f6 / 4 = 0 ∧ f.f3 = 5 ∧ f.f6 % 4 ≠ 3 then some (Instr.zext (Fin.ofNat 32 (f.d)) (Fin.ofNat 32 (f.a)) (Sz.ofCode (f.f6 % 4))) else
  none

/-- The instructions of MAJOR 0x04 (R93 to R100). -/
noncomputable def decMaj04 (f : Fields) : Option Instr :=
  if f.f3 = 0 then some (Instr.addi (Fin.ofNat 32 (f.d)) (Fin.ofNat 32 (f.a)) (BitVec.ofNat 11 (f.b * 64 + f.f6))) else
  if f.f3 = 1 then some (Instr.andi (Fin.ofNat 32 (f.d)) (Fin.ofNat 32 (f.a)) (BitVec.ofNat 11 (f.b * 64 + f.f6))) else
  if f.f3 = 2 then some (Instr.ori (Fin.ofNat 32 (f.d)) (Fin.ofNat 32 (f.a)) (BitVec.ofNat 11 (f.b * 64 + f.f6))) else
  if f.f3 = 3 then some (Instr.xori (Fin.ofNat 32 (f.d)) (Fin.ofNat 32 (f.a)) (BitVec.ofNat 11 (f.b * 64 + f.f6))) else
  if f.f3 = 4 then some (Instr.slti (Fin.ofNat 32 (f.d)) (Fin.ofNat 32 (f.a)) (BitVec.ofNat 11 (f.b * 64 + f.f6))) else
  if f.f3 = 5 then some (Instr.sltni (Fin.ofNat 32 (f.d)) (Fin.ofNat 32 (f.a)) (BitVec.ofNat 11 (f.b * 64 + f.f6))) else
  none

/-- The instructions of MAJOR 0x05 (R93 to R100). -/
noncomputable def decMaj05 (f : Fields) : Option Instr :=
  if f.b = 0 ∧ f.f3 = 0 then some (Instr.shli (Fin.ofNat 32 (f.d)) (Fin.ofNat 32 (f.a)) (BitVec.ofNat 6 (f.f6))) else
  if f.b = 0 ∧ f.f3 = 1 then some (Instr.shri (Fin.ofNat 32 (f.d)) (Fin.ofNat 32 (f.a)) (BitVec.ofNat 6 (f.f6))) else
  if f.b = 0 ∧ f.f3 = 2 then some (Instr.srai (Fin.ofNat 32 (f.d)) (Fin.ofNat 32 (f.a)) (BitVec.ofNat 6 (f.f6))) else
  none

/-- The instructions of MAJOR 0x06 (R93 to R100). -/
noncomputable def decMaj06 (f : Fields) : Option Instr :=
  some (Instr.lui (Fin.ofNat 32 (f.d)) (BitVec.ofNat 19 (((f.a * 32 + f.b) * 64 + f.f6) * 8 + f.f3)))

/-- The instructions of MAJOR 0x07 (R93 to R100). -/
noncomputable def decMaj07 (f : Fields) : Option Instr :=
  some (Instr.pcadd (Fin.ofNat 32 (f.d)) (BitVec.ofNat 19 (((f.a * 32 + f.b) * 64 + f.f6) * 8 + f.f3)))

/-- The instructions of MAJOR 0x08 (R93 to R100). -/
noncomputable def decMaj08 (f : Fields) : Option Instr :=
  if f.f6 / 4 = 0 ∧ f.f3 = 0 then some (Instr.fadd (Fin.ofNat 32 (f.d)) (Fin.ofNat 32 (f.a)) (Fin.ofNat 32 (f.b)) (Fmt.ofCode (f.f6 % 4))) else
  if f.f6 / 4 = 0 ∧ f.f3 = 1 then some (Instr.fsub (Fin.ofNat 32 (f.d)) (Fin.ofNat 32 (f.a)) (Fin.ofNat 32 (f.b)) (Fmt.ofCode (f.f6 % 4))) else
  if f.f6 / 4 = 0 ∧ f.f3 = 2 then some (Instr.fmul (Fin.ofNat 32 (f.d)) (Fin.ofNat 32 (f.a)) (Fin.ofNat 32 (f.b)) (Fmt.ofCode (f.f6 % 4))) else
  if f.f6 / 4 = 0 ∧ f.f3 = 3 then some (Instr.fdiv (Fin.ofNat 32 (f.d)) (Fin.ofNat 32 (f.a)) (Fin.ofNat 32 (f.b)) (Fmt.ofCode (f.f6 % 4))) else
  if f.f6 / 4 = 0 ∧ f.f3 = 4 then some (Instr.fmin (Fin.ofNat 32 (f.d)) (Fin.ofNat 32 (f.a)) (Fin.ofNat 32 (f.b)) (Fmt.ofCode (f.f6 % 4))) else
  if f.f6 / 4 = 0 ∧ f.f3 = 5 then some (Instr.fmax (Fin.ofNat 32 (f.d)) (Fin.ofNat 32 (f.a)) (Fin.ofNat 32 (f.b)) (Fmt.ofCode (f.f6 % 4))) else
  if f.b = 0 ∧ f.f6 / 4 = 0 ∧ f.f3 = 6 then some (Instr.fsqrt (Fin.ofNat 32 (f.d)) (Fin.ofNat 32 (f.a)) (Fmt.ofCode (f.f6 % 4))) else
  none

/-- The instructions of MAJOR 0x09 (R93 to R100). -/
noncomputable def decMaj09 (f : Fields) : Option Instr :=
  if f.f6 / 4 = 0 ∧ f.f3 = 0 then some (Instr.fma (Fin.ofNat 32 (f.d)) (Fin.ofNat 32 (f.a)) (Fin.ofNat 32 (f.b)) (Fmt.ofCode (f.f6 % 4))) else
  if f.f6 / 4 = 0 ∧ f.f3 = 1 then some (Instr.fms (Fin.ofNat 32 (f.d)) (Fin.ofNat 32 (f.a)) (Fin.ofNat 32 (f.b)) (Fmt.ofCode (f.f6 % 4))) else
  if f.f6 / 4 = 0 ∧ f.f3 = 2 then some (Instr.feq (Fin.ofNat 32 (f.d)) (Fin.ofNat 32 (f.a)) (Fin.ofNat 32 (f.b)) (Fmt.ofCode (f.f6 % 4))) else
  if f.f6 / 4 = 0 ∧ f.f3 = 3 then some (Instr.flt (Fin.ofNat 32 (f.d)) (Fin.ofNat 32 (f.a)) (Fin.ofNat 32 (f.b)) (Fmt.ofCode (f.f6 % 4))) else
  if f.f6 / 4 = 0 ∧ f.f3 = 4 then some (Instr.fle (Fin.ofNat 32 (f.d)) (Fin.ofNat 32 (f.a)) (Fin.ofNat 32 (f.b)) (Fmt.ofCode (f.f6 % 4))) else
  if f.b = 0 ∧ f.f6 / 4 = 0 ∧ f.f3 = 5 then some (Instr.fclass (Fin.ofNat 32 (f.d)) (Fin.ofNat 32 (f.a)) (Fmt.ofCode (f.f6 % 4))) else
  none

/-- The instructions of MAJOR 0x0A (R93 to R100). -/
noncomputable def decMaj0A (f : Fields) : Option Instr :=
  if f.b = 0 ∧ CvtTy.legal (CvtTy.ofCode (f.f6 / 8)) (CvtTy.ofCode (f.f6 % 8)) = true then (Rnd.ofCode? (f.f3)).map fun r_ => Instr.fcvt (Fin.ofNat 32 (f.d)) (Fin.ofNat 32 (f.a)) (CvtTy.ofCode (f.f6 / 8)) (CvtTy.ofCode (f.f6 % 8)) r_ else
  none

/-- The instructions of MAJOR 0x0C (R93 to R100). -/
noncomputable def decMaj0C (f : Fields) : Option Instr :=
  if f.f3 = 0 then some (Instr.beq (Fin.ofNat 32 (f.a)) (Fin.ofNat 32 (f.b)) (BitVec.ofNat 11 (f.f6 * 32 + f.d))) else
  if f.f3 = 1 then some (Instr.bne (Fin.ofNat 32 (f.a)) (Fin.ofNat 32 (f.b)) (BitVec.ofNat 11 (f.f6 * 32 + f.d))) else
  if f.f3 = 2 then some (Instr.blt (Fin.ofNat 32 (f.a)) (Fin.ofNat 32 (f.b)) (BitVec.ofNat 11 (f.f6 * 32 + f.d))) else
  if f.f3 = 3 then some (Instr.bge (Fin.ofNat 32 (f.a)) (Fin.ofNat 32 (f.b)) (BitVec.ofNat 11 (f.f6 * 32 + f.d))) else
  if f.f3 = 4 then some (Instr.bltn (Fin.ofNat 32 (f.a)) (Fin.ofNat 32 (f.b)) (BitVec.ofNat 11 (f.f6 * 32 + f.d))) else
  if f.f3 = 5 then some (Instr.bgen (Fin.ofNat 32 (f.a)) (Fin.ofNat 32 (f.b)) (BitVec.ofNat 11 (f.f6 * 32 + f.d))) else
  none

/-- The instructions of MAJOR 0x0D (R93 to R100). -/
noncomputable def decMaj0D (f : Fields) : Option Instr :=
  some (Instr.jl (Fin.ofNat 32 (f.d)) (BitVec.ofNat 19 (((f.a * 32 + f.b) * 64 + f.f6) * 8 + f.f3)))

/-- The instructions of MAJOR 0x0E (R93 to R100). -/
noncomputable def decMaj0E (f : Fields) : Option Instr :=
  if f.f3 = 0 then some (Instr.jlr (Fin.ofNat 32 (f.d)) (Fin.ofNat 32 (f.a)) (BitVec.ofNat 11 (f.b * 64 + f.f6))) else
  none

/-- The instructions of MAJOR 0x0F (R93 to R100). -/
noncomputable def decMaj0F (f : Fields) : Option Instr :=
  if f.b = 0 ∧ f.f3 = 0 then some (Instr.fork (Fin.ofNat 32 (f.a)) (BitVec.ofNat 11 (f.f6 * 32 + f.d))) else
  if f.f3 = 1 then some (Instr.floop (Fin.ofNat 32 (f.a)) (Fin.ofNat 32 (f.b)) (BitVec.ofNat 11 (f.f6 * 32 + f.d))) else
  if f.a = 0 ∧ f.b = 0 ∧ f.f6 = 0 ∧ f.d = 0 ∧ f.f3 = 2 then some Instr.fhold else
  if f.a = 0 ∧ f.b = 0 ∧ f.f3 = 3 then some (Instr.fexit (BitVec.ofNat 11 (f.f6 * 32 + f.d))) else
  none

/-- The instructions of MAJOR 0x10 (R93 to R100). -/
noncomputable def decMaj10 (f : Fields) : Option Instr :=
  if f.f3 = 0 then some (Instr.ldB (Fin.ofNat 32 (f.d)) (Fin.ofNat 32 (f.a)) (BitVec.ofNat 11 (f.b * 64 + f.f6))) else
  if f.f3 = 1 then some (Instr.ldH (Fin.ofNat 32 (f.d)) (Fin.ofNat 32 (f.a)) (BitVec.ofNat 11 (f.b * 64 + f.f6))) else
  if f.f3 = 2 then some (Instr.ldW (Fin.ofNat 32 (f.d)) (Fin.ofNat 32 (f.a)) (BitVec.ofNat 11 (f.b * 64 + f.f6))) else
  if f.f3 = 3 then some (Instr.ldD (Fin.ofNat 32 (f.d)) (Fin.ofNat 32 (f.a)) (BitVec.ofNat 11 (f.b * 64 + f.f6))) else
  if f.f3 = 4 then some (Instr.ldBn (Fin.ofNat 32 (f.d)) (Fin.ofNat 32 (f.a)) (BitVec.ofNat 11 (f.b * 64 + f.f6))) else
  if f.f3 = 5 then some (Instr.ldHn (Fin.ofNat 32 (f.d)) (Fin.ofNat 32 (f.a)) (BitVec.ofNat 11 (f.b * 64 + f.f6))) else
  if f.f3 = 6 then some (Instr.ldWn (Fin.ofNat 32 (f.d)) (Fin.ofNat 32 (f.a)) (BitVec.ofNat 11 (f.b * 64 + f.f6))) else
  none

/-- The instructions of MAJOR 0x11 (R93 to R100). -/
noncomputable def decMaj11 (f : Fields) : Option Instr :=
  if f.f3 = 0 then some (Instr.stB (Fin.ofNat 32 (f.a)) (Fin.ofNat 32 (f.b)) (BitVec.ofNat 11 (f.f6 * 32 + f.d))) else
  if f.f3 = 1 then some (Instr.stH (Fin.ofNat 32 (f.a)) (Fin.ofNat 32 (f.b)) (BitVec.ofNat 11 (f.f6 * 32 + f.d))) else
  if f.f3 = 2 then some (Instr.stW (Fin.ofNat 32 (f.a)) (Fin.ofNat 32 (f.b)) (BitVec.ofNat 11 (f.f6 * 32 + f.d))) else
  if f.f3 = 3 then some (Instr.stD (Fin.ofNat 32 (f.a)) (Fin.ofNat 32 (f.b)) (BitVec.ofNat 11 (f.f6 * 32 + f.d))) else
  none

/-- The instructions of MAJOR 0x12 (R93 to R100). -/
noncomputable def decMaj12 (f : Fields) : Option Instr :=
  (Scope.ofCode? (f.f3)).map fun s_ => Instr.ldAcq (Fin.ofNat 32 (f.d)) (Fin.ofNat 32 (f.a)) (BitVec.ofNat 11 (f.b * 64 + f.f6)) s_

/-- The instructions of MAJOR 0x13 (R93 to R100). -/
noncomputable def decMaj13 (f : Fields) : Option Instr :=
  (Scope.ofCode? (f.f3)).map fun s_ => Instr.stRel (Fin.ofNat 32 (f.a)) (Fin.ofNat 32 (f.b)) (BitVec.ofNat 11 (f.f6 * 32 + f.d)) s_

/-- The instructions of MAJOR 0x14 (R93 to R100). -/
noncomputable def decMaj14 (f : Fields) : Option Instr :=
  if f.b = 0 ∧ f.f6 = 0 ∧ f.f3 = 0 then some (Instr.ldFe (Fin.ofNat 32 (f.d)) (Fin.ofNat 32 (f.a))) else
  if f.f6 = 0 ∧ f.d = 0 ∧ f.f3 = 1 then some (Instr.stFe (Fin.ofNat 32 (f.a)) (Fin.ofNat 32 (f.b))) else
  if f.b = 0 ∧ f.f6 = 0 ∧ f.f3 = 2 then some (Instr.ldFf (Fin.ofNat 32 (f.d)) (Fin.ofNat 32 (f.a))) else
  if f.b = 0 ∧ f.f6 = 0 ∧ f.d = 0 ∧ f.f3 = 3 then some (Instr.feSet (Fin.ofNat 32 (f.a))) else
  if f.b = 0 ∧ f.f6 = 0 ∧ f.d = 0 ∧ f.f3 = 4 then some (Instr.feClr (Fin.ofNat 32 (f.a))) else
  none

/-- The instructions of MAJOR 0x15 (R93 to R100). -/
noncomputable def decMaj15 (f : Fields) : Option Instr :=
  if f.f6 / 4 = 0 ∧ f.f3 = 0 then some (Instr.ldPod (Fin.ofNat 32 (f.d)) (Fin.ofNat 32 (f.a)) (Fin.ofNat 32 (f.b)) (Sz.ofCode (f.f6 % 4))) else
  if f.f6 / 4 = 0 ∧ f.f3 = 1 then some (Instr.stPod (Fin.ofNat 32 (f.d)) (Fin.ofNat 32 (f.a)) (Fin.ofNat 32 (f.b)) (Sz.ofCode (f.f6 % 4))) else
  none

/-- The instructions of MAJOR 0x18 (R93 to R100). -/
noncomputable def decMaj18 (f : Fields) : Option Instr :=
  if f.b = 0 ∧ f.f6 / 2 = 0 ∧ f.f3 = 0 then some (Instr.lr (Fin.ofNat 32 (f.d)) (Fin.ofNat 32 (f.a)) (Wid.ofCode (f.f6 % 2))) else
  if f.f6 / 2 = 0 ∧ f.f3 = 1 then some (Instr.sc (Fin.ofNat 32 (f.d)) (Fin.ofNat 32 (f.a)) (Fin.ofNat 32 (f.b)) (Wid.ofCode (f.f6 % 2))) else
  if f.f6 / 2 = 0 ∧ f.f3 = 2 then some (Instr.cas (Fin.ofNat 32 (f.d)) (Fin.ofNat 32 (f.a)) (Fin.ofNat 32 (f.b)) (Wid.ofCode (f.f6 % 2))) else
  none

/-- The instructions of MAJOR 0x19 (R93 to R100). -/
noncomputable def decMaj19 (f : Fields) : Option Instr :=
  if f.f6 % 16 = 0 ∧ f.f6 / 32 = 0 ∧ f.f3 = 0 then some (Instr.amoAdd (Fin.ofNat 32 (f.d)) (Fin.ofNat 32 (f.a)) (Fin.ofNat 32 (f.b)) (Wid.ofCode (f.f6 / 16 % 2))) else
  if f.f6 % 16 = 1 ∧ f.f6 / 32 = 0 ∧ f.f3 = 0 then some (Instr.amoAnd (Fin.ofNat 32 (f.d)) (Fin.ofNat 32 (f.a)) (Fin.ofNat 32 (f.b)) (Wid.ofCode (f.f6 / 16 % 2))) else
  if f.f6 % 16 = 2 ∧ f.f6 / 32 = 0 ∧ f.f3 = 0 then some (Instr.amoOr (Fin.ofNat 32 (f.d)) (Fin.ofNat 32 (f.a)) (Fin.ofNat 32 (f.b)) (Wid.ofCode (f.f6 / 16 % 2))) else
  if f.f6 % 16 = 3 ∧ f.f6 / 32 = 0 ∧ f.f3 = 0 then some (Instr.amoXor (Fin.ofNat 32 (f.d)) (Fin.ofNat 32 (f.a)) (Fin.ofNat 32 (f.b)) (Wid.ofCode (f.f6 / 16 % 2))) else
  if f.f6 % 16 = 4 ∧ f.f6 / 32 = 0 ∧ f.f3 = 0 then some (Instr.amoMin (Fin.ofNat 32 (f.d)) (Fin.ofNat 32 (f.a)) (Fin.ofNat 32 (f.b)) (Wid.ofCode (f.f6 / 16 % 2))) else
  if f.f6 % 16 = 5 ∧ f.f6 / 32 = 0 ∧ f.f3 = 0 then some (Instr.amoMax (Fin.ofNat 32 (f.d)) (Fin.ofNat 32 (f.a)) (Fin.ofNat 32 (f.b)) (Wid.ofCode (f.f6 / 16 % 2))) else
  if f.f6 % 16 = 6 ∧ f.f6 / 32 = 0 ∧ f.f3 = 0 then some (Instr.amoMinn (Fin.ofNat 32 (f.d)) (Fin.ofNat 32 (f.a)) (Fin.ofNat 32 (f.b)) (Wid.ofCode (f.f6 / 16 % 2))) else
  if f.f6 % 16 = 7 ∧ f.f6 / 32 = 0 ∧ f.f3 = 0 then some (Instr.amoMaxn (Fin.ofNat 32 (f.d)) (Fin.ofNat 32 (f.a)) (Fin.ofNat 32 (f.b)) (Wid.ofCode (f.f6 / 16 % 2))) else
  if f.f6 % 16 = 8 ∧ f.f6 / 32 = 0 ∧ f.f3 = 0 then some (Instr.amoSwap (Fin.ofNat 32 (f.d)) (Fin.ofNat 32 (f.a)) (Fin.ofNat 32 (f.b)) (Wid.ofCode (f.f6 / 16 % 2))) else
  if f.f6 % 16 = 9 ∧ f.f6 / 32 = 0 ∧ f.f3 = 0 then some (Instr.amoFadd (Fin.ofNat 32 (f.d)) (Fin.ofNat 32 (f.a)) (Fin.ofNat 32 (f.b)) (Wid.ofCode (f.f6 / 16 % 2))) else
  if f.f6 % 16 = 0 ∧ f.f6 / 32 = 0 ∧ f.d = 0 ∧ f.f3 = 1 then some (Instr.rredAdd (Fin.ofNat 32 (f.a)) (Fin.ofNat 32 (f.b)) (Wid.ofCode (f.f6 / 16 % 2))) else
  if f.f6 % 16 = 1 ∧ f.f6 / 32 = 0 ∧ f.d = 0 ∧ f.f3 = 1 then some (Instr.rredAnd (Fin.ofNat 32 (f.a)) (Fin.ofNat 32 (f.b)) (Wid.ofCode (f.f6 / 16 % 2))) else
  if f.f6 % 16 = 2 ∧ f.f6 / 32 = 0 ∧ f.d = 0 ∧ f.f3 = 1 then some (Instr.rredOr (Fin.ofNat 32 (f.a)) (Fin.ofNat 32 (f.b)) (Wid.ofCode (f.f6 / 16 % 2))) else
  if f.f6 % 16 = 3 ∧ f.f6 / 32 = 0 ∧ f.d = 0 ∧ f.f3 = 1 then some (Instr.rredXor (Fin.ofNat 32 (f.a)) (Fin.ofNat 32 (f.b)) (Wid.ofCode (f.f6 / 16 % 2))) else
  if f.f6 % 16 = 4 ∧ f.f6 / 32 = 0 ∧ f.d = 0 ∧ f.f3 = 1 then some (Instr.rredMin (Fin.ofNat 32 (f.a)) (Fin.ofNat 32 (f.b)) (Wid.ofCode (f.f6 / 16 % 2))) else
  if f.f6 % 16 = 5 ∧ f.f6 / 32 = 0 ∧ f.d = 0 ∧ f.f3 = 1 then some (Instr.rredMax (Fin.ofNat 32 (f.a)) (Fin.ofNat 32 (f.b)) (Wid.ofCode (f.f6 / 16 % 2))) else
  if f.f6 % 16 = 6 ∧ f.f6 / 32 = 0 ∧ f.d = 0 ∧ f.f3 = 1 then some (Instr.rredMinn (Fin.ofNat 32 (f.a)) (Fin.ofNat 32 (f.b)) (Wid.ofCode (f.f6 / 16 % 2))) else
  if f.f6 % 16 = 7 ∧ f.f6 / 32 = 0 ∧ f.d = 0 ∧ f.f3 = 1 then some (Instr.rredMaxn (Fin.ofNat 32 (f.a)) (Fin.ofNat 32 (f.b)) (Wid.ofCode (f.f6 / 16 % 2))) else
  if f.f6 % 16 = 9 ∧ f.f6 / 32 = 0 ∧ f.d = 0 ∧ f.f3 = 1 then some (Instr.rredFadd (Fin.ofNat 32 (f.a)) (Fin.ofNat 32 (f.b)) (Wid.ofCode (f.f6 / 16 % 2))) else
  none

/-- The instructions of MAJOR 0x1A (R93 to R100). -/
noncomputable def decMaj1A (f : Fields) : Option Instr :=
  if f.a = 0 ∧ f.b = 0 ∧ f.f6 / 8 = 0 ∧ f.d = 0 ∧ f.f3 = 0 then (Scope.ofCode? (f.f6 % 8)).map fun s_ => Instr.fence s_ else
  if f.a = 0 ∧ f.b = 0 ∧ f.f6 = 0 ∧ f.d = 0 ∧ f.f3 = 1 then some Instr.wres else
  none

/-- The instructions of MAJOR 0x1B (R93 to R100). -/
noncomputable def decMaj1B (f : Fields) : Option Instr :=
  if f.f6 = 0 ∧ f.d = 0 ∧ f.f3 = 0 then some (Instr.binit (Fin.ofNat 32 (f.a)) (Fin.ofNat 32 (f.b))) else
  if f.f6 = 0 ∧ f.d = 0 ∧ f.f3 = 1 then some (Instr.bpost (Fin.ofNat 32 (f.a)) (Fin.ofNat 32 (f.b))) else
  if f.b = 0 ∧ f.f6 = 0 ∧ f.d = 0 ∧ f.f3 = 2 then some (Instr.barr (Fin.ofNat 32 (f.a))) else
  if f.f6 = 0 ∧ f.f3 = 3 then some (Instr.bwait (Fin.ofNat 32 (f.d)) (Fin.ofNat 32 (f.a)) (Fin.ofNat 32 (f.b))) else
  none

/-- The instructions of MAJOR 0x1C (R93 to R100). -/
noncomputable def decMaj1C (f : Fields) : Option Instr :=
  if f.f6 = 0 ∧ f.d = 0 ∧ f.f3 = 0 then some (Instr.qput (Fin.ofNat 32 (f.a)) (Fin.ofNat 32 (f.b))) else
  if f.f6 = 1 ∧ f.f3 = 0 then some (Instr.qputNb (Fin.ofNat 32 (f.d)) (Fin.ofNat 32 (f.a)) (Fin.ofNat 32 (f.b))) else
  if f.b = 0 ∧ f.f6 = 0 ∧ f.f3 = 1 then some (Instr.qget (Fin.ofNat 32 (f.d)) (Fin.ofNat 32 (f.a))) else
  if f.f6 = 1 ∧ f.f3 = 1 then some (Instr.qgetNb (Fin.ofNat 32 (f.d)) (Fin.ofNat 32 (f.a)) (Fin.ofNat 32 (f.b))) else
  if f.b = 0 ∧ f.f6 = 0 ∧ f.f3 = 2 then some (Instr.qputv (Fin.ofNat 32 (f.d)) (Fin.ofNat 32 (f.a))) else
  if f.f6 = 1 ∧ f.f3 = 2 then some (Instr.qputvNb (Fin.ofNat 32 (f.d)) (Fin.ofNat 32 (f.a)) (Fin.ofNat 32 (f.b))) else
  if f.b = 0 ∧ f.f6 = 0 ∧ f.f3 = 3 then some (Instr.qgetv (Fin.ofNat 32 (f.d)) (Fin.ofNat 32 (f.a))) else
  if f.f6 = 1 ∧ f.f3 = 3 then some (Instr.qgetvNb (Fin.ofNat 32 (f.d)) (Fin.ofNat 32 (f.a)) (Fin.ofNat 32 (f.b))) else
  if f.b = 0 ∧ f.f6 = 0 ∧ f.f3 = 4 then some (Instr.qstat (Fin.ofNat 32 (f.d)) (Fin.ofNat 32 (f.a))) else
  if f.f6 / 8 = 0 ∧ f.d = 0 ∧ f.f3 = 5 then some (Instr.qinit (Fin.ofNat 32 (f.a)) (Fin.ofNat 32 (f.b)) (Fin.ofNat 8 (f.f6 % 8))) else
  none

/-- The instructions of MAJOR 0x1D (R93 to R100). -/
noncomputable def decMaj1D (f : Fields) : Option Instr :=
  if f.f6 / 8 = 0 ∧ f.f3 = 0 then some (Instr.cpIn (Fin.ofNat 32 (f.d)) (Fin.ofNat 32 (f.a)) (Fin.ofNat 32 (f.b)) (Fin.ofNat 8 (f.f6 % 8))) else
  if f.f6 / 8 = 0 ∧ f.f3 = 1 then some (Instr.cpOut (Fin.ofNat 32 (f.d)) (Fin.ofNat 32 (f.a)) (Fin.ofNat 32 (f.b)) (Fin.ofNat 8 (f.f6 % 8))) else
  if f.f6 / 8 = 0 ∧ f.f3 = 2 then some (Instr.cpTt (Fin.ofNat 32 (f.d)) (Fin.ofNat 32 (f.a)) (Fin.ofNat 32 (f.b)) (Fin.ofNat 8 (f.f6 % 8))) else
  if f.f3 = 3 then some (Instr.gx (Fin.ofNat 32 (f.d)) (Fin.ofNat 32 (f.a)) (Fin.ofNat 32 (f.b)) (Wid.ofCode (f.f6 / 32)) (Sz.ofCode (f.f6 / 8 % 4)) (Fin.ofNat 8 (f.f6 % 8))) else
  none

/-- The instructions of MAJOR 0x1E (R93 to R100). -/
noncomputable def decMaj1E (f : Fields) : Option Instr :=
  if f.b = 0 ∧ f.f6 / 4 = 1 ∧ f.d = 0 ∧ f.f3 = 0 then some (Instr.rdegPin (Fin.ofNat 32 (f.a)) (BitVec.ofNat 2 (f.f6 % 4))) else
  if f.b = 0 ∧ f.f6 / 4 = 0 ∧ f.d = 0 ∧ f.f3 = 0 then some (Instr.rdegAuto (Fin.ofNat 32 (f.a)) (BitVec.ofNat 2 (f.f6 % 4))) else
  if f.f6 = 0 ∧ f.d = 0 ∧ f.f3 = 1 then some (Instr.rpref (Fin.ofNat 32 (f.a)) (Fin.ofNat 32 (f.b))) else
  none

/-- The instructions of MAJOR 0x1F (R93 to R100). -/
noncomputable def decMaj1F (f : Fields) : Option Instr :=
  if f.f6 = 0 ∧ f.f3 = 0 then some (Instr.gform (Fin.ofNat 32 (f.d)) (Fin.ofNat 32 (f.a)) (Fin.ofNat 32 (f.b))) else
  if f.b = 0 ∧ f.f6 = 0 ∧ f.f3 = 1 then some (Instr.gstat (Fin.ofNat 32 (f.d)) (Fin.ofNat 32 (f.a))) else
  if f.f6 / 8 = 0 ∧ f.f3 = 2 then some (Instr.coll (Fin.ofNat 32 (f.d)) (Fin.ofNat 32 (f.a)) (Fin.ofNat 32 (f.b)) (Fin.ofNat 8 (f.f6 % 8))) else
  if f.b = 0 ∧ f.f6 = 0 ∧ f.d = 0 ∧ f.f3 = 3 then some (Instr.cabort (Fin.ofNat 32 (f.a))) else
  none

/-- The instructions of MAJOR 0x20 (R93 to R100). -/
noncomputable def decMaj20 (f : Fields) : Option Instr :=
  if f.b = 0 ∧ f.f6 = 0 ∧ f.f3 = 0 then some (Instr.setvl (Fin.ofNat 32 (f.d)) (Fin.ofNat 32 (f.a))) else
  if f.a = 0 ∧ f.b = 0 ∧ f.d = 0 ∧ f.f3 = 1 then some (Instr.setspanImm (BitVec.ofNat 2 (f.f6 / 16)) (ETy.ofCode (f.f6 % 16))) else
  if f.b = 0 ∧ f.f6 = 0 ∧ f.d = 0 ∧ f.f3 = 2 then some (Instr.setspanReg (Fin.ofNat 32 (f.a))) else
  if f.b = 0 ∧ f.d = 0 ∧ f.f3 = 3 then some (Instr.oxl (Fin.ofNat 32 (f.a)) (OxKind.ofCode (f.f6 / 8)) (Fin.ofNat 8 (f.f6 % 8))) else
  if f.b = 0 ∧ f.f6 / 8 = 0 ∧ f.d = 0 ∧ f.f3 = 4 then some (Instr.oxs (Fin.ofNat 32 (f.a)) (Fin.ofNat 8 (f.f6 % 8))) else
  if f.b = 0 ∧ f.d = 0 ∧ f.f3 = 5 then some (Instr.oxr (Fin.ofNat 32 (f.a)) (OxKind.ofCode (f.f6 / 8)) (Fin.ofNat 8 (f.f6 % 8))) else
  none

/-- The instructions of MAJOR 0x21 (R93 to R100). -/
noncomputable def decMaj21 (f : Fields) : Option Instr :=
  if f.b = 0 ∧ f.f6 % 8 = 0 ∧ f.f3 = 0 then some (Instr.vld (Fin.ofNat 32 (f.d)) (Fin.ofNat 32 (f.a)) (Fin.ofNat 8 (f.f6 / 8))) else
  if f.f6 % 8 = 0 ∧ f.f3 = 1 then some (Instr.vlds (Fin.ofNat 32 (f.d)) (Fin.ofNat 32 (f.a)) (Fin.ofNat 32 (f.b)) (Fin.ofNat 8 (f.f6 / 8))) else
  if f.f6 % 8 = 0 ∧ f.f3 = 2 then some (Instr.vldx (Fin.ofNat 32 (f.d)) (Fin.ofNat 32 (f.a)) (Fin.ofNat 32 (f.b)) (Fin.ofNat 8 (f.f6 / 8))) else
  if f.f6 % 8 = 1 ∧ f.f3 = 2 then some (Instr.vldxOi (Fin.ofNat 32 (f.d)) (Fin.ofNat 32 (f.a)) (Fin.ofNat 32 (f.b)) (Fin.ofNat 8 (f.f6 / 8))) else
  if f.b = 0 ∧ f.f6 % 8 = 0 ∧ f.f3 = 3 then some (Instr.vst (Fin.ofNat 32 (f.d)) (Fin.ofNat 32 (f.a)) (Fin.ofNat 8 (f.f6 / 8))) else
  if f.f6 % 8 = 0 ∧ f.f3 = 4 then some (Instr.vsts (Fin.ofNat 32 (f.d)) (Fin.ofNat 32 (f.a)) (Fin.ofNat 32 (f.b)) (Fin.ofNat 8 (f.f6 / 8))) else
  if f.f6 % 8 = 0 ∧ f.f3 = 5 then some (Instr.vstx (Fin.ofNat 32 (f.d)) (Fin.ofNat 32 (f.a)) (Fin.ofNat 32 (f.b)) (Fin.ofNat 8 (f.f6 / 8))) else
  if f.f6 % 8 = 1 ∧ f.f3 = 5 then some (Instr.vstxOi (Fin.ofNat 32 (f.d)) (Fin.ofNat 32 (f.a)) (Fin.ofNat 32 (f.b)) (Fin.ofNat 8 (f.f6 / 8))) else
  if f.b = 0 ∧ f.f6 % 8 = 0 ∧ f.f3 = 6 then some (Instr.vappend (Fin.ofNat 32 (f.d)) (Fin.ofNat 32 (f.a)) (Fin.ofNat 8 (f.f6 / 8))) else
  none

/-- The instructions of MAJOR 0x22 (R93 to R100). -/
noncomputable def decMaj22 (f : Fields) : Option Instr :=
  if f.f6 % 8 = 0 ∧ f.f3 = 0 then some (Instr.vadd (Fin.ofNat 32 (f.d)) (Fin.ofNat 32 (f.a)) (Fin.ofNat 32 (f.b)) (Fin.ofNat 8 (f.f6 / 8))) else
  if f.f6 % 8 = 0 ∧ f.f3 = 1 then some (Instr.vsub (Fin.ofNat 32 (f.d)) (Fin.ofNat 32 (f.a)) (Fin.ofNat 32 (f.b)) (Fin.ofNat 8 (f.f6 / 8))) else
  if f.f6 % 8 = 0 ∧ f.f3 = 2 then some (Instr.vmul (Fin.ofNat 32 (f.d)) (Fin.ofNat 32 (f.a)) (Fin.ofNat 32 (f.b)) (Fin.ofNat 8 (f.f6 / 8))) else
  if f.f6 % 8 = 0 ∧ f.f3 = 3 then some (Instr.vmulh (Fin.ofNat 32 (f.d)) (Fin.ofNat 32 (f.a)) (Fin.ofNat 32 (f.b)) (Fin.ofNat 8 (f.f6 / 8))) else
  if f.f6 % 8 = 0 ∧ f.f3 = 4 then some (Instr.vmin (Fin.ofNat 32 (f.d)) (Fin.ofNat 32 (f.a)) (Fin.ofNat 32 (f.b)) (Fin.ofNat 8 (f.f6 / 8))) else
  if f.f6 % 8 = 0 ∧ f.f3 = 5 then some (Instr.vmax (Fin.ofNat 32 (f.d)) (Fin.ofNat 32 (f.a)) (Fin.ofNat 32 (f.b)) (Fin.ofNat 8 (f.f6 / 8))) else
  if f.f6 % 8 = 0 ∧ f.f3 = 6 then some (Instr.vand (Fin.ofNat 32 (f.d)) (Fin.ofNat 32 (f.a)) (Fin.ofNat 32 (f.b)) (Fin.ofNat 8 (f.f6 / 8))) else
  if f.f6 % 8 = 0 ∧ f.f3 = 7 then some (Instr.vor (Fin.ofNat 32 (f.d)) (Fin.ofNat 32 (f.a)) (Fin.ofNat 32 (f.b)) (Fin.ofNat 8 (f.f6 / 8))) else
  if f.f6 % 8 = 1 ∧ f.f3 = 0 then some (Instr.vxor (Fin.ofNat 32 (f.d)) (Fin.ofNat 32 (f.a)) (Fin.ofNat 32 (f.b)) (Fin.ofNat 8 (f.f6 / 8))) else
  if f.f6 % 8 = 1 ∧ f.f3 = 1 then some (Instr.vshl (Fin.ofNat 32 (f.d)) (Fin.ofNat 32 (f.a)) (Fin.ofNat 32 (f.b)) (Fin.ofNat 8 (f.f6 / 8))) else
  if f.f6 % 8 = 1 ∧ f.f3 = 2 then some (Instr.vshr (Fin.ofNat 32 (f.d)) (Fin.ofNat 32 (f.a)) (Fin.ofNat 32 (f.b)) (Fin.ofNat 8 (f.f6 / 8))) else
  if f.f6 % 8 = 1 ∧ f.f3 = 3 then some (Instr.vsra (Fin.ofNat 32 (f.d)) (Fin.ofNat 32 (f.a)) (Fin.ofNat 32 (f.b)) (Fin.ofNat 8 (f.f6 / 8))) else
  if f.f6 % 8 = 1 ∧ f.f3 = 5 then some (Instr.vsel (Fin.ofNat 32 (f.d)) (Fin.ofNat 32 (f.a)) (Fin.ofNat 32 (f.b)) (Fin.ofNat 8 (f.f6 / 8))) else
  if f.b = 0 ∧ f.f6 % 8 = 1 ∧ f.f3 = 6 then some (Instr.vabs (Fin.ofNat 32 (f.d)) (Fin.ofNat 32 (f.a)) (Fin.ofNat 8 (f.f6 / 8))) else
  if f.b = 0 ∧ f.f6 % 8 = 1 ∧ f.f3 = 7 then some (Instr.vneg (Fin.ofNat 32 (f.d)) (Fin.ofNat 32 (f.a)) (Fin.ofNat 8 (f.f6 / 8))) else
  if f.f6 % 8 = 2 ∧ f.d / 8 = 0 ∧ f.f3 = 0 then some (Instr.vcmpEq (Fin.ofNat 8 (f.d % 8)) (Fin.ofNat 32 (f.a)) (Fin.ofNat 32 (f.b)) (Fin.ofNat 8 (f.f6 / 8))) else
  if f.f6 % 8 = 2 ∧ f.d / 8 = 0 ∧ f.f3 = 1 then some (Instr.vcmpNe (Fin.ofNat 8 (f.d % 8)) (Fin.ofNat 32 (f.a)) (Fin.ofNat 32 (f.b)) (Fin.ofNat 8 (f.f6 / 8))) else
  if f.f6 % 8 = 2 ∧ f.d / 8 = 0 ∧ f.f3 = 2 then some (Instr.vcmpLt (Fin.ofNat 8 (f.d % 8)) (Fin.ofNat 32 (f.a)) (Fin.ofNat 32 (f.b)) (Fin.ofNat 8 (f.f6 / 8))) else
  if f.f6 % 8 = 2 ∧ f.d / 8 = 0 ∧ f.f3 = 3 then some (Instr.vcmpLe (Fin.ofNat 8 (f.d % 8)) (Fin.ofNat 32 (f.a)) (Fin.ofNat 32 (f.b)) (Fin.ofNat 8 (f.f6 / 8))) else
  if f.f6 % 8 = 2 ∧ f.d / 8 = 0 ∧ f.f3 = 4 then some (Instr.vcmpGt (Fin.ofNat 8 (f.d % 8)) (Fin.ofNat 32 (f.a)) (Fin.ofNat 32 (f.b)) (Fin.ofNat 8 (f.f6 / 8))) else
  if f.f6 % 8 = 2 ∧ f.d / 8 = 0 ∧ f.f3 = 5 then some (Instr.vcmpGe (Fin.ofNat 8 (f.d % 8)) (Fin.ofNat 32 (f.a)) (Fin.ofNat 32 (f.b)) (Fin.ofNat 8 (f.f6 / 8))) else
  none

/-- The instructions of MAJOR 0x23 (R93 to R100). -/
noncomputable def decMaj23 (f : Fields) : Option Instr :=
  if f.f6 % 8 = 0 ∧ f.f3 = 0 then some (Instr.vaddVs (Fin.ofNat 32 (f.d)) (Fin.ofNat 32 (f.a)) (Fin.ofNat 32 (f.b)) (Fin.ofNat 8 (f.f6 / 8))) else
  if f.f6 % 8 = 0 ∧ f.f3 = 1 then some (Instr.vsubVs (Fin.ofNat 32 (f.d)) (Fin.ofNat 32 (f.a)) (Fin.ofNat 32 (f.b)) (Fin.ofNat 8 (f.f6 / 8))) else
  if f.f6 % 8 = 0 ∧ f.f3 = 2 then some (Instr.vmulVs (Fin.ofNat 32 (f.d)) (Fin.ofNat 32 (f.a)) (Fin.ofNat 32 (f.b)) (Fin.ofNat 8 (f.f6 / 8))) else
  if f.f6 % 8 = 0 ∧ f.f3 = 3 then some (Instr.vmulhVs (Fin.ofNat 32 (f.d)) (Fin.ofNat 32 (f.a)) (Fin.ofNat 32 (f.b)) (Fin.ofNat 8 (f.f6 / 8))) else
  if f.f6 % 8 = 0 ∧ f.f3 = 4 then some (Instr.vminVs (Fin.ofNat 32 (f.d)) (Fin.ofNat 32 (f.a)) (Fin.ofNat 32 (f.b)) (Fin.ofNat 8 (f.f6 / 8))) else
  if f.f6 % 8 = 0 ∧ f.f3 = 5 then some (Instr.vmaxVs (Fin.ofNat 32 (f.d)) (Fin.ofNat 32 (f.a)) (Fin.ofNat 32 (f.b)) (Fin.ofNat 8 (f.f6 / 8))) else
  if f.f6 % 8 = 0 ∧ f.f3 = 6 then some (Instr.vandVs (Fin.ofNat 32 (f.d)) (Fin.ofNat 32 (f.a)) (Fin.ofNat 32 (f.b)) (Fin.ofNat 8 (f.f6 / 8))) else
  if f.f6 % 8 = 0 ∧ f.f3 = 7 then some (Instr.vorVs (Fin.ofNat 32 (f.d)) (Fin.ofNat 32 (f.a)) (Fin.ofNat 32 (f.b)) (Fin.ofNat 8 (f.f6 / 8))) else
  if f.f6 % 8 = 1 ∧ f.f3 = 0 then some (Instr.vxorVs (Fin.ofNat 32 (f.d)) (Fin.ofNat 32 (f.a)) (Fin.ofNat 32 (f.b)) (Fin.ofNat 8 (f.f6 / 8))) else
  if f.f6 % 8 = 1 ∧ f.f3 = 1 then some (Instr.vshlVs (Fin.ofNat 32 (f.d)) (Fin.ofNat 32 (f.a)) (Fin.ofNat 32 (f.b)) (Fin.ofNat 8 (f.f6 / 8))) else
  if f.f6 % 8 = 1 ∧ f.f3 = 2 then some (Instr.vshrVs (Fin.ofNat 32 (f.d)) (Fin.ofNat 32 (f.a)) (Fin.ofNat 32 (f.b)) (Fin.ofNat 8 (f.f6 / 8))) else
  if f.f6 % 8 = 1 ∧ f.f3 = 3 then some (Instr.vsraVs (Fin.ofNat 32 (f.d)) (Fin.ofNat 32 (f.a)) (Fin.ofNat 32 (f.b)) (Fin.ofNat 8 (f.f6 / 8))) else
  if f.f6 % 8 = 1 ∧ f.f3 = 5 then some (Instr.vselVs (Fin.ofNat 32 (f.d)) (Fin.ofNat 32 (f.a)) (Fin.ofNat 32 (f.b)) (Fin.ofNat 8 (f.f6 / 8))) else
  if f.f6 % 8 = 2 ∧ f.d / 8 = 0 ∧ f.f3 = 0 then some (Instr.vcmpEqVs (Fin.ofNat 8 (f.d % 8)) (Fin.ofNat 32 (f.a)) (Fin.ofNat 32 (f.b)) (Fin.ofNat 8 (f.f6 / 8))) else
  if f.f6 % 8 = 2 ∧ f.d / 8 = 0 ∧ f.f3 = 1 then some (Instr.vcmpNeVs (Fin.ofNat 8 (f.d % 8)) (Fin.ofNat 32 (f.a)) (Fin.ofNat 32 (f.b)) (Fin.ofNat 8 (f.f6 / 8))) else
  if f.f6 % 8 = 2 ∧ f.d / 8 = 0 ∧ f.f3 = 2 then some (Instr.vcmpLtVs (Fin.ofNat 8 (f.d % 8)) (Fin.ofNat 32 (f.a)) (Fin.ofNat 32 (f.b)) (Fin.ofNat 8 (f.f6 / 8))) else
  if f.f6 % 8 = 2 ∧ f.d / 8 = 0 ∧ f.f3 = 3 then some (Instr.vcmpLeVs (Fin.ofNat 8 (f.d % 8)) (Fin.ofNat 32 (f.a)) (Fin.ofNat 32 (f.b)) (Fin.ofNat 8 (f.f6 / 8))) else
  if f.f6 % 8 = 2 ∧ f.d / 8 = 0 ∧ f.f3 = 4 then some (Instr.vcmpGtVs (Fin.ofNat 8 (f.d % 8)) (Fin.ofNat 32 (f.a)) (Fin.ofNat 32 (f.b)) (Fin.ofNat 8 (f.f6 / 8))) else
  if f.f6 % 8 = 2 ∧ f.d / 8 = 0 ∧ f.f3 = 5 then some (Instr.vcmpGeVs (Fin.ofNat 8 (f.d % 8)) (Fin.ofNat 32 (f.a)) (Fin.ofNat 32 (f.b)) (Fin.ofNat 8 (f.f6 / 8))) else
  none

/-- The instructions of MAJOR 0x24 (R93 to R100). -/
noncomputable def decMaj24 (f : Fields) : Option Instr :=
  if f.f6 % 8 = 0 ∧ f.f3 = 0 then some (Instr.vfadd (Fin.ofNat 32 (f.d)) (Fin.ofNat 32 (f.a)) (Fin.ofNat 32 (f.b)) (Fin.ofNat 8 (f.f6 / 8))) else
  if f.f6 % 8 = 0 ∧ f.f3 = 1 then some (Instr.vfsub (Fin.ofNat 32 (f.d)) (Fin.ofNat 32 (f.a)) (Fin.ofNat 32 (f.b)) (Fin.ofNat 8 (f.f6 / 8))) else
  if f.f6 % 8 = 0 ∧ f.f3 = 2 then some (Instr.vfmul (Fin.ofNat 32 (f.d)) (Fin.ofNat 32 (f.a)) (Fin.ofNat 32 (f.b)) (Fin.ofNat 8 (f.f6 / 8))) else
  if f.f6 % 8 = 0 ∧ f.f3 = 3 then some (Instr.vfdiv (Fin.ofNat 32 (f.d)) (Fin.ofNat 32 (f.a)) (Fin.ofNat 32 (f.b)) (Fin.ofNat 8 (f.f6 / 8))) else
  if f.f6 % 8 = 0 ∧ f.f3 = 4 then some (Instr.vfmin (Fin.ofNat 32 (f.d)) (Fin.ofNat 32 (f.a)) (Fin.ofNat 32 (f.b)) (Fin.ofNat 8 (f.f6 / 8))) else
  if f.f6 % 8 = 0 ∧ f.f3 = 5 then some (Instr.vfmax (Fin.ofNat 32 (f.d)) (Fin.ofNat 32 (f.a)) (Fin.ofNat 32 (f.b)) (Fin.ofNat 8 (f.f6 / 8))) else
  if f.f6 % 8 = 0 ∧ f.f3 = 6 then some (Instr.vfma (Fin.ofNat 32 (f.d)) (Fin.ofNat 32 (f.a)) (Fin.ofNat 32 (f.b)) (Fin.ofNat 8 (f.f6 / 8))) else
  if f.f6 % 8 = 0 ∧ f.f3 = 7 then some (Instr.vfms (Fin.ofNat 32 (f.d)) (Fin.ofNat 32 (f.a)) (Fin.ofNat 32 (f.b)) (Fin.ofNat 8 (f.f6 / 8))) else
  if f.b = 0 ∧ f.f6 % 8 = 1 ∧ f.f3 = 0 then some (Instr.vfsqrt (Fin.ofNat 32 (f.d)) (Fin.ofNat 32 (f.a)) (Fin.ofNat 8 (f.f6 / 8))) else
  if f.b = 0 ∧ f.f6 % 8 = 1 ∧ f.f3 = 1 then some (Instr.vfabs (Fin.ofNat 32 (f.d)) (Fin.ofNat 32 (f.a)) (Fin.ofNat 8 (f.f6 / 8))) else
  if f.b = 0 ∧ f.f6 % 8 = 1 ∧ f.f3 = 2 then some (Instr.vfneg (Fin.ofNat 32 (f.d)) (Fin.ofNat 32 (f.a)) (Fin.ofNat 8 (f.f6 / 8))) else
  if f.b = 0 ∧ f.f6 % 8 = 1 ∧ f.f3 = 3 then some (Instr.vfclass (Fin.ofNat 32 (f.d)) (Fin.ofNat 32 (f.a)) (Fin.ofNat 8 (f.f6 / 8))) else
  if f.f6 % 8 = 1 ∧ f.d / 8 = 0 ∧ f.f3 = 4 then some (Instr.vfcmpEq (Fin.ofNat 8 (f.d % 8)) (Fin.ofNat 32 (f.a)) (Fin.ofNat 32 (f.b)) (Fin.ofNat 8 (f.f6 / 8))) else
  if f.f6 % 8 = 1 ∧ f.d / 8 = 0 ∧ f.f3 = 5 then some (Instr.vfcmpNe (Fin.ofNat 8 (f.d % 8)) (Fin.ofNat 32 (f.a)) (Fin.ofNat 32 (f.b)) (Fin.ofNat 8 (f.f6 / 8))) else
  if f.f6 % 8 = 1 ∧ f.d / 8 = 0 ∧ f.f3 = 6 then some (Instr.vfcmpLt (Fin.ofNat 8 (f.d % 8)) (Fin.ofNat 32 (f.a)) (Fin.ofNat 32 (f.b)) (Fin.ofNat 8 (f.f6 / 8))) else
  if f.f6 % 8 = 1 ∧ f.d / 8 = 0 ∧ f.f3 = 7 then some (Instr.vfcmpLe (Fin.ofNat 8 (f.d % 8)) (Fin.ofNat 32 (f.a)) (Fin.ofNat 32 (f.b)) (Fin.ofNat 8 (f.f6 / 8))) else
  none

/-- The instructions of MAJOR 0x25 (R93 to R100). -/
noncomputable def decMaj25 (f : Fields) : Option Instr :=
  if f.f6 % 8 = 0 ∧ f.f3 = 0 then some (Instr.vfaddVs (Fin.ofNat 32 (f.d)) (Fin.ofNat 32 (f.a)) (Fin.ofNat 32 (f.b)) (Fin.ofNat 8 (f.f6 / 8))) else
  if f.f6 % 8 = 0 ∧ f.f3 = 1 then some (Instr.vfsubVs (Fin.ofNat 32 (f.d)) (Fin.ofNat 32 (f.a)) (Fin.ofNat 32 (f.b)) (Fin.ofNat 8 (f.f6 / 8))) else
  if f.f6 % 8 = 0 ∧ f.f3 = 2 then some (Instr.vfmulVs (Fin.ofNat 32 (f.d)) (Fin.ofNat 32 (f.a)) (Fin.ofNat 32 (f.b)) (Fin.ofNat 8 (f.f6 / 8))) else
  if f.f6 % 8 = 0 ∧ f.f3 = 3 then some (Instr.vfdivVs (Fin.ofNat 32 (f.d)) (Fin.ofNat 32 (f.a)) (Fin.ofNat 32 (f.b)) (Fin.ofNat 8 (f.f6 / 8))) else
  if f.f6 % 8 = 0 ∧ f.f3 = 4 then some (Instr.vfminVs (Fin.ofNat 32 (f.d)) (Fin.ofNat 32 (f.a)) (Fin.ofNat 32 (f.b)) (Fin.ofNat 8 (f.f6 / 8))) else
  if f.f6 % 8 = 0 ∧ f.f3 = 5 then some (Instr.vfmaxVs (Fin.ofNat 32 (f.d)) (Fin.ofNat 32 (f.a)) (Fin.ofNat 32 (f.b)) (Fin.ofNat 8 (f.f6 / 8))) else
  if f.f6 % 8 = 0 ∧ f.f3 = 6 then some (Instr.vfmaVs (Fin.ofNat 32 (f.d)) (Fin.ofNat 32 (f.a)) (Fin.ofNat 32 (f.b)) (Fin.ofNat 8 (f.f6 / 8))) else
  if f.f6 % 8 = 0 ∧ f.f3 = 7 then some (Instr.vfmsVs (Fin.ofNat 32 (f.d)) (Fin.ofNat 32 (f.a)) (Fin.ofNat 32 (f.b)) (Fin.ofNat 8 (f.f6 / 8))) else
  if f.f6 % 8 = 1 ∧ f.d / 8 = 0 ∧ f.f3 = 4 then some (Instr.vfcmpEqVs (Fin.ofNat 8 (f.d % 8)) (Fin.ofNat 32 (f.a)) (Fin.ofNat 32 (f.b)) (Fin.ofNat 8 (f.f6 / 8))) else
  if f.f6 % 8 = 1 ∧ f.d / 8 = 0 ∧ f.f3 = 5 then some (Instr.vfcmpNeVs (Fin.ofNat 8 (f.d % 8)) (Fin.ofNat 32 (f.a)) (Fin.ofNat 32 (f.b)) (Fin.ofNat 8 (f.f6 / 8))) else
  if f.f6 % 8 = 1 ∧ f.d / 8 = 0 ∧ f.f3 = 6 then some (Instr.vfcmpLtVs (Fin.ofNat 8 (f.d % 8)) (Fin.ofNat 32 (f.a)) (Fin.ofNat 32 (f.b)) (Fin.ofNat 8 (f.f6 / 8))) else
  if f.f6 % 8 = 1 ∧ f.d / 8 = 0 ∧ f.f3 = 7 then some (Instr.vfcmpLeVs (Fin.ofNat 8 (f.d % 8)) (Fin.ofNat 32 (f.a)) (Fin.ofNat 32 (f.b)) (Fin.ofNat 8 (f.f6 / 8))) else
  none

/-- The instructions of MAJOR 0x26 (R93 to R100). -/
noncomputable def decMaj26 (f : Fields) : Option Instr :=
  if f.b / 16 = 0 ∧ f.f6 % 8 = 0 ∧ f.b % 16 ≠ 14 ∧ f.b % 16 ≠ 15 then (Rnd.ofCode? (f.f3)).map fun r_ => Instr.vcvt (Fin.ofNat 32 (f.d)) (Fin.ofNat 32 (f.a)) (ETy.ofCode (f.b % 16)) (Fin.ofNat 8 (f.f6 / 8)) r_ else
  if f.f6 % 8 = 1 then some (Instr.vpack (Fin.ofNat 32 (f.d)) (Fin.ofNat 32 (f.a)) (Fin.ofNat 32 (f.b)) (Fin.ofNat 8 (f.f6 / 8)) (Fin.ofNat 8 (f.f3))) else
  if f.f6 % 8 = 2 then some (Instr.vunpack (Fin.ofNat 32 (f.d)) (Fin.ofNat 32 (f.a)) (Fin.ofNat 32 (f.b)) (Fin.ofNat 8 (f.f6 / 8)) (Fin.ofNat 8 (f.f3))) else
  none

/-- The instructions of MAJOR 0x27 (R93 to R100). -/
noncomputable def decMaj27 (f : Fields) : Option Instr :=
  if f.b = 0 ∧ f.f6 % 8 = 0 ∧ f.f3 = 0 then some (Instr.vredAdd (Fin.ofNat 32 (f.d)) (Fin.ofNat 32 (f.a)) (Fin.ofNat 8 (f.f6 / 8))) else
  if f.b = 0 ∧ f.f6 % 8 = 0 ∧ f.f3 = 1 then some (Instr.vredMin (Fin.ofNat 32 (f.d)) (Fin.ofNat 32 (f.a)) (Fin.ofNat 8 (f.f6 / 8))) else
  if f.b = 0 ∧ f.f6 % 8 = 0 ∧ f.f3 = 2 then some (Instr.vredMax (Fin.ofNat 32 (f.d)) (Fin.ofNat 32 (f.a)) (Fin.ofNat 8 (f.f6 / 8))) else
  if f.b = 0 ∧ f.f6 % 8 = 0 ∧ f.f3 = 3 then some (Instr.vredAnd (Fin.ofNat 32 (f.d)) (Fin.ofNat 32 (f.a)) (Fin.ofNat 8 (f.f6 / 8))) else
  if f.b = 0 ∧ f.f6 % 8 = 0 ∧ f.f3 = 4 then some (Instr.vredOr (Fin.ofNat 32 (f.d)) (Fin.ofNat 32 (f.a)) (Fin.ofNat 8 (f.f6 / 8))) else
  if f.b = 0 ∧ f.f6 % 8 = 0 ∧ f.f3 = 5 then some (Instr.vredXor (Fin.ofNat 32 (f.d)) (Fin.ofNat 32 (f.a)) (Fin.ofNat 8 (f.f6 / 8))) else
  if f.b = 0 ∧ f.f6 % 8 = 1 ∧ f.f3 = 0 then some (Instr.vscanIncAdd (Fin.ofNat 32 (f.d)) (Fin.ofNat 32 (f.a)) (Fin.ofNat 8 (f.f6 / 8))) else
  if f.b = 0 ∧ f.f6 % 8 = 1 ∧ f.f3 = 1 then some (Instr.vscanIncMin (Fin.ofNat 32 (f.d)) (Fin.ofNat 32 (f.a)) (Fin.ofNat 8 (f.f6 / 8))) else
  if f.b = 0 ∧ f.f6 % 8 = 1 ∧ f.f3 = 2 then some (Instr.vscanIncMax (Fin.ofNat 32 (f.d)) (Fin.ofNat 32 (f.a)) (Fin.ofNat 8 (f.f6 / 8))) else
  if f.b = 0 ∧ f.f6 % 8 = 1 ∧ f.f3 = 3 then some (Instr.vscanIncAnd (Fin.ofNat 32 (f.d)) (Fin.ofNat 32 (f.a)) (Fin.ofNat 8 (f.f6 / 8))) else
  if f.b = 0 ∧ f.f6 % 8 = 1 ∧ f.f3 = 4 then some (Instr.vscanIncOr (Fin.ofNat 32 (f.d)) (Fin.ofNat 32 (f.a)) (Fin.ofNat 8 (f.f6 / 8))) else
  if f.b = 0 ∧ f.f6 % 8 = 1 ∧ f.f3 = 5 then some (Instr.vscanIncXor (Fin.ofNat 32 (f.d)) (Fin.ofNat 32 (f.a)) (Fin.ofNat 8 (f.f6 / 8))) else
  if f.b = 0 ∧ f.f6 % 8 = 2 ∧ f.f3 = 0 then some (Instr.vscanExcAdd (Fin.ofNat 32 (f.d)) (Fin.ofNat 32 (f.a)) (Fin.ofNat 8 (f.f6 / 8))) else
  if f.b = 0 ∧ f.f6 % 8 = 2 ∧ f.f3 = 1 then some (Instr.vscanExcMin (Fin.ofNat 32 (f.d)) (Fin.ofNat 32 (f.a)) (Fin.ofNat 8 (f.f6 / 8))) else
  if f.b = 0 ∧ f.f6 % 8 = 2 ∧ f.f3 = 2 then some (Instr.vscanExcMax (Fin.ofNat 32 (f.d)) (Fin.ofNat 32 (f.a)) (Fin.ofNat 8 (f.f6 / 8))) else
  if f.b = 0 ∧ f.f6 % 8 = 2 ∧ f.f3 = 3 then some (Instr.vscanExcAnd (Fin.ofNat 32 (f.d)) (Fin.ofNat 32 (f.a)) (Fin.ofNat 8 (f.f6 / 8))) else
  if f.b = 0 ∧ f.f6 % 8 = 2 ∧ f.f3 = 4 then some (Instr.vscanExcOr (Fin.ofNat 32 (f.d)) (Fin.ofNat 32 (f.a)) (Fin.ofNat 8 (f.f6 / 8))) else
  if f.b = 0 ∧ f.f6 % 8 = 2 ∧ f.f3 = 5 then some (Instr.vscanExcXor (Fin.ofNat 32 (f.d)) (Fin.ofNat 32 (f.a)) (Fin.ofNat 8 (f.f6 / 8))) else
  if f.f6 % 8 = 3 ∧ f.f3 = 0 then some (Instr.vredbs (Fin.ofNat 32 (f.d)) (Fin.ofNat 32 (f.a)) (Fin.ofNat 32 (f.b)) (Fin.ofNat 8 (f.f6 / 8))) else
  none

/-- The instructions of MAJOR 0x28 (R93 to R100). -/
noncomputable def decMaj28 (f : Fields) : Option Instr :=
  if f.f6 % 8 = 0 ∧ f.f3 = 0 then some (Instr.vxchg (Fin.ofNat 32 (f.d)) (Fin.ofNat 32 (f.a)) (Fin.ofNat 32 (f.b)) (Fin.ofNat 8 (f.f6 / 8))) else
  if f.f6 % 8 = 0 ∧ f.f3 = 1 then some (Instr.vrot (Fin.ofNat 32 (f.d)) (Fin.ofNat 32 (f.a)) (Fin.ofNat 32 (f.b)) (Fin.ofNat 8 (f.f6 / 8))) else
  if f.b = 0 ∧ f.f6 % 8 = 0 ∧ f.f3 = 2 then some (Instr.vbcast (Fin.ofNat 32 (f.d)) (Fin.ofNat 32 (f.a)) (Fin.ofNat 8 (f.f6 / 8))) else
  if f.b = 0 ∧ f.f6 % 8 = 0 ∧ f.f3 = 3 then some (Instr.vcompress (Fin.ofNat 32 (f.d)) (Fin.ofNat 32 (f.a)) (Fin.ofNat 8 (f.f6 / 8))) else
  if f.b = 0 ∧ f.f6 % 8 = 0 ∧ f.f3 = 4 then some (Instr.vexpand (Fin.ofNat 32 (f.d)) (Fin.ofNat 32 (f.a)) (Fin.ofNat 8 (f.f6 / 8))) else
  if f.f6 % 8 = 0 ∧ f.f3 = 5 then some (Instr.vperm (Fin.ofNat 32 (f.d)) (Fin.ofNat 32 (f.a)) (Fin.ofNat 32 (f.b)) (Fin.ofNat 8 (f.f6 / 8))) else
  if f.f6 % 8 = 0 ∧ f.f3 = 6 then some (Instr.vslideUp (Fin.ofNat 32 (f.d)) (Fin.ofNat 32 (f.a)) (Fin.ofNat 32 (f.b)) (Fin.ofNat 8 (f.f6 / 8))) else
  if f.f6 % 8 = 0 ∧ f.f3 = 7 then some (Instr.vslideDn (Fin.ofNat 32 (f.d)) (Fin.ofNat 32 (f.a)) (Fin.ofNat 32 (f.b)) (Fin.ofNat 8 (f.f6 / 8))) else
  none

/-- The instructions of MAJOR 0x29 (R93 to R100). -/
noncomputable def decMaj29 (f : Fields) : Option Instr :=
  if f.a / 8 = 0 ∧ f.b / 8 = 0 ∧ f.f6 = 0 ∧ f.d / 8 = 0 ∧ f.f3 = 0 then some (Instr.mand (Fin.ofNat 8 (f.d % 8)) (Fin.ofNat 8 (f.a % 8)) (Fin.ofNat 8 (f.b % 8))) else
  if f.a / 8 = 0 ∧ f.b / 8 = 0 ∧ f.f6 = 0 ∧ f.d / 8 = 0 ∧ f.f3 = 1 then some (Instr.mor (Fin.ofNat 8 (f.d % 8)) (Fin.ofNat 8 (f.a % 8)) (Fin.ofNat 8 (f.b % 8))) else
  if f.a / 8 = 0 ∧ f.b / 8 = 0 ∧ f.f6 = 0 ∧ f.d / 8 = 0 ∧ f.f3 = 2 then some (Instr.mxor (Fin.ofNat 8 (f.d % 8)) (Fin.ofNat 8 (f.a % 8)) (Fin.ofNat 8 (f.b % 8))) else
  if f.a / 8 = 0 ∧ f.b = 0 ∧ f.f6 = 0 ∧ f.d / 8 = 0 ∧ f.f3 = 3 then some (Instr.mnot (Fin.ofNat 8 (f.d % 8)) (Fin.ofNat 8 (f.a % 8))) else
  if f.a / 8 = 0 ∧ f.b = 0 ∧ f.f6 = 0 ∧ f.f3 = 4 then some (Instr.mpop (Fin.ofNat 32 (f.d)) (Fin.ofNat 8 (f.a % 8))) else
  if f.a / 8 = 0 ∧ f.b = 0 ∧ f.f6 = 0 ∧ f.f3 = 5 then some (Instr.mfirst (Fin.ofNat 32 (f.d)) (Fin.ofNat 8 (f.a % 8))) else
  if f.b = 0 ∧ f.f6 = 0 ∧ f.d / 8 = 0 ∧ f.f3 = 6 then some (Instr.mset (Fin.ofNat 8 (f.d % 8)) (Fin.ofNat 32 (f.a))) else
  none

/-- The instructions of MAJOR 0x2A (R93 to R100). -/
noncomputable def decMaj2A (f : Fields) : Option Instr :=
  if f.b = 0 ∧ f.f6 % 8 = 0 ∧ f.f3 = 0 then some (Instr.vexp2 (Fin.ofNat 32 (f.d)) (Fin.ofNat 32 (f.a)) (Fin.ofNat 8 (f.f6 / 8))) else
  if f.b = 0 ∧ f.f6 % 8 = 0 ∧ f.f3 = 1 then some (Instr.vlog2 (Fin.ofNat 32 (f.d)) (Fin.ofNat 32 (f.a)) (Fin.ofNat 8 (f.f6 / 8))) else
  if f.b = 0 ∧ f.f6 % 8 = 0 ∧ f.f3 = 2 then some (Instr.vrcp (Fin.ofNat 32 (f.d)) (Fin.ofNat 32 (f.a)) (Fin.ofNat 8 (f.f6 / 8))) else
  if f.b = 0 ∧ f.f6 % 8 = 0 ∧ f.f3 = 3 then some (Instr.vrsqrt (Fin.ofNat 32 (f.d)) (Fin.ofNat 32 (f.a)) (Fin.ofNat 8 (f.f6 / 8))) else
  if f.b = 0 ∧ f.f6 % 8 = 0 ∧ f.f3 = 4 then some (Instr.vsinpi (Fin.ofNat 32 (f.d)) (Fin.ofNat 32 (f.a)) (Fin.ofNat 8 (f.f6 / 8))) else
  if f.b = 0 ∧ f.f6 % 8 = 0 ∧ f.f3 = 5 then some (Instr.vcospi (Fin.ofNat 32 (f.d)) (Fin.ofNat 32 (f.a)) (Fin.ofNat 8 (f.f6 / 8))) else
  if f.b = 0 ∧ f.f6 % 8 = 0 ∧ f.f3 = 6 then some (Instr.vtanh (Fin.ofNat 32 (f.d)) (Fin.ofNat 32 (f.a)) (Fin.ofNat 8 (f.f6 / 8))) else
  if f.b = 0 ∧ f.f6 % 8 = 0 ∧ f.f3 = 7 then some (Instr.vsigm (Fin.ofNat 32 (f.d)) (Fin.ofNat 32 (f.a)) (Fin.ofNat 8 (f.f6 / 8))) else
  none

/-- The instructions of MAJOR 0x2B (R93 to R100). -/
noncomputable def decMaj2B (f : Fields) : Option Instr :=
  if f.f6 % 8 = 0 ∧ f.f3 = 0 then some (Instr.vrng (Fin.ofNat 32 (f.d)) (Fin.ofNat 32 (f.a)) (Fin.ofNat 32 (f.b)) (Fin.ofNat 8 (f.f6 / 8))) else
  none

/-- The instructions of MAJOR 0x30 (R93 to R100). -/
noncomputable def decMaj30 (f : Fields) : Option Instr :=
  if f.f6 / 8 = 0 ∧ f.d / 4 = 0 ∧ f.f3 = 0 then some (Instr.mma (Fin.ofNat 4 (f.d % 4)) (Fin.ofNat 32 (f.a)) (Fin.ofNat 32 (f.b)) (Fin.ofNat 8 (f.f6 % 8))) else
  if f.b = 0 ∧ f.f6 / 4 = 0 ∧ f.d / 4 = 0 ∧ f.f3 = 1 ∧ (f.f6 % 4 = 3 ∨ f.a = 0) then some (Instr.mzero (Fin.ofNat 4 (f.d % 4)) (AccTy.ofCode (f.f6 % 4)) (Fin.ofNat 32 (f.a))) else
  if f.f6 / 4 = 0 ∧ f.d / 4 = 0 ∧ f.f3 = 2 then some (Instr.mld (Fin.ofNat 4 (f.d % 4)) (Fin.ofNat 32 (f.a)) (Fin.ofNat 32 (f.b)) (AccTy.ofCode (f.f6 % 4))) else
  if f.b = 0 ∧ f.f6 / 8 = 0 ∧ f.d / 4 = 0 ∧ f.f3 = 3 then some (Instr.mst (Fin.ofNat 4 (f.d % 4)) (Fin.ofNat 32 (f.a)) (Fin.ofNat 8 (f.f6 % 8))) else
  if f.a / 4 = 0 ∧ f.b = 0 ∧ f.f6 = 0 ∧ f.d / 4 = 0 ∧ f.f3 = 4 then some (Instr.macc (Fin.ofNat 4 (f.d % 4)) (Fin.ofNat 4 (f.a % 4))) else
  if f.a / 4 = 0 ∧ f.f6 = 0 ∧ f.f3 = 5 then some (Instr.mrowR (Fin.ofNat 32 (f.d)) (Fin.ofNat 4 (f.a % 4)) (Fin.ofNat 32 (f.b))) else
  if f.f6 = 1 ∧ f.d / 4 = 0 ∧ f.f3 = 5 then some (Instr.mrowW (Fin.ofNat 4 (f.d % 4)) (Fin.ofNat 32 (f.a)) (Fin.ofNat 32 (f.b))) else
  none

/-- The instructions of MAJOR 0x38 (R93 to R100). -/
noncomputable def decMaj38 (f : Fields) : Option Instr :=
  if f.b / 16 = 0 ∧ f.f6 % 8 = 0 then some (Instr.gor2 (Fin.ofNat 32 (f.d)) (Fin.ofNat 32 (f.a)) (f.b / 8 % 2 == 1) (Fin.ofNat 8 (f.b % 8)) (Fin.ofNat 8 (f.f6 / 8)) (Fin.ofNat 8 (f.f3))) else
  if f.b / 16 = 0 ∧ f.f6 % 8 = 1 then some (Instr.gor3 (Fin.ofNat 32 (f.d)) (Fin.ofNat 32 (f.a)) (f.b / 8 % 2 == 1) (Fin.ofNat 8 (f.b % 8)) (Fin.ofNat 8 (f.f6 / 8)) (Fin.ofNat 8 (f.f3))) else
  if f.b / 16 = 0 ∧ f.f6 % 8 = 2 then some (Instr.ginc (Fin.ofNat 32 (f.d)) (Fin.ofNat 32 (f.a)) (f.b / 8 % 2 == 1) (Fin.ofNat 8 (f.b % 8)) (Fin.ofNat 8 (f.f6 / 8)) (Fin.ofNat 8 (f.f3))) else
  if f.b / 16 = 0 ∧ f.f6 % 8 = 3 then some (Instr.gins (Fin.ofNat 32 (f.d)) (Fin.ofNat 32 (f.a)) (f.b / 8 % 2 == 1) (Fin.ofNat 8 (f.b % 8)) (Fin.ofNat 8 (f.f6 / 8)) (Fin.ofNat 8 (f.f3))) else
  if f.b / 16 = 0 ∧ f.f6 % 8 = 4 then some (Instr.gsegx (Fin.ofNat 32 (f.d)) (Fin.ofNat 32 (f.a)) (f.b / 8 % 2 == 1) (Fin.ofNat 8 (f.b % 8)) (Fin.ofNat 8 (f.f6 / 8)) (Fin.ofNat 8 (f.f3))) else
  none

/-- The instructions of MAJOR 0x3C (R93 to R100). -/
noncomputable def decMaj3C (f : Fields) : Option Instr :=
  if f.a = 0 ∧ f.d = 0 ∧ f.f3 = 0 then some (Instr.svc (BitVec.ofNat 11 (f.b * 64 + f.f6))) else
  if f.a = 0 ∧ f.d = 0 ∧ f.f3 = 1 then some (Instr.brk (BitVec.ofNat 11 (f.b * 64 + f.f6))) else
  if f.a = 0 ∧ f.b = 0 ∧ f.f6 = 0 ∧ f.d = 0 ∧ f.f3 = 2 then some Instr.eret else
  if f.a = 0 ∧ f.b = 0 ∧ f.f6 = 0 ∧ f.d = 0 ∧ f.f3 = 3 then some Instr.ifence else
  if f.a = 0 ∧ f.b = 0 ∧ f.f6 = 0 ∧ f.d = 0 ∧ f.f3 = 4 then some Instr.done else
  if f.a = 0 ∧ f.b = 0 ∧ f.f6 = 0 ∧ f.d = 0 ∧ f.f3 = 5 then some Instr.yield else
  if f.b = 0 ∧ f.f6 = 0 ∧ f.d = 0 ∧ f.f3 = 6 then some (Instr.hop (Fin.ofNat 32 (f.a))) else
  if f.b = 0 ∧ f.f6 / 8 = 0 ∧ f.d = 0 ∧ f.f3 = 7 then (Level5.ofCode? (f.f6 % 8)).map fun l_ => Instr.cncl (Fin.ofNat 32 (f.a)) l_ else
  none

/-- The instructions of MAJOR 0x3D (R93 to R100). -/
noncomputable def decMaj3D (f : Fields) : Option Instr :=
  if f.a = 0 ∧ f.f3 = 0 then some (Instr.ctlr (Fin.ofNat 32 (f.d)) (BitVec.ofNat 11 (f.b * 64 + f.f6))) else
  if f.d = 0 ∧ f.f3 = 1 then some (Instr.ctlw (Fin.ofNat 32 (f.a)) (BitVec.ofNat 11 (f.b * 64 + f.f6))) else
  if f.f3 = 2 then some (Instr.ctlx (Fin.ofNat 32 (f.d)) (Fin.ofNat 32 (f.a)) (BitVec.ofNat 11 (f.b * 64 + f.f6))) else
  if f.f6 = 0 ∧ f.d = 0 ∧ f.f3 = 3 then some (Instr.tlbinv (Fin.ofNat 32 (f.a)) (Fin.ofNat 32 (f.b))) else
  none

/-- The opcode map by MAJOR (R92); a MAJOR without a line is reserved. -/
noncomputable def decFields (f : Fields) : Option Instr :=
  match f.maj with
  | 0 => decMaj00 f
  | 1 => decMaj01 f
  | 2 => decMaj02 f
  | 3 => decMaj03 f
  | 4 => decMaj04 f
  | 5 => decMaj05 f
  | 6 => decMaj06 f
  | 7 => decMaj07 f
  | 8 => decMaj08 f
  | 9 => decMaj09 f
  | 10 => decMaj0A f
  | 12 => decMaj0C f
  | 13 => decMaj0D f
  | 14 => decMaj0E f
  | 15 => decMaj0F f
  | 16 => decMaj10 f
  | 17 => decMaj11 f
  | 18 => decMaj12 f
  | 19 => decMaj13 f
  | 20 => decMaj14 f
  | 21 => decMaj15 f
  | 24 => decMaj18 f
  | 25 => decMaj19 f
  | 26 => decMaj1A f
  | 27 => decMaj1B f
  | 28 => decMaj1C f
  | 29 => decMaj1D f
  | 30 => decMaj1E f
  | 31 => decMaj1F f
  | 32 => decMaj20 f
  | 33 => decMaj21 f
  | 34 => decMaj22 f
  | 35 => decMaj23 f
  | 36 => decMaj24 f
  | 37 => decMaj25 f
  | 38 => decMaj26 f
  | 39 => decMaj27 f
  | 40 => decMaj28 f
  | 41 => decMaj29 f
  | 42 => decMaj2A f
  | 43 => decMaj2B f
  | 48 => decMaj30 f
  | 56 => decMaj38 f
  | 60 => decMaj3C f
  | 61 => decMaj3D f
  | _ => none

/-- The 16-bit forms (R90). -/
def decode16 (w : Nat) : Option Instr :=
  if w ≠ 0 ∧ w / 4096 = 0 ∧ w % 4 = 0 then some (Instr.cMov (Fin.ofNat 32 (w / 128 % 32)) (Fin.ofNat 32 (w / 4 % 32))) else
  if w / 4096 = 0 ∧ w % 4 = 1 then some (Instr.cAdd (Fin.ofNat 32 (w / 128 % 32)) (Fin.ofNat 32 (w / 4 % 32))) else
  if w / 4096 = 0 ∧ w % 4 = 2 then some (Instr.cAddi (Fin.ofNat 32 (w / 128 % 32)) (BitVec.ofNat 5 (w / 4 % 32))) else
  if w / 4096 = 1 ∧ w % 4 = 0 then some (Instr.cLd (Fin.ofNat 32 (w / 128 % 32)) (Fin.ofNat 32 (w / 4 % 32))) else
  if w / 4096 = 1 ∧ w % 4 = 1 then some (Instr.cSt (Fin.ofNat 32 (w / 4 % 32)) (Fin.ofNat 32 (w / 128 % 32))) else
  if w / 4096 = 2 then some (Instr.cBeqz (Fin.ofNat 32 (w / 128 % 32)) (BitVec.ofNat 7 (w % 128))) else
  if w / 4096 = 3 then some (Instr.cBnez (Fin.ofNat 32 (w / 128 % 32)) (BitVec.ofNat 7 (w % 128))) else
  if w / 4096 = 4 then some (Instr.cJ (BitVec.ofNat 12 (w % 4096))) else
  none

/-- R92: the MAJOR values that are reserved in full, and 0x3F. -/
def majorReserved (k : Nat) : Bool :=
  k == 0x0B || k == 0x16 || k == 0x17 || (0x2C ≤ k && k ≤ 0x2F) || (0x31 ≤ k && k ≤ 0x37)
    || (0x39 ≤ k && k ≤ 0x3B) || k == 0x3E || k == 0x3F

/-- Decoding a 32-bit word. -/
noncomputable def decode32 (w : Nat) : Except Reject Instr :=
  if w = 4294967295 then .error .allOnes
  else if majorReserved (fieldsOf w).maj then .error .reservedMajor
  else match decFields (fieldsOf w) with
    | some i => .ok i
    | none => .error .reservedField

/-- R86: a first halfword with bits [15:14] = 0b11 begins a 32-bit word. -/
def isLong (h : Nat) : Bool := h / 16384 % 4 == 3

/-- Decoding a halfword that is a whole word. -/
def decodeShort (h : Nat) : Except Reject Instr :=
  if h = 0 then .error .allZeros
  else match decode16 h with
    | some i => .ok i
    | none => .error .reserved16

/-- R86: a little-endian halfword from two bytes. -/
def halfOf (b0 b1 : Byte) : Nat := b0.toNat + 256 * b1.toNat

/-- R86, R87: the instruction at the head of a byte list and its length in bytes. -/
noncomputable def decode : List Byte → Except Reject (Instr × Nat)
  | b0 :: b1 :: rest =>
    let h := halfOf b0 b1
    if isLong h then
      match rest with
      | b2 :: b3 :: _ =>
        match decode32 (h + 65536 * halfOf b2 b3) with
        | .ok i => .ok (i, 4)
        | .error r => .error r
      | _ => .error .short
    else match decodeShort h with
      | .ok i => .ok (i, 2)
      | .error r => .error r
  | _ => .error .short


/-- The fields of a 32-bit instruction's word, from the same map (R88 to R100). -/
def encFields : Instr → Option Fields
  | .add d a b => some ⟨a.val, b.val, 0, 0, d.val, 0⟩
  | .sub d a b => some ⟨a.val, b.val, 0, 0, d.val, 1⟩
  | .and d a b => some ⟨a.val, b.val, 0, 0, d.val, 2⟩
  | .or d a b => some ⟨a.val, b.val, 0, 0, d.val, 3⟩
  | .xor d a b => some ⟨a.val, b.val, 0, 0, d.val, 4⟩
  | .shl d a b => some ⟨a.val, b.val, 0, 0, d.val, 5⟩
  | .shr d a b => some ⟨a.val, b.val, 0, 0, d.val, 6⟩
  | .sra d a b => some ⟨a.val, b.val, 0, 0, d.val, 7⟩
  | .slt d a b => some ⟨a.val, b.val, 0, 1, d.val, 0⟩
  | .sltn d a b => some ⟨a.val, b.val, 0, 1, d.val, 1⟩
  | .min d a b => some ⟨a.val, b.val, 0, 1, d.val, 2⟩
  | .max d a b => some ⟨a.val, b.val, 0, 1, d.val, 3⟩
  | .minn d a b => some ⟨a.val, b.val, 0, 1, d.val, 4⟩
  | .maxn d a b => some ⟨a.val, b.val, 0, 1, d.val, 5⟩
  | .mul d a b => some ⟨a.val, b.val, 0, 2, d.val, 0⟩
  | .mulh d a b => some ⟨a.val, b.val, 0, 2, d.val, 1⟩
  | .mulhn d a b => some ⟨a.val, b.val, 0, 2, d.val, 2⟩
  | .mulhin d a b => some ⟨a.val, b.val, 0, 2, d.val, 3⟩
  | .div d a b => some ⟨a.val, b.val, 0, 2, d.val, 4⟩
  | .divn d a b => some ⟨a.val, b.val, 0, 2, d.val, 5⟩
  | .rem d a b => some ⟨a.val, b.val, 0, 2, d.val, 6⟩
  | .remn d a b => some ⟨a.val, b.val, 0, 2, d.val, 7⟩
  | .clz d a => some ⟨a.val, 0, 0, 3, d.val, 0⟩
  | .ctz d a => some ⟨a.val, 0, 0, 3, d.val, 1⟩
  | .popc d a => some ⟨a.val, 0, 0, 3, d.val, 2⟩
  | .bswap d a => some ⟨a.val, 0, 0, 3, d.val, 3⟩
  | .sext d a s => some ⟨a.val, 0, s.code, 3, d.val, 4⟩
  | .zext d a s => some ⟨a.val, 0, s.code, 3, d.val, 5⟩
  | .addi d a i => some ⟨a.val, i.toNat / 64, i.toNat % 64, 4, d.val, 0⟩
  | .andi d a i => some ⟨a.val, i.toNat / 64, i.toNat % 64, 4, d.val, 1⟩
  | .ori d a i => some ⟨a.val, i.toNat / 64, i.toNat % 64, 4, d.val, 2⟩
  | .xori d a i => some ⟨a.val, i.toNat / 64, i.toNat % 64, 4, d.val, 3⟩
  | .slti d a i => some ⟨a.val, i.toNat / 64, i.toNat % 64, 4, d.val, 4⟩
  | .sltni d a i => some ⟨a.val, i.toNat / 64, i.toNat % 64, 4, d.val, 5⟩
  | .shli d a i => some ⟨a.val, 0, i.toNat, 5, d.val, 0⟩
  | .shri d a i => some ⟨a.val, 0, i.toNat, 5, d.val, 1⟩
  | .srai d a i => some ⟨a.val, 0, i.toNat, 5, d.val, 2⟩
  | .lui d i => some ⟨i.toNat / 16384, i.toNat / 512 % 32, i.toNat / 8 % 64, 6, d.val, i.toNat % 8⟩
  | .pcadd d i => some ⟨i.toNat / 16384, i.toNat / 512 % 32, i.toNat / 8 % 64, 7, d.val, i.toNat % 8⟩
  | .fadd d a b t => some ⟨a.val, b.val, t.code, 8, d.val, 0⟩
  | .fsub d a b t => some ⟨a.val, b.val, t.code, 8, d.val, 1⟩
  | .fmul d a b t => some ⟨a.val, b.val, t.code, 8, d.val, 2⟩
  | .fdiv d a b t => some ⟨a.val, b.val, t.code, 8, d.val, 3⟩
  | .fmin d a b t => some ⟨a.val, b.val, t.code, 8, d.val, 4⟩
  | .fmax d a b t => some ⟨a.val, b.val, t.code, 8, d.val, 5⟩
  | .fsqrt d a t => some ⟨a.val, 0, t.code, 8, d.val, 6⟩
  | .fma d a b t => some ⟨a.val, b.val, t.code, 9, d.val, 0⟩
  | .fms d a b t => some ⟨a.val, b.val, t.code, 9, d.val, 1⟩
  | .feq d a b t => some ⟨a.val, b.val, t.code, 9, d.val, 2⟩
  | .flt d a b t => some ⟨a.val, b.val, t.code, 9, d.val, 3⟩
  | .fle d a b t => some ⟨a.val, b.val, t.code, 9, d.val, 4⟩
  | .fclass d a t => some ⟨a.val, 0, t.code, 9, d.val, 5⟩
  | .fcvt d a x y r => some ⟨a.val, 0, x.code * 8 + y.code, 10, d.val, r.code⟩
  | .beq a b o => some ⟨a.val, b.val, o.toNat / 32, 12, o.toNat % 32, 0⟩
  | .bne a b o => some ⟨a.val, b.val, o.toNat / 32, 12, o.toNat % 32, 1⟩
  | .blt a b o => some ⟨a.val, b.val, o.toNat / 32, 12, o.toNat % 32, 2⟩
  | .bge a b o => some ⟨a.val, b.val, o.toNat / 32, 12, o.toNat % 32, 3⟩
  | .bltn a b o => some ⟨a.val, b.val, o.toNat / 32, 12, o.toNat % 32, 4⟩
  | .bgen a b o => some ⟨a.val, b.val, o.toNat / 32, 12, o.toNat % 32, 5⟩
  | .jl d i => some ⟨i.toNat / 16384, i.toNat / 512 % 32, i.toNat / 8 % 64, 13, d.val, i.toNat % 8⟩
  | .jlr d a i => some ⟨a.val, i.toNat / 64, i.toNat % 64, 14, d.val, 0⟩
  | .fork a o => some ⟨a.val, 0, o.toNat / 32, 15, o.toNat % 32, 0⟩
  | .floop a b o => some ⟨a.val, b.val, o.toNat / 32, 15, o.toNat % 32, 1⟩
  | .fhold => some ⟨0, 0, 0, 15, 0, 2⟩
  | .fexit o => some ⟨0, 0, o.toNat / 32, 15, o.toNat % 32, 3⟩
  | .ldB d a i => some ⟨a.val, i.toNat / 64, i.toNat % 64, 16, d.val, 0⟩
  | .ldH d a i => some ⟨a.val, i.toNat / 64, i.toNat % 64, 16, d.val, 1⟩
  | .ldW d a i => some ⟨a.val, i.toNat / 64, i.toNat % 64, 16, d.val, 2⟩
  | .ldD d a i => some ⟨a.val, i.toNat / 64, i.toNat % 64, 16, d.val, 3⟩
  | .ldBn d a i => some ⟨a.val, i.toNat / 64, i.toNat % 64, 16, d.val, 4⟩
  | .ldHn d a i => some ⟨a.val, i.toNat / 64, i.toNat % 64, 16, d.val, 5⟩
  | .ldWn d a i => some ⟨a.val, i.toNat / 64, i.toNat % 64, 16, d.val, 6⟩
  | .stB a b i => some ⟨a.val, b.val, i.toNat / 32, 17, i.toNat % 32, 0⟩
  | .stH a b i => some ⟨a.val, b.val, i.toNat / 32, 17, i.toNat % 32, 1⟩
  | .stW a b i => some ⟨a.val, b.val, i.toNat / 32, 17, i.toNat % 32, 2⟩
  | .stD a b i => some ⟨a.val, b.val, i.toNat / 32, 17, i.toNat % 32, 3⟩
  | .ldAcq d a i s => some ⟨a.val, i.toNat / 64, i.toNat % 64, 18, d.val, s.code⟩
  | .stRel a b i s => some ⟨a.val, b.val, i.toNat / 32, 19, i.toNat % 32, s.code⟩
  | .ldFe d a => some ⟨a.val, 0, 0, 20, d.val, 0⟩
  | .stFe a b => some ⟨a.val, b.val, 0, 20, 0, 1⟩
  | .ldFf d a => some ⟨a.val, 0, 0, 20, d.val, 2⟩
  | .feSet a => some ⟨a.val, 0, 0, 20, 0, 3⟩
  | .feClr a => some ⟨a.val, 0, 0, 20, 0, 4⟩
  | .ldPod d a b z => some ⟨a.val, b.val, z.code, 21, d.val, 0⟩
  | .stPod d a b z => some ⟨a.val, b.val, z.code, 21, d.val, 1⟩
  | .lr d a w => some ⟨a.val, 0, w.code, 24, d.val, 0⟩
  | .sc d a b w => some ⟨a.val, b.val, w.code, 24, d.val, 1⟩
  | .cas d a b w => some ⟨a.val, b.val, w.code, 24, d.val, 2⟩
  | .amoAdd d a b w => some ⟨a.val, b.val, w.code * 16, 25, d.val, 0⟩
  | .amoAnd d a b w => some ⟨a.val, b.val, 1 + w.code * 16, 25, d.val, 0⟩
  | .amoOr d a b w => some ⟨a.val, b.val, 2 + w.code * 16, 25, d.val, 0⟩
  | .amoXor d a b w => some ⟨a.val, b.val, 3 + w.code * 16, 25, d.val, 0⟩
  | .amoMin d a b w => some ⟨a.val, b.val, 4 + w.code * 16, 25, d.val, 0⟩
  | .amoMax d a b w => some ⟨a.val, b.val, 5 + w.code * 16, 25, d.val, 0⟩
  | .amoMinn d a b w => some ⟨a.val, b.val, 6 + w.code * 16, 25, d.val, 0⟩
  | .amoMaxn d a b w => some ⟨a.val, b.val, 7 + w.code * 16, 25, d.val, 0⟩
  | .amoSwap d a b w => some ⟨a.val, b.val, 8 + w.code * 16, 25, d.val, 0⟩
  | .amoFadd d a b w => some ⟨a.val, b.val, 9 + w.code * 16, 25, d.val, 0⟩
  | .rredAdd a b w => some ⟨a.val, b.val, w.code * 16, 25, 0, 1⟩
  | .rredAnd a b w => some ⟨a.val, b.val, 1 + w.code * 16, 25, 0, 1⟩
  | .rredOr a b w => some ⟨a.val, b.val, 2 + w.code * 16, 25, 0, 1⟩
  | .rredXor a b w => some ⟨a.val, b.val, 3 + w.code * 16, 25, 0, 1⟩
  | .rredMin a b w => some ⟨a.val, b.val, 4 + w.code * 16, 25, 0, 1⟩
  | .rredMax a b w => some ⟨a.val, b.val, 5 + w.code * 16, 25, 0, 1⟩
  | .rredMinn a b w => some ⟨a.val, b.val, 6 + w.code * 16, 25, 0, 1⟩
  | .rredMaxn a b w => some ⟨a.val, b.val, 7 + w.code * 16, 25, 0, 1⟩
  | .rredFadd a b w => some ⟨a.val, b.val, 9 + w.code * 16, 25, 0, 1⟩
  | .fence s => some ⟨0, 0, s.code, 26, 0, 0⟩
  | .wres => some ⟨0, 0, 0, 26, 0, 1⟩
  | .binit a b => some ⟨a.val, b.val, 0, 27, 0, 0⟩
  | .bpost a b => some ⟨a.val, b.val, 0, 27, 0, 1⟩
  | .barr a => some ⟨a.val, 0, 0, 27, 0, 2⟩
  | .bwait d a b => some ⟨a.val, b.val, 0, 27, d.val, 3⟩
  | .qput a b => some ⟨a.val, b.val, 0, 28, 0, 0⟩
  | .qputNb d a b => some ⟨a.val, b.val, 1, 28, d.val, 0⟩
  | .qget d a => some ⟨a.val, 0, 0, 28, d.val, 1⟩
  | .qgetNb d a b => some ⟨a.val, b.val, 1, 28, d.val, 1⟩
  | .qputv d a => some ⟨a.val, 0, 0, 28, d.val, 2⟩
  | .qputvNb d a b => some ⟨a.val, b.val, 1, 28, d.val, 2⟩
  | .qgetv d a => some ⟨a.val, 0, 0, 28, d.val, 3⟩
  | .qgetvNb d a b => some ⟨a.val, b.val, 1, 28, d.val, 3⟩
  | .qstat d a => some ⟨a.val, 0, 0, 28, d.val, 4⟩
  | .qinit a b x => some ⟨a.val, b.val, x.val, 28, 0, 5⟩
  | .cpIn d a b x => some ⟨a.val, b.val, x.val, 29, d.val, 0⟩
  | .cpOut d a b x => some ⟨a.val, b.val, x.val, 29, d.val, 1⟩
  | .cpTt d a b x => some ⟨a.val, b.val, x.val, 29, d.val, 2⟩
  | .gx d a b w s x => some ⟨a.val, b.val, w.code * 32 + s.code * 8 + x.val, 29, d.val, 3⟩
  | .rdegPin a g => some ⟨a.val, 0, 4 + g.toNat, 30, 0, 0⟩
  | .rdegAuto a g => some ⟨a.val, 0, g.toNat, 30, 0, 0⟩
  | .rpref a b => some ⟨a.val, b.val, 0, 30, 0, 1⟩
  | .gform d a b => some ⟨a.val, b.val, 0, 31, d.val, 0⟩
  | .gstat d a => some ⟨a.val, 0, 0, 31, d.val, 1⟩
  | .coll d a b x => some ⟨a.val, b.val, x.val, 31, d.val, 2⟩
  | .cabort a => some ⟨a.val, 0, 0, 31, 0, 3⟩
  | .setvl d a => some ⟨a.val, 0, 0, 32, d.val, 0⟩
  | .setspanImm g t => some ⟨0, 0, g.toNat * 16 + t.code, 32, 0, 1⟩
  | .setspanReg a => some ⟨a.val, 0, 0, 32, 0, 2⟩
  | .oxl a k x => some ⟨a.val, 0, k.code * 8 + x.val, 32, 0, 3⟩
  | .oxs a x => some ⟨a.val, 0, x.val, 32, 0, 4⟩
  | .oxr a k x => some ⟨a.val, 0, k.code * 8 + x.val, 32, 0, 5⟩
  | .vld d a m => some ⟨a.val, 0, m.val * 8, 33, d.val, 0⟩
  | .vlds d a b m => some ⟨a.val, b.val, m.val * 8, 33, d.val, 1⟩
  | .vldx d a b m => some ⟨a.val, b.val, m.val * 8, 33, d.val, 2⟩
  | .vldxOi d a b m => some ⟨a.val, b.val, 1 + m.val * 8, 33, d.val, 2⟩
  | .vst d a m => some ⟨a.val, 0, m.val * 8, 33, d.val, 3⟩
  | .vsts d a b m => some ⟨a.val, b.val, m.val * 8, 33, d.val, 4⟩
  | .vstx d a b m => some ⟨a.val, b.val, m.val * 8, 33, d.val, 5⟩
  | .vstxOi d a b m => some ⟨a.val, b.val, 1 + m.val * 8, 33, d.val, 5⟩
  | .vappend d a m => some ⟨a.val, 0, m.val * 8, 33, d.val, 6⟩
  | .vadd d a b m => some ⟨a.val, b.val, m.val * 8, 34, d.val, 0⟩
  | .vsub d a b m => some ⟨a.val, b.val, m.val * 8, 34, d.val, 1⟩
  | .vmul d a b m => some ⟨a.val, b.val, m.val * 8, 34, d.val, 2⟩
  | .vmulh d a b m => some ⟨a.val, b.val, m.val * 8, 34, d.val, 3⟩
  | .vmin d a b m => some ⟨a.val, b.val, m.val * 8, 34, d.val, 4⟩
  | .vmax d a b m => some ⟨a.val, b.val, m.val * 8, 34, d.val, 5⟩
  | .vand d a b m => some ⟨a.val, b.val, m.val * 8, 34, d.val, 6⟩
  | .vor d a b m => some ⟨a.val, b.val, m.val * 8, 34, d.val, 7⟩
  | .vxor d a b m => some ⟨a.val, b.val, 1 + m.val * 8, 34, d.val, 0⟩
  | .vshl d a b m => some ⟨a.val, b.val, 1 + m.val * 8, 34, d.val, 1⟩
  | .vshr d a b m => some ⟨a.val, b.val, 1 + m.val * 8, 34, d.val, 2⟩
  | .vsra d a b m => some ⟨a.val, b.val, 1 + m.val * 8, 34, d.val, 3⟩
  | .vsel d a b m => some ⟨a.val, b.val, 1 + m.val * 8, 34, d.val, 5⟩
  | .vabs d a m => some ⟨a.val, 0, 1 + m.val * 8, 34, d.val, 6⟩
  | .vneg d a m => some ⟨a.val, 0, 1 + m.val * 8, 34, d.val, 7⟩
  | .vcmpEq d a b m => some ⟨a.val, b.val, 2 + m.val * 8, 34, d.val, 0⟩
  | .vcmpNe d a b m => some ⟨a.val, b.val, 2 + m.val * 8, 34, d.val, 1⟩
  | .vcmpLt d a b m => some ⟨a.val, b.val, 2 + m.val * 8, 34, d.val, 2⟩
  | .vcmpLe d a b m => some ⟨a.val, b.val, 2 + m.val * 8, 34, d.val, 3⟩
  | .vcmpGt d a b m => some ⟨a.val, b.val, 2 + m.val * 8, 34, d.val, 4⟩
  | .vcmpGe d a b m => some ⟨a.val, b.val, 2 + m.val * 8, 34, d.val, 5⟩
  | .vaddVs d a b m => some ⟨a.val, b.val, m.val * 8, 35, d.val, 0⟩
  | .vsubVs d a b m => some ⟨a.val, b.val, m.val * 8, 35, d.val, 1⟩
  | .vmulVs d a b m => some ⟨a.val, b.val, m.val * 8, 35, d.val, 2⟩
  | .vmulhVs d a b m => some ⟨a.val, b.val, m.val * 8, 35, d.val, 3⟩
  | .vminVs d a b m => some ⟨a.val, b.val, m.val * 8, 35, d.val, 4⟩
  | .vmaxVs d a b m => some ⟨a.val, b.val, m.val * 8, 35, d.val, 5⟩
  | .vandVs d a b m => some ⟨a.val, b.val, m.val * 8, 35, d.val, 6⟩
  | .vorVs d a b m => some ⟨a.val, b.val, m.val * 8, 35, d.val, 7⟩
  | .vxorVs d a b m => some ⟨a.val, b.val, 1 + m.val * 8, 35, d.val, 0⟩
  | .vshlVs d a b m => some ⟨a.val, b.val, 1 + m.val * 8, 35, d.val, 1⟩
  | .vshrVs d a b m => some ⟨a.val, b.val, 1 + m.val * 8, 35, d.val, 2⟩
  | .vsraVs d a b m => some ⟨a.val, b.val, 1 + m.val * 8, 35, d.val, 3⟩
  | .vselVs d a b m => some ⟨a.val, b.val, 1 + m.val * 8, 35, d.val, 5⟩
  | .vcmpEqVs d a b m => some ⟨a.val, b.val, 2 + m.val * 8, 35, d.val, 0⟩
  | .vcmpNeVs d a b m => some ⟨a.val, b.val, 2 + m.val * 8, 35, d.val, 1⟩
  | .vcmpLtVs d a b m => some ⟨a.val, b.val, 2 + m.val * 8, 35, d.val, 2⟩
  | .vcmpLeVs d a b m => some ⟨a.val, b.val, 2 + m.val * 8, 35, d.val, 3⟩
  | .vcmpGtVs d a b m => some ⟨a.val, b.val, 2 + m.val * 8, 35, d.val, 4⟩
  | .vcmpGeVs d a b m => some ⟨a.val, b.val, 2 + m.val * 8, 35, d.val, 5⟩
  | .vfadd d a b m => some ⟨a.val, b.val, m.val * 8, 36, d.val, 0⟩
  | .vfsub d a b m => some ⟨a.val, b.val, m.val * 8, 36, d.val, 1⟩
  | .vfmul d a b m => some ⟨a.val, b.val, m.val * 8, 36, d.val, 2⟩
  | .vfdiv d a b m => some ⟨a.val, b.val, m.val * 8, 36, d.val, 3⟩
  | .vfmin d a b m => some ⟨a.val, b.val, m.val * 8, 36, d.val, 4⟩
  | .vfmax d a b m => some ⟨a.val, b.val, m.val * 8, 36, d.val, 5⟩
  | .vfma d a b m => some ⟨a.val, b.val, m.val * 8, 36, d.val, 6⟩
  | .vfms d a b m => some ⟨a.val, b.val, m.val * 8, 36, d.val, 7⟩
  | .vfsqrt d a m => some ⟨a.val, 0, 1 + m.val * 8, 36, d.val, 0⟩
  | .vfabs d a m => some ⟨a.val, 0, 1 + m.val * 8, 36, d.val, 1⟩
  | .vfneg d a m => some ⟨a.val, 0, 1 + m.val * 8, 36, d.val, 2⟩
  | .vfclass d a m => some ⟨a.val, 0, 1 + m.val * 8, 36, d.val, 3⟩
  | .vfcmpEq d a b m => some ⟨a.val, b.val, 1 + m.val * 8, 36, d.val, 4⟩
  | .vfcmpNe d a b m => some ⟨a.val, b.val, 1 + m.val * 8, 36, d.val, 5⟩
  | .vfcmpLt d a b m => some ⟨a.val, b.val, 1 + m.val * 8, 36, d.val, 6⟩
  | .vfcmpLe d a b m => some ⟨a.val, b.val, 1 + m.val * 8, 36, d.val, 7⟩
  | .vfaddVs d a b m => some ⟨a.val, b.val, m.val * 8, 37, d.val, 0⟩
  | .vfsubVs d a b m => some ⟨a.val, b.val, m.val * 8, 37, d.val, 1⟩
  | .vfmulVs d a b m => some ⟨a.val, b.val, m.val * 8, 37, d.val, 2⟩
  | .vfdivVs d a b m => some ⟨a.val, b.val, m.val * 8, 37, d.val, 3⟩
  | .vfminVs d a b m => some ⟨a.val, b.val, m.val * 8, 37, d.val, 4⟩
  | .vfmaxVs d a b m => some ⟨a.val, b.val, m.val * 8, 37, d.val, 5⟩
  | .vfmaVs d a b m => some ⟨a.val, b.val, m.val * 8, 37, d.val, 6⟩
  | .vfmsVs d a b m => some ⟨a.val, b.val, m.val * 8, 37, d.val, 7⟩
  | .vfcmpEqVs d a b m => some ⟨a.val, b.val, 1 + m.val * 8, 37, d.val, 4⟩
  | .vfcmpNeVs d a b m => some ⟨a.val, b.val, 1 + m.val * 8, 37, d.val, 5⟩
  | .vfcmpLtVs d a b m => some ⟨a.val, b.val, 1 + m.val * 8, 37, d.val, 6⟩
  | .vfcmpLeVs d a b m => some ⟨a.val, b.val, 1 + m.val * 8, 37, d.val, 7⟩
  | .vcvt d a s m r => some ⟨a.val, s.code, m.val * 8, 38, d.val, r.code⟩
  | .vpack d a b m x => some ⟨a.val, b.val, 1 + m.val * 8, 38, d.val, x.val⟩
  | .vunpack d a b m x => some ⟨a.val, b.val, 2 + m.val * 8, 38, d.val, x.val⟩
  | .vredAdd d a m => some ⟨a.val, 0, m.val * 8, 39, d.val, 0⟩
  | .vredMin d a m => some ⟨a.val, 0, m.val * 8, 39, d.val, 1⟩
  | .vredMax d a m => some ⟨a.val, 0, m.val * 8, 39, d.val, 2⟩
  | .vredAnd d a m => some ⟨a.val, 0, m.val * 8, 39, d.val, 3⟩
  | .vredOr d a m => some ⟨a.val, 0, m.val * 8, 39, d.val, 4⟩
  | .vredXor d a m => some ⟨a.val, 0, m.val * 8, 39, d.val, 5⟩
  | .vscanIncAdd d a m => some ⟨a.val, 0, 1 + m.val * 8, 39, d.val, 0⟩
  | .vscanIncMin d a m => some ⟨a.val, 0, 1 + m.val * 8, 39, d.val, 1⟩
  | .vscanIncMax d a m => some ⟨a.val, 0, 1 + m.val * 8, 39, d.val, 2⟩
  | .vscanIncAnd d a m => some ⟨a.val, 0, 1 + m.val * 8, 39, d.val, 3⟩
  | .vscanIncOr d a m => some ⟨a.val, 0, 1 + m.val * 8, 39, d.val, 4⟩
  | .vscanIncXor d a m => some ⟨a.val, 0, 1 + m.val * 8, 39, d.val, 5⟩
  | .vscanExcAdd d a m => some ⟨a.val, 0, 2 + m.val * 8, 39, d.val, 0⟩
  | .vscanExcMin d a m => some ⟨a.val, 0, 2 + m.val * 8, 39, d.val, 1⟩
  | .vscanExcMax d a m => some ⟨a.val, 0, 2 + m.val * 8, 39, d.val, 2⟩
  | .vscanExcAnd d a m => some ⟨a.val, 0, 2 + m.val * 8, 39, d.val, 3⟩
  | .vscanExcOr d a m => some ⟨a.val, 0, 2 + m.val * 8, 39, d.val, 4⟩
  | .vscanExcXor d a m => some ⟨a.val, 0, 2 + m.val * 8, 39, d.val, 5⟩
  | .vredbs d a b m => some ⟨a.val, b.val, 3 + m.val * 8, 39, d.val, 0⟩
  | .vxchg d a b m => some ⟨a.val, b.val, m.val * 8, 40, d.val, 0⟩
  | .vrot d a b m => some ⟨a.val, b.val, m.val * 8, 40, d.val, 1⟩
  | .vbcast d a m => some ⟨a.val, 0, m.val * 8, 40, d.val, 2⟩
  | .vcompress d a m => some ⟨a.val, 0, m.val * 8, 40, d.val, 3⟩
  | .vexpand d a m => some ⟨a.val, 0, m.val * 8, 40, d.val, 4⟩
  | .vperm d a b m => some ⟨a.val, b.val, m.val * 8, 40, d.val, 5⟩
  | .vslideUp d a b m => some ⟨a.val, b.val, m.val * 8, 40, d.val, 6⟩
  | .vslideDn d a b m => some ⟨a.val, b.val, m.val * 8, 40, d.val, 7⟩
  | .mand d a b => some ⟨a.val, b.val, 0, 41, d.val, 0⟩
  | .mor d a b => some ⟨a.val, b.val, 0, 41, d.val, 1⟩
  | .mxor d a b => some ⟨a.val, b.val, 0, 41, d.val, 2⟩
  | .mnot d a => some ⟨a.val, 0, 0, 41, d.val, 3⟩
  | .mpop d a => some ⟨a.val, 0, 0, 41, d.val, 4⟩
  | .mfirst d a => some ⟨a.val, 0, 0, 41, d.val, 5⟩
  | .mset d a => some ⟨a.val, 0, 0, 41, d.val, 6⟩
  | .vexp2 d a m => some ⟨a.val, 0, m.val * 8, 42, d.val, 0⟩
  | .vlog2 d a m => some ⟨a.val, 0, m.val * 8, 42, d.val, 1⟩
  | .vrcp d a m => some ⟨a.val, 0, m.val * 8, 42, d.val, 2⟩
  | .vrsqrt d a m => some ⟨a.val, 0, m.val * 8, 42, d.val, 3⟩
  | .vsinpi d a m => some ⟨a.val, 0, m.val * 8, 42, d.val, 4⟩
  | .vcospi d a m => some ⟨a.val, 0, m.val * 8, 42, d.val, 5⟩
  | .vtanh d a m => some ⟨a.val, 0, m.val * 8, 42, d.val, 6⟩
  | .vsigm d a m => some ⟨a.val, 0, m.val * 8, 42, d.val, 7⟩
  | .vrng d a b m => some ⟨a.val, b.val, m.val * 8, 43, d.val, 0⟩
  | .mma d a b x => some ⟨a.val, b.val, x.val, 48, d.val, 0⟩
  | .mzero d t a => some ⟨a.val, 0, t.code, 48, d.val, 1⟩
  | .mld d a b t => some ⟨a.val, b.val, t.code, 48, d.val, 2⟩
  | .mst d a x => some ⟨a.val, 0, x.val, 48, d.val, 3⟩
  | .macc d a => some ⟨a.val, 0, 0, 48, d.val, 4⟩
  | .mrowR d a b => some ⟨a.val, b.val, 0, 48, d.val, 5⟩
  | .mrowW d a b => some ⟨a.val, b.val, 1, 48, d.val, 5⟩
  | .gor2 d a t z m x => some ⟨a.val, t.toNat * 8 + z.val, m.val * 8, 56, d.val, x.val⟩
  | .gor3 d a t z m x => some ⟨a.val, t.toNat * 8 + z.val, 1 + m.val * 8, 56, d.val, x.val⟩
  | .ginc d a t z m x => some ⟨a.val, t.toNat * 8 + z.val, 2 + m.val * 8, 56, d.val, x.val⟩
  | .gins d a t z m x => some ⟨a.val, t.toNat * 8 + z.val, 3 + m.val * 8, 56, d.val, x.val⟩
  | .gsegx d a t z m x => some ⟨a.val, t.toNat * 8 + z.val, 4 + m.val * 8, 56, d.val, x.val⟩
  | .svc i => some ⟨0, i.toNat / 64, i.toNat % 64, 60, 0, 0⟩
  | .brk i => some ⟨0, i.toNat / 64, i.toNat % 64, 60, 0, 1⟩
  | .eret => some ⟨0, 0, 0, 60, 0, 2⟩
  | .ifence => some ⟨0, 0, 0, 60, 0, 3⟩
  | .done => some ⟨0, 0, 0, 60, 0, 4⟩
  | .yield => some ⟨0, 0, 0, 60, 0, 5⟩
  | .hop a => some ⟨a.val, 0, 0, 60, 0, 6⟩
  | .cncl a l => some ⟨a.val, 0, l.code, 60, 0, 7⟩
  | .ctlr d n => some ⟨0, n.toNat / 64, n.toNat % 64, 61, d.val, 0⟩
  | .ctlw a n => some ⟨a.val, n.toNat / 64, n.toNat % 64, 61, 0, 1⟩
  | .ctlx d a n => some ⟨a.val, n.toNat / 64, n.toNat % 64, 61, d.val, 2⟩
  | .tlbinv a b => some ⟨a.val, b.val, 0, 61, 0, 3⟩
  | _ => none

/-- The halfword of a 16-bit instruction (R90). -/
def encHalf : Instr → Option Nat
  | .cMov d a => some (d.val * 128 + a.val * 4)
  | .cAdd d a => some (1 + d.val * 128 + a.val * 4)
  | .cAddi d i => some (2 + d.val * 128 + i.toNat * 4)
  | .cLd d a => some (4096 + d.val * 128 + a.val * 4)
  | .cSt a b => some (4097 + a.val * 4 + b.val * 128)
  | .cBeqz a o => some (8192 + a.val * 128 + o.toNat)
  | .cBnez a o => some (12288 + a.val * 128 + o.toNat)
  | .cJ o => some (16384 + o.toNat)
  | _ => none

/-- The encoder: length in bytes and word of an instruction; none for an event, which has no word. -/
def encode (i : Instr) : Option (Nat × Nat) :=
  match encFields i with
  | some f => some (4, f.word)
  | none => (encHalf i).map fun h => (2, h)

/-- The `n` little-endian bytes of a number (R7). -/
def bytesOf : Nat → Nat → List Byte
  | 0, _ => []
  | n + 1, w => BitVec.ofNat 8 w :: bytesOf n (w / 256)

/-- The number with the given little-endian bytes (R7). -/
def ofBytes : List Byte → Nat
  | [] => 0
  | b :: bs => b.toNat + 256 * ofBytes bs

/-- The instruction the decoder reads from a word numbered as the opcode table numbers it: bit 0 is the
least significant bit of the first halfword. An event row has no bits; a word shorter than the
instruction has zeros above. -/
noncomputable def decodeTableWord (nbits w : Nat) : Option Instr :=
  if nbits = 0 then none
  else match decode (bytesOf 4 (w % 2 ^ nbits)) with
    | .ok (i, _) => some i
    | .error _ => none

end Sys2Proof
end

