-- ==== Sys2Proof/Machine/State.lean ====
section
/-! DEFINITION. The state of the machine as plain data, the reasons a step can stop, and reset. -/

namespace Sys2Proof.Machine

/-- R43: privilege levels. -/
inductive Level where
  | strand | system
  deriving DecidableEq, Repr

/-- R18: states of a slot. -/
inductive SlotState where
  | free | running | claimed
  deriving DecidableEq, Repr

/-- An operand-extension register with its tags (R37, R107). -/
structure Ox where
  val : Word
  kind : BitVec 3
  /-- The IF tag: the record is ill-formed. -/
  bad : Bool
  deriving DecidableEq, Repr

/-- An accumulator (R37, R40, R79, R263): 64 row images, TYPE, LOCK and F. -/
structure Acc where
  rows : Vector VReg2048 64
  ty : AccTy
  lock : Bool
  f : BitVec 7
  deriving DecidableEq, Repr

/-- Chunk-private state (R23): a fork image, and part of a slot. -/
structure Image where
  v : Vector VReg2048 32
  m : Vector (BitVec 256) 8
  acc : Vector Acc 4
  vl : BitVec 9
  /-- SPAN[8:0]: IF at bit 8, G at [5:4], ET at [3:0] (R42). -/
  span : BitVec 9
  ridx : BitVec 9
  flags : BitVec 6
  deriving DecidableEq, Repr

/-- The control class of a save area (R16): FORKCTL, PREDCTL, DETCTL, PRIVBASE, TVEC, PTROOT. -/
structure Control where
  /-- WIDTH at [3:1], EN at 0. -/
  forkctl : BitVec 4
  /-- EXCL at [31:1], EN at 0. -/
  predctl : BitVec 32
  /-- POL at 1, DET at 0; EXW is computed. -/
  detctl : BitVec 2
  /-- BASE at [54:16], SIZE at [15:0]. -/
  privbase : BitVec 55
  tvec : BitVec 56
  /-- Bits [54:16]. -/
  ptroot : BitVec 55
  deriving DecidableEq, Repr

/-- One bit per register class (R16). -/
structure Classes where
  s : Bool
  ox : Bool
  control : Bool
  m : Bool
  v : Bool
  acc : Bool
  deriving DecidableEq, Repr

/-- A trap before it is taken (R27, R407). -/
structure Trap where
  code : BitVec 8
  tval : Word
  /-- CAUSE.ELEM: taken between element groups. -/
  elem : Bool
  /-- Added to the PC to give EPC: 4 for `svc`. -/
  skip : Nat
  deriving DecidableEq, Repr

/-- What a strand waits for (R14). -/
inductive WaitFor where
  | fullEmpty | queue | barrier | reservation | group
  deriving DecidableEq, Repr

/-- A wait of a slot (R175, R191, R198, R394). -/
structure Wait where
  what : WaitFor
  /-- The home location of the word, QCB or barrier. -/
  loc : Nat
  /-- Tick at which SPIN began. -/
  since : Nat
  /-- Tick from which the time limit counts, and the limit (R191, R214). -/
  t0 : Nat
  lim : Nat
  /-- A waiter entry is held at home. -/
  entry : Bool
  nacks : Nat
  /-- Tick at which the request is next sent after a NACK. -/
  retryAt : Nat
  /-- Woken, or due to try again: the instruction re-executes at the slot's next turn. -/
  woken : Bool
  deriving DecidableEq, Repr

/-- Kinds of transfer (R419). -/
inductive IlkKind where
  | cpIn | cpOut | cpTt | gx | coll
  deriving DecidableEq, Repr

/-- An entry of an interlock table (R209, R419): source and destination ranges. (DEDUCED, log 21) -/
structure Ilk where
  kind : IlkKind
  id : Nat
  src : Nat
  slen : Nat
  dst : Nat
  dlen : Nat
  /-- Exponents that a converting transfer reads and writes; empty ranges otherwise. -/
  esrc : Nat
  eslen : Nat
  edst : Nat
  edlen : Nat
  deriving DecidableEq, Repr

/-- Integer and floating operations of atomics (R180), in code order. -/
inductive AmoOp where
  | add | and | or | xor | min | max | minn | maxn | swap | fadd
  deriving DecidableEq, Repr

/-- What a request asks of a home slice. Sizes are in bytes. -/
inductive HomeOp where
  | load (n : Nat)
  | lr (n : Nat)
  | sc (n : Nat) (x : Word)
  | cas (n : Nat) (cmp new : Word)
  | amo (op : AmoOp) (n : Nat) (x : Word)
  | rred (op : AmoOp) (n : Nat) (x : Word)
  | ldFe
  | stFe (x : Word)
  | ldFf
  | feSet
  | feClr
  | binit (x : Word)
  | bpost (b : Word)
  | barr
  | bwait (phase : Bool) (expired : Bool)
  | put (e : List Byte) (nb : Bool)
  | get (bytes : Nat) (nb : Bool)
  | qstat
  | qinit (data : Nat) (log2es log2cap : Nat)
  deriving DecidableEq, Repr

/-- What a home slice answers. -/
inductive Answer where
  /-- A word, the flags to set, and the offset of the lowest lost byte, if any. -/
  | value (x : Word) (flags : BitVec 6) (lost : Option Nat)
  /-- Bytes of a dequeue, with the count moved. -/
  | bytes (b : List Byte) (count : Nat) (lost : Bool)
  /-- Registered as a waiter. -/
  | wait
  /-- The waiter table is full. -/
  | nack
  /-- A trap cause with TVAL the address as issued. -/
  | trap (code : BitVec 8)
  deriving DecidableEq, Repr

/-- Lost bytes have no value: a byte of a delivered line, `none` where its data is uncorrectable. -/
abbrev Cell? := Nat × Option Byte

/-- A 256-byte line's data delivered to a die or a slot. -/
structure Line where
  line : Nat
  data : List (Option Byte)
  deriving DecidableEq, Repr

/-- Causes of a squash (R323). -/
inductive SquashCause where
  | value | memory | exit
  deriving DecidableEq, Repr

/-- Where a cached translation stands (R369): the micro-TLB of a core, the TLB of a ring, the die's last level. -/
inductive TlbAt where
  | core (ring core : Nat)
  | ring (ring : Nat)
  | die
  deriving DecidableEq, Repr

/-- A TLB entry (R369): where it stands, the root it was walked from, the page's first virtual address, its level, the
PTE's location and value. -/
structure TlbEntry where
  held : TlbAt
  root : Nat
  va : Nat
  level : Nat
  pteLoc : Nat
  pte : Word
  deriving DecidableEq, Repr

/-- A walk-cache entry (R369): a node entry of level 3 or 2, the root and the addresses it serves, its value. -/
structure WalkEntry where
  root : Nat
  level : Nat
  va : Nat
  pte : Word
  deriving DecidableEq, Repr

/-- A chunk of a forked region in a slot (R21, 09_ring_speculation.md). -/
structure Chunk where
  /-- j of R21. -/
  j : Nat
  oldest : Bool
  final : Bool
  /-- The chunk keeps ER and WR bits and a commit list; false once it runs non-speculatively. -/
  spec : Bool
  iter : Nat
  depth : BitVec 16
  /-- Traps of the oldest chunk whose handlers have not returned (R31, R142). -/
  traps : Nat
  /-- The chunk has ended and waits at the weir. -/
  ended : Bool
  /-- Squashed, and not restarted yet (R322). -/
  restart : Bool
  /-- WR bytes with their values, canonical by location. -/
  wr : List Host.Cell
  /-- VALID bytes that are not WR. -/
  valid : List Host.Cell
  /-- ER sectors. -/
  er : List Nat
  /-- Commit list: sectors in the order of their first write. -/
  commit : List Nat
  /-- Sectors of the commit list that an ordered store has written (R240). -/
  ordered : List Nat
  /-- Translations whose A or D the weir sets, and whether D too (R368). -/
  marks : List (TlbEntry × Bool)
  /-- The weir drains the commit list (R327): ER bits are dropped, no STORE or SQUASH acts any more. -/
  weir : Bool
  /-- A capacity event stands (R315): once oldest the chunk passes the weir and runs non-speculatively. -/
  cap : Bool
  /-- FINAL bits, RX bits and written bits of s0 to s31. -/
  fin : BitVec 32
  rx : BitVec 32
  wrote : BitVec 32
  /-- The live-in values that reads have taken, predicted or final. -/
  pred : List (Nat × Word)
  /-- ox registers read before written, written, and the chunk each live-in came from. -/
  oxRead : BitVec 8
  oxWrote : BitVec 8
  oxFrom : List (Nat × Nat)
  /-- The ox live-ins that reads have taken. -/
  oxVals : List (Nat × Ox)
  /-- LIVEOUT values sent so far. -/
  sent : BitVec 32
  held : Option Trap
  /-- Live-ins whose read has waited (R329). -/
  waited : BitVec 32
  /-- Successive memory squashes of this chunk while oldest (R323). -/
  memSq : Nat
  /-- The last squash: its tick, its origin's number, and its cause; counted here unless it came by SQUASH (R324). -/
  sq : Option (Nat × Nat × SquashCause × Bool)
  deriving DecidableEq, Repr

/-- A forked region (R20 to R31): common to the slots that run its chunks. -/
structure Region where
  die : DieId
  ring : Nat
  strand : Word
  head : Word
  exit : Word
  /-- Chunk length; 0 is unbounded. -/
  c : Nat
  image : Image
  /-- Classes m, v, acc live at the fork (R326). -/
  live : Classes
  /-- Fork-time FLAGS ORed with those of committed chunks (R23). -/
  flags : BitVec 6
  /-- Writes of the fork image that have not entered the shared cache yet (R326). -/
  todo : List (Nat × List Byte)
  /-- Claimed slots in claim order, the claiming slot first, and the number of the chunk that claimed (R31). -/
  slots : List SlotNo
  base : Nat
  /-- The claim has come back round the ring, or no claim was sent. -/
  claimed : Bool
  /-- Number of the next chunk to start, and chunks that have passed the weir. -/
  next : Nat
  passed : Nat
  /-- s and ox registers at the end of the last chunk that passed the weir; fork-time values before. -/
  lastS : Vector Word 32
  lastOx : Vector Ox 8
  /-- Dirty classes: at the fork, and those of committed chunks for s, ox and control. -/
  dirty : Classes
  deriving DecidableEq, Repr

/-- A slot with the strand or chunk it runs (R37, R42). -/
structure Ctx where
  die : DieId
  slot : SlotNo
  state : SlotState
  level : Level
  /-- PC; bits [63:56] are kept until the fetch checks them (R140, log 7). -/
  pc : Word
  /-- The instruction word being issued, zero-extended (R87). -/
  iword : BitVec 32
  s : Vector Word 32
  ox : Vector Ox 8
  img : Image
  ctl : Control
  rmode : BitVec 3
  dmask : BitVec 16
  strand : Word
  launch : Word
  deadline : Word
  prio : BitVec 3
  epc : BitVec 56
  /-- SPL 10, ELEM 9, HELD 8, CODE [7:0]. -/
  cause : BitVec 11
  tval : Word
  dirty : Classes
  /-- Live bits of classes m, v, acc (R326). -/
  live : Classes
  chunk : Option Chunk
  ilk : List Ilk
  perfPend : BitVec 12
  colPend : Vector (BitVec 12) 16
  /-- `rred` packets that their homes have not performed yet (R182). -/
  rredPend : Nat
  /-- Numbers of the `rred` packets that went to device space or a DEV page (R171). -/
  rredDev : List Nat
  wait : Option Wait
  /-- Number of the request that awaits its answer (R167), and an answer not yet used. -/
  sent : Option Nat
  answer : Option Answer
  /-- Tick at which that request was issued (R191). -/
  asked : Nat
  /-- Lines delivered for the load in progress. -/
  lines : List Line
  /-- FLAGS of the elements performed in an element group that has not completed (R230); none between groups. -/
  part : Option (BitVec 6)
  /-- Columns that an `mst` has stored of the row in hand, when it waits within the row (R276). -/
  cols : Nat
  /-- The bank format that the element group in hand found (R77). -/
  groupFmt : Option (ETy × Nat)
  /-- LATE mark, LATE taken (R400). -/
  latem : Bool
  latet : Bool
  /-- Packets of accesses, fetches and walks past the deadline to the die's own slices, which may be arbitrated late (R400). -/
  overdue : Nat
  /-- STEP, and a step trap that is due (R422). -/
  step : Bool
  stepDue : Bool
  /-- Watch matching is suppressed until the next instruction completes or traps (R421). -/
  nowatch : Bool
  /-- WEND of the record, when valid (R415). -/
  wend : Option (BitVec 40)
  /-- Classes held by the save area, and SAVE (R415, R417). -/
  heldBits : BitVec 8
  save : Word
  /-- Last suspension (SUSP of R415). -/
  susp : BitVec 4
  /-- Deficit counter (R396). -/
  deficit : Int
  /-- The instruction at the PC has been granted and charged (R396). -/
  granted : Bool
  /-- The instruction at the PC has had its turn at the sequencer, and something held it (R396). -/
  stalled : Bool
  /-- A `done`, or a `cncl` that ends the strand, has begun its effect (R124). -/
  ending : Bool
  dispatched : Nat
  /-- A stop deferred by system level (R412): SUSP code and HCODE. -/
  stopReq : Option (BitVec 4)
  /-- Tick at which a stop reached the slot at strand level (R414). -/
  stopTick : Option Nat
  /-- The interlock entries that stood when the halt under way began (R419). -/
  stood : Option (List Ilk)
  /-- In-flight `mma` (R266): the accumulator, its contents at retirement, the flags it raises. -/
  mmaAcc : Option (AccReg × Acc × BitVec 6)
  /-- Physical addresses of the launch header and node record (R374). -/
  header : Nat
  node : Nat
  deriving DecidableEq, Repr

/-- A bank's format register BFMT (R73). -/
structure Bfmt where
  epoff : BitVec 16
  fmtv : Bool
  fmt : BitVec 4
  deriving DecidableEq, Repr

/-- Who awaits PERF and CACK (R345): a slot, an agent that carries a transfer, or the home itself. -/
inductive Requester where
  | slot (die : DieId) (slot : SlotNo)
  | transfer (id : Nat)
  | home (die : DieId)
  /-- The slots whose stores were merged into one entry (R341). -/
  | slots (l : List (DieId × SlotNo))
  | none
  deriving DecidableEq, Repr

/-- An entry of a pending-store table (R341): a sector's bytes and the stores merged into it. -/
structure Pend where
  id : Nat
  sector : Nat
  bytes : List Host.Cell
  /-- Bytes of which a store of a 4-bit element gives one half (R238): the high half, and its four bits. -/
  halves : List (Nat × Bool × BitVec 4)
  /-- A store to a DEV page (R171): never merged. -/
  dev : Bool
  writers : List Requester
  /-- Sent, and performed at home; its PERF has not come yet. -/
  sent : Bool
  deriving DecidableEq, Repr

/-- A home-directory entry (R342). -/
structure DirEntry where
  line : Nat
  coarse : Bool
  holders : List DieId
  deriving DecidableEq, Repr

/-- A region-table entry (R348). -/
structure RegionEntry where
  index : Nat
  deg : BitVec 2
  pin : Bool
  up : BitVec 2
  down : BitVec 2
  rsh : BitVec 8
  col : BitVec 8
  deriving DecidableEq, Repr

/-- A reservation (R178, R356): sector, and the slot that holds it. -/
structure Resv where
  sector : Nat
  die : DieId
  slot : SlotNo
  deriving DecidableEq, Repr

/-- A waiter at a home slice (R175, R191, R198). -/
structure Waiter where
  what : WaitFor
  /-- For a queue: a put waiter. -/
  put : Bool
  loc : Nat
  die : DieId
  strand : Word
  deriving DecidableEq, Repr

/-- A predictor table (R319). -/
structure PredTable where
  ring : Nat
  strand : Word
  last : Vector Word 32
  stride : Vector Word 32
  conf : Vector (BitVec 2) 32
  deriving DecidableEq, Repr

/-- A hot-row tracker (R359) and a pinned row (R360). -/
structure Tracker where
  channel : Nat
  bank : Nat
  rows : List (Nat × Nat)
  deriving DecidableEq, Repr

structure Pin where
  channel : Nat
  bank : Nat
  row : Nat
  holdEnd : Nat
  deriving DecidableEq, Repr

/-- State of a group-table entry (R217, R448). -/
inductive GroupState where
  | free | forming | ready | aborted
  deriving DecidableEq, Repr

/-- A collective operation of a group that has not landed (R218, R447). -/
structure CollOp where
  seqno : Nat
  /-- Number of its interlock entry, the issuing strand and its slot. -/
  id : Nat
  strand : Word
  slot : SlotNo
  since : Nat
  /-- OP, DTYPE, ROP, ROOT and COUNT. -/
  fields : BitVec 48
  /-- Destination as pieces of locations and lengths, its flat address, the barrier's location, bytes posted. -/
  dst : List (Nat × Nat)
  flat : Nat
  barrier : Nat
  bytes : Nat
  /-- Contributions received, by rank, in order of arrival. -/
  parts : List (Nat × List Byte)
  lost : Bool
  /-- The result is written, and its landing is due. -/
  written : Bool
  /-- Deadline of the issuing strand, which its packets carry (R398). -/
  due : Word
  deriving DecidableEq, Repr

/-- The formation that a FORMING entry takes part in (R448). -/
structure Forming where
  members : List Member
  rank : BitVec 10
  det : Bool
  reform : Bool
  /-- TMO in ticks. -/
  tmo : Nat
  /-- The strand whose `gform` waits, and since when. -/
  strand : Word
  since : Nat
  deriving DecidableEq, Repr

/-- A group-table entry (R448). -/
structure Group where
  handle : BitVec 8
  state : GroupState
  /-- State before FORMING. -/
  prior : GroupState
  cause : BitVec 8
  gen : BitVec 32
  rank : BitVec 10
  det : Bool
  members : List Member
  tmo : Nat
  /-- The GID of the current generation, and those of earlier ones (R447). -/
  gid : Option Gid
  oldGids : List Gid
  forming : Option Forming
  /-- Registrations held by rank 0, each with the registering die's own handle when that die is on this module. -/
  regs : List (GroupReg × Option (DieId × BitVec 8))
  /-- Sequence number of the next collective, those pending, and packets that came early. -/
  seqno : Nat
  ops : List CollOp
  early : List CollPkt
  deriving DecidableEq, Repr

/-- The outcome of a `gform` that its strand has not taken yet (R215): the strand, its handle, STATUS and GEN. -/
structure FormDone where
  strand : Word
  handle : BitVec 8
  status : BitVec 8
  gen : BitVec 32
  deriving DecidableEq, Repr

/-- A strand that is not in a slot: ready, parked or deep (R386, R394). -/
structure Waiting where
  strand : Word
  /-- The continuation record's virtual address and the root it is reached through. -/
  record : Word
  root : Nat
  header : Nat
  node : Nat
  prio : BitVec 3
  deadline : Word
  cls : BitVec 2
  place : BitVec 16
  /-- Tick of becoming ready, or of parking. -/
  since : Nat
  /-- A strand that has not run is new; others are resumed (R391), or ranked under R154 after `yield`. -/
  isNew : Bool
  yielded : Bool
  /-- Its quantum ran out (R392): one slot goes to a strand of its priority that waited. -/
  sliced : Bool
  /-- A step trap was due when the strand left its slot (R422). -/
  stepDue : Bool
  /-- Entry continuation, for a new strand. -/
  entry : Word
  deriving DecidableEq, Repr

/-- A parked strand (R394). -/
structure Parked where
  w : Waiting
  deep : Bool
  wait : Wait
  deriving DecidableEq, Repr

/-- A LIVE launch at its target die (R375, R387). -/
structure Live where
  node : Nat
  header : Nat
  handle : Word
  entry : Word
  root : Nat
  contbase : Word
  serial : BitVec 32
  /-- Next index to hand out and the number of strands. -/
  next : Nat
  count : Nat
  prio : BitVec 3
  deadline : Word
  cls : BitVec 2
  place : BitVec 16
  since : Nat
  /-- A batch handed to another die: the die and the first index not in it (R387). -/
  batch : Option (DieId × Nat)
  /-- Rings whose staging copies have been issued (R389). -/
  staged : List (DieId × Nat)
  /-- Graph, job and submission root (R376). -/
  graph : Nat
  sroot : Nat
  deriving DecidableEq, Repr

/-- A ready node that has not started (R386). -/
structure ReadyNode where
  node : Nat
  sroot : Nat
  /-- The graph it was made ready in. -/
  graph : Nat
  since : Nat
  /-- The target die whose queue holds it; none while it waits at its home (R386). -/
  target : Option DieId
  deriving DecidableEq, Repr

/-- A job or graph that runs at its home reservoir (R377): the objects' physical addresses. -/
structure Run where
  die : DieId
  sroot : Nat
  /-- 4 for a job, 2 for a graph submitted alone. -/
  level : Nat
  job : Nat
  phase : Nat
  graph : Nat
  /-- The phase waits at its host gate. -/
  gated : Bool
  tag : Word
  addr : Word
  deriving DecidableEq, Repr

/-- A ring's ageing state (R460 to R465): 0 active, 1 spare idle, 2 spare failed, 3 retired, 4 fenced. -/
structure RingAge where
  margin : Option Nat
  gb : Nat
  st : Nat
  deriving DecidableEq, Repr

/-- An RDMA window (R434). -/
structure Window where
  key : Word
  base : Nat
  len : Nat
  read : Bool
  write : Bool
  deriving DecidableEq, Repr

/-- A telemetry subscription (R432). -/
structure Subscription where
  period : Nat
  block : Word
  first : Nat
  count : Nat
  next : Nat
  deriving DecidableEq, Repr

/-- The device registers of a die (R331 and the chapters it names). -/
structure DevRegs where
  hmask : Word
  replctl : Word
  hotctl : Word
  rsvctl : Word
  fabctl : Word
  podctl : Word
  podroot : Word
  agectl : Word
  ptpctl : Word
  dbgctl : Word
  dbgwp : Vector (Word × Word) 8
  /-- The manifest of R459 (die 4), nine dwords. -/
  manifest : Vector Word 9
  deriving DecidableEq, Repr

/-- A line that a core's L1I holds, or the fetch buffer of one of its slots (R156). (DESIGN CHOICE, log 10) -/
structure ICopy where
  ring : Nat
  core : Nat
  /-- The slot whose fetch buffer holds it; none for the L1I. -/
  slot : Option SlotNo
  line : Line
  deriving DecidableEq, Repr

/-- A line in a slice of a die's shared cache (R336, R338, R339): its dirty sectors, and the cores whose L1D holds a copy. (DESIGN CHOICE, log 48) -/
structure SharedLine where
  line : Nat
  dirty : BitVec 8
  cores : List Nat
  deriving DecidableEq, Repr

/-- A line in the memory-side cache (R357), with its dirty sectors. (DESIGN CHOICE, log 48) -/
structure MemLine where
  line : Nat
  dirty : BitVec 8
  deriving DecidableEq, Repr

/-- A die. -/
structure Die where
  present : Bool
  reason : BitVec 4
  /-- The die's own images verified (R455); its table digest and SVN. -/
  verified : Bool
  verifiedAt : Nat
  digest : BitVec 256
  svn : Nat
  svnMin : Nat
  leaves : Nat
  regs : DevRegs
  bfmt : Vector Bfmt 64
  /-- Filled by PAGE_WALK, most recently filled first (DEDUCED, log 18). -/
  tlb : List TlbEntry
  walks : List WalkEntry
  icopies : List ICopy
  /-- Tile-store lines whose REMOTE bit is set (R333). -/
  remote : List Nat
  replicas : List Line
  /-- Lines of the shared cache and of the memory-side cache, the most recently used first (R339, R357). -/
  shared : List SharedLine
  memside : List MemLine
  pend : List Pend
  dir : List DirEntry
  regions : List RegionEntry
  resv : List Resv
  waiters : List Waiter
  groups : List Group
  /-- Outcomes of `gform` that are not taken yet. -/
  formed : List FormDone
  /-- Ranks that rank 0 on this die has refused with MISMATCH before they registered: its handle and the rank (R449). -/
  refused : List (BitVec 8 × Nat)
  preds : List PredTable
  /-- The slot of each core whose turn at the vector sequencer it is (R396). -/
  turns : Vector (Fin 4) 64
  /-- Serial number and strands of the launches that have ended here (R157, R388). -/
  past : List (BitVec 32 × Nat)
  trackers : List Tracker
  pins : List Pin
  nodes : List ReadyNode
  lives : List Live
  ready : List Waiting
  parked : List Parked
  /-- Strands that are HALTED (R423). -/
  halted : List Waiting
  starts : BitVec 28
  cancelled : List Word
  hot : Bool
  rings : Vector RingAge 9
  /-- The logical ring the spare serves, and one whose strands are leaving it (R462). -/
  spareFor : Option Nat
  retiring : Option Nat
  sub : Option Subscription
  windows : List Window
  deriving DecidableEq, Repr

/-- Messages of the rill (R311). -/
inductive RillMsg where
  | claim (count width : Nat)
  | liveout (reg : SReg) (x : Word)
  | oxw (reg : OxReg) (x : Ox)
  | store (sector : Nat) (mask : BitVec 32)
  | squash (cause : SquashCause)
  | commit
  | release
  deriving DecidableEq, Repr

/-- A row, or a part of one on one page, or an element of a gather: source, destination, bytes read. -/
structure Move where
  src : Nat
  dst : Nat
  len : Nat
  /-- Source and destination formats of a row that is converted (R206), and the bytes it writes. -/
  conv : Option (ETy × ETy)
  wlen : Nat
  deriving DecidableEq, Repr

/-- A strip or a gather in flight (R205, R210): what its issuer fixed at issue. -/
structure Strip where
  id : Nat
  kind : IlkKind
  /-- The issuing slot; none for a staging copy (R389). -/
  owner : Option (DieId × SlotNo)
  /-- The streamer, or the gather unit's die. -/
  die : DieId
  ring : Nat
  moves : List Move
  /-- Format given to the destination banks at acceptance (R77). -/
  place : Option ETy
  barrier : Option Nat
  /-- Bytes it lands on the barrier. -/
  bytes : Nat
  /-- STATUS it lands: 0, 1 for lost data, 3 for a timeout. -/
  status : Nat
  /-- Bytes a gather has read: destination and value, none where lost. -/
  data : List (Nat × Option Byte)
  /-- Dies whose batches a gather awaits. -/
  awaits : List DieId
  /-- Node record of a staging copy; 0 for another strip. -/
  node : Nat
  /-- The strand that caused it, none for a staging copy, and the deadline its packets carry (R398). -/
  strand : Option Word
  due : Word
  deriving DecidableEq, Repr

/-- What a read of a line serves: a load, a prefetch that a strand asked for (R213), with its number and deadline, or one of the
reservoir's, with the node's deadline (R389, R398). -/
inductive Pref where
  | load
  | strand (strand due : Word)
  | node (due : Word)
  deriving DecidableEq, Repr

/-- A packet in flight between agents. -/
inductive Packet where
  /-- A rill message of a chunk that started at core `core` and has made `hops` hops (R311). -/
  | rill (die : DieId) (ring core hops : Nat) (strand : Word) (j : Nat) (msg : RillMsg)
  /-- A request to a home slice (R183, R203). -/
  | request (id : Nat) (die : DieId) (slot : SlotNo) (strand : Word) (loc : Nat) (op : HomeOp)
  | reply (id : Nat) (die : DieId) (slot : SlotNo) (loc : Nat) (op : HomeOp) (a : Answer)
  /-- A pending-store entry of a die on its way home (R341). -/
  | pending (die : DieId) (id : Nat)
  | collapse (line : Nat) (dst : DieId) (who : List Requester)
  /-- The PERF of a pending entry of a die: its writers, once for each store, those that await the holders' CACKs, and
  the holder mask (R345). -/
  | perf (die : DieId) (id : Nat) (whos cols : List (DieId × SlotNo)) (holders : BitVec 16)
  | cack (src : DieId) (who : Requester)
  /-- A read of a remote line (R344). -/
  | read (id : Nat) (die : DieId) (slot : SlotNo) (line : Nat) (hint : BitVec 2) (pref : Pref)
  /-- The line's data, with a grant or alone; `keep` until a collapse comes first. `stale` once the home has performed a
  write to the line after reading it; `cacks` are the requesters of the collapses that came first (R347). -/
  | fill (id : Nat) (die : DieId) (slot : SlotNo) (data : Line) (grant keep : Bool) (pref : Pref) (stale : Bool) (cacks : List Requester)
  /-- A wake-up from the home of a location (R175, R184, R198). -/
  | wake (die : DieId) (strand : Word) (loc : Nat)
  | tlbinv (id : Nat) (src dst : DieId) (slot : SlotNo) (root lo len : Nat)
  | tlback (id : Nat) (src : DieId) (die : DieId) (slot : SlotNo)
  | strip (s : Strip)
  /-- A transfer that has written its bytes, on its way to its barrier (R190). -/
  | landing (s : Strip)
  | gather (s : Strip)
  /-- The elements of a gather homed on another die (R363). -/
  | batch (id : Nat) (die : DieId) (moves : List Move)
  /-- A strand on its way to another die (R33). -/
  | migrate (w : Waiting) (src dst : DieId)
  /-- A pod access on its way: the access, its address and datum, and the port it left by (R223, R444). -/
  | pod (id : Nat) (die : DieId) (slot : SlotNo) (strand : Word) (load : Bool) (size : Nat) (modl : Nat) (addr x : Word) (port : Option (Fin 8)) (due : Word)
  /-- Messages of collective groups between dies of this module (R447 to R450). -/
  | register (reg : GroupReg) (src : DieId) (handle : BitVec 8)
  | confirm (die : DieId) (handle : BitVec 8) (gen : BitVec 32) (gid : Gid)
  | abort (src die : DieId) (gid : Gid) (gen : BitVec 32)
  /-- With its source, the strand that caused it and its deadline (R398). -/
  | coll (src : DieId) (pkt : CollPkt) (strand due : Word)
  deriving DecidableEq, Repr

/-- What a packet's transaction is told by (R440, R441): the number of a request or transfer, an entry of a die's pending-store table,
the batch of a gather, a collapse, a CACK. -/
inductive Txn where
  | other
  | number (id : Nat)
  | entry (die : DieId) (id : Nat)
  | batch (id : Nat) (die : DieId)
  | collapse (line : Nat) (die : DieId)
  | cack (die : DieId) (who : Requester)
  deriving DecidableEq, Repr

/-- A message of an endpoint to the host (R429). -/
structure HostMsg where
  ep : Endpoint
  op : BitVec 8
  async : Bool
  die : DieId
  status : BitVec 8
  seq : Word
  tag : Word
  addr : Word
  arg0 : Word
  arg1 : Word
  arg2 : Word
  time : Word
  payload : List Byte
  deriving DecidableEq, Repr

/-- A message of a collective group to a member on another module (R447 to R450). (DESIGN CHOICE, log 11) -/
inductive GroupMsg where
  | register (reg : GroupReg)
  | confirm (gid : Gid) (gen : BitVec 32)
  | mismatch (gid : Gid)
  | abort (gid : Gid) (gen : BitVec 32) (cause : BitVec 8)
  /-- The fields hold OP, DTYPE, ROP, ROOT and COUNT. -/
  | data (gid : Gid) (gen : BitVec 32) (seqno : Nat) (fields : BitVec 48) (rank : Nat) (data : List Byte)
  deriving DecidableEq, Repr

/-- Answers of the host port outside the endpoints (R427, R428, R434, R436, R446, R471). (DESIGN CHOICE, log 11) -/
inductive PortMsg where
  | rep (qpn : Nat) (psn : BitVec 24)
  | rej
  | drep
  | rdmaData (data : List Byte)
  | rdmaAck
  | rdmaRefused
  /-- An address with the MAC address that answers for it. -/
  | arp (ip : BitVec 32) (mac : BitVec 48)
  | neighbour (ip : BitVec 128) (mac : BitVec 48)
  | dhcpRequest
  | ptp (port : PtpPort)
  | podData (port : Fin 8) (data : List Byte)
  | podAck (port : Fin 8)
  | podRefused (port : Fin 8)
  /-- What the chain of the test access port shifts out (R471): the IDCODEs of its dies, or their bypass bits. -/
  | tapIds (ids : List (BitVec 32))
  | tapBits (bits : List Bool)
  | scan (data : Option (List Byte))
  /-- A message to a member on another module, and the port that it leaves by (R443, R444). -/
  | group (port : Fin 8) (dst : Member) (msg : GroupMsg)
  | podRead (modl : Nat) (port : Fin 8) (addr : Word) (size : Nat)
  | podWrite (modl : Nat) (port : Fin 8) (addr : Word) (size : Nat) (x : Word)
  deriving DecidableEq, Repr

/-- An endpoint's connection (R428, R430). -/
structure Conn where
  ep : Endpoint
  /-- RTU has arrived. -/
  up : Bool
  /-- SEQ of the last request answered, and the responses so far, newest first. -/
  last : Word
  resp : List HostMsg
  /-- SEQ of the next asynchronous message. -/
  aseq : Word
  deriving DecidableEq, Repr

/-- A Saddle link between a die and its east or south neighbour (R437, R439, R457). -/
structure Link where
  /-- Passed authentication at boot. -/
  passed : Bool
  /-- The exchange failed verification. -/
  failed : Bool
  /-- The exchange has ended, or its time has run out. -/
  heard : Bool
  up : Bool
  replays : Nat
  deriving DecidableEq, Repr

/-- The pins and the test access port (R455, R470 to R472). -/
structure Pins where
  bootfail : Bool
  frozen : Bool
  thermtrip : Bool
  deriving DecidableEq, Repr

/-- Phases of the module's life (R455, R459, R470). -/
inductive Phase where
  | boot | running | bootFailed
  deriving DecidableEq, Repr

/-- Whose turn it is: an event, another slot, or time that passes. (DESIGN CHOICE, log 1) -/
inductive Turn where
  | event (i : Instr)
  | slot (die : DieId) (slot : SlotNo)
  | pass (ticks : Nat)
  /-- The slot `me` performs the next `n` element groups of its element-wise instruction, or the next `n` rows
  of its `mma`, and no more: what a pre-emption finds done (R229, R272, R289; log 87). -/
  | groups (n : Nat)
  /-- A slot takes the line at its PC into its fetch buffer, and its core into its L1I (R156; log 10). -/
  | fetchLine (die : DieId) (slot : SlotNo)
  deriving DecidableEq, Repr

/-- The machine. -/
structure State where
  me : Ctx
  others : List Ctx
  regions : List Region
  /-- DRAM at physical addresses, tile stores above 2^48 (DESIGN CHOICE, log 3). -/
  mem : List Host.Cell
  /-- 8-byte words of DRAM whose full/empty state is EMPTY, rising (R173). -/
  empties : List Nat
  /-- Bytes whose data is uncorrectable, rising (R466). -/
  lost : List Nat
  dies : Vector Die 16
  links : Vector Link 32
  ports : Vector Bool 8
  net : List Packet
  /-- Strips and gathers accepted, in arrival order (R334, R363). -/
  moves : List Strip
  runs : List Run
  /-- Objects that have completed or been cancelled: level and physical address (R157). -/
  endedObjs : List (Nat × Nat)
  conns : List Conn
  /-- Asynchronous messages that wait for a connection (R428). -/
  asyncs : List HostMsg
  /-- Messages sent to the host and the pod, newest first. -/
  out : List HostMsg
  wire : List PortMsg
  /-- Group messages that wait until their module's route may change (R444), oldest first. -/
  away : List (Member × GroupMsg)
  /-- The packets that were in flight when time last passed, in order, each with the tick since when (R440). -/
  stamps : List (Txn × Nat)
  /-- Counters of R433 that are not zero: kind, instance, index and die give the key. -/
  ctr : List (Nat × Word)
  /-- The network record of the boot data (R427); empty without one. -/
  netRec : List Byte
  ip4 : Option (BitVec 32)
  ip6 : Option (BitVec 128)
  /-- TICK; only the agenda lets time pass (DESIGN CHOICE, log 5). -/
  tick : Nat
  phase : Phase
  pins : Pins
  /-- TAP instruction: BYPASS, else IDCODE (R471). -/
  bypass : Bool
  /-- Numbers given to requests, entries and transfers. -/
  serial : Nat
  /-- The model's own counter that free values are applied to (log 4). -/
  fresh : Nat
  /-- Who moves next: the model's own schedule (DESIGN CHOICE, log 1). -/
  agenda : List Turn
  deriving DecidableEq, Repr

/-- Why the machine stops. -/
inductive Fault where
  /-- R470: every clock has stopped; raised by `step` when no event that acts on a frozen module is due.
  Safe: the hardware makes no step either. -/
  | frozen
  /-- R455: die 4 refused its images and the module does not boot; raised by `step`. Safe. -/
  | bootFailed
  deriving DecidableEq, Repr

/-- Why an instruction has no meaning. -/
inductive Refusal where
  /-- No meaning yet; raised by `exec`. Safe. -/
  | notModelled (mnemonic : String)
  /-- The agenda names an instruction, not an event, or an ill-formed message; raised by `step`. Safe: the
  agenda is the model's own. -/
  | badTurn
  deriving DecidableEq, Repr

/-! ### Reset (R37, R42; the values the specification does not give stand in log 2) -/

def Acc.zero : Acc := ⟨Vector.replicate 64 0, .f32, false, 64⟩
def Classes.none : Classes := ⟨false, false, false, false, false, false⟩
/-- m0 reads all ones (R37); it is stored so. -/
def Image.reset : Image :=
  { v := Vector.replicate 32 0, m := (Vector.replicate 8 0).set 0 (BitVec.allOnes 256),
    acc := Vector.replicate 4 Acc.zero, vl := 0, span := 0xB, ridx := 0, flags := 0 }
def Control.reset : Control := ⟨0xF, 1, 0, 0, 0, 0⟩

/-- A free slot with every register at its reset value. (DESIGN CHOICE, log 2) -/
def Ctx.reset (die : DieId) (slot : SlotNo) : Ctx :=
  { die, slot, state := .free, level := .strand, pc := 0, iword := 0, s := Vector.replicate 32 0,
    ox := Vector.replicate 8 ⟨0, 0, false⟩, img := Image.reset, ctl := Control.reset, rmode := 0,
    dmask := 0xFFFF, strand := 0, launch := 0, deadline := BitVec.allOnes 64, prio := 0, epc := 0,
    cause := 0, tval := 0, dirty := .none, live := .none, chunk := none, ilk := [], perfPend := 0,
    colPend := Vector.replicate 16 0, rredPend := 0, rredDev := [], wait := none, sent := none,
    answer := none, asked := 0, lines := [], part := none, cols := 0, groupFmt := none, latem := false, latet := false, overdue := 0, step := false, stepDue := false,
    nowatch := false, wend := none, heldBits := 0, save := 0, susp := 0, deficit := 0, granted := false, stalled := false, ending := false, dispatched := 0,
    stopReq := none, stopTick := none, stood := none, mmaAcc := none, header := 0, node := 0 }

/-- R337, R350, R362, R393, R461: reset values of the device registers. (DESIGN CHOICE, log 2) -/
def DevRegs.reset : DevRegs :=
  { hmask := 0x0000000F00F00F00, replctl := 0x0000104030100001, hotctl := 0x0040002000001200,
    rsvctl := 0x0000004000100000, fabctl := 0, podctl := 0, podroot := 0, agectl := 0x00000000200C05F6,
    ptpctl := 0, dbgctl := 0, dbgwp := Vector.replicate 8 (0, 0), manifest := Vector.replicate 9 0 }

def RingAge.reset (k : Nat) : RingAge := ⟨none, 0, if k = 8 then 1 else 0⟩

/-- A die at module reset; `svnMin`, `leaves` and the rings' GB are non-volatile. (DESIGN CHOICE, log 2) -/
def Die.reset : Die :=
  { present := false, reason := 0, verified := false, verifiedAt := 0, digest := 0, svn := 0, svnMin := 0, leaves := 0,
    regs := DevRegs.reset, bfmt := Vector.replicate 64 ⟨0, false, 0⟩, tlb := [], walks := [], icopies := [], remote := [], replicas := [], shared := [], memside := [], pend := [],
    dir := [], regions := [], resv := [], waiters := [], groups := [], formed := [], refused := [], preds := [], turns := Vector.replicate 64 0, past := [], trackers := [], pins := [],
    nodes := [], lives := [], ready := [], parked := [], halted := [], starts := 0, cancelled := [], hot := false,
    rings := (Vector.replicate 9 (RingAge.reset 0)).set 8 (RingAge.reset 8), spareFor := none, retiring := none, sub := none, windows := [] }

def Link.reset : Link := ⟨false, false, false, false, 0⟩

/-- The module right after reset: boot has not begun, every slot is free (log 2, log 3). -/
def State.reset : State :=
  { me := Ctx.reset 0 0, others := [], regions := [], mem := [], empties := [], lost := [],
    dies := Vector.replicate 16 Die.reset, links := Vector.replicate 32 Link.reset,
    ports := Vector.replicate 8 false, net := [], moves := [], runs := [], endedObjs := [], conns := [], asyncs := [],
    out := [], wire := [], away := [], stamps := [], ctr := [], netRec := [], ip4 := none, ip6 := none, tick := 0, phase := .boot,
    pins := ⟨false, false, false⟩, bypass := false, serial := 0, fresh := 0, agenda := [] }

end Sys2Proof.Machine
end

