-- ==== Sys2Proof/Machine/Base.lean ====
section
/-! DEFINITION. Named accessors: lists of cells, dies and slots, registers, the fields of the control
registers, counters. Every read and write of a register goes through them. -/

namespace Sys2Proof

/-- R42: element widths in bits. -/
def ETy.ew : ETy → Nat
  | .i8 | .n8 | .dxb8 => 8
  | .i16 | .n16 | .f16 | .bf16 => 16
  | .i32 | .n32 | .f32 => 32
  | .i64 | .n64 | .f64 => 64
  | .i4 | .n4 | .dxb4 => 4

end Sys2Proof

namespace Sys2Proof.Machine

/-- What a meaning answers. -/
abbrev Res := Host.Outcome State Fault Refusal

/-! ### Cells: rising by address, no zero value listed (log 3) -/

def cellGet : List Host.Cell → Nat → Option Byte
  | [], _ => none
  | (k, b) :: m, a => if a = k then some b else if a < k then none else cellGet m a

def cellPut (a : Nat) (b : Byte) : List Host.Cell → List Host.Cell
  | [] => [(a, b)]
  | (k, v) :: m => if a = k then (a, b) :: m else if a < k then (a, b) :: (k, v) :: m else (k, v) :: cellPut a b m

def cellDel (a : Nat) : List Host.Cell → List Host.Cell
  | [] => []
  | (k, v) :: m => if a = k then m else if a < k then (k, v) :: m else (k, v) :: cellDel a m

/-- What an unlisted location reads as (log 3). -/
def unlisted : Byte := 0

/-- One byte of memory. (DESIGN CHOICE, log 3) -/
def memGet (m : List Host.Cell) (a : Nat) : Byte := (cellGet m a).getD unlisted

/-- Writing one byte keeps the canonical form: the unlisted value is not listed. (DESIGN CHOICE, log 3) -/
def memPut (m : List Host.Cell) (a : Nat) (b : Byte) : List Host.Cell :=
  if b = unlisted then cellDel a m else cellPut a b m

/-- The canonical form of a cell list above a bound. -/
def cellsFrom : Nat → List Host.Cell → Bool
  | _, [] => true
  | lo, (k, _) :: m => decide (lo ≤ k) && cellsFrom (k + 1) m

/-- The canonical form of memory: addresses strictly rising, no unlisted value listed. (DESIGN CHOICE, log 3) -/
def Memory.wf (m : List Host.Cell) : Bool := cellsFrom 0 m && m.all fun c => c.2 != unlisted

def memBytes (m : List Host.Cell) (a : Nat) : Nat → List Byte
  | 0 => []
  | n + 1 => memGet m a :: memBytes m (a + 1) n

def memWrite (m : List Host.Cell) (a : Nat) : List Byte → List Host.Cell
  | [] => m
  | b :: bs => memWrite (memPut m a b) (a + 1) bs

/-- Merging listed bytes into cells. -/
def cellsPut (a : Nat) : List Byte → List Host.Cell → List Host.Cell
  | [], m => m
  | b :: bs, m => cellsPut (a + 1) bs (cellPut a b m)

def cellsDel (a : Nat) : Nat → List Host.Cell → List Host.Cell
  | 0, m => m
  | n + 1, m => cellsDel (a + 1) n (cellDel a m)

/-! ### Rising lists of numbers -/

def natAdd (a : Nat) : List Nat → List Nat
  | [] => [a]
  | k :: m => if a = k then k :: m else if a < k then a :: k :: m else k :: natAdd a m

def natDel (a : Nat) (l : List Nat) : List Nat := l.filter (· != a)

/-- `n` numbers from `a`. -/
def upFrom (a : Nat) : Nat → List Nat
  | 0 => []
  | n + 1 => a :: upFrom (a + 1) n

def natAddAll (l : List Nat) (m : List Nat) : List Nat := l.foldl (fun m a => natAdd a m) m

/-- The first element that a function maps to something, and the list without it. -/
def takeFirst {α : Type} (p : α → Bool) : List α → Option (α × List α)
  | [] => none
  | x :: xs => if p x then some (x, xs) else
    match takeFirst p xs with
    | some (y, ys) => some (y, x :: ys)
    | none => none

/-- The element at an index, and the list without it. -/
def takeAt {α : Type} : Nat → List α → Option (α × List α)
  | _, [] => none
  | 0, x :: xs => some (x, xs)
  | n + 1, x :: xs =>
    match takeAt n xs with
    | some (y, ys) => some (y, x :: ys)
    | none => none

/-- Replacing the element at an index. -/
def putAt {α : Type} : Nat → α → List α → List α
  | _, _, [] => []
  | 0, y, _ :: xs => y :: xs
  | n + 1, y, x :: xs => x :: putAt n y xs

/-- What a packet's transaction is told by (R441). (DESIGN CHOICE, log 66) -/
def Packet.txn : Packet → Txn
  | .request id _ _ _ _ _ | .reply id _ _ _ _ _ | .read id _ _ _ _ _ | .fill id _ _ _ _ _ _ _ _ => .number id
  | .pod id _ _ _ _ _ _ _ _ _ _ => .number id
  | .strip t | .landing t | .gather t => .number t.id
  | .pending d id | .perf d id _ _ _ => .entry d id
  | .batch id d _ => .batch id d
  | .collapse line d _ => .collapse line d
  | .cack d who => .cack d who
  | _ => .other
/-- The transactions in flight with the ticks since when: those told alike leave in the order in which they came, and new ones begin now.
(DESIGN CHOICE, log 66) -/
def restamp : List Txn → List (Txn × Nat) → Nat → List (Txn × Nat)
  | [], _, _ => []
  | t :: ts, old, now =>
    let mine := old.filter fun p => p.1 == t
    match mine.drop (mine.length - ((ts.filter fun u => u == t).length + 1)) with
    | [] => (t, now) :: restamp ts old now
    | p :: _ => p :: restamp ts (old.erase p) now

/-- Changing every element that satisfies a test. -/
def mapIf {α : Type} (p : α → Bool) (f : α → α) (l : List α) : List α := l.map fun x => if p x then f x else x

/-! ### Dies and slots (R17) -/

def ringOf (slot : SlotNo) : Nat := slot.val / 32
def coreOf (slot : SlotNo) : Nat := slot.val % 32 / 4
def slotOf (ring core ix : Nat) : SlotNo := Fin.ofNat 256 (ring * 32 + core * 4 + ix)

def State.die (s : State) (d : DieId) : Die := s.dies[d]
def State.mapDie (s : State) (d : DieId) (f : Die → Die) : State := { s with dies := s.dies.set d (f s.dies[d]) }
def State.present (s : State) (d : Nat) : Bool := (s.die (Fin.ofNat 16 d)).present
def allDies : List DieId := (List.range 16).map (Fin.ofNat 16)
def State.presentDies (s : State) : List DieId := allDies.filter fun d => (s.die d).present

def Ctx.at (c : Ctx) (d : DieId) (k : SlotNo) : Bool := c.die == d && c.slot == k
/-- The slot, if it is not free. -/
def State.ctx? (s : State) (d : DieId) (k : SlotNo) : Option Ctx :=
  if s.me.at d k then (if s.me.state = .free then none else some s.me) else s.others.find? fun c => c.at d k
/-- The slot, free ones included. -/
def State.ctx (s : State) (d : DieId) (k : SlotNo) : Ctx := (s.ctx? d k).getD (Ctx.reset d k)
/-- Changing a slot that is not free. -/
def State.mapCtx (s : State) (d : DieId) (k : SlotNo) (f : Ctx → Ctx) : State :=
  if s.me.at d k then { s with me := f s.me } else { s with others := mapIf (fun c => c.at d k) f s.others }
/-- Putting a slot's contents; a free slot leaves the list of the others. -/
def State.putCtx (s : State) (c : Ctx) : State :=
  if s.me.at c.die c.slot then { s with me := c }
  else { s with others := (if c.state = .free then [] else [c]) ++ s.others.filter fun o => !o.at c.die c.slot }
/-- Making a slot the one whose turn it is. -/
def State.focus (s : State) (d : DieId) (k : SlotNo) : State :=
  if s.me.at d k then s
  else
    let c := s.ctx d k
    let rest := s.others.filter fun o => !o.at d k
    { s with me := c, others := if s.me.state = .free then rest else s.me :: rest }
/-- Every slot that is not free. -/
def State.busy (s : State) : List Ctx := (if s.me.state = .free then [] else [s.me]) ++ s.others
def State.isFree (s : State) (d : DieId) (k : SlotNo) : Bool := (s.ctx? d k).isNone
/-- The slot in which a strand runs outside a region or runs its oldest chunk. -/
def State.slotOfStrand (s : State) (strand : Word) : Option Ctx :=
  s.busy.find? fun c => c.strand == strand && c.state == .running

/-- The slots of the strand in `me`: in a region, those of all its chunks. -/
def State.mates (s : State) : List Ctx := s.me :: s.others.filter fun o => o.strand == s.me.strand

def State.mapMe (s : State) (f : Ctx → Ctx) : State := { s with me := f s.me }

/-! ### Counters of R433: a key for die, kind, instance and index -/

def ctrKey (die : DieId) (kind inst ix : Nat) : Nat := ((die.val * 256 + kind) * 256 + inst) * 32 + ix

def ctrGet : List (Nat × Word) → Nat → Word
  | [], _ => 0
  | (k, x) :: m, a => if a = k then x else if a < k then 0 else ctrGet m a
def ctrPut (a : Nat) (x : Word) : List (Nat × Word) → List (Nat × Word)
  | [] => [(a, x)]
  | (k, y) :: m => if a = k then (a, x) :: m else if a < k then (a, x) :: (k, y) :: m else (k, y) :: ctrPut a x m
/-- A counter that is 0 is not listed. -/
def ctrSet (a : Nat) (x : Word) (m : List (Nat × Word)) : List (Nat × Word) := if x = 0 then m.filter fun p => p.1 != a else ctrPut a x m
def State.counter (s : State) (die : DieId) (kind inst ix : Nat) : Word := ctrGet s.ctr (ctrKey die kind inst ix)
def State.setCounter (s : State) (die : DieId) (kind inst ix : Nat) (x : Word) : State :=
  { s with ctr := ctrSet (ctrKey die kind inst ix) x s.ctr }
/-- Counting `n` events (R433: the counters wrap). (DEDUCED, log 55) -/
def State.count (s : State) (die : DieId) (kind inst ix n : Nat) : State :=
  if n = 0 then s else s.setCounter die kind inst ix (s.counter die kind inst ix + word n)

/-! ### Scalar registers (R37, R123) -/

/-- s0 reads 0. -/
def Ctx.getS (c : Ctx) (r : SReg) : Word := if r = 0 then 0 else c.s[r]
def bit32 (r : Fin 32) : BitVec 32 := BitVec.ofNat 32 (2 ^ r.val)
/-- s0 ignores writes; another register makes class s dirty (R16). -/
def Ctx.setS (c : Ctx) (r : SReg) (x : Word) : Ctx :=
  if r = 0 then c
  else { c with s := c.s.set r x, dirty := { c.dirty with s := true },
                chunk := c.chunk.map fun k => { k with wrote := k.wrote ||| bit32 r } }
def State.getS (s : State) (r : SReg) : Word := s.me.getS r
def State.setS (s : State) (r : SReg) (x : Word) : State := { s with me := s.me.setS r x }

/-! ### Vector and mask registers and accumulators (R37, R39) -/

def maxOnes : BitVec 256 := BitVec.allOnes 256
/-- m0 reads all ones. -/
def Ctx.getM (c : Ctx) (m : MReg) : BitVec 256 := if m = 0 then maxOnes else c.img.m[m]
def Ctx.setM (c : Ctx) (m : MReg) (x : BitVec 256) : Ctx :=
  if m = 0 then c
  else { c with img := { c.img with m := c.img.m.set m x }, dirty := { c.dirty with m := true },
                live := { c.live with m := true } }
/-- Bit `i` of a mask register. -/
def Ctx.active (c : Ctx) (m : MReg) (i : Nat) : Bool := (c.getM m).getLsbD i

def vget (v : Vector VReg2048 32) (r : Nat) : VReg2048 := v[Fin.ofNat 32 r]
/-- R39: element `i` of width `ew` of the group that starts at `r`, as its bits. -/
def elemGet (v : Vector VReg2048 32) (r ew i : Nat) : Nat :=
  (vget v (r + i * ew / 2048)).toNat / 2 ^ (i * ew % 2048) % 2 ^ ew
/-- Replacing `n` bits at bit `k` of a word held as a number. -/
def putBits (old k n new : Nat) : Nat := old - old / 2 ^ k % 2 ^ n * 2 ^ k + new % 2 ^ n * 2 ^ k
def elemSet (v : Vector VReg2048 32) (r ew i x : Nat) : Vector VReg2048 32 :=
  let q := Fin.ofNat 32 (r + i * ew / 2048)
  v.set q (BitVec.ofNat 2048 (putBits v[q].toNat (i * ew % 2048) ew x))
/-- Writing elements given with their indices. -/
def elemsSet (v : Vector VReg2048 32) (r ew : Nat) : List (Nat × Nat) → Vector VReg2048 32
  | [] => v
  | (i, x) :: l => elemsSet (elemSet v r ew i x) r ew l
/-- Writing vector registers makes class v dirty and live (R16, R326). -/
def Ctx.setV (c : Ctx) (v : Vector VReg2048 32) : Ctx :=
  { c with img := { c.img with v }, dirty := { c.dirty with v := true }, live := { c.live with v := true } }
def Ctx.setAcc (c : Ctx) (a : AccReg) (x : Acc) : Ctx :=
  { c with img := { c.img with acc := c.img.acc.set a x }, dirty := { c.dirty with acc := true },
           live := { c.live with acc := true } }
/-- Writing an ox register makes class ox dirty (R16, R107). -/
def Ctx.setOx (c : Ctx) (x : OxReg) (o : Ox) : Ctx :=
  { c with ox := c.ox.set x o, dirty := { c.dirty with ox := true },
           chunk := c.chunk.map fun k => { k with oxWrote := k.oxWrote ||| BitVec.ofNat 8 (2 ^ x.val) } }

/-! ### SPAN, VL and RIDX (R42, R102) -/

def Ctx.et (c : Ctx) : ETy := ETy.ofCode (c.img.span.toNat % 16)
def Ctx.spanIF (c : Ctx) : Bool := c.img.span.getLsbD 8
/-- The group code 0, 1, 2 as 1, 2, 4. -/
def gOf (code : Nat) : Nat := if code = 0 then 1 else if code = 1 then 2 else 4
/-- G, taken as 1 while SPAN.IF is set (R39). -/
def Ctx.g (c : Ctx) : Nat := if c.spanIF then 1 else gOf (c.img.span.toNat / 16 % 4)
/-- R102: the supported pairs. -/
def spanOk (gcode : Nat) (t : ETy) : Bool :=
  match gcode with
  | 0 => true
  | 1 => 16 ≤ ETy.ew t
  | 2 => 32 ≤ ETy.ew t
  | _ => false
/-- VLMAX = min(2048 · G / EW, 256). -/
def vlmaxOf (gcode : Nat) (t : ETy) : Nat := min (2048 * gOf gcode / ETy.ew t) 256
/-- VLMAX of the current SPAN, taken as 256 while SPAN.IF is set (R233). (DEDUCED, log 24) -/
def Ctx.vlmax (c : Ctx) : Nat := if c.spanIF then 256 else vlmaxOf (c.img.span.toNat / 16 % 4) c.et
def Ctx.vl (c : Ctx) : Nat := c.img.vl.toNat
def Ctx.ridx (c : Ctx) : Nat := c.img.ridx.toNat
def Ctx.setRidx (c : Ctx) (i : Nat) : Ctx := { c with img := { c.img with ridx := BitVec.ofNat 9 i } }
/-- Setting VL: a value above VLMAX is stored as VLMAX. -/
def Ctx.setVl (c : Ctx) (n : Nat) : Ctx := { c with img := { c.img with vl := BitVec.ofNat 9 (min n c.vlmax) } }
/-- Writing SPAN.ET and SPAN.G: IF tells an unsupported pair, VL is lowered to VLMAX. (DEDUCED, log 24) -/
def Ctx.setSpan (c : Ctx) (gcode : Nat) (t : ETy) : Ctx :=
  let sp := BitVec.ofNat 9 ((if spanOk gcode t then 0 else 256) + gcode % 4 * 16 + t.code)
  let c := { c with img := { c.img with span := sp } }
  if c.vl > c.vlmax then c.setVl c.vlmax else c

/-! ### FLAGS (R42): DATA_LOST 5, NV 4, DZ 3, OF 2, UF 1, NX 0 -/

def Ctx.orFlags (c : Ctx) (f : BitVec 6) : Ctx := { c with img := { c.img with flags := c.img.flags ||| f } }
def State.orFlags (s : State) (f : BitVec 6) : State := { s with me := s.me.orFlags f }
def flagDL : BitVec 6 := 32
/-- The flags of the elements performed so far enter FLAGS, at a boundary or at a trap between elements (R230). -/
def Ctx.flushPart (c : Ctx) : Ctx :=
  match c.part with
  | some f => { c.orFlags f with part := none, cols := 0, groupFmt := none }
  | none => c
/-- An `mma` retires: its results are written, LOCK clears, RIDX becomes 0, its flags are set (R266). (DEDUCED, log 34) -/
def Ctx.retireMma (c : Ctx) : Ctx :=
  match c.mmaAcc with
  | none => c
  | some (a, x, f) =>
    let c := ((c.setAcc a { x with lock := false }).orFlags f).setRidx 0
    { c with mmaAcc := none }

/-! ### Control registers that are computed -/

def Ctx.exw (c : Ctx) : Bool := c.ctl.detctl = 3
/-- DETCTL with EXW (R42). -/
def Ctx.detReg (c : Ctx) : Word := c.ctl.detctl.setWidth 64 ||| (if c.exw then 4 else 0)
def Ctx.det (c : Ctx) : Bool := c.ctl.detctl.getLsbD 0
/-- A chunk that is not the oldest is speculative (R27). -/
def Ctx.speculative (c : Ctx) : Bool :=
  match c.chunk with
  | some k => !k.oldest
  | none => false
/-- CHUNK (R42). -/
def Ctx.chunkReg (c : Ctx) : BitVec 7 :=
  match c.chunk with
  | none => 0x20
  | some k => BitVec.ofNat 7 ((if k.final then 64 else 0) + (if k.oldest then 32 else 0) + 16 + k.j % 16)
def Ctx.regionOf (c : Ctx) (s : State) : Option Region :=
  if c.chunk.isSome then s.regions.find? fun r => r.strand == c.strand else none
def State.mapRegion (s : State) (strand : Word) (f : Region → Region) : State :=
  { s with regions := mapIf (fun r => r.strand == strand) f s.regions }
/-- Control-class writes make the class dirty (R16). -/
def Ctx.setCtl (c : Ctx) (k : Control) : Ctx := { c with ctl := k, dirty := { c.dirty with control := true } }

/-- `n` bits of a word from bit `lo`. -/
def bits (w : Word) (lo n : Nat) : Nat := w.toNat / 2 ^ lo % 2 ^ n
def bitAt (w : Word) (k : Nat) : Bool := w.getLsbD k

/-- Little-endian bytes of a number as lost-able bytes, and back: a lost byte reads all ones (R4). -/
def unlost (b : Option Byte) : Byte := b.getD 0xFF
def numOf (bs : List (Option Byte)) : Nat := ofBytes (bs.map unlost)
def anyLost (bs : List (Option Byte)) : Bool := bs.any Option.isNone
/-- Index of the first lost byte. -/
def firstLost : List (Option Byte) → Nat
  | none :: _ => 0
  | some _ :: bs => firstLost bs + 1
  | [] => 0

/-- Sign extension of the low `n` bits to 64 (R49). -/
def sextN (n x : Nat) : Word :=
  let x := x % 2 ^ n
  if 2 * x ≥ 2 ^ n then word (x + 2 ^ 64 - 2 ^ n) else word x

/-- A new number for a request, entry or transfer. -/
def State.take (s : State) : Nat × State := (s.serial, { s with serial := s.serial + 1 })
def State.send (s : State) (p : Packet) : State := { s with net := s.net ++ [p] }
def State.sendAll (s : State) (l : List Packet) : State := { s with net := s.net ++ l }

/-- Ranges overlap. -/
def overlaps (a n b m : Nat) : Bool := decide (a < b + m ∧ b < a + n)

/-! ### Locations. DRAM and device registers lie at their physical address (R330); tile stores above them. -/

def tileBase : Nat := 2 ^ 48
/-- The location of a tile-store byte (R45, R332). -/
def tileLoc (die ring off : Nat) : Nat := tileBase + die * 2 ^ 24 + ring * 2 ^ 21 + off
def isTile (loc : Nat) : Bool := tileBase ≤ loc
def isDram (loc : Nat) : Bool := loc < 2 ^ 40
def isDevice (loc : Nat) : Bool := 2 ^ 40 ≤ loc && loc < 2 ^ 41
/-- The home die of a location. -/
def homeOf (loc : Nat) : DieId :=
  if isTile loc then Fin.ofNat 16 ((loc - tileBase) / 2 ^ 24) else Fin.ofNat 16 (loc / 2 ^ 36 % 16)
def lineOf (loc : Nat) : Nat := loc / 256 * 256
def sectorOf (loc : Nat) : Nat := loc / 32 * 32
/-- A tile-store location's index into BFMT: ring * 8 + bank (R332). -/
def bankOf (loc : Nat) : Nat := (loc - tileBase) % 2 ^ 24 / 2 ^ 18

end Sys2Proof.Machine
end

