-- ==== Sys2Proof/Machine/Route.lean ====
section
/-! DEFINITION. The torus of Saddle links (R437 to R439): distances, links, routes, and the arrival of a packet. -/

namespace Sys2Proof.Machine

/-! ### The torus (R437) -/

/-- Column and row of a die. -/
def dieXY (d : DieId) : Nat × Nat :=
  match d.val with
  | 4 => (0, 0) | 5 => (1, 0) | 6 => (2, 0) | 7 => (3, 0)
  | 8 => (0, 1) | 0 => (1, 1) | 1 => (2, 1) | 9 => (3, 1)
  | 10 => (0, 2) | 2 => (1, 2) | 3 => (2, 2) | 11 => (3, 2)
  | 12 => (0, 3) | 13 => (1, 3) | 14 => (2, 3) | _ => (3, 3)
/-- The die at a column and a row, modulo 4. -/
def dieAt (x y : Nat) : DieId := (allDies.find? fun d => dieXY d == (x % 4, y % 4)).getD 0
def ringDist (a b : Nat) : Nat := min ((a + 4 - b) % 4) ((b + 4 - a) % 4)
def dieHops (a b : DieId) : Nat := ringDist (dieXY a).1 (dieXY b).1 + ringDist (dieXY a).2 (dieXY b).2
/-- The die of a list nearest to another; the first of equals, so that ascending lists give the lowest. -/
def nearest (dest : DieId) : List DieId → Option DieId
  | [] => none
  | d :: ds =>
    match nearest dest ds with
    | none => some d
    | some e => if dieHops dest e < dieHops dest d then some e else some d

/-- The die beyond a link. -/
def neighbour (d : DieId) (dir : Dir) : DieId :=
  let p := dieXY d
  match dir with
  | .east => dieAt (p.1 + 1) p.2
  | .west => dieAt (p.1 + 3) p.2
  | .south => dieAt p.1 (p.2 + 1)
  | .north => dieAt p.1 (p.2 + 3)
/-- The number of a link (R459): 2d east of die d, 2d + 1 south of it. -/
def linkIx (d : DieId) (dir : Dir) : Fin 32 :=
  match dir with
  | .east => Fin.ofNat 32 (2 * d.val)
  | .west => Fin.ofNat 32 (2 * (neighbour d .west).val)
  | .south => Fin.ofNat 32 (2 * d.val + 1)
  | .north => Fin.ofNat 32 (2 * (neighbour d .north).val + 1)
/-- The direction of a link as its far end sees it, and the instance of its counters (R433). -/
def dirBack : Dir → Dir
  | .east => .west | .west => .east | .south => .north | .north => .south
def dirIx : Dir → Nat
  | .east => 0 | .west => 1 | .south => 2 | .north => 3
def State.link (s : State) (d : DieId) (dir : Dir) : Link := s.links[linkIx d dir]
def State.mapLink (s : State) (d : DieId) (dir : Dir) (f : Link → Link) : State :=
  { s with links := s.links.set (linkIx d dir) (f s.links[linkIx d dir]) }

/-! ### Routes (R438, R439) -/

/-- Steps along one dimension by the shorter way; at distance 2 the first direction, or the other way round. -/
def steps (fwd back : Dir) (a b : Nat) (other : Bool) : List Dir :=
  match (b + 4 - a) % 4 with
  | 0 => []
  | 1 => [fwd]
  | 2 => if other then [back, back] else [fwd, fwd]
  | _ => [back]
/-- Is every link of a walk up? -/
def State.walkUp (s : State) : DieId → List Dir → Bool
  | _, [] => true
  | d, dir :: ds => (s.link d dir).up && s.walkUp (neighbour d dir) ds
/-- The walks that a flow between two dies may take, in the order of R438 and R439: x then y, y then x, then the other way round a
dimension of distance 2. (DEDUCED, log 67) -/
def walksOf (a b : DieId) : List (List Dir) :=
  let p := dieXY a
  let q := dieXY b
  ([(false, false), (true, false), (false, true), (true, true)].map fun o =>
    let xs := steps .east .west p.1 q.1 o.1
    let ys := steps .south .north p.2 q.2 o.2
    [xs ++ ys, ys ++ xs]).flatten
/-- The route of a flow: the first of its walks whose links are up. (DEDUCED, log 67) -/
def State.routeOf (s : State) (a b : DieId) : Option (List Dir) := if a = b then some [] else (walksOf a b).find? fun w => s.walkUp a w
/-- Has a flow a route (R439)? (DEDUCED, log 67) -/
def State.routable (s : State) (a b : DieId) : Bool := (s.routeOf a b).isSome

/-! ### Arrival -/

/-- R337: the slice of a physical address under a die's HMASK, as four parities. -/
def sliceOf (hmask : Word) (pa : Nat) : Nat :=
  let par (b : Nat) : Nat := ((upFrom 8 40).filter fun i => i % 4 == b && hmask.getLsbD i && pa / 2 ^ i % 2 == 1).length % 2
  par 0 + 2 * par 1 + 4 * par 2 + 8 * par 3
/-- The slice of a die that a location's line falls in. -/
def State.sliceOn (s : State) (d : DieId) (loc : Nat) : Nat := sliceOf (s.die d).regs.hmask loc
/-- The home slice of a location. -/
def State.slice (s : State) (loc : Nat) : Nat := s.sliceOn (homeOf loc) loc

/-- R353: the port of the network of a die at which a location stands: its ring's port for a tile store, that of the
device registers, or that of its slice. -/
def State.port (s : State) (d : DieId) (loc : Nat) : Nat :=
  if isTile loc then (loc - tileBase) % 2 ^ 24 / 2 ^ 21 else if isDevice loc then 29 else 8 + s.sliceOn d loc

/-- The sector of a pending-store entry. -/
def State.pendSector (s : State) (d : DieId) (id : Nat) : Nat :=
  match (s.die d).pend.find? fun p => p.id == id with
  | some p => p.sector
  | none => d.val * 2 ^ 36

/-- Ports of the network of a die (R353): of its management core and reservoir, of its gather unit and the collectives. -/
def mgmtPort : Nat := 29
def gatherPort : Nat := 28
def podPort : Nat := 30
/-- Where an agent that carries a transfer stands: the strip or gather that its die holds, or that is on its way. (DEDUCED, log 67) -/
def State.carrier (s : State) (id : Nat) : Option (DieId × Nat) :=
  let at_ (t : Strip) : DieId × Nat := (t.die, if t.kind = .gx ∨ t.kind = .coll then gatherPort else t.ring)
  ((s.moves ++ s.net.filterMap fun p => match p with
    | .strip t => some t
    | .landing t => some t
    | .gather t => some t
    | _ => none).find? fun t => t.id == id).map at_
/-- Where a strip or gather comes from: the ring of its slot, or the reservoir. -/
def Strip.source (t : Strip) : DieId × Nat :=
  match t.owner with
  | some (d, k) => (d, ringOf k)
  | none => (homeOf t.node, mgmtPort)

/-- Source and destination of a packet, each a die and a port (R353, R438); rill messages stay on their ring. (DEDUCED, log 67) -/
def State.flow (s : State) : Packet → Option ((DieId × Nat) × (DieId × Nat))
  | .request _ d k _ loc _ => some ((d, ringOf k), (homeOf loc, s.port (homeOf loc) loc))
  | .reply _ d k loc _ _ => some ((homeOf loc, s.port (homeOf loc) loc), (d, ringOf k))
  | .pending d id => let q := s.pendSector d id; some ((d, s.port d q), (homeOf q, s.port (homeOf q) q))
  | .perf d id _ _ _ => let q := s.pendSector d id; some ((homeOf q, s.port (homeOf q) q), (d, s.port d q))
  | .collapse line d _ => some ((homeOf line, s.port (homeOf line) line), (d, s.port d line))
  | .cack src (.slot d k) => some ((src, mgmtPort), (d, ringOf k))
  | .cack src (.home d) => some ((src, mgmtPort), (d, mgmtPort))
  | .cack src (.transfer id) => (s.carrier id).map fun c => ((src, mgmtPort), c)
  | .read _ d _ line _ _ => some ((d, s.port d line), (homeOf line, s.port (homeOf line) line))
  | .fill _ d k l _ _ _ _ _ => some ((homeOf l.line, s.port (homeOf l.line) l.line), (d, ringOf k))
  | .tlbinv _ a b k _ _ _ => some ((a, ringOf k), (b, mgmtPort))
  | .tlback _ a b k => some ((a, mgmtPort), (b, ringOf k))
  | .strip t => some (t.source, (t.die, t.ring))
  | .gather t => some (t.source, (t.die, gatherPort))
  | .landing t => t.barrier.map fun b => ((t.die, if t.kind = .gx ∨ t.kind = .coll then gatherPort else t.ring), (homeOf b, s.port (homeOf b) b))
  | .batch id d _ => (s.carrier id).map fun c => (c, (d, gatherPort))
  | .wake d _ loc => some ((homeOf loc, s.port (homeOf loc) loc), (d, mgmtPort))
  | .migrate _ a b => some ((a, mgmtPort), (b, mgmtPort))
  | .pod _ d k _ _ _ _ _ _ port _ => port.map fun p => ((d, ringOf k), (Fin.ofNat 16 (8 + p.val), podPort))
  | .register r a _ => some ((a, gatherPort), (r.die, gatherPort))
  | .confirm d _ _ gid => some ((gid.die, gatherPort), (d, gatherPort))
  | .abort a d _ _ => some ((a, gatherPort), (d, gatherPort))
  | .coll a p _ _ => some ((a, gatherPort), (p.die, gatherPort))
  | _ => none
/-- The links of a walk from a die, each as the die that sends on it and its direction. -/
def linksOf : DieId → List Dir → List (DieId × Dir)
  | _, [] => []
  | d, dir :: ds => (d, dir) :: linksOf (neighbour d dir) ds
/-- R442: the flits of the packets that have left the net since `s` are counted on the links of their route; how many flits a packet
takes is a free value. (DEDUCED, log 55) -/
def State.countFlits (s t : State) : State :=
  (s.net.filter fun p => !t.net.contains p).foldl (fun u p =>
    match s.flow p with
    | some f => (linksOf f.1.1 ((s.routeOf f.1.1 f.2.1).getD [])).foldl (fun u l =>
        let n := Config.freeFlits u.fresh
        ((({ u with fresh := u.fresh + 1 } : State).count l.1 7 (dirIx l.2) 0 n).count (neighbour l.1 l.2) 7 (dirIx (dirBack l.2)) 0 n)) u
    | none => u) t

/-- Packets of one flow keep their order (R353, R354, R438): none of an earlier packet's flow is still on its way. (DEDUCED, log 67) -/
def State.inOrder (s : State) (k : Nat) (p : Packet) : Bool :=
  match s.flow p with
  | none => true
  | some f => (s.net.take k).all fun q => s.flow q != some f
/-- A packet at an index of the net, first of its flow, that can reach its destination, and the rest of the net (R439). (DEDUCED, log 67) -/
def State.arrive (s : State) (k : Nat) : Option (Packet × List Packet) :=
  match takeAt k s.net with
  | some (p, rest) =>
    if s.inOrder k p && (s.flow p).all fun f => s.routable f.1.1 f.2.1 then some (p, rest) else none
  | none => none
/-- The first packet of the net that satisfies a test, where it can arrive now. -/
def State.arriveAt (s : State) (p : Packet → Bool) : Option (Packet × List Packet) := (s.net.findIdx? p).bind s.arrive

/-! ### Requests to other modules (R443, R444) -/

/-- Port p sits on die 8 + p. -/
def portDie (p : Fin 8) : DieId := Fin.ofNat 16 (8 + p.val)
def State.portUsable (s : State) (p : Fin 8) : Bool := s.ports[p] && s.present (portDie p).val
/-- R444: the port by which a request to a module leaves. (DEDUCED, log 46) -/
def State.route (s : State) (modl : Nat) : Option (Fin 8) :=
  ((upFrom modl 8).map (Fin.ofNat 8)).find? fun p => s.portUsable p
/-- R444: a request waits while one to its module is on its way by another port. -/
def State.routeHeld (s : State) (modl : Nat) (port : Option (Fin 8)) : Bool :=
  s.net.any fun p => match p with
    | .pod _ _ _ _ _ _ m _ _ q _ => m == modl && q != port
    | _ => false
/-- A message of a group leaves for another module: by the port of its route, after those that wait for the same module; with no usable
port it cannot leave. (DEDUCED, log 46) -/
def State.sendAway (s : State) (m : Member) (x : GroupMsg) : State :=
  match s.route m.modl.toNat with
  | none => s
  | some p =>
    if s.routeHeld m.modl.toNat (some p) || s.away.any fun q => q.1.modl == m.modl then { s with away := s.away ++ [(m, x)] }
    else { s with wire := .group p m x :: s.wire }
/-- Messages whose module's route is no longer held leave, in order. (DEDUCED, log 46) -/
def State.flushAway (s : State) : State := s.away.foldl (fun s q => s.sendAway q.1 q.2) { s with away := [] }

end Sys2Proof.Machine
end

