-- ==== Sys2Proof/Machine/Squash.lean ====
section
/-! DEFINITION. Squash of chunks (R30, R298, R322 to R324), before memory: a write performed at its home squashes
the chunks that have read its sectors. -/

namespace Sys2Proof.Machine

/-- A chunk about to start (R143). -/
def Chunk.start (j : Nat) (oldest : Bool) : Chunk :=
  { j, oldest, final := false, spec := true, iter := 0, depth := 0, traps := 0, ended := false, restart := false, wr := [],
    valid := [], er := [], commit := [], ordered := [], marks := [], weir := false, cap := false, fin := 0, rx := 0, wrote := 0, pred := [],
    oxRead := 0, oxWrote := 0, oxFrom := [], oxVals := [], sent := 0, held := none, waited := 0, memSq := 0, sq := none }

/-- The slots that run chunks of a strand's region. -/
def State.chunkCtxs (s : State) (strand : Word) : List Ctx := s.busy.filter fun c => c.strand == strand && c.chunk.isSome
/-- Is there a live region with more than one slot for a strand? -/
def State.ringed (s : State) (strand : Word) : Bool := s.regions.any fun r => r.strand == strand && 2 ≤ r.slots.length

/-- Cores from one to another along the ring, a whole turn for the same core (R312). -/
def hopsTo (origin core : Nat) : Nat := if core = origin then 8 else (core + 8 - origin) % 8
/-- A rill message of a slot's chunk (R311). -/
def Ctx.rill (c : Ctx) (j : Nat) (m : RillMsg) : Packet := .rill c.die (ringOf c.slot) (coreOf c.slot) 0 c.strand j m

/-! ### Squash (R322, R323) -/

def SquashCause.ix : SquashCause → Nat
  | .value => 0
  | .memory => 1
  | .exit => 2

/-- A squashed chunk's effects are discarded; FINAL bits of its live-ins are read again at the restart. -/
def Chunk.squashed (k : Chunk) (sq : Nat × Nat × SquashCause × Bool) : Chunk :=
  { Chunk.start k.j k.oldest with restart := true, memSq := k.memSq, sq := some sq }

/-- Messages of a chunk that have not left its core: its squash drops those of the run that is discarded. (DEDUCED, log 52) -/
def Packet.ofRun (strand : Word) (j : Nat) : Packet → Bool
  | .rill _ _ _ 0 st i (.liveout _ _) => st == strand && i == j
  | .rill _ _ _ 0 st i (.oxw _ _) => st == strand && i == j
  | .rill _ _ _ 0 st i (.store _ _) => st == strand && i == j
  | _ => false

/-- Squashing the chunk in one slot, under a cause that began at chunk `origin`; `here` when it was detected at this
chunk, where its event is counted: counts the held trap it loses. -/
def State.squashSlot (s : State) (c : Ctx) (origin : Nat) (cause : SquashCause) (here : Bool) : State :=
  match c.chunk with
  | none => s
  | some k =>
    let s := s.count c.die 1 (ringOf c.slot) 5 (if k.held.isSome then 1 else 0)
    let s := s.count c.die 1 (ringOf c.slot) 4 1
    let s := { s with net := s.net.filter fun p => !p.ofRun c.strand k.j }
    s.mapCtx c.die c.slot fun c => { c with chunk := some (k.squashed (s.tick, origin, cause, here)), wait := none, sent := none, answer := none,
                                             lines := [], part := none, mmaAcc := none }

/-- One squash event of a cause on a ring. -/
def State.squashEvent (s : State) (c : Ctx) (cause : SquashCause) : State :=
  s.count c.die 1 (ringOf c.slot) cause.ix 1

/-- R324: of the signals that reach a chunk in one tick the one of the oldest origin stands, then exit before memory
before value; the event of the other is not counted. -/
def State.outrank (s : State) (c : Ctx) (k : Chunk) (origin : Nat) (cause : SquashCause) (here : Bool) : State :=
  match k.sq with
  | none => s
  | some (t, o, old, counted) =>
    if t = s.tick ∧ (origin < o ∨ (origin = o ∧ old.ix < cause.ix)) then
      let s := if counted then s.setCounter c.die 1 (ringOf c.slot) old.ix (s.counter c.die 1 (ringOf c.slot) old.ix - 1) else s
      let s := if here then s.squashEvent c cause else s
      s.mapCtx c.die c.slot fun c => { c with chunk := some { k with sq := some (t, origin, cause, here) } }
    else s

/-- R322: a chunk is squashed where its cause is detected, and SQUASH goes to the younger chunks. One already squashed,
or past the weir, takes no further effect (R324, R327). After two memory squashes of the oldest chunk its third run
is non-speculative, a capacity event (R323). -/
def State.squash (s : State) (c : Ctx) (cause : SquashCause) : State :=
  match c.chunk with
  | none => s
  | some k =>
    if k.weir then s
    else if k.restart then s.outrank c k k.j cause true
    else
      let s := (s.squashEvent c cause).squashSlot c k.j cause true
      let s := if k.oldest && cause == .memory then
          let s := s.count c.die 1 (ringOf c.slot) 3 (if k.memSq = 1 then 1 else 0)
          s.mapCtx c.die c.slot fun c => { c with chunk := c.chunk.map fun q => { q with memSq := k.memSq + 1, spec := decide (k.memSq + 1 < 2) } }
        else s
      if s.ringed c.strand then s.send (c.rill k.j (.squash cause)) else s

/-- R298, R323: a coherence invalidation of a range in the slots that `on` names squashes the chunks whose ER sectors it
hits, except those of strand `but`. -/
def State.invalidate (s : State) (on : Ctx → Bool) (loc n : Nat) (but : Option Word) : State :=
  let mine (c : Ctx) : Bool := on c && some c.strand != but && c.chunk.any fun k => k.spec && !k.weir
  let hit (c : Ctx) : Bool := mine c && c.chunk.any fun k => !k.valid.isEmpty
  let clear (c : Ctx) : Ctx := if hit c then { c with chunk := c.chunk.map fun k => { k with valid := cellsDel loc n k.valid } } else c
  let s := if hit s.me || s.others.any hit then { s with me := clear s.me, others := s.others.map clear } else s
  (s.busy.filter fun c => mine c && (c.chunk.any fun k => k.er.any fun q => q < loc + n && loc < q + 32)).foldl
    (fun s c => s.squash c .memory) s
/-- An invalidation on one die. -/
def State.invalidateER (s : State) (d : DieId) (loc n : Nat) (but : Option Word) : State := s.invalidate (fun c => c.die == d) loc n but
/-- R333: a write to a tile-store line: its own ring's copies of the bytes go; where REMOTE is set every other copy of the
line goes too, on every die, and REMOTE is cleared. -/
def State.invalidateTile (s : State) (loc n : Nat) (but : Option Word) : State :=
  let home := homeOf loc
  let own (c : Ctx) : Bool := c.die == home && ringOf c.slot == (loc - tileBase) % 2 ^ 24 / 2 ^ 21
  let s := s.invalidate own loc n but
  [lineOf loc, lineOf (loc + n - 1)].eraseDups.foldl (fun s line =>
    if (s.die home).remote.contains line then
      (s.mapDie home fun d => { d with remote := natDel line d.remote }).invalidate (fun c => !own c) line 256 but
    else s) s

end Sys2Proof.Machine
end

