-- ==== Sys2Proof/Machine/Shared.lean ====
section
/-! DEFINITION. The slices of a die's shared cache (R336 to R340) and of the memory-side cache (R357): which lines they hold, which
of their sectors are dirty, the cores that hold copies, and the victim of a full set. The data itself stands in `State.mem`, which is
the coherent value (R292), and in `Die.replicas`. -/

namespace Sys2Proof.Machine

/-- R358: the channel of a die's DRAM in which a line falls. -/
def channelOf (loc : Nat) : Nat :=
  if Config.isM (homeOf loc).val then (loc / 2 ^ 8 % 8) ^^^ (loc / 2 ^ 17 % 8) else (loc / 2 ^ 8 % 32) ^^^ (loc / 2 ^ 17 % 32)

/-- R313: the set of the L1D that a line falls in. (DESIGN CHOICE, log 19) -/
def l1Set (line : Nat) : Nat := line / 256 % Config.l1Sets
/-- The lines of a slot's chunk that are pinned (R313): those with ER or WR bits. -/
def Chunk.pinned (k : Chunk) : List Nat :=
  if k.spec then ((k.wr.map fun b => lineOf b.1) ++ k.er.map lineOf).eraseDups else []
/-- The lines that the chunks of a die's core pin, once for each chunk. -/
def State.pinnedOn (s : State) (d : DieId) (core : Nat) : List Nat :=
  ((s.busy.filter fun o => o.die == d && o.slot.val / 4 == core).map fun o => (o.chunk.map Chunk.pinned).getD []).flatten

/-- R336: the set of its slice that a line falls in. -/
def sliceSet (line : Nat) : Nat := (line / 2 ^ 12 % 2 ^ 11) ^^^ (line / 2 ^ 23 % 2 ^ 11) ^^^ (line / 2 ^ 34 % 2 ^ 11)
/-- R357: the set of its channel's memory-side slice. (DESIGN CHOICE, log 48) -/
def memSet (d : DieId) (line : Nat) : Nat := line / 256 / Config.memSlices d.val % Config.sliceSets d.val

/-- R338: may a die hold a line in its shared cache: its own, or a replica? -/
def Die.holds (y : Die) (d : DieId) (line : Nat) : Bool := homeOf line == d || y.replicas.any fun l => l.line == line
/-- The lines that stand in the set of a line, the most recently used first. -/
def State.setWays (s : State) (d : DieId) (line : Nat) : List SharedLine :=
  (s.die d).shared.filter fun l => sliceSet l.line == sliceSet line && s.sliceOn d l.line == s.sliceOn d line && (s.die d).holds d l.line
/-- R339: the victim of a set: the least recently used line that no L1D holds, or else the least recently used. (DESIGN CHOICE, log 48) -/
def victim (ws : List SharedLine) : Option SharedLine :=
  match ws.reverse.find? fun l => l.cores.isEmpty with
  | some l => some l
  | none => ws.getLast?

/-- R357: a read or write passes through the memory-side cache: the line takes a way, and the least recently used of sixteen is written
back to DRAM. (DESIGN CHOICE, log 48) -/
def State.memTouch (s : State) (d : DieId) (line : Nat) (dirty : BitVec 8) : State :=
  s.mapDie d fun y =>
    let old := (y.memside.find? fun l => l.line == line).map fun l => l.dirty
    let rest := y.memside.filter fun l => l.line != line
    let set := rest.filter fun l => channelOf l.line == channelOf line && memSet d l.line == memSet d line
    let rest := if set.length < Config.memWays then rest else match set.getLast? with | some v => rest.erase v | none => rest
    { y with memside := ⟨line, old.getD 0 ||| dirty⟩ :: rest }

/-- R343, R345: a die drops its copies of a line. -/
def State.dropReplica (s : State) (d : DieId) (line : Nat) : State :=
  (s.mapDie d fun x => { x with replicas := x.replicas.filter fun l => l.line != line }).invalidateER d line 256 none
/-- R343: the notice of an evicted replica reaches the home, where the pointer stays while a granted fill of the line is on its way to
the die. -/
def State.evictNotice (s : State) (d : DieId) (line : Nat) : State :=
  let coming := s.net.any fun p => match p with
    | .fill _ e _ l g keep _ _ _ => e == d && l.line == line && g && keep
    | _ => false
  if coming then s else s.mapDie (homeOf line) fun x =>
    { x with dir := mapIf (fun e => e.line == line && !e.coarse) (fun e => { e with holders := e.holders.erase d }) x.dir }
/-- R338, R339: a line leaves its slice: a replica with its notice, a line homed here written back where it is dirty; the copies of the
L1Ds go with it. (DESIGN CHOICE, log 48) -/
def State.evict (s : State) (d : DieId) (l : SharedLine) : State :=
  let s := s.mapDie d fun y => { y with shared := y.shared.filter fun o => o.line != l.line }
  if homeOf l.line = d then (if l.dirty = 0 then s else s.memTouch d l.line l.dirty).invalidateER d l.line 256 none
  else (s.dropReplica d l.line).evictNotice d l.line

/-- The L1D of a core holds eight lines of a set: the least recently used beyond them goes, but none that is pinned (R313). (DESIGN CHOICE, log 19) -/
def trimL1 (core set : Nat) (pinned : List Nat) (l : List SharedLine) : List SharedLine :=
  let mine := l.filter fun o => o.cores.contains core && l1Set o.line == set
  if mine.length ≤ Config.l1Ways then l
  else match mine.reverse.find? fun o => !pinned.contains o.line with
    | some v => l.map fun o => if o.line = v.line then { o with cores := o.cores.erase core } else o
    | none => l

/-- A slice uses a line: it takes a way, that of the victim in a full set of twelve (R336, R339), some sectors become dirty, and a core
takes a copy. (DESIGN CHOICE, log 48) -/
def State.touch (s : State) (d : DieId) (line : Nat) (dirty : BitVec 8) (core : Option Nat) : State :=
  let old := ((s.die d).shared.find? fun l => l.line == line).filter fun _ => (s.die d).holds d line
  let s := if old.isSome then s else
    let ws := s.setWays d line
    let s := if ws.length < Config.sliceWays then s else match victim ws with | some v => s.evict d v | none => s
    if homeOf line = d then s.memTouch d line 0 else s
  let l := old.getD ⟨line, 0, []⟩
  let new : SharedLine := { l with dirty := l.dirty ||| dirty, cores := l.cores ++ core.toList.filter fun c => !l.cores.contains c }
  s.mapDie d fun y =>
    let all := new :: y.shared.filter fun o => o.line != line
    { y with shared := match core with | some c => trimL1 c (l1Set line) (s.pinnedOn d c) all | none => all }

/-- R338, R344: a granted replica is installed. -/
def State.install (s : State) (d : DieId) (l : Line) : State :=
  let s := s.mapDie d fun x => { x with shared := x.shared.filter fun o => o.line != l.line }
  (s.mapDie d fun x => { x with replicas := l :: x.replicas.filter fun o => o.line != l.line }).touch d l.line 0 none

/-- The sectors of a line that a range of locations touches, as bits. -/
def sectorBits (line loc n : Nat) : BitVec 8 :=
  (upFrom 0 8).foldl (fun m i => if overlaps (line + 32 * i) 32 loc n then m ||| BitVec.ofNat 8 (2 ^ i) else m) 0
/-- R338, R345: a write performed at its home leaves its lines dirty in the home's slice. -/
def State.dirtied (s : State) (loc n : Nat) : State :=
  if !isDram loc ∨ n = 0 then s
  else ((upFrom (loc / 256) ((loc + n - 1) / 256 - loc / 256 + 1)).map (· * 256)).foldl (fun s line => s.touch (homeOf line) line (sectorBits line loc n) none) s

end Sys2Proof.Machine
end

