-- ==== Sys2Proof/Machine/Memory.lean ====
section
/-! DEFINITION. Addresses and memory: locations, the decode of a virtual address (R44 to R47), translation
(R365 to R369), the view of a die (R293), stores performed at home (R295, R345) and pending stores (R341). -/

namespace Sys2Proof.Machine

/-! ### Cause codes (R407) -/

def cILLEGAL : BitVec 8 := 0x01
def cILLFORMED : BitVec 8 := 0x02
def cMISALIGN : BitVec 8 := 0x03
def cNONCANON : BitVec 8 := 0x04
def cPAGE_R : BitVec 8 := 0x05
def cPAGE_W : BitVec 8 := 0x06
def cPAGE_X : BitVec 8 := 0x07
def cACCESS : BitVec 8 := 0x08
def cPRIVATE : BitVec 8 := 0x09
def cABSENT_HOME : BitVec 8 := 0x0A
def cFE_RETRY : BitVec 8 := 0x0B
def cQCB_CORRUPT : BitVec 8 := 0x0C
def cOVERPOST : BitVec 8 := 0x0D
def cGEOM_NONFINITE : BitVec 8 := 0x0E
def cDET_VIOLATION : BitVec 8 := 0x0F
def cLATE : BitVec 8 := 0x10
def cDATA_LOST_TRAP : BitVec 8 := 0x11
def cBRK : BitVec 8 := 0x12
def cWATCH : BitVec 8 := 0x13
def cSVC : BitVec 8 := 0x14

/-! ### Access kinds and places -/

/-- What an access does (R163): reads, writes, reads then writes, fetches. (DEDUCED, log 25) -/
inductive AccessKind where
  | r | w | rw | x
  deriving DecidableEq, Repr

def AccessKind.writes : AccessKind → Bool
  | .w | .rw => true
  | _ => false

/-- Where an access goes, with what its translation says. -/
structure Place where
  loc : Nat
  dev : Bool
  mig : Bool
  /-- The replication hint (R344). -/
  hint : BitVec 2
  /-- The PTE used: its location and value, and the page's first address and level. -/
  pte : Option TlbEntry
  deriving DecidableEq, Repr

/-! ### The view of a die (R293) -/

/-- One byte as a die sees it: found (lost bytes are `none`), or to be read at its remote home. -/
inductive Seen where
  | byte (b : Option Byte)
  | remote
  deriving DecidableEq, Repr

/-- A byte at home. -/
def State.homeByte (s : State) (loc : Nat) : Option Byte := if s.lost.contains loc then none else some (memGet s.mem loc)

/-- The byte in a list of delivered lines. -/
def lineByte (ls : List Line) (loc : Nat) : Option (Option Byte) :=
  match ls.find? fun l => l.line == lineOf loc with
  | some l => l.data[loc % 256]?
  | none => none

/-- Are all the stores of a pending entry those of one strand? -/
def State.ownPend (s : State) (strand : Word) (p : Pend) : Bool :=
  p.writers.all fun w => match w with
    | .slot d k => (s.ctx d k).strand == strand
    | _ => false
/-- Does a pending entry hold a byte, or a half of it? -/
def Pend.touches (p : Pend) (loc : Nat) : Bool := (cellGet p.bytes loc).isSome || p.halves.any fun h => h.1 == loc

/-- R293, R296, R297: a strand sees its own stores that are not performed yet, then its die's replica, then what was brought from the
home; a tile-store byte is read at its bank. A byte that others' stores hold pending is to be read at the home once they are performed,
and so is one of which a half is pending. (DESIGN CHOICE, log 48) -/
def State.dieByte (s : State) (d : DieId) (strand : Option Word) (extra : List Line) (loc : Nat) : Seen :=
  if homeOf loc = d then .byte (s.homeByte loc)
  else
    match (s.die d).pend.reverse.find? fun p => p.touches loc with
    | some p =>
      match strand, cellGet p.bytes loc with
      | some st, some b => if !p.sent && s.ownPend st p && !p.halves.any fun h => h.1 == loc then .byte (some b) else .remote
      | _, _ => .remote
    | none =>
      if isTile loc then .byte (s.homeByte loc)
      else
        match lineByte (s.die d).replicas loc with
        | some b => .byte b
        | none =>
          match lineByte extra loc with
          | some b => .byte b
          | none => .remote

/-- Bytes, or the remote line that must first be read. -/
inductive Got where
  | data (bs : List (Option Byte))
  | need (line : Nat)
  deriving DecidableEq, Repr

def gatherBytes (f : Nat → Seen) (loc : Nat) : Nat → Got
  | 0 => .data []
  | n + 1 =>
    match f loc with
    | .remote => .need (lineOf loc)
    | .byte b =>
      match gatherBytes f (loc + 1) n with
      | .data bs => .data (b :: bs)
      | .need l => .need l

/-- A byte in a replica on its way to a die, where it is to be installed (R344, R347). -/
def State.comingByte (s : State) (d : DieId) (loc : Nat) : Option (Option Byte) :=
  if (s.die d).pend.any fun p => lineOf p.sector == lineOf loc then none
  else s.net.findSome? fun p => match p with
    | .fill _ e _ l true true _ _ _ => if e == d && l.line == lineOf loc then l.data[loc % 256]? else none
    | _ => none
/-- A byte as an agent of a die sees it (R293, R370): a remote home is read in place, but never ahead of a replica that the die will
hold yet, so that its view goes back to no earlier write (R294). (DEDUCED, log 22) -/
def State.agentByte (s : State) (d : DieId) (loc : Nat) : Byte :=
  match s.dieByte d none [] loc with
  | .byte b => unlost b
  | .remote => unlost ((s.comingByte d loc).getD (s.homeByte loc))
/-- The 8-byte value a walker of die `d` reads (R370). (DEDUCED, log 18, 22) -/
def State.walkRead (s : State) (d : DieId) (loc : Nat) : Word := word (ofBytes ((upFrom loc 8).map (s.agentByte d)))

/-! ### Translation (R365 to R368) -/

def pteV (p : Word) : Bool := bitAt p 0
def pteR (p : Word) : Bool := bitAt p 1
def pteW (p : Word) : Bool := bitAt p 2
def pteX (p : Word) : Bool := bitAt p 3
def pteU (p : Word) : Bool := bitAt p 4
def pteMig (p : Word) : Bool := bitAt p 5
def pteDev (p : Word) : Bool := bitAt p 6
def pteHint (p : Word) : BitVec 2 := BitVec.ofNat 2 (bits p 7 2)
def ptePs (p : Word) : Nat := bits p 9 2
def pteA (p : Word) : Bool := bitAt p 11
def pteD (p : Word) : Bool := bitAt p 12
def ptePa (p : Word) : Nat := bits p 16 32 * 65536
/-- log2 of the bytes a leaf maps at a level (R365). -/
def leafLog (level : Nat) : Nat := if level = 3 then 42 else if level = 2 then 29 else 16

def pageFault : AccessKind → BitVec 8
  | .r | .rw => cPAGE_R
  | .w => cPAGE_W
  | .x => cPAGE_X

/-- R330: the fault of a physical address, if any. -/
def State.paFault (s : State) (pa : Nat) (dev : Bool) : Option (BitVec 8) :=
  if pa / 2 ^ 40 > 1 then some cACCESS
  else if !s.present (pa / 2 ^ 36 % 16) then some cABSENT_HOME
  else if pa / 2 ^ 40 = 0 then (if pa % 2 ^ 36 < Config.dramBytes (pa / 2 ^ 36 % 16) then none else some cACCESS)
  else if dev then none else some cACCESS

/-- R367: the checks of an entry read at a level; `none` when it passes. -/
def State.entryFault (s : State) (k : AccessKind) (level : Nat) (p : Word) : Option (BitVec 8) :=
  if !pteV p then some (pageFault k)
  else if bits p 48 16 ≠ 0 ∨ bits p 13 3 ≠ 0 then some cACCESS
  else if ptePs p = 0 then
    if level ≤ 1 then some cACCESS
    else if bits p 1 12 ≠ 0 then some cACCESS
    else s.paFault (ptePa p) false
  else if ptePs p ≠ level then some cACCESS
  else if ptePa p % 2 ^ leafLog level ≠ 0 then some cACCESS
  else none

/-- R369: a node entry that the walk cache of a die holds for an address. -/
def walkFind (l : List WalkEntry) (root level va : Nat) : Option Word :=
  (l.find? fun e => e.root == root && e.level == level && va / 2 ^ leafLog level == e.va / 2 ^ leafLog level).map fun e => e.pte

/-- A walk from a node at a level (R365): the leaf's entry, or the fault. Node entries are those of the walk cache, else
what the walker reads (R369, R370). -/
def State.walkFrom (s : State) (d : DieId) (k : AccessKind) (root va : Nat) : Nat → Nat → Except (BitVec 8) TlbEntry
  | 0, _ => .error cACCESS
  | level + 1, node =>
    let loc := node + 8 * (va / 2 ^ leafLog (level + 1) % 8192)
    let p := (walkFind (s.die d).walks root (level + 1) va).getD (s.walkRead d loc)
    match s.entryFault k (level + 1) p with
    | some f => .error f
    | none =>
      if ptePs p = 0 then s.walkFrom d k root va level (ptePa p)
      else .ok ⟨.die, root, va / 2 ^ leafLog (level + 1) * 2 ^ leafLog (level + 1), level + 1, loc, p⟩

def State.walk (s : State) (d : DieId) (k : AccessKind) (root va : Nat) : Except (BitVec 8) TlbEntry :=
  s.walkFrom d k root va 3 root

/-- The node entries that a walk goes through (R369): what the walk cache keeps of it. -/
def State.nodesFrom (s : State) (d : DieId) (root va : Nat) : Nat → Nat → List WalkEntry
  | 0, _ => []
  | level + 1, node =>
    let p := (walkFind (s.die d).walks root (level + 1) va).getD (s.walkRead d (node + 8 * (va / 2 ^ leafLog (level + 1) % 8192)))
    if (s.entryFault .r (level + 1) p).isSome ∨ ptePs p ≠ 0 then []
    else ⟨root, level + 1, va / 2 ^ leafLog (level + 1) * 2 ^ leafLog (level + 1), p⟩ :: s.nodesFrom d root va level (ptePa p)

/-- Where an access of a slot looks for a translation (R369): its core, its ring, its die; an agent of the die looks in the
die's last level. -/
def TlbAt.serves (t : TlbAt) (slot : Option SlotNo) : Bool :=
  match t, slot with
  | .die, _ => true
  | .ring r, some k => r == ringOf k
  | .core r c, some k => r == ringOf k && c == coreOf k
  | _, none => false
def TlbAt.rank : TlbAt → Nat
  | .core _ _ => 0
  | .ring _ => 1
  | .die => 2
def TlbEntry.covers (e : TlbEntry) (root va : Nat) : Bool := e.root == root && va / 2 ^ leafLog e.level == e.va / 2 ^ leafLog e.level

/-- R369: a cached translation for an access under a root, the nearest level first. -/
def tlbFind (l : List TlbEntry) (slot : Option SlotNo) (root va : Nat) : Option TlbEntry :=
  (upFrom 0 3).findSome? fun r => l.find? fun e => e.held.rank == r && e.held.serves slot && e.covers root va

/-- A, D bits set in a PTE value. -/
def pteSet (p : Word) (d : Bool) : Word := p ||| (if d then 0x1800 else 0x800)
/-- R368: the PTE at home equals the cached one in every bit but A and D. -/
def pteSame (p q : Word) : Bool := (p ||| 0x1800) == (q ||| 0x1800)

/-- The translation an access uses: a cached one, else a walk. (DEDUCED, log 18) -/
def State.leafOf (s : State) (d : DieId) (slot : Option SlotNo) (k : AccessKind) (root va : Nat) : Except (BitVec 8) TlbEntry :=
  match tlbFind (s.die d).tlb slot root va with
  | some e => .ok e
  | none => s.walk d k root va

/-- R163, R367: permission of a leaf for an access. (DEDUCED, log 23) -/
def permFault (k : AccessKind) (strandLevel : Bool) (p : Word) : Option (BitVec 8) :=
  if (k = .r ∨ k = .rw) ∧ !pteR p then some cPAGE_R
  else if k.writes && !pteW p then some cPAGE_W
  else if k = .x ∧ !pteX p then some cPAGE_X
  else if strandLevel && !pteU p then some cACCESS
  else none

def TlbEntry.place (e : TlbEntry) (va : Nat) : Place :=
  ⟨ptePa e.pte + va % 2 ^ leafLog e.level, pteDev e.pte, pteMig e.pte, pteHint e.pte, some e⟩

/-- The page a global address leads to, its physical address checked, before permissions. -/
def State.pageOf (s : State) (d : DieId) (slot : Option SlotNo) (k : AccessKind) (root va : Nat) : Except (BitVec 8) Place :=
  match s.leafOf d slot k root va with
  | .error f => .error f
  | .ok e =>
    match s.paFault (e.place va).loc (pteDev e.pte) with
    | some f => .error f
    | none => .ok (e.place va)

/-- R365 to R367, R163, R331: a global address translated for an access of a slot, or of an agent of the die; device space is
reached at system level only. (DEDUCED, log 88) -/
def State.translate (s : State) (d : DieId) (slot : Option SlotNo) (k : AccessKind) (strandLevel : Bool) (root va : Nat) : Except (BitVec 8) Place :=
  match s.pageOf d slot k root va with
  | .error f => .error f
  | .ok p =>
    match p.pte with
    | none => .ok p
    | some e =>
      match permFault k strandLevel e.pte with
      | some f => .error f
      | none => if strandLevel && slot.isSome && isDevice p.loc then .error cACCESS else .ok p

/-! ### Virtual addresses (R44 to R47) -/

def Place.tile (loc : Nat) : Place := ⟨loc, false, false, 0, none⟩

/-- The bytes of a private memory (R42, R46): base and size. -/
def privBase (p : BitVec 55) : Nat := p.toNat / 65536 * 65536
def privSize (p : BitVec 55) : Nat := (p.toNat % 65536 + 1) * 65536

/-- R374: PRIVSHARE of the launch whose header lies at a physical address. -/
def State.launchFlags (s : State) (c : Ctx) : Word := s.walkRead c.die (c.header + 56)
def State.privshare (s : State) (c : Ctx) : Bool := bitAt (s.launchFlags c) 0
def State.lateen (s : State) (c : Ctx) : Bool := bitAt (s.launchFlags c) 1
def State.dltrap (s : State) (c : Ctx) : Bool := bitAt (s.launchFlags c) 2

/-- The owner's PRIVBASE of a private window, or the fault (R46, R47). -/
def State.privOwner (s : State) (c : Ctx) (k : AccessKind) (va : Nat) : Except (BitVec 8) (BitVec 55) :=
  if va / 2 ^ 53 % 2 = 1 then
    if va / 2 ^ 32 % 2 ^ 21 ≠ 0 then .error cNONCANON else .ok c.ctl.privbase
  else if va / 2 ^ 48 % 2 ≠ 0 ∨ va / 2 ^ 32 % 2 ^ 8 ≠ 0 then .error cNONCANON
  else if !s.present (va / 2 ^ 49 % 16) then .error cABSENT_HOME
  else
    match s.ctx? (Fin.ofNat 16 (va / 2 ^ 49)) (Fin.ofNat 256 (va / 2 ^ 40)) with
    | none => .error cPRIVATE
    | some o =>
      if k.writes then .error cPRIVATE
      else if o.launch ≠ c.launch ∨ !s.privshare c then .error cPRIVATE
      else .ok o.ctl.privbase

/-- What an address names before translation: a global address, or a tile-store byte. -/
inductive Named where
  | global (va : Nat)
  | tile (p : Place)
  deriving DecidableEq, Repr

/-- The decode of an address issued from a slot (R44 to R47). `spaces` says whether windows are allowed:
0 global only, 1 tile stores too, 2 private windows too, 3 tile stores only (R162, R204). -/
def State.nameOf (s : State) (c : Ctx) (k : AccessKind) (spaces : Nat) (va : Word) : Except (BitVec 8) Named :=
  let a := va.toNat
  if a / 2 ^ 56 ≠ 0 then .error cNONCANON
  else if a / 2 ^ 55 = 0 then (if spaces = 3 then .error cACCESS else .ok (.global a))
  else if a / 2 ^ 54 % 2 = 0 then
    if spaces = 0 then .error cACCESS
    else if a / 2 ^ 21 % 2 ^ 25 ≠ 0 then .error cNONCANON
    else
      let die := if a / 2 ^ 53 % 2 = 0 then a / 2 ^ 49 % 16 else (c.die.val + a / 2 ^ 49 % 16) % 16
      let ring := if a / 2 ^ 53 % 2 = 0 then a / 2 ^ 46 % 8 else (ringOf c.slot + a / 2 ^ 46 % 8) % 8
      if !s.present die then .error cABSENT_HOME else .ok (.tile (Place.tile (tileLoc die ring (a % 2 ^ 21))))
  else if spaces ≠ 2 then .error cACCESS
  else
    match s.privOwner c k a with
    | .error f => .error f
    | .ok b =>
      if privSize b ≤ a % 2 ^ 32 then .error cACCESS
      else if 2 ^ 55 ≤ privBase b + a % 2 ^ 32 then .error cNONCANON
      else .ok (.global (privBase b + a % 2 ^ 32))

/-- An address decoded and translated for an access. -/
def State.placeOf (s : State) (c : Ctx) (k : AccessKind) (spaces : Nat) (va : Word) : Except (BitVec 8) Place :=
  match s.nameOf c k spaces va with
  | .error f => .error f
  | .ok (.tile p) => .ok p
  | .ok (.global a) => s.translate c.die (some c.slot) k (c.level == .strand) c.ctl.ptroot.toNat a

/-- R46, R86: instruction fetch; a private window faults with ACCESS. -/
def State.fetchPlace (s : State) (c : Ctx) (va : Nat) : Except (BitVec 8) Place := s.placeOf c .x 1 (word va)

/-! ### Watchpoints (R421) -/

/-- Does a watchpoint match `n` bytes at an address? `rwx` is a mask as RWX is: 4 read, 2 write, 1 execute. -/
def wpMatches (w : Word × Word) (rwx va n : Nat) : Bool :=
  let lg := if bits w.2 0 6 > 40 then 40 else bits w.2 0 6
  let base := bits w.1 0 56 / 2 ^ lg * 2 ^ lg
  bitAt w.2 63 && bits w.2 60 3 &&& rwx != 0 && va < base + 2 ^ lg && base < va + n

/-- DBGCTL names the slot's launch and is valid. -/
def State.debugged (s : State) (c : Ctx) : Bool :=
  let r := (s.die c.die).regs.dbgctl
  bitAt r 0 && bits r 6 49 == bits c.launch 6 49
def State.watch (s : State) (c : Ctx) (rwx va n : Nat) : Bool :=
  s.debugged c && bitAt (s.die c.die).regs.dbgctl 1 && !c.nowatch
    && (s.die c.die).regs.dbgwp.toList.any fun w => wpMatches w rwx va n

def AccessKind.rwx : AccessKind → Nat
  | .r => 4
  | .w => 2
  | .rw => 6
  | .x => 1

/-! ### Stores performed at home (R345) -/

/-- Waking whoever waits in `wres` on a reservation that is cleared (R184). -/
def State.dropResv (s : State) (rs : List Resv) : State :=
  rs.foldl (fun s r =>
    let s := s.mapDie (homeOf r.sector) fun d => { d with resv := d.resv.filter (· != r) }
    match s.ctx? r.die r.slot with
    | some c => s.send (.wake c.die c.strand r.sector)
    | none => s) s
/-- A write loses the reservations on the sectors it touches (R178). -/
def State.loseResv (s : State) (loc n : Nat) : State :=
  s.dropResv ((s.die (homeOf loc)).resv.filter fun r => r.sector < loc + n && loc < r.sector + 32)

/-- The holders of a line's replicas (R342): named, or every present die but home when coarse. -/
def State.holders (s : State) (e : DirEntry) : List DieId :=
  if e.coarse then s.presentDies.filter (· != homeOf e.line) else e.holders
def dirFind (l : List DirEntry) (line : Nat) : DirEntry := (l.find? fun e => e.line == line).getD ⟨line, false, []⟩

def maskOf (l : List DieId) : BitVec 16 := l.foldl (fun m d => m ||| BitVec.ofNat 16 (2 ^ d.val)) 0

/-- The region table's entry (R348); one never touched has the RESETDEG that REPLCTL holds at module reset (R350). -/
def regionIx (loc : Nat) : Nat := loc / 2 ^ 21
def Die.region (d : Die) (ix : Nat) : RegionEntry :=
  (d.regions.find? fun e => e.index == ix).getD ⟨ix, BitVec.ofNat 2 (bits DevRegs.reset.replctl 0 2), false, 0, 0, 0, 0⟩
def Die.setRegion (d : Die) (e : RegionEntry) : Die :=
  { d with regions := e :: d.regions.filter fun x => x.index != e.index }
def satAdd (x : BitVec 8) (n : Nat) : BitVec 8 := BitVec.ofNat 8 (min 255 (x.toNat + n))

/-- Each requester of a write by itself. -/
def Requester.each : Requester → List Requester
  | .slots l => l.map fun p => .slot p.1 p.2
  | .none => []
  | w => [w]

/-- Is an earlier collapse of a line on its way to a die, or does its CACK wait there for a fill (R347)? -/
def Packet.collapsing (line : Nat) (d : DieId) : Packet → Bool
  | .collapse l e _ => l == line && e == d
  | .fill _ e _ l _ _ _ _ c => l.line == line && e == d && !c.isEmpty
  | _ => false
/-- The requesters of a later write await the CACK of an earlier collapse too. -/
def Packet.join (ws : List Requester) : Packet → Packet
  | .collapse l e c => .collapse l e (c ++ ws)
  | .fill id e k l g q p st c => .fill id e k l g q p st (c ++ ws)
  | p => p
/-- Changing the first element that satisfies a test. -/
def mapFirst {α : Type} (p : α → Bool) (f : α → α) : List α → List α
  | [] => []
  | x :: xs => if p x then f x :: xs else x :: mapFirst p f xs

/-- Collapse of every replica of a line (R343, R345): the directory entry empties, COLLAPSE goes to each holder on behalf of
`who`. A die that has not acknowledged an earlier collapse of the line holds an older replica still: `who` awaits that CACK
too, so that its write is settled there (R301). Answers the dies whose CACK is due. (DEDUCED, log 67) -/
def State.collapseLine (s : State) (line : Nat) (who : Requester) : State × BitVec 16 :=
  let home := homeOf line
  let hs := s.holders (dirFind (s.die home).dir line)
  let late := if who.each.isEmpty then [] else allDies.filter fun d => !hs.contains d && s.net.any fun p => p.collapsing line d
  let s := if hs.isEmpty then s else
    let s := s.mapDie home fun d =>
      let r := d.region (regionIx line)
      { d.setRegion { r with col := satAdd r.col hs.length } with dir := d.dir.filter fun e => e.line != line }
    s.count home 4 0 3 hs.length
  let s := late.foldl (fun s d => { s with net := mapFirst (fun p => p.collapsing line d) (fun p => p.join who.each) s.net }) s
  (s.sendAll (hs.map fun h => .collapse line h who.each), maskOf (hs ++ late))

/-- R346: the counts of a requester change by a PERF with a holder mask. -/
def addCol (c : Vector (BitVec 12) 16) (m : BitVec 16) : Vector (BitVec 12) 16 :=
  allDies.foldl (fun v (d : DieId) => if m.getLsbD d.val then v.set d (v[d] + 1) else v) c
def State.creditPerf (s : State) (who : Requester) (m : BitVec 16) (remote : Bool) : State :=
  match who with
  | .slot d k =>
    s.mapCtx d k fun c => { c with colPend := addCol c.colPend m, perfPend := if remote then c.perfPend - 1 else c.perfPend }
  | _ => s

/-- The strands on whose behalf a write is performed. -/
def State.strandsOf (s : State) : Requester → List Word
  | .slot d k => (s.ctx? d k).toList.map fun c => c.strand
  | .slots l => l.filterMap fun p => (s.ctx? p.1 p.2).map fun c => c.strand
  | .transfer id => (s.busy.filter fun c => c.ilk.any fun e => e.id == id).map fun c => c.strand
  | _ => []

/-- A write performed at home moves the view of every die that holds no replica of the line (R293): on those dies it
squashes the chunks that have read the bytes, and a speculative load in progress reads anew; so does any load of the
strands that wrote (R299). -/
def State.squashReaders (s : State) (loc n : Nat) (own : List Word) (but : Option Word) : State :=
  let lines := [lineOf loc, lineOf (loc + n - 1)]
  let s := if isTile loc then s.invalidateTile loc n but
    else (allDies.filter fun d => !((s.die d).replicas.any fun l => lines.contains l.line)).foldl (fun s d => s.invalidateER d loc n but) s
  let anew (c : Ctx) : Bool := own.contains c.strand || c.chunk.any fun k => k.spec
  let fresh (c : Ctx) : Ctx := if anew c then { c with lines := c.lines.filter fun l => !lines.contains l.line } else c
  let mine (d : DieId) (k : SlotNo) : Bool := (s.ctx? d k).any fun c => own.contains c.strand
  let s := { s with net := s.net.map fun (p : Packet) => match p with
    | .fill id d k l g q pr _ c =>
      if lines.contains l.line then
        (if mine d k then Packet.fill id d k { l with data := [] } g false pr true c else Packet.fill id d k l g q pr true c)
      else p
    | p => p }
  if s.me.lines.isEmpty && s.others.all (fun c => c.lines.isEmpty) then s
  else { s with me := fresh s.me, others := s.others.map fresh }

/-- The bytes of one write performed at its home at one instant (R292): memory, the loss of reservations on the
sectors, the squash of chunks that have read them (R298) but for those of strand `but`. Lost data becomes sound where a whole 8-byte
unit is written (R291, R469). (DEDUCED, log 65, 85) -/
def State.writeBytes (s : State) (loc : Nat) (bs : List Byte) (who : Requester) (but : Option Word) : State :=
  let n := bs.length
  let s := { s with mem := memWrite s.mem loc bs,
                    lost := if s.lost.isEmpty then [] else s.lost.filter fun a => a / 8 * 8 < loc || loc + n < a / 8 * 8 + 8 }
  ((s.loseResv loc n).squashReaders loc n (s.strandsOf who) but).dirtied loc n

/-- One write performed at its home (R345), with the collapse of replicas. Answers the holder mask. (DEDUCED, log 65, 85) -/
def State.performWrite (s : State) (loc : Nat) (bs : List Byte) (who : Requester) (but : Option Word := none) : State × BitVec 16 :=
  let n := bs.length
  let s := s.writeBytes loc bs who but
  if isTile loc || n = 0 then (s, 0)
  else
    let (s, m1) := s.collapseLine (lineOf loc) who
    if lineOf (loc + n - 1) = lineOf loc then (s, m1)
    else
      let (s, m2) := s.collapseLine (lineOf (loc + n - 1)) who
      (s, m1 ||| m2)

/-- A write homed on the writer's own die, with its PERF (R346). -/
def State.writeHome (s : State) (loc : Nat) (bs : List Byte) (who : Requester) (but : Option Word := none) : State :=
  let (s, m) := s.performWrite loc bs who but
  s.creditPerf who m false

/-- What a store brings to its home: bytes, or one half of a byte (R238). -/
inductive Datum where
  | bytes (bs : List Byte)
  | half (hi : Bool) (x : BitVec 4)
  deriving DecidableEq, Repr

/-- A half byte merged into a byte. -/
def mergeHalf (old : Byte) (hi : Bool) (x : BitVec 4) : Byte := BitVec.ofNat 8 (putBits old.toNat (if hi then 4 else 0) 4 x.toNat)

/-- A store put into an entry: later bytes stand before earlier ones; a half goes into a byte that is there. -/
def Pend.add (p : Pend) (loc : Nat) : Datum → Pend
  | .bytes bs => { p with bytes := cellsPut loc bs p.bytes, halves := p.halves.filter fun h => h.1 < loc || loc + bs.length ≤ h.1 }
  | .half hi x =>
    match cellGet p.bytes loc with
    | some b => { p with bytes := cellPut loc (mergeHalf b hi x) p.bytes }
    | none => { p with halves := p.halves ++ [(loc, hi, x)] }

/-- Merging a store into a die's pending-store table (R341): into the sector's last entry not yet sent; a DEV access has an
entry of its own (R171). -/
def pendMerge (id : Nat) (sector loc : Nat) (x : Datum) (dev : Bool) (who : Requester) : List Pend → List Pend
  | [] => [Pend.add ⟨id, sector, [], [], dev, [who], false⟩ loc x]
  | p :: ps =>
    if p.sector = sector ∧ !p.sent ∧ !p.dev ∧ !dev ∧ !ps.any (fun q => q.sector == sector) then
      { p.add loc x with writers := p.writers ++ [who] } :: ps
    else p :: pendMerge id sector loc x dev who ps

/-- R295, R341: a store of a die to a remote home: the replica goes with the L1D copies of its line, but for those of strand
`but`, the bytes wait in the table, a packet carries them. The bytes lie in one sector. -/
def State.pendStore (s : State) (d : DieId) (loc : Nat) (x : Datum) (dev : Bool) (who : Requester) (but : Option Word) : State :=
  let (id, s1) := s.take
  let before := (s1.die d).pend.length
  let held := (s1.die d).replicas.any fun l => l.line == lineOf loc
  let s2 := s1.mapDie d fun y =>
    { y with replicas := y.replicas.filter fun l => l.line != lineOf loc,
             pend := pendMerge id (sectorOf loc) loc x dev who y.pend }
  let s2 := if held then s2.invalidateER d (lineOf loc) 256 but else s2
  let s3 := if (s2.die d).pend.length = before then s2 else s2.send (.pending d id)
  match who with
  | .slot dd k => s3.mapCtx dd k fun c => { c with perfPend := c.perfPend + 1 }
  | _ => s3

/-- Cutting a write at sector boundaries: location and bytes of each part. -/
def bySector (loc : Nat) : Nat → List Byte → List (Nat × List Byte)
  | 0, _ => []
  | fuel + 1, bs =>
    let n := 32 - loc % 32
    if bs.length ≤ n then [(loc, bs)] else (loc, bs.take n) :: bySector (loc + n) fuel (bs.drop n)

/-- R295, R340: a committed store of a slot enters its die's shared cache: performed when its home is that die, else pending;
chunks of strand `but` keep their copies. (DEDUCED, log 85) -/
def State.enterStore (s : State) (d : DieId) (loc : Nat) (bs : List Byte) (who : Requester) (but : Option Word) (dev : Bool := false) : State :=
  if homeOf loc = d then s.writeHome loc bs who but
  else
    let s := s.invalidateER d loc bs.length but
    (bySector loc (bs.length + 1) bs).foldl (fun s p => s.pendStore d p.1 (.bytes p.2) dev who but) s
/-- R238: a half byte enters: merged at the coherence point, at once or when its home performs it. -/
def State.enterHalf (s : State) (d : DieId) (loc : Nat) (hi : Bool) (x : BitVec 4) (who : Requester) (but : Option Word) (dev : Bool) : State :=
  if homeOf loc = d then s.writeHome loc [mergeHalf (unlost (s.homeByte loc)) hi x] who but
  else (s.invalidateER d loc 1 but).pendStore d loc (.half hi x) dev who but

/-- PERFPEND, with the `rred` packets that await their PERF, and COLPEND of a die, over the slots of a strand: what one slot counts once
its region has ended. -/
def State.strandPerf (s : State) (strand : Word) : Nat :=
  s.busy.foldl (fun n c => if c.strand = strand then n + c.perfPend.toNat + c.rredPend else n) 0
def State.strandCol (s : State) (strand : Word) (d : DieId) : Nat :=
  s.busy.foldl (fun n c => if c.strand = strand then n + c.colPend[d].toNat else n) 0

/-- R346: room in the counts of a strand for `n` more writes: each store that awaits its PERF may yet add one to COLPEND. -/
def State.countRoom (s : State) (strand : Word) (n : Nat) : Bool :=
  s.strandPerf strand + n < 4096 && allDies.all fun d => s.strandCol strand d + s.strandPerf strand + n < 4096

/-- R341, R346: room in the slice's pending-store table of the storing die and in the counts of a strand for `n` more bytes. -/
def State.storeRoom (s : State) (c : Ctx) (loc n : Nat) : Bool :=
  (homeOf loc == c.die
    || ((s.die c.die).pend.filter fun p => s.sliceOn c.die p.sector == s.sliceOn c.die loc).length + (n + 31) / 32 < Config.pendEntries + 1)
    && s.countRoom c.strand n

/-! ### A and D (R368) -/

/-- The PTE at its home. -/
def State.pteAt (s : State) (loc : Nat) : Word := word (ofBytes (memBytes s.mem loc 8))

/-- Must an access set A, or D for a write? -/
def TlbEntry.unmarked (e : TlbEntry) (write : Bool) : Bool := !pteA e.pte || (write && !pteD e.pte)

/-- R368: the atomic at the PTE's home would find it changed. -/
def State.pteStale (s : State) (e : TlbEntry) (write : Bool) : Bool := e.unmarked write && !pteSame e.pte (s.pteAt e.pteLoc)
/-- R368: a translation whose PTE has changed leaves every TLB of the die. -/
def State.dropEntry (s : State) (d : DieId) (e : TlbEntry) : State :=
  s.mapDie d fun x => { x with tlb := x.tlb.filter fun t => t.pteLoc != e.pteLoc }

/-- Setting A, and D for a store, in the PTE at its home and in the cached copies. -/
def State.setAD (s : State) (d : DieId) (pteLoc : Nat) (dd : Bool) : State :=
  let p := s.pteAt pteLoc
  let s := if pteSet p dd = p then s
    else (s.performWrite pteLoc (bytesOf 8 (pteSet p dd).toNat) .none).1
  s.mapDie d fun x => { x with tlb := mapIf (fun e => e.pteLoc == pteLoc) (fun e => { e with pte := pteSet e.pte dd }) x.tlb }

/-- The A and D updates of a committed access. -/
def State.markAD (s : State) (d : DieId) (p : Place) (write : Bool) : State :=
  match p.pte with
  | none => s
  | some e => if e.unmarked write then s.setAD d e.pteLoc write else s

end Sys2Proof.Machine
end

