-- ==== Sys2Proof/Machine/Chunks.lean ====
section
/-! DEFINITION. Forked regions: the versioned L1D of a chunk (R313 to R315), squash (R322, R323), the drain
of a commit list (R327), the start of chunks and the end of regions (R143 to R149, R325 to R328). -/

namespace Sys2Proof.Machine

/-! ### Chunks of a region -/

/-- The slot that runs chunk `j`. -/
def State.chunkCtx (s : State) (strand : Word) (j : Nat) : Option Ctx :=
  s.busy.find? fun c => c.strand == strand && (c.chunk.map fun k => k.j) == some j

/-- Nearest older chunk that has written a byte (R314), among the `n` chunks below `j`. -/
def State.olderByte (s : State) (strand : Word) (loc : Nat) : Nat → Nat → Option Byte
  | 0, _ => none
  | n + 1, j =>
    if j = 0 then none
    else
      match (s.chunkCtx strand (j - 1)).bind fun c => c.chunk.bind fun k => cellGet k.wr loc with
      | some b => some b
      | none => s.olderByte strand loc n (j - 1)

/-- A byte as a chunk sees it (R314). -/
def State.chunkByte (s : State) (c : Ctx) (k : Chunk) (loc : Nat) : Seen :=
  match cellGet k.wr loc with
  | some b => .byte (some b)
  | none =>
    match cellGet k.valid loc with
    | some b => .byte (some b)
    | none =>
      match s.olderByte c.strand loc 8 k.j with
      | some b => .byte (some b)
      | none => s.dieByte c.die (some c.strand) c.lines loc

/-- A byte as a slot's plain load sees it (R293, R314). -/
def State.seenByte (s : State) (c : Ctx) (loc : Nat) : Seen :=
  match c.chunk with
  | some k => if k.spec then s.chunkByte c k loc else s.dieByte c.die (some c.strand) c.lines loc
  | none => s.dieByte c.die (some c.strand) c.lines loc

/-- The sectors a range touches. -/
def sectorsOf (loc n : Nat) : List Nat := (upFrom (loc / 32) ((loc + n - 1) / 32 - loc / 32 + 1)).map (· * 32)

/-- R314: what a chunk's load leaves: the merged sectors with VALID set, ER unless every byte read has WR. `see` gives the
bytes that a lookup and the die view find. -/
def Chunk.noteRead (k : Chunk) (loc n : Nat) (see : Nat → Option Byte) : Chunk :=
  let fresh := (upFrom loc n).filter fun a => (cellGet k.wr a).isNone
  let sectors := (fresh.map sectorOf).eraseDups
  { k with
    valid := ((sectors.map fun q => upFrom q 32).flatten).foldl (fun v a =>
      if (cellGet k.wr a).isSome || (cellGet v a).isSome then v
      else match see a with
        | some b => cellPut a b v
        | none => v) k.valid,
    er := natAddAll sectors k.er }
/-- A load of the chunk in a slot, noted in its L1D. -/
def State.noteRead (s : State) (c : Ctx) (k : Chunk) (loc n : Nat) : Chunk :=
  k.noteRead loc n fun a => match s.chunkByte c k a with
    | .byte b => b
    | .remote => none

/-- STORE messages for a write (R315, R320). -/
def State.announce (s : State) (c : Ctx) (k : Chunk) (loc n : Nat) : State :=
  if !s.ringed c.strand then s
  else
    s.sendAll ((sectorsOf loc n).map fun q =>
      let mask := (upFrom loc n).foldl (fun m a => if sectorOf a = q then m ||| BitVec.ofNat 32 (2 ^ (a % 32)) else m) (0 : BitVec 32)
      c.rill k.j (.store q mask))

/-- R315: a chunk's versioned store. -/
def Chunk.noteWrite (k : Chunk) (loc : Nat) (bs : List Byte) : Chunk :=
  { k with wr := cellsPut loc bs k.wr, valid := cellsDel loc bs.length k.valid,
           commit := k.commit ++ (sectorsOf loc bs.length).filter fun q => !k.commit.contains q }

/-! ### The weir (R327) -/

/-- The bytes of a sector that a chunk wrote, as maximal runs are not needed: one write per byte run of one. -/
def sectorRuns (wr : List Host.Cell) (q : Nat) : List (Nat × List Byte) :=
  (wr.filter fun c => sectorOf c.1 == q).foldr (fun c acc =>
    match acc with
    | (a, bs) :: rest => if a = c.1 + 1 then (c.1, c.2 :: bs) :: rest else (c.1, [c.2]) :: (a, bs) :: rest
    | [] => [(c.1, [c.2])]) []

/-- One sector of a commit list enters the shared cache: its WR bytes under R295 in program order; copies of other strands'
chunks are invalidated (R340). -/
def State.drainSector (s : State) (c : Ctx) (wr : List Host.Cell) (q : Nat) : State :=
  (sectorRuns wr q).foldl (fun s p => s.enterStore c.die p.1 p.2 (.slot c.die c.slot) (some c.strand)) s

/-- The chunk in a slot changed. -/
def State.mapChunk (s : State) (c : Ctx) (f : Chunk → Chunk) : State :=
  s.mapCtx c.die c.slot fun c => { c with chunk := c.chunk.map f }
/-- Does the chunk in a slot hold no speculative state any more? -/
def Ctx.drained (c : Ctx) : Bool := c.chunk.all fun k => !k.spec

/-- R368: an access of a chunk walks again before it commits: the new translation, if it leads to the same page and permits
the access. (DEDUCED, log 101) -/
def State.rewalk (s : State) (c : Ctx) (m : TlbEntry × Bool) : Option (TlbEntry × Bool) :=
  match s.walk c.die (if m.2 then .w else .r) m.1.root m.1.va with
  | .error _ => none
  | .ok e =>
    if e.level = m.1.level ∧ ptePa e.pte = ptePa m.1.pte ∧ pteDev e.pte = pteDev m.1.pte
        ∧ (permFault (if m.2 then .w else .r) (c.level == .strand) e.pte).isNone then some (e, m.2) else none
/-- The oldest chunk in a slot passes the weir, or commits early (R25, R315): ER and RX bits are dropped, its loads count as
satisfied, A and D are set (R368). Where a PTE has changed, the translation goes and the access walks again; where that leads
elsewhere, the chunk runs again. (DEDUCED, log 101) -/
def State.weirBegin (s : State) (c : Ctx) (k : Chunk) : State :=
  match k.marks.find? fun m => s.pteStale m.1 m.2 with
  | some m =>
    let s := s.dropEntry c.die m.1
    match s.rewalk c m with
    | some m' => s.mapChunk c fun k => { k with marks := k.marks.map fun x => if x = m then m' else x }
    | none => s.squash c .memory
  | none =>
    let s := k.marks.foldl (fun s m => s.setAD c.die m.1.pteLoc m.2) s
    (s.count c.die 1 (ringOf c.slot) 10 4).mapChunk c fun k => { k with weir := true, er := [], rx := 0, pred := [], oxVals := [], marks := [] }

/-- One step of a drain (R327): a sector of the commit list, once there is room for it, and for one that an ordered store wrote once
every store before it is performed at home (R240); after the last the chunk's lines are committed data and it goes on
non-speculatively. (DESIGN CHOICE, log 98) -/
def State.drainNext (s : State) (c : Ctx) (k : Chunk) : State :=
  let ended (s : State) : State := s.mapChunk c fun k => { k with spec := false, weir := false, wr := [], valid := [], commit := [], ordered := [] }
  match k.commit with
  | [] => ended s
  | q :: qs =>
    if !s.storeRoom c q 32 || (k.ordered.contains q && c.perfPend != 0) then s
    else
      let s := (s.drainSector c k.wr q).count c.die 1 (ringOf c.slot) 10 1
      let s := s.mapChunk c fun k => { k with commit := qs, wr := k.wr.filter fun b => sectorOf b.1 != q }
      if qs.isEmpty then ended s else s
/-- A step of the drain of the oldest chunk in a slot (R25, R315, R327): one sector a step, other agents between. (DESIGN CHOICE, log 29) -/
def State.drainStep (s : State) (c : Ctx) : State :=
  match c.chunk with
  | none => s
  | some k =>
    if !k.spec then s
    else
      let s := if k.weir then s else s.weirBegin c k
      match (s.ctx c.die c.slot).chunk with
      | some k => if k.weir then s.drainNext (s.ctx c.die c.slot) k else s
      | none => s
/-- `f` once the chunk in `me` has committed what it holds; until then one step of its drain. -/
def State.afterDrain (s : State) (f : State → State) : State :=
  let s := s.drainStep s.me
  if s.me.drained then f s else s

/-- R321: training of a predictor entry by a chunk's final value. -/
def train (t : PredTable) (v : Vector Word 32) (r : Fin 32) : PredTable :=
  let st := v[r] - t.last[r]
  if st = t.stride[r] then
    { t with conf := t.conf.set r (if t.conf[r] = 3 then 3 else t.conf[r] + 1), last := t.last.set r v[r] }
  else { t with stride := t.stride.set r st, conf := t.conf.set r 0, last := t.last.set r v[r] }

def trainAll (t : PredTable) (v : Vector Word 32) : PredTable :=
  (upFrom 1 31).foldl (fun t r => train t v (Fin.ofNat 32 r)) t

/-- The clear state (R319): LAST the register values, STRIDE 0, CONF 3. -/
def PredTable.clear (ring : Nat) (strand : Word) (v : Vector Word 32) : PredTable :=
  ⟨ring, strand, v, Vector.replicate 32 0, Vector.replicate 32 3⟩

/-- R319: binding a table to a strand; a bound table takes LAST only at a `fork`. The most recently used
table stands first; of nine tables the last is lost. (DESIGN CHOICE, log 110) -/
def bindPred (l : List PredTable) (ring : Nat) (strand : Word) (v : Vector Word 32) (atFork : Bool) : List PredTable :=
  match takeFirst (fun t => t.ring == ring && t.strand == strand) l with
  | some (t, rest) => (if atFork then { t with last := v } else t) :: rest
  | none =>
    let same := l.filter fun t => t.ring == ring
    let l := if same.length < Config.predTables then l
      else l.filter fun t => some t.strand != (same.getLast?.map fun x => x.strand) || t.ring != ring
    PredTable.clear ring strand v :: l

/-- R321: the predicted live-in of chunk `j` for a register, when confident. -/
def predict (t : PredTable) (j q : Nat) (r : SReg) : Option Word :=
  let d := j - q
  let most := match t.conf[r].toNat with | 0 => 0 | 1 => 1 | 2 => 3 | _ => 7
  if 1 ≤ d ∧ d ≤ most then some (t.last[r] + word d * t.stride[r]) else none

def State.pred? (s : State) (c : Ctx) : Option PredTable :=
  (s.die c.die).preds.find? fun t => t.ring == ringOf c.slot && t.strand == c.strand

/-! ### LIVEOUT (R316) -/

/-- The registers a chunk that has ended sends now: written ones first, then final unwritten ones. -/
def Chunk.toSend (k : Chunk) : List (Fin 32) :=
  let rs := (upFrom 1 31).map (Fin.ofNat 32)
  (rs.filter fun r => k.wrote.getLsbD r.val && !k.sent.getLsbD r.val)
    ++ rs.filter fun r => !k.wrote.getLsbD r.val && (k.fin.getLsbD r.val || k.oldest) && !k.sent.getLsbD r.val

/-- Sending them. -/
def State.sendLiveouts (s : State) (c : Ctx) : State :=
  match c.chunk with
  | none => s
  | some k =>
    if !k.ended then s
    else
      let rs := k.toSend
      let s := if s.ringed c.strand then s.sendAll (rs.map fun r => c.rill k.j (.liveout r c.s[r])) else s
      s.mapCtx c.die c.slot fun c => { c with chunk := c.chunk.map fun k =>
        { k with sent := rs.foldl (fun m r => m ||| bit32 r) k.sent } }

/-! ### Chunks start and regions end -/

/-- The chunk-private state of a fork image in a slot (R143, R326). -/
def Ctx.fromImage (c : Ctx) (r : Region) : Ctx := { c with img := r.image }

/-- Live-ins of chunk `j` (R143, R316, R318): the values that the chunk before it has sent, or those of the last chunk that
passed the weir when that is the chunk before it; a value that is `late`, still on the rill, is final when it arrives. Of each ox
register the value of the nearest older chunk, with its number. -/
def Ctx.liveIns (c : Ctx) (k : Chunk) (r : Region) (prev : Option Ctx) (late : BitVec 32) : Ctx × Chunk :=
  if k.j ≤ r.passed then ({ c with s := r.lastS, ox := r.lastOx }, { k with fin := BitVec.allOnes 32, oxFrom := (upFrom 0 8).map fun i => (i, k.j - 1) })
  else
    match prev.bind fun p => p.chunk.map fun q => (p, q) with
    | none => (c, k)
    | some (p, q) =>
      let fin := if q.ended then (q.sent &&& ~~~late) ||| 1 else 1
      let v := ((upFrom 1 31).map (Fin.ofNat 32)).foldl (fun (v : Vector Word 32) (r : Fin 32) => if fin.getLsbD r.val then v.set r p.s[r] else v) c.s
      let from' := (upFrom 0 8).filterMap fun i => if q.oxWrote.getLsbD i then some (i, q.j) else q.oxFrom.find? fun x => x.1 == i
      ({ c with s := v, ox := p.ox }, { k with fin, oxFrom := from' })

/-- The registers of which a LIVEOUT of chunk `j` is on its way to a core (R316). (DEDUCED, log 102) -/
def State.lateOuts (s : State) (d : DieId) (slot : SlotNo) (strand : Word) (j : Nat) : BitVec 32 :=
  s.net.foldl (fun m p => match p with
    | .rill e ring origin hops st i (.liveout r _) =>
      if e = d ∧ ring = ringOf slot ∧ st = strand ∧ i = j ∧ hops < hopsTo origin (coreOf slot) then m ||| bit32 r else m
    | _ => m) 0
/-- Does a slot fetch from a copy: its own fetch buffer's, or its core's L1I's? (DESIGN CHOICE, log 10) -/
def ICopy.of (i : ICopy) (slot : SlotNo) : Bool :=
  match i.slot with
  | some k => k == slot
  | none => i.ring == ringOf slot && i.core == coreOf slot
/-- R156: a core in which a strand, or a chunk of it, begins holds no older copy of its instruction words. (DESIGN CHOICE, log 10) -/
def State.freshFetch (s : State) (d : DieId) (slot : SlotNo) : State :=
  if (s.die d).icopies.isEmpty then s
  else s.mapDie d fun x => { x with icopies := x.icopies.filter fun i => !i.of slot }

/-- R143: chunk `j` begins in a slot. -/
def State.startChunk (s : State) (r : Region) (d : DieId) (slot : SlotNo) (j : Nat) (oldest spec : Bool) (memSq : Nat) : State :=
  let k := { Chunk.start j oldest with spec := spec, memSq := memSq }
  let prev := s.chunkCtx r.strand (j - 1)
  let late := s.lateOuts d slot r.strand (j - 1)
  (s.freshFetch d slot).mapCtx d slot fun c =>
    let (c, k) := (c.fromImage r).liveIns k r prev late
    { c with dirty := { r.dirty with m := r.dirty.m || c.heldBits.getLsbD 4, v := r.dirty.v || c.heldBits.getLsbD 3, acc := r.dirty.acc || c.heldBits.getLsbD 2 },
             pc := r.head, chunk := some k, live := r.live, mmaAcc := none, wait := none, sent := none, answer := none, lines := [], part := none, granted := false }

/-- The s, ox and control classes that a committed chunk leaves dirty. -/
def Classes.join (r c : Classes) : Classes := { r with s := r.s || c.s, ox := r.ox || c.ox, control := r.control || c.control }

/-- Freeing a slot. -/
def State.free (s : State) (d : DieId) (slot : SlotNo) : State := s.putCtx { Ctx.reset d slot with iword := 0 }

/-- What a slot still owes or awaits passes to the slot in which its strand goes on: its counts (R346) and its
interlock entries (R209). -/
def Requester.moved (d : DieId) (src dst : SlotNo) : Requester → Requester
  | .slot e k => if e = d ∧ k = src then .slot e dst else .slot e k
  | .slots l => .slots (l.map fun p => if p = (d, src) then (d, dst) else p)
  | w => w
def Packet.moved (d : DieId) (src dst : SlotNo) : Packet → Packet
  | .collapse l e ws => .collapse l e (ws.map fun w => w.moved d src dst)
  | .cack e w => .cack e (w.moved d src dst)
  | .perf e id ws cs m =>
    let f (p : DieId × SlotNo) : DieId × SlotNo := if p = (d, src) then (d, dst) else p
    .perf e id (ws.map f) (cs.map f) m
  | .fill id e k l g q p st cs => .fill id e k l g q p st (cs.map fun w => w.moved d src dst)
  | .request id e k st loc (.rred op n x) => .request id e (if e = d ∧ k = src then dst else k) st loc (.rred op n x)
  | p => p
def State.inherit (s : State) (d : DieId) (src dst : SlotNo) : State :=
  let o := s.ctx d src
  let s := s.mapCtx d dst fun c =>
    { c with perfPend := c.perfPend + o.perfPend, rredPend := c.rredPend + o.rredPend, rredDev := c.rredDev ++ o.rredDev, ilk := c.ilk ++ o.ilk,
             colPend := Vector.ofFn fun e => c.colPend[e] + o.colPend[e] }
  let s := s.mapDie d fun x => { x with pend := x.pend.map fun p => { p with writers := p.writers.map fun w => w.moved d src dst } }
  { s with net := s.net.map fun p => p.moved d src dst }

/-- A claimed slot of a strand becomes free (R31, R328). -/
def State.freeClaimed (s : State) (o : Ctx) : State :=
  let s := match s.busy.find? fun c => c.strand == o.strand && !c.at o.die o.slot && c.state == .running with
    | some r => s.inherit o.die o.slot r.slot
    | none => s
  s.free o.die o.slot

/-- The messages of a strand's chunks; a RELEASE goes its way. -/
def Packet.ofChunks (strand : Word) : Packet → Bool
  | .rill _ _ _ _ _ _ .release => false
  | .rill _ _ _ _ st _ _ => st == strand
  | _ => false

/-- R29, R31: the oldest chunk `j` squashes every younger chunk under exit: one event, a SQUASH that discards each chunk as it
reaches its core, and behind it a RELEASE that frees each claimed slot (R322, R328). The region's other messages are dropped, since
they would act on those chunks only. (DEDUCED, log 51, 52) -/
def State.squashExit (s : State) (c : Ctx) (j : Nat) : State :=
  let young := s.busy.filter fun o => o.strand == c.strand && !o.at c.die c.slot && o.state == .claimed
  let s := { s with net := s.net.filter fun p => !p.ofChunks c.strand }
  if young.isEmpty then s
  else
    let s := if young.any fun o => o.chunk.any fun q => !q.restart then s.squashEvent c .exit else s
    s.sendAll [c.rill j (.squash .exit), c.rill j .release]

/-- R31 step 1, R413 step 2: the younger chunks of a strand are squashed under exit and its claim is over; once more changes
nothing. (DEDUCED, log 51) -/
def State.endSpeculation (s : State) (c : Ctx) : State :=
  match c.chunk, c.regionOf s with
  | some k, some r =>
    if r.slots.length ≤ 1 ∧ r.claimed then s
    else (s.squashExit c k.j).mapRegion c.strand fun r => { r with slots := [c.slot], base := k.j, claimed := true, next := k.j + 1 }
  | _, _ => s

/-- R145: the oldest chunk, final, has passed the weir: the region ends in its slot. (DEDUCED, log 51) -/
def State.endRegion (s : State) (c : Ctx) (r : Region) : State :=
  let s := s.squashExit c ((c.chunk.map fun k => k.j).getD 0)
  let s := { s with regions := s.regions.filter fun x => x.strand != c.strand }
  s.mapCtx c.die c.slot fun c =>
    { c with chunk := none, state := .running, img := { c.img with flags := r.flags ||| c.img.flags } }

/-- The slot of a chunk: claim order from the chunk that claimed (R21, R31). (DEDUCED, log 49) -/
def Region.slotFor (r : Region) (j : Nat) : SlotNo := (r.slots[(j - r.base) % r.slots.length]?).getD 0

/-- R327, R145: the oldest chunk, ended and drained, has passed the weir: training, then the region ends or the next
chunk's turn comes, at once in a region of one slot and by COMMIT otherwise. (DEDUCED, log 50, 51) -/
def State.weirPassed (s : State) (c : Ctx) (k : Chunk) (r : Region) : State :=
  let s := s.mapDie c.die fun d => { d with preds := mapIf (fun t => t.ring == ringOf c.slot && t.strand == c.strand) (fun t => trainAll t c.s) d.preds }
  let s := s.count c.die 1 (ringOf c.slot) 9 1
  let r := { r with passed := k.j + 1, flags := r.flags ||| c.img.flags, lastS := c.s, lastOx := c.ox, dirty := r.dirty.join c.dirty }
  let s := s.mapRegion c.strand fun _ => r
  if k.final then s.endRegion c r
  else if r.slots.length ≤ 1 then
    let r := { r with next := k.j + 2, base := k.j + 1, claimed := true }
    let s := { s with net := s.net.filter fun p => !p.ofChunks c.strand }
    (s.mapRegion c.strand fun _ => r).startChunk r c.die c.slot (k.j + 1) true true 0
  else
    let s := s.send (c.rill k.j .commit)
    s.mapCtx c.die c.slot fun c => { c with chunk := none, state := .claimed }

/-- A step of the oldest chunk of a slot at the weir once it has ended: its LIVEOUTs, its drain sector by sector (R327; 4 ticks
for a list that is empty), and when that is over the passing itself. (DESIGN CHOICE, log 29) (DEDUCED, log 50, 51) -/
def State.weirPass (s : State) (c : Ctx) : State :=
  let c := c.retireMma
  let s := s.mapCtx c.die c.slot fun _ => c
  match c.chunk with
  | none => s
  | some k =>
    if !(k.oldest && k.ended) || (c.regionOf s).any (fun r => !r.todo.isEmpty) then s
    else
      let s := s.sendLiveouts c
      let s := if k.spec then s.drainStep (s.ctx c.die c.slot) else s.count c.die 1 (ringOf c.slot) 10 4
      let c := s.ctx c.die c.slot
      match c.chunk, c.regionOf s with
      | some k, some r =>
        if k.spec || k.restart then s else s.weirPassed c k r
      | _, _ => s

end Sys2Proof.Machine
end

