-- ==== Sys2Proof/Machine/Save.lean ====
section
/-! DEFINITION. The continuation record and the save area (R415 to R419): writing them when a strand leaves
its slot, reading them when it comes back. -/

namespace Sys2Proof.Machine

/-! ### Global memory of a slot at its own root, for saves and restores -/

/-- Pieces of at most 32 bytes that cross no sector. -/
def pieces (va : Nat) (bs : List Byte) : List (Nat × List Byte) := bySector va (bs.length + 1) bs

/-- A write that is performed and settled on every die at once: what a sequence that ends in a release at
mask scope leaves (R301, R413). (DEDUCED, log 16) -/
def State.settleWrite (s : State) (loc : Nat) (bs : List Byte) : State :=
  let ls := (upFrom (loc / 256) ((loc + bs.length - 1) / 256 + 1 - loc / 256)).map (· * 256)
  let s := allDies.foldl (fun s d =>
    (s.mapDie d fun x => { x with replicas := x.replicas.filter fun l => !ls.contains l.line, dir := x.dir.filter fun e => !ls.contains e.line }).invalidateER
      d loc bs.length none) s
  let s := { s with net := s.net.map fun (p : Packet) => match p with
    | .fill id d k l g _ q _ c => if ls.contains l.line then Packet.fill id d k l g false q true c else p
    | p => p }
  (s.performWrite loc bs .none).1

/-- R374: a PTROOT value as a root; continuation records, save areas and entry continuations are reached through the
PTROOT of the launch whose header lies at a physical address. -/
def rootOf (w : Word) : Nat := bits w 16 39 * 65536
def State.launchRoot (s : State) (d : DieId) (header : Nat) : Nat := rootOf (s.walkRead d (header + 48))

/-- Where a write of a slot's save area or record goes; none when it faults. A translation whose PTE has changed at its home is
dropped and the address walked again (R368). (DEDUCED, log 12) -/
def State.savePlace (s : State) (c : Ctx) (va : Nat) : State × Option Place :=
  let find (s : State) : Option Place :=
    if 2 ^ 55 ≤ va then none
    else match s.translate c.die (some c.slot) .w false (s.launchRoot c.die c.header) va with
      | .ok q => some q
      | .error _ => none
  match (find s).bind fun q => q.pte.filter fun e => s.pteStale e true with
  | some e => let s := s.dropEntry c.die e; (s, find s)
  | none => (s, find s)
/-- Writes of a slot at an address of its save area or record, settled at once; false when a piece faults (R418). (DEDUCED, log 12) -/
def State.vwrite (s : State) (c : Ctx) (va : Nat) (bs : List Byte) : State × Bool :=
  (pieces va bs).foldl (fun (acc : State × Bool) p =>
    if !acc.2 then acc
    else
      match acc.1.savePlace c p.1 with
      | (s, none) => (s, false)
      | (s, some q) => ((s.markAD c.die q true).settleWrite q.loc p.2, true)) (s, true)

/-- Writes of a fork image enter the shared cache in order while there is room (R326, R341, R346), and FORKIMG counts their bytes; a
fault ends them. (DESIGN CHOICE, log 105) -/
def State.enterImage (s : State) (c : Ctx) : List (Nat × List Byte) → State × List (Nat × List Byte)
  | [] => (s, [])
  | p :: ps =>
    match s.savePlace c p.1 with
    | (s, none) => (s, [])
    | (s, some q) =>
      if s.storeRoom c q.loc p.2.length then
        ((((s.markAD c.die q true).enterStore c.die q.loc p.2 (.slot c.die c.slot) (some c.strand))).count c.die 1 (ringOf c.slot) 11 p.2.length).enterImage c ps
      else (s, p :: ps)
/-- The fork image of the strand in `me` goes on entering (R326). (DESIGN CHOICE, log 105) -/
def State.imageStep (s : State) : State :=
  match s.regions.find? fun r => r.strand == s.me.strand && !r.todo.isEmpty with
  | none => s
  | some r =>
    let x := s.enterImage s.me r.todo
    x.1.mapRegion r.strand fun r => { r with todo := x.2 }

/-- Bytes a die reads at a physical location. -/
def State.readBytes (s : State) (d : DieId) (loc n : Nat) : List Byte := (upFrom loc n).map (s.agentByte d)

/-- Reading virtual memory through a root; none when a piece faults. (DEDUCED, log 12) -/
def State.vread (s : State) (d : DieId) (root va n : Nat) : Option (List Byte) :=
  (pieces va (List.replicate n 0)).foldl (fun acc p =>
    match acc with
    | none => none
    | some bs =>
      if 2 ^ 55 ≤ p.1 then none
      else
        match s.translate d none .r false root p.1 with
        | .error _ => none
        | .ok q => some (bs ++ s.readBytes d q.loc p.2.length)) (some [])

def State.vread64 (s : State) (d : DieId) (root va : Nat) : Option Word := (s.vread d root va 8).map fun bs => word (ofBytes bs)
def w64 (x : Word) : List Byte := bytesOf 8 x.toNat

/-! ### The continuation record (R415) -/

def rsNEW : Nat := 0
def rsREADY : Nat := 1
def rsRUNNING : Nat := 2
def rsPARKED : Nat := 3
def rsDEEP : Nat := 4
def rsHALTED : Nat := 5
def rsRETIRED : Nat := 6
def rsMIGRATING : Nat := 7

/-- Bytes 40 to 47: CHUNK, RMODE, FLAGS, SPAN, RIDX, VL. -/
def Ctx.statusWord (c : Ctx) : Word :=
  word (c.chunkReg.toNat * 2 ^ 36 + c.rmode.toNat * 2 ^ 33 + c.img.flags.toNat * 2 ^ 27 + c.img.span.toNat * 2 ^ 18
    + c.img.ridx.toNat * 2 ^ 9 + c.img.vl.toNat)
/-- The save area's address (R416). -/
def saveBase (p : BitVec 55) : Nat := privBase p + privSize p - Config.saveBytes
def saveFits (p : BitVec 55) : Bool := Config.saveBytes ≤ privSize p

/-- CHK (R417): over the sixteen 32-bit words with CHK taken as 0. -/
def chkOf (ws : List Word) : Nat :=
  ws.foldl (fun x w => x ^^^ (w.toNat % 2 ^ 32) ^^^ (w.toNat / 2 ^ 32)) 0x5A5A5A5A

/-- The eight dwords of a slot's record. -/
def Ctx.recordWords (c : Ctx) (st susp hcode : Nat) : List Word :=
  let wend := match c.wend with | some w => w.toNat | none => 0
  let ws := [word (c.pc.toNat % 2 ^ 56), c.strand, c.launch, c.save,
    word (st * 2 ^ 60 + (if c.latem then 2 ^ 59 else 0) + (if c.latet then 2 ^ 58 else 0) + (if c.step then 2 ^ 57 else 0)
      + (if c.wend.isSome then 2 ^ 56 else 0) + susp * 2 ^ 52 + hcode * 2 ^ 40 + wend),
    c.statusWord,
    word (c.dmask.toNat * 2 ^ 48 + c.prio.toNat * 2 ^ 45 + c.deadline.toNat % 2 ^ 45)]
  let last := word (c.heldBits.toNat * 2 ^ 56)
  ws ++ [last + word (chkOf (ws ++ [last]))]

/-- CONTBASE of the launch whose header lies at a physical address (R374). -/
def State.contbase (s : State) (d : DieId) (header : Nat) : Word := s.walkRead d (header + 24)
def recordVa (contbase strand : Word) : Nat := (contbase + word (64 * (strand.toNat % 2 ^ 32))).toNat
def Ctx.recordVa (c : Ctx) (s : State) : Nat := Machine.recordVa (s.contbase c.die c.header) c.strand

/-! ### Classes of the save area (R416, R417) -/

/-- Bytes of v`n` that a save writes under a VL, EW and G. -/
def vLen (vl ew g : Nat) (bad : Bool) (n : Nat) : Nat :=
  if bad then 256 else min ((vl * ew + 7) / 8 - 256 * (n % g)) 256
def Image.vLen (i : Image) (n : Nat) : Nat :=
  Machine.vLen i.vl.toNat (ETy.ofCode (i.span.toNat % 16)).ew (gOf (i.span.toNat / 16 % 4)) (i.span.getLsbD 8) n
def Image.mLen (i : Image) : Nat := (i.vl.toNat + 7) / 8
/-- Elements and mask bits at or beyond VL read zero after a save, and in a chunk started from a fork image
(R417, R326). -/
def Image.vBits (i : Image) (n : Nat) : Nat :=
  if i.span.getLsbD 8 then 2048
  else min (i.vl.toNat * (ETy.ofCode (i.span.toNat % 16)).ew - 2048 * (n % gOf (i.span.toNat / 16 % 4))) 2048
def Image.trim (i : Image) : Image :=
  { i with v := Vector.ofFn fun n => BitVec.ofNat 2048 (i.v[n].toNat % 2 ^ i.vBits n.val),
           m := Vector.ofFn fun n => if n = 0 then i.m[n] else BitVec.ofNat 256 (i.m[n].toNat % 2 ^ i.vl.toNat) }

def vBytes (x : VReg2048) (n : Nat) : List Byte := bytesOf n x.toNat
def mBytes (x : BitVec 256) (n : Nat) : List Byte := bytesOf n x.toNat

/-- Writes of the m, acc and v classes of an image at a base (R416: same offsets in the fork image). -/
def Image.mWrites (i : Image) (base : Nat) : List (Nat × List Byte) :=
  (upFrom 1 7).map fun k => (base + 0x200 + 32 * (k - 1), mBytes i.m[Fin.ofNat 8 k] i.mLen)
def Image.accWrites (i : Image) (base : Nat) : List (Nat × List Byte) :=
  (base + 0x300, ((upFrom 0 4).map fun a =>
      [BitVec.ofNat 8 i.acc[Fin.ofNat 4 a].ty.code, BitVec.ofNat 8 i.acc[Fin.ofNat 4 a].f.toNat]).flatten)
  :: ((upFrom 0 4).map fun a => (upFrom 0 64).map fun r =>
      (base + 0x2400 + 16384 * a + 256 * r, vBytes i.acc[Fin.ofNat 4 a].rows[Fin.ofNat 64 r] 256)).flatten
def Image.vWrites (i : Image) (base : Nat) : List (Nat × List Byte) :=
  (upFrom 0 32).map fun n => (base + 0x400 + 256 * n, vBytes i.v[Fin.ofNat 32 n] (i.vLen n))

/-- Dword 0 of the image's header, as bytes 40 to 47 of a record (R416): CHUNK and RMODE of the slot, the fork image's own
lengths and FLAGS. -/
def Region.imageWord (r : Region) (c : Ctx) : Word :=
  word (c.chunkReg.toNat * 2 ^ 36 + c.rmode.toNat * 2 ^ 33 + r.image.flags.toNat * 2 ^ 27 + r.image.span.toNat * 2 ^ 18 + r.image.ridx.toNat * 2 ^ 9 + r.image.vl.toNat)

/-- The classes of the fork image (R326): m, v, acc, those that are live. -/
def Region.classWrites (r : Region) (b : Nat) : List (Nat × List Byte) :=
  (if r.live.m then r.image.mWrites b else []) ++ (if r.live.v then r.image.vWrites b else [])
    ++ (if r.live.acc then r.image.accWrites b else [])
/-- What `fork` writes (R326). (DEDUCED, log 15) -/
def Region.forkWrites (r : Region) (c : Ctx) (area : Nat) : List (Nat × List Byte) :=
  (area + 0x12400, w64 (r.imageWord c)) :: r.classWrites (area + 0x12400)
/-- Writes of the fork image at a save (R416). (DEDUCED, log 15) -/
def Region.imageWrites (r : Region) (c : Ctx) (k : Chunk) (area : Nat) : List (Nat × List Byte) :=
  let b := area + 0x12400
  (b, w64 (r.imageWord c) ++ w64 (word r.head.toNat) ++ w64 (word r.exit.toNat) ++ w64 (word r.c)
      ++ w64 (word (k.iter % 2 ^ 32 * 65536 + k.depth.toNat))
      ++ w64 (word ((if r.live.m then 2 ^ 60 else 0) + (if r.live.v then 2 ^ 59 else 0) + (if r.live.acc then 2 ^ 58 else 0))))
    :: r.classWrites b

def IlkKind.code : IlkKind → Nat
  | .cpIn => 1
  | .cpOut => 2
  | .cpTt => 3
  | .gx => 4
  | .coll => 5

/-- Writes of the interlock image (R419). (DEDUCED, log 17) -/
def ilkWrites (area : Nat) (l : List (Ilk × Bool)) : List (Nat × List Byte) :=
  [(area + 0x24800, ((l.map fun e =>
      w64 (word (e.1.kind.code * 2 ^ 60 + (if e.2 then 2 ^ 59 else 0) + e.1.slen)) ++ w64 (word e.1.src) ++ w64 (word e.1.dst)
        ++ w64 (word e.1.dlen)).flatten ++ List.replicate (256 - 32 * l.length) 0))]

/-- The bits of HELD: s 7, ox 6, control 5, m 4, v 3, acc 2, fork image 1, interlock image 0 (R415). -/
def Classes.held (k : Classes) : Nat :=
  (if k.s then 128 else 0) + (if k.ox then 64 else 0) + (if k.control then 32 else 0) + (if k.m then 16 else 0)
    + (if k.v then 8 else 0) + (if k.acc then 4 else 0)

/-- Writes of the dirty classes in the order of R413 step 5. -/
def Ctx.classWrites (c : Ctx) (area : Nat) : List (Nat × List Byte) :=
  let d := c.dirty
  (if d.s then (upFrom 1 31).map fun k => (area + 8 * (k - 1), w64 c.s[Fin.ofNat 32 k]) else [])
    ++ (if d.ox then
        ((upFrom 0 8).map fun k => (area + 0x100 + 8 * k, w64 c.ox[Fin.ofNat 8 k].val))
          ++ [(area + 0x140, (upFrom 0 8).map fun k =>
                BitVec.ofNat 8 (c.ox[Fin.ofNat 8 k].kind.toNat + if c.ox[Fin.ofNat 8 k].bad then 8 else 0))]
      else [])
    ++ (if d.control then
        [(area + 0x180, w64 (word c.ctl.forkctl.toNat) ++ w64 (word c.ctl.predctl.toNat)),
         (area + 0x1D0, w64 c.detReg ++ w64 (word c.ctl.privbase.toNat) ++ w64 (word c.ctl.tvec.toNat)
           ++ w64 (word c.ctl.ptroot.toNat))]
      else [])
    ++ (if d.m then c.img.mWrites area ++ [(area + 0x1C8, w64 (word (c.statusWord.toNat % 2 ^ 27)))] else [])
    ++ (if d.v then c.img.vWrites area ++ [(area + 0x1C0, w64 (word (c.statusWord.toNat % 2 ^ 27)))] else [])
    ++ (if d.acc then c.img.accWrites area else [])

def State.vwrites (s : State) (c : Ctx) (l : List (Nat × List Byte)) : State × Bool :=
  l.foldl (fun (acc : State × Bool) w => if acc.2 then acc.1.vwrite c w.1 w.2 else acc) (s, true)

/-- What a halt writes beside the classes (R423): EPC, CAUSE, TVAL. -/
abbrev HaltRegs := Option (Word × Word × Word)

/-- Everything a save of a slot writes into its save area (R413 step 5). (DEDUCED, log 17) -/
def State.areaWrites (s : State) (c : Ctx) (halted : Bool) (halt : HaltRegs) : List (Nat × List Byte) :=
  let area := saveBase c.ctl.privbase
  let colls := if halted then (c.stood.getD c.ilk).map fun e => (e, !c.ilk.any fun o => o.id == e.id)
    else (c.ilk.filter fun e => e.kind == .coll).map fun e => (e, false)
  c.classWrites area
    ++ (match c.regionOf s, c.chunk with | some r, some k => r.imageWrites c k area | _, _ => [])
    ++ (if colls.isEmpty then [] else ilkWrites area colls)
    ++ (match halt with | some (e, ca, tv) => [(area + 0x190, w64 e ++ w64 ca ++ w64 tv)] | none => [])

/-- HELD after a save (R415, R417): classes stay, images are those just written. -/
def State.heldAfter (s : State) (c : Ctx) (halted : Bool) : BitVec 8 :=
  let ilk := if halted then !(c.stood.getD c.ilk).isEmpty else c.ilk.any fun e => e.kind == .coll
  BitVec.ofNat 8 ((c.heldBits.toNat ||| c.dirty.held) / 4 * 4 + (if (c.regionOf s).isSome then 2 else 0) + (if ilk then 1 else 0))

/-- R413 step 5: the save area is written; answers whether every write succeeded (R418). -/
def State.saveArea (s : State) (c : Ctx) (halted : Bool) (halt : HaltRegs) : State × Bool :=
  let writes := s.areaWrites c halted halt
  if !(writes.isEmpty || saveFits c.ctl.privbase) then (s, false)
  else
    let held := s.heldAfter c halted
    let (s, ok) := s.vwrites c writes
    (if ok then s.mapCtx c.die c.slot fun o =>
      { o with heldBits := held, save := if saveFits c.ctl.privbase then word (saveBase c.ctl.privbase) else o.save, dirty := .none }
     else s, ok)

/-- R414: PREEMAX, the longest time from a stop's arrival to the record, in the ticks of the agenda. (DEDUCED, log 55) -/
def State.notePreemax (s : State) (c : Ctx) : State :=
  match c.stopTick with
  | some t => if (s.counter c.die 0 0 1).toNat < s.tick - t then s.setCounter c.die 0 0 1 (word (s.tick - t)) else s
  | none => s
/-- R413 step 6: the record of a slot is written. (DEDUCED, log 54) -/
def State.writeRecord (s : State) (c : Ctx) (st susp hcode : Nat) : State × Bool :=
  (s.notePreemax c).vwrite c (c.recordVa s) ((c.recordWords st susp hcode).map w64).flatten

/-- FLAGS as the record of a strand in a region keeps them: with those of the fork and of the committed chunks (R23, R31).
(DEDUCED, log 89) -/
def Ctx.regionFlags (c : Ctx) (s : State) : Ctx :=
  match c.regionOf s with
  | some r => c.orFlags r.flags
  | none => c

/-- R413 steps 5 and 6 for the slot `me`. (DEDUCED, log 16) -/
def State.saveStrand (s : State) (st susp hcode : Nat) (halt : HaltRegs) : State × Bool :=
  let s := s.mapMe fun c => c.regionFlags s
  let (s, ok) := s.saveArea s.me (st = rsHALTED) halt
  if !ok then (s, false)
  else
    let s := s.mapMe fun c => { c with susp := BitVec.ofNat 4 susp }
    s.writeRecord s.me st susp hcode

/-! ### Restoring (R15, R417, R419) -/

/-- A record read from memory: its eight dwords. -/
abbrev Record := List Word
def Record.w (r : Record) (k : Nat) : Word := (r[k]?).getD 0
def Record.st (r : Record) : Nat := bits (r.w 4) 60 4
def Record.heldBit (r : Record) (k : Nat) : Bool := bitAt (r.w 7) k

def wordsOf : Nat → List Byte → List Word
  | 0, _ => []
  | n + 1, bs => word (ofBytes (bs.take 8)) :: wordsOf n (bs.drop 8)

def State.readRecord (s : State) (d : DieId) (root va : Nat) : Option Record := (s.vread d root va 64).map (wordsOf 8)

/-- R418: a record that a resume accepts: CHK, STATE and reserved bits. (DEDUCED, log 59) -/
def Record.ok (r : Record) : Bool :=
  let last := word ((r.w 7).toNat / 2 ^ 32 * 2 ^ 32)
  chkOf (r.take 7 ++ [last]) == (r.w 7).toNat % 2 ^ 32 && r.st < 8 && bits (r.w 0) 56 8 == 0 && bits (r.w 4) 48 4 == 0
    && bits (r.w 5) 43 21 == 0 && bits (r.w 7) 32 24 == 0 && bits (r.w 0) 0 1 == 0

/-- Reading `n` bytes of a save area as a number; unreadable bytes fail the restore. -/
def State.areaNum (s : State) (d : DieId) (root va n : Nat) : Option Nat := (s.vread d root va n).map ofBytes

def mapM? {α β : Type} (f : α → Option β) : List α → Option (List β)
  | [] => some []
  | x :: xs =>
    match f x, mapM? f xs with
    | some y, some ys => some (y :: ys)
    | _, _ => none

/-- Length fields of a VSAVE or MSAVE word, or of a fork image, as an image with nothing in it; the reserved bits of SPAN read zero
(R11). -/
def lensOf (w : Nat) : Image :=
  { Image.reset with span := BitVec.ofNat 9 (w / 2 ^ 18 % 512) &&& 0x13F, ridx := BitVec.ofNat 9 (w / 512 % 512), vl := BitVec.ofNat 9 (w % 512) }

/-- m registers of an image at a base, under recorded lengths. -/
def State.loadM (s : State) (d : DieId) (root base : Nat) (len : Image) : Option (Vector (BitVec 256) 8) :=
  (mapM? (fun k => s.areaNum d root (base + 0x200 + 32 * (k - 1)) len.mLen) (upFrom 1 7)).map fun xs =>
    ((upFrom 1 7).zip xs).foldl (fun (m : Vector (BitVec 256) 8) (p : Nat × Nat) => m.set (Fin.ofNat 8 p.1) (BitVec.ofNat 256 p.2)) Image.reset.m
def State.loadV (s : State) (d : DieId) (root base : Nat) (len : Image) : Option (Vector VReg2048 32) :=
  (mapM? (fun n => s.areaNum d root (base + 0x400 + 256 * n) (len.vLen n)) (upFrom 0 32)).map fun xs =>
    ((upFrom 0 32).zip xs).foldl (fun (v : Vector VReg2048 32) (p : Nat × Nat) => v.set (Fin.ofNat 32 p.1) (BitVec.ofNat 2048 p.2)) (Vector.replicate 32 0)
def State.loadAccRows (s : State) (d : DieId) (root base a : Nat) : Option (Vector VReg2048 64) :=
  (mapM? (fun r => s.areaNum d root (base + 0x2400 + 16384 * a + 256 * r) 256) (upFrom 0 64)).map fun xs =>
    ((upFrom 0 64).zip xs).foldl (fun (v : Vector VReg2048 64) (p : Nat × Nat) => v.set (Fin.ofNat 64 p.1) (BitVec.ofNat 2048 p.2)) (Vector.replicate 64 0)
def State.loadAcc (s : State) (d : DieId) (root base : Nat) : Option (Vector Acc 4) :=
  (mapM? (fun a =>
    match s.areaNum d root (base + 0x300 + 2 * a) 2, s.loadAccRows d root base a with
    | some t, some rows => some (⟨rows, AccTy.ofCode (t % 4), false, BitVec.ofNat 7 (t / 256)⟩ : Acc)
    | _, _ => none) (upFrom 0 4)).map fun xs =>
    ((upFrom 0 4).zip xs).foldl (fun (v : Vector Acc 4) (p : Nat × Acc) => v.set (Fin.ofNat 4 p.1) p.2) (Vector.replicate 4 Acc.zero)

def State.loadS (s : State) (d : DieId) (root area : Nat) : Option (Vector Word 32) :=
  (mapM? (fun k => s.areaNum d root (area + 8 * (k - 1)) 8) (upFrom 1 31)).map fun xs =>
    ((upFrom 1 31).zip xs).foldl (fun (v : Vector Word 32) (p : Nat × Nat) => v.set (Fin.ofNat 32 p.1) (word p.2)) (Vector.replicate 32 0)
def State.loadOx (s : State) (d : DieId) (root area : Nat) : Option (Vector Ox 8) :=
  (mapM? (fun k =>
    match s.areaNum d root (area + 0x100 + 8 * k) 8, s.areaNum d root (area + 0x140 + k) 1 with
    | some x, some t => some (⟨word x, BitVec.ofNat 3 t, t / 8 % 2 == 1⟩ : Ox)
    | _, _ => none) (upFrom 0 8)).map fun xs =>
    ((upFrom 0 8).zip xs).foldl (fun (v : Vector Ox 8) (p : Nat × Ox) => v.set (Fin.ofNat 8 p.1) p.2) (Vector.replicate 8 ⟨0, 0, false⟩)

/-- The classes that HELD names, loaded over a slot's reset values (R15, R417). The control class gives
FORKCTL and PREDCTL always, and the other four only at a resume. -/
def State.loadClasses (s : State) (c : Ctx) (root area : Nat) (r : Record) (resume : Bool) : Option Ctx :=
  let d := c.die
  let get {α : Type} (k : Nat) (f : Option α) (dflt : α) : Option α := if r.heldBit k then f else some dflt
  match get 63 (s.loadS d root area) c.s, get 62 (s.loadOx d root area) c.ox,
    get 61 (mapM? (fun o => s.areaNum d root (area + o) 8) [0x180, 0x188, 0x1D0, 0x1D8, 0x1E0, 0x1E8]) [],
    get 60 ((s.areaNum d root (area + 0x1C8) 8).bind fun w => (s.loadM d root area (lensOf w)).map fun m => ({ lensOf w with m } : Image).trim.m) c.img.m,
    get 59 ((s.areaNum d root (area + 0x1C0) 8).bind fun w => (s.loadV d root area (lensOf w)).map fun v => ({ lensOf w with v } : Image).trim.v) c.img.v,
    get 58 (s.loadAcc d root area) c.img.acc with
  | some sr, some ox, some ctl, some m, some v, some acc =>
    let k := match ctl with
      | [f, p, dt, pb, tv, pt] =>
        let k := { c.ctl with forkctl := BitVec.ofNat 4 f, predctl := BitVec.ofNat 32 p }
        if resume then { k with detctl := BitVec.ofNat 2 dt, privbase := BitVec.ofNat 55 pb,
                                tvec := BitVec.ofNat 56 (tv / 2 * 2), ptroot := BitVec.ofNat 55 (pt / 65536 * 65536) }
        else k
      | _ => c.ctl
    some { c with s := sr, ox := ox, ctl := k, img := { c.img with m := m, v := v, acc := acc },
                  live := { Classes.none with m := r.heldBit 60, v := r.heldBit 59, acc := r.heldBit 58 } }
  | _, _, _, _, _, _ => none

/-- The region and chunk of a strand suspended in a region (R31, R416). (DEDUCED, log 49, 89) -/
def State.loadImage (s : State) (c : Ctx) (root area : Nat) (w5 : Word) : Option (Region × Chunk) :=
  let b := area + 0x12400
  match mapM? (fun k => s.areaNum c.die root (b + 8 * k) 8) (upFrom 0 6) with
  | some [w, head, exit, cc, it, cls] =>
    let len := lensOf w
    let hasM := cls / 2 ^ 60 % 2 == 1; let hasV := cls / 2 ^ 59 % 2 == 1; let hasA := cls / 2 ^ 58 % 2 == 1
    match (if hasM then s.loadM c.die root b len else some Image.reset.m), (if hasV then s.loadV c.die root b len else some Image.reset.v),
      (if hasA then s.loadAcc c.die root b else some Image.reset.acc) with
    | some m, some v, some acc =>
      let img := { ({ len with m := m, v := v } : Image).trim with acc := acc, flags := BitVec.ofNat 6 (w / 2 ^ 27 % 64) }
      let j := bits w5 36 4
      some ({ die := c.die, ring := ringOf c.slot, strand := c.strand, head := word head, exit := word exit,
              c := cc, image := img, live := { Classes.none with m := hasM, v := hasV, acc := hasA }, flags := BitVec.ofNat 6 (w / 2 ^ 27 % 64) ||| BitVec.ofNat 6 (bits w5 27 6),
              todo := [], slots := [c.slot], base := j, claimed := true, next := j + 1, passed := j, lastS := c.s, lastOx := c.ox, dirty := { Classes.none with m := hasM, v := hasV, acc := hasA } },
            { Chunk.start j true with iter := it / 65536 % 2 ^ 32, depth := BitVec.ofNat 16 it, final := bitAt w5 42, spec := false,
                                      fin := BitVec.allOnes 32 })
    | _, _, _ => none
  | _ => none

/-- The number of a strand's pending collective with a destination; none once it has landed or aborted. -/
def State.collId (s : State) (strand : Word) (flat : Nat) : Option Nat :=
  allDies.findSome? fun d => (s.die d).groups.findSome? fun g =>
    (g.ops.find? fun o => o.strand == strand && o.flat == flat).map fun o => o.id

/-- The pending `coll` entries of an interlock image (R419): each stays until its collective lands or aborts. (DEDUCED, log 17) -/
def State.loadIlk (s : State) (c : Ctx) (root area : Nat) : List Ilk :=
  (upFrom 0 8).filterMap fun k =>
    match mapM? (fun q => s.areaNum c.die root (area + 0x24800 + 32 * k + 8 * q) 8) (upFrom 0 4) with
    | some [w, src, dst, dl] =>
      if w / 2 ^ 60 = 5 ∧ w / 2 ^ 59 % 2 = 0 then
        (s.collId c.strand dst).map fun id => ⟨.coll, id, src, w % 2 ^ 40, dst, dl % 2 ^ 40, 0, 0, 0, 0⟩
      else none
    | _ => none

/-- DEADLINE restored from DL (R415): the value nearest to TICK with these low 45 bits. -/
def deadlineOf (dl tick : Nat) : Word :=
  if dl = 2 ^ 45 - 1 then BitVec.allOnes 64
  else
    let base := tick / 2 ^ 45 * 2 ^ 45 + dl
    if base + 2 ^ 44 < tick then word (base + 2 ^ 45) else if tick + 2 ^ 44 < base ∧ 2 ^ 45 ≤ base then word (base - 2 ^ 45) else word base

end Sys2Proof.Machine
end

