-- ==== Sys2Proof/Machine/Sched.lean ====
section
/-! DEFINITION. Shared operations of the reservoir (11_scheduling.md): level objects, completion of nodes,
graphs, phases and jobs, leaving a slot (R413), retirement and cancellation (R153, R384). -/

namespace Sys2Proof.Machine

/-! ### Messages to the host (R428 to R430) -/

/-- Sending an asynchronous message of an endpoint: at once when connected, else it waits in a queue of 64
whose oldest message is discarded. (DEDUCED, log 80) -/
def State.post (s : State) (ep : Endpoint) (op : Nat) (die : DieId) (tag addr arg0 arg1 : Word) (payload : List Byte) : State :=
  let msg (seq : Word) : HostMsg :=
    ⟨ep, BitVec.ofNat 8 op, true, die, 0, seq, tag, addr, arg0, arg1, 0, word s.tick, payload⟩
  match s.conns.find? fun c => c.ep == ep && c.up with
  | some c => { s with out := msg c.aseq :: s.out, conns := mapIf (fun c => c.ep == ep) (fun c => { c with aseq := c.aseq + 1 }) s.conns }
  | none =>
    let mine := s.asyncs.filter fun m => m.ep == ep
    let kept := if mine.length < Config.asyncQueue then s.asyncs
      else match takeFirst (fun m => m.ep == ep) s.asyncs with
        | some (_, rest) => rest
        | none => s.asyncs
    { s with asyncs := kept ++ [msg 0] }

/-! ### Objects at their home (R372) -/

def State.rd (s : State) (loc : Nat) : Word := word (ofBytes (memBytes s.mem loc 8))
def State.wr (s : State) (loc : Nat) (x : Word) : State := (s.performWrite loc (w64 x) .none).1
def objST (w : Word) : Nat := bits w 62 2
/-- The status word with ST and CAUSE replaced. -/
def withST (w : Word) (st : Nat) : Word := word (w.toNat % 2 ^ 62 + st * 2 ^ 62)
def withCause (w : Word) (cause : Nat) : Word := word (putBits w.toNat 48 8 cause)

/-- R373: one more child of an object is done: DONE, CANC, and ST at the last one. Answers whether the
object is complete. -/
def State.childDone (s : State) (obj : Nat) (cancelled : Bool) : State × Bool :=
  let done := s.rd obj + 1
  let w := s.rd (obj + 16)
  let w := if cancelled then word (w.toNat / 2 ^ 32 * 2 ^ 32 + (w.toNat + 1) % 2 ^ 32) else w
  let full := done == s.rd (obj + 8)
  let w := if full && objST w = 1 then withST w 2 else w
  ((s.wr obj done).wr (obj + 16) w, full)

/-- The physical address of a global address through a submission root (R374); none when it faults. (DEDUCED, log 12) -/
def State.paOf (s : State) (d : DieId) (root : Nat) (va : Word) : Option Nat :=
  if va.toNat / 2 ^ 55 ≠ 0 then none
  else
    match s.translate d none .r false root va.toNat with
    | .ok p => if isDram p.loc then some p.loc else none
    | .error _ => none

/-! ### Node records (R379) -/

def State.nodeEntry (s : State) (n : Nat) : Word := s.rd n
def State.nodeLaunch (s : State) (n : Nat) : Word := s.rd (n + 8)
def State.nodeCount (s : State) (n : Nat) : Nat := bits (s.rd (n + 16)) 0 32
def State.nodeByte20 (s : State) (n : Nat) : Nat := bits (s.rd (n + 16)) 32 8
def State.nodeClass (s : State) (n : Nat) : BitVec 2 := BitVec.ofNat 2 (s.nodeByte20 n)
def State.nodePrio (s : State) (n : Nat) : BitVec 3 := BitVec.ofNat 3 (s.nodeByte20 n / 4)
/-- DETCTL of the node: POL at 1, DET at 0 (R403). -/
def State.nodeDet (s : State) (n : Nat) : BitVec 2 := BitVec.ofNat 2 (s.nodeByte20 n / 32 % 2 + s.nodeByte20 n / 64 % 2 * 2)
def State.nodeKsplit (s : State) (n : Nat) : Nat := bits (s.rd (n + 16)) 40 3
def State.nodePlace (s : State) (n : Nat) : BitVec 16 := BitVec.ofNat 16 (bits (s.rd (n + 16)) 48 16)
def State.nodeDeadline (s : State) (n : Nat) : Word := s.rd (n + 24)
def State.nodeOp (s : State) (n k : Nat) : Word × Word := (s.rd (n + 32 + 16 * k), s.rd (n + 40 + 16 * k))
/-- SUCC0 to SUCC5. -/
def State.nodeSuccs (s : State) (n : Nat) : List Nat :=
  (upFrom 0 6).map fun k => ofBytes (memBytes s.mem (n + 96 + 2 * k) 2)
def State.nodeGraph (s : State) (n : Nat) : Word := s.rd (n + 112)
def State.nodeState (s : State) (n : Nat) : Word := s.rd (n + 120)
def nst (w : Word) : Nat := bits w 62 2
def State.setNst (s : State) (n st : Nat) (cxl : Bool) : State :=
  let w := s.nodeState n
  s.wr (n + 120) (word (putBits (putBits w.toNat 62 2 st) 61 1 (if cxl then 1 else bits w 61 1)))

/-- R18: does a class code allow a die? 0 either, 1 M, 2 S. -/
def classAllows (cls : BitVec 2) (d : DieId) : Bool :=
  match cls.toNat with
  | 0 => true
  | 1 => Config.isM d.val
  | 2 => !Config.isM d.val
  | _ => false
/-- R387: the candidate set of a class and a PLACE. -/
def State.candidates (s : State) (cls : BitVec 2) (place : BitVec 16) : List DieId :=
  s.presentDies.filter fun d => classAllows cls d && (place == 0 || place.getLsbD d.val)

/-- R381: an operand within its limits. -/
def operandOk (op : Word × Word) : Bool :=
  let w := op.2
  bits w 48 10 == 0 && (!bitAt w 63 || (1 ≤ bits w 0 48 && (!bitAt w 61 || (!bitAt w 62 && bits w 0 48 ≤ 2 ^ 18))))

/-- R380: the checks of a node that becomes ready. -/
def State.nodeOk (s : State) (d : DieId) (sroot n : Nat) : Bool :=
  let launch := s.nodeLaunch n
  s.nodeClass n != 3 && s.nodeByte20 n < 128 && bits (s.rd (n + 16)) 43 5 == 0 && bits (s.rd (n + 104)) 32 32 == 0
    && bits (s.nodeState n) 48 13 == 0 && bits (s.nodeState n) 0 32 == 0
    && launch.toNat % 64 == 0 && (s.nodeGraph n).toNat % 64 == 0 && (s.paOf d sroot launch).isSome && (s.paOf d sroot (s.nodeGraph n)).isSome
    && (s.nodeEntry n).toNat % 64 == 0
    && (match s.paOf d sroot launch with
      | some h => (s.paOf d (rootOf (s.rd (h + 48))) (s.nodeEntry n)).isSome
      | none => false)
    && ((upFrom 0 4).all fun k => operandOk (s.nodeOp n k))
    && !(s.candidates (s.nodeClass n) (s.nodePlace n)).isEmpty

/-- The TAG that messages about a node or its graph carry (R376): that of the job that runs it. -/
def State.tagOf (s : State) (graph : Nat) : Word :=
  match s.runs.find? fun r => r.graph == graph with
  | some r => r.tag
  | none => 0

/-- A JOB BADREC message (R380, R382). -/
def State.badrec (s : State) (n : Nat) (tag : Word) : State :=
  let d := homeOf n
  (s.count d 6 0 6 1).post ⟨d, .job⟩ 0x81 d tag (word n) 0 0 []

/-! ### Graphs, phases and jobs (R377) -/

/-- Work that a completion leaves: a node to make ready, or a node that completes (with CXL), each with the graph that it
runs in. -/
inductive NodeWork where
  | ready (node sroot graph : Nat)
  | complete (node sroot graph : Nat) (cxl : Bool)
  deriving DecidableEq, Repr

/-- R383: a mark on an object that has not completed. -/
def State.markCancelled (s : State) (obj cause : Nat) : State :=
  let w := s.rd (obj + 16)
  if 2 ≤ objST w then s else s.wr (obj + 16) (withCause (withST w 3) cause)

/-- The nodes of a graph (R376). -/
def State.graphNodes (s : State) (d : DieId) (sroot g : Nat) : List Nat :=
  (upFrom 0 (min (s.rd (g + 8)).toNat 65535)).filterMap fun k => s.paOf d sroot (s.rd (g + 24) + word (128 * k))

/-- Element `k` of an array of addresses, as a physical address. -/
def State.arrayPa (s : State) (d : DieId) (sroot : Nat) (base : Word) (k : Nat) : Option Nat :=
  (s.paOf d sroot (base + word (8 * k))).bind fun a => s.paOf d sroot (s.rd a)
/-- The children of a phase or job from element `k` on. -/
def State.childrenFrom (s : State) (d : DieId) (sroot obj k : Nat) : List Nat :=
  (upFrom k ((s.rd (obj + 8)).toNat - k)).filterMap fun i => s.arrayPa d sroot (s.rd (obj + 24)) i

/-- An object has completed or been cancelled (R157). (DEDUCED, log 57) -/
def State.ended (s : State) (level obj : Nat) : State :=
  if s.endedObjs.contains (level, obj) then s else { s with endedObjs := (level, obj) :: s.endedObjs }

def State.putRun (s : State) (r r' : Run) : State := { s with runs := s.runs.map fun x => if x = r then r' else x }

/-- R377 step 3: the graph of a run starts: it is LIVE and its nodes with PEND 0 become ready. A graph cancelled before
its start never starts: its nodes complete with CXL (R383). -/
def State.runGraph (s : State) (r : Run) : State × List NodeWork :=
  let ns := s.graphNodes r.die r.sroot r.graph
  if objST (s.rd (r.graph + 16)) = 3 then (s, ns.map fun n => .complete n r.sroot r.graph true)
  else
    let s := s.wr (r.graph + 16) (withST (s.rd (r.graph + 16)) 1)
    (s, (ns.filter fun n => bits (s.nodeState n) 32 16 == 0 && nst (s.nodeState n) == 0).map fun n => .ready n r.sroot r.graph)

/-- The graph `k` of the phase of a run starts; in a cancelled phase it is cancelled first. -/
def State.nextGraph (s : State) (r : Run) (k : Nat) : State × List NodeWork :=
  match s.arrayPa r.die r.sroot (s.rd (r.phase + 24)) k with
  | none => (s, [])
  | some g =>
    let r' := { r with graph := g, gated := false }
    let s := s.putRun r r'
    (if objST (s.rd (r.phase + 16)) = 3 then s.markCancelled g 2 else s).runGraph r'

/-- The phase `k` of a job starts with its first graph (R377 steps 1 and 2). -/
def State.nextPhase (s : State) (r : Run) (k : Nat) : State × List NodeWork :=
  match s.arrayPa r.die r.sroot (s.rd (r.job + 24)) k with
  | none => (s, [])
  | some ph =>
    let r' := { r with phase := ph, gated := false }
    let s := s.putRun r r'
    let s := if objST (s.rd (r.job + 16)) = 3 then s.markCancelled ph 2 else s
    let s := if objST (s.rd (ph + 16)) = 3 then s else s.wr (ph + 16) (withST (s.rd (ph + 16)) 1)
    s.nextGraph r' 0

def State.jobMsg (s : State) (r : Run) (obj level : Nat) (addr : Word) : State :=
  s.post ⟨r.die, .job⟩ 0x80 r.die r.tag addr (word level) (s.rd (obj + 16)) []

/-- The virtual address of a phase of a job: element `k` of PHASES. -/
def State.phaseVa (s : State) (r : Run) (k : Nat) : Word :=
  match s.paOf r.die r.sroot (s.rd (r.job + 24) + word (8 * k)) with
  | some a => s.rd a
  | none => 0

/-- R377 steps 5 and 6: the phase of a run has completed. -/
def State.phaseDone (s : State) (r : Run) : State × List NodeWork :=
  let done := (s.rd r.job).toNat
  let (s, full) := s.childDone r.job (objST (s.rd (r.phase + 16)) == 3)
  let s := (s.jobMsg r r.phase 3 (s.phaseVa r done)).ended 3 r.phase
  if full then
    let s := (s.jobMsg r r.job 4 r.addr).ended 4 r.job
    ({ s with runs := s.runs.filter fun x => x != r }, [])
  else if bitAt (s.rd (r.phase + 40)) 0 && objST (s.rd (r.job + 16)) != 3 then (s.putRun r { r with gated := true }, [])
  else s.nextPhase r (done + 1)

/-- R377 step 4: the graph of a run has completed. -/
def State.graphDone (s : State) (r : Run) : State × List NodeWork :=
  let s := s.ended 2 r.graph
  if r.level = 2 then
    let s := s.jobMsg r r.graph 2 r.addr
    ({ s with runs := s.runs.filter fun x => x != r }, [])
  else
    let k := (s.rd r.phase).toNat
    let (s, full) := s.childDone r.phase (objST (s.rd (r.graph + 16)) == 3)
    if full then s.phaseDone r else s.nextGraph r (k + 1)

/-- R380: a node fails as a bad record: the CAUSE of its launch, a message, and completion with CXL. -/
def State.badNode (s : State) (sroot n g : Nat) : State × List NodeWork :=
  let d := homeOf n
  let s := match s.paOf d sroot (s.nodeLaunch n) with
    | some h => s.wr (h + 16) (withCause (s.rd (h + 16)) 3)
    | none => s
  (s.badrec n (s.tagOf g), [.complete n sroot g true])

/-- A successor's PEND is decremented (R382). -/
def State.releaseSucc (s : State) (sroot n g : Nat) : State × List NodeWork :=
  let w := s.nodeState n
  let pend := bits w 32 16
  if pend = 0 then
    if nst w = 1 then (s.mapDie (homeOf n) fun x => { x with nodes := x.nodes.filter fun q => q.node != n }).badNode sroot n g
    else if nst w = 0 then (s, [])
    else (s.badrec n (s.tagOf g), [])
  else
    let s := s.wr (n + 120) (word (putBits w.toNat 32 16 (pend - 1)))
    (s, if pend = 1 ∧ nst w = 0 then [.ready n sroot g] else [])

/-- R382: a node of a graph completes. -/
def State.nodeDone (s : State) (sroot n g : Nat) (cxl : Bool) : State × List NodeWork :=
  let d := homeOf n
  if nst (s.nodeState n) = 3 then (s, []) else
  let s := s.setNst n 3 cxl
  let s := (s.count d 6 0 12 1).count d 6 0 13 (if cxl then 1 else 0)
  let base := s.rd (g + 24)
  let (s, work) := (s.nodeSuccs n).foldl (fun (acc : State × List NodeWork) k =>
    if k = 0xFFFF then acc
    else
      match acc.1.paOf d sroot (base + word (128 * k)) with
      | none => acc
      | some m =>
        let (s, w) := acc.1.releaseSucc sroot m g
        (s, acc.2 ++ w)) (s, [])
  let (s, full) := s.childDone g cxl
  if !full then (s, work)
  else
    match s.runs.find? fun r => r.graph == g with
    | none => (s, work)
    | some r =>
      let (s, more) := s.graphDone r
      (s, work ++ more)

/-- R380, R386: a node becomes ready, or is failed as a bad record. One that a cancelled graph has ended, or is to end
(R383), stays as it is. (DEDUCED, log 61) -/
def State.nodeReady (s : State) (sroot n g : Nat) : State × List NodeWork :=
  let d := homeOf n
  if nst (s.nodeState n) ≠ 0 ∨ objST (s.rd (g + 16)) = 3 then (s, []) else
  let s := s.setNst n 1 false
  if s.nodeOk d sroot n then
    (s.mapDie d fun x => { x with nodes := x.nodes ++ [⟨n, sroot, g, s.tick, none⟩] }, [])
  else s.badNode sroot n g

/-- Carrying work out until none is left; the fuel exceeds the nodes a module can hold in flight. -/
def State.work : Nat → State → List NodeWork → State
  | 0, s, _ => s
  | _, s, [] => s
  | fuel + 1, s, w :: ws =>
    let (s, more) := match w with
      | .ready n r g => s.nodeReady r n g
      | .complete n r g cxl => s.nodeDone r n g cxl
    State.work fuel s (ws ++ more)

def workFuel : Nat := 2 ^ 32
def State.doWork (s : State) (l : List NodeWork) : State := State.work workFuel s l

/-! ### Strands end -/

def State.liveOf (s : State) (header : Nat) : Option (DieId × Live) :=
  allDies.findSome? fun d => ((s.die d).lives.find? fun l => l.header == header).map fun l => (d, l)

/-- A launch ends at its target die: its marks go, and its number stays known (R157). -/
def State.endLive (s : State) (d : DieId) (l : Live) : State :=
  let s := s.mapDie d fun x => { x with lives := x.lives.filter fun y => y.header != l.header,
                                        cancelled := x.cancelled.filter fun w => w.toNat / 2 ^ 32 != l.serial.toNat,
                                        past := (l.serial, l.count) :: x.past }
  s.ended 1 l.header

/-- A launch's completion counter counts a strand (R153 step 4); the last one completes the node. -/
def State.strandEnded (s : State) (header : Nat) (cancelled : Bool) : State :=
  let (s, full) := s.childDone header cancelled
  if !full then s
  else
    match s.liveOf header with
    | none => s
    | some (d, l) =>
      let s := s.endLive d l
      s.doWork [.complete l.node l.sroot l.graph (objST (s.rd (header + 16)) == 3)]

/-! ### Settling (R346) -/

/-- Dies that a mask-scope wait covers: present ones of a mask. -/
def State.maskDies (s : State) (m : BitVec 16) : List DieId := s.presentDies.filter fun d => m.getLsbD d.val

/-- Is a pod store of a strand not acknowledged yet (R225)? -/
def State.podBusy (s : State) (strand : Word) : Bool :=
  s.net.any fun p => match p with
    | .pod _ _ _ st load _ _ _ _ _ _ => st == strand && !load
    | _ => false

/-- Has every earlier store settled as a release at a scope under a mask needs? -/
def State.settled (s : State) (sc : Scope) (m : BitVec 16) : Bool :=
  (s.regions.all fun r => r.strand != s.me.strand || r.todo.isEmpty) && s.mates.all fun c =>
    let performed := c.perfPend == 0
    c.rredPend == 0 &&
    match sc with
    | .strand | .ring => true
    | .die => performed
    | .mask => performed && (s.maskDies m).all fun d => c.colPend[d] == 0
    | .pod => performed && !s.podBusy s.me.strand && s.presentDies.all fun d => c.colPend[d] == 0

/-! ### Leaving a slot (R413) -/


/-- QCB waiter counts: PUTW at bytes 36 and 37, GETW at 38 and 39 (R193, R198). -/
def State.qcount (s : State) (qcb : Nat) (put up : Bool) : State :=
  let at_ := qcb + if put then 36 else 38
  let n := ofBytes (memBytes s.mem at_ 2)
  let m := if up then min 65535 (n + 1) else n - 1
  (s.performWrite at_ (bytesOf 2 m) .none).1

/-- R167: the waiter entry of a strand is removed, and its count reduced; a wake on its way to it goes too. -/
def State.dropWaiter (s : State) (strand : Word) (home : DieId) : State :=
  let s : State := { s with net := s.net.filter fun (p : Packet) => match p with
    | .wake _ w _ => w != strand
    | _ => true }
  let gone := (s.die home).waiters.filter fun w => w.strand == strand
  let s := s.mapDie home fun d => { d with waiters := d.waiters.filter fun w => w.strand != strand }
  gone.foldl (fun s w => if w.what = .queue then s.qcount w.loc w.put false else s) s

/-- The reservation of a slot, cleared without a notice (R178). -/
def State.clearResv (s : State) (c : Ctx) : State :=
  allDies.foldl (fun s d =>
    if (s.die d).resv.any fun r => r.die == c.die && r.slot == c.slot then
      s.mapDie d fun x => { x with resv := x.resv.filter fun r => !(r.die == c.die && r.slot == c.slot) }
    else s) s

/-- The registrations that an entry holds of other dies of this module. -/
def Group.others (g : Group) (d : DieId) : List Packet :=
  g.regs.filterMap fun r => match r.2 with
    | some (e, h) => if e = d ∧ h = g.handle then none else some (.register r.1 e h)
    | none => none

/-- R449: the registration of a strand's `gform` is withdrawn: its entry is as it was, and rank 0 and the net hold
nothing of it. Those that other dies have sent to it go on waiting for their rank 0. -/
def State.withdraw (s : State) (c : Ctx) : State :=
  match (s.die c.die).groups.find? fun g => g.forming.any fun f => f.strand == c.strand with
  | none => s
  | some g =>
    let s : State := { s with net := (s.net.filter fun (p : Packet) => match p with
      | .register _ d h => !(d == c.die && h == g.handle)
      | _ => true) ++ g.others c.die }
    let s := allDies.foldl (fun s d => s.mapDie d fun x => { x with groups := x.groups.map fun o =>
      { o with regs := o.regs.filter fun r => r.2 != some (c.die, g.handle) } }) s
    s.mapDie c.die fun d => { d with groups := (d.groups.map fun o =>
      if o.handle = g.handle then { o with state := o.prior, forming := none, regs := [] } else o).filter fun o => o.state != .free }

/-- What the reservoir keeps of a strand that has left its slot (R386, R391). -/
def Ctx.waiting (c : Ctx) (s : State) (yielded : Bool) : Waiting :=
  ⟨c.strand, word (c.recordVa s), s.launchRoot c.die c.header, c.header, c.node, c.prio, c.deadline, s.nodeClass c.node, s.nodePlace c.node,
   s.tick, false, yielded, false, c.stepDue, 0⟩

/-- The trap that a chunk holds; one taken away is dropped (R411). -/
def Ctx.mapHeld (c : Ctx) (t : Option Trap) : Ctx := { c with chunk := c.chunk.map fun k => { k with held := t } }

/-- R167: what the slot `me` waits for is given up: its waiter entry at home is removed, its registration withdrawn. -/
def State.leaveWait (s : State) : State :=
  match s.me.wait with
  | some w =>
    let s := if w.entry then s.dropWaiter s.me.strand (homeOf w.loc) else s
    let s := if w.what = WaitFor.group then s.withdraw s.me else s
    s.mapMe fun c => { c with wait := none }
  | none => s

/-- Does no other slot hold a chunk, or a claim, of the strand in `me`? After a squash under exit it is so once RELEASE has been
round the ring. (DEDUCED, log 51) -/
def State.alone (s : State) : Bool := s.others.all fun o => o.strand != s.me.strand

/-- R413 steps 1 to 4 for the strand of the slot `me`: waits end, younger chunks are squashed, the chunk
commits what it holds, an `mma` drains. A wait's entry is kept when `keep` (a park, R394). -/
def State.quiesce (s : State) (keep : Bool) : State :=
  let s := if keep then s else s.leaveWait
  let s := s.endSpeculation s.me
  let s := s.drainStep s.me
  let s := s.clearResv s.me
  s.mapMe fun c => c.flushPart.retireMma

/-- A predictor table is lost when its strand leaves the slot (R319). -/
def State.losePred (s : State) (c : Ctx) : State :=
  s.mapDie c.die fun d => { d with preds := d.preds.filter fun t => !(t.ring == ringOf c.slot && t.strand == c.strand) }

/-- R462 step 3 and 4: when no slot of a retiring ring holds a strand, the spare takes its logical number; the
manifest and the host are told. (DEDUCED, log 69) -/
def State.ringEmptied (s : State) (d : DieId) : State :=
  match (s.die d).retiring with
  | none => s
  | some r =>
    if s.busy.any fun c => c.die == d && ringOf c.slot == r then s
    else
      let s := s.mapDie d fun x => { x with
        retiring := none, spareFor := some r,
        rings := (x.rings.set (Fin.ofNat 9 r) { x.rings[Fin.ofNat 9 r] with st := 3 }).set 8 { x.rings[(8 : Fin 9)] with st := 0 } }
      let s := s.mapDie 4 fun x => { x with regs := { x.regs with manifest := x.regs.manifest.set 2 (x.regs.manifest[2] ||| word (2 ^ (16 + d.val))) } }
      s.post ⟨d, .age⟩ 0x80 d 0 0 (word r) 8 []

/-- The slot `me` becomes free (R413 step 7). -/
def State.vacate (s : State) : State :=
  let s := s.losePred s.me
  let s := { s with regions := s.regions.filter fun r => r.strand != s.me.strand }
  (s.free s.me.die s.me.slot).ringEmptied s.me.die

/-- Has every transfer whose landing frees the slot landed (R413)? A `coll` is copied, not waited for. -/
def Ctx.landed (c : Ctx) : Bool := c.ilk.all fun e => e.kind == .coll

/-- R14: a strand that retires by `done`, or by its own `cncl`, writes its dirty registers back where its private memory holds a
save area that can be written; otherwise nothing is written, and nothing fails (R153). (DEDUCED, log 90) -/
def State.saveLast (s : State) : State :=
  match s.saveArea s.me false none with
  | (t, true) => t
  | (_, false) => s

/-- R153 steps 4 and 5 for the slot `me`: the record is marked retired, the launch counts the strand, the slot
is freed. A record write that faults is counted under SAVEFAIL. (DEDUCED, log 90) -/
def State.retire (s : State) (susp : Nat) (cancelled : Bool) : State :=
  let c := s.me
  let s := s.mapMe fun c => { c with susp := BitVec.ofNat 4 susp }
  let s := if susp = 4 then s.saveLast else s
  let (s, ok) := s.writeRecord s.me rsRETIRED susp 0
  let s := s.count c.die 0 0 3 (if ok then 0 else 1)
  let s := s.count c.die 6 0 5 (if cancelled then 1 else 0)
  let s := s.vacate
  s.strandEnded c.header cancelled

/-- R418: a save or restore failed: the launch's CAUSE becomes 3, and the failure is counted. -/
def State.countFailed (s : State) (ix : Nat) : State :=
  let c := s.me
  (s.wr (c.header + 16) (withCause (s.rd (c.header + 16)) 3)).count c.die 0 0 ix 1

/-- The end of a cancelled strand once its stores are settled and its transfers have landed (R384); until
then it stays stopped. -/
def State.retireCancelled (s : State) : State :=
  if s.me.ilk.isEmpty && s.alone && s.settled .mask 0xFFFF then s.retire 7 true
  else s.mapMe fun c => { c with stopReq := some 7 }

/-- R384: the strand of the slot `me` is stopped as a cancelled strand: the sequence of R413 up to the record,
then R153 from its release on. A strand whose save has failed is not saved again (R418). -/
def State.stopCancelled (s : State) : State :=
  let s := s.quiesce false
  if s.me.drained && s.me.ilk.isEmpty && s.alone && s.settled .mask 0xFFFF then
    let (s, ok) := if s.me.susp = 7 then (s, true) else s.saveArea s.me false none
    (if ok then s else s.countFailed 3).retireCancelled
  else s.mapMe fun c => { c with stopReq := some 7 }

/-- Leaving the slot `me` (R413) once its stores are settled and its transfers have landed; until then it stays
as it is, stopped under `retry`. `prep` makes the registers what the record shows; then `f` puts the strand
where it goes, given what the reservoir keeps of it. (DEDUCED, log 16, 59) -/
def State.suspend (s : State) (keep : Bool) (retry : Option (BitVec 4)) (prep : Ctx → Ctx) (st susp hcode : Nat) (halt : HaltRegs)
    (yielded : Bool) (f : Waiting → State → State) : State :=
  let s := if st = rsHALTED then s.mapMe fun c => { c with stood := some (c.stood.getD c.ilk) } else s
  let s := s.quiesce keep
  if s.me.drained && s.me.landed && s.alone && s.settled .mask 0xFFFF then
    let (s, ok) := (s.mapMe prep).saveStrand st susp hcode halt
    let s := if ok then s else s.leaveWait
    if ok then
      let w := s.me.waiting s yielded
      f w s.vacate
    else ((s.countFailed 3).mapMe fun c => { c with susp := 7 }).retireCancelled
  else match retry with
    | some k => s.mapMe fun c => { c with stopReq := some k }
    | none => s

/-- A strand that is ready on a die (R386). -/
def State.makeReady (s : State) (d : DieId) (w : Waiting) : State :=
  s.mapDie d fun x => { x with ready := x.ready ++ [w] }

/-- A strand that is HALTED on a die (R423). -/
def State.keepHalted (s : State) (d : DieId) (w : Waiting) : State := s.mapDie d fun x => { x with halted := x.halted ++ [w] }

end Sys2Proof.Machine
end

