-- ==== Sys2Proof/Machine/Device.lean ====
section
/-! DEFINITION. The device registers of a die at their offsets (R331, R350, R362, R393, R421, R436, R440,
R445, R459, R461): reserved fields read zero and ignore writes (R11). -/

namespace Sys2Proof.Machine

/-- The register at a device offset of a die, with the bits software may write; none where no register is. (DESIGN CHOICE, log 8) -/
def Die.reg (d : Die) (die : DieId) (off : Nat) : Option (Word × Word) :=
  match off with
  | 0x100 => some (d.regs.replctl, 0x0000FFFFF0FF0003)
  | 0x108 => some (d.regs.hotctl, 0xFFFFFFFF00001FFF)
  | 0x110 => some (d.regs.rsvctl, 0x0000FFFFFFFF0000)
  | 0x118 => some (d.regs.fabctl, 0x00000000000FFFFF)
  | 0x120 => some (d.regs.podctl, 0x000007FF000003FF)
  | 0x128 => some (d.regs.podroot, 0x0000FFFFFFFF0001)
  | 0x130 => some (d.regs.agectl, 0x00000000FFFFFFFF)
  | 0x138 => some (if die = 4 then (d.regs.ptpctl, 0x00000000000007FF) else (0, 0))
  | 0x200 => some (d.regs.dbgctl, 0x007FFFFFFFFFFFC7)
  | _ =>
    if 0x220 ≤ off ∧ off < 0x2A0 ∧ off % 8 = 0 then
      let w := d.regs.dbgwp[Fin.ofNat 8 ((off - 0x220) / 16)]
      some (if off % 16 = 0 then (w.1, 0x00FFFFFFFFFFFFFF) else (w.2, 0xF00000000000003F))
    else if die = 4 ∧ 0x300 ≤ off ∧ off < 0x348 ∧ off % 8 = 0 then
      some (d.regs.manifest[Fin.ofNat 9 ((off - 0x300) / 8)], 0)
    else none

/-- Storing a register's new value. -/
def DevRegs.put (r : DevRegs) (off : Nat) (x : Word) : DevRegs :=
  match off with
  | 0x100 => { r with replctl := x }
  | 0x108 => { r with hotctl := x }
  | 0x110 => { r with rsvctl := x }
  | 0x118 => { r with fabctl := x }
  | 0x120 => { r with podctl := x }
  | 0x128 => { r with podroot := x }
  | 0x130 => { r with agectl := x }
  | 0x138 => { r with ptpctl := x }
  | 0x200 => { r with dbgctl := x }
  | _ =>
    if 0x220 ≤ off ∧ off < 0x2A0 then
      let k := Fin.ofNat 8 ((off - 0x220) / 16)
      let w := r.dbgwp[k]
      { r with dbgwp := r.dbgwp.set k (if off % 16 = 0 then (x, w.2) else (w.1, x)) }
    else r

/-- R436: the clock runs. -/
def State.ptpOn (s : State) : Bool := bitAt (s.die 4).regs.ptpctl 10
/-- R436: while the clock runs, a write that changes DOMAIN, MECH or IP6 changes nothing. -/
def State.ptpBusy (s : State) (x : Word) : Bool := s.ptpOn && bits x 0 10 != bits (s.die 4).regs.ptpctl 0 10
/-- R436: PTPCTL of die 4 written; PTPOFF reads 0 while EN is 0. -/
def State.ptpWrite (s : State) (x : Word) : State :=
  if s.ptpBusy x then s
  else
    let s := s.mapDie 4 fun q => { q with regs := { q.regs with ptpctl := x &&& 0x7FF } }
    if s.ptpOn then s else s.setCounter 4 0 0 0 0
/-- R11: a write reaches the writable bits only; one of PTPCTL goes as R436 says. -/
def State.writeReg (s : State) (d : DieId) (off : Nat) (x : Word) : State :=
  if off = ptpctlOffset.toNat then (if d = 4 then s.ptpWrite x else s)
  else
    match (s.die d).reg d off with
    | none => s
    | some (old, m) =>
      if m = 0 then s else s.mapDie d fun q => { q with regs := q.regs.put off ((x &&& m) ||| (old &&& ~~~m)) }

/-- Offset of a device location in its die. -/
def devOff (loc : Nat) : Nat := loc % 2 ^ 36

/-- A byte of device space; where no register is, a free value (log 8). -/
def State.devByte (s : State) (loc : Nat) : Byte :=
  let d := homeOf loc
  match (s.die d).reg d (devOff loc / 8 * 8) with
  | some (x, _) => BitVec.ofNat 8 (x.toNat / 2 ^ (8 * (loc % 8)))
  | none => Config.freeDev loc

/-- Replacing bytes of a word. -/
def patch (x : Nat) (at_ : Nat) (bs : List Byte) : Nat := putBits x (8 * at_) (8 * bs.length) (ofBytes bs)

/-- A store to device space, at most 8 aligned bytes; no register, no effect (log 8); a reservation there is lost (R178). (DESIGN CHOICE, log 30) -/
def State.devWrite (s : State) (loc : Nat) (bs : List Byte) : State :=
  let d := homeOf loc
  let off := devOff loc / 8 * 8
  let s := s.loseResv loc bs.length
  match (s.die d).reg d off with
  | some (x, _) => s.writeReg d off (word (patch x.toNat (loc % 8) bs))
  | none => s

end Sys2Proof.Machine
end

