-- ==== Sys2Proof/Machine/Flags.lean ====
section
/-! DEFINITION. Floating-point arithmetic with its flags (R51 to R61): every value is decoded to an exact
dyadic number, the operation is exact, and one function rounds and sets flags. -/

namespace Sys2Proof.Machine

/-- A binary format: exponent and fraction widths. -/
structure FF where
  eb : Nat
  mb : Nat
  deriving DecidableEq, Repr

def ff64 : FF := ⟨11, 52⟩
def ff32 : FF := ⟨8, 23⟩
def ff16 : FF := ⟨5, 10⟩
def ffbf : FF := ⟨8, 7⟩
def ffOf : Fmt → FF
  | .f64 => ff64
  | .f32 => ff32
  | .f16 => ff16
  | .bf16 => ffbf
/-- The format of a floating element type. -/
def ETy.ff? : ETy → Option FF
  | .f64 => some ff64
  | .f32 => some ff32
  | .f16 => some ff16
  | .bf16 => some ffbf
  | _ => none

def FF.width (f : FF) : Nat := 1 + f.eb + f.mb
def FF.bias (f : FF) : Nat := 2 ^ (f.eb - 1) - 1
/-- Encoding of +∞, the sign bit, the default NaN (R51), the largest finite value. -/
def FF.inf (f : FF) : Nat := (2 ^ f.eb - 1) * 2 ^ f.mb
def FF.sgn (f : FF) : Nat := 2 ^ (f.eb + f.mb)
def FF.nan (f : FF) : Nat := f.inf + 2 ^ (f.mb - 1)
def FF.max (f : FF) : Nat := f.inf - 1
/-- Exponent of the least subnormal's bit: 1 − bias − mb. -/
def FF.qmin (f : FF) : Int := 1 - (f.bias : Int) - f.mb

/-- A decoded value: (−1)^neg · m · 2^e when finite. -/
inductive FV where
  | nan (signalling : Bool)
  | inf (neg : Bool)
  | fin (neg : Bool) (m : Nat) (e : Int)
  deriving DecidableEq, Repr

/-- R52: decoding. -/
def FF.dec (f : FF) (x : Nat) : FV :=
  let x := x % 2 ^ f.width
  let neg := f.sgn ≤ x
  let x := x % f.sgn
  let e := x / 2 ^ f.mb
  let m := x % 2 ^ f.mb
  if e = 2 ^ f.eb - 1 then (if m = 0 then .inf neg else .nan (m < 2 ^ (f.mb - 1)))
  else if e = 0 then .fin neg m f.qmin
  else .fin neg (m + 2 ^ f.mb) (f.qmin + (e - 1 : Nat))

/-! Flags (R59) as bits of FLAGS. -/
def fNV : BitVec 6 := 16
def fDZ : BitVec 6 := 8
def fOF : BitVec 6 := 4
def fUF : BitVec 6 := 2
def fNX : BitVec 6 := 1

/-- A result's bits with the flags raised. -/
abbrev FRes := Nat × BitVec 6

/-- Rounding modes as RMODE codes: 0 RNE, 1 RTZ, 2 RUP, 3 RDN, 4 RNA (R53). -/
abbrev Mode := Nat

/-- Rounding `m · 2^e`, plus a positive amount below `2^e` when `sticky`, to a multiple of `2^q`: the multiple,
and whether it differs. When `q ≤ e` a sticky amount must be impossible or harmless for the caller. -/
def roundAt (mode : Mode) (neg : Bool) (m : Nat) (e : Int) (sticky : Bool) (q : Int) : Nat × Bool :=
  if q ≤ e then (m * 2 ^ (e - q).toNat, sticky)
  else
    let k := (q - e).toNat
    let n := m / 2 ^ k
    let r := m % 2 ^ k
    let half := 2 ^ (k - 1)
    let inexact := r ≠ 0 ∨ sticky
    let up : Bool :=
      match mode with
      | 0 => decide (half < r) || (r == half && (sticky || n % 2 == 1))
      | 4 => decide (half ≤ r)
      | 2 => decide inexact && !neg
      | 3 => decide inexact && neg
      | _ => false
    (if up then n + 1 else n, decide inexact)

/-- Index of the leading bit of a positive number. -/
def topBit (m : Nat) : Nat := Nat.log2 m

/-- R55: what overflow gives. -/
def FF.overflow (f : FF) (mode : Mode) (neg : Bool) : Nat :=
  let big := match mode with
    | 1 => f.max
    | 2 => if neg then f.max else f.inf
    | 3 => if neg then f.inf else f.max
    | _ => f.inf
  (if neg then f.sgn else 0) + big

/-- R54, R55, R59: rounding once, with the flags NX, UF and OF. -/
def FF.round (f : FF) (mode : Mode) (neg : Bool) (m : Nat) (e : Int) (sticky : Bool) : FRes :=
  if m = 0 ∧ !sticky then (if neg then f.sgn else 0, 0)
  else
    let top := e + topBit m
    let qu := top - f.mb
    let q := if qu < f.qmin then f.qmin else qu
    let (n, inexact) := roundAt mode neg m e sticky q
    let bits := (q - f.qmin).toNat * 2 ^ f.mb + n
    if f.inf ≤ bits then (f.overflow mode neg, fOF ||| fNX)
    else
      let (nu, _) := roundAt mode neg m e sticky qu
      let tiny := qu < f.qmin ∧ (m = 0 ∨ (topBit nu : Int) + qu < f.qmin + f.mb)
      ((if neg then f.sgn else 0) + bits,
        (if inexact then fNX else 0) ||| (if tiny ∧ inexact then fUF else 0))

/-- A signed dyadic number. -/
def signedOf (neg : Bool) (m : Nat) : Int := if neg then -(m : Int) else m

/-- The exact sum of two finite values as sign, significand, exponent. -/
def addExact (n1 : Bool) (m1 : Nat) (e1 : Int) (n2 : Bool) (m2 : Nat) (e2 : Int) : Int × Int :=
  let e := if e1 ≤ e2 then e1 else e2
  (signedOf n1 (m1 * 2 ^ (e1 - e).toNat) + signedOf n2 (m2 * 2 ^ (e2 - e).toNat), e)

/-- Sign of an exact zero sum (R54). -/
def zeroSign (mode : Mode) (n1 n2 : Bool) : Bool := if n1 = n2 then n1 else mode == 3

def FF.roundSum (f : FF) (mode : Mode) (n1 : Bool) (m1 : Nat) (e1 : Int) (n2 : Bool) (m2 : Nat) (e2 : Int) : FRes :=
  let (s, e) := addExact n1 m1 e1 n2 m2 e2
  if s = 0 then (if zeroSign mode n1 n2 then f.sgn else 0, 0)
  else f.round mode (decide (s < 0)) s.natAbs e false

/-- R56: NV of signalling operands. -/
def FV.snan : FV → Bool
  | .nan true => true
  | _ => false
def FV.isNan : FV → Bool
  | .nan _ => true
  | _ => false
def FV.neg : FV → FV
  | .nan q => .nan q
  | .inf n => .inf !n
  | .fin n m e => .fin (!n) m e

def FF.nanRes (f : FF) (nv : Bool) : FRes := (f.nan, if nv then fNV else 0)
def FF.infRes (f : FF) (neg : Bool) : FRes := ((if neg then f.sgn else 0) + f.inf, 0)

/-- x + y. -/
def FF.addV (f : FF) (mode : Mode) (x y : FV) : FRes :=
  match x, y with
  | .nan a, y => f.nanRes (a || y.snan)
  | x, .nan b => f.nanRes (b || x.snan)
  | .inf a, .inf b => if a = b then f.infRes a else f.nanRes true
  | .inf a, _ => f.infRes a
  | _, .inf b => f.infRes b
  | .fin n1 m1 e1, .fin n2 m2 e2 => f.roundSum mode n1 m1 e1 n2 m2 e2

/-- x × y. -/
def FF.mulV (f : FF) (mode : Mode) (x y : FV) : FRes :=
  match x, y with
  | .nan a, y => f.nanRes (a || y.snan)
  | x, .nan b => f.nanRes (b || x.snan)
  | .inf a, .inf b => f.infRes (a != b)
  | .inf a, .fin b m _ => if m = 0 then f.nanRes true else f.infRes (a != b)
  | .fin a m _, .inf b => if m = 0 then f.nanRes true else f.infRes (a != b)
  | .fin n1 m1 e1, .fin n2 m2 e2 => f.round mode (n1 != n2) (m1 * m2) (e1 + e2) false

/-- x × y + z with one rounding; 0 × ∞ is invalid whatever z is (R56). (DEDUCED, log 20) -/
def FF.fmaV (f : FF) (mode : Mode) (x y z : FV) : FRes :=
  let snan := x.snan || y.snan || z.snan
  let bad : Bool :=
    match x, y with
    | .inf _, .fin _ 0 _ => true
    | .fin _ 0 _, .inf _ => true
    | _, _ => false
  if x.isNan || y.isNan || z.isNan then f.nanRes (snan || bad)
  else if bad then f.nanRes true
  else
    match x, y, z with
    | .fin n1 m1 e1, .fin n2 m2 e2, .fin n3 m3 e3 => f.roundSum mode (n1 != n2) (m1 * m2) (e1 + e2) n3 m3 e3
    | .fin _ _ _, .fin _ _ _, .inf c => f.infRes c
    | x, y, z =>
      let sx := match x with | .inf a => a | .fin a _ _ => a | .nan _ => false
      let sy := match y with | .inf a => a | .fin a _ _ => a | .nan _ => false
      match z with
      | .inf c => if c = (sx != sy) then f.infRes c else f.nanRes true
      | _ => f.infRes (sx != sy)

/-- x / y: the quotient to more bits than the format holds, with a sticky remainder. -/
def FF.divV (f : FF) (mode : Mode) (x y : FV) : FRes :=
  match x, y with
  | .nan a, y => f.nanRes (a || y.snan)
  | x, .nan b => f.nanRes (b || x.snan)
  | .inf _, .inf _ => f.nanRes true
  | .inf a, .fin b _ _ => f.infRes (a != b)
  | .fin a _ _, .inf b => (if a != b then f.sgn else 0, 0)
  | .fin a m1 e1, .fin b m2 e2 =>
    if m2 = 0 then (if m1 = 0 then f.nanRes true else ((f.infRes (a != b)).1, fDZ))
    else if m1 = 0 then (if a != b then f.sgn else 0, 0)
    else
      let k := f.mb + 3 + topBit m2
      f.round mode (a != b) (m1 * 2 ^ k / m2) (e1 - e2 - k) (m1 * 2 ^ k % m2 != 0)

/-- The integer square root, bit by bit from bit `b`. -/
def isqrtFrom (n : Nat) : Nat → Nat → Nat
  | 0, r => if (r + 1) * (r + 1) ≤ n then r + 1 else r
  | b + 1, r => isqrtFrom n b (if (r + 2 ^ (b + 1)) * (r + 2 ^ (b + 1)) ≤ n then r + 2 ^ (b + 1) else r)
def isqrt (n : Nat) : Nat := isqrtFrom n (topBit n / 2 + 1) 0

/-- √x. -/
def FF.sqrtV (f : FF) (mode : Mode) (x : FV) : FRes :=
  match x with
  | .nan a => f.nanRes a
  | .inf neg => if neg then f.nanRes true else f.infRes false
  | .fin neg m e =>
    if m = 0 then (if neg then f.sgn else 0, 0)
    else if neg then f.nanRes true
    else
      let k := 2 * f.mb + 8 + (if e % 2 = 0 then 0 else 1)
      let n := m * 2 ^ k
      let r := isqrt n
      f.round mode false r ((e - k) / 2) (r * r != n)

/-- Order of two values that are not NaN; −0 and +0 compare equal. -/
def FV.lt (x y : FV) : Bool :=
  match x, y with
  | .inf a, .inf b => a && !b
  | .inf a, .fin _ _ _ => a
  | .fin _ _ _, .inf b => !b
  | .fin n1 m1 e1, .fin n2 m2 e2 => decide ((addExact n1 m1 e1 (!n2) m2 e2).1 < 0)
  | _, _ => false
def FV.eq (x y : FV) : Bool :=
  match x, y with
  | .inf a, .inf b => a == b
  | .fin n1 m1 e1, .fin n2 m2 e2 => decide ((addExact n1 m1 e1 (!n2) m2 e2).1 = 0)
  | _, _ => false
def FV.signBit : FV → Bool
  | .nan _ => false
  | .inf a => a
  | .fin a _ _ => a

/-- R57: minimumNumber and maximumNumber on encodings; −0 orders below +0. -/
def FF.minmax (f : FF) (isMax : Bool) (x y : Nat) : FRes :=
  let vx := f.dec x
  let vy := f.dec y
  let fl := if vx.snan || vy.snan then fNV else 0
  if vx.isNan && vy.isNan then (f.nan, fl)
  else if vx.isNan then (y, fl)
  else if vy.isNan then (x, fl)
  else
    let less := vx.lt vy || (vx.eq vy && vx.signBit && !vy.signBit)
    (if less != isMax then x else y, fl)

/-- R58: comparisons. -/
def fcmpEq (x y : FV) : Bool × BitVec 6 := (!x.isNan && !y.isNan && x.eq y, if x.snan || y.snan then fNV else 0)
def fcmpLt (x y : FV) : Bool × BitVec 6 := (!x.isNan && !y.isNan && x.lt y, if x.isNan || y.isNan then fNV else 0)
def fcmpLe (x y : FV) : Bool × BitVec 6 := (!x.isNan && !y.isNan && (x.lt y || x.eq y), if x.isNan || y.isNan then fNV else 0)

/-- R135: the one-hot class word. -/
def FF.classOf (f : FF) (x : Nat) : Nat :=
  match f.dec x with
  | .nan true => 2 ^ 8
  | .nan false => 2 ^ 9
  | .inf true => 1
  | .inf false => 2 ^ 7
  | .fin neg m _ =>
    if m = 0 then (if neg then 8 else 16)
    else if m < 2 ^ f.mb then (if neg then 4 else 32)
    else if neg then 2 else 64

/-- Arithmetic on encodings. -/
def FF.add (f : FF) (mode : Mode) (x y : Nat) : FRes := f.addV mode (f.dec x) (f.dec y)
def FF.sub (f : FF) (mode : Mode) (x y : Nat) : FRes := f.addV mode (f.dec x) (f.dec y).neg
def FF.mul (f : FF) (mode : Mode) (x y : Nat) : FRes := f.mulV mode (f.dec x) (f.dec y)
def FF.div (f : FF) (mode : Mode) (x y : Nat) : FRes := f.divV mode (f.dec x) (f.dec y)
def FF.fma (f : FF) (mode : Mode) (x y z : Nat) : FRes := f.fmaV mode (f.dec x) (f.dec y) (f.dec z)
def FF.fms (f : FF) (mode : Mode) (x y z : Nat) : FRes := f.fmaV mode (f.dec x) (f.dec y) (f.dec z).neg
def FF.sqrt (f : FF) (mode : Mode) (x : Nat) : FRes := f.sqrtV mode (f.dec x)

/-! ### Conversions (R61) -/

/-- A value into a float format: rounding, NaN to the default NaN. -/
def FF.ofV (f : FF) (mode : Mode) (x : FV) : FRes :=
  match x with
  | .nan s => f.nanRes s
  | .inf neg => f.infRes neg
  | .fin neg m e => f.round mode neg m e false
/-- An integer into a float format. -/
def FF.ofInt (f : FF) (mode : Mode) (x : Int) : FRes := f.round mode (decide (x < 0)) x.natAbs 0 false

/-- A float into an integer range [lo, hi], saturating with NV. -/
def toInt (mode : Mode) (lo hi : Int) (x : FV) : Int × BitVec 6 :=
  match x with
  | .nan _ => (0, fNV)
  | .inf neg => (if neg then lo else hi, fNV)
  | .fin neg m e =>
    let (n, inexact) := roundAt mode neg m e false 0
    let v := signedOf neg n
    if v < lo then (lo, fNV) else if hi < v then (hi, fNV) else (v, if inexact then fNX else 0)

/-- Signed and unsigned readings of `w` bits. -/
def sread (w x : Nat) : Int := let x := x % 2 ^ w; if 2 * x ≥ 2 ^ w then (x : Int) - (2 ^ w : Nat) else x
def iwrap (w : Nat) (x : Int) : Nat := (x % ((2 ^ w : Nat) : Int)).toNat
/-- Range of an integer type. -/
def irange (signed : Bool) (w : Nat) : Int × Int :=
  if signed then (-((2 ^ (w - 1) : Nat) : Int), ((2 ^ (w - 1) : Nat) : Int) - 1) else (0, ((2 ^ w : Nat) : Int) - 1)

/-- The mode of an instruction that rounds under RMODE: RNA is for conversions only (R42). -/
def Ctx.mode (c : Ctx) : Mode := if c.rmode = 4 then 0 else c.rmode.toNat
/-- The mode of a conversion's rounding field. -/
def Ctx.rndMode (c : Ctx) : Rnd → Mode
  | .dyn => c.rmode.toNat
  | r => r.code

end Sys2Proof.Machine
end

