-- ==== Sys2Proof/Machine/Home.lean ====
section
/-! DEFINITION. What a home slice does with a request, one indivisible step in arrival order (R174 to R183,
R188 to R203). -/

namespace Sys2Proof.Machine

/-! ### Atomics (R180, R181) -/

/-- f(old, x) on `n` bytes, with the flags of `fadd`. -/
def AmoOp.apply (op : AmoOp) (n old x : Nat) : Nat × BitVec 6 :=
  let w := 8 * n
  let x := x % 2 ^ w
  match op with
  | .add => ((old + x) % 2 ^ w, 0)
  | .and => (old &&& x, 0)
  | .or => (old ||| x, 0)
  | .xor => (old ^^^ x, 0)
  | .min => (if sread w old ≤ sread w x then old else x, 0)
  | .max => (if sread w old ≤ sread w x then x else old, 0)
  | .minn => (if old ≤ x then old else x, 0)
  | .maxn => (if old ≤ x then x else old, 0)
  | .swap => (x, 0)
  | .fadd => (if n = 4 then ff32 else ff64).add 0 old x

/-! ### Full/empty state (R173) -/

def State.isEmpty (s : State) (loc : Nat) : Bool := s.empties.contains (loc / 8 * 8)
def State.setEmpty (s : State) (loc : Nat) (e : Bool) : State :=
  { s with empties := if e then natAdd (loc / 8 * 8) s.empties else natDel (loc / 8 * 8) s.empties }

/-! ### Waiters (R175, R198) -/

/-- Waking waiters of a location: each leaves the table, a queue's count falls, a packet tells the strand. -/
def State.wake (s : State) (loc : Nat) (p : Waiter → Bool) : State :=
  let home := homeOf loc
  let ws := (s.die home).waiters.filter fun w => w.loc == loc && p w
  let s := s.mapDie home fun d => { d with waiters := d.waiters.filter fun w => !(w.loc == loc && p w) }
  ws.foldl (fun s w =>
    let s := if w.what = .queue then s.qcount loc w.put false else s
    s.send (.wake w.die w.strand loc)) s

/-- Registering a waiter; false when the slice's table is full. -/
def State.addWaiter (s : State) (w : Waiter) : State × Bool :=
  let home := homeOf w.loc
  if (s.die home).waiters.any fun x => x.strand == w.strand && x.loc == w.loc then (s, true)
  else if ((s.die home).waiters.filter fun x => s.slice x.loc == s.slice w.loc).length < Config.waiterEntries then
    let s := s.mapDie home fun d => { d with waiters := d.waiters ++ [w] }
    (if w.what = .queue then s.qcount w.loc w.put true else s, true)
  else (s, false)

/-! ### Barriers (R186 to R191) -/

/-- The fields of a barrier word: PHASE, STATUS, ARR, BYTES. -/
structure Bar where
  phase : Bool
  status : Nat
  arr : Nat
  bytes : Nat
  deriving DecidableEq, Repr

def Bar.ofWord (w : Word) : Bar := ⟨bitAt w 63, bits w 61 2, bits w 40 21, bits w 0 40⟩
def Bar.word (b : Bar) : Word :=
  Sys2Proof.word ((if b.phase then 2 ^ 63 else 0) + b.status % 4 * 2 ^ 61 + b.arr % 2 ^ 21 * 2 ^ 40 + b.bytes % 2 ^ 40)

/-- `settle` (R190): the phase completes when nothing is pending. Answers whether it does. -/
def Bar.settle (b rl : Bar) : Bar × Bool :=
  if b.arr = 0 ∧ b.bytes = 0 then ({ b with phase := !b.phase, arr := rl.arr, bytes := rl.bytes }, true) else (b, false)

def State.putBar (s : State) (loc : Nat) (b : Bar) (who : Requester) (done : Bool) : State × BitVec 16 :=
  let (s, m) := s.performWrite loc (w64 b.word) who
  (if done then s.wake loc (fun w => w.what == .barrier) else s, m)

/-- A landing of `k` bytes with a status (R190, R208). -/
def State.landAt (s : State) (loc k status : Nat) : State :=
  if k = 0 then s
  else
    let b := Bar.ofWord (s.rd loc)
    let rl := Bar.ofWord (s.rd (loc + 8))
    let b := { b with status := max b.status status }
    let b := if b.bytes < k then { b with bytes := 0, status := max b.status 1 } else { b with bytes := b.bytes - k }
    let (b, done) := b.settle rl
    (s.putBar loc b .none done).1

/-! ### Queues (R193 to R203) -/

/-- A QCB's fields. -/
structure Qcb where
  loc : Nat
  log2es : Nat
  log2cap : Nat
  data : Nat
  head : Nat
  tail : Nat
  free : Nat
  putw : Nat
  getw : Nat
  ok : Bool
  deriving DecidableEq, Repr

def Qcb.es (q : Qcb) : Nat := 2 ^ (q.log2es + 3)
def Qcb.cap (q : Qcb) : Nat := 2 ^ q.log2cap
def Qcb.count (q : Qcb) : Nat := (q.tail + 2 ^ 64 - q.head) % 2 ^ 64

/-- Reading a QCB with the checks of R194. -/
def State.qcb (s : State) (loc : Nat) : Qcb :=
  let w0 := s.rd loc
  let q : Qcb :=
    { loc, log2es := bits w0 40 8, log2cap := bits w0 48 8, data := (s.rd (loc + 8)).toNat, head := (s.rd (loc + 16)).toNat,
      tail := (s.rd (loc + 24)).toNat, free := bits (s.rd (loc + 32)) 0 32, putw := bits (s.rd (loc + 32)) 32 16,
      getw := bits (s.rd (loc + 32)) 48 16, ok := true }
  let home := bits (s.rd (loc + 40)) 0 8
  let ok := bits w0 0 32 == 0x51430001 && bits w0 32 8 == 1 && decide (q.log2es ≤ 5) && decide (q.log2cap ≤ 24) && bits w0 56 8 == 1
    && q.data % q.es == 0 && home == (homeOf loc).val
    && decide (q.data / 2 ^ 36 = home ∧ q.data % 2 ^ 36 + q.cap * q.es ≤ Config.dramBytes home)
    && decide (q.count ≤ q.cap ∧ q.free = q.cap - q.count)
  { q with ok }

/-- Location of slot `k` of a queue. -/
def Qcb.slot (q : Qcb) (k : Nat) : Nat := q.data + k % q.cap * q.es

/-- Bytes of `n` elements from slot `k`, lost ones as none. -/
def State.qread (s : State) (q : Qcb) (k : Nat) : Nat → List (Option Byte)
  | 0 => []
  | n + 1 => (upFrom (q.slot k) q.es).map s.homeByte ++ s.qread q (k + 1) n

def State.qwrite (s : State) (q : Qcb) (who : Requester) (k : Nat) : Nat → List Byte → State
  | 0, _ => s
  | n + 1, bs =>
    let (s, m) := s.performWrite (q.slot k) (bs.take q.es ++ List.replicate (q.es - (bs.take q.es).length) 0) who
    (s.creditPerf who m false).qwrite q who (k + 1) n (bs.drop q.es)

/-- HEAD, TAIL and FREE after a change. -/
def State.qput (s : State) (q : Qcb) (who : Requester) (head tail free : Nat) : State :=
  let (s, m) := s.performWrite (q.loc + 16) (w64 (word head) ++ w64 (word tail) ++ bytesOf 4 free) who
  s.creditPerf who m false

/-! ### A request performed (R183, R203) -/

/-- Who asks. -/
structure Asker where
  die : DieId
  slot : SlotNo
  strand : Word
  deriving DecidableEq, Repr

def Asker.who (a : Asker) : Requester := .slot a.die a.slot

/-- `n` bytes at home as a number, and the first that is lost. (DESIGN CHOICE, log 30) -/
def State.homeNum (s : State) (loc n : Nat) : Nat × Option Nat :=
  let bs := (upFrom loc n).map fun a => if isDevice a then some (s.devByte a) else s.homeByte a
  (numOf bs, if anyLost bs then some (firstLost bs) else none)

/-- A write of `n` bytes for a requester, with its PERF. (DESIGN CHOICE, log 30) -/
def State.homeWrite (s : State) (a : Asker) (loc n x : Nat) : State :=
  if isDevice loc then s.devWrite loc (bytesOf n x) else s.writeHome loc (bytesOf n x) a.who

/-- A request that must wait: registered, or refused (R175, R199). -/
def State.mustWait (s : State) (a : Asker) (what : WaitFor) (put : Bool) (loc : Nat) : State × Answer :=
  let (s, ok) := s.addWaiter ⟨what, put, loc, a.die, a.strand⟩
  (s, if ok then .wait else .nack)

/-- Data of a number as an answer; an access that meets lost data leaves the word unchanged (R168). -/
def ansV (x : Nat) : Answer := .value (word x) 0 none
def ansLost (k : Nat) : Answer := .value (BitVec.allOnes 64) 0 (some k)

/-- Setting a reservation (R178, R356): a full table loses its least recently set entry. -/
def State.reserve (s : State) (a : Asker) (loc : Nat) : State :=
  let home := homeOf loc
  let s := allDies.foldl (fun s d => s.mapDie d fun x =>
    { x with resv := x.resv.filter fun r => !(r.die == a.die && r.slot == a.slot) }) s
  let full := (s.die home).resv.filter fun r => s.slice r.sector == s.slice loc
  let s := if full.length < Config.reservations then s else s.dropResv (full.getLast?.toList)
  s.mapDie home fun d => { d with resv := ⟨sectorOf loc, a.die, a.slot⟩ :: d.resv }

/-- An enqueue of the bytes `e` (R196, R197). -/
def State.homePut (s : State) (a : Asker) (loc : Nat) (e : List Byte) (nb : Bool) : State × Answer :=
  let q := s.qcb loc
  if !q.ok then (s, .trap cQCB_CORRUPT)
  else
    let n := (e.length + q.es - 1) / q.es
    if q.cap < n then (s, .trap cACCESS)
    else if n = 0 then (s, .bytes [] 0 false)
    else if q.cap - q.count < n then (if nb then (s, .bytes [] 0 false) else s.mustWait a .queue true loc)
    else
      let s := s.qwrite q a.who q.tail n e
      let s := s.qput q a.who q.head (q.tail + n) (q.free - n)
      ((s.wake loc fun w => w.what == .queue && !w.put), .bytes [] n false)

/-- A dequeue of `bytes` bytes (R196, R197); one element when `bytes` is 0 is asked as its first 8 bytes. -/
def State.homeGet (s : State) (a : Asker) (loc bytes : Nat) (nb : Bool) : State × Answer :=
  let q := s.qcb loc
  if !q.ok then (s, .trap cQCB_CORRUPT)
  else
    let n := (bytes + q.es - 1) / q.es
    if q.cap < n then (s, .trap cACCESS)
    else if n = 0 then (s, .bytes [] 0 false)
    else if q.count < n then (if nb then (s, .bytes [] 0 false) else s.mustWait a .queue false loc)
    else
      let bs := (s.qread q q.head n).take bytes
      let s := s.qput q a.who (q.head + n) q.tail (q.free + n)
      ((s.wake loc fun w => w.what == .queue && w.put), .bytes (bs.map unlost) n (anyLost bs))

/-- R201: the snapshot word. -/
def Qcb.snapshot (q : Qcb) : Nat :=
  if !q.ok then 2 ^ 63 else q.getw * 2 ^ 41 + q.putw * 2 ^ 25 + q.count

/-- The bytes `qinit` writes (R193). -/
def qinitBytes (loc data log2es log2cap : Nat) : List Byte :=
  bytesOf 4 0x51430001 ++ [1, BitVec.ofNat 8 log2es, BitVec.ofNat 8 log2cap, 1] ++ bytesOf 8 data ++ bytesOf 16 0
    ++ bytesOf 4 (2 ^ log2cap) ++ bytesOf 4 0 ++ [BitVec.ofNat 8 (homeOf loc).val] ++ bytesOf 23 0

/-- Flags of `rred.fadd` are counted at the home die (R181). -/
def State.rredFlag (s : State) (loc : Nat) (f : BitVec 6) : State := if f = 0 then s else s.count (homeOf loc) 0 0 12 1

/-- One request performed at the home of its location. (DESIGN CHOICE, log 30) (DEDUCED, log 82) -/
def State.performHome (s : State) (a : Asker) (loc : Nat) (op : HomeOp) : State × Answer :=
  match op with
  | .load n =>
    let (x, l) := s.homeNum loc n
    (s, .value (word x) 0 l)
  | .lr n =>
    let (x, l) := s.homeNum loc n
    (s.reserve a loc, .value (word x) 0 l)
  | .sc n x =>
    let stands := (s.die (homeOf loc)).resv.any fun r => r.die == a.die && r.slot == a.slot && r.sector == sectorOf loc
    let s := allDies.foldl (fun s d => s.mapDie d fun q => { q with resv := q.resv.filter fun r => !(r.die == a.die && r.slot == a.slot) }) s
    if stands then (s.homeWrite a loc n x.toNat, ansV 0) else (s, ansV 1)
  | .cas n cmp new =>
    let (old, l) := s.homeNum loc n
    match l with
    | some k => (s, ansLost k)
    | none => if old = cmp.toNat % 2 ^ (8 * n) then (s.homeWrite a loc n new.toNat, ansV old) else (s, ansV old)
  | .amo o n x =>
    let (old, l) := s.homeNum loc n
    match l with
    | some k => (s, ansLost k)
    | none =>
      let (v, f) := o.apply n old x.toNat
      (s.homeWrite a loc n v, .value (word old) f none)
  | .rred o n x =>
    let (old, l) := s.homeNum loc n
    match l with
    | some k => (s, ansLost k)
    | none =>
      let (v, f) := o.apply n old x.toNat
      ((s.homeWrite a loc n v).rredFlag loc f, ansV 0)
  | .ldFe =>
    if s.isEmpty loc then s.mustWait a .fullEmpty false loc
    else
      let (x, l) := s.homeNum loc 8
      match l with
      | some k => (s, ansLost k)
      | none => ((s.setEmpty loc true).wake loc (fun w => w.what == .fullEmpty), ansV x)
  | .ldFf =>
    if s.isEmpty loc then s.mustWait a .fullEmpty false loc
    else
      let (x, l) := s.homeNum loc 8
      (s, match l with | some k => ansLost k | none => ansV x)
  | .stFe x =>
    if !s.isEmpty loc then s.mustWait a .fullEmpty false loc
    else
      if (s.homeNum loc 8).2.isSome then (s, ansV 0)
      else (((s.homeWrite a loc 8 x.toNat).setEmpty loc false).wake loc (fun w => w.what == .fullEmpty), ansV 0)
  | .feSet =>
    let woken := s.isEmpty loc
    let s := s.setEmpty loc false
    (if woken then s.wake loc (fun w => w.what == .fullEmpty) else s, ansV 0)
  | .feClr =>
    let woken := !s.isEmpty loc
    let s := s.setEmpty loc true
    (if woken then s.wake loc (fun w => w.what == .fullEmpty) else s, ansV 0)
  | .binit x =>
    let rl := word (x.toNat % 2 ^ 61)
    let b := Bar.ofWord (s.rd loc)
    let st : Bar := { Bar.ofWord rl with phase := b.phase, status := 0 }
    let (s, m) := s.performWrite loc (w64 st.word ++ w64 rl) a.who
    (s.creditPerf a.who m false, ansV 0)
  | .bpost b =>
    let w := Bar.ofWord (s.rd loc)
    if 2 ^ 40 ≤ b.toNat ∨ 2 ^ 40 ≤ w.bytes + b.toNat then (s, .trap cOVERPOST)
    else if b = 0 then (s, ansV 0)
    else
      let (s, m) := s.putBar loc { w with bytes := w.bytes + b.toNat } a.who false
      (s.creditPerf a.who m false, ansV 0)
  | .barr =>
    let b := Bar.ofWord (s.rd loc)
    let rl := Bar.ofWord (s.rd (loc + 8))
    let (b, done) := if b.arr = 0 then ({ b with status := max b.status 1 }, false) else ({ b with arr := b.arr - 1 } : Bar).settle rl
    let (s, m) := s.putBar loc b a.who done
    (s.creditPerf a.who m false, ansV 0)
  | .bwait phase expired =>
    let b := Bar.ofWord (s.rd loc)
    let res := (if b.phase then 2 ^ 63 else 0) + b.status * 2 ^ 61
    if b.phase ≠ phase then (s, ansV res)
    else if expired then (s, ansV (res + 1))
    else s.mustWait a .barrier false loc
  | .put e nb => s.homePut a loc e nb
  | .get n nb => s.homeGet a loc n nb
  | .qstat => (s, ansV (s.qcb loc).snapshot)
  | .qinit data es cap =>
    let (s, m) := s.performWrite loc (qinitBytes loc data es cap) a.who
    let s := s.creditPerf a.who m false
    (s.wake loc (fun w => w.what == .queue), ansV 0)

end Sys2Proof.Machine
end

