-- ==== Sys2Proof/Machine/Ops.lean ====
section
/-! DEFINITION. The operations that the meanings share: taking a trap and returning from one (R43, R407 to
R411, R152), the PC and the exit from a region (R142), the held rule (R25), checked accesses (R162 to R168),
requests to a home (R167, R183), releases (R165, R346). -/

namespace Sys2Proof.Machine

/-! ### Taking an exception and returning from one -/

def Trap.of (code : BitVec 8) (tval : Word) : Trap := ⟨code, tval, false, 0⟩
/-- ILLEGAL and ILLFORMED carry the instruction word (R87). -/
def Ctx.illegal (c : Ctx) : Trap := .of cILLEGAL (c.iword.setWidth 64)
def Ctx.illformed (c : Ctx) : Trap := .of cILLFORMED (c.iword.setWidth 64)

/-- EPC of a trap: the PC of the instruction, or of the next one. (DEDUCED, log 7) -/
def Ctx.epcOf (c : Ctx) (t : Trap) : BitVec 56 := (c.pc + word t.skip).setWidth 56
/-- CAUSE of a trap: SPL, ELEM, HELD, CODE (R42). -/
def Ctx.causeOf (c : Ctx) (t : Trap) (held : Bool) : BitVec 11 :=
  BitVec.ofNat 11 ((if c.level = .system then 1024 else 0) + (if t.elem then 512 else 0) + (if held then 256 else 0) + t.code.toNat)

/-- A chunk whose trap is taken: no trap is held any more, and one more handler is under way (R31, R142). -/
def Chunk.handles (k : Chunk) : Chunk := { k with held := none, traps := k.traps + 1 }
/-- R43: EPC, CAUSE and TVAL are written, the level becomes system, the PC is TVEC. The flags of elements performed before
a trap between elements stand (R230); LATE is taken once (R400); a held trap is held no longer. -/
def Ctx.enter (c : Ctx) (t : Trap) (held : Bool) : Ctx :=
  let c := ({ c with chunk := c.chunk.map Chunk.handles } : Ctx).flushPart
  let late := t.code == cLATE
  { c with latem := c.latem && !late, latet := c.latet || late, granted := false, epc := c.epcOf t, cause := c.causeOf t held, tval := t.tval, level := .system, pc := c.ctl.tvec.setWidth 64,
           wait := none, sent := none, answer := none, lines := [], wend := none, nowatch := false, stood := none,
           stepDue := false, step := c.step && !(t.code == cBRK && t.tval == 0x800) }

/-- R423: does a trap halt the strand for the debugger? -/
def State.haltsOn (s : State) (t : Trap) : Bool :=
  s.me.level == .strand && s.debugged s.me && bitAt (s.die s.me.die).regs.dbgctl 2 && (t.code == cBRK || t.code == cWATCH)

/-- R423: the strand leaves its slot HALTED; the record's PC is EPC. -/
def State.halt (s : State) (t : Trap) (held : Bool) : State :=
  let c := s.me
  let regs := (((c.epcOf t).setWidth 64 : Word), ((c.causeOf t held).setWidth 64 : Word), t.tval)
  s.suspend false none
    (fun c => { c with pc := (c.epcOf t).setWidth 64, step := c.step && !(t.code == cBRK && t.tval == 0x800), stepDue := false })
    rsHALTED 6 t.code.toNat (some regs) false (fun w s => (s.keepHalted c.die w).post ⟨c.die, .dbg⟩ 0x80 c.die 0 0 c.strand (t.code.setWidth 64) [])

/-- The TAG of the job that encloses a strand's launch (R376). -/
def State.strandTag (s : State) (header : Nat) : Word :=
  match s.liveOf header with
  | some (_, l) => s.tagOf l.graph
  | none => 0

/-- R420: a stop that stands against the slot at strand level goes before a trap: the trap is not taken, and its instruction
executes again on resume. What elements of it have done stands (R229). -/
def State.stopFirst (s : State) : Bool := s.me.stopReq.isSome && s.me.level == .strand
def State.dropTrap (s : State) : State :=
  s.mapMe fun c => { (c.mapHeld none).flushPart with sent := none, answer := none, lines := [], granted := false }

/-- Taking a trap in the slot `me`, not speculative: double fault (R410), halt (R423), or entry (R43) after
speculation ends (R31), the chunk has committed what it holds (R25), what it waited for is given up (R167), and the reservation is
lost (R178). A stop goes first (R420). -/
def State.takeTrap (s : State) (t : Trap) (held : Bool) : State :=
  let c := s.me
  if s.stopFirst then s.dropTrap
  else if c.level = .system ∧ c.epcOf t = c.ctl.tvec then
    let q := s.quiesce false
    if q.me.drained && q.me.ilk.isEmpty && q.alone && q.settled .mask 0xFFFF then
      ((q.count c.die 0 0 2 1).post ⟨c.die, .job⟩ 0x82 c.die (s.strandTag c.header) 0 c.strand 0 []).stopCancelled
    else q
  else if s.haltsOn t then s.halt t held
  else
    (s.endSpeculation s.me).afterDrain fun s =>
      let s := (s.leaveWait.clearResv s.me).count c.die 6 0 11 (if t.code = cLATE then 1 else 0)
      s.mapMe fun c => c.enter t held

/-- A trap raised by an instruction: held in a speculative chunk (R27), else taken. -/
def State.trap (s : State) (t : Trap) : State :=
  if s.me.speculative then s.mapMe fun c => { c with chunk := c.chunk.map fun k => { k with held := some t } }
  else s.takeTrap t false

/-- R401: a marked strand takes LATE at an instruction boundary at strand level, in its oldest chunk. -/
def Ctx.lateDue (c : Ctx) : Bool :=
  c.latem && !c.latet && c.level == .strand && !c.speculative && c.answer.isNone && c.part.isNone && !c.ending
/-- R401: a strand marked for LATE takes it. -/
def State.takeLate (s : State) : State := s.takeTrap (.of cLATE s.me.deadline) false

/-- A stop of the slot `me` (R412, R413): cancellation 7, halt 6, pre-emption 2, or the end of its quantum 1 (R392). A pre-emption
starts the count of a time limit afresh (R394). A halt
that no trap makes writes the PC and a CAUSE and TVAL of 0 at 0x190 (R416, R423; DESIGN CHOICE, log 91). -/
def State.stopNow (s : State) (code : Nat) : State :=
  if code = 7 then s.stopCancelled
  else if code = 6 then
    let c := s.me
    s.suspend false (some 6) id rsHALTED 6 0 (some (word (c.pc.toNat % 2 ^ 56), 0, 0)) false (fun w s => (s.keepHalted c.die w).post ⟨c.die, .dbg⟩ 0x80 c.die 0 0 c.strand 0 [])
  else
    let d := s.me.die
    s.suspend false (some (BitVec.ofNat 4 code)) (fun c => { c with wend := none }) rsREADY 2 0 none false (fun w s => s.makeReady d { w with sliced := code == 1 })

/-- Claiming slots for a region (R20, R325): the CLAIM starts round the ring, or the claim is over at once. (DEDUCED, log 49) -/
def State.claim (s : State) (r : Region) : State :=
  let c := s.me
  let none? := !c.ctl.forkctl.getLsbD 0 || c.level == .system || c.step || r.c == 0 || c.ctl.forkctl.toNat / 2 == 0
  let r := { r with slots := [c.slot], claimed := none? }
  let s := s.mapRegion r.strand fun _ => r
  if none? then s else s.send (c.rill 0 (.claim 1 (c.ctl.forkctl.toNat / 2)))

/-- R152: the level becomes CAUSE.SPL and the PC EPC; a WATCH return suppresses matching (R421); in a region
the strand resumes as the oldest chunk and claims anew (R31), once the slots of its squashed chunks are free (DEDUCED, log 51). -/
def State.eret (s : State) : State :=
  let c := s.me
  if !s.alone then s else
  let s := s.mapMe fun c =>
    { c with level := if c.cause.getLsbD 10 then .system else .strand, pc := c.epc.setWidth 64,
             chunk := c.chunk.map fun k => { k with traps := if c.cause.getLsbD 10 then k.traps - 1 else 0 },
             nowatch := c.cause.toNat % 256 == cWATCH.toNat, stopTick := if c.cause.getLsbD 10 then c.stopTick else c.stopReq.map fun _ => s.tick }
  match c.regionOf s with
  | some r => s.claim r
  | none => s

/-! ### The PC (R139 to R142) -/

/-- A control transfer to `pc` with a new call depth: outside the body at depth 0 the chunk is final (R142), but not in a
trap handler (R31). (DEDUCED, log 7, 100) -/
def State.transfer (s : State) (pc : Word) (depth : BitVec 16) : State :=
  let r := s.me.regionOf s
  s.mapMe fun c =>
    match c.chunk, r with
    | some k, some r =>
      if k.traps = 0 ∧ depth = 0 ∧ ¬ (r.head.toNat ≤ pc.toNat ∧ pc.toNat < r.exit.toNat) then
        { c with pc, chunk := some { k with depth, final := true, ended := true } }
      else { c with pc, chunk := some { k with depth } }
    | _, _ => { c with pc }

/-- Does the slot run the handler of a trap that the oldest chunk of a region took (R31, R142)? (DEDUCED, log 100) -/
def Ctx.inHandler (c : Ctx) : Bool := c.chunk.any fun k => decide (k.traps ≠ 0)
def Ctx.depth (c : Ctx) : BitVec 16 := match c.chunk with | some k => k.depth | none => 0
/-- A transfer that leaves the depth as it is. -/
def State.goto (s : State) (pc : Word) : State := s.transfer pc s.me.depth
/-- The next word, `n` bytes on. -/
def State.advance (s : State) (n : Nat) : State :=
  let s := s.mapMe fun c => { c with wait := none, sent := none, answer := none, lines := [], wend := none, nowatch := false, granted := false, stood := none, stepDue := c.step && c.level == .strand }
  s.goto (s.me.pc + word n)
/-- Completion of a 32-bit instruction. -/
def State.done4 (s : State) : State := s.advance 4
/-- Completion with a jump: the same marks as `advance`. -/
def State.jump (s : State) (pc : Word) (depth : BitVec 16) : State :=
  let s := s.mapMe fun c => { c with nowatch := false, granted := false, stepDue := c.step && c.level == .strand }
  s.transfer pc depth

/-- R142: the depth after a `jl` or `jlr` that writes a link, or after one that does not. -/
def State.callTo (s : State) (link : Bool) (isReg : Bool) (pc : Word) : State :=
  let d := s.me.depth
  if s.me.chunk.isNone || s.me.inHandler then s.jump pc d
  else if link then
    if d.toNat = 65535 then
      (s.jump pc d).mapMe fun c => { c with chunk := c.chunk.map fun k => { k with final := true, ended := true } }
    else s.jump pc (d + 1)
  else if isReg ∧ d ≠ 0 then s.jump pc (d - 1)
  else s.jump pc d

/-! ### The held rule (R25) -/

/-- An instruction held until its chunk is oldest; the oldest chunk first commits what it holds, sector by sector. (DESIGN CHOICE, log 29) (DEDUCED, log 83) -/
def State.held (s : State) (f : State → State) : State :=
  match s.me.chunk with
  | none => f s
  | some k => if k.oldest then s.afterDrain f else s

/-! ### Checked accesses -/

/-- An address with its window made absolute and its private offset made global: the form of the ranges in the interlock table
(R209, R419). (DEDUCED, log 21) -/
def Ctx.flat (c : Ctx) (va : Word) : Nat :=
  let a := va.toNat
  if a / 2 ^ 55 ≠ 1 then a
  else if a / 2 ^ 54 % 2 = 0 then
    if a / 2 ^ 53 % 2 = 0 then a
    else 2 ^ 55 + (c.die.val + a / 2 ^ 49 % 16) % 16 * 2 ^ 49 + (ringOf c.slot + a / 2 ^ 46 % 8) % 8 * 2 ^ 46 + a % 2 ^ 21
  else if a / 2 ^ 53 % 2 = 1 then privBase c.ctl.privbase + a % 2 ^ 32
  else a

/-- The location that an address names for the slot `me` (R291), if any. (DEDUCED, log 21) -/
def State.locOf (s : State) (a : Nat) : Option Nat :=
  match s.nameOf s.me .r 2 (word a) with
  | .ok (.tile p) => some p.loc
  | .ok (.global g) =>
    match s.pageOf s.me.die (some s.me.slot) .r s.me.ctl.ptroot.toNat g with
    | .ok p => some p.loc
    | .error _ => none
  | .error _ => none
/-- Does a range of an interlock entry hold one of `n` bytes from a location? Its pages lead to locations as those of the slot's
accesses do, so that every name of a byte counts (R209, R291). (DEDUCED, log 21) -/
def State.rangeMeets (s : State) (lo len loc n : Nat) : Bool :=
  decide (0 < len) && (upFrom (lo / 65536) ((lo + len - 1) / 65536 - lo / 65536 + 1)).any fun k =>
    let a := max lo (k * 65536)
    (s.locOf a).any fun l => overlaps loc n l (min (lo + len) ((k + 1) * 65536) - a)
/-- R209: does an access to a location have to wait for a transfer of its own strand? (DEDUCED, log 21) -/
def State.interlocked (s : State) (write : Bool) (loc n : Nat) : Bool :=
  s.mates.any fun c => c.ilk.any fun e => s.rangeMeets e.dst e.dlen loc n || s.rangeMeets e.edst e.edlen loc n
    || (write && (s.rangeMeets e.src e.slen loc n || s.rangeMeets e.esrc e.eslen loc n))

/-- R299, R308: an `rred` of the strand to the word is still on its way to its home, or a collapse of the line that a write of
the strand made is on its way to the strand's die, which may hold an older replica. -/
def State.rredBusy (s : State) (loc n : Nat) : Bool :=
  s.net.any fun p => match p with
    | .request _ _ _ st l (.rred _ m _) => st == s.me.strand && overlaps loc n l m
    | .collapse line d ws => d == s.me.die && overlaps loc n line 256 && ws.any fun w => s.mates.any fun c => w == .slot c.die c.slot
    | _ => false
/-- R171, R300: accesses to device space and DEV pages are performed in program order: a store of the strand's to such a page
is pending still, or a store of the die to the same bytes is, or an `rred` of the strand is on its way to such a page. -/
def State.devBusy (s : State) (p : Place) (n : Nat) : Bool :=
  ((p.dev || isDevice p.loc) && (s.die s.me.die).pend.any fun q =>
    (q.dev && q.writers.any fun w => s.mates.any fun c => w == .slot c.die c.slot) || overlaps p.loc n q.sector 32)
  || ((p.dev || isDevice p.loc) && s.net.any fun q => match q with
    | .request id _ _ st _ (.rred _ _ _) => st == s.me.strand && s.mates.any fun c => c.rredDev.contains id
    | _ => false)

/-- What the checks of an access find. -/
inductive Look where
  | ok (p : Place)
  | trap (t : Trap)
  /-- Waits: a pending transfer, or a speculative access to a DEV or MIG page (R25). -/
  | stall
  /-- The oldest chunk commits what it holds before an access to a DEV or MIG page (R25). -/
  | commit
  /-- A capacity event (R28, R315). -/
  | full
  /-- The PTE has changed at its home: the translation is dropped and walked again (R368). -/
  | rewalk (e : TlbEntry)
  | migrate (d : DieId)
  deriving DecidableEq, Repr

/-- R33: a data access to a migrate page homed elsewhere moves a non-forked strand at strand level. -/
def State.migrates (s : State) (c : Ctx) (p : Place) : Bool :=
  p.mig && homeOf p.loc != c.die && c.chunk.isNone && c.level == .strand && classAllows (s.nodeClass c.node) (homeOf p.loc)

/-- The lines of a range that a chunk would need a way for, in a set of its core's L1D whose ways are all pinned (R313, R315). (DESIGN CHOICE, log 19) -/
def State.setFull (s : State) (c : Ctx) (k : Chunk) (loc n : Nat) : Bool :=
  let need := [lineOf loc, lineOf (loc + n - 1)].filter fun l => !k.pinned.contains l
  !need.isEmpty &&
    let held := s.pinnedOn c.die (c.slot.val / 4)
    need.any fun l => decide (Config.l1Ways ≤ (held.filter fun h => l1Set h == l1Set l).length)
/-- R315: the commit list cannot take the sectors of a store. (DESIGN CHOICE, log 19) -/
def Chunk.listFull (k : Chunk) (loc n : Nat) : Bool :=
  decide (Config.commitEntries < k.commit.length + ((sectorsOf loc n).filter fun q => !k.commit.contains q).length)
/-- R28, R315: is a plain access of the slot's chunk a capacity event? A chunk that has stalled stays so until it is oldest; then it
passes the weir. (DESIGN CHOICE, log 19) -/
def State.overCapacity (s : State) (c : Ctx) (write : Bool) (loc n : Nat) : Bool :=
  match c.chunk with
  | some k => k.spec && !isDevice loc && (k.cap || (write && k.listFull loc n) || s.setFull c k loc n)
  | none => false

/-- The hold of an access, if one stands against it: an interlock, program order on a DEV page, R25, a changed PTE, capacity. -/
def State.hold? (s : State) (k : AccessKind) (spaces n : Nat) (p : Place) : Option Look :=
  let c := s.me
  if s.interlocked k.writes p.loc n || s.rredBusy p.loc n || s.devBusy p n then some .stall
  else if c.chunk.isSome && (p.dev || p.mig) && (c.speculative || !c.drained) then some (if c.speculative then .stall else .commit)
  else
    match p.pte.filter fun e => s.pteStale e k.writes with
    | some e => some (.rewalk e)
    | none => if spaces == 2 && k != .rw && s.overCapacity c k.writes p.loc n then some .full else none

/-- The checks of one access, in order: watchpoint, address, hold, migration. -/
def State.look (s : State) (k : AccessKind) (spaces : Nat) (va : Word) (n : Nat) : Look :=
  let c := s.me
  if s.watch c k.rwx va.toNat n then .trap (.of cWATCH va)
  else
    match s.placeOf c k spaces va with
    | .error f => .trap (.of f va)
    | .ok p =>
      match s.hold? k spaces n p with
      | some h => h
      | none => if s.migrates c p then .migrate (homeOf p.loc) else .ok p

/-- R33 to R35: the strand leaves for another die and goes on there, `skip` bytes after the PC; a `hop` that is stepped completes so (R422). -/
def State.migrateTo (s : State) (d : DieId) (skip : Nat) : State :=
  let e := s.me.die
  s.suspend false none (fun c => { c with pc := c.pc + word skip, stepDue := c.stepDue || (c.step && skip != 0) }) rsMIGRATING 3 0 none false (fun w s => s.send (.migrate w e d))

/-- R34: an access to a migrate page performed remotely because the class is not allowed is counted. -/
def State.noteMig (s : State) (p : Place) : State :=
  if p.mig && homeOf p.loc != s.me.die && s.me.level == .strand && !classAllows (s.nodeClass s.me.node) (homeOf p.loc)
  then s.count s.me.die 0 0 11 1 else s

/-- Asking a remote home for a line (R293, R344); the slot waits for it. While stores of the die to the line are
pending nothing is asked, and the load waits (R296, R341). (DEDUCED, log 86) -/
def State.askLine (s : State) (p : Place) (line : Nat) : State :=
  if (s.die s.me.die).pend.any fun q => lineOf q.sector == line then s else
  let (id, s) := s.take
  let s := s.send (.read id s.me.die s.me.slot line p.hint .load)
  s.mapMe fun c => { c with sent := some id }

/-- A and D of an access that is performed now, or when its chunk passes the weir (R368). -/
def State.markAccess (s : State) (p : Place) (write : Bool) : State :=
  match p.pte with
  | none => s
  | some e =>
    if !e.unmarked write then s
    else
      match s.me.chunk with
      | some k =>
        if k.spec then
          s.mapMe fun c => { c with chunk := some { k with marks := if k.marks.contains (e, write) then k.marks else k.marks ++ [(e, write)] } }
        else s.markAD s.me.die p write
      | none => s.markAD s.me.die p write

/-- The oldest chunk squashes its younger chunks: an acquire or a fence under memory (R298), a held `ctlw` under value (R26). They are
squashed as its SQUASH reaches their cores (R322). (DEDUCED, log 51) -/
def State.squashYounger (s : State) (cause : SquashCause) : State :=
  match s.me.chunk with
  | none => s
  | some k =>
    if (s.chunkCtxs s.me.strand).any fun o => o.chunk.any fun q => k.j < q.j && !q.restart then
      (s.squashEvent s.me cause).send (s.me.rill k.j (.squash cause))
    else s

/-- Bytes of a performed load as the slot sees them; a DEV page is uncached, and read at its home (R171, R294). -/
def State.loadBytes (s : State) (p : Place) (n : Nat) : Got :=
  if isDevice p.loc then .data ((upFrom p.loc n).map fun a => some (s.devByte a))
  else if p.dev then .data ((upFrom p.loc n).map s.homeByte)
  else gatherBytes (s.seenByte s.me) p.loc n

/-- R314: the sectors that a load looks up and for which an older chunk of the region gives a byte. -/
def State.lookups (s : State) (c : Ctx) (k : Chunk) (loc n : Nat) : Nat :=
  if s.ringed c.strand then
    (((upFrom loc n).filter fun a => (cellGet k.wr a).isNone && (cellGet k.valid a).isNone).map sectorOf).eraseDups.foldl (fun m q =>
      m + if (upFrom q 32).any fun a => (cellGet k.wr a).isNone && (cellGet k.valid a).isNone && (s.olderByte c.strand a 8 k.j).isSome then 1 else 0) 0
  else 0

/-- Where the entries lie that a walk for an address reads, from a level and a node down (R365). -/
def State.entriesRead (s : State) (d : DieId) (root va : Nat) : Nat → Nat → List Nat
  | 0, _ => []
  | level + 1, node =>
    let loc := node + 8 * (va / 2 ^ leafLog (level + 1) % 8192)
    let p := (walkFind (s.die d).walks root (level + 1) va).getD (s.walkRead d loc)
    (if (walkFind (s.die d).walks root (level + 1) va).isSome then [] else [loc])
      ++ if (s.entryFault .r (level + 1) p).isSome ∨ ptePs p ≠ 0 then [] else s.entriesRead d root va level (ptePa p)
/-- The entries that an access of the slot `me` has walked through; none where a TLB held its translation. (DESIGN CHOICE, log 62) -/
def State.walkReads (s : State) (p : Place) : List Nat :=
  match p.pte with
  | none => []
  | some e => if (tlbFind (s.die s.me.die).tlb (some s.me.slot) e.root e.va).isSome then [] else s.entriesRead s.me.die e.root e.va 3 e.root
/-- The packets of an access and its walk to the die's own slices past the strand's deadline, which may be arbitrated late (R400). (DESIGN CHOICE, log 62) -/
def State.noteDue (s : State) (p : Place) : State :=
  let n := ((p.loc :: (s.walkReads p)).filter fun l => homeOf l == s.me.die).length
  if s.me.deadline.toNat < s.tick then s.mapMe fun c => { c with overdue := c.overdue + n } else s

/-- A speculative copy of a tile-store line of another ring or die sets its REMOTE bit (R333). -/
def State.setRemote (s : State) (loc : Nat) : State :=
  if isTile loc ∧ (homeOf loc ≠ s.me.die ∨ (loc - tileBase) % 2 ^ 24 / 2 ^ 21 ≠ ringOf s.me.slot) then
    s.mapDie (homeOf loc) fun d => { d with remote := natAdd (lineOf loc) d.remote }
  else s

/-- What a read by a chunk that versions its lines leaves in its L1D (R314, R333): ER and VALID, a lookup, REMOTE. -/
def State.noteSpec (s : State) (loc n : Nat) : State :=
  match s.me.chunk with
  | some k =>
    if k.spec && !isDevice loc then
      let s := (s.count s.me.die 1 (ringOf s.me.slot) 8 (s.lookups s.me k loc n)).setRemote loc
      s.mapMe fun c => { c with chunk := some (s.noteRead s.me k loc n) }
    else s
  | none => s
/-- A load takes its line from the slice of its die that holds it, and its core's L1D a copy (R339, R340). -/
def State.useLine (s : State) (p : Place) : State :=
  let d := s.me.die
  if isDram p.loc && !p.dev && (s.die d).holds d (lineOf p.loc) then s.touch d (lineOf p.loc) 0 (some (s.me.slot.val / 4)) else s
/-- What a load leaves behind: A, ER and VALID, a replica hit, a lookup, a copy in the L1D. -/
def State.noteLoad (s : State) (p : Place) (bs : List (Option Byte)) : State :=
  let s := ((s.noteDue p).markAccess p false).noteMig p
  let s := if !p.dev ∧ homeOf p.loc ≠ s.me.die ∧ !isTile p.loc ∧ (lineByte (s.die s.me.die).replicas p.loc).isSome then s.count s.me.die 4 0 0 1 else s
  (s.noteSpec p.loc bs.length).useLine p

/-- R4, R408: lost data sets DATA_LOST; true when the launch makes it a trap. -/
def State.noteLost (s : State) (bs : List (Option Byte)) : State × Bool :=
  if anyLost bs then ((s.orFlags flagDL).count s.me.die 8 0 16 1, s.dltrap s.me) else (s, false)

/-- R28, R315: a capacity event: counted once for each access that stalls; an oldest chunk passes the weir. -/
def State.capacityEvent (s : State) : State :=
  match s.me.chunk with
  | none => s
  | some k =>
    let s := if k.cap then s else (s.count s.me.die 1 (ringOf s.me.slot) 3 1).mapMe fun c => { c with chunk := some { k with cap := true } }
    if k.oldest then s.drainStep s.me else s

/-- What a look leads to when the access cannot be performed now. Lines brought before a wait are read anew after it (R299, R306). -/
def State.refuse (s : State) : Look → State
  | .trap t => s.trap t
  | .migrate d => s.migrateTo d 0
  | .commit => s.drainStep s.me
  | .full => s.capacityEvent
  | .rewalk e => s.dropEntry s.me.die e
  | .stall => s.mapMe fun c => { c with lines := [] }
  | .ok _ => s

/-- A plain load of `n` aligned bytes: checks, data, then `f` with the value. -/
def State.load (s : State) (va : Word) (n spaces : Nat) (f : State → Nat → State) : State :=
  if va.toNat % n ≠ 0 then s.trap (.of cMISALIGN va)
  else
    match s.look .r spaces va n with
    | .ok p =>
      match s.loadBytes p n with
      | .need l => s.askLine p l
      | .data bs =>
        let s := s.noteLoad p bs
        let (s, traps) := s.noteLost bs
        if traps then s.trap (.of cDATA_LOST_TRAP (va + word (firstLost bs))) else f s (numOf bs)
    | l => s.refuse l

/-- Storing performed bytes: versioned in a chunk, else into the shared cache; device registers at once. -/
def State.putBytes (s : State) (p : Place) (bs : List Byte) : State :=
  let c := s.me
  let s := s.noteDue p
  if isDevice p.loc then s.devWrite p.loc bs
  else
    match c.chunk with
    | some k =>
      let s := if k.spec then s.mapMe fun c => { c with chunk := some (k.noteWrite p.loc bs) }
        else s.enterStore c.die p.loc bs (.slot c.die c.slot) (some c.strand) p.dev
      s.announce c k p.loc bs.length
    | none => s.enterStore c.die p.loc bs (.slot c.die c.slot) none p.dev

/-- Does the slot's chunk version its stores? -/
def Ctx.versioned (c : Ctx) : Bool := c.chunk.any fun k => k.spec
/-- Room for a store, now: in the pending-store table and the counts of R346, unless the chunk versions it. -/
def State.storeReady (s : State) (p : Place) (n : Nat) : Bool := s.me.versioned || s.storeRoom s.me p.loc n

/-- A plain store of `n` aligned bytes: checks, then the bytes, then `f`. -/
def State.store (s : State) (va : Word) (n spaces : Nat) (x : Nat) (f : State → State) : State :=
  if va.toNat % n ≠ 0 then s.trap (.of cMISALIGN va)
  else
    match s.look .w spaces va n with
    | .ok p =>
      if s.storeReady p n then f (((s.markAccess p true).noteMig p).putBytes p (bytesOf n x)) else s
    | l => s.refuse l

/-! ### Releases and acquires (R165, R346) -/

/-- Absent dies dropped from a mask are counted (R42). -/
def State.countDropped (s : State) (m : BitVec 16) : State :=
  s.count s.me.die 4 0 10 (allDies.filter fun d => m.getLsbD d.val && !(s.die d).present).length

/-- A held instruction whose address is checked first (R87, R27), then held (R25). -/
def State.heldAt (s : State) (k : AccessKind) (align n spaces : Nat) (va : Word) (f : State → State) : State :=
  if va.toNat % align ≠ 0 then s.trap (.of cMISALIGN va)
  else if s.me.speculative then
    match s.look k spaces va n with
    | .trap t => s.trap t
    | _ => s
  else s.held f

/-- A release at a scope over DMASK before `f`; until then the instruction waits. (DEDUCED, log 83) -/
def State.release (s : State) (sc : Scope) (f : State → State) : State :=
  if s.settled sc s.me.dmask then f (if sc = .mask then s.countDropped s.me.dmask else s) else s
/-- A release at mask scope with mask 0xFFFF (R125). -/
def State.releaseAll (s : State) (f : State → State) : State := if s.settled .mask 0xFFFF then f s else s
/-- R298: an acquire of the oldest chunk squashes younger chunks' early reads. -/
def State.acquire (s : State) : State := s.squashYounger .memory

/-- Writes of a transfer, or collapses of a lowering, that are not settled yet. -/
def State.unsettled (s : State) (id : Nat) : Bool :=
  s.net.any fun p => match p with
    | .collapse _ _ ws => ws.contains (.transfer id)
    | .cack _ (.transfer i) => i == id
    | .fill _ _ _ _ _ _ _ _ c => c.contains (.transfer id)
    | _ => false

/-! ### Requests to a home (R167, R175, R183) -/

def State.asker (s : State) : Asker := ⟨s.me.die, s.me.slot, s.me.strand⟩

/-- A wait begins or goes on: SPIN from its first tick. (DEDUCED, log 83) -/
def State.waitAt (s : State) (what : WaitFor) (loc t0 lim : Nat) (entry : Bool) (nack : Bool) : State :=
  let w := match s.me.wait with
    | some w => { w with entry, woken := false, nacks := if nack then w.nacks + 1 else 0, retryAt := s.tick + Config.nackTicks }
    | none => ⟨what, loc, s.tick, t0, lim, entry, if nack then 1 else 0, s.tick + Config.nackTicks, false⟩
  s.mapMe fun c => { c with wait := some w, wend := none }

/-- What a request of an instruction waits for, when its answer says so. -/
def HomeOp.waitFor : HomeOp → WaitFor
  | .put _ _ | .get _ _ => .queue
  | .bwait _ _ => .barrier
  | _ => .fullEmpty

/-- The end of a request: its answer handled, with `f` on a value. A wait starts SPIN; a refusal counts
towards FE_RETRY when the home is another die (R175, R199). -/
def State.answered (s : State) (va : Word) (loc : Nat) (op : HomeOp) (t0 lim : Nat) (a : Answer) (f : State → Answer → State) : State :=
  let s := s.mapMe fun c => { c with answer := none, sent := none }
  match a with
  | .trap code => s.trap (.of code va)
  | .wait => s.waitAt op.waitFor loc t0 lim true false
  | .nack =>
    let s := s.waitAt op.waitFor loc t0 lim false true
    if homeOf loc ≠ s.me.die ∧ Config.nackLimit ≤ (s.me.wait.map fun w => w.nacks).getD 0 ∧ op.waitFor ≠ .barrier then
      s.trap (.of cFE_RETRY va)
    else s
  | a => f s a

/-- R299: a store of the die to one of the sectors is not yet performed at home, so that a request must follow it. -/
def State.storePending (s : State) (loc n : Nat) : Bool :=
  (s.die s.me.die).pend.any fun q => (sectorsOf loc n).contains q.sector

/-- Does a request write its word (R368)? -/
def HomeOp.writes : HomeOp → Bool
  | .load _ | .lr _ | .ldFf | .bwait _ _ | .qstat => false
  | _ => true
/-- The writes that a request may be performed by: an enqueue writes each element and the QCB (R196). -/
def HomeOp.credits : HomeOp → Nat
  | .put e _ => e.length / 8 + 2
  | op => if op.writes then 1 else 0
/-- The counts of R346 that a request may add to: room for its writes. -/
def State.requestRoom (s : State) (op : HomeOp) : Bool := !op.writes || s.countRoom s.me.strand op.credits
/-- What a request does before it is performed or sent: A and D, MIGREFUSE (R34), lateness. -/
def State.noteRequest (s : State) (p : Place) (op : HomeOp) : State := ((s.noteDue p).markAccess p op.writes).noteMig p

/-- A request of the slot for `n` bytes at a location: performed at once when its home is the slot's die, else
sent; the die's replica of the line goes (R308). -/
def State.request (s : State) (va : Word) (p : Place) (n : Nat) (op : HomeOp) (t0 lim : Nat) (f : State → Answer → State) : State :=
  if !s.requestRoom op then s
  else if homeOf p.loc = s.me.die then
    let s := s.noteRequest p op
    let (s, a) := s.performHome s.asker p.loc op
    s.answered va p.loc op t0 lim a f
  else if s.storePending p.loc n then s
  else
    let (id, s) := (s.noteRequest p op).take
    let s := s.mapDie s.me.die fun d => { d with replicas := d.replicas.filter fun l => l.line != lineOf p.loc }
    let s := s.invalidateER s.me.die (lineOf p.loc) 256 none
    let s := s.send (.request id s.me.die s.me.slot s.me.strand p.loc op)
    s.mapMe fun c => { c with sent := some id, asked := s.tick }

/-- What stands before a request is made: nothing, or a release. -/
abbrev Before := Place → State → (State → State) → State
def noWait : Before := fun _ s f => f s

/-- A home operation on a global address: an answer that has come is used, else the address is checked, the
instruction held (R25), what stands `before` it waited for, and the request made. (DEDUCED, log 25) -/
def State.viaHome (s : State) (va : Word) (align n : Nat) (k : AccessKind) (op : HomeOp) (t0 lim : Nat) (before : Before)
    (f : State → Answer → State) : State :=
  match s.me.answer with
  | some a => s.answered va (match s.placeOf s.me k 0 va with | .ok p => p.loc | .error _ => 0) op t0 lim a f
  | none =>
    if va.toNat % align ≠ 0 then s.trap (.of cMISALIGN va)
    else
      match s.look k 0 va n with
      | .ok p => s.held fun s => before p s fun s => s.request va p n op t0 lim f
      | l => s.refuse l

/-- The value of an answer in a register: flags, DATA_LOST, the trap of R408 at the lowest lost byte where the instruction is a
load of its word, then `f`. -/
def State.withValue (s : State) (va : Word) (a : Answer) (f : State → Word → State) (loads : Bool := true) : State :=
  match a with
  | .value x fl lost =>
    let s := s.orFlags fl
    match lost with
    | some k =>
      let s := (s.orFlags flagDL).count s.me.die 8 0 16 1
      if loads && s.dltrap s.me then s.trap (.of cDATA_LOST_TRAP (va + word k)) else f s x
    | none => f s x
  | _ => f s 0

end Sys2Proof.Machine
end

