-- ==== Sys2Proof/Machine/Scalar.lean ====
section
/-! DEFINITION. Scalar integer instructions and the 16-bit forms (R90, R127 to R131). -/

namespace Sys2Proof.Machine

/-- A result in sd, and the next word. -/
def State.result (s : State) (d : SReg) (x : Word) : State := (s.setS d x).done4
def State.op2 (s : State) (d a b : SReg) (f : Word → Word → Word) : Res := .next (s.result d (f (s.getS a) (s.getS b)))
def State.op1 (s : State) (d a : SReg) (f : Word → Word) : Res := .next (s.result d (f (s.getS a)))

/-- 1 or 0. -/
def flag (b : Bool) : Word := if b then 1 else 0
/-- Shift amounts are b[5:0]. -/
def sh6 (b : Word) : Nat := b.toNat % 64
/-- The high 64 bits of an exact product. -/
def high (x : Int) : Word := BitVec.ofInt 64 (x / ((2 ^ 64 : Nat) : Int))

/-- R129: quotient and remainder, signed and unsigned. -/
def divq (a b : Word) : Word :=
  if b = 0 then BitVec.allOnes 64 else BitVec.ofInt 64 (a.toInt.tdiv b.toInt)
def divr (a b : Word) : Word :=
  if b = 0 then a else BitVec.ofInt 64 (a.toInt - b.toInt * a.toInt.tdiv b.toInt)
def divqn (a b : Word) : Word := if b = 0 then BitVec.allOnes 64 else word (a.toNat / b.toNat)
def divrn (a b : Word) : Word := if b = 0 then a else word (a.toNat % b.toNat)

/-- Counts of zero bits (R128). -/
def clz64 (x : Word) : Nat := if x = 0 then 64 else 63 - topBit x.toNat
def ctzFrom (x : Nat) : Nat → Nat
  | 0 => 0
  | n + 1 => if x % 2 = 1 then 0 else ctzFrom (x / 2) n + 1
def ctz64 (x : Word) : Nat := ctzFrom x.toNat 64
def popFrom (x : Nat) : Nat → Nat
  | 0 => 0
  | n + 1 => x % 2 + popFrom (x / 2) n
def pop64 (x : Word) : Nat := popFrom x.toNat 64
def bswap64 (x : Word) : Word := word (ofBytes (bytesOf 8 x.toNat).reverse)

/-- Immediates, sign-extended (R89). -/
def imm11 (i : BitVec 11) : Word := i.signExtend 64
def imm19 (i : BitVec 19) : Word := i.signExtend 64

/-- R128. -/
def execAdd (d a b : SReg) (s : State) : Res := s.op2 d a b fun a b => a + b
/-- R128. -/
def execSub (d a b : SReg) (s : State) : Res := s.op2 d a b fun a b => a - b
/-- R128. -/
def execAnd (d a b : SReg) (s : State) : Res := s.op2 d a b fun a b => a &&& b
/-- R128. -/
def execOr (d a b : SReg) (s : State) : Res := s.op2 d a b fun a b => a ||| b
/-- R128. -/
def execXor (d a b : SReg) (s : State) : Res := s.op2 d a b fun a b => a ^^^ b
/-- R128. -/
def execShl (d a b : SReg) (s : State) : Res := s.op2 d a b fun a b => a <<< sh6 b
/-- R128. -/
def execShr (d a b : SReg) (s : State) : Res := s.op2 d a b fun a b => a >>> sh6 b
/-- R128. -/
def execSra (d a b : SReg) (s : State) : Res := s.op2 d a b fun a b => a.sshiftRight (sh6 b)
/-- R128. -/
def execSlt (d a b : SReg) (s : State) : Res := s.op2 d a b fun a b => flag (decide (a.toInt < b.toInt))
/-- R128. -/
def execSltn (d a b : SReg) (s : State) : Res := s.op2 d a b fun a b => flag (decide (a.toNat < b.toNat))
/-- R128. -/
def execMin (d a b : SReg) (s : State) : Res := s.op2 d a b fun a b => if a.toInt ≤ b.toInt then a else b
/-- R128. -/
def execMax (d a b : SReg) (s : State) : Res := s.op2 d a b fun a b => if a.toInt ≤ b.toInt then b else a
/-- R128. -/
def execMinn (d a b : SReg) (s : State) : Res := s.op2 d a b fun a b => if a.toNat ≤ b.toNat then a else b
/-- R128. -/
def execMaxn (d a b : SReg) (s : State) : Res := s.op2 d a b fun a b => if a.toNat ≤ b.toNat then b else a
/-- R128. -/
def execMul (d a b : SReg) (s : State) : Res := s.op2 d a b fun a b => a * b
/-- R128. -/
def execMulh (d a b : SReg) (s : State) : Res := s.op2 d a b fun a b => high (a.toInt * b.toInt)
/-- R128. -/
def execMulhn (d a b : SReg) (s : State) : Res := s.op2 d a b fun a b => word (a.toNat * b.toNat / 2 ^ 64)
/-- R128. -/
def execMulhin (d a b : SReg) (s : State) : Res := s.op2 d a b fun a b => high (a.toInt * b.toNat)
/-- R129. -/
def execDiv (d a b : SReg) (s : State) : Res := s.op2 d a b fun a b => divq a b
/-- R129. -/
def execDivn (d a b : SReg) (s : State) : Res := s.op2 d a b fun a b => divqn a b
/-- R129. -/
def execRem (d a b : SReg) (s : State) : Res := s.op2 d a b fun a b => divr a b
/-- R129. -/
def execRemn (d a b : SReg) (s : State) : Res := s.op2 d a b fun a b => divrn a b
/-- R128. -/
def execClz (d a : SReg) (s : State) : Res := s.op1 d a fun a => word (clz64 a)
/-- R128. -/
def execCtz (d a : SReg) (s : State) : Res := s.op1 d a fun a => word (ctz64 a)
/-- R128. -/
def execPopc (d a : SReg) (s : State) : Res := s.op1 d a fun a => word (pop64 a)
/-- R128. -/
def execBswap (d a : SReg) (s : State) : Res := s.op1 d a fun a => bswap64 a
/-- R128: the low field sign-extended. -/
def execSext (d a : SReg) (z : Sz) (s : State) : Res := s.op1 d a fun a => sextN (8 * z.bytes) a.toNat
/-- R128: the low field zero-extended. -/
def execZext (d a : SReg) (z : Sz) (s : State) : Res := s.op1 d a fun a => word (a.toNat % 2 ^ (8 * z.bytes))
/-- R130. -/
def execAddi (d a : SReg) (i : BitVec 11) (s : State) : Res := s.op1 d a fun a => a + imm11 i
/-- R130. -/
def execAndi (d a : SReg) (i : BitVec 11) (s : State) : Res := s.op1 d a fun a => a &&& imm11 i
/-- R130. -/
def execOri (d a : SReg) (i : BitVec 11) (s : State) : Res := s.op1 d a fun a => a ||| imm11 i
/-- R130. -/
def execXori (d a : SReg) (i : BitVec 11) (s : State) : Res := s.op1 d a fun a => a ^^^ imm11 i
/-- R130. -/
def execSlti (d a : SReg) (i : BitVec 11) (s : State) : Res := s.op1 d a fun a => flag (decide (a.toInt < (imm11 i).toInt))
/-- R130. -/
def execSltni (d a : SReg) (i : BitVec 11) (s : State) : Res := s.op1 d a fun a => flag (decide (a.toNat < (imm11 i).toNat))
/-- R130. -/
def execShli (d a : SReg) (i : BitVec 6) (s : State) : Res := s.op1 d a fun a => a <<< i.toNat
/-- R130. -/
def execShri (d a : SReg) (i : BitVec 6) (s : State) : Res := s.op1 d a fun a => a >>> i.toNat
/-- R130. -/
def execSrai (d a : SReg) (i : BitVec 6) (s : State) : Res := s.op1 d a fun a => a.sshiftRight i.toNat
/-- R131. -/
def execLui (d : SReg) (i : BitVec 19) (s : State) : Res := .next (s.result d (imm19 i <<< (11 : Nat)))
/-- R131: PC is the address of the word. -/
def execPcadd (d : SReg) (i : BitVec 19) (s : State) : Res := .next (s.result d (s.me.pc + (imm19 i <<< (11 : Nat))))

/-- R90: as `add sd, s0, sa`, two bytes long. -/
def execCMov (d a : SReg) (s : State) : Res := .next ((s.setS d (s.getS a)).advance 2)
/-- R90. -/
def execCAdd (d a : SReg) (s : State) : Res := .next ((s.setS d (s.getS d + s.getS a)).advance 2)
/-- R90. -/
def execCAddi (d : SReg) (i : BitVec 5) (s : State) : Res := .next ((s.setS d (s.getS d + i.signExtend 64)).advance 2)
/-- R90: as `ld.d sd, @[sa+0]`. -/
def execCLd (d a : SReg) (s : State) : Res := .next (s.load (s.getS a) 8 2 fun s x => (s.setS d (word x)).advance 2)
/-- R90: as `st.d sb, @[sa+0]`. -/
def execCSt (a b : SReg) (s : State) : Res := .next (s.store (s.getS a) 8 2 (s.getS b).toNat fun s => s.advance 2)

/-- R137: a branch of an `n`-byte word by an offset in halfwords. -/
def State.branch (s : State) (taken : Bool) (off : Word) (n : Nat) : Res :=
  .next (if taken then s.jump (s.me.pc + (off <<< (1 : Nat))) s.me.depth else s.advance n)
/-- R90. -/
def execCBeqz (a : SReg) (o : BitVec 7) (s : State) : Res := s.branch (s.getS a == 0) (o.signExtend 64) 2
/-- R90. -/
def execCBnez (a : SReg) (o : BitVec 7) (s : State) : Res := s.branch (s.getS a != 0) (o.signExtend 64) 2
/-- R90: as `jl s0`. -/
def execCJ (o : BitVec 12) (s : State) : Res := .next (s.callTo false false (s.me.pc + (o.signExtend 64 <<< (1 : Nat))))

end Sys2Proof.Machine
end

