-- ==== Sys2Proof/Machine/Access.lean ====
section
/-! DEFINITION. Scalar loads and stores, acquire and release accesses, fences (R169 to R172, R184, R185). -/

namespace Sys2Proof.Machine

/-- R170: a load of `n` bytes at a + imm, extended into sd. -/
def State.ldOp (s : State) (d a : SReg) (i : BitVec 11) (n : Nat) (signed : Bool) : Res :=
  .next (s.load (s.getS a + imm11 i) n 2 fun s x => s.result d (if signed then sextN (8 * n) x else word x))
/-- R170: a store of the low `n` bytes of sb at a + imm. -/
def State.stOp (s : State) (a b : SReg) (i : BitVec 11) (n : Nat) : Res :=
  .next (s.store (s.getS a + imm11 i) n 2 (s.getS b).toNat fun s => s.done4)

/-- R170. -/
def execLdB (d a : SReg) (i : BitVec 11) (s : State) : Res := s.ldOp d a i 1 true
/-- R170. -/
def execLdH (d a : SReg) (i : BitVec 11) (s : State) : Res := s.ldOp d a i 2 true
/-- R170. -/
def execLdW (d a : SReg) (i : BitVec 11) (s : State) : Res := s.ldOp d a i 4 true
/-- R170. -/
def execLdD (d a : SReg) (i : BitVec 11) (s : State) : Res := s.ldOp d a i 8 true
/-- R170. -/
def execLdBn (d a : SReg) (i : BitVec 11) (s : State) : Res := s.ldOp d a i 1 false
/-- R170. -/
def execLdHn (d a : SReg) (i : BitVec 11) (s : State) : Res := s.ldOp d a i 2 false
/-- R170. -/
def execLdWn (d a : SReg) (i : BitVec 11) (s : State) : Res := s.ldOp d a i 4 false
/-- R170. -/
def execStB (a b : SReg) (i : BitVec 11) (s : State) : Res := s.stOp a b i 1
/-- R170. -/
def execStH (a b : SReg) (i : BitVec 11) (s : State) : Res := s.stOp a b i 2
/-- R170. -/
def execStW (a b : SReg) (i : BitVec 11) (s : State) : Res := s.stOp a b i 4
/-- R170. -/
def execStD (a b : SReg) (i : BitVec 11) (s : State) : Res := s.stOp a b i 8

/-- R172: held; later accesses follow it whatever its scope, so that a forked region's younger chunks read anew. -/
def execLdAcq (d a : SReg) (i : BitVec 11) (_ : Scope) (s : State) : Res :=
  let ea := s.getS a + imm11 i
  .next (s.heldAt .r 8 8 2 ea fun s => s.load ea 8 2 fun s x => s.acquire.result d (word x))
/-- R172, R165: held; the release at its scope, then the store. -/
def execStRel (a b : SReg) (i : BitVec 11) (z : Scope) (s : State) : Res :=
  let ea := s.getS a + imm11 i
  .next (s.heldAt .w 8 8 2 ea fun s => s.release z fun s => s.store ea 8 2 (s.getS b).toNat fun s => s.done4)

/-- R185: the wait of its scope, and an acquire. -/
def execFence (z : Scope) (s : State) : Res := .next (s.held fun s => s.release z fun s => s.acquire.done4)

/-- Does the slot hold a reservation (R178)? -/
def State.reserved (s : State) (c : Ctx) : Bool :=
  allDies.any fun d => (s.die d).resv.any fun r => r.die == c.die && r.slot == c.slot

/-- R184: waits until the slot's reservation is lost. -/
def execWres (s : State) : Res :=
  .next (s.held fun s => if s.reserved s.me then s.waitAt .reservation 0 s.tick 0 false false else s.done4)

end Sys2Proof.Machine
end

