-- ==== Sys2Proof/Machine/Atomic.lean ====
section
/-! DEFINITION. Full/empty operations and atomics (R173 to R183). -/

namespace Sys2Proof.Machine

/-- R174: the release of a full/empty operation: die scope at its own home, else mask scope. -/
def feRelease : Before := fun p s f => s.release (if homeOf p.loc = s.me.die then .die else .mask) f

/-- A full/empty operation on the word at sa. -/
def State.feOp (s : State) (a : SReg) (op : HomeOp) (before : Before) (f : State → Answer → State) : Res :=
  .next (s.viaHome (s.getS a) 8 8 .rw op s.tick 0 before f)

/-- R174: acquire; sd takes the word. -/
def State.feRead (s : State) (d a : SReg) (op : HomeOp) : Res :=
  s.feOp a op noWait fun s x => s.withValue (s.getS a) x fun s v => s.acquire.result d v

/-- R174. -/
def execLdFe (d a : SReg) (s : State) : Res := s.feRead d a .ldFe
/-- R174. -/
def execStFe (a b : SReg) (s : State) : Res := s.feOp a (.stFe (s.getS b)) feRelease fun s _ => s.done4
/-- R174. -/
def execLdFf (d a : SReg) (s : State) : Res := s.feRead d a .ldFf
/-- R174. -/
def execFeSet (a : SReg) (s : State) : Res := s.feOp a .feSet feRelease fun s _ => s.done4
/-- R174: acquire. -/
def execFeClr (a : SReg) (s : State) : Res := s.feOp a .feClr noWait fun s _ => s.acquire.done4

/-- A value of `n` bytes sign-extended (R177). -/
def extW (w : Wid) (x : Word) : Word := sextN (8 * w.bytes) x.toNat

/-- `sc` loads nothing: it raises no DATA_LOST_TRAP (R408). -/
def HomeOp.loads : HomeOp → Bool
  | .sc _ _ => false
  | _ => true

/-- An atomic at sa whose old value goes to sd. R163 checks R, then W. -/
def State.atomic (s : State) (d a : SReg) (w : Wid) (op : HomeOp) : Res :=
  .next (s.viaHome (s.getS a) w.bytes w.bytes .rw op s.tick 0 noWait fun s x =>
    s.withValue (s.getS a) x (fun s v => s.result d (extW w v)) op.loads)

/-- R178. -/
def execLr (d a : SReg) (w : Wid) (s : State) : Res := s.atomic d a w (.lr w.bytes)
/-- R178: sd takes the status. -/
def execSc (d a b : SReg) (w : Wid) (s : State) : Res := s.atomic d a w (.sc w.bytes (s.getS b))
/-- R179: sd holds the compare value. -/
def execCas (d a b : SReg) (w : Wid) (s : State) : Res := s.atomic d a w (.cas w.bytes (s.getS d) (s.getS b))
/-- R180. -/
def State.amo (s : State) (o : AmoOp) (d a b : SReg) (w : Wid) : Res := s.atomic d a w (.amo o w.bytes (s.getS b))

/-- R180. -/
def execAmoAdd (d a b : SReg) (w : Wid) (s : State) : Res := s.amo .add d a b w
/-- R180. -/
def execAmoAnd (d a b : SReg) (w : Wid) (s : State) : Res := s.amo .and d a b w
/-- R180. -/
def execAmoOr (d a b : SReg) (w : Wid) (s : State) : Res := s.amo .or d a b w
/-- R180. -/
def execAmoXor (d a b : SReg) (w : Wid) (s : State) : Res := s.amo .xor d a b w
/-- R180. -/
def execAmoMin (d a b : SReg) (w : Wid) (s : State) : Res := s.amo .min d a b w
/-- R180. -/
def execAmoMax (d a b : SReg) (w : Wid) (s : State) : Res := s.amo .max d a b w
/-- R180. -/
def execAmoMinn (d a b : SReg) (w : Wid) (s : State) : Res := s.amo .minn d a b w
/-- R180. -/
def execAmoMaxn (d a b : SReg) (w : Wid) (s : State) : Res := s.amo .maxn d a b w
/-- R180. -/
def execAmoSwap (d a b : SReg) (w : Wid) (s : State) : Res := s.amo .swap d a b w

/-- R181: an fadd under DET traps once its address has passed its checks. -/
def State.detTrap (s : State) (va : Word) (w : Wid) : State :=
  if va.toNat % w.bytes ≠ 0 then s.trap (.of cMISALIGN va)
  else match s.look .rw 0 va w.bytes with
    | .ok _ => s.trap (.of cDET_VIOLATION (s.me.iword.setWidth 64))
    | l => s.refuse l

/-- R180, R181: the flags come back with the old value. -/
def execAmoFadd (d a b : SReg) (w : Wid) (s : State) : Res :=
  if s.me.det && s.me.answer.isNone then .next (s.detTrap (s.getS a) w) else s.amo .fadd d a b w

/-- R182: an update sent to home; the instruction completes at issue. -/
def State.sendUpdate (s : State) (p : Place) (op : HomeOp) (n : Nat) : State :=
  if !s.requestRoom op then s
  else if homeOf p.loc = s.me.die then ((s.noteRequest p op).performHome s.asker p.loc op).1.done4
  else if s.storePending p.loc n then s
  else
    let (id, s) := (s.noteRequest p op).take
    let s := s.mapDie s.me.die fun d => { d with replicas := d.replicas.filter fun l => l.line != lineOf p.loc }
    let s := s.invalidateER s.me.die (lineOf p.loc) 256 none
    let s := s.send (.request id s.me.die s.me.slot s.me.strand p.loc op)
    (s.mapMe fun c => { c with rredPend := c.rredPend + 1, rredDev := if p.dev || isDevice p.loc then id :: c.rredDev else c.rredDev }).done4

def State.rred (s : State) (o : AmoOp) (a b : SReg) (w : Wid) : Res :=
  let va := s.getS a
  .next (if va.toNat % w.bytes ≠ 0 then s.trap (.of cMISALIGN va)
    else match s.look .rw 0 va w.bytes with
      | .ok p => s.held fun s => s.sendUpdate p (.rred o w.bytes (s.getS b)) w.bytes
      | l => s.refuse l)

/-- R182. -/
def execRredAdd (a b : SReg) (w : Wid) (s : State) : Res := s.rred .add a b w
/-- R182. -/
def execRredAnd (a b : SReg) (w : Wid) (s : State) : Res := s.rred .and a b w
/-- R182. -/
def execRredOr (a b : SReg) (w : Wid) (s : State) : Res := s.rred .or a b w
/-- R182. -/
def execRredXor (a b : SReg) (w : Wid) (s : State) : Res := s.rred .xor a b w
/-- R182. -/
def execRredMin (a b : SReg) (w : Wid) (s : State) : Res := s.rred .min a b w
/-- R182. -/
def execRredMax (a b : SReg) (w : Wid) (s : State) : Res := s.rred .max a b w
/-- R182. -/
def execRredMinn (a b : SReg) (w : Wid) (s : State) : Res := s.rred .minn a b w
/-- R182. -/
def execRredMaxn (a b : SReg) (w : Wid) (s : State) : Res := s.rred .maxn a b w
/-- R182, R181. -/
def execRredFadd (a b : SReg) (w : Wid) (s : State) : Res :=
  if s.me.det then .next (s.detTrap (s.getS a) w) else s.rred .fadd a b w

end Sys2Proof.Machine
end

