-- ==== Sys2Proof/Machine/Barrier.lean ====
section
/-! DEFINITION. Arrival barriers (R186 to R192). -/

namespace Sys2Proof.Machine

/-- A release at mask scope over DMASK (R125) before a request. -/
def maskRelease : Before := fun _ s f => s.release .mask f

/-- An operation on the barrier at sa. -/
def State.barOp (s : State) (a : SReg) (k : AccessKind) (op : HomeOp) (t0 lim : Nat) (before : Before) (f : State → Answer → State) : Res :=
  .next (s.viaHome (s.getS a) 16 16 k op t0 lim before f)

/-- R188: release at mask scope. -/
def execBinit (a b : SReg) (s : State) : Res := s.barOp a .rw (.binit (s.getS b)) s.tick 0 maskRelease fun s _ => s.done4
/-- R189. -/
def execBpost (a b : SReg) (s : State) : Res := s.barOp a .rw (.bpost (s.getS b)) s.tick 0 noWait fun s _ => s.done4
/-- R190: release at mask scope. -/
def execBarr (a : SReg) (s : State) : Res := s.barOp a .rw .barr s.tick 0 maskRelease fun s _ => s.done4

/-- Ticks left until a WEND of R415, which compares modulo 2^40. -/
def wendLeft (e tick : Nat) : Nat :=
  let d := (e + 2 ^ 40 - tick % 2 ^ 40) % 2 ^ 40
  if 2 ^ 39 ≤ d then 0 else d

/-- TICK when the instruction was issued: that of its request, once the answer has come (R191). -/
def State.issueTick (s : State) : Nat := if s.me.answer.isSome then s.me.asked else s.tick

/-- From when a limit counts, and the limit: those of the wait that goes on, or of the wait a park left (R394),
or from now. -/
def State.limits (s : State) (lim : Nat) : Nat × Nat :=
  match s.me.wait with
  | some w => (w.t0, w.lim)
  | none =>
    match s.me.wend with
    | some e => (s.issueTick, wendLeft e.toNat s.issueTick)
    | none => (s.issueTick, lim)

/-- R191. -/
def execBwait (d a b : SReg) (s : State) : Res :=
  let (t0, lim) := s.limits (min (s.getS b).toNat (2 ^ 36))
  s.barOp a .rw (.bwait (bitAt (s.getS d) 63) (decide (t0 + lim ≤ s.tick))) t0 lim noWait fun s x =>
    s.withValue (s.getS a) x fun s v => s.acquire.result d v

end Sys2Proof.Machine
end

