-- ==== Sys2Proof/Machine/Cancel.lean ====
section
/-! DEFINITION. Cancellation (R157, R383 to R385): marks on strands, launches, graphs, phases and jobs, how they spread,
`cncl`, and the stop of a cancelled strand. -/

namespace Sys2Proof.Machine

/-! ### Strands (R383, R388) -/

/-- The serial number and the index of a STRAND value. -/
def serialOf (strand : Word) : Nat := strand.toNat / 2 ^ 32
def indexOf (strand : Word) : Nat := strand.toNat % 2 ^ 32
/-- The die that a strand's marks and launch are found through. (DEDUCED, log 58) -/
def serialDie (strand : Word) : DieId := Fin.ofNat 16 (serialOf strand / 2 ^ 28)
/-- The LIVE launch a strand belongs to. -/
def State.liveOfStrand (s : State) (strand : Word) : Option Live :=
  (s.die (serialDie strand)).lives.find? fun l => l.serial.toNat == serialOf strand && decide (indexOf strand < l.count)
def State.markedStrand (s : State) (strand : Word) : Bool := (s.die (serialDie strand)).cancelled.contains strand
/-- Is a strand to be stopped: by a mark of its own, or by its launch's? -/
def State.isCancelled (s : State) (strand : Word) : Bool :=
  s.markedStrand strand || (s.liveOfStrand strand).any fun l => objST (s.rd (l.header + 16)) == 3

/-- A strand that is in no slot, and has not retired: the die that keeps it, or that it is on its way to. -/
def State.awayOf (s : State) (strand : Word) : Option (DieId × Waiting) :=
  match allDies.findSome? fun d =>
    ((((s.die d).ready ++ (s.die d).parked.map fun p => p.w) ++ (s.die d).halted).find? fun w => w.strand == strand).map fun w => (d, w) with
  | some p => some p
  | none => s.net.findSome? fun p => match p with
    | .migrate w _ d => if w.strand = strand then some (d, w) else none
    | _ => none

/-- R383: a strand is cancelled alone; one not yet dispatched counts as retired at once, and to one that has retired nothing happens. -/
def State.cancelStrand (s : State) (l : Live) (strand : Word) : State :=
  let d := serialDie strand
  if s.markedStrand strand then s
  else if indexOf strand < l.next then
    if !(s.busy.any fun c => c.strand == strand) && (s.awayOf strand).isNone then s
    else s.mapDie d fun x => { x with cancelled := strand :: x.cancelled }
  else ((s.mapDie d fun x => { x with cancelled := strand :: x.cancelled }).count d 6 0 5 1).strandEnded l.header true

/-! ### Objects -/

/-- R383: a launch is cancelled: strands not yet dispatched never are, and count as retired. (DEDUCED, log 57) -/
def State.cancelLaunch (s : State) (h cause : Nat) : State × List NodeWork :=
  match s.liveOf h with
  | none => (s, [])
  | some (d, l) =>
    if objST (s.rd (h + 16)) ≠ 1 then (s, [])
    else
      let s := s.markCancelled h cause
      let gone := (s.die d).cancelled.filter fun w => serialOf w == l.serial.toNat && decide (l.next ≤ indexOf w)
      let m := l.count - l.next - gone.length
      let s := (s.mapDie d fun x => { x with lives := mapIf (fun y => y.header == h) (fun y => { y with next := l.count, batch := none }) x.lives }).count d 6 0 5 m
      let w := s.rd (h + 16)
      let s := (s.wr h (s.rd h + word m)).wr (h + 16) (word (w.toNat / 2 ^ 32 * 2 ^ 32 + (w.toNat + m) % 2 ^ 32))
      if s.rd h = s.rd (h + 8) then
        (s.endLive d l,
         [.complete l.node l.sroot l.graph true])
      else (s, [])

/-- R383: a graph is cancelled: nodes in WAIT or READY complete with CXL, launches of nodes in RUN are cancelled. One
that has not started is marked, and its nodes complete when its turn comes. (DEDUCED, log 57) -/
def State.cancelGraph (s : State) (d : DieId) (sroot g cause : Nat) : State × List NodeWork :=
  let st := objST (s.rd (g + 16))
  let s := s.markCancelled g cause
  if st ≠ 1 then (s, [])
  else
    (s.graphNodes d sroot g).foldl (fun (a : State × List NodeWork) n =>
      let k := nst (a.1.nodeState n)
      if k = 3 then a
      else if k = 2 then
        match a.1.paOf d sroot (a.1.nodeLaunch n) with
        | some h => let (s, w) := a.1.cancelLaunch h 2; (s, a.2 ++ w)
        | none => a
      else (a.1.mapDie (homeOf n) fun x => { x with nodes := x.nodes.filter fun q => q.node != n }, a.2 ++ [.complete n sroot g true])) (s, [])

/-- R383: a phase is cancelled: its LIVE graph, and a mark on each later one. (DEDUCED, log 57) -/
def State.cancelPhase (s : State) (r : Run) (ph cause : Nat) : State × List NodeWork :=
  let st := objST (s.rd (ph + 16))
  let later := s.childrenFrom r.die r.sroot ph (if st = 1 then (s.rd ph).toNat + 1 else 0)
  if 2 ≤ st then (s, [])
  else
    let s := later.foldl (fun s g => s.markCancelled g 2) (s.markCancelled ph cause)
    if st = 1 ∧ r.phase = ph then s.cancelGraph r.die r.sroot r.graph 2 else (s, [])

/-- R383: a job is cancelled: its LIVE phase, and each later one. A phase that waits at its gate waits no longer. (DEDUCED, log 57) -/
def State.cancelJob (s : State) (r : Run) (cause : Nat) : State × List NodeWork :=
  if 2 ≤ objST (s.rd (r.job + 16)) then (s, [])
  else
    let done := (s.rd r.job).toNat
    let later := s.childrenFrom r.die r.sroot r.job (if r.gated then done else done + 1)
    let s := later.foldl (fun s ph => (s.cancelPhase r ph 2).1) (s.markCancelled r.job cause)
    if r.gated then s.nextPhase r done else s.cancelPhase r r.phase 2

/-- Does a run hold an object among its later phases and graphs? -/
def State.inRun (s : State) (r : Run) (level obj : Nat) : Bool :=
  r.level == 4 &&
    let phases := s.childrenFrom r.die r.sroot r.job 0
    if level = 3 then phases.contains obj
    else phases.any fun p => (s.childrenFrom r.die r.sroot p 0).contains obj

/-- Is an address that of a launch some node of a submitted graph names? -/
def State.knownLaunch (s : State) (h : Nat) : Bool :=
  s.runs.any fun r =>
    let graphs := if r.level = 2 then [r.graph] else ((s.childrenFrom r.die r.sroot r.job 0).map fun p => s.childrenFrom r.die r.sroot p 0).flatten
    graphs.any fun g => (s.graphNodes r.die r.sroot g).any fun n => s.paOf r.die r.sroot (s.nodeLaunch n) == some h

/-- R157, R383: the object at a physical address is cancelled at a level of 1 to 4; none where it names no object. (DEDUCED, log 57) -/
def State.cancelObject (s : State) (level obj : Nat) : Option State :=
  let gone := decide (2 ≤ objST (s.rd (obj + 16)))
  let work (p : State × List NodeWork) : Option State := some (if gone then s else p.1.doWork p.2)
  let none? : Option State := if gone && s.endedObjs.contains (level, obj) then some s else none
  match level with
  | 1 => if (s.liveOf obj).isSome then work (s.cancelLaunch obj 1) else if s.knownLaunch obj then some (s.markCancelled obj 1) else none?
  | 2 =>
    match s.runs.find? fun r => r.graph == obj || s.inRun r 2 obj with
    | some r => work (s.cancelGraph r.die r.sroot obj 1)
    | none => none?
  | 3 =>
    match s.runs.find? fun r => r.level == 4 && (r.phase == obj || s.inRun r 3 obj) with
    | some r => work (s.cancelPhase r obj 1)
    | none => none?
  | _ =>
    match s.runs.find? fun r => r.level == 4 && r.job == obj with
    | some r => work (s.cancelJob r 1)
    | none => none?

/-! ### `cncl` (R157) -/

/-- The objects that enclose a strand: its launch, graph, phase and job. -/
def State.chain (s : State) (c : Ctx) (level : Nat) : Option Nat :=
  if level = 1 then some c.header
  else
    match s.liveOf c.header with
    | none => none
    | some (_, l) =>
      if level = 2 then some l.graph
      else
        match s.runs.find? fun r => r.level == 4 && r.graph == l.graph with
        | some r => some (if level = 3 then r.phase else r.job)
        | none => none

/-- The physical address of a level object named by its 64-byte-aligned address. -/
def State.objectPa (s : State) (c : Ctx) (a : Word) : Option Nat :=
  if a.toNat % 64 ≠ 0 then none
  else
    match s.placeOf c .r 0 a with
    | .ok p => if isDram p.loc then some p.loc else none
    | .error _ => none

/-- Is a strand ID that of a strand of a launch that has completed (R157, R388)? (DEDUCED, log 57) -/
def State.wasStrand (s : State) (strand : Word) : Bool :=
  (s.die (serialDie strand)).past.any fun l => l.1.toNat == serialOf strand && decide (indexOf strand < l.2)

/-- What a handle leads to: the mark made and whether the issuer lies inside the object; none for ACCESS. -/
def State.cnclEffect (s : State) (level : Nat) (a : Word) : Option (State × Bool) :=
  let c := s.me
  if level = 0 then
    match s.liveOfStrand a with
    | none => if c.level = .system ∧ s.wasStrand a then some (s, false) else none
    | some l => if c.level = .strand ∧ serialOf a ≠ serialOf c.strand then none else some (s.cancelStrand l a, a == c.strand)
  else
    match s.objectPa c a with
    | none => none
    | some obj =>
      let mine := s.chain c level = some obj
      if c.level = .strand ∧ !mine then none else (s.cancelObject level obj).map fun s => (s, mine)

/-- R157: held. An issuer inside the object retires here, after its release and its transfers. -/
def execCncl (a : SReg) (l : Level5) (s : State) : Res :=
  let x := s.getS a
  .next (match s.cnclEffect l.code x with
    | none => s.trap (.of cACCESS x)
    | some _ => s.held fun s =>
      match s.cnclEffect l.code x with
      | none => s
      | some (s, false) => s.done4
      | some (s, true) =>
        let s := (s.mapMe fun c => { c with ending := true }).endSpeculation s.me
        s.releaseAll fun s => if s.me.ilk.isEmpty && s.alone then (s.quiesce false).saveLast.retire 7 true else s)

/-! ### Stopping strands (R384, R385) -/

/-- A turn of a slot that leaves whose turn it is as it was. -/
def State.inSlot (s : State) (d : DieId) (k : SlotNo) (f : State → State) : State :=
  let d0 := s.me.die
  let k0 := s.me.slot
  (f (s.focus d k)).focus d0 k0

/-- Must a stop of the slot `me` wait: for `eret` (R412), for a request that its home is performing (R32), for a `done` or
`cncl` that has begun (R124), for the end of an element group (R229), for a chunk that has ended to pass the weir (R327), or
for a squashed one to restart? -/
def Ctx.stopLater (c : Ctx) : Bool :=
  c.level == .system || c.sent.isSome || c.answer.isSome || c.ending || c.part.isSome || c.chunk.any fun k => k.ended || k.restart

/-- The tick at which a stop reaches the slot `me` (R414). -/
def State.markStop (s : State) : State := s.mapMe fun c => { c with stopTick := if c.level = .strand then some (c.stopTick.getD s.tick) else none }
/-- A stop reaches the slot `me`: cancellation 7, halt 6, pre-emption 2, the end of a quantum 1; the first of them stands
(R420). (DEDUCED, log 16) -/
def State.stopMe (s : State) (code : Nat) (f : State → State) : State :=
  let code' := max code ((s.me.stopReq.map fun k => k.toNat).getD 0)
  let s := s.markStop
  if s.me.stopLater || code < code' then s.mapMe fun c => { c with stopReq := some (BitVec.ofNat 4 code') } else f s

/-- Is the slot performing `done` (R385)? (DEDUCED, log 58) -/
def State.atDone (s : State) : Bool := s.me.ending

/-- The record of a strand out of its slot, with dword `k` changed and CHK with it (R415, R417); answers whether it could be
written. -/
def State.editRecord (s : State) (d : DieId) (root record k : Nat) (f : Nat → Nat) : State × Bool :=
  match s.readRecord d root record with
  | none => (s, true)
  | some r =>
    let ws := (upFrom 0 7).map fun i => if i = k then word (f (r.w i).toNat) else r.w i
    let last := word ((r.w 7).toNat / 2 ^ 32 * 2 ^ 32)
    let bs := ((ws ++ [last + word (chkOf (ws ++ [last]))]).map w64).flatten
    match s.translate d none .w false root record with
    | .ok p => (s.settleWrite p.loc bs, true)
    | .error _ => (s, false)
/-- STATE of the record of a strand out of its slot. (DEDUCED, log 54) -/
def State.recordTo (s : State) (d : DieId) (w : Waiting) (st : Nat) : State :=
  (s.editRecord d w.root w.record.toNat 4 fun x => putBits x 60 4 st).1

/-- R384: a strand out of its slot is retired: its record shows it, and its launch counts it. -/
def State.retireAway (s : State) (d : DieId) (root record header : Nat) : State :=
  let (s, ok) := s.editRecord d root record 4 fun x => putBits (putBits x 60 4 rsRETIRED) 52 4 7
  ((s.count d 0 0 3 (if ok then 0 else 1)).count d 6 0 5 1).strandEnded header true

/-- DATA_LOST in a slot's strand. -/
def State.loseData (s : State) (p : DieId × SlotNo) : State := s.mapCtx p.1 p.2 fun c => c.orFlags flagDL
/-- DATA_LOST in a strand wherever it is: its slot, its region while the next chunk takes over, or its record (R224, R415). -/
def State.strandLoses (s : State) (strand : Word) : State :=
  match s.slotOfStrand strand with
  | some c => s.loseData (c.die, c.slot)
  | none =>
    match s.awayOf strand with
    | some (d, w) => (s.editRecord d w.root w.record.toNat 5 fun x => putBits x 32 1 1).1
    | none => s.mapRegion strand fun r => { r with flags := r.flags ||| flagDL }

def State.dropReady (s : State) (d : DieId) (strand : Word) : State :=
  s.mapDie d fun x =>
    { x with ready := x.ready.filter fun w => w.strand != strand, parked := x.parked.filter fun p => p.w.strand != strand,
             halted := x.halted.filter fun w => w.strand != strand }

/-- A `gform` that a parked strand waits in is withdrawn (R449). -/
def State.withdrawOf (s : State) (d : DieId) (strand : Word) : State := s.withdraw { Ctx.reset d 0 with strand := strand }

/-- A collective of a strand has not landed. -/
def State.collBusy (s : State) (strand : Word) : Bool := allDies.any fun d => (s.die d).groups.any fun g => g.ops.any fun o => o.strand == strand

/-- R384: a cancelled strand is stopped wherever it is; out of a slot it retires once its collectives have landed. (DEDUCED, log 58) -/
def State.cancelStop (s : State) (strand : Word) : State :=
  match s.slotOfStrand strand with
  | some c => s.inSlot c.die c.slot fun s => if s.atDone then s else s.stopMe 7 fun s => s.stopCancelled
  | none =>
    match allDies.findSome? fun d => ((s.die d).ready.find? fun w => w.strand == strand).map fun w => (d, w) with
    | some (d, w) => if s.collBusy strand then s else (s.dropReady d strand).retireAway d w.root w.record.toNat w.header
    | none =>
      match allDies.findSome? fun d => ((s.die d).parked.find? fun p => p.w.strand == strand).map fun p => (d, p) with
      | some (d, p) =>
        let s := s.dropWaiter strand (homeOf p.wait.loc)
        let s := if p.wait.what = WaitFor.group then s.withdrawOf d strand else s
        if s.collBusy strand then s else (s.dropReady d strand).retireAway d p.w.root p.w.record.toNat p.w.header
      | none =>
        match allDies.findSome? fun d => ((s.die d).halted.find? fun w => w.strand == strand).map fun w => (d, w) with
        | some (d, w) => if s.collBusy strand then s else (s.dropReady d strand).retireAway d w.root w.record.toNat w.header
        | none => s

/-- R384, R385. -/
def execCancelStop (strand : Word) (s : State) : Res := .next (if s.isCancelled strand then s.cancelStop strand else s)

end Sys2Proof.Machine
end

