-- ==== Sys2Proof/Machine/Replicate.lean ====
section
/-! DEFINITION. Replication and coherence: `rdeg` and `rpref` (R212, R213), the home directory and the grant rule
(R342 to R344), collapse and settling (R345 to R347), pending stores (R341), region degrees (R348 to R351), requests at
home (R174 to R203) and page walks (R369, R370). -/

namespace Sys2Proof.Machine

/-! ### Degrees (R348, R351) -/

/-- Dies of a DEG code. -/
def degDies (code : Nat) : Nat := match code with | 0 => 0 | 1 => 1 | 2 => 3 | _ => 15
/-- Dies to which a PTE's hint caps a degree (R344). -/
def capDies (hint : Nat) : Nat := match hint with | 1 => 0 | 2 => 1 | 3 => 3 | _ => 15

/-- Does a line hold more replicas than a degree? A COARSE line always does (R351). -/
def DirEntry.spans (e : DirEntry) (n : Nat) : Bool := e.coarse || decide (n < e.holders.length)

/-- R351: the lines of a region over its new degree collapse their replicas. -/
def State.lowerRegion (s : State) (d : DieId) (ix code : Nat) (who : Requester) : State :=
  ((s.die d).dir.filter fun e => regionIx e.line == ix && e.spans (degDies code)).foldl (fun s e => (s.collapseLine e.line who).1) s

/-- Where `rdeg` finds its region: a trap, nothing to do, or a DRAM location (R212). -/
def State.regionOfVa (s : State) (va : Word) : Except (BitVec 8) (Option Nat) :=
  let c := s.me
  let pick (f : BitVec 8) : Except (BitVec 8) (Option Nat) := if f = cNONCANON ∨ f = cABSENT_HOME then .error f else .ok none
  match s.nameOf c .r 2 va with
  | .error f => pick f
  | .ok (.tile _) => .ok none
  | .ok (.global a) =>
    match s.pageOf c.die (some c.slot) .r c.ctl.ptroot.toNat a with
    | .error f => pick f
    | .ok p => .ok (if isDram p.loc then some p.loc else none)

/-- R352: a region's degree is raised or lowered. -/
def State.countDeg (s : State) (d : DieId) (old new : Nat) : State :=
  (s.count d 4 0 5 (if old < new then 1 else 0)).count d 4 0 6 (if new < old then 1 else 0)

/-- R212: a degree instruction; `f` changes the region at its home. -/
def State.degree (s : State) (a : SReg) (f : State → Nat → State) : Res :=
  let va := s.getS a
  .next (match s.regionOfVa va with
    | .error code => s.trap (.of code va)
    | .ok r => s.held fun s =>
      if s.me.answer.isSome then s.done4
      else match r with
        | none => (s.count s.me.die 4 0 9 1).done4
        | some loc => f s loc)

/-- R212, R351: DEG and PIN are set; a lowering waits until every replica beyond the degree is collapsed. (DEDUCED, log 40) -/
def execRdegPin (a : SReg) (g : BitVec 2) (s : State) : Res :=
  s.degree a fun s loc =>
    let d := homeOf loc
    let r := (s.die d).region (regionIx loc)
    let s := (s.mapDie d fun x => x.setRegion { r with deg := g, pin := true }).countDeg d r.deg.toNat g.toNat
    if g.toNat < r.deg.toNat then
      let (id, s) := s.take
      let s := s.lowerRegion d (regionIx loc) g.toNat (.transfer id)
      if s.unsettled id then s.mapMe fun c => { c with sent := some id } else s.done4
    else s.done4

/-- R212, R351: PIN is cleared, DEG stays. (DEDUCED, log 40) -/
def execRdegAuto (a : SReg) (_ : BitVec 2) (s : State) : Res :=
  s.degree a fun s loc =>
    let d := homeOf loc
    (s.mapDie d fun x => x.setRegion { x.region (regionIx loc) with pin := false }).done4

/-! ### Prefetch of replicas (R213) -/

/-- Requests for the lines of a physical range that a die has no copy of. (DEDUCED, log 92) -/
def State.prefetchLines (s : State) (d : DieId) (slot : SlotNo) (kind : Pref) (hint : BitVec 2) (lo n : Nat) : State :=
  ((upFrom (lo / 256) ((lo + n - 1) / 256 - lo / 256 + 1)).map (· * 256)).foldl (fun s line =>
    if homeOf line = d ∨ ((s.die d).replicas.any fun l => l.line == line) then s
    else if (s.die d).pend.any fun q => lineOf q.sector == line then s.count d 4 0 9 1
    else
      let (id, s) := s.take
      s.send (.read id d slot line hint kind)) s

/-- The pages of a range of virtual addresses in ascending order, for a slot or for the reservoir; a page that cannot be read, or an
address outside the global space, ends it and is counted; a page that leads to no replicated memory is counted and passed over, like
a line with stores pending. (DEDUCED, log 92) -/
def State.prefetch (s : State) (d : DieId) (slot : Option SlotNo) (kind : Pref) (strandLevel : Bool) (root : Nat) : Nat → Nat → Nat → State
  | 0, _, _ => s
  | fuel + 1, va, n =>
    if n = 0 then s
    else
      let k := min n (65536 - va % 65536)
      let go : Except (BitVec 8) Place := if 2 ^ 55 ≤ va then .error cACCESS else s.translate d slot .r strandLevel root va
      match go with
      | .error _ => s.count d 4 0 9 1
      | .ok p =>
        let s := if isDram p.loc && !p.dev then s.prefetchLines d (slot.getD 0) kind p.hint p.loc k else s.count d 4 0 9 1
        s.prefetch d slot kind strandLevel root fuel (va + k) (n - k)

/-- R213. -/
def execRpref (a b : SReg) (s : State) : Res :=
  .next (s.held fun s =>
    (s.prefetch s.me.die (some s.me.slot) (.strand s.me.strand s.me.deadline) (s.me.level == .strand) s.me.ctl.ptroot.toNat 64 (s.getS a).toNat (min (s.getS b).toNat (2 ^ 21))).done4)

/-! ### Reads of remote lines (R343, R344) -/

/-- R343: a grant to a die. -/
def DirEntry.grant (e : DirEntry) (d : DieId) : DirEntry :=
  if e.coarse || e.holders.contains d then e
  else if e.holders.length < 4 then { e with holders := e.holders ++ [d] }
  else { e with coarse := true, holders := [] }

/-- R344: does the home grant a replica? -/
def grants (deg : Nat) (e : DirEntry) : Bool :=
  !(deg == 0 || (!e.coarse && decide (deg ≤ e.holders.length) && decide (deg < 15)))

def Die.putDir (d : Die) (e : DirEntry) : Die := { d with dir := e :: d.dir.filter fun x => x.line != e.line }

/-- R344: a read request at its home. (DEDUCED, log 86) -/
def execRemoteReadRequest (k : Nat) (s : State) : Res :=
  match s.arrive k with
  | some (.read id d slot line hint pref, rest) =>
    let s := { s with net := rest }
    let home := homeOf line
    let r := (s.die home).region (regionIx line)
    let e := dirFind (s.die home).dir line
    let g := grants (min (degDies r.deg.toNat) (capDies hint.toNat)) e
    let s := (s.mapDie home fun x => x.setRegion { r with rsh := satAdd r.rsh 1 }).touch home line 0 none
    let e' := e.grant d
    let s := if g then (s.mapDie home fun x => x.putDir e').count home 4 0 2 1 else s
    let s := s.count home 4 0 7 (if g && e'.coarse && !e.coarse then 1 else 0)
    .next (s.send (.fill id d slot ⟨line, (upFrom line 256).map s.homeByte⟩ g true pref false []))
  | _ => .next s

/-- A collapse of a line on its way to a die comes before a message of the line's home that was sent later. (DEDUCED, log 67) -/
def collapseFirst (net : List Packet) (d : DieId) (line : Nat) : Bool :=
  net.any fun p => match p with
    | .collapse l e _ => e == d && l == line
    | _ => false

/-- CACK messages of a die to whoever awaits them (R345). -/
def cacksTo (src : DieId) (ws : List Requester) : List Packet := (ws.map Requester.each).flatten.map fun w => .cack src w

/-- A fill of a line on its way to a die, granted before a collapse that has come. -/
def Packet.overtaken (d : DieId) (line : Nat) : Packet → Bool
  | .fill _ e _ l g keep _ _ _ => e == d && l.line == line && g && !keep
  | _ => false

/-- R347: the acknowledgements that a fill has delayed go on to another such fill of the line, or are sent. -/
def State.sendCacks (s : State) (d : DieId) (line : Nat) (ws : List Requester) : State :=
  if s.net.any (Packet.overtaken d line) then { s with net := mapFirst (Packet.overtaken d line) (Packet.join ws) s.net }
  else s.sendAll (cacksTo d ws)

def Pref.isLoad (p : Pref) : Bool := p == .load

/-- R344, R347: a fill arrives: it serves the load that waits for it, and is installed when granted, not collapsed first, and no store
to the line is pending (R338, R341); a prefetch that is not installed ends there (R213, R352). A speculative load whose line has been
written since reads anew (R298). (DEDUCED, log 86, 92) -/
def execReplicaFill (k : Nat) (s : State) : Res :=
  match s.arrive k with
  | some (.fill id d slot l grant keep pref stale cacks, rest) =>
    if collapseFirst (s.net.take k) d l.line then .next s
    else
      let s := { s with net := rest }
      let pw := (s.die d).pend.any fun q => lineOf q.sector == l.line
      let held := grant && keep && !pw
      let s := if held then s.install d l else s
      let s := if pref.isLoad then s.count d 4 0 1 (if grant then 0 else 1) else s.count d 4 0 (if held then 8 else 9) 1
      let s := if !pref.isLoad then s else s.mapCtx d slot fun c =>
        if c.sent = some id then
          let spec := c.chunk.any fun k => k.spec
          { c with sent := none, lines := if stale && spec || l.data.isEmpty then c.lines else l :: c.lines.filter fun o => o.line != l.line }
        else c
      .next (s.sendCacks d l.line cacks)
  | _ => .next s

/-- R345, R347: a COLLAPSE arrives; fills that were granted before it are not installed, and one of them delays the CACK. -/
def execCollapse (k : Nat) (s : State) : Res :=
  match s.arrive k with
  | some (.collapse line d who, rest) =>
    let s := (({ s with net := rest } : State).dropReplica d line).count d 4 0 4 1
    let s := { s with net := s.net.map fun (p : Packet) => match p with
      | .fill id e sl l true _ q st c => if e = d ∧ l.line = line then Packet.fill id e sl l true false q st c else p
      | p => p }
    .next (s.sendCacks d line who)
  | _ => .next s

/-- R339, R343: a die evicts the victim of a set of its slice: a replica, whose notice reaches the home, or a line that it is the home
of, which is written back. The lines that other agents bring into the set are not held, so that the agenda says when. (DESIGN CHOICE, log 48) -/
def execEvictionNotice (d : DieId) (line : Nat) (s : State) : Res :=
  .next (match victim (s.setWays d line) with
    | some v => if v.line = line then s.evict d v else s
    | none => s)

/-! ### Pending stores (R341, R346) -/

/-- The slots that wrote an entry, once for each store. (DEDUCED, log 85) -/
def Pend.slots (p : Pend) : List (DieId × SlotNo) :=
  p.writers.filterMap fun w => match w with
    | .slot d k => some (d, k)
    | _ => none

/-- The bytes that an entry writes: halves of bytes are merged onto what the home holds (R238). -/
def State.pendBytes (s : State) (e : Pend) : List Host.Cell :=
  e.halves.foldl (fun m h => cellPut h.1 (mergeHalf ((cellGet m h.1).getD (unlost (s.homeByte h.1))) h.2.1 h.2.2) m) e.bytes

/-- R341 step 3, R345: an entry of a die, first of its sector, is performed at home at one instant. (DEDUCED, log 85) -/
def execPendingStoreArrival (k : Nat) (s : State) : Res :=
  match s.arrive k with
  | some (.pending d id, rest) =>
    match (s.die d).pend.find? fun p => p.id == id with
    | none => .next { s with net := rest }
    | some e =>
      if ((s.die d).pend.takeWhile fun p => p.id != id).any fun p => p.sector == e.sector then .next s
      else
        let s := { s with net := rest }
        let who : Requester := .slots e.slots.eraseDups
        let strand := (e.slots.head?.bind fun w => s.ctx? w.1 w.2).map fun c => c.strand
        let s := (sectorRuns (s.pendBytes e) e.sector).foldl (fun s r => s.writeBytes r.1 r.2 who strand) s
        let (s, m) : State × BitVec 16 := if isTile e.sector then (s, 0) else s.collapseLine (lineOf e.sector) who
        let s := s.mapDie d fun x => { x with pend := mapIf (fun p => p.id == id) (fun p => { p with sent := true }) x.pend }
        .next (s.send (.perf d id e.slots e.slots.eraseDups m))
  | _ => .next s

/-- R346: a PERF arrives: the entry is freed; each store is performed, and the holders' acknowledgements are due. (DEDUCED, log 85) -/
def execPerf (k : Nat) (s : State) : Res :=
  match s.arrive k with
  | some (.perf d id whos cols m, rest) =>
    let s := ({ s with net := rest } : State).mapDie d fun x => { x with pend := x.pend.filter fun p => p.id != id }
    let s := whos.foldl (fun s w => s.mapCtx w.1 w.2 fun c => { c with perfPend := c.perfPend - 1 }) s
    .next (cols.foldl (fun s w => s.mapCtx w.1 w.2 fun c => { c with colPend := addCol c.colPend m }) s)
  | _ => .next s

/-- R351: the `rdeg` that waits for a lowering goes on once every replica is gone. -/
def State.lowered (s : State) (id : Nat) : State :=
  let f (c : Ctx) : Ctx := if c.sent = some id then { c with sent := none, answer := some (.value 0 0 none) } else c
  if s.unsettled id then s else { s with me := f s.me, others := s.others.map f }

/-- R346: is a PERF on its way that counts a CACK of a die in for a slot? Its CACKs are counted after it. (DEDUCED, log 85) -/
def State.perfDue (s : State) (src : DieId) (who : Requester) : Bool :=
  s.net.any fun p => match p with
    | .perf _ _ _ cols m => m.getLsbD src.val && cols.any fun c => who == .slot c.1 c.2
    | _ => false

/-- R346, R351: a CACK arrives, after the PERF that counts it; the last one of a lowering answers its `rdeg`. (DEDUCED, log 85) -/
def execCack (k : Nat) (s : State) : Res :=
  match s.arrive k with
  | some (.cack src who, rest) =>
    if s.perfDue src who then .next s else
    let s := { s with net := rest }
    match who with
    | .slot d sl => .next (s.mapCtx d sl fun c => { c with colPend := if c.colPend[src] = 0 then c.colPend else c.colPend.set src (c.colPend[src] - 1) })
    | .transfer id => .next (s.lowered id)
    | _ => .next s
  | _ => .next s

/-! ### Epochs (R349) -/

/-- R349: one region at an epoch's end; answers whether it was raised or lowered. -/
def RegionEntry.epoch (r : RegionEntry) (ctl : Word) : RegionEntry × Bool × Bool :=
  let lowcol := bits ctl 40 8
  let raisersh := bits ctl 32 8
  let ratio := bits ctl 28 4
  let rsh := r.rsh.toNat
  let col := r.col.toNat
  if r.pin then ({ r with rsh := 0, col := 0 }, false, false)
  else
    let up := if raisersh ≤ rsh ∧ col * 2 ^ ratio < rsh then min (r.up.toNat + 1) 3 else 0
    let down := if lowcol ≤ col ∧ rsh < col * 2 then min (r.down.toNat + 1) 3 else 0
    let raise := decide (2 ≤ up ∧ r.deg.toNat < 3)
    let deg := if raise then r.deg.toNat + 1 else r.deg.toNat
    let lower := decide (2 ≤ down ∧ 0 < deg)
    let deg := if lower then deg - 1 else deg
    ({ r with deg := BitVec.ofNat 2 deg, up := BitVec.ofNat 2 (if raise then 0 else up), down := BitVec.ofNat 2 (if lower then 0 else down),
              rsh := 0, col := 0 }, raise, lower)

/-- R349: the end of an epoch of 2^EPOCH ticks, values below 10 acting as 10. -/
def execEpochEnd (d : DieId) (s : State) : Res :=
  let ctl := (s.die d).regs.replctl
  if !(s.die d).present || s.tick % 2 ^ max 10 (bits ctl 16 8) ≠ 0 then .next s
  else
    .next ((s.die d).regions.foldl (fun s r =>
      let (r', up, down) := r.epoch ctl
      let s := s.mapDie d fun x => x.setRegion r'
      let s := (s.count d 4 0 5 (if up then 1 else 0)).count d 4 0 6 (if down then 1 else 0)
      if down then s.lowerRegion d r.index r'.deg.toNat (.home d) else s) s)

/-! ### Requests at home -/

/-- A request of the class an event serves, when no earlier request of its strand to the same bytes is on its way
(R183, R308). (DESIGN CHOICE, log 47) -/
def State.serve (s : State) (ok : HomeOp → Bool) (k : Nat) : State :=
  match s.arrive k with
  | some (.request id d slot strand loc op, rest) =>
    let earlier := (s.net.take k).any fun p => match p with
      | .request _ _ _ st l _ => st == strand && l / 8 == loc / 8
      | _ => false
    if !ok op || earlier then s
    else
      let (s, a) := ({ s with net := rest } : State).performHome ⟨d, slot, strand⟩ loc op
      match op with
      | .rred _ _ _ => s.mapCtx d slot fun c => { c with rredPend := c.rredPend - 1 }
      | _ => s.send (.reply id d slot loc op a)
  | _ => s

def HomeOp.isAtomic : HomeOp → Bool
  | .load _ | .lr _ | .sc _ _ | .cas _ _ _ | .amo _ _ _ | .rred _ _ _ => true
  | _ => false
def HomeOp.isFe : HomeOp → Bool
  | .ldFe | .stFe _ | .ldFf | .feSet | .feClr => true
  | _ => false
def HomeOp.isQueue : HomeOp → Bool
  | .put _ _ | .get _ _ | .qstat | .qinit _ _ _ => true
  | _ => false
def HomeOp.isBarrier : HomeOp → Bool
  | .binit _ | .bpost _ | .barr | .bwait _ _ => true
  | _ => false

/-- R183. -/
def execHomeAtomic (k : Nat) (s : State) : Res := .next (s.serve (fun o => o.isAtomic) k)
/-- R174. -/
def execHomeFeRequest (k : Nat) (s : State) : Res := .next (s.serve (fun o => o.isFe) k)
/-- R203. -/
def execHomeQueueRequest (k : Nat) (s : State) : Res := .next (s.serve (fun o => o.isQueue) k)
/-- R190. -/
def execHomeBarrierRequest (k : Nat) (s : State) : Res := .next (s.serve (fun o => o.isBarrier) k)

/-- R167, R299: an answer reaches its slot, after the collapses that its home sent before it. -/
def execHomeReply (k : Nat) (s : State) : Res :=
  match s.arrive k with
  | some (.reply id d slot loc _ a, rest) =>
    if collapseFirst (s.net.take k) d (lineOf loc) then .next s
    else .next (({ s with net := rest } : State).mapCtx d slot fun c => if c.sent = some id then { c with sent := none, answer := some a } else c)
  | _ => .next s

/-! ### Page walks (R369, R370) -/

/-- A translation takes its place in one TLB, the most recently filled first; the oldest entry beyond the TLB's size goes (R369). (DEDUCED, log 18) -/
def fillTlb (l : List TlbEntry) (e : TlbEntry) : List TlbEntry :=
  let rest := l.filter fun t => !(t.held == e.held && t.root == e.root && t.va == e.va && t.level == e.level)
  let mine := rest.filter fun t => t.held == e.held
  let rest := if mine.length < Config.tlbEntries e.held.rank then rest
    else match mine.getLast? with
      | some o => rest.erase o
      | none => rest
  e :: rest
/-- The TLBs that serve a slot, or the die alone. -/
def tlbsOf (slot : Option SlotNo) : List TlbAt :=
  match slot with
  | some k => [.core (ringOf k) (coreOf k), .ring (ringOf k), .die]
  | none => [.die]
/-- Node entries enter the walk cache. -/
def fillWalks (l new : List WalkEntry) : List WalkEntry :=
  (new ++ l.filter fun e => !new.any fun n => n.root == e.root && n.level == e.level && n.va == e.va).take Config.walkEntries

/-- R369, R370: a translation that a slot or an agent of a die needs, found in a TLB below the first or walked, fills every TLB that
serves it and lacks it; a walk leaves its node entries in the walk cache. The agenda says when. (DEDUCED, log 18) -/
def execPageWalk (who : Walker) (root va : Word) (s : State) : Res :=
  let d := who.die
  let slot := who.slot
  if !(s.die d).present ∨ 2 ^ 55 ≤ va.toNat then .next s
  else
    match s.leafOf d slot .r root.toNat va.toNat with
    | .error _ => .next s
    | .ok e =>
      let nodes := if (tlbFind (s.die d).tlb slot root.toNat va.toNat).isSome then [] else s.nodesFrom d root.toNat va.toNat 3 root.toNat
      let lacks := (tlbsOf slot).filter fun t => !(s.die d).tlb.any fun o => o.held == t && o.covers root.toNat va.toNat
      .next (s.mapDie d fun x => { x with tlb := lacks.foldl (fun l t => fillTlb l { e with held := t }) x.tlb, walks := fillWalks x.walks nodes })

end Sys2Proof.Machine
end

