-- ==== Sys2Proof/Machine/Reservoir.lean ====
section
/-! DEFINITION. The reservoir (R386 to R398): nodes handed to a target die, strands started and resumed, pre-emption,
park and deep park, wakes, lateness, migration and batches. -/

namespace Sys2Proof.Machine

/-! ### Free slots (R18, R391, R462) -/

/-- A logical ring takes strands: active, or served by the spare. -/
def Die.ringUsable (x : Die) (ring : Nat) : Bool :=
  x.retiring != some ring &&
    match (x.rings[Fin.ofNat 9 ring]).st with
    | 0 => true
    | 3 => x.spareFor == some ring && (x.rings[(8 : Fin 9)]).st == 0
    | _ => false
def allSlots : List SlotNo := (upFrom 0 256).map (Fin.ofNat 256)
def State.freeSlots (s : State) (d : DieId) : List SlotNo :=
  allSlots.filter fun k => (s.die d).ringUsable (ringOf k) && s.isFree d k
/-- Running and claimed slots of a core. -/
def State.coreLoad (s : State) (d : DieId) (k : SlotNo) : Nat :=
  (s.busy.filter fun c => c.die == d && c.slot.val / 4 == k.val / 4).length
/-- R325: a CLAIM that reaches a slot's core next would reserve it, and has it before a dispatch. -/
def State.claimed? (s : State) (d : DieId) (k : SlotNo) : Bool :=
  s.net.any fun p => match p with
    | .rill e ring origin hops _ _ (.claim n w) =>
      e == d && ring == ringOf k && decide (hops < 7) && decide (n < w + 1) && (origin + hops + 1) % 8 == coreOf k
        && (upFrom 0 4).all fun i => decide (k.val % 4 ≤ i) || !s.isFree d (slotOf ring (coreOf k) i)
    | _ => false
/-- R391: the free slot on the core with the fewest slots in use, the lowest of equals. -/
def State.pickSlot (s : State) (d : DieId) : Option SlotNo :=
  ((s.freeSlots d).filter fun k => !s.claimed? d k).foldl (fun (b : Option SlotNo) k =>
    match b with
    | none => some k
    | some o => if s.coreLoad d k < s.coreLoad d o then some k else some o) none

/-! ### Nodes start (R375, R387 to R390) -/

/-- An operand in use: its address and its word. -/
def State.operands (s : State) (n : Nat) : List (Word × Word) := ((upFrom 0 4).map fun k => s.nodeOp n k).filter fun o => bitAt o.2 63
/-- The home of the longest operand that translates to DRAM, the first of equals (R387). -/
def State.operandHome (s : State) (d : DieId) (root n : Nat) : Option DieId :=
  ((s.operands n).foldl (fun (b : Option (Nat × DieId)) o =>
    match s.paOf d root o.1 with
    | none => b
    | some pa =>
      match b with
      | some (len, _) => if len < bits o.2 0 48 then some (bits o.2 0 48, homeOf pa) else b
      | none => some (bits o.2 0 48, homeOf pa)) none).map fun p => p.2
/-- R387: the target die. -/
def State.targetDie (s : State) (d : DieId) (root n : Nat) : Option DieId :=
  let set := s.candidates (s.nodeClass n) (s.nodePlace n)
  match s.operandHome d root n with
  | some h => if set.contains h then some h else nearest h set
  | none => set.head?

/-- Free slots of the class in the candidate set. -/
def State.classSlots (s : State) (n : Nat) : Nat :=
  (s.candidates (s.nodeClass n) (s.nodePlace n)).foldl (fun k d => k + (s.freeSlots d).length) 0
/-- R390: the largest split that fits, from `k` down. -/
def splitFrom (n free : Nat) : Nat → Nat
  | 0 => 0
  | k + 1 => if n * 2 ^ (k + 1) ≤ free ∧ n * 2 ^ (k + 1) < 2 ^ 32 then k + 1 else splitFrom n free k
def State.splitOf (s : State) (n : Nat) : Nat :=
  if s.nodeDet n = 1 then 0 else splitFrom (s.nodeCount n) (s.classSlots n) (s.nodeKsplit n)

/-- R398: the absolute deadline. -/
def absDeadline (rel : Word) (tick : Nat) : Word :=
  if rel = BitVec.allOnes 64 ∨ 2 ^ 64 ≤ rel.toNat + tick then BitVec.allOnes 64 else word (rel.toNat + tick)

/-- Does a staged operand translate on all its pages (R389)? (DEDUCED, log 60) -/
def State.stageOk (s : State) (d : DieId) (root n : Nat) : Bool :=
  (s.operands n).all fun o => !bitAt o.2 61 ||
    let lo := o.1.toNat / 65536
    (upFrom lo ((o.1.toNat + bits o.2 0 48 - 1) / 65536 - lo + 1)).all fun p => (s.paOf d root (word (p * 65536))).isSome

/-- R375, R388, R390: a node starts on its target die. -/
def State.startNode (s : State) (n sroot g h : Nat) (t : DieId) : State :=
  let count := s.nodeCount n
  let k := s.splitOf n
  let serial := t.val * 2 ^ 28 + (s.die t).starts.toNat
  let s := s.mapDie t fun x => { x with starts := x.starts + 1 }
  let s := (s.count t 6 0 7 (if 0 < k then 1 else 0)).count t 6 0 8 (if s.nodeDet n = 1 ∧ 0 < s.nodeKsplit n then 1 else 0)
  let s := (s.wr h 0).wr (h + 8) (word (count * 2 ^ k))
  let w := (s.rd (h + 16)).toNat
  let s := s.wr (h + 16) (word (putBits (putBits (putBits w 0 32 0) 48 8 0) 62 2 1))
  let s := s.wr (h + 56) (word (putBits (putBits (s.rd (h + 56)).toNat 32 32 serial) 5 3 k))
  let s := s.setNst n 2 false
  if count = 0 then (s.wr (h + 16) (withST (s.rd (h + 16)) 2)).doWork [.complete n sroot g false]
  else
    let l : Live :=
      { node := n, header := h, handle := s.nodeLaunch n, entry := s.nodeEntry n, root := rootOf (s.rd (h + 48)),
        contbase := s.rd (h + 24), serial := BitVec.ofNat 32 serial, next := 0, count := count * 2 ^ k, prio := s.nodePrio n,
        deadline := absDeadline (s.nodeDeadline n) s.tick, cls := s.nodeClass n, place := s.nodePlace n, since := s.tick,
        batch := none, staged := [], graph := g, sroot := sroot }
    s.mapDie t fun x => { x with lives := x.lives ++ [l] }

/-- R386: nodes that a die's queue holds. -/
def nodeQueue : Nat := 4096
/-- The ready nodes in the queue of a die, whatever their homes. (DEDUCED, log 61) -/
def State.queued (s : State) (t : DieId) : Nat := ((allDies.map fun d => (s.die d).nodes.filter fun q => q.target == some t).flatten).length

/-- R375, R389: a node of its target's queue starts once its launch object is no longer LIVE. -/
def State.startReady (s : State) (q : ReadyNode) (t : DieId) : State :=
  let d := homeOf q.node
  let out := s.mapDie d fun x => { x with nodes := x.nodes.filter fun o => o.node != q.node }
  let bad := (let (s, w) := out.badNode q.sroot q.node q.graph; s.doWork w)
  match s.paOf d q.sroot (s.nodeLaunch q.node) with
  | none => bad
  | some h =>
    if objST (s.rd (h + 16)) = 1 ∨ (s.liveOf h).isSome then s
    else if s.stageOk d (rootOf (s.rd (h + 48))) q.node then out.startNode q.node q.sroot q.graph h t
    else bad

/-- R386, R387: a ready node is handed to its target die while that die's queue has room; R375: there it starts. (DEDUCED, log 61) -/
def execNodeHandoff (n : Nat) (s : State) : Res :=
  let d := homeOf n
  match (s.die d).nodes.find? fun q => q.node == n with
  | none => .next s
  | some q =>
    match q.target, s.paOf d q.sroot (s.nodeLaunch n) with
    | some t, _ => .next (s.startReady q t)
    | none, none => .next s
    | none, some h =>
      match s.targetDie d (rootOf (s.rd (h + 48))) n with
      | none => .next s
      | some t =>
        .next (if nodeQueue ≤ s.queued t then s
          else s.mapDie d fun x => { x with nodes := mapIf (fun o => o.node == n) (fun o => { o with target := some t }) x.nodes })

/-! ### Ranking (R391, R154) -/

/-- Does a strand go before another of a die's queue? One whose quantum has run out leaves one slot to those of its priority (R392);
one that has yielded goes after those of its priority that were ready before it (R154). (DEDUCED, log 56) (DESIGN CHOICE, log 103) -/
def Waiting.before (a b : Waiting) : Bool :=
  if a.prio ≠ b.prio then decide (b.prio.toNat < a.prio.toNat)
  else if a.sliced != b.sliced then b.sliced
  else if b.yielded && !a.yielded && decide (a.since ≤ b.since) then true
  else if a.yielded && !b.yielded && decide (b.since ≤ a.since) then false
  else if a.yielded && b.yielded && a.since != b.since then decide (a.since < b.since)
  else
    let fresh (w : Waiting) : Bool := w.isNew || w.yielded
    if fresh a != fresh b then !fresh a
    else if a.deadline ≠ b.deadline then decide (a.deadline.toNat < b.deadline.toNat)
    else if a.since ≠ b.since then decide (a.since < b.since)
    else decide (a.strand.toNat < b.strand.toNat)

/-- The strand that goes first: the head of the queue against the best of the rest. Where R154 and the keys of R391 order three strands
in a circle, the order of the queue decides. (DESIGN CHOICE, log 103) -/
def bestOf : List Waiting → Option Waiting
  | [] => none
  | w :: ws =>
    match bestOf ws with
    | none => some w
    | some b => if b.before w then some b else some w

/-! ### New strands -/

/-- STRAND of an index of a launch (R374). -/
def Live.strand (l : Live) (i : Nat) : Word := word (l.serial.toNat * 2 ^ 32 + i)
/-- R383: the next index that is not cancelled, from `i`. -/
def State.skipCancelled (s : State) (l : Live) : Nat → Nat → Nat
  | 0, i => i
  | fuel + 1, i => if i < l.count && s.markedStrand (l.strand i) then s.skipCancelled l fuel (i + 1) else i
def State.nextIndex (s : State) (l : Live) : Nat := s.skipCancelled l ((s.die (serialDie (l.strand 0))).cancelled.length + 1) l.next
/-- A batch that still holds strands to dispatch. -/
def State.batchOf (s : State) (l : Live) : Option (DieId × Nat) := l.batch.filter fun b => s.nextIndex l < b.2
/-- May a die dispatch a launch's next strand: the target itself, or the die that holds its batch (R387)? -/
def State.mayDispatch (s : State) (d t : DieId) (l : Live) : Bool :=
  decide (s.nextIndex l < l.count) &&
    match s.batchOf l with
    | none => d == t
    | some (b, _) => d == b
/-- New strands that a die may dispatch, with their launches. (DESIGN CHOICE, log 4) -/
def State.fresh? (s : State) (d : DieId) : List (Waiting × DieId × Live) :=
  (s.presentDies.map fun t => ((s.die t).lives.filter fun l => s.mayDispatch d t l).map fun l =>
    ((⟨l.strand (s.nextIndex l), 0, l.root, l.header, l.node, l.prio, l.deadline, l.cls, l.place, l.since, true, false, false, false, l.entry⟩ : Waiting), t, l)).flatten

/-- A launch changed where it is held. -/
def State.mapLive (s : State) (t : DieId) (h : Nat) (f : Live → Live) : State :=
  s.mapDie t fun x => { x with lives := mapIf (fun l => l.header == h) f x.lives }
/-- An index leaves the counter; the end of a batch frees the counter (R387). -/
def Live.took (l : Live) (i : Nat) : Live :=
  { l with next := i + 1, batch := l.batch.filter fun b => i + 1 < b.2 }

/-- R389: replicas of read operands, each in pieces of 2 MiB, before the first strand on a die that is not their home. (DEDUCED, log 60) -/
def State.prefetchOps (s : State) (d : DieId) (l : Live) : State :=
  (s.operands l.node).foldl (fun s o =>
    let len := bits o.2 0 48
    if bitAt o.2 62 || (s.paOf d l.root o.1).any fun pa => homeOf pa == d then s
    else (upFrom 0 ((len + 2 ^ 21 - 1) / 2 ^ 21)).foldl (fun s k =>
      s.prefetch d none (.node l.deadline) false l.root 64 (o.1.toNat + k * 2 ^ 21) (min (2 ^ 21) (len - k * 2 ^ 21))) s) s

/-- R389: pieces of an operand's bytes, page by page, for a staging copy into a bank. -/
def State.stageMoves (s : State) (d : DieId) (root : Nat) : Nat → Nat → Nat → Nat → List Move
  | 0, _, _, _ => []
  | fuel + 1, va, n, dst =>
    if n = 0 then []
    else
      let k := min n (65536 - va % 65536)
      (match s.paOf d root (word va) with
      | some pa => [⟨pa, dst, k, none, k⟩]
      | none => []) ++ s.stageMoves d root fuel (va + k) (n - k) (dst + k)

/-- R389: the staging copies of a launch into one ring, carried as strips of that ring's streamer. (DEDUCED, log 60) -/
def State.stageRing (s : State) (d : DieId) (ring : Nat) (l : Live) : State :=
  ((s.operands l.node).filter fun o => bitAt o.2 61 && !bitAt o.2 62).foldl (fun s o =>
    let (id, s) := s.take
    let n := bits o.2 0 48
    let ms := s.stageMoves d l.root 6 o.1.toNat n (tileLoc d.val ring (bits o.2 58 3 * Config.bankBytes))
    s.send (.strip ⟨id, .cpIn, none, d, ring, ms, none, none, 0, 0, [], [], l.node, none, l.deadline⟩)) s
def State.hasStage (s : State) (l : Live) : Bool := (s.operands l.node).any fun o => bitAt o.2 61 && !bitAt o.2 62
/-- A staging copy of a node into a ring has not landed. -/
def State.staging (s : State) (d : DieId) (ring node : Nat) : Bool :=
  let mine (t : Strip) : Bool := t.node == node && t.die == d && t.ring == ring
  s.moves.any mine || s.net.any fun p => match p with
    | .strip t => mine t
    | .landing t => mine t
    | _ => false

/-- R15, R374: PRIVBASE of strand `i` under PRIVPLAN. -/
def privOf (plan : Word) (i : Nat) : BitVec 55 :=
  BitVec.ofNat 55 ((bits plan 16 39 + i * (bits plan 0 16 + 1)) % 2 ^ 39 * 65536 + bits plan 0 16)
/-- What a slot loads from the header and the node record (R15, R374). -/
def State.loadHeader (s : State) (c : Ctx) (header node i : Nat) : Ctx :=
  let tv := s.rd (header + 40)
  { c with ctl := { c.ctl with
             privbase := privOf (s.rd (header + 32)) i, tvec := BitVec.ofNat 56 (bits tv 1 55 * 2),
             ptroot := BitVec.ofNat 55 (rootOf (s.rd (header + 48))), detctl := s.nodeDet node },
           prio := s.nodePrio node, header := header, node := node }

/-- A fresh slot for a strand. -/
def State.newCtx (s : State) (d : DieId) (k : SlotNo) (strand launch : Word) : Ctx :=
  { Ctx.reset d k with state := .running, strand := strand, launch := launch, dispatched := s.tick }

/-- R15: a strand starts in a slot from its entry continuation; none where that cannot be read (R418). -/
def State.startStrand (s : State) (d : DieId) (k : SlotNo) (l : Live) (i : Nat) : Option Ctx :=
  match s.readRecord d l.root l.entry.toNat with
  | none => none
  | some r =>
    if r.st ≠ rsNEW ∧ !r.ok then none
    else
      let c := s.newCtx d k (l.strand i) (word (l.handle.toNat / 64 * 64 % 2 ^ 55))
      match s.loadClasses c l.root (r.w 3).toNat r false with
      | none => none
      | some c =>
        let c := s.loadHeader c l.header l.node i
        some { c with
          pc := word ((r.w 0).toNat % 2 ^ 56 / 2 * 2), deadline := l.deadline,
          s := c.s.set (1 : Fin 32) (word i),
          dirty := ⟨true, r.heldBit 62, r.heldBit 61, r.heldBit 60, r.heldBit 59, r.heldBit 58⟩ }

/-- R418: a strand that cannot be started or resumed ends as a cancelled strand, its record marked retired (R384). (DEDUCED, log 59) -/
def State.badRecord (s : State) (d : DieId) (root record header : Nat) : State :=
  let s := s.wr (header + 16) (withCause (s.rd (header + 16)) 3)
  (s.count d 0 0 4 1).retireAway d root record header

/-! ### Resumed strands (R15, R415, R417, R419) -/

/-- What a record gives a resumed strand. -/
def Ctx.fromRecord (c : Ctx) (r : Record) (tick : Nat) : Ctx :=
  let w4 := r.w 4
  let w5 := r.w 5
  let w6 := r.w 6
  { c with
    pc := word ((r.w 0).toNat % 2 ^ 56 / 2 * 2), latem := bitAt w4 59, latet := bitAt w4 58, step := bitAt w4 57,
    wend := if bitAt w4 56 then some (BitVec.ofNat 40 w4.toNat) else none, susp := BitVec.ofNat 4 (bits w4 52 4),
    nowatch := bits w4 40 8 == cWATCH.toNat, rmode := BitVec.ofNat 3 (bits w5 33 3),
    img := { c.img with flags := BitVec.ofNat 6 (bits w5 27 6), span := BitVec.ofNat 9 (bits w5 18 9) &&& 0x13F,
                        ridx := BitVec.ofNat 9 (bits w5 9 9), vl := BitVec.ofNat 9 (bits w5 0 9) },
    dmask := BitVec.ofNat 16 (bits w6 48 16), prio := BitVec.ofNat 3 (bits w6 45 3), deadline := deadlineOf (bits w6 0 45) tick,
    heldBits := BitVec.ofNat 8 (bits (r.w 7) 56 8), save := r.w 3 }

/-- R15: a resumed strand in a slot, with the region it was suspended in. -/
def State.resumeStrand (s : State) (d : DieId) (k : SlotNo) (w : Waiting) : Option (Ctx × Option Region) :=
  match s.readRecord d w.root w.record.toNat with
  | none => none
  | some r =>
    if !r.ok then none
    else
      let c := s.newCtx d k w.strand (word ((r.w 2).toNat / 64 * 64 % 2 ^ 55))
      match s.loadClasses (s.loadHeader c w.header w.node (indexOf w.strand)) w.root (r.w 3).toNat r true with
      | none => none
      | some c =>
        let c := c.fromRecord r s.tick
        let c := { c with stepDue := w.stepDue && c.step }
        let c := if r.heldBit 56 then { c with ilk := s.loadIlk c w.root (r.w 3).toNat } else c
        if bitAt (r.w 5) 40 then
          (s.loadImage c w.root (r.w 3).toNat (r.w 5)).map fun p => ({ c with chunk := some p.2 }, some p.1)
        else some (c, none)

/-- A strand takes its slot; one in a region claims anew (R31). -/
def State.placeStrand (s : State) (c : Ctx) (r : Option Region) : State :=
  let s := (s.putCtx c).freshFetch c.die c.slot
  match r with
  | none => s
  | some r =>
    let s := { s with regions := r :: s.regions.filter fun x => x.strand != c.strand }
    let s := s.mapDie c.die fun x => { x with preds := bindPred x.preds (ringOf c.slot) c.strand c.s false }
    s.inSlot c.die c.slot fun s => s.claim r

/-! ### Dispatch (R389, R391) -/

def State.dispatchResumed (s : State) (d : DieId) (k : SlotNo) (w : Waiting) : State :=
  let s := s.mapDie d fun x => { x with ready := x.ready.filter fun o => o.strand != w.strand }
  match s.resumeStrand d k w with
  | some (c, r) => (s.count d 6 0 1 (if w.yielded then 0 else 1)).placeStrand c r
  | none => s.badRecord d w.root w.record.toNat w.header

/-- R389: an operand that cannot be staged makes a started node a bad record: its launch is cancelled under cause 3. (DEDUCED, log 60) -/
def State.stageFails (s : State) (l : Live) : State :=
  let s := s.badrec l.node (s.tagOf l.graph)
  let (s, w) := s.cancelLaunch l.header 3
  s.doWork w

/-- A new strand: prefetches and staging copies first, then the start. (DEDUCED, log 59, 60) -/
def State.dispatchNew (s : State) (d : DieId) (k : SlotNo) (t : DieId) (l : Live) : State :=
  let s := if l.staged.contains (d, 8) then s else (s.prefetchOps d l).mapLive t l.header fun l => { l with staged := (d, 8) :: l.staged }
  if s.hasStage l && !l.staged.contains (d, ringOf k) then
    if s.stageOk d l.root l.node then
      (s.stageRing d (ringOf k) l).mapLive t l.header fun l => { l with staged := (d, ringOf k) :: l.staged }
    else s.stageFails l
  else if s.staging d (ringOf k) l.node then s
  else
    let i := s.nextIndex l
    let s := (s.mapLive t l.header fun l => l.took i).count d 6 0 0 1
    match s.startStrand d k l i with
    | some c => s.placeStrand c none
    | none => s.badRecord d l.root (recordVa l.contbase (l.strand i)) l.header

/-- R392: a strand of a priority whose quantum had run out has left one slot to another. -/
def State.sliceOver (s : State) (d : DieId) (prio : BitVec 3) : State :=
  s.mapDie d fun x => { x with ready := mapFirst (fun w => w.sliced && w.prio == prio) (fun w => { w with sliced := false }) x.ready }
/-- R391, R472: a die with a free slot takes its best strand; a hot die takes no new one. (DEDUCED, log 55) -/
def execDispatch (d : DieId) (s : State) : Res :=
  let news := if (s.die d).hot then [] else s.fresh? d
  let ready := (s.die d).ready.filter fun w => classAllows w.cls d && !s.isCancelled w.strand
  match s.pickSlot d, bestOf (ready ++ news.map fun p => p.1) with
  | some k, some w =>
    let t := if w.isNew then
      match news.find? fun p => p.1.strand == w.strand with
      | some (_, t, l) => s.dispatchNew d k t l
      | none => s
    else s.dispatchResumed d k w
    .next (if t.isFree d k then t else t.sliceOver d w.prio)
  | _, _ => .next s

/-! ### Pre-emption (R392, R413) -/

/-- The ready strands of a die that wait for want of a free slot. -/
def State.pressing (s : State) (d : DieId) : List Waiting :=
  if (s.pickSlot d).isSome then [] else (s.die d).ready ++ (if (s.die d).hot then [] else (s.fresh? d).map fun p => p.1)
/-- R392: does a running slot come before another as the one to pre-empt? -/
def Ctx.victimBefore (a b : Ctx) : Bool :=
  if a.prio ≠ b.prio then decide (a.prio.toNat < b.prio.toNat)
  else if a.deadline ≠ b.deadline then decide (b.deadline.toNat < a.deadline.toNat)
  else decide (b.dispatched < a.dispatched)
def State.isVictim (s : State) (c : Ctx) : Bool :=
  (s.pressing c.die).any (fun w => decide (c.prio.toNat < w.prio.toNat))
    && s.busy.all fun o => o.die != c.die || o.state != .running || !o.victimBefore c

/-- R413: the strand of the slot `me` is pre-empted. -/
def State.preempt (s : State) : State := s.stopMe 2 fun s => s.stopNow 2

/-- R392, R413: the reservoir or the management kernel reclaims a slot. (DEDUCED, log 56) -/
def execPreemption (d : DieId) (k : SlotNo) (s : State) : Res :=
  match s.ctx? d k with
  | none => .next s
  | some c =>
    if c.state ≠ .running then .next s
    else
      let s := s.count d 6 0 2 (if s.isVictim c && c.stopReq.isNone then 1 else 0)
      .next (s.inSlot d k fun s => s.preempt)

/-- R392: a strand has run its quantum while one of equal priority waits: it is pre-empted, and goes after that one. (DEDUCED, log 56) -/
def execQuantumExpiry (d : DieId) (k : SlotNo) (s : State) : Res :=
  match s.ctx? d k with
  | none => .next s
  | some c =>
    let q := bits (s.die d).regs.rsvctl 32 16
    if c.state ≠ .running ∨ q = 0 ∨ s.tick < c.dispatched + q * 1024 ∨ !(s.pressing d).any (fun w => w.prio == c.prio) then .next s
    else .next ((s.count d 6 0 2 (if c.stopReq.isNone then 1 else 0)).inSlot d k fun s => s.stopMe 1 fun s => s.stopNow 1)

/-! ### Park (R394) -/

/-- The end of a limited wait, as the record keeps it. -/
def Wait.wend (w : Wait) : Option (BitVec 40) :=
  match w.what with
  | .barrier => some (BitVec.ofNat 40 (w.t0 + w.lim))
  | .group => some (BitVec.ofNat 40 (w.t0 + w.lim))
  | _ => none

/-- Does a wait hold a waiter entry, or need none to be woken? Another is not parked, but goes to DEEP (R199). -/
def Wait.parks (w : Wait) : Bool := w.entry || w.what == .reservation || w.what == .group
/-- Parking the strand of the slot `me`. A strand in `wres` has lost its reservation and is ready at once (R184). -/
def State.parkMe (s : State) (w : Wait) : State :=
  let d := s.me.die
  s.suspend true none (fun c => { c with wend := w.wend })
      (if w.what = WaitFor.reservation then rsREADY else if w.parks then rsPARKED else rsDEEP) 1 0 none false fun x s =>
    let s := s.count d 6 0 (if w.parks then 3 else 4) 1
    if w.what = WaitFor.reservation then s.makeReady d x
    else s.mapDie d fun q => { q with parked := q.parked ++ [⟨x, !w.parks, w⟩] }

/-- R394: SPIN ends. -/
def execPark (d : DieId) (k : SlotNo) (s : State) : Res :=
  match s.ctx? d k with
  | none => .next s
  | some c =>
    match c.wait with
    | none => .next s
    | some w =>
      if w.woken ∨ s.tick < w.since + Config.spinTicks ∨ c.level = .system ∨ c.sent.isSome ∨ c.stopReq.isSome then .next s
      else .next (s.inSlot d k fun s => s.parkMe w)

def State.parkedOf (s : State) (strand : Word) : Option (DieId × Parked) :=
  allDies.findSome? fun d => ((s.die d).parked.find? fun p => p.w.strand == strand).map fun p => (d, p)
def State.mapParked (s : State) (d : DieId) (strand : Word) (f : Parked → Parked) : State :=
  s.mapDie d fun x => { x with parked := mapIf (fun p => p.w.strand == strand) f x.parked }
/-- A parked strand becomes ready as resumed. -/
def State.unpark (s : State) (d : DieId) (p : Parked) : State :=
  ((s.recordTo d p.w rsREADY).dropReady d p.w.strand).makeReady d { p.w with since := s.tick }

/-- R394: PARKED becomes DEEP: the waiter entry goes, and the record shows it (R415). -/
def execDeepPark (strand : Word) (s : State) : Res :=
  match s.parkedOf strand with
  | none => .next s
  | some (d, p) =>
    if p.deep ∨ s.tick < p.w.since + Config.spinTicks then .next s
    else
      let s := if p.wait.what = WaitFor.group then s else s.dropWaiter strand (homeOf p.wait.loc)
      .next (((s.recordTo d p.w rsDEEP).mapParked d strand fun p => { p with deep := true, w := { p.w with since := s.tick } }).count d 6 0 4 1)

/-- R394: a deep-parked strand tries again. -/
def execDeepRetry (strand : Word) (s : State) : Res :=
  match s.parkedOf strand with
  | none => .next s
  | some (d, p) =>
    let every := max 1 (bits (s.die d).regs.rsvctl 16 16) * 1024
    .next (if p.deep ∧ p.w.since + every ≤ s.tick then s.unpark d p else s)

/-! ### Wakes and retries (R175, R191, R199) -/

/-- The wait of a slot is over: its instruction re-executes. -/
def State.wakeCtx (s : State) (d : DieId) (k : SlotNo) : State :=
  s.mapCtx d k fun c => { c with wait := c.wait.map fun w => { w with woken := true, entry := false } }

/-- Is a wake from the home of a location meant for a wait? -/
def Wait.hears (w : Wait) (loc : Nat) : Bool := w.what == .group || w.what == .reservation || w.loc == loc
/-- R175, R198: a wake reaches a strand in its slot, or parked; one that comes before the answer it follows stays on its way. A
`gform` whose outcome has come is woken from DEEP too (R394). -/
def execWakeUp (k : Nat) (s : State) : Res :=
  match s.arrive k with
  | some (.wake d strand loc, rest) =>
    let t : State := { s with net := rest }
    .next (match s.busy.find? fun c => c.strand == strand && c.wait.any fun w => w.hears loc with
      | some c => if c.sent.isSome || c.answer.isSome then s else t.wakeCtx c.die c.slot
      | none =>
        if s.busy.any fun c => c.strand == strand && (c.sent.isSome || c.answer.isSome) then s
        else match (s.die d).parked.find? fun p => p.w.strand == strand && p.wait.hears loc && (!p.deep || p.wait.what == .group) with
        | some p => t.unpark d p
        | none => t)
  | _ => .next s

/-- A request without a waiter entry is due again. -/
def Ctx.retryDue (c : Ctx) (tick : Nat) (barrier : Bool) : Bool :=
  c.wait.any fun w => !w.woken && !w.entry && decide (w.retryAt ≤ tick) && (w.what == .barrier) == barrier
    && (w.what == .fullEmpty || w.what == .queue || w.what == .barrier)

/-- R175. -/
def execNackRetry (d : DieId) (k : SlotNo) (s : State) : Res :=
  .next (if (s.ctx? d k).any fun c => c.retryDue s.tick false then s.wakeCtx d k else s)
/-- R199. -/
def execBwaitPoll (d : DieId) (k : SlotNo) (s : State) : Res :=
  .next (if (s.ctx? d k).any fun c => c.retryDue s.tick true then s.wakeCtx d k else s)

/-- R191, R394: the limit of a `bwait` has run out: its strand re-executes it, and it returns WTO. -/
def execBwaitTimeout (strand : Word) (s : State) : Res :=
  let expired (w : Wait) : Bool := w.what == .barrier && decide (w.t0 + w.lim ≤ s.tick)
  match s.busy.find? fun c => c.strand == strand && c.wait.any expired with
  | some c => .next ((match c.wait with
      | some w => s.dropWaiter strand (homeOf w.loc)
      | none => s).wakeCtx c.die c.slot)
  | none =>
    match s.parkedOf strand with
    | some (d, p) => .next (if expired p.wait then (s.dropWaiter strand (homeOf p.wait.loc)).unpark d p else s)
    | none => .next s

/-! ### Lateness (R400, R401) -/

/-- A deadline that a packet carries, and the strand that it counts for (R398, R400). -/
abbrev Due := Word × Option Word
def State.slotDue (s : State) (d : DieId) (k : SlotNo) : Option Due := (s.ctx? d k).map fun c => (c.deadline, some c.strand)
def State.strandDue (s : State) (strand : Word) : Option Due :=
  match s.busy.find? fun c => c.strand == strand with
  | some c => some (c.deadline, some strand)
  | none => (s.awayOf strand).map fun p => (p.2.deadline, some strand)
/-- The packets of a strip, a gather or a collective in progress. -/
def State.stripDue (s : State) (id : Nat) : Option Due :=
  let carried := s.moves ++ s.net.filterMap fun p => match p with
    | .strip t => some t
    | .landing t => some t
    | .gather t => some t
    | _ => none
  match carried.find? fun t => t.id == id with
  | some t => some (t.due, t.strand)
  | none => allDies.findSome? fun d => (s.die d).groups.findSome? fun g => (g.ops.find? fun o => o.id == id).map fun o => (o.due, some o.strand)
/-- Traffic on behalf of a requester; the hardware's own carries no deadline. (DESIGN CHOICE, log 62) -/
def State.whoDue (s : State) : Requester → Option Due
  | .slot d k => s.slotDue d k
  | .slots l => l.head?.bind fun p => s.slotDue p.1 p.2
  | .transfer id =>
    match s.stripDue id with
    | some x => some x
    | none => (s.busy.find? fun c => c.sent == some id).map fun c => (c.deadline, some c.strand)
  | _ => none
def State.prefDue (s : State) (d : DieId) (k : SlotNo) : Pref → Option Due
  | .load => s.slotDue d k
  | .strand st due => some (due, some st)
  | .node due => some (due, none)
/-- The formation that an entry of a die takes part in. -/
def State.formDue (s : State) (d : DieId) (h : BitVec 8) : Option Due :=
  (((s.die d).groups.find? fun g => g.handle == h).bind fun g => g.forming).bind fun f => s.strandDue f.strand
/-- R398: the deadline of a packet of the net; none of the rill, which is none of those networks, and where no strand causes it. (DESIGN CHOICE, log 62) -/
def State.packetDue (s : State) : Packet → Option Due
  | .rill _ _ _ _ _ _ _ => none
  | .request _ d k _ _ _ => s.slotDue d k
  | .reply _ d k _ _ _ => s.slotDue d k
  | .pending d id => ((s.die d).pend.find? fun p => p.id == id).bind fun p => p.writers.head?.bind s.whoDue
  | .collapse _ _ ws => ws.head?.bind s.whoDue
  | .perf _ _ ws _ _ => ws.head?.bind fun p => s.slotDue p.1 p.2
  | .cack _ w => s.whoDue w
  | .read _ d k _ _ p => s.prefDue d k p
  | .fill _ d k _ _ _ p _ _ => s.prefDue d k p
  | .wake _ st _ => s.strandDue st
  | .tlbinv _ d _ k _ _ _ => s.slotDue d k
  | .tlback _ _ d k => s.slotDue d k
  | .strip t => some (t.due, t.strand)
  | .landing t => some (t.due, t.strand)
  | .gather t => some (t.due, t.strand)
  | .batch id _ _ => s.stripDue id
  | .migrate w _ _ => some (w.deadline, some w.strand)
  | .pod _ _ _ st _ _ _ _ _ _ due => some (due, some st)
  | .register _ d h => s.formDue d h
  | .confirm d h _ _ => s.formDue d h
  | .abort _ _ _ _ => none
  | .coll _ _ st due => some (due, some st)
/-- The deadline of a packet that a die arbitrates; that of the management cores, the host interface and scan is 0. (DESIGN CHOICE, log 62) -/
def State.lateDue (s : State) (d : DieId) : LateAt → Option Due
  | .packet k => (s.net[k]?).bind s.packetDue
  | .strip id => s.stripDue id
  | .access k => ((s.ctx? d k).filter fun c => decide (0 < c.overdue)).map fun c => (c.deadline, some c.strand)
  | .management => some (0, none)

/-- R400: a strand is marked for LATE, in its slots, or in its record where it is out of them; once retired it is not (R402). (DESIGN CHOICE, log 62) -/
def State.markLate (s : State) (strand : Word) : State :=
  let f (c : Ctx) : Ctx := if c.strand = strand ∧ c.state ≠ .free ∧ !c.latet ∧ s.lateen c then { c with latem := true } else c
  if s.busy.any fun c => c.strand == strand then { s with me := f s.me, others := s.others.map f }
  else
    match s.awayOf strand with
    | none => s
    | some (d, w) =>
      if bitAt (s.rd (w.header + 56)) 1 then
        (s.editRecord d w.root w.record.toNat 4 fun x => if x / 2 ^ 58 % 2 = 1 then x else putBits x 59 1 1).1
      else s

/-- R400, R402: a packet that a die arbitrates after its deadline is counted there, and marks the strand that caused it, unless that
has retired. (DESIGN CHOICE, log 62) -/
def execLateMark (d : DieId) (packet : LateAt) (s : State) : Res :=
  match s.lateDue d packet with
  | none => .next s
  | some (due, strand) =>
    if s.tick ≤ due.toNat then .next s
    else
      let s := s.count d 6 0 10 1
      let s := match packet with
        | .access k => s.mapCtx d k fun c => { c with overdue := c.overdue - 1 }
        | _ => s
      .next (match strand with
        | some st => s.markLate st
        | none => s)

/-- R401: a marked strand takes LATE at an instruction boundary at strand level; an instruction that waits is left for it (R167). -/
def execLateTrap (d : DieId) (k : SlotNo) (s : State) : Res :=
  match s.ctx? d k with
  | none => .next s
  | some c =>
    let busy := c.sent.isSome || c.stopReq.isSome || (c.stepDue && c.step) || c.chunk.any fun q => q.ended || q.restart
    if c.state ≠ .running ∨ !c.lateDue ∨ busy then .next s
    else .next (s.inSlot d k fun s => s.takeLate)

/-! ### Migration and batches (R33, R387) -/

/-- R33: a strand that migrates is ready on its new die. -/
def execMigrationArrival (k : Nat) (s : State) : Res :=
  match s.arrive k with
  | some (.migrate w _ d, rest) => .next (({ s with net := rest } : State).makeReady d { w with since := s.tick })
  | _ => .next s

/-- Would a die accept strands of a launch: with a free slot, and, for new ones, cool (R472)? -/
def State.accepts (s : State) (fresh : Bool) (d : DieId) : Bool := !(s.freeSlots d).isEmpty && !(fresh && (s.die d).hot)
/-- R387: the die to which a die's offer goes: the nearest of the set that accepts. -/
def State.offerTo (s : State) (fresh : Bool) (t : DieId) (cls : BitVec 2) (place : BitVec 16) : Option DieId :=
  nearest t ((s.candidates cls place).filter fun d => d != t && s.accepts fresh d)

/-- R387: a launch's next indices are handed to another die; or one resumed strand of the launch is. -/
def execBatchOffer (h : Nat) (d : DieId) (s : State) : Res :=
  let batch : Option State :=
    match s.liveOf h with
    | none => none
    | some (t, l) =>
      if (s.batchOf l).isSome ∨ l.count ≤ s.nextIndex l ∨ s.accepts false t ∨ s.offerTo true t l.cls l.place ≠ some d then none
      else
        let i := s.nextIndex l
        let m := min (min 32 (s.freeSlots d).length) (l.count - i)
        some ((s.mapLive t h fun l => { l with batch := some (d, i + m) }).count t 6 0 9 m)
  match batch with
  | some s => .next s
  | none =>
    match allDies.findSome? fun t => (bestOf ((s.die t).ready.filter fun w => w.header == h && !w.yielded)).map fun w => (t, w) with
    | none => .next s
    | some (t, w) =>
      if s.accepts false t ∨ s.offerTo false t w.cls w.place ≠ some d then .next s
      else .next (((s.mapDie t fun x => { x with ready := x.ready.filter fun o => o.strand != w.strand }).makeReady d w).count t 6 0 9 1)

end Sys2Proof.Machine
end

