-- ==== Sys2Proof/Machine/System.lean ====
section
/-! DEFINITION. System instructions and the control registers (R41, R42, R150 to R161). -/

namespace Sys2Proof.Machine

/-! ### Control registers -/

/-- Access to a register at a level (R41). -/
inductive CtlAccess where
  | none | ro | rw
  deriving DecidableEq, Repr

def ctlAccess (n : Nat) (system : Bool) : CtlAccess :=
  if n ≤ 0x005 then .rw
  else match n with
    | 0x006 => .ro
    | 0x007 => .rw
    | 0x008 => .rw
    | 0x009 => if system then .rw else .ro
    | 0x00A => .ro
    | 0x00B => .ro
    | 0x00C => .ro
    | 0x00D => if system then .rw else .ro
    | 0x00E => if system then .rw else .ro
    | 0x00F => if system then .rw else .ro
    | 0x010 => if system then .rw else .none
    | 0x011 => if system then .rw else .none
    | 0x012 => if system then .rw else .none
    | 0x013 => if system then .rw else .none
    | 0x014 => if system then .rw else .none
    | 0x015 => if system then .ro else .none
    | _ => .none

/-- The value of a control register (R42). -/
def State.ctlValue (s : State) (n : Nat) : Word :=
  let c := s.me
  match n with
  | 0x000 => c.img.vl.setWidth 64
  | 0x001 => c.img.span.setWidth 64
  | 0x002 => c.img.ridx.setWidth 64
  | 0x003 => c.img.flags.setWidth 64
  | 0x004 => c.rmode.setWidth 64
  | 0x005 => c.dmask.setWidth 64
  | 0x006 => c.chunkReg.setWidth 64
  | 0x007 => c.ctl.forkctl.setWidth 64
  | 0x008 => c.ctl.predctl.setWidth 64
  | 0x009 => c.detReg
  | 0x00A => c.strand
  | 0x00B => c.launch
  | 0x00C => word s.tick
  | 0x00D => c.deadline
  | 0x00E => c.prio.setWidth 64
  | 0x00F => c.ctl.privbase.setWidth 64
  | 0x010 => c.ctl.tvec.setWidth 64
  | 0x011 => c.epc.setWidth 64
  | 0x012 => c.cause.setWidth 64
  | 0x013 => c.tval
  | 0x014 => c.ctl.ptroot.setWidth 64
  | _ => (s.die c.die).regs.hmask

/-- R41: a reserved value in a defined field. (DEDUCED, log 13) -/
def ctlReserved (n : Nat) (x : Word) : Bool :=
  match n with
  | 0x004 => decide (5 ≤ bits x 0 3)
  | 0x012 => decide (0x15 ≤ bits x 0 8)
  | _ => false

/-- A field of a word as a bit vector. -/
def fld (x : Word) (lo n : Nat) : BitVec n := BitVec.ofNat n (bits x lo n)

/-- A register written: reserved and RO fields ignore the value (R42, R158). (DEDUCED, log 26) -/
def Ctx.ctlPut (c : Ctx) (n : Nat) (x : Word) : Ctx :=
  match n with
  | 0x000 => c.setVl (bits x 0 9)
  | 0x001 => c.setSpan (bits x 4 2) (ETy.ofCode (bits x 0 4))
  | 0x002 => { c with img := { c.img with ridx := fld x 0 9 } }
  | 0x003 => { c with img := { c.img with flags := fld x 0 6 } }
  | 0x004 => { c with rmode := fld x 0 3 }
  | 0x005 => { c with dmask := fld x 0 16 }
  | 0x007 => c.setCtl { c.ctl with forkctl := fld x 0 4 }
  | 0x008 => c.setCtl { c.ctl with predctl := fld x 0 32 }
  | 0x009 => c.setCtl { c.ctl with detctl := fld x 0 2 }
  | 0x00D => { c with deadline := x }
  | 0x00E => { c with prio := fld x 0 3 }
  | 0x00F => c.setCtl { c.ctl with privbase := fld x 0 55 }
  | 0x010 => c.setCtl { c.ctl with tvec := fld x 1 55 ++ (0 : BitVec 1) }
  | 0x011 => { c with epc := fld x 1 55 ++ (0 : BitVec 1) }
  | 0x012 => { c with cause := fld x 0 11 }
  | 0x013 => { c with tval := x }
  | 0x014 => c.setCtl { c.ctl with ptroot := fld x 16 39 ++ (0 : BitVec 16) }
  | _ => c

/-- R319: the predictor table of the slot `me` goes to the clear state. (DEDUCED, log 28) -/
def State.clearPred (s : State) : State :=
  let c := s.me
  s.mapDie c.die fun d => { d with preds := mapIf (fun t => t.ring == ringOf c.slot && t.strand == c.strand) (fun t => PredTable.clear t.ring t.strand c.s) d.preds }

/-- The younger chunks of the strand take the control registers of the oldest. -/
def State.shareCtl (s : State) : State :=
  let c := s.me
  let share (o : Ctx) : Ctx := { o with ctl := c.ctl, rmode := c.rmode, dmask := c.dmask }
  { s with others := mapIf (fun o => o.strand == c.strand && o.state == .claimed) share s.others }

/-- The registers whose change squashes the younger chunks (R26). -/
def squashesYounger (n : Nat) : Bool := n == 4 || n == 5 || n == 7 || n == 8

/-- A write performed: PREDCTL.CLR (R319), the squash of R26. (DEDUCED, log 28) -/
def State.ctlWrite (s : State) (n : Nat) (x : Word) : State :=
  let old := s.ctlValue n
  let s := s.mapMe fun c => c.ctlPut n x
  let s := if n = 8 ∧ bitAt x 32 then s.clearPred else s
  if squashesYounger n then (if s.ctlValue n = old then s else s.squashYounger .value).shareCtl else s

/-- R159, R266: RIDX and FLAGS are read and written after an `mma` in flight has retired. (DEDUCED, log 34) -/
def State.flagsSettled (s : State) (n : Nat) : State := if n = 2 ∨ n = 3 then s.mapMe fun c => c.retireMma else s

def Ctx.ctlAccess (c : Ctx) (n : BitVec 11) : CtlAccess := Machine.ctlAccess n.toNat (c.level == .system)

/-- R158, R41. -/
def execCtlr (d : SReg) (n : BitVec 11) (s : State) : Res :=
  .next (if s.me.ctlAccess n = .none then s.trap s.me.illegal
    else
      let s := s.flagsSettled n.toNat
      s.result d (s.ctlValue n.toNat))

/-- The check of a write (R41). -/
def Ctx.ctlBad (c : Ctx) (n : BitVec 11) (x : Word) : Bool := c.ctlAccess n ≠ .rw || ctlReserved n.toNat x

/-- R158, R41: held but for the chunk-private registers. -/
def execCtlw (a : SReg) (n : BitVec 11) (s : State) : Res :=
  let x := s.getS a
  .next (if s.me.ctlBad n x then s.trap s.me.illegal
    else if n.toNat ≤ 3 then ((s.flagsSettled n.toNat).ctlWrite n.toNat x).done4
    else s.held fun s => (s.ctlWrite n.toNat x).done4)

/-- R158: always held; the old value goes to sd. -/
def execCtlx (d a : SReg) (n : BitVec 11) (s : State) : Res :=
  let x := s.getS a
  .next (if s.me.ctlBad n x then s.trap s.me.illegal
    else s.held fun s =>
      let s := s.flagsSettled n.toNat
      (s.ctlWrite n.toNat x).result d (s.ctlValue n.toNat))

/-- R319: a write of 1 to PREDCTL.CLR by the slot `me`, as a step of its own. (DEDUCED, log 28) -/
def execPredctlClr (s : State) : Res := .next s.clearPred

/-! ### System instructions -/

/-- R151: EPC is the next word. -/
def execSvc (i : BitVec 11) (s : State) : Res := .next (s.trap ⟨cSVC, i.setWidth 64, false, 4⟩)
/-- R151. -/
def execBrk (i : BitVec 11) (s : State) : Res := .next (s.trap (.of cBRK (i.setWidth 64)))
/-- R152: system only. -/
def execEret (s : State) : Res := .next (if s.me.level = .strand then s.trap s.me.illegal else s.held fun s => s.eret)
/-- R156: the slot's fetch buffer is discarded and the core's L1I invalidated. (DESIGN CHOICE, log 10) -/
def State.dropFetched (s : State) : State := s.freshFetch s.me.die s.me.slot
/-- R156: once earlier stores are performed at home, no copy of an instruction word is left. (DESIGN CHOICE, log 10) -/
def execIfence (s : State) : Res := .next (s.held fun s => if s.settled .die 0 then s.dropFetched.done4 else s)
/-- R153. -/
def execDone (s : State) : Res :=
  .next (s.held fun s =>
    ((s.mapMe fun c => { c with ending := true }).endSpeculation s.me).releaseAll fun s => if s.me.ilk.isEmpty && s.alone then (s.quiesce false).retire 4 false else s)
/-- R154: READY again at once, ranked as a new strand. -/
def execYield (s : State) : Res :=
  .next (if s.me.level = .system then s.trap s.me.illegal
    else s.held fun s =>
      let d := s.me.die
      s.suspend false none (fun c => { c with pc := c.pc + 4, stepDue := c.step }) rsREADY 5 0 none true (fun w s => s.makeReady d w))
/-- R155. -/
def execHop (a : SReg) (s : State) : Res :=
  .next (if s.me.level = .system then s.trap s.me.illegal
    else
      let x := s.getS a
      let d := Fin.ofNat 16 x.toNat
      if 16 ≤ x.toNat ∨ !s.present x.toNat then s.trap (.of cABSENT_HOME x)
      else if !classAllows (s.nodeClass s.me.node) d then s.trap (.of cACCESS x)
      else s.held fun s => if d = s.me.die then s.done4 else s.migrateTo d 4)

/-! ### Translations (R160) -/

/-- Removing the entries of a die that overlap a range of virtual addresses, from every level and whatever their root, and all of
its walk cache (R370). -/
def State.dropTlb (s : State) (d : DieId) (lo n : Nat) : State :=
  s.mapDie d fun x => { x with tlb := x.tlb.filter fun e => !(e.va < lo + n && lo < e.va + 2 ^ leafLog e.level), walks := [] }

/-- The range that `tlbinv` names: all of the global space for a length of 0. -/
def tlbRange (base len : Word) : Nat × Nat :=
  if len = 0 then (0, 2 ^ 55)
  else
    let lo := base.toNat / 65536 * 65536
    let hi := min ((base.toNat + len.toNat + 65535) / 65536 * 65536) (2 ^ 55)
    (lo, hi - lo)

/-- R160: the named dies other than its own are asked; the instruction waits for their acknowledgements. -/
def State.tlbinv (s : State) (base len : Word) : State :=
  let (lo, n) := tlbRange base len
  s.release .mask fun s =>
    let c := s.me
    let dies := s.maskDies c.dmask
    let s := if dies.contains c.die then s.dropTlb c.die lo n else s
    let far := dies.filter (· != c.die)
    if far.isEmpty then s.done4
    else
      let (id, s) := s.take
      (s.sendAll (far.map fun d => .tlbinv id c.die d c.slot 0 lo n)).mapMe fun c => { c with sent := some id }

/-- R160: system only. -/
def execTlbinv (a b : SReg) (s : State) : Res :=
  let base := s.getS a
  .next (if s.me.level = .strand then s.trap s.me.illegal
    else s.held fun s =>
      if s.me.answer.isSome then s.done4
      else if 2 ^ 55 ≤ base.toNat then s.trap (.of cNONCANON base)
      else s.tlbinv base (s.getS b))

/-- R160: a named die removes the translations and acknowledges; at the last acknowledgement the waiting
`tlbinv` goes on. -/
def execTlbinvAck (k : Nat) (s : State) : Res :=
  match s.arrive k with
  | some (.tlbinv id src dst slot _ lo n, rest) =>
    .next (({ s with net := rest } : State).dropTlb dst lo n |>.send (.tlback id dst src slot))
  | some (.tlback id _ die slot, rest) =>
    let left := rest.any fun p => match p with
      | .tlbinv i _ _ _ _ _ _ => i == id
      | .tlback i _ _ _ => i == id
      | _ => false
    let s := { s with net := rest }
    .next (if left then s else s.mapCtx die slot fun c =>
      if c.sent = some id then { c with sent := none, answer := some (.value 0 0 none) } else c)
  | _ => .next s

end Sys2Proof.Machine
end

