-- ==== Sys2Proof/Machine/Boot.lean ====
section
/-! DEFINITION. Boot, identity and the manifest (R452 to R459), ageing and the spare ring (R460 to R465), freeze, scan
and temperature (R470 to R472). -/

namespace Sys2Proof.Machine

/-! ### Verification (R452 to R456) -/

def rsnIMAGE : BitVec 4 := 1
def rsnROLLBACK : BitVec 4 := 2
def rsnAUTH : BitVec 4 := 3
def rsnEXHAUSTED : BitVec 4 := 4
def rsnNORESP : BitVec 4 := 5

/-- An entry of the image table (R452). -/
structure ImageEntry where
  kind : Nat
  cls : Nat
  /-- Bits [31:10] of the TYPE, CLASS word. -/
  rest : Nat
  len : Nat
  offset : Nat
  digest : Nat
  deriving DecidableEq, Repr

end Sys2Proof.Machine

namespace Sys2Proof

/-- A field of the image table: `n` bytes from byte `k`, little-endian (R452). -/
def BootReport.field (r : BootReport) (k n : Nat) : Nat := ofBytes ((r.table.drop k).take n)
def BootReport.magic (r : BootReport) : Nat := r.field 0 4
def BootReport.svn (r : BootReport) : Nat := r.field 4 4
def BootReport.entries (r : BootReport) : Nat := r.field 8 4
def BootReport.entry (r : BootReport) (e : Nat) : Machine.ImageEntry :=
  let w := r.field (16 + 48 * e) 4
  ⟨w % 256, w / 256 % 4, w / 1024, r.field (20 + 48 * e) 4, r.field (24 + 48 * e) 8, r.field (32 + 48 * e) 32⟩
def BootReport.list (r : BootReport) : List Machine.ImageEntry := (Machine.upFrom 0 r.entries).map r.entry

end Sys2Proof

namespace Sys2Proof.Machine

/-- R452: bytes of an HSS signature of RFC 8554 with L = 1 and the parameter sets that R452 names. (PRESUMED, log 111) -/
def sigBytes : Nat := 2672
/-- R452: a TYPE, CLASS word, an aligned offset, and a range inside the flash (R453). -/
def ImageEntry.ok (e : ImageEntry) (flash : Nat) : Bool :=
  1 ≤ e.kind && e.kind ≤ 3 && e.rest == 0 && e.offset % 4096 == 0 && decide (e.offset + e.len ≤ flash)
/-- No two entries are of one class and type (R452). -/
def distinctEntries : List ImageEntry → Bool
  | [] => true
  | e :: es => !(es.any fun o => o.kind == e.kind && o.cls == e.cls) && distinctEntries es
/-- R453: the table is accepted. (DEDUCED, log 68) -/
def tableOk (r : BootReport) : Bool :=
  r.sigOk && r.magic == 0x44584249 && 1 ≤ r.entries && r.entries ≤ 16 && r.table.length == 16 + 48 * r.entries + sigBytes && r.field 12 4 == 0
    && (r.list.all fun e => e.ok r.flash) && distinctEntries r.list
/-- Is an image one of a die's class (R452): either class, M or S? -/
def ImageEntry.isFor (e : ImageEntry) (d : DieId) : Bool := e.cls == 0 || e.cls == if Config.isM d.val then 1 else 2
/-- R453: the digest of every image of the die's class matches its entry. (DEDUCED, log 68) -/
def imagesOk (d : DieId) (r : BootReport) : Bool :=
  (r.list.zip (upFrom 0 r.entries)).all fun p => !p.1.isFor d || (r.shas[p.2]?.map BitVec.toNat) == some p.1.digest
/-- The network record of a die's boot data; empty without a type-3 entry (R427, R452). -/
def recordOf (d : DieId) (r : BootReport) : List Byte := if r.list.any fun e => e.kind == 3 && e.isFor d then r.net else []
/-- R456: leaves of an identity key. -/
def leafLimit : Nat := 2 ^ 20

/-! ### The network record (R427) -/

def recByte (r : List Byte) (k : Nat) : Nat := ((r[k]?).getD 0).toNat
/-- Fields in network byte order. -/
def recField (r : List Byte) (k n : Nat) : Nat := (upFrom k n).foldl (fun x i => x * 256 + recByte r i) 0
def recOk (r : List Byte) : Bool :=
  r.length == 48 && recField r 0 4 == 0x4E455431 && recByte r 4 / 16 == 0 && recByte r 7 == 0 && recByte r 4 / 4 % 4 != 3
/-- MODE; a missing or invalid record acts as MODE 0. -/
def netMode (r : List Byte) : Nat := if recOk r then recByte r 4 else 0
def v4Dhcp (r : List Byte) : Bool := netMode r / 4 % 2 == 0 && netMode r % 2 == 0
def v6Auto (r : List Byte) : Bool := netMode r / 8 % 2 == 0 && netMode r / 2 % 2 == 0
/-- The addresses that the record itself gives. (DEDUCED, log 81) -/
def State.takeRecord (s : State) (r : List Byte) : State :=
  { s with
    netRec := r,
    ip4 := if netMode r / 4 % 2 = 0 ∧ netMode r % 2 = 1 then some (BitVec.ofNat 32 (recField r 8 4)) else s.ip4,
    ip6 := if netMode r / 8 % 2 = 0 ∧ netMode r / 2 % 2 = 1 then some (BitVec.ofNat 128 (recField r 16 16)) else s.ip6 }

/-- R457: 500 ms, and R458: 2 s, in ticks. -/
def authTicks : Nat := 500000 * Config.ticksPerUs
def inclusionTicks : Nat := 2000000 * Config.ticksPerUs
/-- R458: inclusion is not decided yet. (DEDUCED, log 68) -/
def State.deciding (s : State) : Bool := s.tick ≤ (s.die 4).verifiedAt + inclusionTicks
/-- A die whose boot ROM has read the flash. -/
def Die.booted (x : Die) : Bool := x.verified || x.reason != 0
/-- R455: die 4 reads its own flash; another die reads it over a link to a die that has, hop by hop from die 4. (DEDUCED, log 68) -/
def State.reads (s : State) (d : DieId) : Bool :=
  d == 4 || ((s.die 4).verified && [Dir.east, .west, .south, .north].any fun dir => (s.die (neighbour d dir)).booted)

/-- R453 to R455: a die verifies the table and its images; die 4 first, and a refusal by die 4 ends the boot. What comes after the
decision of R458 comes too late. (DEDUCED, log 68) -/
def execBootVerify (d : DieId) (r : BootReport) (s : State) : Res :=
  if s.phase ≠ .boot ∨ (s.die d).booted ∨ !s.reads d ∨ (d ≠ 4 ∧ !s.deciding) then .next s
  else
    let x := s.die d
    let why : BitVec 4 := if !(tableOk r && imagesOk d r) then rsnIMAGE else if r.svn < x.svnMin then rsnROLLBACK else 0
    if why ≠ 0 then
      if d = 4 then .next { s with phase := .bootFailed, pins := { s.pins with bootfail := true } }
      else .next (s.mapDie d fun x => { x with reason := why })
    else
      let s := s.mapDie d fun x => { x with verified := true, verifiedAt := s.tick, digest := r.tableSha, svn := r.svn }
      .next (if d = 4 then s.takeRecord (recordOf d r) else s)

/-! ### Authentication and inclusion (R456 to R459) -/

/-- R457: a signature takes a leaf; a die without leaves does not sign. -/
def Die.canSign (x : Die) : Bool := x.verified && x.leaves < leafLimit
def State.useLeaf (s : State) (d : DieId) : State := s.mapDie d fun x => { x with leaves := x.leaves + 1 }

/-- R457: when the exchange over a link begins: both ends have verified. (DEDUCED, log 68) -/
def State.authStart (s : State) (d e : DieId) : Nat :=
  max (if (s.die d).verified then (s.die d).verifiedAt else 0) (if (s.die e).verified then (s.die e).verifiedAt else 0)
/-- R457: the exchange over a link ends within 500 ms, and before the decision of R458; it passes only when both ends sign, each end
verifies the other's certificate and signature, and their tables agree. (DEDUCED, log 68) -/
def execLinkAuth (d : DieId) (dir : Dir) (r : LinkAuth) (s : State) : Res :=
  let e := neighbour d dir
  let l := s.link d dir
  if s.phase ≠ .boot ∨ l.heard ∨ !(s.die d).canSign ∨ !(s.die e).canSign ∨ s.authStart d e + authTicks < s.tick ∨ !s.deciding then .next s
  else
    let ok := r.ours && r.theirs && (s.die d).digest == (s.die e).digest
    .next (((s.useLeaf d).useLeaf e).mapLink d dir fun l => { l with heard := true, passed := ok, failed := !ok })

/-- R457: no answer within 500 ms. -/
def execLinkAuthTimeout (d : DieId) (dir : Dir) (s : State) : Res :=
  .next (if s.phase = .boot ∧ !(s.link d dir).heard ∧ s.authStart d (neighbour d dir) + authTicks ≤ s.tick then s.mapLink d dir fun l => { l with heard := true } else s)

def allDirs : List Dir := [.east, .west, .south, .north]
/-- R458: dies reached from a set over passed links. -/
def State.includeNext (s : State) (l : List DieId) : List DieId :=
  allDies.filter fun d => l.contains d || ((s.die d).verified && allDirs.any fun dir => (s.link d dir).passed && l.contains (neighbour d dir))
def State.included (s : State) : Nat → List DieId → List DieId
  | 0, l => l
  | n + 1, l => s.included n (s.includeNext l)
/-- R458: the reason of an excluded die. -/
def State.reasonOf (s : State) (d : DieId) : BitVec 4 :=
  let x := s.die d
  if x.reason ≠ 0 then x.reason
  else if allDirs.any fun dir => (s.link d dir).failed then rsnAUTH
  else if x.verified && decide (leafLimit ≤ x.leaves) then rsnEXHAUSTED
  else rsnNORESP

/-- R459: the manifest of an inclusion. (DEDUCED, log 72) -/
def State.manifestOf (s : State) (inc : List DieId) : Vector Word 9 :=
  let mask := (maskOf inc).toNat
  let counts (k : Nat) : Bool :=
    let d := Fin.ofNat 16 (k / 2)
    inc.contains d && inc.contains (neighbour d (if k % 2 = 0 then .east else .south))
  let ups := (upFrom 0 32).foldl (fun n k => if (s.links[Fin.ofNat 32 k]).passed && counts k then n + 2 ^ k else n) 0
  let reasons := allDies.foldl (fun n d => n + (s.die d).reason.toNat * 16 ^ d.val) 0
  let rings := inc.foldl (fun n d => n + 8 * 16 ^ d.val) 0
  let degraded := if mask = 0xFFFF ∧ ups = 2 ^ 32 - 1 then 0 else 1
  let dig (k : Nat) : Word := word ((s.die 4).digest.toNat / 2 ^ (64 * k))
  #v[word (ups * 65536 + mask), word reasons, word ((s.die 4).svn * 2 ^ 32 + degraded), dig 0, dig 1, dig 2, dig 3, word s.tick, word rings]

/-- R454: SVNMIN, read as the blown ones of 64 one-time bits, rises to the SVN of the table booted. -/
def Die.blow (x : Die) : Die := { x with svnMin := max x.svnMin (min x.svn 64) }
/-- R454, R458, R459: inclusion is decided, the manifest written, the endpoints open, the host is told; the counters of R454 rise only
after a boot that is not degraded. -/
def execInclusionTimeout (s : State) : Res :=
  if s.phase ≠ .boot ∨ !(s.die 4).verified ∨ s.tick < (s.die 4).verifiedAt + inclusionTicks then .next s
  else
    let inc := s.included 16 [4]
    let s := allDies.foldl (fun s d =>
      if inc.contains d then s.mapDie d fun x => { x with present := true, reason := 0 }
      else s.mapDie d fun x => { x with present := false, reason := s.reasonOf d }) s
    let s := { s with links := Vector.ofFn fun k =>
      let d := Fin.ofNat 16 (k.val / 2)
      let e := neighbour d (if k.val % 2 = 0 then .east else .south)
      { s.links[k] with up := s.links[k].passed && inc.contains d && inc.contains e } }
    let m := s.manifestOf inc
    let s := { (s.mapDie 4 fun x => { x with regs := { x.regs with manifest := m } }) with phase := .running }
    let s := if bitAt m[2] 0 then s else allDies.foldl (fun s d => s.mapDie d Die.blow) s
    .next (s.post ⟨4, .ctl⟩ 0x80 4 0 0 0 0 (m.toList.map w64).flatten)

/-- R470: module reset: only DRAM and the non-volatile stores keep what they hold. (DESIGN CHOICE, log 2) -/
def State.moduleReset (s : State) : State :=
  { State.reset with
    mem := s.mem.filter fun c => isDram c.1, lost := s.lost.filter isDram, serial := s.serial, fresh := s.fresh, agenda := s.agenda,
    dies := Vector.ofFn fun d =>
      let x := s.dies[d]
      { Die.reset with svnMin := x.svnMin, leaves := x.leaves,
                       rings := Vector.ofFn fun r => { RingAge.reset r.val with gb := x.rings[r].gb } } }
/-- R470. -/
def execModuleReset (s : State) : Res := .next s.moduleReset

/-! ### Ageing (R460 to R465) -/

/-- The physical ring that serves a logical one. -/
def Die.physical (x : Die) (ring : Nat) : Fin 9 := if x.spareFor = some ring then 8 else Fin.ofNat 9 ring
/-- The logical ring that a physical one serves. -/
def Die.logical (x : Die) (ring : Fin 9) : Option Nat :=
  if ring = 8 then x.spareFor else if x.spareFor = some ring.val then none else some ring.val
def Die.setRing (x : Die) (r : Fin 9) (f : RingAge → RingAge) : Die := { x with rings := x.rings.set r (f x.rings[r]) }

/-- Every strand on a ring is pre-empted (R462 step 1). -/
def State.clearRing (s : State) (d : DieId) (ring : Nat) : State :=
  (s.busy.filter fun c => c.die == d && ringOf c.slot == ring && c.state == .running).foldl (fun s c => s.inSlot c.die c.slot fun s => s.preempt) s

/-- R464: a ring is fenced: one active ring fewer. -/
def State.fence (s : State) (d : DieId) (ring : Nat) : State :=
  let s := s.mapDie d fun x => x.setRing (x.physical ring) fun a => { a with st := 4 }
  let s := s.mapDie 4 fun x => { x with regs := { x.regs with manifest := x.regs.manifest.set 8 (x.regs.manifest[8] - word (16 ^ d.val)) } }
  (s.post ⟨d, .age⟩ 0x81 d 0 0 (word ring) 0 []).clearRing d ring

/-- R462, R464: a logical ring is retired to the spare, or fenced where there is none. A fenced one is left. (DEDUCED, log 69) -/
def State.retireRing (s : State) (d : DieId) (ring : Nat) : State :=
  let x := s.die d
  if (x.rings[x.physical ring]).st = 4 then s
  else if x.spareFor.isNone && (x.rings[(8 : Fin 9)]).st == 1 then
    ((s.mapDie d fun x => { x with retiring := some ring }).clearRing d ring).ringEmptied d
  else s.fence d ring

/-- R460: monitors of a ring are sampled; the guard-band rises by a step, or the ring is retired (R462). At boot the
sample is the spare's margin test (R463). (DEDUCED, log 68) -/
def execAgeSample (d : DieId) (ring : Fin 9) (slack : Nat) (s : State) : Res :=
  let x := s.die d
  let ctl := x.regs.agectl
  let low := bits ctl 16 8
  if s.phase = .boot then
    .next (if ring = 8 ∧ slack < low then s.mapDie d fun x => x.setRing 8 fun a => { a with st := 2 } else s)
  else if !x.present ∨ s.tick % (max 1 (bits ctl 0 16) * 2 ^ 20) ≠ 0 then .next s
  else
    let a := x.rings[ring]
    let m := match a.margin with | some m => min m slack | none => slack
    let s := s.mapDie d fun x => x.setRing ring fun a => { a with margin := some m }
    if low ≤ m then .next s
    else if a.gb + 1 ≤ bits ctl 24 8 then .next (s.mapDie d fun x => x.setRing ring fun a => { a with gb := a.gb + 1 })
    else
      match x.logical ring with
      | some r => .next (if x.retiring.isSome then s else s.retireRing d r)
      | none => .next s

/-! ### Temperature, freeze and test access (R470 to R472) -/

/-- R472: temperatures are in 0.1 °C; above 100 °C no new strand is dispatched, and the host is told. (PRESUMED, log 71) -/
def execThermalAlert (d : DieId) (temp : Nat) (s : State) : Res :=
  .next (if 1000 < temp ∧ (s.die d).present then
    (s.mapDie d fun x => { x with hot := true }).post ⟨d, .age⟩ 0x82 d 0 0 (word d.val) (word temp) []
  else s)
/-- R472: the eight sensors read below 95 °C. (PRESUMED, log 71) -/
def execThermalClear (d : DieId) (temps : List Nat) (s : State) : Res :=
  .next (if temps.length = 8 ∧ temps.all (fun t => decide (t < 950)) then s.mapDie d fun x => { x with hot := false } else s)
/-- R470: every clock stops. -/
def State.freeze (s : State) : State := { s with pins := { s.pins with frozen := true } }
/-- R472: at 115 °C, in boot as well (R471). (PRESUMED, log 71) -/
def execThermtrip (_ : DieId) (temp : Nat) (s : State) : Res :=
  .next (if 1150 ≤ temp then { s with pins := { s.pins with frozen := true, thermtrip := true } } else s)
/-- R470: the pin FREEZE, in boot as well (R471). -/
def execFreeze (s : State) : Res := .next s.freeze

/-- R471: IDCODE of a die. -/
def idcode : BitVec 32 := 0x19160A3B
/-- R471: the IDCODE of each of the 16 dies of the chain is shifted out. -/
def execTapIdcode (s : State) : Res := .next { s with bypass := false, wire := .tapIds (allDies.map fun _ => idcode) :: s.wire }
/-- R471: each of the 16 dies stands in the chain with its bypass bit, which captures 0. (PRESUMED, log 112) -/
def execTapBypass (s : State) : Res := .next { s with bypass := true, wire := .tapBits (allDies.map fun _ => false) :: s.wire }

/-- What the scan network shifts out. -/
def State.shift (s : State) (x : Option (List Byte)) : State := { s with wire := .scan x :: s.wire }
/-- A byte of a line that the chunk of a slot versions in its L1D (R313, R314); 0 where it holds none. -/
def Ctx.l1dByte (c : Ctx) (a : Nat) : Byte := (c.chunk.bind fun k => (cellGet k.wr a).or (cellGet k.valid a)).getD 0
/-- A TLB entry as a scan shows it: root, first address, level and PTE. -/
def TlbEntry.bytes (e : TlbEntry) : List Byte := w64 (word e.root) ++ w64 (word e.va) ++ w64 (word e.level) ++ w64 e.pte
/-- The value of a control register of any slot. -/
def State.ctlOf (s : State) (d : DieId) (k : SlotNo) (n : Nat) : Word := (s.focus d k).ctlValue n

/-- R471: an access of the scan network; DRAM and the non-volatile counters are only read. (DEDUCED, log 70) -/
def State.scan (s : State) : ScanAcc → State
  | .memRead loc => { s with wire := .scan (some (memBytes s.mem loc 8)) :: s.wire }
  | .memWrite loc x => if isTile loc then { s with mem := memWrite s.mem loc (w64 x) } else { s with wire := .scan none :: s.wire }
  | .sReg d k r => { s with wire := .scan (some (w64 ((s.ctx d k).getS r))) :: s.wire }
  | .sRegWrite d k r x => s.mapCtx d k fun c => { c with s := if r = 0 then c.s else c.s.set r x }
  | .svnMin d => { s with wire := .scan (some (w64 (word (s.die d).svnMin))) :: s.wire }
  | .leaves d => { s with wire := .scan (some (w64 (word (s.die d).leaves))) :: s.wire }
  | .vReg d k r => { s with wire := .scan (some (bytesOf 256 (s.ctx d k).img.v[r].toNat)) :: s.wire }
  | .vRegWrite d k r x => s.mapCtx d k fun c => { c with img := { c.img with v := c.img.v.set r x } }
  | .mReg d k r => { s with wire := .scan (some (bytesOf 32 ((s.ctx d k).getM r).toNat)) :: s.wire }
  | .mRegWrite d k r x => s.mapCtx d k fun c => { c with img := { c.img with m := if r = 0 then c.img.m else c.img.m.set r x } }
  | .accRow d k a i => { s with wire := .scan (some (bytesOf 256 (s.ctx d k).img.acc[a].rows[i].toNat)) :: s.wire }
  | .accRowWrite d k a i x => s.mapCtx d k fun c =>
    { c with img := { c.img with acc := c.img.acc.set a { c.img.acc[a] with rows := c.img.acc[a].rows.set i x } } }
  | .replica d line => { s with wire := .scan (((s.die d).replicas.find? fun l => l.line == line).map fun l => l.data.map unlost) :: s.wire }
  | .oxReg d k r => s.shift (some (w64 (s.ctx d k).ox[r].val))
  | .oxRegWrite d k r x => s.mapCtx d k fun c => { c with ox := c.ox.set r { c.ox[r] with val := x } }
  | .ctlReg d k n => s.shift (some (w64 (s.ctlOf d k n.val)))
  | .ctlRegWrite d k n x => s.mapCtx d k fun c => c.ctlPut n.val x
  | .pc d k => s.shift (some (w64 (s.ctx d k).pc))
  | .pcWrite d k x => s.mapCtx d k fun c => { c with pc := x }
  | .sharedTag d line => s.shift (((s.die d).shared.find? fun l => l.line == line).map fun l => BitVec.ofNat 8 l.dirty.toNat :: l.cores.map fun q => BitVec.ofNat 8 q)
  | .memTag d line => s.shift (((s.die d).memside.find? fun l => l.line == line).map fun l => [BitVec.ofNat 8 l.dirty.toNat])
  | .l1iLine d q line => s.shift (((s.die d).icopies.find? fun i => i.slot.isNone && i.ring * 8 + i.core == q.val && i.line.line == line).map fun i => i.line.data.map unlost)
  | .l1dLine d k line => s.shift (some ((upFrom line 256).map fun a => (s.ctx d k).l1dByte a))
  | .tlbEntry d i => s.shift (((s.die d).tlb[i]?).map TlbEntry.bytes)
/-- R471: only while frozen. (DEDUCED, log 70) -/
def execScanAccess (a : ScanAcc) (s : State) : Res := .next (if s.pins.frozen then s.scan a else s)

end Sys2Proof.Machine
end

