-- ==== Sys2Proof/Machine/Control.lean ====
section
/-! DEFINITION. Branches, jumps and forked regions at the instruction level (R137 to R149). -/

namespace Sys2Proof.Machine

/-- R137. -/
def execBeq (a b : SReg) (o : BitVec 11) (s : State) : Res := s.branch (s.getS a == s.getS b) (imm11 o) 4
/-- R137. -/
def execBne (a b : SReg) (o : BitVec 11) (s : State) : Res := s.branch (s.getS a != s.getS b) (imm11 o) 4
/-- R137. -/
def execBlt (a b : SReg) (o : BitVec 11) (s : State) : Res := s.branch (decide ((s.getS a).toInt < (s.getS b).toInt)) (imm11 o) 4
/-- R137. -/
def execBge (a b : SReg) (o : BitVec 11) (s : State) : Res := s.branch (decide ((s.getS b).toInt ≤ (s.getS a).toInt)) (imm11 o) 4
/-- R137. -/
def execBltn (a b : SReg) (o : BitVec 11) (s : State) : Res := s.branch (decide ((s.getS a).toNat < (s.getS b).toNat)) (imm11 o) 4
/-- R137. -/
def execBgen (a b : SReg) (o : BitVec 11) (s : State) : Res := s.branch (decide ((s.getS b).toNat ≤ (s.getS a).toNat)) (imm11 o) 4
/-- R138, R142. -/
def execJl (d : SReg) (i : BitVec 19) (s : State) : Res :=
  .next ((s.setS d (s.me.pc + 4)).callTo (d != 0) false (s.me.pc + (imm19 i <<< (1 : Nat))))
/-- R139, R142. -/
def execJlr (d a : SReg) (i : BitVec 11) (s : State) : Res :=
  let t := s.getS a + imm11 i
  .next (if t.getLsbD 0 then s.trap (.of cMISALIGN t) else (s.setS d (s.me.pc + 4)).callTo (d != 0) true t)

/-! ### Forked regions -/

/-- The region that `fork` enters (R141): head, exit, chunk length, and the fork image as chunks find it. -/
def Ctx.newRegion (c : Ctx) (n : Nat) (off : Word) : Region :=
  { die := c.die, ring := ringOf c.slot, strand := c.strand, head := c.pc + 4, exit := c.pc + (off <<< (1 : Nat)),
    c := if 2 ^ 16 ≤ n then 0 else n, image := c.img.trim, live := c.live, flags := c.img.flags, todo := [], slots := [c.slot], base := 0,
    claimed := false, next := 1, passed := 0, lastS := c.s, lastOx := c.ox, dirty := c.dirty }

/-- R326: what is to be written to the save area at the fork, when the private memory holds one. (DEDUCED, log 15) -/
def Ctx.imageTodo (c : Ctx) (r : Region) : List (Nat × List Byte) :=
  if saveFits c.ctl.privbase then ((r.forkWrites c (saveBase c.ctl.privbase)).map fun w => pieces w.1 w.2).flatten else []

/-- R141: the region begins and chunk 0 starts at the head. -/
def State.enterRegion (s : State) (r : Region) : State :=
  let c := s.me
  let s := { s with regions := r :: s.regions.filter fun x => x.strand != c.strand }
  let s := s.mapDie c.die fun d => { d with preds := bindPred d.preds (ringOf c.slot) c.strand c.s true }
  let s := s.claim { r with todo := c.imageTodo r }
  let s := s.imageStep
  (s.mapMe fun c => { c with img := r.image, chunk := some { Chunk.start 0 true with fin := BitVec.allOnes 32 } }).done4

/-- R141. The slots of the strand's last region are free first. (DEDUCED, log 51) -/
def execFork (a : SReg) (o : BitVec 11) (s : State) : Res :=
  .next (if o.toInt < 3 then s.trap s.me.illegal
    else if s.me.chunk.isSome then s.done4
    else if !s.alone then s
    else
      let s := s.mapMe fun c => c.retireMma
      s.enterRegion (s.me.newRegion (s.getS a).toNat (imm11 o)))

/-- One more iteration of the chunk. -/
def State.iterate (s : State) : State := s.mapMe fun c => { c with chunk := c.chunk.map fun k => { k with iter := k.iter + 1 } }
/-- The chunk stops issuing, complete or final. -/
def State.endChunk (s : State) (final : Bool) : State :=
  s.mapMe fun c => { c with chunk := c.chunk.map fun k => { k with ended := true, final := k.final || final } }

/-- R144; in a trap handler of the oldest chunk it is a branch (R31, R142). A loop that goes on inside the body counts as the not-taken
row has it, and one taken with the count past the chunk's length ends the chunk complete. (DESIGN CHOICE, log 95) -/
def execFloop (a b : SReg) (o : BitVec 11) (s : State) : Res :=
  let taken := decide ((s.getS a).toInt < (s.getS b).toInt)
  let target := s.me.pc + (imm11 o <<< (1 : Nat))
  match s.me.chunk, s.me.regionOf s with
  | some k, some r =>
    if s.me.inHandler ∨ target ≠ r.head ∨ k.depth ≠ 0 then s.branch taken (imm11 o) 4
    else if !taken then .next s.iterate.done4
    else if r.c = 0 ∨ k.iter + 1 < r.c then .next (s.iterate.jump target 0)
    else .next ((s.iterate.jump target 0).endChunk false)
  | _, _ => s.branch taken (imm11 o) 4

/-- R147. -/
def execFhold (s : State) : Res := .next (s.held fun s => s.done4)

/-- R146. (DESIGN CHOICE, log 95) -/
def execFexit (o : BitVec 11) (s : State) : Res :=
  .next ((s.jump (s.me.pc + (imm11 o <<< (1 : Nat))) s.me.depth).endChunk true)

/-! ### Words that are no instruction (R87, R117) -/

/-- R117: a reserved encoding has no effect but ILLEGAL, with the instruction word in TVAL. -/
def execReservedEncoding (w : Word) (s : State) : Res := .next (s.trap (.of cILLEGAL w))
/-- R87 steps 1 and 2: the fault of a fetch, at the address of the halfword that faults. -/
def execInstructionFetchFault (code : BitVec 8) (addr : Word) (s : State) : Res := .next (s.trap (.of code addr))

end Sys2Proof.Machine
end

