-- ==== Sys2Proof/Machine/Operands.lean ====
section
/-! DEFINITION. Operand forms of the vector, matrix and geometry instructions: the checks of SPAN (R87 steps 3
and 5, R106), elements and masks (R39, R228, R229), operand-extension records (R107 to R116), bank formats
(R73 to R75). -/

namespace Sys2Proof

/-- Signed integer types. -/
def ETy.signed : ETy → Bool
  | .i8 | .i16 | .i32 | .i64 | .i4 => true
  | _ => false
/-- The integer types of 8 bits and more (R106). -/
def ETy.isInt : ETy → Bool
  | .i8 | .i16 | .i32 | .i64 | .n8 | .n16 | .n32 | .n64 => true
  | _ => false
def ETy.isFloat : ETy → Bool
  | .f64 | .f32 | .f16 | .bf16 => true
  | _ => false
def ETy.isDxb : ETy → Bool
  | .dxb8 | .dxb4 => true
  | _ => false
/-- R50, R110: bytes of an element, one for those of 4 bits. -/
def ETy.bytes (t : ETy) : Nat := Nat.max (t.ew / 8) 1
/-- The format of a floating element type; f32 stands for the others. -/
def ETy.ff (t : ETy) : Machine.FF := (Machine.ETy.ff? t).getD Machine.ff32

end Sys2Proof

namespace Sys2Proof.Machine

/-! ### Checks at issue -/

def anyType (_ : ETy) : Bool := true
def intOrFloat (t : ETy) : Bool := t.isInt || t.isFloat

/-- R39: a group's first register. -/
def Ctx.groupOk (c : Ctx) (r : VReg) : Bool := r.val % c.g == 0

/-- R87 steps 3 and 5 for an instruction that depends on SPAN: its groups, then SPAN.IF and its type class. An
`mma` in flight retires first, so that RIDX and FLAGS are its own no longer (R266). (DEDUCED, log 34) -/
def State.span (s : State) (regs : List VReg) (ok : ETy → Bool) (f : State → State) : State :=
  if !regs.all s.me.groupOk then s.trap s.me.illegal
  else if s.me.spanIF || !ok s.me.et then s.trap s.me.illformed
  else f (s.mapMe fun c => c.retireMma)

/-! ### Elements (R39, R228) -/

def Ctx.elem (c : Ctx) (r : VReg) (i : Nat) : Nat := elemGet c.img.v r.val c.et.ew i
/-- Element `i` of a block of registers from `r` at another width. -/
def Ctx.elemAt (c : Ctx) (r ew i : Nat) : Nat := elemGet c.img.v r ew i
/-- Writing elements: nothing is written, and no class is dirty, when the list is empty. -/
def Ctx.putElems (c : Ctx) (r ew : Nat) (l : List (Nat × Nat)) : Ctx := if l.isEmpty then c else c.setV (elemsSet c.img.v r ew l)
/-- Active elements from `lo` (R228). -/
def Ctx.activeFrom (c : Ctx) (m : MReg) (lo : Nat) : List Nat := (upFrom lo (c.vl - lo)).filter fun i => c.active m i

/-- Bits of a mask replaced at indices. -/
def maskPut (m : BitVec 256) : List (Nat × Bool) → BitVec 256
  | [] => m
  | (i, b) :: l => maskPut (if b then m ||| BitVec.ofNat 256 (2 ^ i) else m &&& ~~~BitVec.ofNat 256 (2 ^ i)) l
def Ctx.putMask (c : Ctx) (d : MReg) (l : List (Nat × Bool)) : Ctx := if l.isEmpty then c else c.setM d (maskPut (c.getM d) l)

/-- OR of flags. -/
def orAll (l : List (BitVec 6)) : BitVec 6 := l.foldl (· ||| ·) 0

/-- The end of an element-wise instruction: RIDX is cleared. -/
def State.doneElems (s : State) : State := (s.mapMe fun c => c.setRidx 0).done4

/-- An element-wise instruction (R229, R230): a result with flags for each active element from RIDX. (DEDUCED, log 33) -/
def State.elemwise (s : State) (d : VReg) (m : MReg) (f : Nat → FRes) : State :=
  let c := s.me
  let rs := (c.activeFrom m c.ridx).map fun i => (i, f i)
  ((s.mapMe fun c => c.putElems d.val c.et.ew (rs.map fun r => (r.1, r.2.1))).orFlags (orAll (rs.map fun r => r.2.2))).doneElems

/-- An element-wise comparison: a mask bit with flags for each active element. (DEDUCED, log 33) -/
def State.elemMask (s : State) (d m : MReg) (f : Nat → Bool × BitVec 6) : State :=
  let c := s.me
  let rs := (c.activeFrom m c.ridx).map fun i => (i, f i)
  ((s.mapMe fun c => c.putMask d (rs.map fun r => (r.1, r.2.1))).orFlags (orAll (rs.map fun r => r.2.2))).doneElems

/-- A whole instruction that writes elements of a group (R229). -/
def State.whole (s : State) (d : VReg) (l : List (Nat × Nat)) (fl : BitVec 6) : State :=
  ((s.mapMe fun c => c.putElems d.val c.et.ew l).orFlags fl).done4

/-- Low bits of an s register as every element (R38, R242). -/
def Ctx.scalar (c : Ctx) (b : SReg) : Nat := (c.getS b).toNat % 2 ^ c.et.ew

/-! ### Operand-extension records (R107 to R116) -/

/-- KMAX and NMAX of the operand types of `mma` (R111). -/
def matLimits : ETy → Option (Nat × Nat)
  | .f64 => some (32, 32)
  | .f32 => some (32, 64)
  | .f16 => some (64, 64)
  | .bf16 => some (64, 64)
  | .i8 => some (128, 64)
  | .dxb8 => some (128, 64)
  | .dxb4 => some (256, 64)
  | _ => none

/-- The static checks of a kind: does a value break one? (DEDUCED, log 14) -/
def oxBreaks (k : OxKind) (x : Word) : Bool :=
  match k with
  | .raw => false
  | .shape =>
    let es := bits x 56 3
    let rl := bits x 0 11
    decide (3 < es) || bits x 11 5 != 0 || rl == 0 || decide (1024 < rl) || rl % 2 ^ es != 0
      || (bitAt x 63 && (ETy.ofCode (bits x 59 4)).bytes != 2 ^ es)
  | .mat =>
    let t := ETy.ofCode (bits x 60 4)
    let k := bits x 47 9
    let n := bits x 40 7
    bits x 56 4 != bits x 60 4 || bitAt x 38 || bits x 0 2 != 0
      || match matLimits t with
        | none => true
        | some (km, nm) => k == 0 || decide (km < k) || n == 0 || decide (nm < n) || (t.isDxb && k % 32 != 0)
  | .st =>
    let t := bits x 32 4
    bits x 36 7 == 0 || decide (64 < bits x 36 7) || !(t == 2 || (10 ≤ t && t ≤ 13))
  | .pack => decide (bits x 0 4 < 14)
  | .geom => false
  | .qinit => decide (24 < bits x 8 5) || decide (5 < bits x 0 3)
  | .coll => decide (4 < bits x 44 4) || bits x 40 2 == 3

/-- R107: a value into an ox register under a kind; in a region the younger chunks hear of it (R318). -/
def State.setOx (s : State) (x : OxReg) (k : OxKind) (v : Word) : State :=
  let o : Ox := ⟨v, BitVec.ofNat 3 k.code, oxBreaks k v⟩
  let s := s.mapMe fun c => c.setOx x o
  match s.me.chunk with
  | some q => if s.ringed s.me.strand then s.send (s.me.rill q.j (.oxw x o)) else s
  | none => s

/-- R108: an ox operand of a kind, or ILLFORMED. -/
def State.ox (s : State) (x : OxReg) (k : OxKind) (f : Word → State) : State :=
  let o := s.me.ox[x]
  if o.kind.toNat ≠ k.code ∨ o.bad then s.trap s.me.illformed else f o.val

/-! ### Bank formats (R73 to R75) -/

/-- The bank a byte of a tile store lies in. -/
def State.bfmtAt (s : State) (loc : Nat) : Bfmt := (s.die (homeOf loc)).bfmt[Fin.ofNat 64 (bankOf loc)]
/-- First location of the bank of a location. -/
def bankStart (loc : Nat) : Nat := loc / 2 ^ 18 * 2 ^ 18

/-- The format of the bank an address names, with the offset of its exponent plane; none for a raw bank and for
an address outside the tile stores. (DEDUCED, log 31) -/
def State.bankFmt (s : State) (va : Word) : Option (ETy × Nat) :=
  match s.placeOf s.me .r 3 va with
  | .ok p =>
    if isTile p.loc then
      let b := s.bfmtAt p.loc
      if b.fmtv then some (ETy.ofCode b.fmt.toNat, b.epoff.toNat * 16) else none
    else none
  | .error _ => none

end Sys2Proof.Machine
end

