-- ==== Sys2Proof/Machine/Dxb.lean ====
section
/-! DEFINITION. The DXB block formats (R62 to R72) and conversions between element types (R61). -/

namespace Sys2Proof.Machine

/-- A DXB format (R62, R64, R69): widths, exponent bias B, P, MMAX, the place of SEL and S. -/
structure Dx where
  bias : Nat
  p : Nat
  mmax : Nat
  /-- Bits of MAG; S and SEL follow. -/
  mb : Nat
  deriving DecidableEq, Repr

def dx8 : Dx := ⟨132, 5, 63, 6⟩
def dx4 : Dx := ⟨128, 1, 3, 2⟩
def dxOf (t : ETy) : Dx := if t = .dxb4 then dx4 else dx8

/-- R64: the value of an element under its block's exponents. -/
def Dx.decode (d : Dx) (x e0 e1 : Nat) : FV :=
  if e0 = 0xFF ∨ e1 = 0xFF then .nan false
  else
    let e := if x / 2 ^ (d.mb + 1) % 2 = 0 then e0 else e1
    .fin (x / 2 ^ d.mb % 2 == 1) (x % 2 ^ d.mb) ((e : Int) - d.bias)

/-- Absolute difference of two non-negative dyadics, and the order of two such. -/
def absDiff (m1 : Nat) (e1 : Int) (m2 : Nat) (e2 : Int) : Nat × Int :=
  let (s, e) := addExact false m1 e1 true m2 e2
  (s.natAbs, e)
def dyLt (x y : Nat × Int) : Bool := decide ((addExact false x.1 x.2 true y.1 y.2).1 < 0)

/-- R70: a magnitude under one exponent: the element's MAG and its error. -/
def Dx.quant (d : Dx) (m : Nat) (e : Int) (ex : Nat) : Nat × (Nat × Int) :=
  let s : Int := (ex : Int) - d.bias
  let q := min (roundAt 0 false m e false s).1 d.mmax
  (q, absDiff m e q s)

/-- R70: one active element, with its flags; `capped` says that E0 met the cap of R69. -/
def Dx.encode (d : Dx) (e0 e1 : Nat) (capped neg : Bool) (m : Nat) (e : Int) : FRes :=
  let (q0, r0) := d.quant m e e0
  let (q1, r1) := d.quant m e e1
  let sel := dyLt r1 r0
  let q := if sel then q1 else q0
  let err := if sel then r1 else r0
  let x := (if sel then 2 ^ (d.mb + 1) else 0) + (if neg then 2 ^ d.mb else 0) + q
  let big := capped && dyLt (d.mmax, (e0 : Int) - d.bias) (m, e)
  (x, (if err.1 = 0 then 0 else fNX) ||| (if m ≠ 0 ∧ q = 0 then fUF else 0) ||| (if big then fOF else 0))

/-- floor(log2) of a dyadic, least for zero. -/
def dyTop (m : Nat) (e : Int) : Int := e + topBit m

/-- R69: E0 of a block whose largest magnitude is m · 2^e, before the cap. -/
def Dx.e0 (d : Dx) (m : Nat) (e : Int) : Nat :=
  let x := dyTop m e - d.p + d.bias
  let q := (roundAt 0 false m e false (x - d.bias)).1
  (if d.mmax < q then x + 1 else x).toNat

/-- An active input after the flush of R68: index, sign, magnitude; and its flags. -/
def flush (f : FF) (v : FV) : FV × BitVec 6 :=
  match v with
  | .fin neg m e => if m < 2 ^ f.mb ∧ m ≠ 0 then (.fin neg 0 e, fUF ||| fNX) else (v, 0)
  | v => (v, 0)

/-- The largest magnitude of some values. -/
def largest : List FV → Nat × Int
  | [] => (0, 0)
  | .fin _ m e :: l => let r := largest l; if dyLt r (m, e) then (m, e) else r
  | _ :: l => largest l

/-- R68 to R70: a block of active elements of format `f`: E0, E1, the elements, the flags of each event: one for each element, and
one for the cap of R69. -/
def Dx.packAll (d : Dx) (f : FF) (gap : Nat) (xs : List (Nat × Nat)) : (Nat × Nat) × List (Nat × Nat) × List (BitVec 6) :=
  let vs := xs.map fun p => (p.1, flush f (f.dec p.2))
  let fls := vs.map fun v => v.2.2
  let vals := vs.map fun v => (v.1, v.2.1)
  let bad := vals.any fun v => match v.2 with | .fin _ _ _ => false | _ => true
  let inv (v : FV) : Bool := match v with | .inf _ => true | .nan s => s | _ => false
  if bad then ((0xFF, 0xFF), vals.map fun v => (v.1, 0), vs.map fun v => v.2.2 ||| (if inv v.2.1 then fNV else 0))
  else
    let top := largest (vals.map Prod.snd)
    if top.1 = 0 then ((0, 0), vals.map fun v => (v.1, if v.2.signBit then 2 ^ d.mb else 0), fls)
    else
      let raw := d.e0 top.1 top.2
      let capped := decide (254 < raw)
      let e0 := min raw 254
      let e1 := e0 - gap
      let ys := vals.map fun v => match v.2 with
        | .fin neg m e => (v.1, d.encode e0 e1 capped neg m e)
        | _ => (v.1, (0, 0))
      ((e0, e1), ys.map fun y => (y.1, y.2.1), (List.zipWith (fun a y => a ||| y.2.2) fls ys) ++ (if capped then [fOF ||| fNX] else []))
/-- The same with the events ORed, as FLAGS takes them. -/
def Dx.pack (d : Dx) (f : FF) (gap : Nat) (xs : List (Nat × Nat)) : (Nat × Nat) × List (Nat × Nat) × BitVec 6 :=
  let r := d.packAll f gap xs
  (r.1, r.2.1, orAll r.2.2)

/-- R67: the gap of a GAP field. -/
def gapOf (g : Nat) : Nat := if g = 0 then 4 else g

/-! ### Conversions between element types (R61) -/

/-- Integer types, those of 4 bits too. -/
def ETy.integral (t : ETy) : Bool := !t.isFloat && !t.isDxb

/-- An exact value into a type that is not DXB. -/
def fvTo (t : ETy) (m : Mode) (v : FV) : FRes :=
  if t.isFloat then t.ff.ofV m v
  else
    let r := irange t.signed t.ew
    let q := toInt m r.1 r.2 v
    (iwrap t.ew q.1, q.2)

/-- R61: an integer of one type as an element of another integer type: extended, or saturated. -/
def intTo (src dst : ETy) (x : Nat) : Nat :=
  let v : Int := if src.signed then sread src.ew x else ((x % 2 ^ src.ew : Nat) : Int)
  if src.ew < dst.ew then iwrap dst.ew v
  else
    let r := irange dst.signed dst.ew
    iwrap dst.ew (if v < r.1 then r.1 else if r.2 < v then r.2 else v)

/-- R61: an element of a type that is not DXB as another such type. -/
def convert (src dst : ETy) (m : Mode) (x : Nat) : FRes :=
  if src = dst then (x % 2 ^ src.ew, 0)
  else if src.isFloat then fvTo dst m (src.ff.dec x)
  else if dst.isFloat then dst.ff.ofInt m (if src.signed then sread src.ew x else ((x % 2 ^ src.ew : Nat) : Int))
  else (intTo src dst x, 0)

end Sys2Proof.Machine
end

