-- ==== Sys2Proof/Machine/Transfer.lean ====
section
/-! DEFINITION. Transfers: `cp` and `gx` (R204 to R211), the streamers (R334, R335) and gather units (R363, R364)
that carry them, and their landing (R190, R208). -/

namespace Sys2Proof.Machine

/-! ### What a transfer checks at issue -/

/-- Is an address in the space a transfer names (R204): the global space, or a tile-store window? A non-canonical
address is left to the row checks. -/
def inSpace (tile : Bool) (va : Word) : Bool :=
  va.toNat / 2 ^ 56 ≠ 0 || (if tile then va.toNat / 2 ^ 54 == 2 else va.toNat / 2 ^ 55 == 0)

/-- The first of some checks that fails, else what follows. -/
def State.checks (s : State) (f : State → State) : List (Bool × Trap) → State
  | [] => f s
  | (bad, t) :: l => if bad then s.trap t else s.checks f l

/-- R204: the barrier operand: none for 0; ACCESS unless a 16-byte-aligned global address; its word translated. (DEDUCED, log 25) (DESIGN CHOICE, log 96) -/
def State.barrierOf (s : State) (va : Word) (f : State → Option Place → State) : State :=
  if va = 0 then f s none
  else if va.toNat / 2 ^ 55 ≠ 0 ∨ va.toNat % 16 ≠ 0 then s.trap (.of cACCESS va)
  else
    match s.look .rw 0 va 16 with
    | .ok p => f (if s.me.speculative then s else s.markAccess p true) (some p)
    | l => s.refuse l

/-- R209: a transfer waits for one of the 8 entries. -/
def State.entryFree (s : State) (f : State → State) : State := if s.me.ilk.length < Config.ilkEntries then f s else s

/-- The places of `n` bytes at an address, cut where a page ends. -/
def State.span2 (s : State) (k : AccessKind) (spaces : Nat) (va : Word) (n : Nat) : Except Look (List (Place × Nat)) :=
  let n1 := min n (65536 - va.toNat % 65536)
  match s.look k spaces va n1 with
  | .ok p =>
    if n1 = n then .ok [(p, n)]
    else
      match s.look k spaces (va + word n1) (n - n1) with
      | .ok q => .ok [(p, n1), (q, n - n1)]
      | l => .error l
  | l => .error l

/-- A tile-store range lies within one bank (R205, R210). -/
def oneBank (loc n : Nat) : Bool := decide (loc % 2 ^ 18 + n ≤ 2 ^ 18)

/-- Pieces of a source paired with pieces of a destination, cut wherever either is. -/
def pairFrom : Nat → List (Nat × Nat) → List (Nat × Nat) → List Move
  | fuel + 1, (p, n) :: ps, (q, m) :: qs =>
    let k := min n m
    ⟨p, q, k, none, k⟩ :: pairFrom fuel (if n = k then ps else (p + k, n - k) :: ps) (if m = k then qs else (q + k, m - k) :: qs)
  | _, _, _ => []
def pairUp (src dst : List (Place × Nat)) : List Move :=
  pairFrom (src.length + dst.length) (src.map fun p => (p.1.loc, p.2)) (dst.map fun p => (p.1.loc, p.2))

/-- A row that may be sent: its moves, its addresses (flat), the bytes it writes, and the translations it used. -/
structure RowPlan where
  moves : List Move
  src : Nat
  dst : Nat
  dn : Nat
  reads : List Place
  writes : List Place
  /-- Exponents read and written, as flat address and length. -/
  esrc : Nat × Nat
  edst : Nat × Nat
  deriving DecidableEq, Repr

/-- The exponents of `n` bytes at a flat tile-store address under a format whose plane lies at `ep` (R74). -/
def expRange (t : ETy) (ep va n : Nat) : Nat × Nat :=
  if !t.isDxb then (0, 0)
  else
    let e0 := va % 2 ^ 18 * 8 / t.ew / 32
    let e1 := ((va % 2 ^ 18 + n - 1) * 8 + 7) / t.ew / 32
    (va / 2 ^ 18 * 2 ^ 18 + ep + 2 * e0, 2 * (e1 + 1 - e0))

/-- R207: EPOFF of a placement, in bytes. -/
def placeEp (t : ETy) : Nat := match t with | .dxb8 => 0x3C000 | .dxb4 => 0x38000 | _ => 0

/-- The three copies. -/
inductive CpKind where
  | cpIn | cpOut | cpTt
  deriving DecidableEq, Repr

def CpKind.srcTile : CpKind → Bool
  | .cpIn => false
  | _ => true
def CpKind.dstTile : CpKind → Bool
  | .cpOut => false
  | _ => true
def CpKind.ilk : CpKind → IlkKind
  | .cpIn => .cpIn
  | .cpOut => .cpOut
  | .cpTt => .cpTt

/-- The formats between which a bank-to-bank row converts (R206): both banks formatted, and differently. (DEDUCED, log 38) -/
def State.rowConv (s : State) (k : CpKind) (place : Option ETy) (src dst : Nat) : Option (ETy × ETy) :=
  if k ≠ .cpTt then none
  else
    let a := s.bfmtAt src
    let b := s.bfmtAt dst
    let sf := ETy.ofCode a.fmt.toNat
    let df := place.getD (ETy.ofCode b.fmt.toNat)
    if a.fmtv && (place.isSome || b.fmtv) && sf != df then some (sf, df) else none

/-- R205, R206: the checks of one row. (DEDUCED, log 38) -/
def State.planRow (s : State) (k : CpKind) (place : Option ETy) (len : Nat) (sa sd : Word) : Except Look RowPlan :=
  let acc (va : Word) : Except Look RowPlan := .error (.trap (.of cACCESS va))
  match s.span2 .r (if k.srcTile then 3 else 0) sa len with
  | .error l => .error l
  | .ok src =>
    match s.look .w (if k.dstTile then 3 else 0) sd 1 with
    | .ok d0 =>
      let s0 := (src.headD (Place.tile 0, 0)).1.loc
      let conv := s.rowConv k place s0 d0.loc
      let dn := match conv with
        | some (sf, df) => (len * 8 / sf.ew * df.ew + 7) / 8
        | none => len
      match s.span2 .w (if k.dstTile then 3 else 0) sd dn with
      | .error l => .error l
      | .ok dst =>
        let offBlock := match conv with
          | some (sf, df) => df.isDxb && (len * 8 / sf.ew % 32 != 0 || d0.loc % 2 ^ 18 * 8 % (32 * df.ew) != 0)
          | none => false
        if offBlock then acc sd
        else if k.srcTile && !oneBank s0 len then acc sa
        else if k.dstTile && !oneBank d0.loc dn then acc sd
        else
          let fs := s.me.flat sa
          let fd := s.me.flat sd
          let ep (b : Bfmt) := b.epoff.toNat * 16
          let es := match conv with | some (sf, _) => expRange sf (ep (s.bfmtAt s0)) fs len | none => (0, 0)
          let ed := match conv with
            | some (_, df) => expRange df (if place.isSome then placeEp df else ep (s.bfmtAt d0.loc)) fd dn
            | none => (0, 0)
          let moves := match conv with
            | some _ => [⟨s0, d0.loc, len, conv, dn⟩]
            | none => pairUp src dst
          .ok ⟨moves, fs, fd, dn, src.map Prod.fst, dst.map Prod.fst, es, ed⟩
    | l => .error l

/-- Does a planned row wait: its exponents pending, or a store of the die to its bytes not yet performed (R299)? -/
def State.rowWaits (s : State) (r : RowPlan) : Bool :=
  let busy (write : Bool) (e : Nat × Nat) := e.2 != 0 && (s.locOf e.1).any fun l => s.interlocked write l e.2
  busy false r.esrc || busy true r.edst
    || r.moves.any fun m => s.storePending m.src m.len || s.storePending m.dst m.wlen

/-- The rows in order, until one fails: those before it, and the failing row with its reason. -/
def State.planRows (s : State) (f : Nat → Except Look RowPlan) : List Nat → List RowPlan × Option (Nat × Look)
  | [] => ([], none)
  | r :: rs =>
    match f r with
    | .error l => ([], some (r, l))
    | .ok p =>
      if s.rowWaits p then ([], some (r, .stall))
      else
        let q := s.planRows f rs
        (p :: q.1, q.2)

/-- The smallest range that holds some ranges; empty ones do not count. -/
def hull (l : List (Nat × Nat)) : Nat × Nat :=
  match l.filter fun r => r.2 != 0 with
  | [] => (0, 0)
  | r :: rs =>
    let lo := rs.foldl (fun m r => min m r.1) r.1
    let hi := rs.foldl (fun m r => max m (r.1 + r.2)) (r.1 + r.2)
    (lo, hi - lo)

/-- A and D of the rows sent. -/
def State.markRows (s : State) (rs : List RowPlan) : State :=
  let marks := (rs.map fun r => r.reads.map (fun p => (p, false)) ++ r.writes.map (fun p => (p, true))).flatten
  marks.foldl (fun s p => (s.markAccess p.1 p.2).noteMig p.1) s

/-- An entry of the slot's interlock table. -/
def State.addIlk (s : State) (e : Ilk) : State := s.mapMe fun c => { c with ilk := c.ilk ++ [e] }

/-- R334: the streamer that takes a copy whose first move is known. -/
def CpKind.streamer (k : CpKind) (m : Move) : DieId × Nat :=
  if k = .cpIn then (homeOf m.src, (m.dst - tileBase) % 2 ^ 24 / 2 ^ 21) else (homeOf m.src, (m.src - tileBase) % 2 ^ 24 / 2 ^ 21)

/-- R34: the barrier word of a transfer that is sent is counted where it lies on a migrate page of a class not allowed. -/
def State.noteBarrier (s : State) (bar : Option Place) : State := match bar with | some p => s.noteMig p | none => s

/-- Sending a strip of planned rows (R205, R209, R334). -/
def State.sendStrip (s : State) (k : CpKind) (place : Option ETy) (bar : Option Place) (len : Nat) (rs : List RowPlan) : State :=
  if rs.isEmpty then s
  else
    let (id, s) := ((s.markRows rs).noteBarrier bar).take
    let moves := (rs.map (·.moves)).flatten
    let at_ := k.streamer (moves.headD ⟨0, 0, 0, none, 0⟩)
    let src := hull (rs.map fun r => (r.src, len))
    let dst := hull (rs.map fun r => (r.dst, r.dn))
    let es := hull (rs.map (·.esrc))
    let ed := hull (rs.map (·.edst))
    let s := s.addIlk ⟨k.ilk, id, src.1, src.2, dst.1, dst.2, es.1, es.2, ed.1, ed.2⟩
    s.send (.strip ⟨id, k.ilk, some (s.me.die, s.me.slot), at_.1, at_.2, moves, place, bar.map (·.loc), rs.foldl (fun n r => n + r.dn) 0, 0, [], [], 0,
      some s.me.strand, s.me.deadline⟩)

/-- The end of a transfer's issue: complete, or the fault of the first row or element that failed (R205), or the strand goes to the
die of a migrate page that it touches, with RIDX at its index (R33). -/
def State.endTransfer (s : State) : Option (Nat × Look) → State
  | some (r, .trap t) => (s.mapMe fun c => c.setRidx r).trap { t with elem := true }
  | some (r, .migrate d) => (s.mapMe fun c => c.setRidx r).migrateTo d 0
  | _ => s.doneElems

/-- Does a plan stop before anything is sent: a wait? -/
def planStops : Option (Nat × Look) → Option Look
  | some (_, .trap _) => none
  | some (_, .migrate _) => none
  | some (_, l) => some l
  | none => none

/-- A copy: the checks of R110 and R204 to R207, then its rows from RIDX; an `mma` in flight is not waited for. (DESIGN CHOICE, log 93, 104) -/
def State.copy (s : State) (k : CpKind) (d a b : SReg) (x : OxReg) : Res :=
  let sd := s.getS d
  let sa := s.getS a
  .next (s.ox x .shape fun rec =>
    let es := 2 ^ bits rec 56 3
    let dstr := sextN 20 (bits rec 36 20)
    let sstr := sextN 20 (bits rec 16 20)
    let len := bits rec 0 11
    let place := if bitAt rec 63 then some (ETy.ofCode (bits rec 59 4)) else none
    let mis (v : Word) := (v.toNat % es != 0, Trap.of cMISALIGN v)
    s.checks (fun s => s.barrierOf (s.getS b) fun s bar => s.held fun s => s.entryFree fun s =>
      let rows := upFrom s.me.ridx (s.me.vl - s.me.ridx)
      let plan := s.planRows (fun r => s.planRow k place len (sa + word r * sstr) (sd + word r * dstr)) rows
      match planStops plan.2 with
      | some l => s.refuse l
      | none => (s.sendStrip k place bar len plan.1).endTransfer plan.2)
      [mis dstr, mis sstr, mis sa, mis sd, (!inSpace k.srcTile sa, .of cACCESS sa), (!inSpace k.dstTile sd, .of cACCESS sd),
       (k == .cpOut && place.isSome, .of cACCESS sd)])

/-- R204 to R209. -/
def execCpIn (d a b : SReg) (x : OxReg) (s : State) : Res := s.copy .cpIn d a b x
/-- R204 to R209. -/
def execCpOut (d a b : SReg) (x : OxReg) (s : State) : Res := s.copy .cpOut d a b x
/-- R204 to R209. -/
def execCpTt (d a b : SReg) (x : OxReg) (s : State) : Res := s.copy .cpTt d a b x

/-! ### Gathers (R210, R211) -/

/-- The elements in order, until one fails. (DEDUCED, log 39) -/
def State.planElems (s : State) (d : VReg) (w : Wid) (es : Nat) (sa sb : Word) : List Nat → List RowPlan × Option (Nat × Look) :=
  s.planRows fun i =>
    let va := sa + word (s.me.elemAt d.val (8 * w.bytes) i * es)
    if va.toNat / 2 ^ 55 = 1 then .error (.trap (.of cACCESS va))
    else
      match s.span2 .r 0 va es with
      | .error l => .error l
      | .ok ps =>
        match s.look .w 3 (sb + word (i * es)) es with
        | .ok q => .ok ⟨pairUp ps [(q, es)], va.toNat, s.me.flat sb + i * es, es, ps.map Prod.fst, [], (0, 0), (0, 0)⟩
        | l => .error l

/-- R211: the die whose unit does the work. -/
def State.gatherDie (s : State) (sa : Word) : DieId :=
  if sa.toNat / 2 ^ 55 ≠ 0 then s.me.die
  else
    match s.pageOf s.me.die (some s.me.slot) .r s.me.ctl.ptroot.toNat sa.toNat with
    | .ok p => if isDram p.loc then homeOf p.loc else s.me.die
    | .error _ => s.me.die

/-- Sending a gather of planned elements. -/
def State.sendGather (s : State) (es : Nat) (unit : DieId) (bar : Option Place) (rs : List RowPlan) : State :=
  if rs.isEmpty then s
  else
    let (id, s) := ((s.markRows rs).noteBarrier bar).take
    let src := hull (rs.map fun r => (r.src, es))
    let dst := hull (rs.map fun r => (r.dst, es))
    let s := s.addIlk ⟨.gx, id, src.1, src.2, dst.1, dst.2, 0, 0, 0, 0⟩
    s.send (.gather ⟨id, .gx, some (s.me.die, s.me.slot), unit, 0, (rs.map (·.moves)).flatten, none, bar.map (·.loc), rs.length * es, 0, [], [], 0,
      some s.me.strand, s.me.deadline⟩)

/-- R210, R211; an `mma` in flight is not waited for. (DESIGN CHOICE, log 96, 104) -/
def execGx (d : VReg) (a b : SReg) (w : Wid) (z : Sz) (x : OxReg) (s : State) : Res :=
  let es := z.bytes
  let sa := s.getS a
  let sb := s.getS b
  let n := (s.me.vl * (8 * w.bytes) + 2047) / 2048
  .next (if 32 < d.val + max 1 n then s.trap s.me.illegal
    else s.ox x .raw fun bar =>
      s.checks (fun s =>
        let r0 := s.me.ridx
        let len := (s.me.vl - r0) * es
        match s.placeOf s.me .w 3 sb with
        | .error f => s.trap (.of f sb)
        | .ok p =>
          if len ≠ 0 ∧ !oneBank (p.loc + r0 * es) len then s.trap (.of cACCESS sb)
          else s.barrierOf bar fun s bar => s.held fun s => s.entryFree fun s =>
            let plan := s.planElems d w es sa sb (upFrom r0 (s.me.vl - r0))
            match planStops plan.2 with
            | some l => s.refuse l
            | none => (s.sendGather es (s.gatherDie sa) bar plan.1).endTransfer plan.2)
        [(sb.toNat % es != 0, .of cMISALIGN sb), (!inSpace true sb, .of cACCESS sb)])

/-! ### Bytes at home for agents: never a replica -/

/-- `n` bytes at home. -/
def State.bytesAt (s : State) (loc n : Nat) : List (Option Byte) :=
  (upFrom loc n).map fun a => if isDevice a then some (s.devByte a) else s.homeByte a

/-- Bytes performed at home for an agent. -/
def State.landBytes (s : State) (loc : Nat) (bs : List Byte) (who : Requester) : State :=
  if isDevice loc then ((upFrom loc bs.length).zip bs).foldl (fun s p => s.devWrite p.1 [p.2]) s
  else (bySector loc (bs.length + 1) bs).foldl (fun s p => (s.performWrite p.1 p.2 who).1) s

/-! ### Conversion between banks (R76, R206) -/

/-- Elements of a width in a number, lowest first, and back. -/
def cutElems (ew x : Nat) : Nat → List Nat
  | 0 => []
  | n + 1 => x % 2 ^ ew :: cutElems ew (x / 2 ^ ew) n
def joinElems (ew : Nat) : List Nat → Nat
  | [] => 0
  | x :: xs => x % 2 ^ ew + 2 ^ ew * joinElems ew xs

/-- Blocks of 32, with the number of the first element of each. -/
def blocks32 (i : Nat) : Nat → List Nat → List (Nat × List Nat)
  | 0, _ => []
  | fuel + 1, xs => if xs.isEmpty then [] else (i, xs.take 32) :: blocks32 (i + 32) fuel (xs.drop 32)

/-- A converted row: elements, exponents to write (location and the two bytes), flags, lost exponents. -/
structure Converted where
  elems : List Nat
  exps : List (Nat × List Byte)
  flags : List (BitVec 6)
  lost : Bool
  deriving DecidableEq, Repr

/-- Location of the exponents of bank element `e` (R74). -/
def State.expLoc (s : State) (loc e : Nat) : Nat := bankStart loc + (s.bfmtAt loc).epoff.toNat * 16 + 2 * (e / 32)

/-- The exact values of a source row in a DXB bank (R64), and whether exponents were lost. -/
def State.rowValues (s : State) (m : Move) (sf : ETy) (codes : List Nat) : List FV × Bool :=
  if !sf.isDxb then ([], false)
  else
    let e0 := m.src % 2 ^ 18 * 8 / sf.ew
    let es := (upFrom e0 codes.length).map fun e => s.bytesAt (s.expLoc m.src e) 2
    ((codes.zip es).map fun p => (dxOf sf).decode p.1 (numOf p.2 % 256) (numOf p.2 / 256), es.any anyLost)

/-- R76: a row converted from format `sf` to `df`. -/
def State.convertRow (s : State) (m : Move) (sf df : ETy) (codes : List Nat) : Converted :=
  let (vals, lost) := s.rowValues m sf codes
  let one (t : ETy) : List FRes :=
    if sf.isDxb then vals.map fun v => fvTo t 0 v else codes.map fun x => convert sf t 0 x
  if !df.isDxb then
    let rs := one df
    ⟨rs.map Prod.fst, [], rs.map Prod.snd, lost⟩
  else
    let direct := sf = .f32 ∨ sf = .bf16 ∨ sf = .f16
    let src := if direct then codes.map fun x => (x, (0 : BitVec 6)) else one .f32
    let t := if direct then sf else .f32
    let e0 := m.dst % 2 ^ 18 * 8 / df.ew
    let bs := blocks32 0 (codes.length + 1) (src.map Prod.fst)
    let packed := bs.map fun b => (b.1, (dxOf df).packAll t.ff (gapOf 0) ((upFrom 0 b.2.length).zip b.2))
    ⟨(packed.map fun p => p.2.2.1.map Prod.snd).flatten,
     packed.map fun p => (s.expLoc m.dst (e0 + p.1), [BitVec.ofNat 8 p.2.1.1, BitVec.ofNat 8 p.2.1.2]),
     src.map Prod.snd ++ (packed.map fun p => p.2.2.2).flatten, lost⟩

/-- Counting the conversion events of a streamer (R335). -/
def State.countConv (s : State) (d : DieId) (ring : Nat) (fl : List (BitVec 6)) : State :=
  let n (b : Nat) := (fl.filter fun f => f.getLsbD b).length
  (((s.count d 3 ring 2 (n 0)).count d 3 ring 3 (n 2)).count d 3 ring 4 (n 1)).count d 3 ring 5 (n 4)

/-! ### Streamers (R334) -/

/-- One row read at its home and written at its home; answers whether source data was lost. -/
def State.moveRow (s : State) (st : Strip) (m : Move) : State × Bool :=
  let src := s.bytesAt m.src m.len
  match m.conv with
  | none => (s.landBytes m.dst (src.map unlost) (.transfer st.id), anyLost src)
  | some (sf, df) =>
    let c := s.convertRow m sf df (cutElems sf.ew (numOf src) (m.len * 8 / sf.ew))
    let kept := if df.ew = 4 ∧ c.elems.length % 2 = 1 then numOf (s.bytesAt (m.dst + m.wlen - 1) 1) / 16 else 0
    let x := joinElems df.ew c.elems + kept * 2 ^ (df.ew * c.elems.length)
    let s := s.countConv st.die st.ring c.flags
    let s := c.exps.foldl (fun s e => s.landBytes e.1 e.2 (.transfer st.id)) s
    (s.landBytes m.dst (bytesOf m.wlen x) (.transfer st.id), anyLost src || c.lost)

/-- R77: the destination banks take a placed format. (DEDUCED, log 38) -/
def State.placeBanks (s : State) (st : Strip) : State :=
  match st.place with
  | none => s
  | some t =>
    st.moves.foldl (fun s m => s.mapDie (homeOf m.dst) fun d =>
      { d with bfmt := d.bfmt.set (Fin.ofNat 64 (bankOf m.dst)) ⟨BitVec.ofNat 16 (placeEp t / 16), true, BitVec.ofNat 4 t.code⟩ }) s

/-- Does a strip belong to a streamer? -/
def Strip.at (st : Strip) (d : DieId) (ring : Nat) : Bool := st.kind != .gx && st.die == d && st.ring == ring

/-- R334, R353: a strip that has arrived is accepted while fewer than 16 are held; strips of one slot to one
streamer arrive in order. -/
def execStripAccept (k : Nat) (s : State) : Res :=
  match s.arrive k with
  | some (.strip st, rest) =>
    let earlier := (s.net.take k).any fun p => match p with
      | .strip o => o.at st.die st.ring && o.owner == st.owner
      | _ => false
    if earlier || 16 ≤ (s.moves.filter fun o => o.at st.die st.ring).length then .next s
    else .next (({ s with net := rest, moves := s.moves ++ [st] } : State).placeBanks st)
  | _ => .next s

/-- R205 to R208, R334: the first strip of a streamer is read and written at its homes; what it lands on the barrier
follows. -/
def execStripLand (k : Nat) (s : State) : Res :=
  match takeAt k s.moves with
  | some (st, rest) =>
    if st.kind = .gx ∨ (s.moves.take k).any (fun o => o.at st.die st.ring) then .next s
    else
      let (s, lost) := st.moves.foldl (fun (a : State × Bool) m =>
        let (s, l) := a.1.moveRow st m
        (s, a.2 || l)) (({ s with moves := rest } : State), false)
      let s := s.count st.die 3 st.ring 7 (if lost then 1 else 0)
      .next (s.send (.landing { st with status := if lost then max st.status 1 else st.status, moves := [] }))
  | none => .next s

/-- The interlock entry of a transfer is freed, in whatever slot its strand is now. -/
def State.freeIlk (s : State) (id : Nat) : State :=
  let f (c : Ctx) : Ctx := { c with ilk := c.ilk.filter fun e => !(e.id == id) }
  { s with me := f s.me, others := s.others.map f }

/-- A collective is no longer pending. -/
def State.endColl (s : State) (id : Nat) : State :=
  { s with dies := s.dies.map fun d => { d with groups := d.groups.map fun g => { g with ops := g.ops.filter fun o => o.id != id } } }

/-- R190, R208, R334: the landing of a transfer, once its bytes are settled on every present die. -/
def State.land (s : State) (st : Strip) : State :=
  let s := match st.barrier with
    | some b => s.landAt b st.bytes st.status
    | none => s
  let s := if st.kind = .gx ∨ st.kind = .coll then s
    else ((s.count st.die 3 st.ring 0 1).count st.die 3 st.ring 1 st.bytes).count st.die 3 st.ring 6 (if st.status = 3 then 1 else 0)
  let s := if st.kind = .coll then s.endColl st.id else s
  s.freeIlk st.id

/-- R190. -/
def execLanding (k : Nat) (s : State) : Res :=
  match s.arrive k with
  | some (.landing st, rest) =>
    if s.unsettled st.id then .next s else .next (({ s with net := rest } : State).land st)
  | _ => .next s

/-! ### Gather units (R363, R364) -/

/-- Batches of at most 32 elements. -/
def batches : Nat → List Move → List (List Move)
  | 0, _ => []
  | fuel + 1, ms => if ms.isEmpty then [] else ms.take 32 :: batches fuel (ms.drop 32)

/-- The batches for each foreign die. -/
def foreignBatches (unit : DieId) (ms : List Move) : List (DieId × List Move) :=
  (allDies.map fun d =>
    if d = unit then [] else (batches (ms.length + 1) (ms.filter fun m => homeOf m.src == d)).map fun b => (d, b)).flatten

/-- Elements read at their homes. -/
def State.readMoves (s : State) (ms : List Move) : List (Nat × Option Byte) :=
  (ms.map fun m => (upFrom m.dst m.len).zip (s.bytesAt m.src m.len)).flatten

/-- R363 steps 4 and 5: the vector is whole: it is written, and its landing follows. -/
def State.endGather (s : State) (g : Strip) : State :=
  let s := g.data.foldl (fun s p => s.landBytes p.1 [unlost p.2] (.transfer g.id)) s
  let lost := g.data.any fun p => p.2.isNone
  s.send (.landing { g with data := [], moves := [], status := if lost then max g.status 1 else g.status })

/-- R363 steps 1 to 3: one of the 8 `gx` slots of the unit takes the request. -/
def execGatherRequest (k : Nat) (s : State) : Res :=
  match s.arrive k with
  | some (.gather g, rest) =>
    if 8 ≤ (s.moves.filter fun o => o.kind == .gx && o.die == g.die).length then .next s
    else
      let s := { s with net := rest }
      let far := foreignBatches g.die g.moves
      let g := { g with data := s.readMoves (g.moves.filter fun m => homeOf m.src == g.die), awaits := far.map Prod.fst }
      .next (if far.isEmpty then s.endGather g
        else ({ s with moves := s.moves ++ [g] } : State).sendAll (far.map fun b => .batch g.id b.1 b.2))
  | _ => .next s

/-- A batch's bytes reach their gather. -/
def State.batchDone (s : State) (id : Nat) (d : DieId) (data : List (Nat × Option Byte)) (status : Nat) : State :=
  match takeFirst (fun o => o.id == id && o.kind == .gx) s.moves with
  | some (g, others) =>
    let g := { g with data := g.data ++ data, awaits := g.awaits.erase d, status := max g.status status }
    if g.awaits.isEmpty then ({ s with moves := others } : State).endGather g
    else { s with moves := s.moves.map fun o => if o.id = id then g else o }
  | none => s

/-- R363 step 3. -/
def execForeignBatch (k : Nat) (s : State) : Res :=
  match s.arrive k with
  | some (.batch id d ms, rest) =>
    let s := { s with net := rest }
    .next (s.batchDone id d (s.readMoves ms) 0)
  | _ => .next s

end Sys2Proof.Machine
end

