-- ==== Sys2Proof/Machine/Errors.lean ====
section
/-! DEFINITION. Fabric timeouts (R441), link errors (R439), hot rows (R359 to R362), scrubbing and uncorrectable errors
(R466, R467). -/

namespace Sys2Proof.Machine

/-! ### Transactions without an answer (R440, R441) -/

/-- R440: FABCTL.TMO of a die, in ticks. (DESIGN CHOICE, log 66) -/
def State.fabricTicks (s : State) (d : DieId) : Nat :=
  let us := bits (s.die d).regs.fabctl 0 20
  (if us = 0 then 50000 else min us 1000000) * Config.ticksPerUs
/-- How long the transaction of the packet at an index of the net has been in flight. (DESIGN CHOICE, log 66) -/
def State.age (s : State) (k : Nat) : Nat := s.tick - (((restamp (s.net.map Packet.txn) s.stamps s.tick)[k]?).map Prod.snd).getD s.tick

/-- A remote line that does not come: its bytes are lost to the load that waits. -/
def State.readTimeout (s : State) (id : Nat) (d : DieId) (slot : SlotNo) (line : Nat) (pref : Pref) : State :=
  if !pref.isLoad then s.count d 4 0 9 1
  else s.mapCtx d slot fun c =>
    if c.sent = some id then { c with sent := none, lines := ⟨line, List.replicate 256 none⟩ :: c.lines.filter fun l => l.line != line } else c

/-- A pending store is dropped: its entry is freed as by a PERF with an empty mask. -/
def State.storeTimeout (s : State) (d : DieId) (id : Nat) (whos : List (DieId × SlotNo)) : State :=
  let s := s.mapDie d fun x => { x with pend := x.pend.filter fun p => p.id != id }
  let s := whos.foldl (fun s w => s.mapCtx w.1 w.2 fun c => { c with perfPend := c.perfPend - 1 }) s
  whos.eraseDups.foldl (fun s w => s.loseData w) s

/-- A strip or gather ends with STATUS TIMEOUT (R208, R364): what it had not written counts as landed. -/
def State.stripTimeout (s : State) (st : Strip) : State :=
  s.send (.landing { st with status := max st.status 3, moves := [], data := [], awaits := [] })
/-- The landing of a transfer whose CACK does not come takes STATUS TIMEOUT. -/
def Packet.timedOut (id : Nat) : Packet → Packet
  | .landing st => if st.id = id then .landing { st with status := max st.status 3 } else .landing st
  | p => p

/-- The CACKs of a die that a slot awaits are awaited no more. -/
def Packet.forget (src : DieId) (w : Requester) : Packet → Option Packet
  | .collapse l e ws => some (.collapse l e (if e = src then ws.filter (· != w) else ws))
  | .fill id e k l g q p st cs => some (.fill id e k l g q p st (if e = src then cs.filter (· != w) else cs))
  | .cack e v => if e = src ∧ v = w then none else some (.cack e v)
  | p => some p
/-- A CACK that does not come: COLPEND of the die is cleared, the die counted under MASKDROP. -/
def State.cackTimeout (s : State) (src : DieId) : Requester → State
  | .slot d k => ((({ s with net := s.net.filterMap (Packet.forget src (.slot d k)) } : State).mapCtx d k fun c =>
      { c with colPend := c.colPend.set src 0 }).count d 4 0 10 1).loseData (d, k)
  | .slots l => l.eraseDups.foldl (fun s p =>
      ((({ s with net := s.net.filterMap (Packet.forget src (.slot p.1 p.2)) } : State).mapCtx p.1 p.2 fun c =>
        { c with colPend := c.colPend.set src 0 }).count p.1 4 0 10 1).loseData p) s
  | .transfer id => { s with net := s.net.map fun (p : Packet) => p.timedOut id }.lowered id
  | _ => s

/-- The answer of a request that its home does not give: all ones and DATA_LOST, status 1 of `sc`, or FE_RETRY. -/
def HomeOp.timeout : HomeOp → Answer
  | .sc _ _ => .value 1 0 (some 0)
  | .load _ => .value (BitVec.ofNat 64 (2 ^ 64 - 1)) 0 (some 0)
  | .lr _ => .value (BitVec.ofNat 64 (2 ^ 64 - 1)) 0 (some 0)
  | .cas _ _ _ => .value (BitVec.ofNat 64 (2 ^ 64 - 1)) 0 (some 0)
  | .amo _ _ _ => .value (BitVec.ofNat 64 (2 ^ 64 - 1)) 0 (some 0)
  | _ => .trap cFE_RETRY
def State.requestTimeout (s : State) (id : Nat) (d : DieId) (slot : SlotNo) (op : HomeOp) : State :=
  match op with
  | .rred _ _ _ => (s.mapCtx d slot fun c => { c with rredPend := c.rredPend - 1 }).loseData (d, slot)
  | op => s.mapCtx d slot fun c => if c.sent = some id then { c with sent := none, answer := some op.timeout } else c

/-- R224: a pod access without an answer. -/
def State.podTimeout (s : State) (id : Nat) (d : DieId) (slot : SlotNo) (strand : Word) (load : Bool) : State :=
  let s := (s.count d 0 0 7 1).flushAway
  if load then s.mapCtx d slot fun c =>
    if c.sent = some id then { c with sent := none, answer := some (.value (BitVec.ofNat 64 (2 ^ 64 - 1)) 0 (some 0)) } else c
  else
    s.strandLoses strand

/-- The end of one transaction under R441, with the die that counts it; none for a packet that no timeout ends. (DESIGN CHOICE, log 66) -/
def State.timeoutOf (s : State) : Packet → Option (DieId × State)
  | .read id d k line _ pref => some (d, s.readTimeout id d k line pref)
  | .fill id d k l _ _ pref _ cacks => some (d, (s.readTimeout id d k l.line pref).sendAll (cacksTo d cacks))
  | .pending d id => some (d, s.storeTimeout d id (match (s.die d).pend.find? fun p => p.id == id with
      | some p => p.slots
      | none => []))
  | .perf d id whos _ _ => some (d, s.storeTimeout d id whos)
  | .collapse line d who => if who.any (s.perfDue d) then none else some (homeOf line, who.foldl (fun s w => s.cackTimeout d w) s)
  | .cack src who => if s.perfDue src who then none else some (src, s.cackTimeout src who)
  | .request id d k _ _ op => some (d, s.requestTimeout id d k op)
  | .reply id d k _ op _ => some (d, s.requestTimeout id d k op)
  | .strip st => some (st.die, s.stripTimeout st)
  | .gather st => some (st.die, s.stripTimeout st)
  | .landing st => if st.kind = .coll then none else some (st.die, s.stripTimeout st)
  | .batch id d ms => some (d, s.batchDone id d ((ms.map fun m => (upFrom m.dst m.len).map fun a => (a, none)).flatten) 3)
  | .pod id d k st load _ _ _ _ _ _ => some (d, s.podTimeout id d k st load)
  | _ => none

/-- R441: a transaction of which the timeout of R440 has passed on its die ends; the agenda says whether its answer comes first.
(DESIGN CHOICE, log 66) -/
def execFabricTimeout (k : Nat) (s : State) : Res :=
  match takeAt k s.net with
  | some (p, rest) =>
    match ({ s with net := rest } : State).timeoutOf p with
    | some (d, t) => .next (if s.fabricTicks d ≤ s.age k then t.count d 0 0 5 1 else s)
    | none => .next s
  | none => .next s

/-! ### Links (R439, R442) -/

/-- A counter of a link, at both its ends. -/
def State.countLink (s : State) (d : DieId) (dir : Dir) (ix n : Nat) : State :=
  (s.count d 7 (dirIx dir) ix n).count (neighbour d dir) 7 (dirIx (dirBack dir)) ix n
def replayLimit : Nat := 16

/-- R439: a flit that failed its CRC is sent again; a good replay ends the run of failures. -/
def execFlitReplay (d : DieId) (dir : Dir) (good : Bool) (s : State) : Res :=
  .next (if (s.link d dir).up then
    ((s.countLink d dir 1 1).countLink d dir 0 1).mapLink d dir fun l => { l with replays := if good then 0 else l.replays + 1 }
  else s)
/-- R439: after 16 failed replays in a row the link is down. -/
def execLinkDown (d : DieId) (dir : Dir) (s : State) : Res :=
  let l := s.link d dir
  .next (if l.up ∧ replayLimit ≤ l.replays then (s.countLink d dir 2 1).mapLink d dir fun l => { l with up := false } else s)
/-- R439: a link that passed at boot has retrained. -/
def execLinkUp (d : DieId) (dir : Dir) (s : State) : Res :=
  let l := s.link d dir
  .next (if !l.up ∧ l.passed ∧ (s.die d).present ∧ (s.die (neighbour d dir)).present then
    (s.countLink d dir 3 1).mapLink d dir fun l => { l with up := true, replays := 0 } else s)

/-! ### Hot rows (R359 to R362) -/

/-- Entries of a bank's tracker; a count of 0 marks a free one. -/
def trackerEntries : Nat := 8
/-- The first entry of smallest count among those in use or freed. -/
def minCount : List (Nat × Nat) → Option (Nat × Nat)
  | [] => none
  | (_, c) :: l =>
    match minCount l with
    | none => some (0, c)
    | some (i, m) => if m < c then some (i + 1, m) else some (0, c)
/-- R359: an activation in a tracker's entries; answers the row's count. -/
def activate (rows : List (Nat × Nat)) (row : Nat) : List (Nat × Nat) × Nat :=
  match rows.find? fun e => e.1 == row && 0 < e.2 with
  | some (_, c) => (rows.map fun e => if e.1 = row ∧ 0 < e.2 then (row, c + 1) else e, c + 1)
  | none =>
    match minCount rows with
    | none => ([(row, 1)], 1)
    | some (i, m) =>
      if 0 < m ∧ rows.length < trackerEntries then (rows ++ [(row, 1)], 1)
      else (putAt i (row, m + 1) rows, m + 1)

/-- R360: ways of a set that captured lines may take. -/
def pinWays : Nat := 4
/-- The sets of its channel's slice in which the lines of a row fall (R2, R357, R360). (DESIGN CHOICE, log 63) -/
def rowSets (d : DieId) (ch bank row : Nat) : List Nat :=
  (upFrom 0 (Config.rowLines d.val)).map fun l => Config.freeSet d.val ch bank row l % Config.sliceSets d.val
def Pin.is (p : Pin) (ch bank row : Nat) : Bool := p.channel == ch && p.bank == bank && p.row == row
/-- Would the capture of a row pin more ways of a set than it may? (DESIGN CHOICE, log 63) -/
def State.pinsFull (s : State) (d : DieId) (ch bank row : Nat) : Bool :=
  let held := (((s.die d).pins.filter fun p => p.channel == ch).map fun p => rowSets d ch p.bank p.row).flatten ++ rowSets d ch bank row
  (rowSets d ch bank row).any fun q => decide (pinWays < (held.filter fun o => o == q).length)
/-- R360: a row is captured, its hold extended, or the capture refused. (DESIGN CHOICE, log 63) -/
def State.capture (s : State) (d : DieId) (ch bank row : Nat) : State :=
  let stop := s.tick + max 1 (bits (s.die d).regs.hotctl 48 16) * 1024
  if (s.die d).pins.any fun p => p.is ch bank row then
    (s.mapDie d fun x => { x with pins := mapIf (fun p => p.is ch bank row) (fun p => { p with holdEnd := stop }) x.pins }).count d 5 0 3 1
  else if s.pinsFull d ch bank row then s.count d 5 0 1 1
  else (s.mapDie d fun x => { x with pins := ⟨ch, bank, row, stop⟩ :: x.pins }).count d 5 0 0 1

/-- R359: an activation of a row. -/
def State.activated (s : State) (d : DieId) (ch bank row : Nat) : State :=
  let ctl := (s.die d).regs.hotctl
  if !bitAt ctl 12 then s
  else
    let t := ((s.die d).trackers.find? fun t => t.channel == ch && t.bank == bank).getD ⟨ch, bank, []⟩
    let (rows, c) := activate t.rows row
    let full := max 1 (bits ctl 0 12) ≤ c
    let rows := if full then rows.map fun e => if e.1 = row then (0, 0) else e else rows
    let s := s.mapDie d fun x => { x with trackers := ⟨ch, bank, rows⟩ :: x.trackers.filter fun o => !(o.channel == ch && o.bank == bank) }
    if full then s.capture d ch bank row else s

/-- R358: the banks of a channel are those of its pseudo-channels, pa[13] of the line on an S-die. (DESIGN CHOICE, log 63) -/
def rowKey (b : RowBank) : Nat := if Config.isM (homeOf b.loc).val then b.bank else 2 * b.bank + b.loc / 2 ^ 13 % 2
/-- R359 to R361: an access below the memory-side cache, to a row of a bank of its line's channel: an activation, or one that the cache
has `served`, counted where its row is pinned. The agenda says which bank and row a line lies in. (DESIGN CHOICE, log 63) (DEDUCED, log 55) -/
def execRowActivation (bank : RowBank) (row : Nat) (served : Bool) (s : State) : Res :=
  let d := homeOf bank.loc
  if !isDram bank.loc ∨ !(s.die d).present then .next s
  else
    let ch := channelOf bank.loc
    .next (if served then s.count d 5 0 2 (if (s.die d).pins.any fun p => p.is ch (rowKey bank) row then 1 else 0) else s.activated d ch (rowKey bank) row)

/-- R359: a window boundary clears the trackers. -/
def execHotRowWindow (d : DieId) (s : State) : Res :=
  .next (if s.tick % (max 1 (bits (s.die d).regs.hotctl 32 16) * 1024) = 0 then s.mapDie d fun x => { x with trackers := [] } else s)

/-- R360: holds of a row that have run out. -/
def execHotRowHoldExpiry (d : DieId) (row : Nat) (s : State) : Res :=
  .next (s.mapDie d fun x => { x with pins := x.pins.filter fun p => !(p.row == row && decide (p.holdEnd ≤ s.tick)) })

/-! ### Scrub and errors (R466 to R468) -/

/-- R467: a pass of a die's controllers: what it corrects stays as it was; how much it finds is open. (DESIGN CHOICE, log 64) -/
def execScrub (d : DieId) (s : State) : Res :=
  let n := Config.freeScrub s.fresh
  .next (if (s.die d).present then
    ((({ s with fresh := s.fresh + 1 } : State).count d 8 0 15 n).count d 8 0 10 n)
  else s)

/-- The bytes of a range of locations marked as lost. (DEDUCED, log 65) -/
def State.markLost (s : State) (loc n : Nat) : State := { s with lost := natAddAll (upFrom loc n) s.lost }

/-- The number of an array in the errors block (R433, R468): its CE counter is at twice that, its UE counter beside it. -/
def arrayIx : ErrArray → Nat
  | .l1d => 0 | .l1i => 1 | .tile => 2 | .slice => 3 | .memside => 4 | .dram => 5 | .registers => 6
def State.countCE (s : State) (d : DieId) (what : ErrArray) : State := s.count d 8 0 (2 * arrayIx what) 1
def State.countUE (s : State) (d : DieId) (what : ErrArray) : State := s.count d 8 0 (2 * arrayIx what + 1) 1

/-- R466: dirty sectors are lost: all ones written in their place at their home. -/
def State.loseSectors (s : State) (loc n : Nat) : State := (s.performWrite loc (List.replicate n 0xFF) (.home (homeOf loc))).1
/-- R466: the data of a pending-store entry is lost. -/
def State.losePending (s : State) (d : DieId) (sector : Nat) : State :=
  s.mapDie d fun x => { x with pend := mapIf (fun p => p.sector == sector && !p.sent) (fun p => { p with bytes := p.bytes.map fun b => (b.1, 0xFF), halves := p.halves.map fun h => (h.1, h.2.1, 15) }) x.pend }

/-- R466: a clean line is dropped, and fetched again by whoever needs it. A dirty one is none. (DEDUCED, log 65) -/
def State.dropClean (s : State) (d : DieId) (line : Nat) : CleanAt → State
  | .l1d core => (s.countUE d .l1d).mapDie d fun y =>
      { y with shared := mapIf (fun l => l.line == line) (fun l => { l with cores := l.cores.filter fun q => q != core.val }) y.shared }
  | .l1i core => (s.countUE d .l1i).mapDie d fun y =>
      { y with icopies := y.icopies.filter fun i => !(i.slot.isNone && i.ring * 8 + i.core == core.val && i.line.line == line) }
  | .slice =>
    if (s.die d).shared.any fun l => l.line == line && l.dirty != 0 then s
    else ((s.countUE d .slice).mapDie d fun y => { y with shared := y.shared.filter fun l => l.line != line }).dropReplica d line
  | .memside =>
    if (s.die d).memside.any fun l => l.line == line && l.dirty != 0 then s
    else (s.countUE d .memside).mapDie d fun y => { y with memside := y.memside.filter fun l => l.line != line }

/-- Is the sector of a location dirty in a line of a cache? -/
def dirtyAt (loc line : Nat) (dirty : BitVec 8) : Bool := line == lineOf loc && dirty.getLsbD (loc % 256 / 32)
/-- R466: a dirty sector of a die is lost. (DEDUCED, log 65) -/
def State.loseDirty (s : State) (d : DieId) (loc : Nat) : DirtyAt → State
  | .slice =>
    if (s.die d).shared.any fun l => homeOf loc == d && dirtyAt loc l.line l.dirty then
      ((s.loseSectors (sectorOf loc) 32).countUE d .slice).count d 8 0 14 1
    else s
  | .memside =>
    if (s.die d).memside.any fun l => dirtyAt loc l.line l.dirty then ((s.loseSectors (sectorOf loc) 32).countUE d .memside).count d 8 0 14 1
    else s
  | .pending =>
    if (s.die d).pend.any fun p => p.sector == sectorOf loc && !p.sent then ((s.losePending d (sectorOf loc)).countUE d .slice).count d 8 0 14 1
    else s

/-- State at a slice that is lost with the line that holds it (R466): `n` bytes from a DRAM location. (DEDUCED, log 65) -/
def State.loseState (s : State) (loc n : Nat) : State :=
  if !isDram loc ∨ !s.present (homeOf loc).val then s
  else ((s.loseSectors loc n).countUE (homeOf loc) .slice).count (homeOf loc) 8 0 14 1

/-- R466. UE of the structure is counted on the die that holds it, and CE of a corrected error. (DEDUCED, log 65) -/
def State.uncorrectable (s : State) : ErrPlace → State
  | .corrected d what => s.countCE d what
  | .clean d what line => s.dropClean d line what
  | .specLine d k =>
    match s.ctx? d k with
    | none => s
    | some c => if c.chunk.any fun q => q.spec then (s.countUE d .l1d).squash c .memory else s
  | .dirtySector d what loc => s.loseDirty d loc what
  | .sliceState loc => s.loseState (sectorOf loc) 32
  | .directory line => s.loseState (lineOf line) 256
  | .store loc units =>
    if isDevice loc ∨ !s.present (homeOf loc).val then s
    else (s.markLost (loc / 8 * 8) (8 * units)).countUE (homeOf loc) (if isTile loc then .tile else .dram)
  | .registers d k =>
    match s.ctx? d k with
    | none => s
    | some c => (s.countUE d .registers).cancelStop c.strand
  | .tlb d i => s.mapDie d fun x =>
    match takeAt i x.tlb with
    | some (_, rest) => { x with tlb := rest }
    | none => { x with walks := match takeAt (i - x.tlb.length) x.walks with | some (_, rest) => rest | none => x.walks }

/-- R466, R469: the agenda orders it among the accesses to the line. -/
def execUncorrectableError (p : ErrPlace) (s : State) : Res := .next (s.uncorrectable p)

end Sys2Proof.Machine
end

