-- ==== Sys2Proof/Machine/Float.lean ====
section
/-! DEFINITION. Scalar floating point (R132 to R136). -/

namespace Sys2Proof.Machine

/-- R133: a result with its flags, zero-extended into sd. -/
def State.fresult (s : State) (d : SReg) (r : FRes) : Res := .next ((s.orFlags r.2).result d (word r.1))
/-- R133 with two sources. -/
def State.fop2 (s : State) (d a b : SReg) (f : Mode → Nat → Nat → FRes) : Res :=
  s.fresult d (f s.me.mode (s.getS a).toNat (s.getS b).toNat)
/-- R133 with three sources, the third the old sd. -/
def State.fop3 (s : State) (d a b : SReg) (f : Mode → Nat → Nat → Nat → FRes) : Res :=
  s.fresult d (f s.me.mode (s.getS a).toNat (s.getS b).toNat (s.getS d).toNat)
/-- R58: a comparison's bit and flags. -/
def State.fcmp (s : State) (d a b : SReg) (t : Fmt) (f : FV → FV → Bool × BitVec 6) : Res :=
  let r := f ((ffOf t).dec (s.getS a).toNat) ((ffOf t).dec (s.getS b).toNat)
  .next ((s.orFlags r.2).result d (flag r.1))

/-- R134. -/
def execFadd (d a b : SReg) (t : Fmt) (s : State) : Res := s.fop2 d a b (ffOf t).add
/-- R134. -/
def execFsub (d a b : SReg) (t : Fmt) (s : State) : Res := s.fop2 d a b (ffOf t).sub
/-- R134. -/
def execFmul (d a b : SReg) (t : Fmt) (s : State) : Res := s.fop2 d a b (ffOf t).mul
/-- R134. -/
def execFdiv (d a b : SReg) (t : Fmt) (s : State) : Res := s.fop2 d a b (ffOf t).div
/-- R134, R57. -/
def execFmin (d a b : SReg) (t : Fmt) (s : State) : Res := s.fop2 d a b fun _ x y => (ffOf t).minmax false (x % 2 ^ (ffOf t).width) (y % 2 ^ (ffOf t).width)
/-- R134, R57. -/
def execFmax (d a b : SReg) (t : Fmt) (s : State) : Res := s.fop2 d a b fun _ x y => (ffOf t).minmax true (x % 2 ^ (ffOf t).width) (y % 2 ^ (ffOf t).width)
/-- R134. -/
def execFsqrt (d a : SReg) (t : Fmt) (s : State) : Res := s.fresult d ((ffOf t).sqrt s.me.mode (s.getS a).toNat)
/-- R134: one rounding; the addend is the old sd. -/
def execFma (d a b : SReg) (t : Fmt) (s : State) : Res := s.fop3 d a b (ffOf t).fma
/-- R134: one rounding; the addend is the old sd. -/
def execFms (d a b : SReg) (t : Fmt) (s : State) : Res := s.fop3 d a b (ffOf t).fms
/-- R134, R58. -/
def execFeq (d a b : SReg) (t : Fmt) (s : State) : Res := s.fcmp d a b t fcmpEq
/-- R134, R58. -/
def execFlt (d a b : SReg) (t : Fmt) (s : State) : Res := s.fcmp d a b t fcmpLt
/-- R134, R58. -/
def execFle (d a b : SReg) (t : Fmt) (s : State) : Res := s.fcmp d a b t fcmpLe
/-- R135. -/
def execFclass (d a : SReg) (t : Fmt) (s : State) : Res := .next (s.result d (word ((ffOf t).classOf (s.getS a).toNat)))

/-- R136: the value of a conversion's source. -/
def cvtValue (t : CvtTy) (x : Word) : Sum FV Int :=
  match t with
  | .f64 => .inl (ff64.dec x.toNat)
  | .f32 => .inl (ff32.dec x.toNat)
  | .f16 => .inl (ff16.dec x.toNat)
  | .bf16 => .inl (ffbf.dec x.toNat)
  | .i64 => .inr x.toInt
  | .n64 => .inr x.toNat
  | .i32 => .inr (sread 32 x.toNat)
  | .n32 => .inr ((x.toNat % 2 ^ 32 : Nat) : Int)

/-- R136, R61: the converted value as the 64 bits of sd, with the flags. -/
def convertTo (t : CvtTy) (m : Mode) (v : Sum FV Int) : Word × BitVec 6 :=
  let toF (f : FF) : Word × BitVec 6 :=
    let r := match v with
      | .inl x => f.ofV m x
      | .inr x => f.ofInt m x
    (word r.1, r.2)
  let toI (signed : Bool) (w : Nat) : Word × BitVec 6 :=
    let r := match v with
      | .inl x => toInt m (irange signed w).1 (irange signed w).2 x
      | .inr x => (x, 0)
    (BitVec.ofInt 64 r.1, r.2)
  match t with
  | .f64 => toF ff64
  | .f32 => toF ff32
  | .f16 => toF ff16
  | .bf16 => toF ffbf
  | .i64 => toI true 64
  | .n64 => toI false 64
  | .i32 => toI true 32
  | .n32 => toI false 32

/-- R136. -/
def execFcvt (d a : SReg) (x y : CvtTy) (r : Rnd) (s : State) : Res :=
  let q := convertTo x (s.me.rndMode r) (cvtValue y (s.getS a))
  .next ((s.orFlags q.2).result d q.1)

end Sys2Proof.Machine
end

