-- ==== Sys2Proof/Machine/Geom.lean ====
section
/-! DEFINITION. Exact geometric predicates of one element (R282 to R288, R488): one expansion of the determinant
over exact integers, over rounded dyadics and over polynomials in ε. -/

namespace Sys2Proof.Machine

/-- R280. -/
inductive Geo where
  | gor2 | gor3 | ginc | gins | gsegx
  deriving DecidableEq, Repr

def Geo.dim : Geo → Nat
  | .gor3 | .gins => 3
  | _ => 2
def Geo.points : Geo → Nat
  | .gor2 => 3
  | .gins => 5
  | _ => 4
/-- R282: the point that the others are taken relative to, and whether rows are lifted. -/
def Geo.base : Geo → Nat
  | .gor3 | .ginc => 3
  | .gins => 4
  | _ => 0
def Geo.lifted : Geo → Bool
  | .ginc | .gins => true
  | _ => false
/-- R287: B1 and B2 in units of 2^-106. -/
def Geo.bound (g : Geo) (stage : Nat) : Nat :=
  let b : Nat × Nat × Nat := match g with
    | .gor3 => (7, 56, 24)
    | .ginc => (10, 96, 48)
    | .gins => (16, 224, 96)
    | _ => (3, 16, 8)
  if stage = 1 then b.1 * 2 ^ 53 + b.2.1 else b.2.2

/-- The arithmetic an expansion runs in. -/
structure GOps (α : Type) where
  add : α → α → α
  sub : α → α → α
  mul : α → α → α
  neg : α → α

/-- R282: the row of a point relative to the base, with its lifted entry. -/
def geoRow {α : Type} (o : GOps α) (lift : Bool) (p b : List α) : List α :=
  let d := List.zipWith o.sub p b
  if lift then
    match d.map fun x => o.mul x x with
    | [] => d
    | x :: xs => d ++ [xs.foldl o.add x]
  else d

/-- The rows of a determinant, in point order. -/
def geoRows {α : Type} (o : GOps α) (g : Geo) (pts : List (List α)) : List (List α) :=
  (pts.eraseIdx g.base).map fun p => geoRow o g.lifted p ((pts[g.base]?).getD [])

/-- Cofactor expansion along the last column, rows in order (R287); `perm` adds where the determinant
subtracts. -/
def cofactor {α : Type} (o : GOps α) (zero : α) (perm : Bool) : Nat → List (List α) → α
  | 0, _ => zero
  | n + 1, rows =>
    if n = 0 then ((rows.head?).bind List.head?).getD zero
    else
      let term (i : Nat) : α := o.mul (((rows[i]?).bind List.getLast?).getD zero) (cofactor o zero perm n ((rows.eraseIdx i).map List.dropLast))
      let minus (i : Nat) : Bool := (i + n) % 2 == 1 && !perm
      let first := if minus 0 then o.neg (term 0) else term 0
      ((List.range n).map fun i => i + 1).foldl (fun acc i => if minus i then o.sub acc (term i) else o.add acc (term i)) first

/-! ### Exact integers -/

def intOps : GOps Int := ⟨fun a b => a + b, fun a b => a - b, fun a b => a * b, fun a => -a⟩
def signOf (x : Int) : Int := if 0 < x then 1 else if x < 0 then -1 else 0
/-- The exact sign (R282). -/
def Geo.exact (g : Geo) (pts : List (List Int)) : Int :=
  let rows := geoRows intOps g pts
  signOf (cofactor intOps 0 false rows.length rows)

/-! ### Stages 1 and 2 (R488) -/

/-- A stage's value; none once an operation overflowed or underflowed. -/
abbrev Rounded := Option (Int × Int)

/-- Rounding m · 2^e to `p` significant bits in the range of f64. -/
def roundTo (p : Nat) (m e : Int) : Rounded :=
  if m = 0 then some (0, 0)
  else
    let n := m.natAbs
    let top := e + topBit n
    if top < -1022 then none
    else
      let q := top - p + 1
      let (r, _) := roundAt 0 (decide (m < 0)) n e false q
      if 1024 ≤ q + topBit r then none else some (signedOf (decide (m < 0)) r, q)

/-- Exact sum of two signed dyadics. -/
def addSigned (x y : Int × Int) : Int × Int :=
  let e := if x.2 ≤ y.2 then x.2 else y.2
  (x.1 * 2 ^ (x.2 - e).toNat + y.1 * 2 ^ (y.2 - e).toNat, e)
def stageAdd (p : Nat) (x y : Rounded) : Rounded :=
  match x, y with
  | some a, some b => let s := addSigned a b; roundTo p s.1 s.2
  | _, _ => none
def stageNeg : Rounded → Rounded
  | some a => some (-a.1, a.2)
  | none => none
def stageMul (p : Nat) (x y : Rounded) : Rounded :=
  match x, y with
  | some a, some b => roundTo p (a.1 * b.1) (a.2 + b.2)
  | _, _ => none
def stageOps (p : Nat) : GOps Rounded := ⟨stageAdd p, fun x y => stageAdd p x (stageNeg y), stageMul p, stageNeg⟩
def stageAbs : Rounded → Rounded
  | some a => some ((a.1.natAbs : Int), a.2)
  | none => none

/-- R488: does a stage decide, with a computed sign equal to the exact one? -/
def Geo.decides (g : Geo) (stage p : Nat) (exact : Int) (pts : List (List Rounded)) : Bool :=
  let rows := geoRows (stageOps p) g pts
  match cofactor (stageOps p) (some (0, 0)) false rows.length rows,
      cofactor (stageOps p) (some (0, 0)) true rows.length (rows.map fun r => r.map stageAbs) with
  | some d, some m =>
    let lhs : Int × Int := ((d.1.natAbs : Int), d.2)
    decide (0 < (addSigned lhs (-(g.bound stage * m.1), m.2 - 106)).1) && signOf d.1 == exact
  | _, _ => false

/-- The stage that decides (R287). -/
def Geo.stage (g : Geo) (exact : Int) (pts : List (List Rounded)) : Nat :=
  if g.decides 1 53 exact pts then 1 else if g.decides 2 106 exact pts then 2 else 3

/-! ### Symbolic perturbation (R286): polynomials in ε -/

/-- An exponent of ε in binary: its set bits, falling. -/
abbrev EExp := List Nat
/-- Adding 2^k to an exponent. -/
def eAddBit (k : Nat) : EExp → EExp
  | [] => [k]
  | b :: bs =>
    if b < k then k :: b :: bs
    else if b = k then [k + 1] ++ bs
    else match eAddBit k bs with
      | c :: cs => if c = b then (b + 1) :: cs else b :: c :: cs
      | [] => [b]
def eAdd (x y : EExp) : EExp := y.foldl (fun acc k => eAddBit k acc) x
/-- Order of exponents as numbers. -/
def eLt : EExp → EExp → Bool
  | [], [] => false
  | [], _ :: _ => true
  | _ :: _, [] => false
  | a :: as, b :: bs => if a < b then true else if b < a then false else eLt as bs

/-- A polynomial: exponents rising, no zero coefficient. -/
abbrev Poly := List (EExp × Int)
def pAddTerm (e : EExp) (c : Int) : Poly → Poly
  | [] => if c = 0 then [] else [(e, c)]
  | (f, d) :: p =>
    if e = f then (if c + d = 0 then p else (f, c + d) :: p)
    else if eLt e f then (if c = 0 then (f, d) :: p else (e, c) :: (f, d) :: p)
    else (f, d) :: pAddTerm e c p
def pAdd (x y : Poly) : Poly := y.foldl (fun acc t => pAddTerm t.1 t.2 acc) x
def pNeg (x : Poly) : Poly := x.map fun t => (t.1, -t.2)
def pMul (x y : Poly) : Poly :=
  x.foldl (fun acc t => y.foldl (fun acc u => pAddTerm (eAdd t.1 u.1) (t.2 * u.2) acc) acc) []
def polyOps : GOps Poly := ⟨pAdd, fun x y => pAdd x (pNeg y), pMul, pNeg⟩

/-- Coordinate `j` of a point of index `k`, its values scaled by 2^shift. -/
def perturbed (dim k shift : Nat) (p : List Int) : List Poly :=
  (List.range dim).map fun j => pAddTerm [] ((p[j]?).getD 0) [([dim * k + j], (2 : Int) ^ shift)]

/-- R286: the sign of the lowest coefficient. -/
def Geo.symbolic (g : Geo) (shift : Nat) (pts : List (List Int)) (ks : List Nat) : Int :=
  let rows := geoRows polyOps g (List.zipWith (fun p k => perturbed g.dim k shift p) pts ks)
  match cofactor polyOps [] false rows.length rows with
  | t :: _ => signOf t.2
  | [] => 0

/-! ### A predicate -/

/-- What an element gives: its result, the stage, and whether a symbolic sign or equal indices took part. -/
structure GeoRes where
  res : Int
  stage : Nat
  sos : Bool
  dup : Bool
  deriving DecidableEq, Repr

def noDup : List Nat → Bool
  | [] => true
  | k :: ks => !ks.contains k && noDup ks

/-- A determinant's sign, its indices given under SOS. -/
def Geo.signAt (g : Geo) (shift : Nat) (pts : List (List Int)) (ks : Option (List Nat)) : GeoRes :=
  let ex := g.exact pts
  let st := g.stage ex (pts.map fun p => p.map fun x => some (x, -(shift : Int)))
  match ks with
  | none => ⟨ex, st, false, false⟩
  | some ks =>
    if ex ≠ 0 then ⟨ex, st, false, false⟩
    else if noDup ks then ⟨g.symbolic shift pts ks, 3, true, false⟩
    else ⟨0, 3, false, true⟩

def pick {α : Type} (l : List α) (is : List Nat) : List α := is.filterMap fun i => l[i]?

/-- R283: is w in the closed box of u and v? -/
def inBox (pts : List (List Int)) (u v w : Nat) : Bool :=
  [0, 1].all fun j =>
    let c (i : Nat) : Int := (((pts[i]?).getD [])[j]?).getD 0
    decide (min (c u) (c v) ≤ c w ∧ c w ≤ max (c u) (c v))

/-- R283. -/
def segments (shift : Nat) (pts : List (List Int)) (ks : Option (List Nat)) : GeoRes :=
  let o (is : List Nat) : GeoRes := Geo.gor2.signAt shift (pick pts is) (ks.map fun k => pick k is)
  let o1 := o [0, 1, 2]
  let o2 := o [0, 1, 3]
  let o3 := o [2, 3, 0]
  let o4 := o [2, 3, 1]
  let all := [o1, o2, o3, o4]
  let res : Int :=
    if o1.res * o2.res < 0 ∧ o3.res * o4.res < 0 then 1
    else if (o1.res = 0 ∧ inBox pts 0 1 2) ∨ (o2.res = 0 ∧ inBox pts 0 1 3) ∨ (o3.res = 0 ∧ inBox pts 2 3 0)
        ∨ (o4.res = 0 ∧ inBox pts 2 3 1) then 0
    else -1
  ⟨res, all.foldl (fun m x => max m x.stage) 1, all.any (·.sos), all.any (·.dup)⟩

/-- An encoding as an integer scaled by 2^shift; none for an infinity or NaN (R285). -/
def coordinate (f : FF) (shift : Nat) (x : Nat) : Option Int :=
  match f.dec x with
  | .fin neg m e => some (signedOf neg (m * 2 ^ (e + shift).toNat))
  | _ => none

def allSome {α : Type} : List (Option α) → Option (List α)
  | [] => some []
  | some x :: l => (allSome l).map fun r => x :: r
  | none :: _ => none

/-- Coordinates in group order as points. -/
def chunks {α : Type} (n : Nat) : Nat → List α → List (List α)
  | 0, _ => []
  | k + 1, l => l.take n :: chunks n k (l.drop n)

/-- R282 to R286 for one element; none when it is non-finite. -/
def Geo.eval (g : Geo) (f : FF) (coords : List Nat) (ks : Option (List Nat)) : Option GeoRes :=
  let shift := (-f.qmin).toNat
  match allSome (coords.map (coordinate f shift)) with
  | none => none
  | some xs =>
    let pts := chunks g.dim g.points xs
    some (if g = .gsegx then segments shift pts ks else g.signAt shift pts ks)

end Sys2Proof.Machine
end

