-- ==== Sys2Proof/Machine/Geometry.lean ====
section
/-! DEFINITION. Geometry instructions (R280 to R290): the checks of R281, results and masks of R284, counters. -/

namespace Sys2Proof.Machine

/-- Registers of a block of elements of a width (R281). -/
def blockRegs (vlmax ew : Nat) : Nat := max 1 ((vlmax * ew + 2047) / 2048)
/-- Do two blocks of registers overlap? -/
def regsOverlap (a n b m : Nat) : Bool := decide (a < b + m ∧ b < a + n)

/-- Step 3 of R281: the coordinate block, the result block, their overlap. While SPAN.IF is set every group is one register (R39);
so is the result block. (DEDUCED, log 24) -/
def Ctx.geoBlocks (c : Ctx) (groups : Nat) (d a : VReg) (ewr : Nat) : Bool :=
  let n := groups * c.g
  let gr := if c.spanIF then 1 else blockRegs c.vlmax ewr
  a.val % c.g == 0 && decide (a.val + n ≤ 32) && d.val % gr == 0 && decide (d.val + gr ≤ 32) && !regsOverlap d.val gr a.val n

/-- Step 5 of R281 on the fields of the record. -/
def Ctx.geoFields (c : Ctx) (points : Nat) (d : VReg) (ewr : Nat) (z : MReg) (r : Word) : Bool :=
  let gi := blockRegs c.vlmax 32
  let ix := bits r 5 5
  !(bitAt r 3 && z == 7)
    && (!bitAt r 4 || (ix % gi == 0 && decide (ix + points * gi ≤ 32) && !regsOverlap d.val (blockRegs c.vlmax ewr) ix (points * gi)))

/-- The outcome of element `i`; none when a coordinate is not finite. -/
def Ctx.geoAt (c : Ctx) (g : Geo) (a : VReg) (r : Word) (i : Nat) : Option GeoRes :=
  let coords := (upFrom 0 (g.points * g.dim)).map fun k => c.elemAt (a.val + k * c.g) c.et.ew i
  let gi := blockRegs c.vlmax 32
  let ks := if bitAt r 4 then some ((upFrom 0 g.points).map fun p => c.elemAt (bits r 5 5 + p * gi) 32 i) else none
  g.eval c.et.ff coords ks

/-- R287: counters of one element. -/
def State.geoCount (s : State) (o : Option GeoRes) : State :=
  let k := s.me.slot.val
  match o with
  | none => s.count s.me.die 2 k 5 1
  | some q =>
    let s := s.count s.me.die 2 k (q.stage - 1) 1
    (s.count s.me.die 2 k 3 (if q.sos then 1 else 0)).count s.me.die 2 k 4 (if q.dup then 1 else 0)

/-- R287: the element that traps is counted once, however long its chunk drains before the trap is taken. -/
def State.countNonfin (s : State) : State :=
  if s.me.part.isSome then s
  else
    let s := s.geoCount none
    if s.me.speculative then s else s.mapMe fun c => { c with part := some 0 }

/-- R284: results and masks of some elements. -/
def Ctx.geoPut (c : Ctx) (d : VReg) (ewr : Nat) (z : MReg) (nf : Bool) (l : List (Nat × Option GeoRes)) : Ctx :=
  let val (o : Option GeoRes) : Int := (o.map fun q => q.res).getD (-2)
  let c := c.putElems d.val ewr (l.map fun p => (p.1, iwrap ewr (val p.2)))
  let c := c.putMask z (l.map fun p => (p.1, decide (val p.2 = 0)))
  if nf then c.putMask (z + 1) (l.map fun p => (p.1, decide (val p.2 = -2))) else c

/-- R280 to R290. -/
def State.geometry (s : State) (g : Geo) (d a : VReg) (wide : Bool) (z m : MReg) (x : OxReg) : Res :=
  let ewr := if wide then 32 else 8
  .next (if !s.me.geoBlocks (g.points * g.dim) d a ewr then s.trap s.me.illegal
    else s.span [] (fun t => t == .f32 || t == .f64) fun s => s.ox x .geom fun r =>
      if !s.me.geoFields g.points d ewr z r then s.trap s.me.illformed
      else
        let nf := bitAt r 3
        let all : List (Nat × Option GeoRes) := (s.me.activeFrom m s.me.ridx).map fun i => (i, s.me.geoAt g a r i)
        let stop := if nf then none else all.find? fun p => p.2.isNone
        let done : List (Nat × Option GeoRes) := match stop with
          | some p => all.filter fun q => q.1 < p.1
          | none => all
        let s := done.foldl (fun (s : State) p => s.geoCount p.2) (s.mapMe fun c => c.geoPut d ewr z nf done)
        match stop with
        | some p => (s.countNonfin.mapMe fun c => c.setRidx p.1).trap ⟨cGEOM_NONFINITE, word p.1, true, 0⟩
        | none => s.doneElems)

/-- R282. -/
def execGor2 (d a : VReg) (t : Bool) (z m : MReg) (x : OxReg) (s : State) : Res := s.geometry .gor2 d a t z m x
/-- R282. -/
def execGor3 (d a : VReg) (t : Bool) (z m : MReg) (x : OxReg) (s : State) : Res := s.geometry .gor3 d a t z m x
/-- R282. -/
def execGinc (d a : VReg) (t : Bool) (z m : MReg) (x : OxReg) (s : State) : Res := s.geometry .ginc d a t z m x
/-- R282. -/
def execGins (d a : VReg) (t : Bool) (z m : MReg) (x : OxReg) (s : State) : Res := s.geometry .gins d a t z m x
/-- R283. -/
def execGsegx (d a : VReg) (t : Bool) (z m : MReg) (x : OxReg) (s : State) : Res := s.geometry .gsegx d a t z m x

end Sys2Proof.Machine
end

