-- ==== Sys2Proof/Machine/VectorInt.lean ====
section
/-! DEFINITION. Integer element instructions (R242, R243): MAJOR 0x22 with a vector and 0x23 with a scalar as
the second operand. -/

namespace Sys2Proof.Machine

/-! ### One element of width `w`; `sg` says that the type is signed -/

def iAdd (w a b : Nat) : Nat := (a + b) % 2 ^ w
def iSub (w a b : Nat) : Nat := (a + 2 ^ w - b) % 2 ^ w
def iMul (w a b : Nat) : Nat := a * b % 2 ^ w
def iMulh (sg : Bool) (w a b : Nat) : Nat := if sg then iwrap w (sread w a * sread w b / ((2 ^ w : Nat) : Int)) else a * b / 2 ^ w
def iLt (sg : Bool) (w a b : Nat) : Bool := if sg then decide (sread w a < sread w b) else decide (a < b)
def iMin (sg : Bool) (w a b : Nat) : Nat := if iLt sg w b a then b else a
def iMax (sg : Bool) (w a b : Nat) : Nat := if iLt sg w a b then b else a
def iShl (w a b : Nat) : Nat := a * 2 ^ (b % w) % 2 ^ w
def iSra (w a b : Nat) : Nat := iwrap w (sread w a / ((2 ^ (b % w) : Nat) : Int))
def iShr (sg : Bool) (w a b : Nat) : Nat := if sg then iSra w a b else a / 2 ^ (b % w)
def iAbs (sg : Bool) (w a : Nat) : Nat := if sg then iwrap w (sread w a).natAbs else a
def iNeg (w a : Nat) : Nat := (2 ^ w - a) % 2 ^ w

/-! ### Shared forms -/

/-- Operand b of an element: of a group, or the low bits of a scalar. -/
inductive OpB where
  | v (r : VReg)
  | x (r : SReg)
  deriving DecidableEq, Repr

/-- The groups an operand b names. -/
def OpB.regs : OpB → List VReg
  | .v r => [r]
  | .x _ => []
def Ctx.opb (c : Ctx) (b : OpB) (i : Nat) : Nat :=
  match b with
  | .v r => c.elem r i
  | .x r => c.scalar r

/-- An instruction of two integer operands. `ok` is its type class (R106). -/
def State.vint2 (s : State) (ok : ETy → Bool) (d a : VReg) (b : OpB) (m : MReg) (f : ETy → Nat → Nat → Nat) : Res :=
  .next (s.span (d :: a :: b.regs) ok fun s => s.elemwise d m fun i => (f s.me.et (s.me.elem a i) (s.me.opb b i), 0))
/-- An instruction of one integer operand. -/
def State.vint1 (s : State) (ok : ETy → Bool) (d a : VReg) (m : MReg) (f : ETy → Nat → Nat) : Res :=
  .next (s.span [d, a] ok fun s => s.elemwise d m fun i => (f s.me.et (s.me.elem a i), 0))
/-- A comparison into a mask (R243). -/
def State.vicmp (s : State) (d : MReg) (a : VReg) (b : OpB) (m : MReg) (f : ETy → Nat → Nat → Bool) : Res :=
  .next (s.span (a :: b.regs) ETy.isInt fun s => s.elemMask d m fun i => (f s.me.et (s.me.elem a i) (s.me.opb b i), 0))
/-- `vsel`: m is the selector, so every element below VL is active (R228). -/
def State.vselect (s : State) (d a : VReg) (b : OpB) (m : MReg) : Res :=
  .next (s.span (d :: a :: b.regs) anyType fun s => s.elemwise d 0 fun i => (if s.me.active m i then s.me.elem a i else s.me.opb b i, 0))

/-- R242. -/
def execVadd (d a b : VReg) (m : MReg) (s : State) : Res := s.vint2 ETy.isInt d a (.v b) m fun t => iAdd t.ew
/-- R242. -/
def execVaddVs (d a : VReg) (b : SReg) (m : MReg) (s : State) : Res := s.vint2 ETy.isInt d a (.x b) m fun t => iAdd t.ew
/-- R242. -/
def execVsub (d a b : VReg) (m : MReg) (s : State) : Res := s.vint2 ETy.isInt d a (.v b) m fun t => iSub t.ew
/-- R242. -/
def execVsubVs (d a : VReg) (b : SReg) (m : MReg) (s : State) : Res := s.vint2 ETy.isInt d a (.x b) m fun t => iSub t.ew
/-- R242. -/
def execVmul (d a b : VReg) (m : MReg) (s : State) : Res := s.vint2 ETy.isInt d a (.v b) m fun t => iMul t.ew
/-- R242. -/
def execVmulVs (d a : VReg) (b : SReg) (m : MReg) (s : State) : Res := s.vint2 ETy.isInt d a (.x b) m fun t => iMul t.ew
/-- R242. -/
def execVmulh (d a b : VReg) (m : MReg) (s : State) : Res := s.vint2 ETy.isInt d a (.v b) m fun t => iMulh t.signed t.ew
/-- R242. -/
def execVmulhVs (d a : VReg) (b : SReg) (m : MReg) (s : State) : Res := s.vint2 ETy.isInt d a (.x b) m fun t => iMulh t.signed t.ew
/-- R242. -/
def execVmin (d a b : VReg) (m : MReg) (s : State) : Res := s.vint2 ETy.isInt d a (.v b) m fun t => iMin t.signed t.ew
/-- R242. -/
def execVminVs (d a : VReg) (b : SReg) (m : MReg) (s : State) : Res := s.vint2 ETy.isInt d a (.x b) m fun t => iMin t.signed t.ew
/-- R242. -/
def execVmax (d a b : VReg) (m : MReg) (s : State) : Res := s.vint2 ETy.isInt d a (.v b) m fun t => iMax t.signed t.ew
/-- R242. -/
def execVmaxVs (d a : VReg) (b : SReg) (m : MReg) (s : State) : Res := s.vint2 ETy.isInt d a (.x b) m fun t => iMax t.signed t.ew
/-- R242. -/
def execVand (d a b : VReg) (m : MReg) (s : State) : Res := s.vint2 ETy.isInt d a (.v b) m fun _ => (· &&& ·)
/-- R242. -/
def execVandVs (d a : VReg) (b : SReg) (m : MReg) (s : State) : Res := s.vint2 ETy.isInt d a (.x b) m fun _ => (· &&& ·)
/-- R242. -/
def execVor (d a b : VReg) (m : MReg) (s : State) : Res := s.vint2 ETy.isInt d a (.v b) m fun _ => (· ||| ·)
/-- R242. -/
def execVorVs (d a : VReg) (b : SReg) (m : MReg) (s : State) : Res := s.vint2 ETy.isInt d a (.x b) m fun _ => (· ||| ·)
/-- R242. -/
def execVxor (d a b : VReg) (m : MReg) (s : State) : Res := s.vint2 ETy.isInt d a (.v b) m fun _ => (· ^^^ ·)
/-- R242. -/
def execVxorVs (d a : VReg) (b : SReg) (m : MReg) (s : State) : Res := s.vint2 ETy.isInt d a (.x b) m fun _ => (· ^^^ ·)
/-- R242. -/
def execVshl (d a b : VReg) (m : MReg) (s : State) : Res := s.vint2 ETy.isInt d a (.v b) m fun t => iShl t.ew
/-- R242. -/
def execVshlVs (d a : VReg) (b : SReg) (m : MReg) (s : State) : Res := s.vint2 ETy.isInt d a (.x b) m fun t => iShl t.ew
/-- R242. -/
def execVshr (d a b : VReg) (m : MReg) (s : State) : Res := s.vint2 ETy.isInt d a (.v b) m fun t => iShr t.signed t.ew
/-- R242. -/
def execVshrVs (d a : VReg) (b : SReg) (m : MReg) (s : State) : Res := s.vint2 ETy.isInt d a (.x b) m fun t => iShr t.signed t.ew
/-- R242. -/
def execVsra (d a b : VReg) (m : MReg) (s : State) : Res := s.vint2 ETy.isInt d a (.v b) m fun t => iSra t.ew
/-- R242. -/
def execVsraVs (d a : VReg) (b : SReg) (m : MReg) (s : State) : Res := s.vint2 ETy.isInt d a (.x b) m fun t => iSra t.ew
/-- R242, R243. -/
def execVsel (d a b : VReg) (m : MReg) (s : State) : Res := s.vselect d a (.v b) m
/-- R242, R243. -/
def execVselVs (d a : VReg) (b : SReg) (m : MReg) (s : State) : Res := s.vselect d a (.x b) m
/-- R242. -/
def execVabs (d a : VReg) (m : MReg) (s : State) : Res := s.vint1 ETy.isInt d a m fun t => iAbs t.signed t.ew
/-- R242. -/
def execVneg (d a : VReg) (m : MReg) (s : State) : Res := s.vint1 ETy.isInt d a m fun t => iNeg t.ew
/-- R242, R243. -/
def execVcmpEq (d : MReg) (a b : VReg) (m : MReg) (s : State) : Res := s.vicmp d a (.v b) m fun _ a b => a == b
/-- R242, R243. -/
def execVcmpEqVs (d : MReg) (a : VReg) (b : SReg) (m : MReg) (s : State) : Res := s.vicmp d a (.x b) m fun _ a b => a == b
/-- R242, R243. -/
def execVcmpNe (d : MReg) (a b : VReg) (m : MReg) (s : State) : Res := s.vicmp d a (.v b) m fun _ a b => a != b
/-- R242, R243. -/
def execVcmpNeVs (d : MReg) (a : VReg) (b : SReg) (m : MReg) (s : State) : Res := s.vicmp d a (.x b) m fun _ a b => a != b
/-- R242, R243. -/
def execVcmpLt (d : MReg) (a b : VReg) (m : MReg) (s : State) : Res := s.vicmp d a (.v b) m fun t => iLt t.signed t.ew
/-- R242, R243. -/
def execVcmpLtVs (d : MReg) (a : VReg) (b : SReg) (m : MReg) (s : State) : Res := s.vicmp d a (.x b) m fun t => iLt t.signed t.ew
/-- R242, R243. -/
def execVcmpLe (d : MReg) (a b : VReg) (m : MReg) (s : State) : Res := s.vicmp d a (.v b) m fun t a b => !iLt t.signed t.ew b a
/-- R242, R243. -/
def execVcmpLeVs (d : MReg) (a : VReg) (b : SReg) (m : MReg) (s : State) : Res := s.vicmp d a (.x b) m fun t a b => !iLt t.signed t.ew b a
/-- R242, R243. -/
def execVcmpGt (d : MReg) (a b : VReg) (m : MReg) (s : State) : Res := s.vicmp d a (.v b) m fun t a b => iLt t.signed t.ew b a
/-- R242, R243. -/
def execVcmpGtVs (d : MReg) (a : VReg) (b : SReg) (m : MReg) (s : State) : Res := s.vicmp d a (.x b) m fun t a b => iLt t.signed t.ew b a
/-- R242, R243. -/
def execVcmpGe (d : MReg) (a b : VReg) (m : MReg) (s : State) : Res := s.vicmp d a (.v b) m fun t a b => !iLt t.signed t.ew a b
/-- R242, R243. -/
def execVcmpGeVs (d : MReg) (a : VReg) (b : SReg) (m : MReg) (s : State) : Res := s.vicmp d a (.x b) m fun t a b => !iLt t.signed t.ew a b

end Sys2Proof.Machine
end

