-- ==== Sys2Proof/Machine/Reduce.lean ====
section
/-! DEFINITION. Canonical reductions (R81 to R83): `vred`, `vscan`, `vredbs` (R248, R249). -/

namespace Sys2Proof.Machine

/-- The operators of reductions (R248). -/
inductive RedOp where
  | add | min | max | and | or | xor
  deriving DecidableEq, Repr

/-- One combination of two elements of a type; floats round RNE. -/
def RedOp.apply (o : RedOp) (t : ETy) (x y : Nat) : FRes :=
  if t.isFloat then
    match o with
    | .min => t.ff.minmax false x y
    | .max => t.ff.minmax true x y
    | _ => t.ff.add 0 x y
  else
    match o with
    | .add => (iAdd t.ew x y, 0)
    | .min => (iMin t.signed t.ew x y, 0)
    | .max => (iMax t.signed t.ew x y, 0)
    | .and => (x &&& y, 0)
    | .or => (x ||| y, 0)
    | .xor => (x ^^^ y, 0)

/-- R81: identities. -/
def RedOp.identity (o : RedOp) (t : ETy) : Nat :=
  if t.isFloat then (match o with | .min => t.ff.nan | .max => t.ff.nan | _ => t.ff.sgn)
  else
    match o with
    | .and => 2 ^ t.ew - 1
    | .min => if t.signed then 2 ^ (t.ew - 1) - 1 else 2 ^ t.ew - 1
    | .max => if t.signed then 2 ^ (t.ew - 1) else 0
    | _ => 0

/-- Type class of an operator (R106). -/
def RedOp.ok (o : RedOp) (t : ETy) : Bool :=
  match o with
  | .add | .min | .max => intOrFloat t
  | _ => t.isInt

/-- The steps of the tree over 2^k values, with flags. -/
def treeSteps (f : Nat → Nat → FRes) : Nat → List Nat → BitVec 6 → FRes
  | 0, l, fl => (l.headD 0, fl)
  | k + 1, l, fl =>
    let rs := List.zipWith f (l.take (2 ^ k)) (l.drop (2 ^ k))
    treeSteps f k (rs.map Prod.fst) (fl ||| orAll (rs.map Prod.snd))

/-- log2 of the least power of two not below `n`. -/
def ceilLog (n : Nat) : Nat := if n ≤ 1 then 0 else topBit (n - 1) + 1

/-- R81: the canonical reduction of a list. -/
def canonical (o : RedOp) (t : ETy) (l : List Nat) : FRes :=
  let k := ceilLog l.length
  treeSteps (o.apply t) k (l ++ List.replicate (2 ^ k - l.length) (o.identity t)) 0

/-- The elements below VL with the inactive ones, and those a test drops, as identity. -/
def Ctx.operand (c : Ctx) (o : RedOp) (a : VReg) (m : MReg) (keep : Nat → Bool) : List Nat :=
  (upFrom 0 c.vl).map fun i => if c.active m i && keep i then c.elem a i else o.identity c.et

/-- R248: `vred`. -/
def State.vred (s : State) (o : RedOp) (d a : VReg) (m : MReg) : Res :=
  .next (s.span [d, a] o.ok fun s =>
    if s.me.vl = 0 then s.done4
    else
      let r := canonical o s.me.et (s.me.operand o a m fun _ => true)
      s.whole d [(0, r.1)] r.2)

/-- R82, R248: `vscan`; `bound` tells which elements element `i` combines. -/
def State.vscan (s : State) (o : RedOp) (d a : VReg) (m : MReg) (bound : Nat → Nat → Bool) : Res :=
  .next (s.span [d, a] o.ok fun s =>
    let rs := (s.me.activeFrom m 0).map fun i => (i, canonical o s.me.et (s.me.operand o a m (bound i)))
    s.whole d (rs.map fun r => (r.1, r.2.1)) (orAll (rs.map fun r => r.2.2)))
def upTo (i j : Nat) : Bool := decide (j ≤ i)
def below (i j : Nat) : Bool := decide (j < i)

/-- R83: the sum of block `b`, scaled; a block with no active element gives the identity. -/
def Ctx.blockSum (c : Ctx) (a b : VReg) (m : MReg) (k : Nat) : FRes :=
  let l := (upFrom (32 * k) 32).map fun i => if i < c.vl ∧ c.active m i then c.elem a i else ff32.sgn
  if !((upFrom (32 * k) 32).any fun i => i < c.vl && c.active m i) then (ff32.sgn, 0)
  else
    let r := canonical .add .f32 l
    let e := sread 8 (c.elemAt b.val 8 k)
    let q : FRes := match ff32.dec r.1 with
      | .fin n x y => ff32.round 0 n x (y + e) false
      | _ => (r.1, 0)
    (q.1, r.2 ||| q.2)

/-- R248. -/
def execVredAdd (d a : VReg) (m : MReg) (s : State) : Res := s.vred .add d a m
/-- R248. -/
def execVredMin (d a : VReg) (m : MReg) (s : State) : Res := s.vred .min d a m
/-- R248. -/
def execVredMax (d a : VReg) (m : MReg) (s : State) : Res := s.vred .max d a m
/-- R248. -/
def execVredAnd (d a : VReg) (m : MReg) (s : State) : Res := s.vred .and d a m
/-- R248. -/
def execVredOr (d a : VReg) (m : MReg) (s : State) : Res := s.vred .or d a m
/-- R248. -/
def execVredXor (d a : VReg) (m : MReg) (s : State) : Res := s.vred .xor d a m
/-- R248, R82. -/
def execVscanIncAdd (d a : VReg) (m : MReg) (s : State) : Res := s.vscan .add d a m upTo
/-- R248, R82. -/
def execVscanIncMin (d a : VReg) (m : MReg) (s : State) : Res := s.vscan .min d a m upTo
/-- R248, R82. -/
def execVscanIncMax (d a : VReg) (m : MReg) (s : State) : Res := s.vscan .max d a m upTo
/-- R248, R82. -/
def execVscanIncAnd (d a : VReg) (m : MReg) (s : State) : Res := s.vscan .and d a m upTo
/-- R248, R82. -/
def execVscanIncOr (d a : VReg) (m : MReg) (s : State) : Res := s.vscan .or d a m upTo
/-- R248, R82. -/
def execVscanIncXor (d a : VReg) (m : MReg) (s : State) : Res := s.vscan .xor d a m upTo
/-- R248, R82. -/
def execVscanExcAdd (d a : VReg) (m : MReg) (s : State) : Res := s.vscan .add d a m below
/-- R248, R82. -/
def execVscanExcMin (d a : VReg) (m : MReg) (s : State) : Res := s.vscan .min d a m below
/-- R248, R82. -/
def execVscanExcMax (d a : VReg) (m : MReg) (s : State) : Res := s.vscan .max d a m below
/-- R248, R82. -/
def execVscanExcAnd (d a : VReg) (m : MReg) (s : State) : Res := s.vscan .and d a m below
/-- R248, R82. -/
def execVscanExcOr (d a : VReg) (m : MReg) (s : State) : Res := s.vscan .or d a m below
/-- R248, R82. -/
def execVscanExcXor (d a : VReg) (m : MReg) (s : State) : Res := s.vscan .xor d a m below

/-- R249, R83. -/
def execVredbs (d a b : VReg) (m : MReg) (s : State) : Res :=
  .next (s.span [d, a] (· == .f32) fun s =>
    if s.me.vl = 0 then s.done4
    else
      let rs := (upFrom 0 ((s.me.vl + 31) / 32)).map fun k => s.me.blockSum a b m k
      let r := canonical .add .f32 (rs.map Prod.fst)
      s.whole d [(0, r.1)] (orAll (rs.map Prod.snd) ||| r.2))

end Sys2Proof.Machine
end

