-- ==== Sys2Proof/Machine/Groups.lean ====
section
/-! DEFINITION. Collective groups (R214 to R222, R447 to R451): `gform`, `gstat`, `coll`, `cabort`, and the events by
which members hear of one another. A message between dies of this module is in the net; what other modules send, an
event of the agenda brings (log 11). -/

namespace Sys2Proof.Machine

/-! ### Status codes (R216) and the group table -/

def gOK : BitVec 8 := 0
def gTIMEOUT : BitVec 8 := 1
def gLOST : BitVec 8 := 2
def gLOCAL : BitVec 8 := 3
def gREMOTE : BitVec 8 := 4
def gMISMATCH : BitVec 8 := 5
def gSTALE : BitVec 8 := 6
def gFULL : BitVec 8 := 7
def gBADLIST : BitVec 8 := 8

/-- R445: the module's own number, as a die knows it. -/
def State.myMod (s : State) (d : DieId) : BitVec 10 := BitVec.ofNat 10 (bits (s.die d).regs.podctl 0 10)
def State.podSize (s : State) (d : DieId) : Nat := bits (s.die d).regs.podctl 32 11
def State.here (s : State) (d : DieId) (m : Member) : Bool := m.modl == s.myMod d

def State.group? (s : State) (d : DieId) (h : BitVec 8) : Option Group := (s.die d).groups.find? fun g => g.handle == h
def State.putGroup (s : State) (d : DieId) (g : Group) : State :=
  s.mapDie d fun x => { x with groups := g :: x.groups.filter fun o => o.handle != g.handle }

/-- A new entry, FREE. -/
def Group.free (h : BitVec 8) : Group :=
  { handle := h, state := .free, prior := .free, cause := 0, gen := 0, rank := 0, det := false, members := [], tmo := 0,
    gid := none, oldGids := [], forming := none, regs := [], seqno := 0, ops := [], early := [] }

/-- The handle that a new group takes (R215): one without an entry, or one whose entry is FREE. -/
def State.freeHandle (s : State) (d : DieId) : Option (BitVec 8) :=
  let hs := (upFrom 0 Config.groupEntries).map (BitVec.ofNat 8)
  match hs.find? fun h => (s.group? d h).isNone with
  | some h => some h
  | none => hs.find? fun h => (s.group? d h).any fun g => g.state == .free

/-- The position of a member in a list. -/
def rankIn (l : List Member) (m : Member) : Nat := l.findIdx fun x => x == m

/-! ### Aborts (R220, R450) -/

/-- R447: the entry of a die that a GID names, of its current generation or an earlier one. -/
def State.entryOf (s : State) (d : DieId) (gid : Gid) : Option Group :=
  (s.die d).groups.find? fun o => o.gid == some gid || o.oldGids.contains gid
/-- Has a die still to hear from rank 0 of a GID that a formation of its own has been confirmed? -/
def State.confirmDue (s : State) (d : DieId) (gid : Gid) : Bool :=
  (s.die d).groups.any fun o => o.forming.any fun f => f.members.head?.any fun z => z.modl == gid.modl && z.die == gid.die

/-- ABORT(GID, GEN, cause) to the other members: to dies of this module through the net, to others through the ports. -/
def State.sendAborts (s : State) (d : DieId) (g : Group) (cause : BitVec 8) : State :=
  match g.gid with
  | none => s
  | some gid =>
    (g.members.filter fun m => m != ⟨s.myMod d, d⟩).foldl (fun s m =>
      if s.here d m then s.send (.abort d m.die gid g.gen) else s.sendAway m (.abort gid g.gen cause)) s

/-- A pending collective lands what remains with STATUS ABORT; one whose result is written keeps its landing. -/
def State.abortOp (s : State) (o : CollOp) : State :=
  if o.written then
    { s with net := s.net.map fun (p : Packet) => match p with
        | .landing st => if st.id = o.id then .landing { st with status := max st.status 2 } else p
        | p => p }
  else ((s.landAt o.barrier o.bytes 2).endColl o.id).freeIlk o.id

/-- A cause applied to a READY generation (R220, R448). -/
def State.applyAbort (s : State) (d : DieId) (g : Group) (cause : BitVec 8) : State :=
  if g.state ≠ .ready then s
  else
    let s := s.putGroup d { g with state := .aborted, cause, early := [] }
    (g.ops.foldl (fun s o => s.abortOp o) s).count d 0 0 9 1

/-- R450: a cause that this member detects: applied, then told to the others. -/
def State.detectAbort (s : State) (d : DieId) (g : Group) (cause : BitVec 8) : State :=
  if g.state ≠ .ready then s else (s.applyAbort d g cause).sendAborts d g cause

/-! ### Formation (R214, R215, R449) -/

/-- A waiting `gform` has its outcome; its strand is woken. -/
def State.formDone (s : State) (d : DieId) (g : Group) (strand : Word) (status : BitVec 8) : State :=
  let g := { g with forming := none, regs := [] }
  ((s.mapDie d fun x => { x with groups := (if g.state = .free then [] else [g]) ++ x.groups.filter fun o => o.handle != g.handle,
                                 formed := x.formed ++ [⟨strand, g.handle, status, g.gen⟩] }).send (.wake d strand g.handle.toNat))

/-- A formation fails: the entry is as it was (R448). -/
def State.formFail (s : State) (d : DieId) (g : Group) (status : BitVec 8) : State :=
  match g.forming with
  | none => s
  | some f => s.formDone d { g with state := g.prior } f.strand status

/-- Rank 0 has confirmed: READY (R448). -/
def State.formReady (s : State) (d : DieId) (g : Group) (gen : BitVec 32) (gid : Gid) : State :=
  match g.forming with
  | none => s
  | some f =>
    (s.formDone d { g with state := .ready, gen, rank := f.rank, det := f.det, members := f.members, tmo := f.tmo, gid := some gid,
                           oldGids := (g.gid.toList.filter fun o => o != gid && !g.oldGids.contains o) ++ g.oldGids, seqno := 0, ops := [], early := [] } f.strand gOK).count d 0 0 8 1

/-- The registration of a FORMING entry. -/
def Group.reg (g : Group) (f : Forming) (zero : DieId) (zeroHandle : BitVec 8) : GroupReg :=
  ⟨zero, zeroHandle, f.rank.toNat, f.members, f.det, f.reform, g.gen⟩

/-- The GID of a group whose rank 0 is an entry of a die here. -/
def State.gidOf (s : State) (d : DieId) (h : BitVec 8) : Gid := ⟨s.myMod d, d, h⟩
/-- A member that has registered with an entry of rank 0 gets MISMATCH. (DEDUCED, log 44) -/
def State.tellMismatch (s : State) (d : DieId) (h : BitVec 8) (r : GroupReg × Option (DieId × BitVec 8)) : State :=
  match r.2 with
  | some (e, k) =>
    match s.group? e k with
    | some o => if e = d ∧ k = h then s else s.formFail e o gMISMATCH
    | none => s
  | none =>
    match r.1.members[r.1.rank]? with
    | some m => s.sendAway m (.mismatch (s.gidOf d h))
    | none => s
/-- R449: every member gets MISMATCH: those that have registered with rank 0 at once, the others when they do. (DEDUCED, log 44) -/
def State.mismatch (s : State) (d : DieId) (g : Group) (regs : List (GroupReg × Option (DieId × BitVec 8))) : State :=
  let all := (g.forming.map fun f => f.members.length).getD 0
  let missing := (upFrom 0 all).filter fun k => !regs.any fun r => r.1.rank == k
  let s := (s.formFail d g gMISMATCH).mapDie d fun x => { x with refused := x.refused ++ missing.map fun k => (g.handle, k) }
  regs.foldl (fun s r => s.tellMismatch d g.handle r) s

/-- R449: rank 0 holds some registrations: a list or kind that differs fails them all; when every member has
registered it confirms. -/
def State.collect (s : State) (d : DieId) (g : Group) (f : Forming) : State :=
  let bad := g.regs.any fun r => r.1.members != f.members || r.1.det != f.det || r.1.reform != f.reform
  if bad then s.mismatch d g g.regs
  else if (upFrom 0 f.members.length).all fun k => g.regs.any fun r => r.1.rank == k then
    let gen : BitVec 32 := if f.reform then g.regs.foldl (fun m r => if m.toNat < r.1.gen.toNat then r.1.gen else m) 0 + 1 else 1
    let gid := s.gidOf d g.handle
    let s := s.formReady d g gen gid
    (g.regs.filter fun r => r.1.rank != 0).foldl (fun s r => match r.2 with
      | some (e, h) => s.send (.confirm e h gen gid)
      | none =>
        match f.members[r.1.rank]? with
        | some m => s.sendAway m (.confirm gid gen)
        | none => s) s
  else s

/-- A FORMING entry registers with rank 0 of its list: here at once, on another die of the module, or elsewhere. -/
def State.register (s : State) (d : DieId) (g : Group) (f : Forming) : State :=
  match f.members with
  | [] => s
  | zero :: _ =>
    if f.rank = 0 then
      let g := { g with regs := (g.reg f d g.handle, some (d, g.handle)) :: g.regs }
      (s.putGroup d g).collect d g f
    else
      let s := s.putGroup d g
      if s.here d zero then s.send (.register (g.reg f zero.die 0) d g.handle)
      else s.sendAway zero (.register (g.reg f zero.die 0))

/-- The member list as `gform` reads it, checked (R214, R216): members and DET. -/
def State.listOk (s : State) (d : DieId) (ws : List Word) (par : Word) : Option (List Member × Bool) :=
  let w0 := ws.headD 0
  let ms := (ws.drop 1).map fun w => (⟨BitVec.ofNat 10 (bits w 0 10), Fin.ofNat 16 (bits w 10 4)⟩ : Member)
  let ok := bits w0 12 52 == 0 && (ws.drop 1).all (fun w => bits w 14 50 == 0) && bits par 48 16 == 0 && bits par 20 12 == 0
    && ms.eraseDups.length == ms.length && ms.contains ⟨s.myMod d, d⟩
    && ms.all fun m => !s.here d m || s.present m.die.val
  if ok then some (ms, bitAt w0 11) else none

/-- TMO in ticks (R214, R440). -/
def tmoTicks (us : Nat) : Nat := (if us = 0 then 50000 else min us 1000000) * Config.ticksPerUs

/-- The result of a `gform` (R215); of one that fails only STATUS is stated. (DESIGN CHOICE, log 45) -/
def State.formResult (s : State) (d : SReg) (status : BitVec 8) (gen : BitVec 32) (h : BitVec 8) : State :=
  let low := if status = gOK then gen.toNat * 2 ^ 16 + h.toNat else (Config.freeForm s.fresh).toNat
  let s := if status = gOK then s else { s with fresh := s.fresh + 1 }
  (s.setS d (word (status.toNat * 2 ^ 56 + low))).done4

/-- The formation starts in an entry, and the strand waits for it. -/
def State.startForm (s : State) (g : Group) (ms : List Member) (det reform : Bool) (tmo : Nat) : State :=
  let d := s.me.die
  let f : Forming := ⟨ms, BitVec.ofNat 10 (rankIn ms ⟨s.myMod d, d⟩), det, reform, tmo, s.me.strand, s.tick⟩
  let g := { g with state := .forming, prior := g.state, forming := some f }
  let s := s.mapDie d fun x => { x with refused := x.refused.filter fun q => q.1 != g.handle }
  (s.register d g f).waitAt .group g.handle.toNat s.tick tmo true false

/-- R215, R448: what the list and the parameters lead to. (DESIGN CHOICE, log 97) -/
def State.form (s : State) (d : SReg) (ws : List Word) (par : Word) : State :=
  let die := s.me.die
  let n := bits (ws.headD 0) 0 11
  if n = 0 ∨ 1024 < n then s.formResult d gBADLIST 0 0
  else
    match s.listOk die ws par with
    | none => s.formResult d gBADLIST 0 0
    | some (ms, det) =>
      let tmo := tmoTicks (bits par 0 20)
      let h := bits par 32 16
      if h = 0xFFFF then
        match s.freeHandle die with
        | none => s.formResult d gFULL 0 0
        | some h => s.startForm (Group.free h) ms det false tmo
      else
        match (if h < 256 then s.group? die (BitVec.ofNat 8 h) else none) with
        | none => s.formResult d gSTALE 0 0
        | some g =>
          if g.state = .ready then
            let s := s.detectAbort die g gLOCAL
            s.startForm { g with state := .aborted, cause := gLOCAL, ops := g.ops.filter fun o => o.written, early := [] } ms det true tmo
          else if g.state = .aborted then s.startForm g ms det true tmo
          else s.formResult d gSTALE 0 0

/-- Reading `n` dwords from a global address. -/
def State.loadDwords (s : State) (va : Word) (f : State → List Word → State) : Nat → State
  | 0 => f s []
  | n + 1 => s.load va 8 0 fun s x => s.loadDwords (va + 8) (fun s xs => f s (word x :: xs)) n

/-- R214, R215: a release at die scope, the list, the formation; a strand woken by its outcome takes it. -/
def execGform (d a b : SReg) (s : State) : Res :=
  let va := s.getS a
  let par := s.getS b
  .next (s.heldAt .r 8 8 0 va fun s =>
    let gs := (s.die s.me.die).groups
    match (s.die s.me.die).formed.find? fun r => r.strand == s.me.strand with
    | some r =>
      let s := s.mapDie s.me.die fun x => { x with formed := x.formed.erase r }
      (s.mapMe fun c => { c with wait := none }).formResult d r.status r.gen r.handle
    | none =>
      match gs.findSome? fun g => g.forming.bind fun f => if f.strand = s.me.strand then some (g, f) else none with
      | some (g, f) => s.waitAt .group g.handle.toNat f.since f.tmo true false
      | none =>
        if va.toNat % 8 ≠ 0 then s.trap (.of cMISALIGN va)
        else s.release .die fun s => s.load va 8 0 fun s w0 =>
          let n := w0 % 2 ^ 11
          s.loadDwords (va + 8) (fun s ws => s.form d (word w0 :: ws) par) (if 1024 < n then 0 else n))

/-- R217. -/
def GroupState.code : GroupState → Nat
  | .free => 0
  | .forming => 1
  | .ready => 2
  | .aborted => 3
def Group.stat (g : Group) : Word := word (g.rank.toNat * 2 ^ 48 + g.gen.toNat * 2 ^ 16 + g.cause.toNat * 2 ^ 8 + g.state.code)

/-- R217: held; a handle above 255 reads as FREE. -/
def execGstat (d a : SReg) (s : State) : Res :=
  let h := (s.getS a).toNat
  .next (s.held fun s =>
    (s.setS d (match (if h < 256 then s.group? s.me.die (BitVec.ofNat 8 h) else none) with
      | some g => g.stat
      | none => 0)).done4)

/-- R221: held. -/
def execCabort (a : SReg) (s : State) : Res :=
  let h := (s.getS a).toNat
  .next (s.held fun s =>
    (match (if h < 256 then s.group? s.me.die (BitVec.ofNat 8 h) else none) with
      | some g => s.detectAbort s.me.die g gLOCAL
      | none => s).done4)

/-! ### Collectives (R218, R219, R222) -/

inductive CollKind where
  | allreduce | scatter | gather | broadcast | barrier
  deriving DecidableEq, Repr
def CollKind.ofCode (n : Nat) : CollKind :=
  match n with | 0 => .allreduce | 1 => .scatter | 2 => .gather | 3 => .broadcast | _ => .barrier

/-- The fields of a collective record (R116). -/
structure CollRec where
  kind : CollKind
  ty : ETy
  rop : RedOp
  root : Nat
  count : Nat
  deriving DecidableEq, Repr
def CollRec.ofFields (x : BitVec 48) : CollRec :=
  let w := x.setWidth 64
  ⟨CollKind.ofCode (bits w 44 4),
   (match bits w 42 2 with | 0 => .i32 | 1 => .f32 | 2 => .bf16 | _ => .f64),
   (match bits w 40 2 with | 0 => .add | 1 => .min | _ => .max), bits w 28 12, bits w 0 28⟩

/-- Bytes of the source and of the destination on a rank of `n` members (R218). -/
def CollRec.srcLen (r : CollRec) (n rank : Nat) : Nat :=
  match r.kind with
  | .allreduce | .gather => r.count * r.ty.bytes
  | .scatter => r.count * n * r.ty.bytes
  | .broadcast => if rank = r.root then r.count * r.ty.bytes else 0
  | .barrier => 0
def CollRec.dstLen (r : CollRec) (n : Nat) : Nat :=
  match r.kind with
  | .allreduce | .scatter | .broadcast => r.count * r.ty.bytes
  | .gather => r.count * n * r.ty.bytes
  | .barrier => 0
def CollRec.posted (r : CollRec) (n : Nat) : Nat := if r.kind = .barrier then 1 else r.dstLen n

/-- Element `k` of a contribution. -/
def partElem (t : ETy) (bs : List Byte) (k : Nat) : Nat := ofBytes ((bs.drop (k * t.bytes)).take t.bytes)

/-- Partial results combined two at a time, the fabric choosing which (R222, DET = 0): the fuel is their number. (DESIGN CHOICE, log 43) -/
def combineFree (f : Nat → Nat → Nat) (pick : Nat → Nat) : Nat → List Nat → Nat
  | 0, l => l.headD 0
  | fuel + 1, l =>
    if l.length ≤ 1 then l.headD 0
    else
      match takeAt (pick (2 * fuel) % l.length) l with
      | none => l.headD 0
      | some (x, l) =>
        match takeAt (pick (2 * fuel + 1) % l.length) l with
        | none => x
        | some (y, l) => combineFree f pick fuel (f x y :: l)

/-- One reduced element over all members: the canonical tree (R85, R222), which an order of integers cannot change, or
the fabric's own order. (DESIGN CHOICE, log 43) -/
def reduceElem (r : CollRec) (det : Bool) (fresh k : Nat) (xs : List Nat) : Nat :=
  if det || r.ty == .i32 then (canonical r.rop r.ty xs).1
  else combineFree (fun x y => (r.rop.apply r.ty x y).1) (Config.freePick fresh k) xs.length xs

/-- The bytes a member ends with, from the contributions in rank order (R218). -/
def CollRec.result (r : CollRec) (det : Bool) (fresh n rank : Nat) (parts : List (List Byte)) : List Byte :=
  let reduced (first : Nat) : List Byte :=
    ((upFrom first r.count).map fun k => bytesOf r.ty.bytes (reduceElem r det fresh k (parts.map fun p => partElem r.ty p k))).flatten
  match r.kind with
  | .allreduce => reduced 0
  | .scatter => reduced (rank * r.count)
  | .gather => ((parts.take n).map fun p => (upFrom 0 (r.count * r.ty.bytes)).map fun k => (p[k]?).getD 0).flatten
  | .broadcast => (upFrom 0 (r.count * r.ty.bytes)).map fun k => ((parts[r.root]?.getD [])[k]?).getD 0
  | .barrier => []

/-- Has a member all the contributions its result needs? -/
def CollOp.whole (o : CollOp) (r : CollRec) (n : Nat) : Bool :=
  if r.kind = .broadcast then o.parts.any fun p => p.1 == r.root
  else (upFrom 0 n).all fun k => o.parts.any fun p => p.1 == k

/-- The result of a whole collective is written, and its landing follows (R219, R345). (DEDUCED, log 42) -/
def State.finishColl (s : State) (d : DieId) (g : Group) (o : CollOp) : State :=
  let r := CollRec.ofFields o.fields
  let n := g.members.length
  if o.written || !o.whole r n then s
  else
    let parts := (upFrom 0 n).map fun k => ((o.parts.find? fun p => p.1 == k).map Prod.snd).getD []
    let bs := r.result g.det s.fresh n g.rank.toNat parts
    let s := { s with fresh := s.fresh + 1 }
    let (s, _) := o.dst.foldl (fun (a : State × List Byte) p => (a.1.landBytes p.1 (a.2.take p.2) (.transfer o.id), a.2.drop p.2)) (s, bs)
    let s := s.putGroup d { g with ops := g.ops.map fun x => if x.id = o.id then { o with written := true } else x }
    s.send (.landing ⟨o.id, .coll, some (d, o.slot), d, 0, [], none, some o.barrier, o.bytes, if o.lost then 1 else 0, [], [], 0,
      some o.strand, o.due⟩)

/-- A contribution reaches a member (R447). -/
def State.takePart (s : State) (d : DieId) (g : Group) (p : CollPkt) : State :=
  match g.ops.find? fun o => o.seqno == p.seqno with
  | none =>
    if g.seqno ≤ p.seqno then s.putGroup d { g with early := g.early ++ [p] } else s
  | some o =>
    if o.fields ≠ p.fields then s.detectAbort d g gMISMATCH
    else if o.parts.any fun q => q.1 == p.rank then s
    else
      let o := { o with parts := o.parts ++ [(p.rank, p.data)] }
      let g := { g with ops := g.ops.map fun x => if x.id = o.id then o else x }
      (s.putGroup d g).finishColl d g o

/-- A member's contribution goes to every other member; of a broadcast only ROOT has one. -/
def State.sendParts (s : State) (d : DieId) (g : Group) (o : CollOp) (data : List Byte) : State :=
  let r := CollRec.ofFields o.fields
  if r.kind = .broadcast ∧ g.rank.toNat ≠ r.root then s
  else
    match g.gid with
    | none => s
    | some gid =>
      (g.members.filter fun m => m != ⟨s.myMod d, d⟩).foldl (fun s m =>
        if s.here d m then s.send (.coll d ⟨m.die, gid, g.gen, o.seqno, o.fields, g.rank.toNat, data⟩ o.strand o.due)
        else s.sendAway m (.data gid g.gen o.seqno o.fields g.rank.toNat data)) s

/-- The operation joins its group (R219): its own part, the parts that came early. -/
def State.joinColl (s : State) (d : DieId) (g : Group) (o : CollOp) (data : List Byte) : State :=
  let r := CollRec.ofFields o.fields
  let own := if r.kind = .broadcast ∧ g.rank.toNat ≠ r.root then [] else [(g.rank.toNat, data)]
  let o := { o with seqno := g.seqno, parts := own }
  let early := g.early.filter fun p => p.seqno == o.seqno
  let g := { g with seqno := g.seqno + 1, ops := g.ops ++ [o], early := g.early.filter fun p => p.seqno != o.seqno }
  let s := (s.putGroup d g).sendParts d g o data
  let s := s.finishColl d g o
  early.foldl (fun s p => match s.group? d g.handle with
    | some g => if g.state = .ready then s.takePart d g p else s
    | none => s) s

/-- Pieces of a range, one for each page; the fuel exceeds their number. -/
def State.spanAll (s : State) (k : AccessKind) (va : Word) : Nat → Nat → Except Look (List (Place × Nat))
  | 0, _ => .ok []
  | fuel + 1, n =>
    if n = 0 then .ok []
    else
      let n1 := min n (65536 - va.toNat % 65536)
      match s.look k 1 va n1 with
      | .ok p =>
        match s.spanAll k (va + word n1) fuel (n - n1) with
        | .ok l => .ok ((p, n1) :: l)
        | .error l => .error l
      | l => .error l

/-- The members, the rank and DET of an entry: those of its last generation, or of the formation that a first one waits in. (DESIGN CHOICE, log 106) -/
def Group.shape (g : Group) : Option (Nat × Nat × Bool) :=
  if g.state = .free then none
  else if g.members.isEmpty then g.forming.map fun f => (f.members.length, f.rank.toNat, f.det)
  else some (g.members.length, g.rank.toNat, g.det)

/-- R218, R219: the release is done and the ranges are checked: bytes are posted, and the operation joins its group or
lands ABORT at once. (DEDUCED, log 42) -/
def State.postColl (s : State) (g : Option Group) (fields : BitVec 48) (n : Nat) (sa sd sb : Word) (src dst : List (Place × Nat)) (at_ : Place) : State :=
  let r := CollRec.ofFields fields
  let bytes := r.posted n
  let bar := at_.loc
  match (s.noteBarrier (some at_)).performHome s.asker bar (.bpost (word bytes)) with
  | (s, .trap code) => s.trap (.of code sb)
  | (s, _) =>
    let s := (src.map fun p => (p, false)) ++ (dst.map fun p => (p, true)) |>.foldl (fun s p => (s.markAccess p.1.1 p.2).noteMig p.1.1) s
    match g with
    | none => (s.landAt bar bytes 2).done4
    | some g =>
      if g.state ≠ .ready then (s.landAt bar bytes 2).done4
      else
        let (id, s) := s.take
        let data := (src.map fun p => s.bytesAt p.1.loc p.2).flatten
        let flat := if r.kind = .barrier then s.me.flat sb else s.me.flat sd
        let s := s.addIlk ⟨.coll, id, s.me.flat sa, (data.length), flat, r.dstLen n, 0, 0, 0, 0⟩
        let o : CollOp := ⟨0, id, s.me.strand, s.me.slot, s.tick, fields, dst.map fun p => (p.1.loc, p.2), flat, bar, bytes, [], anyLost data, false, s.me.deadline⟩
        (s.joinColl s.me.die g o (data.map unlost)).done4

/-- R218, R219; R162: a barrier that is not 16-byte aligned is MISALIGN, after the buffers. DET_VIOLATION comes after the record's
checks and before MISALIGN (log 107). A handle that is FREE, or above 255, gives no member count: ROOT and the buffers are not
checked, and the bytes of a group of one are posted and land ABORT (log 106). (DEDUCED, log 42) (DESIGN CHOICE, log 93, 106, 107) -/
def execColl (d a b : SReg) (x : OxReg) (s : State) : Res :=
  let sd := s.getS d
  let sa := s.getS a
  let sb := s.getS b
  .next (s.ox x .coll fun rec =>
    let fields : BitVec 48 := rec.setWidth 48
    let r := CollRec.ofFields fields
    let h := bits rec 48 16
    let g := if h < 256 then s.group? s.me.die (BitVec.ofNat 8 h) else none
    let known := g.bind Group.shape
    let formed := known.isSome
    let (n, rank, det) := known.getD (1, 0, false)
    if (formed && n ≤ r.root) || (r.kind == .barrier && r.count != 0) then s.trap s.me.illformed
    else if s.me.det && formed && !det then s.trap (.of cDET_VIOLATION (s.me.iword.setWidth 64))
    else
      let es := r.ty.bytes
      let srcLen := if formed then r.srcLen n rank else 0
      let dstLen := if formed then r.dstLen n else 0
      let buffers := r.kind ≠ .barrier
      s.checks (fun s => s.barrierOf sb fun s bar => s.held fun s => s.entryFree fun s =>
        match s.spanAll .r sa (srcLen / 65536 + 2) srcLen with
        | .error l => s.refuse l
        | .ok src =>
          match s.spanAll .w sd (dstLen / 65536 + 2) dstLen with
          | .error l => s.refuse l
          | .ok dst => s.release .mask fun s => s.postColl g fields n sa sd sb src dst (bar.getD (Place.tile 0)))
        [(buffers && sa.toNat % es != 0, .of cMISALIGN sa), (buffers && sd.toNat % es != 0, .of cMISALIGN sd),
         (sb.toNat % 16 != 0, .of cMISALIGN sb), (sb == 0, .of cACCESS sb)])

/-! ### Events of groups -/

/-- Taking a packet of the net that can arrive now. -/
def State.takePacket (s : State) (q : Packet → Bool) : Option State := (s.arriveAt q).map fun x => { s with net := x.2 }
/-- Is a packet an ABORT of a generation for a die? -/
def Packet.isAbort (d : DieId) (gid : Gid) (gen : BitVec 32) : Packet → Bool
  | .abort _ e g n => e == d && g == gid && n == gen
  | _ => false
/-- Does a packet carry a collective packet? -/
def Packet.isColl (q : CollPkt) : Packet → Bool
  | .coll _ p _ _ => p == q
  | _ => false

/-- Is some member of a list on another module? -/
def State.abroad (s : State) (d : DieId) (ms : List Member) : Bool := ms.any fun m => !s.here d m

/-- The registration of a die of this module that an event brings: taken from the net. -/
def State.takeReg (s : State) (r : GroupReg) : Option (State × DieId × BitVec 8) :=
  match s.arriveAt (fun p => match p with
      | .register q _ _ => { q with handle := r.handle } == r
      | _ => false) with
  | some (.register _ d h, rest) => some ({ s with net := rest }, d, h)
  | _ => none

/-- R449: a registration reaches rank 0; one whose formation rank 0 has refused already gets MISMATCH. (DESIGN CHOICE, log 11) (DEDUCED, log 44) -/
def execGroupRegistration (r : GroupReg) (s : State) : Res :=
  let sender := r.members[r.rank]?
  let arrived : Option (State × Option (DieId × BitVec 8)) := match sender with
    | none => none
    | some m => if s.here r.die m then (s.takeReg r).map fun q => (q.1, some q.2) else some (s, none)
  match arrived with
  | none => .next s
  | some (t, from_) =>
    if (s.die r.die).refused.contains (r.handle, r.rank) then
      .next ((t.mapDie r.die fun x => { x with refused := x.refused.erase (r.handle, r.rank) }).tellMismatch r.die r.handle (r, from_))
    else match s.group? r.die r.handle with
    | none => .next s
    | some g =>
      let s := t
      let s := if r.reform then s.applyAbort r.die g gREMOTE else s
      match s.group? r.die r.handle with
      | none => .next s
      | some g =>
        let g := { g with regs := (r, from_) :: g.regs.filter fun q => q.1.rank != r.rank }
        let s := s.putGroup r.die g
        match g.forming with
        | some f => .next (if f.rank = 0 then s.collect r.die g f else s)
        | none => .next s

/-- R448, R449: what rank 0 answers reaches a FORMING entry: its confirmation, or, from another module, MISMATCH. (DESIGN CHOICE,
log 11) (DEDUCED, log 44) -/
def execGroupConfirm (d : DieId) (entry : EntryGen) (ok : Bool) (s : State) : Res :=
  let h := entry.handle
  let gen := entry.gen
  match s.group? d h with
  | none => .next s
  | some g =>
    match g.forming with
    | none => .next s
    | some f =>
      match f.members with
      | [] => .next s
      | zero :: _ =>
        if f.rank = 0 then .next s
        else if s.here d zero then
          match s.arriveAt (fun p => match p with
              | .confirm e k n _ => e == d && k == h && n == gen
              | _ => false) with
          | some (.confirm _ _ _ gid, rest) => .next (({ s with net := rest } : State).formReady d g gen gid)
          | _ => .next s
        else .next (if ok then s.formReady d g gen ⟨zero.modl, zero.die, entry.zero⟩ else s.formFail d g gMISMATCH)

/-- The member's entry that a message of a GID and a generation finds, once it is there: `old` for a generation below the entry's
current one, `now` for the current one. A message of a generation that the member has not begun waits for the confirmation (`s`);
one of a group that the die no longer holds is dropped. -/
def State.forMember (s t : State) (d : DieId) (gid : Gid) (gen : BitVec 32) (old now : Group → State) : State :=
  match s.entryOf d gid with
  | none => if s.confirmDue d gid then s else t
  | some g =>
    if gen.toNat < g.gen.toNat then old g
    else if gen = g.gen && g.gid == some gid then now g
    else if s.confirmDue d gid then s else t

/-- R447: a collective packet reaches a member: dropped when older, kept when early, else combined. From a member here it is in the
net; from another module the event brings it. (DESIGN CHOICE, log 11) -/
def execCollectivePacket (p : CollPkt) (s : State) : Res :=
  let abroad := (s.entryOf p.die p.gid).any fun g => (g.members[p.rank]?).any fun m => !s.here p.die m
  match (if abroad then some s else s.takePacket (Packet.isColl p)) with
  | none => .next s
  | some t => .next (s.forMember t p.die p.gid p.gen (fun _ => t.count p.die 0 0 10 1) fun g => if g.state ≠ .ready then t else t.takePart p.die g p)

/-- R450: ABORT reaches a member: REMOTE for its current generation, dropped and counted for an older one. (DESIGN CHOICE, log 11) -/
def execAbort (d : DieId) (gid : Gid) (gen : BitVec 32) (s : State) : Res :=
  let arrived := match s.takePacket (Packet.isAbort d gid gen) with
    | some t => some t
    | none => if !(s.net.any (Packet.isAbort d gid gen)) && (s.entryOf d gid).any fun g => s.abroad d g.members then some s else none
  match arrived with
  | none => .next s
  | some t => .next (s.forMember t d gid gen (fun _ => t.count d 0 0 10 1) fun g => t.applyAbort d g gREMOTE)

/-- R450: a transaction of the group has had no answer within TMO. -/
def execGroupTimeout (d : DieId) (h : BitVec 8) (s : State) : Res :=
  match s.group? d h with
  | none => .next s
  | some g => .next (if g.ops.any fun o => o.since + g.tmo ≤ s.tick then s.detectAbort d g gTIMEOUT else s)

/-- R444, R450: no usable port of the module while members are elsewhere, or a die of the group is absent. (DEDUCED, log 41) -/
def State.memberGone (s : State) (d : DieId) (g : Group) : Bool :=
  (s.abroad d g.members && !s.ports.toList.any id) || g.members.any fun m => s.here d m && !s.present m.die.val
def execMemberLost (d : DieId) (h : BitVec 8) (s : State) : Res :=
  match s.group? d h with
  | none => .next s
  | some g => .next (if s.memberGone d g then s.detectAbort d g gLOST else s)

/-- R215, R448: a formation has taken longer than TMO. (DEDUCED, log 44) -/
def execGformTimeout (strand : Word) (s : State) : Res :=
  match allDies.findSome? fun d => (s.die d).groups.findSome? fun g =>
      g.forming.bind fun f => if f.strand = strand ∧ f.since + f.tmo ≤ s.tick then some (d, g) else none with
  | none => .next s
  | some (d, g) => .next (s.formFail d g gTIMEOUT)

end Sys2Proof.Machine
end

