-- ==== Sys2Proof/Machine/Network.lean ====
section
/-! DEFINITION. The host port outside the endpoints' operations: connections (R428), addresses (R427), the time base
(R436). -/

namespace Sys2Proof.Machine

/-! ### Connections (R426, R428) -/

def EpKind.ofNat? : Nat → Option EpKind
  | 0 => some .job | 1 => some .mem | 2 => some .ctl | 3 => some .tel | 4 => some .dbg | 5 => some .age | _ => none
/-- R426: the queue pair number of an endpoint. -/
def qpn (ep : Endpoint) : Nat := 0x100 + 8 * ep.die.val + EpKind.code ep.kind
/-- The endpoint that a service ID names. -/
def endpointOf (service : Word) : Option Endpoint :=
  let q := service.toNat
  if q < 0x100 ∨ 0x180 ≤ q then none else (EpKind.ofNat? (q % 8)).map fun k => ⟨Fin.ofNat 16 ((q - 0x100) / 8), k⟩
/-- R428: an endpoint that is open. -/
def State.isOpen (s : State) (ep : Endpoint) : Bool :=
  if ep.die = 4 ∧ ep.kind = .ctl then (s.die 4).verified
  else s.phase == .running && (s.die ep.die).present
def State.conn? (s : State) (ep : Endpoint) : Option Conn := s.conns.find? fun c => c.ep == ep
def State.say (s : State) (m : PortMsg) : State := { s with wire := m :: s.wire }

/-- R428. (DEDUCED, log 80) -/
def execCmReq (service : Word) (s : State) : Res :=
  .next (match endpointOf service with
    | none => s.say .rej
    | some ep =>
      if !s.isOpen ep || (s.conn? ep).any fun c => c.up then s.say .rej
      else
        let s := { s with conns := ⟨ep, false, 0, [], 1⟩ :: s.conns.filter fun c => c.ep != ep, fresh := s.fresh + 1 }
        s.say (.rep (qpn ep) (Config.freePsn (s.fresh - 1))))

/-- R428: asynchronous messages that waited, in order. (DEDUCED, log 80) -/
def State.flushAsyncs (s : State) (ep : Endpoint) : State :=
  let mine := s.asyncs.filter fun m => m.ep == ep
  let s := { s with asyncs := s.asyncs.filter fun m => m.ep != ep }
  mine.foldl (fun s m => s.post m.ep m.op.toNat m.die m.tag m.addr m.arg0 m.arg1 m.payload) s

/-- R428: the connection stands. -/
def execCmRtu (ep : Endpoint) (s : State) : Res :=
  .next (match s.conn? ep with
    | none => s
    | some c => if c.up then s
      else ({ s with conns := mapIf (fun c => c.ep == ep) (fun c => { c with up := true }) s.conns } : State).flushAsyncs ep)
def State.closeConn (s : State) (ep : Endpoint) : State := { s with conns := s.conns.filter fun c => c.ep != ep }
/-- R428. -/
def execCmDreq (ep : Endpoint) (s : State) : Res := .next (if (s.conn? ep).any fun c => c.up then (s.closeConn ep).say .drep else s)
/-- R428. -/
def execConnectionBroken (ep : Endpoint) (s : State) : Res := .next (s.closeConn ep)
/-- R425: the module lowers its send rate, which only time shows. -/
def execEcnNotification (_ : Endpoint) (s : State) : Res := .next s

/-! ### Addresses (R427) -/

/-- Die 4 has verified the boot data. -/
def State.netUp (s : State) : Bool := (s.die 4).verified
/-- R427: ARP for the module's address, answered with the MAC address fused into die 4. -/
def execArpRequest (ip : BitVec 32) (s : State) : Res := .next (if s.netUp ∧ s.ip4 = some ip then s.say (.arp ip Config.freeMac) else s)
/-- R427: neighbour discovery for the module's address. -/
def execNeighbourSolicitation (ip : BitVec 128) (s : State) : Res := .next (if s.netUp ∧ s.ip6 = some ip then s.say (.neighbour ip Config.freeMac) else s)
/-- R427: die 4 asks for its lease, at first or again. -/
def execDhcpRenewal (s : State) : Res := .next (if s.netUp ∧ v4Dhcp s.netRec then s.say .dhcpRequest else s)
/-- R427: the address of a DHCP reply; one that is held is kept until module reset. (DEDUCED, log 81) -/
def execDhcpMessage (ip : BitVec 32) (s : State) : Res :=
  .next (if s.netUp ∧ v4Dhcp s.netRec ∧ s.ip4.isNone then { s with ip4 := some ip } else s)
/-- R427: the address that autoconfiguration forms; one that is held is kept. (DEDUCED, log 81) -/
def execRouterAdvertisement (ip : BitVec 128) (s : State) : Res :=
  .next (if s.netUp ∧ v6Auto s.netRec ∧ s.ip6.isNone then { s with ip6 := some ip } else s)

/-! ### Time base (R436) -/

/-- DOMAIN, MECH and IP6 as PTPCTL selects them. -/
def State.ptpPort (s : State) : PtpPort :=
  let x := (s.die 4).regs.ptpctl
  ⟨BitVec.ofNat 8 (bits x 0 8), bitAt x 8, bitAt x 9⟩
/-- R436: a message of the grandmaster of the clock's domain, delay mechanism and IP version gives the offset; TICK itself is steered by
rate only. -/
def execPtpMessage (offset : PtpMsg) (s : State) : Res :=
  .next (if s.ptpOn ∧ offset.port = s.ptpPort then s.setCounter 4 0 0 0 offset.offset else s)
/-- R436: the clock's own delay request, of the mechanism that PTPCTL selects. -/
def execPtpDelayRequest (s : State) : Res := .next (if s.ptpOn then s.say (.ptp s.ptpPort) else s)

end Sys2Proof.Machine
end

