-- ==== Sys2Proof/Machine/Host.lean ====
section
/-! DEFINITION. The operations of the endpoints (R429 to R434, R423, R465): requests in SEQ order, their effects and
their responses. -/

namespace Sys2Proof.Machine

/-! ### Status codes (R431) and responses -/

def hOK : Nat := 0
def hBADMSG : Nat := 1
def hBADOP : Nat := 2
def hBADADDR : Nat := 3
def hBUSY : Nat := 4
def hABSENT : Nat := 5
def hNOTHALTED : Nat := 6
def hSEQERR : Nat := 7
def hFAULT : Nat := 8

/-- What a request leads to: STATUS, ARG0 where the operation gives one, and the payload. -/
structure HRes where
  status : Nat
  arg0 : Option Word
  payload : List Byte
  deriving DecidableEq, Repr

def HRes.of (status : Nat) : HRes := ⟨status, none, []⟩
def HRes.data (bs : List Byte) : HRes := ⟨hOK, none, bs⟩
def HRes.val (x : Word) : HRes := ⟨hOK, some x, []⟩
/-- R431: a fault of memory; an absent home is ABSENT. -/
def HRes.fault (code : BitVec 8) : HRes := if code = cABSENT_HOME then .of hABSENT else ⟨hFAULT, some (code.setWidth 64), []⟩

abbrev HostDo := State → State × HRes

/-- R429: the response to a request: its header comes back with STATUS and TIME. (DEDUCED, log 73) -/
def responseTo (req : HostReq) (tick : Nat) (r : HRes) : HostMsg :=
  { ep := req.qp, op := req.op, async := false, die := req.die, status := BitVec.ofNat 8 r.status, seq := req.seq, tag := req.tag,
    addr := req.addr, arg0 := r.arg0.getD req.arg0, arg1 := req.arg1, arg2 := req.arg2, time := word tick, payload := r.payload }

/-- A response sent and kept, so that a repeated SEQ gets it again (R430). -/
def State.respond (s : State) (req : HostReq) (r : HRes) : State :=
  let m := responseTo req s.tick r
  { s with out := m :: s.out, conns := mapIf (fun c => c.ep == req.qp) (fun c => { c with last := req.seq, resp := m :: c.resp }) s.conns }

/-- R428: what die 4's CTL endpoint performs before BOOTED: RDREG and WRREG on die 4's own registers. -/
def beforeBoot (req : HostReq) : Bool := (req.op == 1 || req.op == 2) && req.die == 4
/-- A header that R429 allows. (DEDUCED, log 74) -/
def goodHeader (req : HostReq) : Bool := req.ver == 1 && req.clean && req.plen ≤ 4032 && req.ep.toNat == EpKind.code req.qp.kind

/-- Is a request the next one of its connection, well-formed, after boot and for a present die? -/
def State.admits (s : State) (req : HostReq) : Bool :=
  (s.conn? req.qp).any (fun c => c.up && c.last.toNat + 1 == req.seq.toNat) && req.seq != 0 && goodHeader req
    && s.phase == .running && (s.die req.die).present
/-- R426, R428, R430: a request at its endpoint: repeated, out of order, malformed, before boot, for an absent die, or
performed by `f`. (DEDUCED, log 74) -/
def State.serveHost (s : State) (req : HostReq) (f : HostDo) : State :=
  match s.conn? req.qp with
  | none => s
  | some c =>
    if !c.up then s
    else if req.seq = 0 ∨ c.last.toNat + 1 < req.seq.toNat then
      { s with out := responseTo req s.tick (.of hSEQERR) :: s.out }
    else if req.seq.toNat ≤ c.last.toNat then
      match c.resp.find? fun m => m.seq == req.seq with
      | some m => { s with out := m :: s.out }
      | none => s
    else if !goodHeader req then s.respond req (.of hBADMSG)
    else if s.phase ≠ .running ∧ !beforeBoot req then s.respond req (.of hBUSY)
    else if s.phase = .running ∧ !(s.die req.die).present then s.respond req (.of hABSENT)
    else
      let (s, r) := f s
      s.respond req r

/-! ### Addresses of requests -/

/-- A virtual address of a request through a root: a DRAM location, or the answer of a fault. -/
def State.hostPlace (s : State) (d : DieId) (k : AccessKind) (root va : Word) : Except HRes Nat :=
  if va.toNat / 2 ^ 56 ≠ 0 then .error (.fault cNONCANON)
  else if va.toNat / 2 ^ 55 ≠ 0 then .error (.fault cACCESS)
  else
    match s.translate d none k false (rootOf root) va.toNat with
    | .error f => .error (.fault f)
    | .ok p => .ok p.loc

/-- The level object at an address of a request. -/
def State.hostObject (s : State) (req : HostReq) : Except HRes Nat :=
  if req.addr.toNat % 64 ≠ 0 then .error (.of hBADADDR)
  else
    match s.hostPlace req.die .r req.arg1 req.addr with
    | .error r => .error r
    | .ok loc => if isDram loc then .ok loc else .error (.of hBADADDR)

/-- R434: a physical range within a die's DRAM or device space. (DEDUCED, log 75) -/
def State.rangeOk (s : State) (d : DieId) (pa n : Nat) : Bool :=
  n == 0 || (homeOf pa == d && homeOf (pa + n - 1) == d && pa / 2 ^ 40 == (pa + n - 1) / 2 ^ 40
    && (s.paFault pa true).isNone && (s.paFault (pa + n - 1) true).isNone)
/-- The answer to a physical range that a request may not name. -/
def State.rangeBad (s : State) (pa : Nat) : HRes := if pa / 2 ^ 40 ≤ 1 ∧ !s.present (pa / 2 ^ 36 % 16) then .of hABSENT else .of hBADADDR
/-- Bytes read at home (R434); lost ones read all ones. -/
def State.hostRead (s : State) (pa n : Nat) : List Byte := (s.bytesAt pa n).map unlost
/-- Cutting a write to device space at its registers. -/
def byRegister (loc : Nat) : Nat → List Byte → List (Nat × List Byte)
  | 0, _ => []
  | fuel + 1, bs =>
    let n := 8 - loc % 8
    if bs.length ≤ n then [(loc, bs)] else (loc, bs.take n) :: byRegister (loc + n) fuel (bs.drop n)
/-- R434: a write performed at home, settled on every present die before it is acknowledged; device space a register at a time. -/
def State.hostWrite (s : State) (pa : Nat) (bs : List Byte) : State :=
  if bs.isEmpty then s
  else if isDevice pa then (byRegister pa (bs.length + 1) bs).foldl (fun s p => s.devWrite p.1 p.2) s
  else s.settleWrite pa bs

/-! ### JOB (R377, R378, R383, R432) -/

/-- R377, R378: an object is submitted. -/
def State.submit (s : State) (req : HostReq) (obj : Nat) : State × HRes :=
  if objST (s.rd (obj + 16)) = 1 then (s, .of hBUSY)
  else
    let d := homeOf obj
    let sroot := rootOf req.arg1
    let s := s.wr (obj + 16) (withST (s.rd (obj + 16)) 0)
    if req.arg0 = 2 then
      let r : Run := ⟨d, sroot, 2, 0, 0, obj, false, 0, req.addr⟩
      let (s, w) := ({ s with runs := s.runs ++ [r] } : State).runGraph r
      (s.doWork w, .of hOK)
    else
      let s := s.wr (obj + 16) (withST (s.rd (obj + 16)) 1)
      let r : Run := ⟨d, sroot, 4, obj, 0, 0, false, s.rd (obj + 32), req.addr⟩
      let (s, w) := ({ s with runs := s.runs ++ [r] } : State).nextPhase r 0
      (s.doWork w, .of hOK)
/-- R377, R432. -/
def execJobSubmit (req : HostReq) (s : State) : Res :=
  .next (s.serveHost req fun s =>
    if req.arg0 ≠ 2 ∧ req.arg0 ≠ 4 then (s, .of hBADMSG)
    else
      match s.hostObject req with
      | .error r => (s, r)
      | .ok obj => s.submit req obj)

/-- R383, R432: the effect of `cncl` at system level. -/
def execJobCancel (req : HostReq) (s : State) : Res :=
  .next (s.serveHost req fun s =>
    if 4 < req.arg0.toNat then (s, .of hBADMSG)
    else if req.arg0 = 0 then
      match s.liveOfStrand req.addr with
      | none => (s, .of (if s.wasStrand req.addr then hOK else hBADADDR))
      | some l => (s.cancelStrand l req.addr, .of hOK)
    else
      match s.hostObject req with
      | .error r => (s, r)
      | .ok obj =>
        match s.cancelObject req.arg0.toNat obj with
        | some s => (s, .of hOK)
        | none => (s, .of hBADADDR))

/-- R432: a phase that waits at its host gate is released. -/
def execJobRelease (req : HostReq) (s : State) : Res :=
  .next (s.serveHost req fun s =>
    match s.hostObject req with
    | .error r => (s, r)
    | .ok obj =>
      match s.runs.find? fun r => r.gated && r.phase == obj with
      | none => (s, .val 0)
      | some r =>
        let (s, w) := s.nextPhase r (s.rd r.job).toNat
        (s.doWork w, .val 1))

/-! ### MEM and RDMA (R434) -/

/-- R434: a window opens; its key is a free value. (DEDUCED, log 75) -/
def execMemOpen (req : HostReq) (s : State) : Res :=
  .next (s.serveHost req fun s =>
    let d := req.die
    if 4 ≤ req.arg1.toNat then (s, .of hBADMSG)
    else if !s.rangeOk d req.addr.toNat req.arg0.toNat then (s, s.rangeBad req.addr.toNat)
    else if Config.rdmaWindows ≤ (s.die d).windows.length then (s, .of hBUSY)
    else
      let key := Config.freeKey s.fresh
      let w : Window := ⟨key, req.addr.toNat, req.arg0.toNat, bitAt req.arg1 0, bitAt req.arg1 1⟩
      ({ s with fresh := s.fresh + 1 }.mapDie d fun x => { x with windows := w :: x.windows }, .val key))
/-- R434. (DEDUCED, log 75) -/
def execMemClose (req : HostReq) (s : State) : Res :=
  .next (s.serveHost req fun s =>
    if (s.die req.die).windows.any fun w => w.key == req.arg0 then
      (s.mapDie req.die fun x => { x with windows := x.windows.filter fun w => w.key != req.arg0 }, .of hOK)
    else (s, .of hBADADDR))
/-- R432, R434. (DEDUCED, log 76) -/
def execMemRead (req : HostReq) (s : State) : Res :=
  .next (s.serveHost req fun s =>
    if s.rangeOk req.die req.addr.toNat req.plen then (s, .data (s.hostRead req.addr.toNat req.plen)) else (s, s.rangeBad req.addr.toNat))
/-- R432, R434. -/
def execMemWrite (req : HostReq) (s : State) : Res :=
  .next (s.serveHost req fun s =>
    if req.payload.length ≠ req.plen then (s, .of hBADMSG)
    else if s.rangeOk req.die req.addr.toNat req.plen then (s.hostWrite req.addr.toNat req.payload, .of hOK)
    else (s, s.rangeBad req.addr.toNat))

/-- R434: an RDMA request within an open window of a die that has a connection. (DEDUCED, log 75) -/
def State.rdma (s : State) (d : DieId) (key : Word) (addr n : Nat) (write : Bool) (f : State → State) : State :=
  if !s.conns.any fun c => c.up && c.ep.die == d then s
  else
    match (s.die d).windows.find? fun w => w.key == key with
    | none => s.say .rdmaRefused
    | some w =>
      if (if write then w.write else w.read) && decide (w.base ≤ addr ∧ addr + n ≤ w.base + w.len) then f s else s.say .rdmaRefused
/-- R434. -/
def execRdmaRead (d : DieId) (key : Word) (addr len : Nat) (s : State) : Res :=
  .next (s.rdma d key addr len false fun s => s.say (.rdmaData (s.hostRead addr len)))
/-- R434. -/
def execRdmaWrite (d : DieId) (key : Word) (addr : Nat) (data : List Byte) (s : State) : Res :=
  .next (s.rdma d key addr data.length true fun s => (s.hostWrite addr data).say .rdmaAck)

/-! ### CTL (R432, R436, R448, R470) -/

/-- R432: a register of the device space of a die. -/
def execCtlRdreg (req : HostReq) (s : State) : Res :=
  .next (s.serveHost req fun s =>
    match (s.die req.die).reg req.die req.addr.toNat with
    | some (x, _) => (s, .val x)
    | none => (s, .of hBADADDR))
/-- R432; the manifest is no register that a request may write. (DEDUCED, log 77) -/
def execCtlWrreg (req : HostReq) (s : State) : Res :=
  .next (s.serveHost req fun s =>
    match (s.die req.die).reg req.die req.addr.toNat with
    | some (_, m) => if m = 0 ∧ req.addr ≠ ptpctlOffset then (s, .of hBADADDR) else (s.writeReg req.die req.addr.toNat req.arg0, .of hOK)
    | none => (s, .of hBADADDR))
/-- R436: while EN is 1, DOMAIN, MECH and IP6 do not change; PTPOFF reads 0 while EN is 0. -/
def execPtpctlWrite (req : HostReq) (s : State) : Res :=
  .next (s.serveHost req fun s =>
    if req.die ≠ 4 then (s, .of hOK)
    else if s.ptpBusy req.arg0 then (s, .of hBUSY)
    else (s.ptpWrite req.arg0, .of hOK))
/-- R160, R432: translations are removed on the dies of the mask; absent dies are left out. (DEDUCED, log 77) -/
def execCtlTlbinv (req : HostReq) (s : State) : Res :=
  .next (s.serveHost req fun s =>
    if 2 ^ 55 ≤ req.arg0.toNat then (s, .fault cNONCANON)
    else if 2 ^ 16 ≤ req.arg2.toNat then (s, .of hBADMSG)
    else
      let r := tlbRange req.arg0 req.arg1
      let m := BitVec.ofNat 16 req.arg2.toNat
      let s := s.count req.die 4 0 10 (allDies.filter fun d => m.getLsbD d.val && !(s.die d).present).length
      ((s.maskDies m).foldl (fun s d => s.dropTlb d r.1 r.2) s, .of hOK))
/-- R448, R451: a group-table entry is freed. (DEDUCED, log 77) -/
def execCtlGfree (req : HostReq) (s : State) : Res :=
  .next (s.serveHost req fun s =>
    if 256 ≤ req.arg0.toNat then (s, .of hBADMSG)
    else
      match s.group? req.die (BitVec.ofNat 8 req.arg0.toNat) with
      | none => (s, .of hOK)
      | some g =>
        match g.state with
        | .free => (s, .of hOK)
        | .forming => (s, .of hBUSY)
        | _ => if g.ops.isEmpty then (s.putGroup req.die (Group.free g.handle), .of hOK) else (s, .of hBUSY))
/-- R470: CTL FREEZE has no response. -/
def execCtlFreeze (req : HostReq) (s : State) : Res :=
  .next (if req.arg0 = 0x4652455A ∧ s.admits req then s.freeze else s.serveHost req fun s => (s, .of hBADMSG))

/-! ### TEL (R432, R433) -/

/-- R433: counters of a block: how many each kind has, and its instances. -/
def blockSize : Nat → Nat × Nat
  | 0 => (1, 13)
  | 1 => (8, 12)
  | 2 => (256, 6)
  | 3 => (8, 8)
  | 4 => (1, 11)
  | 5 => (1, 4)
  | 6 => (1, 14)
  | 7 => (4, 4)
  | 8 => (1, 17)
  | _ => (0, 0)
/-- Does a block hold `n` counters from an index? -/
def blockOk (block : Word) (first n : Nat) : Bool :=
  let b := blockSize (bits block 8 8)
  bits block 16 48 == 0 && bits block 0 8 < b.1 && first + n ≤ b.2
/-- R433: one snapshot. -/
def State.counters (s : State) (d : DieId) (block : Word) (first n : Nat) : List Byte :=
  ((upFrom first n).map fun i => w64 (s.counter d (bits block 8 8) (bits block 0 8) i)).flatten
/-- R433. -/
def execTelRead (req : HostReq) (s : State) : Res :=
  .next (s.serveHost req fun s =>
    let n := req.plen / 8
    if blockOk req.arg0 req.arg1.toNat n then (s, .data (s.counters req.die req.arg0 req.arg1.toNat n)) else (s, .of hBADADDR))
/-- R432: one subscription for each die; a period of 0 ends it. -/
def execTelSubscribe (req : HostReq) (s : State) : Res :=
  .next (s.serveHost req fun s =>
    let first := bits req.arg2 0 16
    let n := bits req.arg2 16 16
    if req.arg0 = 0 then (s.mapDie req.die fun x => { x with sub := none }, .of hOK)
    else if bits req.arg2 32 32 ≠ 0 ∨ n = 0 ∨ 504 < n then (s, .of hBADMSG)
    else if !blockOk req.arg1 first n then (s, .of hBADADDR)
    else
      let p := req.arg0.toNat * 1024
      (s.mapDie req.die fun x => { x with sub := some ⟨p, req.arg1, first, n, s.tick + p⟩ }, .of hOK))
/-- R432: a period has passed. -/
def execTelSample (d : DieId) (s : State) : Res :=
  .next (match (s.die d).sub with
    | none => s
    | some q =>
      if s.tick < q.next then s
      else (s.mapDie d fun x => { x with sub := some { q with next := q.next + q.period } }).post ⟨d, .tel⟩ 0x80 d 0 0 0 0
        (s.counters d q.block q.first q.count))

/-! ### DBG (R423, R432) -/

/-- Pieces of a virtual range that lie in one page. -/
def pagePieces (va : Nat) : Nat → Nat → List (Nat × Nat)
  | 0, _ => []
  | fuel + 1, n =>
    if n = 0 then [] else
    let k := min n (65536 - va % 65536)
    (va, k) :: pagePieces (va + k) fuel (n - k)
/-- A virtual range as locations and lengths, or the answer of the first fault. -/
def State.hostPieces (s : State) (d : DieId) (k : AccessKind) (root : Word) : List (Nat × Nat) → Except HRes (List (Nat × Nat))
  | [] => .ok []
  | (va, n) :: l =>
    match s.hostPlace d k root (word va) with
    | .error r => .error r
    | .ok loc =>
      match s.hostPieces d k root l with
      | .error r => .error r
      | .ok ls => .ok ((loc, n) :: ls)
/-- R423, R432. (DEDUCED, log 76) -/
def execDbgRead (req : HostReq) (s : State) : Res :=
  .next (s.serveHost req fun s =>
    match s.hostPieces req.die .r req.arg0 (pagePieces req.addr.toNat 3 req.plen) with
    | .error r => (s, r)
    | .ok ls => (s, .data (ls.map fun p => s.hostRead p.1 p.2).flatten))

/-- Every HALTED strand. -/
def State.haltedAll (s : State) : List (DieId × Waiting) := (allDies.map fun d => (s.die d).halted.map fun w => (d, w)).flatten
/-- R415: the bits of a record's eight dwords that a debugger may change; HELD of the classes only from 0 to 1. (DEDUCED, log 79) -/
def recordMask (k : Nat) : Nat :=
  match k with
  | 0 => 0x00FFFFFFFFFFFFFE
  | 3 => 0xFFFFFFFFFFFFFFC0
  | 4 => 2 ^ 57
  | 5 => 0x0000000FFCFFFFFF
  | 6 => 0xFFFF000000000000
  | _ => 0
/-- One byte of a record as a debugger's write leaves it. (DEDUCED, log 79) -/
def recordByte (i : Nat) (old new : Byte) : Byte :=
  let m : Byte := BitVec.ofNat 8 (recordMask (i / 8) / 2 ^ (8 * (i % 8)))
  if i = 63 then old ||| (new &&& 0xFC) else (new &&& m) ||| (old &&& ~~~m)
/-- Where a debugger's write falls: the record of a HALTED strand, or the classes of its save area. -/
inductive DbgTarget where
  | record (va : Nat)
  | area
  deriving DecidableEq, Repr
def State.dbgTarget (s : State) (root : Nat) (va n : Nat) : Option DbgTarget :=
  (s.haltedAll.filter fun p => p.2.root == root).findSome? fun p =>
    let r := p.2.record.toNat
    if r ≤ va ∧ va + n ≤ r + 64 then some (DbgTarget.record r)
    else
      match s.readRecord p.1 root r with
      | none => none
      | some rec =>
        let a := (rec.w 3).toNat
        if a ≠ 0 ∧ a ≤ va ∧ va + n ≤ a + 0x12400 then some DbgTarget.area else none
/-- R423: bytes written through pieces. -/
def State.dbgPut (s : State) : List (Nat × Nat) → List Byte → State
  | [], _ => s
  | (loc, n) :: l, bs => (s.hostWrite loc (bs.take n)).dbgPut l (bs.drop n)
/-- R423. (DEDUCED, log 79) -/
def execDbgWrite (req : HostReq) (s : State) : Res :=
  .next (s.serveHost req fun s =>
    let va := req.addr.toNat
    if req.payload.length ≠ req.plen then (s, .of hBADMSG)
    else
      match s.dbgTarget (rootOf req.arg0) va req.plen with
      | none => (s, .of hNOTHALTED)
      | some t =>
        match s.hostPieces req.die .w req.arg0 (pagePieces va 3 req.plen) with
        | .error r => (s, r)
        | .ok ls =>
          match t with
          | .area => (s.dbgPut ls req.payload, .of hOK)
          | .record r =>
            let old := (ls.map fun p => s.hostRead p.1 p.2).flatten
            let bs := ((upFrom (va - r) req.plen).zip (old.zip req.payload)).map fun p => recordByte p.1 p.2.1 p.2.2
            (s.dbgPut ls bs, .of hOK))

/-- R423: a running strand is halted with HCODE 0; one that is HALTED already stays so. (DEDUCED, log 79) -/
def execDbgHalt (req : HostReq) (s : State) : Res :=
  .next (s.serveHost req fun s =>
    match s.slotOfStrand req.arg0 with
    | some c => (s.inSlot c.die c.slot fun s => s.stopMe 6 fun s => s.stopNow 6, .of hOK)
    | none => if s.haltedAll.any fun p => p.2.strand == req.arg0 then (s, .of hOK) else (s, .of hBADADDR))

/-- R423: CHK is computed anew, STATE becomes READY, and the strand is ready as resumed. (DEDUCED, log 54) -/
def State.resumeHalted (s : State) (d : DieId) (w : Waiting) : State :=
  let s := s.mapDie d fun x => { x with halted := x.halted.filter fun o => o.strand != w.strand }
  let s := match s.readRecord d w.root w.record.toNat with
    | none => s
    | some r =>
      let ws := [r.w 0, r.w 1, r.w 2, r.w 3, word (putBits (r.w 4).toNat 60 4 rsREADY), r.w 5, r.w 6]
      let last := word ((r.w 7).toNat / 2 ^ 32 * 2 ^ 32)
      match s.translate d none .w false w.root w.record.toNat with
      | .ok p => s.settleWrite p.loc ((ws ++ [last + word (chkOf (ws ++ [last]))]).map w64).flatten
      | .error _ => s
  s.makeReady d { w with since := s.tick }
/-- R423. -/
def execDbgResume (req : HostReq) (s : State) : Res :=
  .next (s.serveHost req fun s =>
    match s.haltedAll.find? fun p => p.2.strand == req.arg0 with
    | some (d, w) => (s.resumeHalted d w, .of hOK)
    | none => (s, .of hNOTHALTED))

/-- R342: a home-directory entry as its 20 bits. -/
def DirEntry.bits (e : DirEntry) : Nat :=
  if e.coarse then 2 ^ 19
  else e.holders.length * 2 ^ 16 + ((e.holders.zip (upFrom 0 4)).foldl (fun n p => n + p.1.val * 16 ^ p.2) 0)
/-- R342, R432. (DEDUCED, log 78) -/
def execDbgRddir (req : HostReq) (s : State) : Res :=
  .next (s.serveHost req fun s =>
    let pa := req.addr.toNat
    if isDram pa && s.rangeOk req.die pa 1 then (s, .val (word (DirEntry.bits (dirFind (s.die req.die).dir (lineOf pa)))))
    else (s, s.rangeBad pa))
/-- R73: BFMT as its register. -/
def Bfmt.bits (b : Bfmt) : Nat := b.epoff.toNat % 2 ^ 14 * 65536 + (if b.fmtv then 16 else 0) + b.fmt.toNat
/-- R73, R432. (DEDUCED, log 78) -/
def execDbgRdbfmt (req : HostReq) (s : State) : Res :=
  .next (s.serveHost req fun s =>
    if 8 ≤ req.arg0.toNat ∨ 8 ≤ req.arg1.toNat then (s, .of hBADMSG)
    else (s, .val (word (Bfmt.bits (s.die req.die).bfmt[Fin.ofNat 64 (req.arg0.toNat * 8 + req.arg1.toNat)]))))

/-! ### AGE (R465) -/

/-- R465: MARGIN, GB, BUDGET, the state and the remaining leaves, a dword each. (DEDUCED, log 78) -/
def execAgeRead (req : HostReq) (s : State) : Res :=
  .next (s.serveHost req fun s =>
    if 9 ≤ req.arg0.toNat then (s, .of hBADMSG)
    else
      let x := s.die req.die
      let a := x.rings[Fin.ofNat 9 req.arg0.toNat]
      let m : Word := match a.margin with | some m => word m | none => Config.freeMargin req.die.val req.arg0.toNat
      (s, .data ([m, word a.gb, word (bits x.regs.agectl 24 8), word a.st, word (leafLimit - x.leaves)].map w64).flatten))
/-- R465. -/
def execAgeRetire (req : HostReq) (s : State) : Res :=
  .next (s.serveHost req fun s =>
    if 8 ≤ req.arg0.toNat then (s, .of hBADMSG)
    else if (s.die req.die).retiring.isSome then (s, .of hBUSY)
    else (s.retireRing req.die req.arg0.toNat, .of hOK))

/-- R431, R432: a request that no operation answers. -/
def execReservedOpRequest (req : HostReq) (s : State) : Res := .next (s.serveHost req fun s => (s, .of hBADOP))

end Sys2Proof.Machine
end

