-- ==== Sys2Proof/Machine/VectorMem.lean ====
section
/-! DEFINITION. Vector loads and stores (R236 to R241) with the bank formats of R73 to R75. -/

namespace Sys2Proof.Machine

/-- What one element of a memory instruction leads to: the next element, a wait, a trap between elements, or a migration. -/
inductive Elt where
  | ok (s : State)
  | stop (s : State)
  | trap (s : State) (t : Trap)
  | leave (s : State) (d : DieId)

/-- Flags of an element of a group that has not completed (R230). -/
def State.partFlags (s : State) (fl : BitVec 6) : State := s.mapMe fun c => { c with part := some ((c.part.getD 0) ||| fl) }

/-- Element `i` is in hand: at a new group of `size` elements the flags of the one before enter FLAGS (R230), and RIDX names the new
group's first element (R229); within a group it names the element. -/
def State.enterElem (s : State) (size i : Nat) : State :=
  let c := s.me
  s.mapMe fun k =>
    if c.ridx / size ≠ i / size then k.flushPart.setRidx (i / size * size)
    else if c.part.isSome then k.setRidx i else k

/-- RIDX names the element that an instruction stops at; the bank format that its group found is forgotten (R77, R229). -/
def Ctx.stopsAt (c : Ctx) (i : Nat) : Ctx := { c.setRidx i with groupFmt := none }

/-- The elements in order, then `fin`. A wait re-executes from RIDX; a fault or a migration leaves RIDX at its element (R33, R237). -/
def State.eachThen (s : State) (size : Nat) (f : State → Nat → Elt) (fin : State → State) : List Nat → State
  | [] => fin (s.mapMe fun c => c.flushPart)
  | i :: is =>
    match f (s.enterElem size i) i with
    | .ok s => (s.partFlags 0).eachThen size f fin is
    | .stop s => s
    | .trap s t => (s.mapMe fun c => c.stopsAt i).trap { t with elem := true }
    | .leave s d => (s.mapMe fun c => c.stopsAt i).migrateTo d 0
/-- The elements of an element-wise memory instruction (R229). -/
def State.eachElem (s : State) (size : Nat) (f : State → Nat → Elt) (l : List Nat) : State := s.eachThen size f State.doneElems l
/-- Elements of an element group under SPAN (R39). -/
def Ctx.groupElems (c : Ctx) : Nat := 512 / c.et.ew

/-- What a look at an element leads to when it cannot be performed now. -/
def State.refuseElem (s : State) : Look → Elt
  | .trap t => .trap s t
  | .migrate d => .leave s d
  | l => .stop (s.refuse l)

/-- DATA_LOST of an element that has read lost data, and whether it traps (R4, R230, R408). -/
def State.noteLostElem (s : State) (bs : List (Option Byte)) : State × Bool :=
  if anyLost bs then ((s.partFlags flagDL).count s.me.die 8 0 16 1, s.dltrap s.me) else (s, false)

/-- Loading `n` bytes for an element. -/
def State.loadElem (s : State) (ea : Word) (n : Nat) (f : State → Nat → Elt) : Elt :=
  match s.look .r 2 ea n with
  | .ok p =>
    match s.loadBytes p n with
    | .need l => .stop (s.askLine p l)
    | .data bs =>
      let s := s.noteLoad p bs
      let (s, traps) := s.noteLostElem bs
      if traps then .trap s (.of cDATA_LOST_TRAP (ea + word (firstLost bs))) else f s (numOf bs)
  | l => s.refuseElem l

/-- Storing bytes of an element. -/
def State.storeElem (s : State) (ea : Word) (bs : List Byte) : Elt :=
  match s.look .w 2 ea bs.length with
  | .ok p => if s.storeReady p bs.length then .ok (((s.markAccess p true).noteMig p).putBytes p bs) else .stop s
  | l => s.refuseElem l

/-- A half byte into the shared cache or a device register (R238). -/
def State.putHalf (s : State) (p : Place) (hi : Bool) (x : BitVec 4) : State :=
  let c := s.me
  if isDevice p.loc then s.putBytes p [mergeHalf (s.devByte p.loc) hi x]
  else
    let s := (s.noteDue p).enterHalf c.die p.loc hi x (.slot c.die c.slot) (c.chunk.map fun _ => c.strand) p.dev
    match c.chunk with
    | some k => s.announce c k p.loc 1
    | none => s

/-- A half byte stored (R238): merged at the coherence point. A chunk that versions it merges it with the byte as it reads it, and the
weir writes the whole byte (R315). -/
def State.storeHalf (s : State) (ea : Word) (hi : Bool) (x : Nat) : Elt :=
  match s.look .w 2 ea 1 with
  | .ok p =>
    if isDevice p.loc || !s.me.versioned then
      (if s.storeReady p 1 then .ok (((s.markAccess p true).noteMig p).putHalf p hi (BitVec.ofNat 4 x)) else .stop s)
    else
      match s.loadBytes p 1 with
      | .need l => .stop (s.askLine p l)
      | .data bs =>
        (s.noteSpec p.loc 1).storeElem ea
          [BitVec.ofNat 8 (putBits (numOf bs) (if hi then 4 else 0) 4 x)]
  | l => s.refuseElem l

/-- How an access to a bank places and converts its elements: bits of a position, bits moved, and the
conversion, if any, with the bank's type (R74, R75, R238). -/
structure VMode where
  unit : Nat
  width : Nat
  conv : Option ETy
  deriving DecidableEq, Repr

/-- Does a bank count in elements of the access's own type (R74)? -/
def rawBank (bank : Option (ETy × Nat)) (t : ETy) : Bool :=
  match bank with
  | none => true
  | some (f, _) => t.isDxb && f != t

/-- R75. A stride counts bytes, or half-bytes, where the bank is raw. (DEDUCED, log 31) -/
def vmode (bank : Option (ETy × Nat)) (t : ETy) (load strided : Bool) : VMode :=
  match bank with
  | none => ⟨if strided then min t.ew 8 else t.ew, t.ew, none⟩
  | some (f, _) =>
    if t.isDxb && f != t then ⟨if strided then min t.ew 8 else t.ew, t.ew, none⟩
    else if f = t ∨ (f.isDxb ∧ !load) then ⟨f.ew, t.ew, none⟩
    else ⟨f.ew, f.ew, some f⟩

/-- Bytes to which a base is aligned. -/
def baseAlign (bank : Option (ETy × Nat)) (t : ETy) : Nat :=
  match bank with
  | none => t.bytes
  | some (f, _) => if rawBank bank t then t.bytes else f.bytes

/-- The byte address of a bit position, modulo 2^64: of a position at an odd half-byte, that of its byte. (DESIGN CHOICE, log 94) -/
def bitAddr (bit : Int) : Word := BitVec.ofInt 64 (bit / 8)

/-- Address of the exponents of a bank element at a bit position (R74). (DEDUCED, log 31) -/
def expAddr (base : Word) (ep : Nat) (w : Nat) (bit : Int) : Word :=
  let bank := base - word (base.toNat % 2 ^ 18)
  let e := (bit - 8 * (bank.toNat : Int)) / (w : Int)
  bank + word ep + BitVec.ofInt 64 (2 * (e / 32))

/-- One element loaded and converted: its bits in the type of the register, with flags. -/
def State.vloadAt (s : State) (base : Word) (bank : Option (ETy × Nat)) (m : VMode) (bit : Int) (f : State → FRes → Elt) : Elt :=
  let t := s.me.et
  s.loadElem (bitAddr bit) (max 1 (m.width / 8)) fun s raw =>
    let x := if m.width = 4 then raw / 2 ^ ((bit % 8).toNat / 4 * 4) % 16 else raw
    match m.conv with
    | none => f s (x, 0)
    | some b =>
      if b.isDxb then
        s.loadElem (expAddr base ((bank.map Prod.snd).getD 0) m.width bit) 2 fun s e =>
          f s (fvTo t 0 ((dxOf b).decode x (e % 256) (e / 256)))
      else f s (convert b t 0 x)

/-- One element converted and stored, with its flags. A raw store of whole bytes at an odd half-byte of a DXB4 bank starts at the byte
that holds that half. (DESIGN CHOICE, log 94) (DEDUCED, log 33) -/
def State.vstoreAt (s : State) (m : VMode) (bit : Int) (x : Nat) : Elt :=
  let r : FRes := match m.conv with
    | none => (x, 0)
    | some b => convert s.me.et b 0 x
  let e := if m.width = 4 then s.storeHalf (bitAddr bit) (bit % 8 ≥ 4) r.1 else s.storeElem (bitAddr bit) (bytesOf (m.width / 8) r.1)
  match e with
  | .ok s => .ok (s.partFlags r.2)
  | e => e

/-- Forms of vector addresses. -/
inductive VForm where
  | unit
  | strided (b : SReg)
  | indexed (b : VReg)
  deriving DecidableEq, Repr

def VForm.regs : VForm → List VReg
  | .indexed b => [b]
  | _ => []
def VForm.isStrided : VForm → Bool
  | .strided _ => true
  | _ => false

/-- Position of element `i`, in units. -/
def Ctx.position (c : Ctx) (f : VForm) (i : Nat) : Int :=
  match f with
  | .unit => i
  | .strided b => (i : Int) * (c.getS b).toInt
  | .indexed b => (c.elem b i : Nat)

/-- R237: alignment of base and stride, then the elements; each access decides under the BFMT that stands (R77), and the alignment is
that of the format that stands before any wait. (DEDUCED, log 32) (DESIGN CHOICE, log 94) -/
def State.vmem (s : State) (d : VReg) (a : SReg) (form : VForm) (m : MReg) (f : State → Word → Nat → Elt) : Res :=
  let base := s.getS a
  .next (s.span (d :: form.regs) anyType fun s =>
    let t := s.me.et
    let bank := s.bankFmt base
    let bad : Option Word := match form with
      | .strided b => if rawBank bank t && (s.getS b).toNat % t.bytes != 0 then some (s.getS b) else none
      | _ => none
    if base.toNat % baseAlign bank t ≠ 0 then s.trap (.of cMISALIGN base)
    else
      match bad with
      | some x => s.trap (.of cMISALIGN x)
      | none => s.eachElem s.me.groupElems (fun s i => f s base i) (s.me.activeFrom m s.me.ridx))

/-- The format of the bank that an address names, as the element group in hand found it (R77). -/
def State.groupBank (s : State) (base : Word) : State × Option (ETy × Nat) :=
  if s.me.part.isSome then (s, s.me.groupFmt)
  else
    let f := s.bankFmt base
    (s.mapMe fun c => { c with groupFmt := f }, f)

/-- A load of an element; `oi` forgets the lines that earlier elements brought, so that each element is
satisfied after the one before it (R240). (DEDUCED, log 33) -/
def State.vloadElt (s : State) (d : VReg) (form : VForm) (oi : Bool) (base : Word) (i : Nat) : Elt :=
  let (s, bank) := s.groupBank base
  let m := vmode bank s.me.et true form.isStrided
  let bit := 8 * (base.toNat : Int) + s.me.position form i * m.unit
  s.vloadAt base bank m bit fun s r =>
    let s := (s.mapMe fun c => c.putElems d.val c.et.ew [(i, r.1)]).partFlags r.2
    .ok (if oi then s.mapMe fun c => { c with lines := [] } else s)

/-- Ordered stores (R240) wait until earlier ones are performed at home; those that a chunk versions wait at its weir (R232). (DESIGN CHOICE, log 98) -/
def State.orderWaits (s : State) : Bool := !s.me.versioned && s.me.perfPend != 0
/-- The sectors that an ordered store of a chunk has put into its commit list. (DESIGN CHOICE, log 98) -/
def State.noteOrdered (s : State) (va : Word) (n : Nat) : State :=
  if !s.me.versioned then s
  else match s.placeOf s.me .w 2 va with
    | .ok p => s.mapMe fun c => { c with chunk := c.chunk.map fun k => { k with ordered := natAddAll (sectorsOf p.loc n) k.ordered } }
    | .error _ => s

/-- A store of an element. -/
def State.vstoreElt (s : State) (d : VReg) (form : VForm) (oi : Bool) (base : Word) (i : Nat) : Elt :=
  if oi && s.orderWaits then .stop s
  else
    let (s, bank) := s.groupBank base
    let m := vmode bank s.me.et false form.isStrided
    let bit := 8 * (base.toNat : Int) + s.me.position form i * m.unit
    (if oi then s.noteOrdered (bitAddr bit) (max 1 (m.width / 8)) else s).vstoreAt m bit (s.me.elem d i)

def State.vload (s : State) (d : VReg) (a : SReg) (form : VForm) (m : MReg) (oi : Bool) : Res :=
  s.vmem d a form m fun s base i => s.vloadElt d form oi base i
def State.vstore (s : State) (d : VReg) (a : SReg) (form : VForm) (m : MReg) (oi : Bool) : Res :=
  s.vmem d a form m fun s base i => s.vstoreElt d form oi base i

/-- R237. -/
def execVld (d : VReg) (a : SReg) (m : MReg) (s : State) : Res := s.vload d a .unit m false
/-- R237. -/
def execVlds (d : VReg) (a b : SReg) (m : MReg) (s : State) : Res := s.vload d a (.strided b) m false
/-- R237. -/
def execVldx (d : VReg) (a : SReg) (b : VReg) (m : MReg) (s : State) : Res := s.vload d a (.indexed b) m false
/-- R240. -/
def execVldxOi (d : VReg) (a : SReg) (b : VReg) (m : MReg) (s : State) : Res := s.vload d a (.indexed b) m true
/-- R237. -/
def execVst (d : VReg) (a : SReg) (m : MReg) (s : State) : Res := s.vstore d a .unit m false
/-- R237. -/
def execVsts (d : VReg) (a b : SReg) (m : MReg) (s : State) : Res := s.vstore d a (.strided b) m false
/-- R237. -/
def execVstx (d : VReg) (a : SReg) (b : VReg) (m : MReg) (s : State) : Res := s.vstore d a (.indexed b) m false
/-- R240. -/
def execVstxOi (d : VReg) (a : SReg) (b : VReg) (m : MReg) (s : State) : Res := s.vstore d a (.indexed b) m true

/-- Active elements below `i`. -/
def Ctx.activeBelow (c : Ctx) (m : MReg) (i : Nat) : Nat := ((upFrom 0 (min i c.vl)).filter fun j => c.active m j).length

/-- R241: the element at its place among the active ones. -/
def State.appendElt (s : State) (d : VReg) (m : MReg) (base : Word) (i : Nat) : Elt :=
  let (s, bank) := s.groupBank base
  let v := vmode bank s.me.et false false
  s.vstoreAt v (8 * (base.toNat : Int) + (s.me.activeBelow m i * v.unit : Nat)) (s.me.elem d i)

/-- R241: the pointer is written when the instruction completes, that is when no element stopped it; with RIDX at VL or above only RIDX
is cleared (R229). (DEDUCED, log 32) (DESIGN CHOICE, log 94) -/
def execVappend (d : VReg) (a : SReg) (m : MReg) (s : State) : Res :=
  let base := s.getS a
  .next (s.span [d] anyType fun s =>
    let v := vmode (s.bankFmt base) s.me.et false false
    if base.toNat % (max 1 (v.unit / 8)) ≠ 0 then s.trap (.of cMISALIGN base)
    else if s.me.vl ≤ s.me.ridx then s.doneElems
    else
      let n := (s.me.activeBelow m s.me.vl * v.unit + 7) / 8
      s.eachThen s.me.groupElems (fun s i => s.appendElt d m base i) (fun s => (s.setS a (base + word n)).doneElems) (s.me.activeFrom m s.me.ridx))

end Sys2Proof.Machine
end

