-- ==== Sys2Proof/Machine/Matrix.lean ====
section
/-! DEFINITION. Accumulators and matrix instructions (R263 to R279, R78 to R80). -/

namespace Sys2Proof

/-- Columns of a TYPE, and the bits of an element. -/
def AccTy.cols : AccTy → Nat
  | .f32 | .i32 => 64
  | .f64 => 32
  | .x => 8
def AccTy.width : AccTy → Nat
  | .f32 | .i32 => 32
  | .f64 => 64
  | .x => 128
/-- The float format of a TYPE 0 or 2 accumulator. -/
def AccTy.ff (t : AccTy) : Machine.FF := if t = .f64 then Machine.ff64 else Machine.ff32

end Sys2Proof

namespace Sys2Proof.Machine

/-! ### Row images (R263) -/

def rowElem (t : AccTy) (r : Nat) (j : Nat) : Nat := r / 2 ^ (t.width * j) % 2 ^ t.width
/-- The status word's three bits of column `j` (R79): 2 NEGINF, 1 POSINF, 0 NAN. -/
def rowStatus (r j : Nat) : Nat := r / 2 ^ (1024 + 128 * j) % 8
/-- The bits a TYPE 3 row keeps: N and three status bits per column. -/
def keepX (r : Nat) : Nat :=
  r % 2 ^ 1024 + ((upFrom 0 8).map fun j => rowStatus r j * 2 ^ (1024 + 128 * j)).sum
def keepRow (t : AccTy) (r : Nat) : Nat := if t = .x then keepX r else r
/-- A row image from its elements' new values at columns 0 and up; the other bits stay. -/
def putRow (t : AccTy) : Nat → Nat → List Nat → Nat
  | r, _, [] => r
  | r, j, x :: xs => putRow t (putBits r (t.width * j) t.width x) (j + 1) xs

def Acc.row (a : Acc) (i : Nat) : Nat := a.rows[Fin.ofNat 64 i].toNat
def Acc.setRow (a : Acc) (i x : Nat) : Acc := { a with rows := a.rows.set (Fin.ofNat 64 i) (BitVec.ofNat 2048 x) }

/-! ### Exact products and sums (R78) -/

/-- An exact product; NV for a signalling NaN or 0 × ∞. (DEDUCED, log 20) -/
def mulExact (x y : FV) : FV × BitVec 6 :=
  match x, y with
  | .nan a, y => (.nan false, if a || y.snan then fNV else 0)
  | x, .nan b => (.nan false, if b || x.snan then fNV else 0)
  | .inf a, .inf b => (.inf (a != b), 0)
  | .inf a, .fin b m _ => if m = 0 then (.nan false, fNV) else (.inf (a != b), 0)
  | .fin a m _, .inf b => if m = 0 then (.nan false, fNV) else (.inf (a != b), 0)
  | .fin a m e, .fin b n k => (.fin (a != b) (m * n) (e + k), 0)

/-- Exact sum of finite values as a signed number at the least exponent, and whether every term is a zero of
one sign. -/
def sumFinite : List FV → Int × Int → Int × Int
  | [], acc => acc
  | .fin n m e :: l, acc => sumFinite l (if m = 0 then acc else if acc.1 = 0 then (signedOf n m, e) else
      let k := if e ≤ acc.2 then e else acc.2
      (acc.1 * 2 ^ (acc.2 - k).toNat + signedOf n m * 2 ^ (e - k).toNat, k))
  | _ :: l, acc => sumFinite l acc

/-- The exact total of some values (R54 for a zero, R56 for infinities and NaN). (DEDUCED, log 108) -/
def sumExact (l : List FV) : FV × BitVec 6 :=
  if l.any FV.isNan then (.nan false, if l.any FV.snan then fNV else 0)
  else
    let infs := l.filter fun x => match x with | .inf _ => true | _ => false
    if infs.isEmpty then
      let (t, e) := sumFinite l (0, 0)
      if t = 0 then
        let zero := l.all fun x => match x with | .fin _ 0 _ => true | _ => false
        (.fin (zero && l.all FV.signBit) 0 0, 0)
      else (.fin (decide (t < 0)) t.natAbs e, 0)
    else if infs.all FV.signBit then (.inf true, 0)
    else if infs.any FV.signBit then (.nan false, fNV)
    else (.inf false, 0)

/-! ### Reading operands -/

/-- What reading a row gives. -/
inductive Row where
  | ok (s : State) (bs : List (Option Byte))
  | trap (s : State) (t : Trap)
  | need (p : Place) (line : Nat)
  | wait (l : Look)

/-- Bytes read piece by piece, lowest address first; lost data sets DATA_LOST, and traps where enabled. -/
def State.readPieces (s : State) : List (Nat × List Byte) → List (Option Byte) → Row
  | [], acc => .ok s acc
  | (va, z) :: ps, acc =>
    match s.look .r 2 (word va) z.length with
    | .ok p =>
      match s.loadBytes p z.length with
      | .need l => .need p l
      | .data bs =>
        let s := s.noteLoad p bs
        let (s, traps) := s.noteLost bs
        if traps then .trap s (.of cDATA_LOST_TRAP (word (va + firstLost bs))) else s.readPieces ps (acc ++ bs)
    | .trap t => .trap s t
    | l => .wait l
def State.readRow (s : State) (va : Word) (n : Nat) : Row := s.readPieces (pieces va.toNat (List.replicate n 0)) []

/-- Decoded operand elements, or why not. -/
inductive Vals where
  | ok (s : State) (v : List FV)
  | trap (s : State) (t : Trap)
  | need (p : Place) (line : Nat)
  | wait (l : Look)

/-- R270: a DXB operand's byte lies in a bank of its format; answers the offset of the exponents. -/
def State.dxBank (s : State) (t : ETy) (va : Word) : Option Nat :=
  match s.bankFmt va with
  | some (f, ep) => if f = t then some ep else none
  | none => none

/-- The trap of a DXB row that does not lie wholly in banks of its format, at its lowest such byte. (DEDUCED, log 36) -/
def State.dxFault (s : State) (t : ETy) (va : Word) (n : Nat) : Option Trap :=
  let bad (a : Word) : Option Trap :=
    match s.dxBank t a with
    | some _ => none
    | none =>
      if a.toNat / 2 ^ 54 = 2 then
        match s.placeOf s.me .r 1 a with
        | .error f => some (.of f a)
        | .ok _ => some (.of cACCESS a)
      else some (.of cACCESS a)
  match bad va with
  | some x => some x
  | none =>
    let next := word ((va.toNat / 2 ^ 18 + 1) * 2 ^ 18)
    if next.toNat < va.toNat + n then bad next else none

/-- The elements of a row of raw bytes. -/
def rawVals (t : ETy) (n : Nat) (bs : List (Option Byte)) : List FV :=
  let x := numOf bs
  (upFrom 0 n).map fun k =>
    let e := x / 2 ^ (t.ew * k) % 2 ^ t.ew
    if t.isFloat then t.ff.dec e
    else
      let v := sread 8 e
      .fin (decide (v < 0)) v.natAbs 0

/-- The blocks of a DXB row: exponents read one block after another. -/
def State.dxBlocks (s : State) (t : ETy) (va : Word) (n x : Nat) : Nat → Nat → List FV → Vals
  | 0, _, acc => .ok s acc
  | fuel + 1, b, acc =>
    if n ≤ 32 * b then .ok s acc
    else
      let a := va + word (32 * b * t.ew / 8)
      let bank := a - word (a.toNat % 2 ^ 18)
      let e := a.toNat % 2 ^ 18 * 8 / t.ew
      match s.readRow (bank + word ((s.dxBank t a).getD 0) + word (2 * (e / 32))) 2 with
      | .ok s es =>
        let w := numOf es
        let vs := (upFrom (32 * b) (min 32 (n - 32 * b))).map fun k => (dxOf t).decode (x / 2 ^ (t.ew * k) % 2 ^ t.ew) (w % 256) (w / 256)
        s.dxBlocks t va n x fuel (b + 1) (acc ++ vs)
      | .trap s t => .trap s t
      | .need p l => .need p l
      | .wait l => .wait l

/-- R270: `n` operand elements from an address. -/
def State.operandRow (s : State) (t : ETy) (va : Word) (n : Nat) : Vals :=
  let len := (n * t.ew + 7) / 8
  let fault := if t.isDxb then s.dxFault t va len else none
  match fault with
  | some f => .trap s f
  | none =>
    match s.readRow va len with
    | .ok s bs => if t.isDxb then s.dxBlocks t va n (numOf bs) 9 0 [] else .ok s (rawVals t n bs)
    | .trap s t => .trap s t
    | .need p l => .need p l
    | .wait l => .wait l

/-- The rows of the B tile. -/
inductive Tile where
  | ok (s : State) (b : List (List FV))
  | trap (s : State) (t : Trap)
  | need (p : Place) (line : Nat)
  | wait (l : Look)

def State.readTile (s : State) (t : ETy) (base stride : Word) (n : Nat) : Nat → Nat → List (List FV) → Tile
  | 0, _, acc => .ok s acc
  | rows + 1, k, acc =>
    match s.operandRow t (base + word k * stride) n with
    | .ok s v => s.readTile t base stride n rows (k + 1) (acc ++ [v])
    | .trap s t => .trap s t
    | .need p l => .need p l
    | .wait l => .wait l

/-! ### Accumulating (R78, R79, R271) -/

def isZero : FV → Bool
  | .fin _ 0 _ => true
  | _ => false

/-- The products of a row and a column, those of skipped positions left out, and their flags. -/
def products (skipz : Bool) (a b : List FV) : List FV × BitVec 6 :=
  let ps := ((a.zip b).filter fun p => !(skipz && isZero p.1)).map fun p => mulExact p.1 p.2
  (ps.map Prod.fst, orAll (ps.map Prod.snd))

def fvInteger : FV → Int
  | .fin n m e => signedOf n (m * 2 ^ e.toNat)
  | _ => 0

/-- R79: floor(t · 2^F), and whether the floor dropped something. -/
def floorAt (f : Nat) : FV → Int × Bool
  | .fin n m e =>
    let k := e + f
    if 0 ≤ k then (signedOf n (m * 2 ^ k.toNat), false)
    else (signedOf n m / ((2 ^ (-k).toNat : Nat) : Int), m % 2 ^ (-k).toNat != 0)
  | _ => (0, false)
def classBits : FV → Nat
  | .nan _ => 1
  | .inf neg => if neg then 4 else 2
  | .fin _ _ _ => 0

/-- One element of a row: the new N or value with the status bits to OR, and the flags. (DEDUCED, log 108) -/
def accumulate (ty : AccTy) (f old : Nat) (ps : List FV) (fl : BitVec 6) : Nat × Nat × BitVec 6 :=
  match ty with
  | .i32 => (iwrap 32 ((old : Int) + (ps.map fvInteger).sum), 0, 0)
  | .x =>
    let qs := ps.map (floorAt f)
    (iwrap 128 ((old : Int) + (qs.map Prod.fst).sum), ps.foldl (fun m p => m ||| classBits p) 0,
      fl ||| (if qs.any Prod.snd then fNX else 0))
  | t =>
    let (v, f1) := sumExact (t.ff.dec old :: ps)
    let r := t.ff.ofV 0 v
    (r.1, 0, fl ||| f1 ||| r.2)

/-- One accumulator row (R271): columns from `j`, given the columns of B. -/
def rowStep (ty : AccTy) (f : Nat) (skipz : Bool) (a : List FV) : Nat → Nat → BitVec 6 → List (List FV) → Nat × BitVec 6
  | r, _, fl, [] => (r, fl)
  | r, j, fl, col :: cols =>
    let (ps, f1) := products skipz a col
    let (x, st, f2) := accumulate ty f (rowElem ty r j) ps f1
    let r := putBits r (ty.width * j) ty.width x
    let r := if ty = .x then putBits r (1024 + 128 * j) 3 (rowStatus r j ||| st) else r
    rowStep ty f skipz a r (j + 1) (fl ||| f2) cols

/-- Rows read, added into an accumulator. -/
def addRows (skipz : Bool) (cols : List (List FV)) : Acc → BitVec 6 → List (Nat × List FV) → Acc × BitVec 6
  | acc, fl, [] => (acc, fl)
  | acc, fl, (i, a) :: rows =>
    let (r, f) := rowStep acc.ty acc.f.toNat skipz a (acc.row i) 0 0 cols
    addRows skipz cols (acc.setRow i r) (fl ||| f) rows

/-- The columns of the B tile. -/
def columns (n : Nat) (b : List (List FV)) : List (List FV) :=
  (upFrom 0 n).map fun j => b.map fun row => (row[j]?).getD (.fin false 0 0)

/-! ### mma -/

/-- The checks that every matrix instruction shares (R265), an `mma` in flight retired (R266). (DEDUCED, log 34) -/
def State.matrix (s : State) (rows : Bool) (f : State → State) : State :=
  if s.me.spanIF || (rows && decide (64 < s.me.vl)) then s.trap s.me.illformed else f (s.mapMe fun c => c.retireMma)

/-- R269, R264: does a type of A go with an accumulator? -/
def accTakes (t : ETy) (a : Acc) (n : Nat) (exw : Bool) : Bool :=
  (match t, a.ty with
  | .i8, .i32 => true
  | .f64, .f64 => true
  | .f32, .f32 => true
  | .f16, .f32 => true
  | .bf16, .f32 => true
  | .dxb8, .f32 => true
  | .dxb4, .f32 => true
  | .i8, .x => false
  | _, .x => exw && decide (n ≤ 8)
  | _, _ => false)

/-- R111, R270: what the bases and strides of `mma` are multiples of. -/
def matAlign (t : ETy) : Nat :=
  match t with
  | .dxb8 => 32
  | .dxb4 => 16
  | t => t.bytes

/-- Rows added so far leave LOCK before a trap or a stop (R272). -/
def State.drainRows (s : State) (d : AccReg) (skipz : Bool) (cols : List (List FV)) (rows : List (Nat × List FV)) : State :=
  if rows.isEmpty then s
  else
    let (acc, fl) := addRows skipz cols s.me.img.acc[d] 0 rows
    s.mapMe fun c => (c.setAcc d acc).orFlags fl

/-- The operands of an `mma` from its record (R111). -/
structure MatRec where
  t : ETy
  k : Nat
  n : Nat
  skipz : Bool
  astride : Word
  bstride : Word
  deriving DecidableEq, Repr
def matRec (r : Word) : MatRec :=
  ⟨ETy.ofCode (bits r 60 4), bits r 47 9, bits r 40 7, bitAt r 39, word (bits r 20 18), word (bits r 2 18)⟩

/-- R266, R271: the A rows; the compute phase begins with LOCK set when the last is read. A wait leaves nothing
added, and the instruction re-executes. (DEDUCED, log 35) -/
def State.mmaRows (s0 : State) (d : AccReg) (q : MatRec) (sa : Word) (cols : List (List FV)) :
    State → List Nat → List (Nat × List FV) → State
  | s, [], rows =>
    let (acc, fl) := addRows q.skipz cols s.me.img.acc[d] 0 rows
    (s.mapMe fun c =>
      { c.setAcc d { c.img.acc[d] with lock := true } with mmaAcc := some (d, acc, fl) }).done4
  | s, i :: is, rows =>
    match s.operandRow q.t (sa + word i * q.astride) q.k with
    | .ok s v => State.mmaRows s0 d q sa cols s is (rows ++ [(i, v)])
    | .trap s t => ((s.drainRows d q.skipz cols rows).mapMe fun c => c.setRidx i).trap { t with elem := true }
    | .need p l => s0.askLine p l
    | .wait (.migrate x) => ((s.drainRows d q.skipz cols rows).mapMe fun c => c.setRidx i).migrateTo x 0
    | .wait l => s0.refuse l

/-- R271 once the checks of issue have passed. -/
def State.mmaRun (s : State) (d : AccReg) (q : MatRec) (sa sb : Word) : State :=
  if s.me.vl ≤ s.me.ridx then s.doneElems
  else
    match s.readTile q.t sb q.bstride q.n q.k 0 [] with
    | .ok s1 b => State.mmaRows s d q sa (columns q.n b) s1 (upFrom s.me.ridx (s.me.vl - s.me.ridx)) []
    | .trap s t => s.trap { t with elem := true }
    | .need p l => s.askLine p l
    | .wait (.migrate x) => s.migrateTo x 0
    | .wait l => s.refuse l

/-- The first of some values that is not a multiple: which of several TVAL names is the model's choice. (DESIGN CHOICE, log 93) -/
def misaligned (n : Nat) (l : List Word) : Option Word := l.find? fun x => x.toNat % n != 0

/-- R269 to R272. (DESIGN CHOICE, log 93, 107) -/
def execMma (d : AccReg) (a b : SReg) (x : OxReg) (s : State) : Res :=
  let sa := s.getS a
  let sb := s.getS b
  .next (s.matrix true fun s => s.ox x .mat fun r =>
    let q := matRec r
    let acc := s.me.img.acc[d]
    if !accTakes q.t acc q.n s.me.exw then s.trap s.me.illformed
    else if s.me.exw && q.t != .i8 && acc.ty != .x then s.trap (.of cDET_VIOLATION (s.me.iword.setWidth 64))
    else
      match misaligned (matAlign q.t) [sa, sb, q.astride, q.bstride] with
      | some v => s.trap (.of cMISALIGN v)
      | none => s.mmaRun d q sa sb)

/-- R266: the compute phase of an `mma` ends in a slot. (DEDUCED, log 34) -/
def execMmaRetirement (die : DieId) (slot : SlotNo) (acc : AccReg) (s : State) : Res :=
  .next (s.mapCtx die slot fun c => if (c.mmaAcc.map fun m => m.1) = some acc then c.retireMma else c)

/-! ### The other matrix instructions -/

/-- R274. -/
def execMzero (d : AccReg) (t : AccTy) (a : SReg) (s : State) : Res :=
  .next (s.matrix false fun s =>
    if t = .x ∧ !s.me.exw then s.trap s.me.illformed
    else
      let f := if t = .x then BitVec.ofNat 7 (s.getS a).toNat else s.me.img.acc[d].f
      (s.mapMe fun c => c.setAcc d ⟨Vector.replicate 64 0, t, false, f⟩).done4)

/-- R275: the rows of an `mld`. -/
def State.mldRow (s : State) (d : AccReg) (sa sb : Word) (i : Nat) : Elt :=
  match s.readRow (sa + word i * sb) 256 with
  | .ok s bs => .ok (s.mapMe fun c => c.setAcc d (c.img.acc[d].setRow i (keepRow c.img.acc[d].ty (numOf bs))))
  | .trap s t => .trap s t
  | .need p l => .stop (s.askLine p l)
  | .wait l => s.refuseElem l

/-- R275. -/
def execMld (d : AccReg) (a b : SReg) (t : AccTy) (s : State) : Res :=
  let sa := s.getS a
  let sb := s.getS b
  .next (s.matrix true fun s =>
    if t = .x ∧ !s.me.exw then s.trap s.me.illformed
    else
      match misaligned 16 [sa, sb] with
      | some v => s.trap (.of cMISALIGN v)
      | none =>
        (s.mapMe fun c => c.setAcc d { c.img.acc[d] with ty := t }).eachElem 1 (fun s i => s.mldRow d sa sb i)
          (upFrom s.me.ridx (s.me.vl - s.me.ridx)))

/-- R276, R80: the value of an element times the tensor scale. -/
def scaledElem (a : Acc) (i j : Nat) (ts : FV) : FV × BitVec 6 :=
  let r := a.row i
  let x := rowElem a.ty r j
  match a.ty with
  | .i32 =>
    let v := sread 32 x
    mulExact (.fin (decide (v < 0)) v.natAbs 0) ts
  | .x =>
    let st := rowStatus r j
    if st % 2 = 1 ∨ st / 2 = 3 then (.nan false, fNV)
    else if st / 2 = 1 then mulExact (.inf false) ts
    else if st / 4 = 1 then mulExact (.inf true) ts
    else
      let v := sread 128 x
      mulExact (.fin (decide (v < 0)) v.natAbs (-(a.f.toNat : Int))) ts
  | t => mulExact (t.ff.dec x) ts

/-- A row's elements as they are stored, with the flags of the row. -/
def storedRow (a : Acc) (i n : Nat) (t : ETy) (ts : FV) : List Nat × BitVec 6 :=
  let rs := (upFrom 0 n).map fun j =>
    let (v, f1) := scaledElem a i j ts
    let r := fvTo t 0 v
    (r.1, f1 ||| r.2)
  (rs.map Prod.fst, orAll (rs.map Prod.snd))

/-- Every byte of a row checked before any is written. -/
def State.checkRow (s : State) : List (Nat × List Byte) → Option Look
  | [] => none
  | p :: ps =>
    match s.look .w 2 (word p.1) p.2.length with
    | .ok _ => s.checkRow ps
    | l => some l

/-- The elements of a row stored in column order; where one waits, those before it stand (R267). (DEDUCED, log 37) -/
def State.storeRow (s : State) (va : Word) (size : Nat) : Nat → List Nat → Elt
  | _, [] => .ok s
  | j, x :: xs =>
    match s.storeElem (va + word (j * size)) (bytesOf size x) with
    | .ok s => ((s.partFlags 0).mapMe fun c => { c with cols := j + 1 }).storeRow va size (j + 1) xs
    | e => e

/-- Columns of the row in hand that an `mst` has stored. -/
def Ctx.colsDone (c : Ctx) : Nat := if c.part.isSome then c.cols else 0
/-- R276: one row of an `mst`, from the column at which it has waited. -/
def State.mstRow (s : State) (d : AccReg) (sa stride : Word) (n : Nat) (t : ETy) (ts : FV) (i : Nat) : Elt :=
  let va := sa + word i * stride
  let from_ := s.me.colsDone
  match (if from_ = 0 then s.checkRow (pieces va.toNat (List.replicate (n * t.bytes) 0)) else none) with
  | some l => s.refuseElem l
  | none =>
    let (xs, fl) := storedRow s.me.img.acc[d] i n t ts
    match s.storeRow va t.bytes from_ (xs.drop from_) with
    | .ok s => .ok ((s.partFlags fl).mapMe fun c => { c with cols := 0 })
    | e => e

/-- R276. (DESIGN CHOICE, log 93) -/
def execMst (d : AccReg) (a : SReg) (x : OxReg) (s : State) : Res :=
  let sa := s.getS a
  .next (s.matrix true fun s => s.ox x .st fun r =>
    let n := bits r 36 7
    let t := ETy.ofCode (bits r 32 4)
    let stride := word (bits r 44 18)
    if s.me.img.acc[d].ty.cols < n then s.trap s.me.illformed
    else
      match misaligned t.bytes [sa, stride] with
      | some v => s.trap (.of cMISALIGN v)
      | none => s.eachElem 1 (fun s i => s.mstRow d sa stride n t (ff32.dec (bits r 0 32)) i) (upFrom s.me.ridx (s.me.vl - s.me.ridx)))

/-- R277: one row of one accumulator added to another's. -/
def maccRow (t : AccTy) (x y : Nat) : Nat → Nat → BitVec 6 → Nat × BitVec 6
  | 0, r, fl => (r, fl)
  | j + 1, r, fl =>
    let u := rowElem t x j
    let v := rowElem t y j
    let q : FRes := match t with
      | .f32 => ff32.add 0 u v
      | .f64 => ff64.add 0 u v
      | _ => ((u + v) % 2 ^ t.width, 0)
    let r := putBits r (t.width * j) t.width q.1
    let r := if t = .x then putBits r (1024 + 128 * j) 3 (rowStatus x j ||| rowStatus y j) else r
    maccRow t x y j r (fl ||| q.2)
def maccRows (a b : Acc) : Acc → BitVec 6 → List Nat → Acc × BitVec 6
  | r, fl, [] => (r, fl)
  | r, fl, i :: is =>
    let (x, f) := maccRow a.ty (a.row i) (b.row i) a.ty.cols (a.row i) 0
    maccRows a b (r.setRow i x) (fl ||| f) is

/-- R277. -/
def execMacc (d a : AccReg) (s : State) : Res :=
  .next (s.matrix true fun s =>
    let x := s.me.img.acc[d]
    let y := s.me.img.acc[a]
    if x.ty ≠ y.ty ∨ (x.ty = .x ∧ x.f ≠ y.f) then s.trap s.me.illformed
    else
      let (r, fl) := maccRows x y x 0 (upFrom 0 s.me.vl)
      (s.mapMe fun c => (c.setAcc d r).orFlags fl).done4)

/-- R278. -/
def execMrowR (d : VReg) (a : AccReg) (b : SReg) (s : State) : Res :=
  .next (s.matrix false fun s =>
    (s.mapMe fun c => c.setV (c.img.v.set d (c.img.acc[a].rows[Fin.ofNat 64 (s.getS b).toNat]))).done4)
/-- R278. -/
def execMrowW (d : AccReg) (a : VReg) (b : SReg) (s : State) : Res :=
  .next (s.matrix false fun s =>
    (s.mapMe fun c => c.setAcc d (c.img.acc[d].setRow (s.getS b).toNat (keepRow c.img.acc[d].ty c.img.v[a].toNat))).done4)

end Sys2Proof.Machine
end

