-- ==== Sys2Proof/Machine/Pod.lean ====
section
/-! DEFINITION. Pod access (R223 to R225, R309) and the UALink ports (R443 to R446). -/

namespace Sys2Proof.Machine


/-! ### A request served by this module (R446, R309) -/

/-- The atomics that a target performs (R443). -/
def podAmo : PodAtomic → Option AmoOp
  | .add => some .add
  | .and => some .and
  | .or => some .or
  | .xor => some .xor
  | .swap => some .swap
  | .min => some .min
  | .max => some .max
  | .minn => some .minn
  | .maxn => some .maxn
  | .cas => none
  | .fadd => none

/-- The new value of an atomic of `n` bytes; none where it is refused. -/
def podApply (o : PodAtomic) (n old x cmp : Nat) : Option Nat :=
  if n ≠ 4 ∧ n ≠ 8 then none
  else match o with
    | .fadd => none
    | .cas => some (if old = cmp % 2 ^ (8 * n) then x % 2 ^ (8 * n) else old)
    | o => (podAmo o).map fun a => (a.apply n old x).1

def podKind : PodOp → AccessKind
  | .read => .r
  | _ => .w

/-- A request performed at its home: the bytes of the answer, or none where it is refused. A write is settled on every
die before its acknowledgement. (DEDUCED, log 46) -/
def State.podServe (s : State) (d : DieId) (addr : Word) (n : Nat) (op : PodOp) : State × Option (List Byte) :=
  let root := (s.die d).regs.podroot
  let refuse := (s.count d 0 0 6 1, (none : Option (List Byte)))
  if !bitAt root 0 || 2 ^ 55 ≤ addr.toNat || !(n == 1 || n == 2 || n == 4 || n == 8) || addr.toNat % n != 0 then refuse
  else
    match s.translate d none (podKind op) true (bits root 16 32 * 65536) addr.toNat with
    | .error _ => refuse
    | .ok p =>
      if p.dev then refuse
      else
        let bs := s.bytesAt p.loc n
        match op with
        | .read => (s.markAD d p false, some (bs.map unlost))
        | .write data =>
          if data.length ≠ n then refuse else ((s.markAD d p true).settleWrite p.loc data, some [])
        | .atomic o x cmp =>
          match podApply o n (numOf bs) x.toNat cmp.toNat with
          | none => refuse
          | some v =>
            let s := s.markAD d p true
            (if anyLost bs then s else s.settleWrite p.loc (bytesOf n v), some (bs.map unlost))

/-- R446: a request arrives at a usable port; its answer leaves by the same port. -/
def execPodRequest (r : PodReq) (s : State) : Res :=
  if !s.portUsable r.port then .next s
  else
    let (s, a) := s.podServe (portDie r.port) r.addr r.size r.op
    .next { s with wire := (match a, r.op with
      | none, _ => .podRefused r.port
      | some _, .write _ => .podAck r.port
      | some bs, _ => .podData r.port bs) :: s.wire }

/-! ### The instructions -/

/-- A pod access: its checks, then the request (R223, R225). `f` follows the sending. (DEDUCED, log 46) -/
def State.podIssue (s : State) (a b : SReg) (n : Nat) (load : Bool) (x : Word) (f : State → Nat → State) : State :=
  let sa := s.getS a
  let modl := (s.getS b).toNat
  s.checks (fun s => s.held fun s =>
    let port := s.route modl
    if s.routeHeld modl port then s
    else
      let (id, s) := s.take
      let s := s.send (.pod id s.me.die s.me.slot s.me.strand load n modl sa x port s.me.deadline)
      let own := modl = (s.myMod s.me.die).toNat
      let s := match port with
        | none => s
        | some p => if own then s else { s with wire := (if load then .podRead modl p sa n else .podWrite modl p sa n x) :: s.wire }
      f s id)
    [(sa.toNat % n != 0, .of cMISALIGN sa), (decide (1024 ≤ modl) || decide (s.podSize s.me.die ≤ modl), .of cACCESS sa)]

/-- R223, R224: waits for its reply; a refusal is ACCESS with TVAL sa. -/
def execLdPod (d a b : SReg) (z : Sz) (s : State) : Res :=
  let sa := s.getS a
  .next (match s.me.answer with
    | some (.trap code) => s.trap (.of code sa)
    | some ans => s.withValue sa ans fun s x => s.result d (sextN (8 * z.bytes) x.toNat)
    | none => s.podIssue a b z.bytes true 0 fun s id => s.mapMe fun c => { c with sent := some id })

/-- R223, R224: the low bytes of sd; completes at issue. -/
def execStPod (d a b : SReg) (z : Sz) (s : State) : Res :=
  let x := word ((s.getS d).toNat % 2 ^ (8 * z.bytes))
  .next (s.podIssue a b z.bytes false x fun s _ => s.done4)

/-! ### Replies and ports -/

/-- The end of a pod access: its load gets the datum or ACCESS; a refused store sets DATA_LOST in its strand, and
is counted. -/
def State.podEnd (s : State) (id : Nat) (die : DieId) (slot : SlotNo) (strand : Word) (load : Bool) (a : Option Word) : State :=
  if load then
    let ans : Answer := match a with | some x => .value x 0 none | none => .trap cACCESS
    s.mapCtx die slot fun c => if c.sent = some id then { c with sent := none, answer := some ans } else c
  else
    match a with
    | some _ => s
    | none =>
      (s.count die 0 0 6 1).strandLoses strand

/-- R224, R225: the answer of a pod access. One to this module itself is performed here, by the die of the port it left
by; those of one strand to one address come in program order. (DEDUCED, log 46) -/
def execPodReply (k : Nat) (data : Option Word) (s : State) : Res :=
  match s.arrive k with
  | some (.pod id die slot strand load n modl addr x port _, rest) =>
    let earlier := (s.net.take k).any fun p => match p with
      | .pod _ _ _ st _ _ m ad _ _ _ => st == strand && m == modl && ad == addr
      | _ => false
    match port with
    | none => .next s
    | some p =>
      if earlier then .next s
      else
        let s := { s with net := rest }
        if modl = (s.myMod die).toNat then
          let (s, a) := s.podServe (portDie p) addr n (if load then .read else .write (bytesOf n x.toNat))
          .next (s.podEnd id die slot strand load (a.map fun bs => word (ofBytes bs))).flushAway
        else .next (s.podEnd id die slot strand load data).flushAway
  | _ => .next s

/-- R444: a port stops being usable; with none left every group of the module aborts with LOST. -/
def execUalinkPortDown (p : Fin 8) (s : State) : Res :=
  let s := { s with ports := s.ports.set p false }
  .next (if ((upFrom 0 8).map (Fin.ofNat 8)).any fun q => s.portUsable q then s.flushAway
    else allDies.foldl (fun s d => (s.die d).groups.foldl (fun s g => s.detectAbort d g gLOST) s) s)

/-- R444: a port of a present die becomes usable. -/
def execUalinkPortUp (p : Fin 8) (s : State) : Res :=
  .next (if s.present (portDie p).val then ({ s with ports := s.ports.set p true } : State).flushAway else s)

end Sys2Proof.Machine
end

