-- ==== Sys2Proof/Machine/Queue.lean ====
section
/-! DEFINITION. Queues (R193 to R203). -/

namespace Sys2Proof.Machine

/-- A request to the QCB at sa. -/
def State.queueOp (s : State) (a : SReg) (k : AccessKind) (op : HomeOp) (before : Before) (f : State → Answer → State) : State :=
  s.viaHome (s.getS a) 64 64 k op s.tick 0 before f

/-- An enqueue of bytes; `f` takes the count. -/
def State.enqueue (s : State) (a : SReg) (bs : List Byte) (nb : Bool) (f : State → Word → State) : State :=
  s.queueOp a .rw (.put bs nb) maskRelease fun s x => match x with
    | .bytes _ n _ => f s (word n)
    | _ => f s 0

/-- A dequeue of `n` bytes, an acquire; `f` takes the bytes and the count. Lost data sets DATA_LOST and may
trap with the QCB's address (R168, R408). -/
def State.dequeue (s : State) (a : SReg) (n : Nat) (nb : Bool) (f : State → List Byte → Word → State) : State :=
  let va := s.getS a
  s.queueOp a .rw (.get n nb) noWait fun s x => match x with
    | .bytes bs n lost =>
      let s := s.acquire
      if lost then
        let s := (s.orFlags flagDL).count s.me.die 8 0 16 1
        if s.dltrap s.me then s.trap (.of cDATA_LOST_TRAP va) else f s bs (word n)
      else f s bs (word n)
    | _ => f s.acquire [] 0

/-- R196: release at mask scope, one element. -/
def execQput (a b : SReg) (s : State) : Res := .next (s.enqueue a (w64 (s.getS b)) false fun s _ => s.done4)
/-- R200: the count goes to sd. -/
def execQputNb (d a b : SReg) (s : State) : Res := .next (s.enqueue a (w64 (s.getS b)) true fun s n => s.result d n)
/-- R196: acquire, one element's first 8 bytes. -/
def execQget (d a : SReg) (s : State) : Res := .next (s.dequeue a 8 false fun s bs _ => s.result d (word (ofBytes bs)))
/-- R200: the count goes to sb; a count of 0 leaves sd unchanged. (DEDUCED, log 27) -/
def execQgetNb (d a b : SReg) (s : State) : Res :=
  .next (s.dequeue a 8 true fun s bs n => ((if n = 0 then s else s.setS d (word (ofBytes bs))).setS b n).done4)

/-- R197: bytes of a register group that VL elements take. -/
def Ctx.groupLen (c : Ctx) : Nat := (c.vl * c.et.ew + 7) / 8
def Ctx.groupBytes (c : Ctx) (r : VReg) : List Byte :=
  (upFrom 0 c.groupLen).map fun k => BitVec.ofNat 8 (elemGet c.img.v r.val 8 k)
/-- Writing the first bytes of a group; the half byte of an odd last 4-bit element is kept. -/
def Ctx.putGroup (c : Ctx) (r : VReg) (bs : List Byte) : Ctx :=
  c.putElems r.val 4 ((upFrom 0 (if c.et.ew = 4 then min c.vl (2 * bs.length) else 2 * bs.length)).map fun k =>
    (k, ((bs[k / 2]?).getD 0).toNat / 16 ^ (k % 2) % 16))

/-- R197. -/
def execQputv (d : VReg) (a : SReg) (s : State) : Res :=
  .next (s.span [d] anyType fun s => (s.enqueue a (s.me.groupBytes d) false fun s _ => s.done4))
/-- R200: the count goes to sb. -/
def execQputvNb (d : VReg) (a b : SReg) (s : State) : Res :=
  .next (s.span [d] anyType fun s => (s.enqueue a (s.me.groupBytes d) true fun s n => s.result b n))
/-- R197. -/
def execQgetv (d : VReg) (a : SReg) (s : State) : Res :=
  .next (s.span [d] anyType fun s => (s.dequeue a s.me.groupLen false fun s bs _ => (s.mapMe fun c => c.putGroup d bs).done4))
/-- R200: the count goes to sb; a count of 0 writes nothing else. -/
def execQgetvNb (d : VReg) (a b : SReg) (s : State) : Res :=
  .next (s.span [d] anyType fun s => (s.dequeue a s.me.groupLen true fun s bs n => (s.mapMe fun c => c.putGroup d bs).result b n))

/-- R201. -/
def execQstat (d a : SReg) (s : State) : Res :=
  .next (s.queueOp a .rw .qstat noWait fun s x => match x with
    | .value v _ _ => s.result d v
    | _ => s.done4)

/-- R202 steps 3 and 4: the physical base of the data array, or the fault at its base, which TVAL names. (DESIGN CHOICE, log 93) -/
def State.queueData (s : State) (qcb : Place) (base : Word) (size : Nat) : Except Trap Nat :=
  match s.translate s.me.die (some s.me.slot) .rw (s.me.level == .strand) s.me.ctl.ptroot.toNat base.toNat with
  | .error f => .error (.of f base)
  | .ok p =>
    match p.pte with
    | none => .error (.of cACCESS base)
    | some e =>
      if base.toNat / 2 ^ leafLog e.level ≠ (base.toNat + size - 1) / 2 ^ leafLog e.level then .error (.of cACCESS base)
      else if homeOf p.loc ≠ homeOf qcb.loc then .error (.of cACCESS base)
      else .ok p.loc

/-- R202: release at mask scope. -/
def execQinit (a b : SReg) (x : OxReg) (s : State) : Res :=
  let va := s.getS a
  let base := s.getS b
  .next (s.ox x .qinit fun r =>
    let es := bits r 0 3
    let cap := bits r 8 5
    if s.me.answer.isSome then s.queueOp a .rw (.qinit 0 es cap) maskRelease fun s _ => s.done4
    else if va.toNat % 64 ≠ 0 then s.trap (.of cMISALIGN va)
    else if 2 ^ 55 ≤ base.toNat ∨ base.toNat % 2 ^ (es + 3) ≠ 0 then s.trap (.of cMISALIGN base)
    else
      match s.look .rw 0 va 64 with
      | .ok p =>
        match s.queueData p base (2 ^ cap * 2 ^ (es + 3)) with
        | .error t => s.trap t
        | .ok data => s.queueOp a .rw (.qinit data es cap) maskRelease fun s _ => s.done4
      | l => s.refuse l)

end Sys2Proof.Machine
end

