-- ==== Sys2Proof/Machine/Ring.lean ====
section
/-! DEFINITION. The rill of a ring and its claimed slots (R311 to R328): each event moves one message one core on and
lets that core act on it, or lets a slot start, restart or end its chunk. -/

namespace Sys2Proof.Machine

/-! ### The chain of cores (R311, R312) -/

/-- R311: the order in which a core's output takes messages that wait there. (DEDUCED, log 52) -/
def RillMsg.rank : RillMsg → Nat
  | .squash _ => 0
  | .commit => 1
  | .store _ _ => 2
  | .liveout _ _ => 3
  | .oxw _ _ => 3
  | .claim _ _ => 4
  | .release => 4

/-- A rill message with where it is. -/
structure Rill where
  die : DieId
  ring : Nat
  origin : Nat
  hops : Nat
  strand : Word
  j : Nat
  msg : RillMsg
  deriving DecidableEq, Repr

def Packet.rill? : Packet → Option Rill
  | .rill d r o h st j m => some ⟨d, r, o, h, st, j, m⟩
  | _ => none

/-- The core a message has come to. -/
def Rill.core (m : Rill) : Nat := (m.origin + m.hops) % 8
/-- Does a message pass through its core, or was it sent there? -/
def Rill.passing (m : Rill) : Bool := decide (0 < m.hops)
/-- The messages that wait at a core with a message, with their indices in the net, in the order in which they came. -/
def State.rillsAt (s : State) (m : Rill) : List (Nat × Rill) :=
  ((upFrom 0 s.net.length).zip s.net).filterMap fun p => (p.2.rill?.filter fun e => e.die == m.die && e.ring == m.ring && e.core == m.core).map fun e => (p.1, e)
/-- A COMMIT waits at its core until the chunk after its sender has started (R327), and overtakes no STORE of its sender or of a chunk
before it, so that a chunk becomes oldest only after the stores it must not miss (R22, R320). (DEDUCED, log 52, 53) -/
def State.rillReady (s : State) (m : Rill) : Bool :=
  m.msg != .commit || (((s.regions.find? fun r => r.strand == m.strand).all fun r => decide (m.j + 1 < r.next))
    && !(s.rillsAt m).any fun e => match e.2.msg with
      | .store _ _ => e.2.strand == m.strand && decide (e.2.j ≤ m.j)
      | _ => false)
/-- R311: does a message leave its core next? Those that pass through keep the order of their origin; then the rank decides, and at
equal rank one that passes goes before a local one, an earlier before a later. (DEDUCED, log 52) -/
def State.rillLeaves (s : State) (k : Nat) (m : Rill) : Bool :=
  let here := s.rillsAt m
  let free (i : Nat) (e : Rill) : Bool :=
    s.rillReady e && !(e.passing && here.any fun q => decide (q.1 < i) && q.2.passing && q.2.origin == e.origin)
  let beats (i : Nat) (e : Rill) : Bool :=
    decide (e.msg.rank < m.msg.rank) || (e.msg.rank == m.msg.rank && if e.passing == m.passing then decide (i < k) else e.passing)
  free k m && !here.any fun q => q.1 != k && free q.1 q.2 && beats q.1 q.2

/-- A message of a kind at an index of the net, free to leave its core: it goes one core on, and `act` is what that core
does with it; after eight hops it is back at its origin and dropped. (DEDUCED, log 52) -/
def State.rillHop (s : State) (k : Nat) (mine : RillMsg → Bool) (act : Rill → State → State) : State :=
  match takeAt k s.net with
  | some (p, rest) =>
    match p.rill? with
    | none => s
    | some m =>
      if !mine m.msg || !s.rillLeaves k m then s
      else
        let m' := { m with hops := m.hops + 1 }
        let s := { s with net := if m'.hops < 8 then rest ++ [.rill m.die m.ring m.origin m'.hops m.strand m.j m.msg] else rest }
        act m' s
  | none => s

/-- The chunk of a message's region on the core it has come to, when younger than its sender. -/
def State.youngerAt (s : State) (m : Rill) : Option (Ctx × Chunk) :=
  match s.busy.find? fun c => c.die == m.die && ringOf c.slot == m.ring && coreOf c.slot == m.core && c.strand == m.strand
      && c.chunk.any fun k => m.j < k.j with
  | some c => c.chunk.map fun k => (c, k)
  | none => none

/-! ### Claiming (R325) -/

/-- What a reserved slot has of its strand. -/
def Ctx.claimFor (c : Ctx) (slot : SlotNo) : Ctx :=
  { c with slot, state := .claimed, chunk := none, wait := none, sent := none, answer := none, lines := [], ilk := [],
           perfPend := 0, colPend := Vector.replicate 16 0, rredPend := 0, rredDev := [], mmaAcc := none, stopReq := none, stopTick := none, stood := none, stepDue := false,
           latem := false, overdue := 0, part := none, granted := false, stalled := false, ending := false, deficit := 0 }

/-- The lowest-indexed free slot of a core. -/
def State.freeSlotOf (s : State) (d : DieId) (ring core : Nat) : Option SlotNo :=
  (upFrom 0 4).findSome? fun i => if s.isFree d (slotOf ring core i) then some (slotOf ring core i) else none

/-- R325: a CLAIM reaches a core. At its origin the claim is over. (DEDUCED, log 50) -/
def State.claimAt (s : State) (m : Rill) (count width : Nat) : State :=
  if m.hops = 8 then s.mapRegion m.strand fun r => { r with claimed := true }
  else if width + 1 ≤ count then s
  else
    let msg (n w : Nat) : Packet := .rill m.die m.ring m.origin m.hops m.strand m.j (.claim n w)
    let now (n w : Nat) (s : State) : State := { s with net := s.net.map fun q => if q = msg count width then msg n w else q }
    match s.freeSlotOf m.die m.ring m.core, s.busy.find? (fun c => c.strand == m.strand) with
    | some k, some c => now (count + 1) width ((s.mapRegion m.strand fun r => { r with slots := r.slots ++ [k] }).putCtx (c.claimFor k))
    | _, _ => now count 0 s

/-- R325. -/
def execRillClaim (k : Nat) (s : State) : Res :=
  .next (s.rillHop k (fun m => match m with | .claim _ _ => true | _ => false) fun m s =>
    match m.msg with
    | .claim n w => s.claimAt m n w
    | _ => s)

/-! ### Chunks start and restart (R143, R148, R326) -/

/-- Is a chunk of the region final, so that no later chunk is needed (R145)? (DEDUCED, log 53) -/
def State.finalSeen (s : State) (strand : Word) : Bool := (s.chunkCtxs strand).any fun c => c.chunk.any fun k => k.final && !k.restart

/-- R21, R326: the region's next chunk starts in its slot, once that slot is free for it. (DEDUCED, log 53) -/
def execChunkStart (d : DieId) (slot : SlotNo) (s : State) : Res :=
  match s.ctx? d slot with
  | none => .next s
  | some c =>
    match s.regions.find? fun r => r.strand == c.strand with
    | none => .next s
    | some r =>
      let due := c.state == .claimed && c.chunk.isNone && r.slots.contains slot && r.slotFor r.next == slot
        && (r.claimed || decide (r.next - r.base < r.slots.length)) && !s.finalSeen c.strand
      .next (if due then (s.mapRegion c.strand fun r => { r with next := r.next + 1 }).startChunk r d slot r.next false true 0 else s)

/-- R148, R322: a squashed chunk restarts at the head. -/
def execChunkRestart (d : DieId) (slot : SlotNo) (s : State) : Res :=
  match s.ctx? d slot with
  | none => .next s
  | some c =>
    match c.chunk, c.regionOf s with
    | some k, some r => .next (if k.restart && r.slots.contains slot then s.startChunk r d slot k.j k.oldest k.spec k.memSq else s)
    | _, _ => .next s

/-! ### Live-ins (R316 to R318) -/

/-- R317: a live-in of a chunk becomes final: a value that was read and differs squashes the chunk under cause value. One that the
chunk has sent on and that differs is sent on again. (DEDUCED, log 102) -/
def State.setLiveIn (s : State) (c : Ctx) (k : Chunk) (r : SReg) (x : Word) : State :=
  if k.rx.getLsbD r.val && k.pred.any (fun p => p.1 == r.val && p.2 != x) then s.squash c .value
  else s.mapCtx c.die c.slot fun c =>
    let stale := !k.wrote.getLsbD r.val && c.s[r] != x
    { c with s := if k.wrote.getLsbD r.val then c.s else c.s.set r x,
             chunk := some { k with fin := k.fin ||| bit32 r, sent := if stale then k.sent &&& ~~~bit32 r else k.sent } }

/-- R316, R317: a LIVEOUT of chunk j reaches chunk j + 1. A chunk that has ended sends the register on. (DEDUCED, log 102) -/
def State.liveoutAt (s : State) (m : Rill) (r : SReg) (x : Word) : State :=
  match s.youngerAt m with
  | none => s
  | some (c, k) =>
    if k.j ≠ m.j + 1 ∨ k.restart ∨ k.oldest then s
    else
      let s := s.setLiveIn c k r x
      s.sendLiveouts (s.ctx c.die c.slot)

/-- R317. -/
def execLiveout (k : Nat) (s : State) : Res :=
  .next (s.rillHop k (fun m => match m with | .liveout _ _ => true | _ => false) fun m s =>
    match m.msg with
    | .liveout r x => s.liveoutAt m r x
    | _ => s)

/-- R318: an OXW reaches a younger chunk: the value of the nearest older chunk stands. (DEDUCED, log 53) -/
def State.oxwAt (s : State) (m : Rill) (r : OxReg) (x : Ox) : State :=
  match s.youngerAt m with
  | none => s
  | some (c, k) =>
    if k.restart ∨ k.oldest then s
    else if k.oxRead.getLsbD r.val then s.squash c .value
    else if k.oxWrote.getLsbD r.val ∨ (k.oxFrom.any fun p => p.1 == r.val && m.j < p.2) then s
    else s.mapCtx c.die c.slot fun c =>
      { c with ox := c.ox.set r x, chunk := some { k with oxFrom := (r.val, m.j) :: k.oxFrom.filter fun p => p.1 != r.val } }

/-- R318. -/
def execOxw (k : Nat) (s : State) : Res :=
  .next (s.rillHop k (fun m => match m with | .oxw _ _ => true | _ => false) fun m s =>
    match m.msg with
    | .oxw r x => s.oxwAt m r x
    | _ => s)

/-! ### Violations and squash (R320, R322) -/

/-- R320: a STORE reaches a younger chunk that owns a copy of the sector; one past the weir is left alone (R327). -/
def State.storeAt (s : State) (m : Rill) (sector : Nat) (mask : BitVec 32) : State :=
  match s.youngerAt m with
  | none => s
  | some (c, k) =>
    if k.restart ∨ !k.spec ∨ k.weir then s
    else if k.er.contains sector then s.squash c .memory
    else s.mapCtx c.die c.slot fun c =>
      { c with chunk := some { k with valid := k.valid.filter fun b => !(sectorOf b.1 == sector && mask.getLsbD (b.1 % 32)) } }

/-- R320. -/
def execStore (k : Nat) (s : State) : Res :=
  .next (s.rillHop k (fun m => match m with | .store _ _ => true | _ => false) fun m s =>
    match m.msg with
    | .store q b => s.storeAt m q b
    | _ => s)

/-- R322, R324, R327: a SQUASH reaches a younger chunk; one squashed under exit is gone for good (R29, R31). -/
def State.squashAt (s : State) (m : Rill) (cause : SquashCause) : State :=
  match s.youngerAt m with
  | none => s
  | some (c, k) =>
    let s := if k.weir then s else if k.restart then s.outrank c k m.j cause false else s.squashSlot c m.j cause false
    if cause = .exit then s.mapCtx c.die c.slot fun o => { o with chunk := none } else s
/-- R322. -/
def execSquash (k : Nat) (s : State) : Res :=
  .next (s.rillHop k (fun m => match m with | .squash _ => true | _ => false) fun m s =>
    match m.msg with
    | .squash cause => s.squashAt m cause
    | _ => s)

/-! ### The weir's messages (R327, R328) -/

/-- What becoming oldest gives a chunk: live-ins of the last chunk that passed the weir, all final, the dirty classes of
the chunks before it, and the marks and requests that stand against the strand. (DEDUCED, log 53) -/
def Ctx.promoted (c : Ctx) (k : Chunk) (r : Region) (p : Ctx) : Ctx :=
  { c with
    state := .running, latem := c.latem || p.latem, latet := p.latet, stopReq := p.stopReq, stopTick := p.stopTick,
    dirty := c.dirty.join r.dirty,
    s := Vector.ofFn fun i => if k.wrote.getLsbD i.val || k.restart then c.s[i] else r.lastS[i],
    ox := Vector.ofFn fun i => if k.oxWrote.getLsbD i.val || k.restart then c.ox[i] else r.lastOx[i],
    chunk := some { k with oldest := true, fin := BitVec.allOnes 32 } }

/-- A value that a chunk read before it was final turns out to be another. (DEDUCED, log 53, 102) -/
def Chunk.misread (k : Chunk) (r : Region) : Bool :=
  k.pred.any (fun p => p.2 != r.lastS[Fin.ofNat 32 p.1]) || k.oxVals.any fun p => p.2 != r.lastOx[Fin.ofNat 8 p.1]

/-- R327: COMMIT of chunk j reaches chunk j + 1, which becomes oldest; a wrong live-in squashes it under cause value. -/
def State.commitAt (s : State) (m : Rill) : State :=
  match s.youngerAt m with
  | none => s
  | some (c, k) =>
    match c.regionOf s with
    | none => s
    | some r =>
      if k.j ≠ m.j + 1 ∨ k.oldest then s
      else
        let p := s.ctx c.die (r.slotFor m.j)
        let s := s.mapCtx c.die c.slot fun c => c.promoted k r p
        let s := s.mapCtx c.die (r.slotFor m.j) fun o => { o with latem := false, stopReq := none, stopTick := none }
        let o := s.ctx c.die c.slot
        if k.restart then s
        else if k.misread r then s.squash o .value
        else s.sendLiveouts o

/-- R327. (DEDUCED, log 53) -/
def execCommit (k : Nat) (s : State) : Res :=
  .next (s.rillHop k (fun m => match m with | .commit => true | _ => false) fun m s =>
    if (s.chunkCtx m.strand (m.j + 1)).any (fun c => c.chunk.any fun q => q.oldest) then s else s.commitAt m)

/-- R327, R145: the oldest chunk of a slot has ended and passes the weir. -/
def execCommitListDrain (d : DieId) (slot : SlotNo) (s : State) : Res :=
  match s.ctx? d slot with
  | some c => .next (s.weirPass c)
  | none => .next s

/-- R328: a RELEASE reaches a core: the slots that the ended region had claimed there become free. (DEDUCED, log 51) -/
def State.releaseAt (s : State) (m : Rill) : State :=
  let kept := (s.regions.find? fun r => r.strand == m.strand).map fun r => r.slots
  (s.busy.filter fun c => c.die == m.die && ringOf c.slot == m.ring && coreOf c.slot == m.core && c.strand == m.strand
    && c.state == .claimed && c.chunk.isNone && !(kept.any fun l => l.contains c.slot)).foldl (fun s c => s.freeClaimed c) s

/-- R328. -/
def execRillRelease (k : Nat) (s : State) : Res :=
  .next (s.rillHop k (fun m => match m with | .release => true | _ => false) fun m s => s.releaseAt m)

/-! ### Older versions (R314) -/

/-- Bytes of a sector that older chunks have written and a chunk neither wrote nor holds. -/
def State.olderBytes (s : State) (c : Ctx) (k : Chunk) (sector : Nat) : List Host.Cell :=
  (upFrom sector 32).filterMap fun a =>
    if (cellGet k.wr a).isSome || (cellGet k.valid a).isSome then none
    else (s.olderByte c.strand a 8 k.j).map fun b => (a, b)

/-- R314: a probe of a sector completes: what older chunks wrote is merged into the chunk's line. -/
def execOlderVersionLookup (d : DieId) (slot : SlotNo) (loc : Nat) (s : State) : Res :=
  match s.ctx? d slot with
  | none => .next s
  | some c =>
    match c.chunk with
    | none => .next s
    | some k =>
      let found := s.olderBytes c k (sectorOf loc)
      if !k.spec || k.restart || k.ended || found.isEmpty then .next s
      else .next ((s.mapCtx d slot fun c =>
        { c with chunk := some { k with valid := found.foldl (fun v b => cellPut b.1 b.2 v) k.valid } }).count d 1 (ringOf slot) 8 1)

end Sys2Proof.Machine
end

