-- ==== Sys2Proof/Machine/VectorFloat.lean ====
section
/-! DEFINITION. Floating-point element instructions (R244): MAJOR 0x24 with a vector and 0x25 with a scalar as
the second operand. -/

namespace Sys2Proof.Machine

/-- An instruction of two operands, rounded under RMODE (R230). -/
def State.vf2 (s : State) (d a : VReg) (b : OpB) (m : MReg) (f : FF → Mode → Nat → Nat → FRes) : Res :=
  .next (s.span (d :: a :: b.regs) ETy.isFloat fun s =>
    s.elemwise d m fun i => f s.me.et.ff s.me.mode (s.me.elem a i) (s.me.opb b i))
/-- An instruction of three operands, the third the old destination element. -/
def State.vf3 (s : State) (d a : VReg) (b : OpB) (m : MReg) (f : FF → Mode → Nat → Nat → Nat → FRes) : Res :=
  .next (s.span (d :: a :: b.regs) ETy.isFloat fun s =>
    s.elemwise d m fun i => f s.me.et.ff s.me.mode (s.me.elem a i) (s.me.opb b i) (s.me.elem d i))
/-- An instruction of one operand. -/
def State.vf1 (s : State) (d a : VReg) (m : MReg) (f : FF → Mode → Nat → FRes) : Res :=
  .next (s.span [d, a] ETy.isFloat fun s => s.elemwise d m fun i => f s.me.et.ff s.me.mode (s.me.elem a i))
/-- A comparison into a mask (R58). -/
def State.vfcmp (s : State) (d : MReg) (a : VReg) (b : OpB) (m : MReg) (f : FV → FV → Bool × BitVec 6) : Res :=
  .next (s.span (a :: b.regs) ETy.isFloat fun s =>
    s.elemMask d m fun i => f (s.me.et.ff.dec (s.me.elem a i)) (s.me.et.ff.dec (s.me.opb b i)))

/-- R58: not equal is the complement of equal, quiet too. -/
def fcmpNe (x y : FV) : Bool × BitVec 6 := (!(fcmpEq x y).1, (fcmpEq x y).2)

/-- R244. -/
def execVfadd (d a b : VReg) (m : MReg) (s : State) : Res := s.vf2 d a (.v b) m FF.add
/-- R244. -/
def execVfaddVs (d a : VReg) (b : SReg) (m : MReg) (s : State) : Res := s.vf2 d a (.x b) m FF.add
/-- R244. -/
def execVfsub (d a b : VReg) (m : MReg) (s : State) : Res := s.vf2 d a (.v b) m FF.sub
/-- R244. -/
def execVfsubVs (d a : VReg) (b : SReg) (m : MReg) (s : State) : Res := s.vf2 d a (.x b) m FF.sub
/-- R244. -/
def execVfmul (d a b : VReg) (m : MReg) (s : State) : Res := s.vf2 d a (.v b) m FF.mul
/-- R244. -/
def execVfmulVs (d a : VReg) (b : SReg) (m : MReg) (s : State) : Res := s.vf2 d a (.x b) m FF.mul
/-- R244. -/
def execVfdiv (d a b : VReg) (m : MReg) (s : State) : Res := s.vf2 d a (.v b) m FF.div
/-- R244. -/
def execVfdivVs (d a : VReg) (b : SReg) (m : MReg) (s : State) : Res := s.vf2 d a (.x b) m FF.div
/-- R244. -/
def execVfmin (d a b : VReg) (m : MReg) (s : State) : Res := s.vf2 d a (.v b) m fun f _ => f.minmax false
/-- R244. -/
def execVfminVs (d a : VReg) (b : SReg) (m : MReg) (s : State) : Res := s.vf2 d a (.x b) m fun f _ => f.minmax false
/-- R244. -/
def execVfmax (d a b : VReg) (m : MReg) (s : State) : Res := s.vf2 d a (.v b) m fun f _ => f.minmax true
/-- R244. -/
def execVfmaxVs (d a : VReg) (b : SReg) (m : MReg) (s : State) : Res := s.vf2 d a (.x b) m fun f _ => f.minmax true
/-- R244. -/
def execVfma (d a b : VReg) (m : MReg) (s : State) : Res := s.vf3 d a (.v b) m FF.fma
/-- R244. -/
def execVfmaVs (d a : VReg) (b : SReg) (m : MReg) (s : State) : Res := s.vf3 d a (.x b) m FF.fma
/-- R244. -/
def execVfms (d a b : VReg) (m : MReg) (s : State) : Res := s.vf3 d a (.v b) m FF.fms
/-- R244. -/
def execVfmsVs (d a : VReg) (b : SReg) (m : MReg) (s : State) : Res := s.vf3 d a (.x b) m FF.fms
/-- R244. -/
def execVfsqrt (d a : VReg) (m : MReg) (s : State) : Res := s.vf1 d a m FF.sqrt
/-- R244. -/
def execVfabs (d a : VReg) (m : MReg) (s : State) : Res := s.vf1 d a m fun f _ x => (x % f.sgn, 0)
/-- R244. -/
def execVfneg (d a : VReg) (m : MReg) (s : State) : Res := s.vf1 d a m fun f _ x => ((x + f.sgn) % 2 ^ f.width, 0)
/-- R244. -/
def execVfclass (d a : VReg) (m : MReg) (s : State) : Res := s.vf1 d a m fun f _ x => (f.classOf x, 0)
/-- R244. -/
def execVfcmpEq (d : MReg) (a b : VReg) (m : MReg) (s : State) : Res := s.vfcmp d a (.v b) m fcmpEq
/-- R244. -/
def execVfcmpEqVs (d : MReg) (a : VReg) (b : SReg) (m : MReg) (s : State) : Res := s.vfcmp d a (.x b) m fcmpEq
/-- R244. -/
def execVfcmpNe (d : MReg) (a b : VReg) (m : MReg) (s : State) : Res := s.vfcmp d a (.v b) m fcmpNe
/-- R244. -/
def execVfcmpNeVs (d : MReg) (a : VReg) (b : SReg) (m : MReg) (s : State) : Res := s.vfcmp d a (.x b) m fcmpNe
/-- R244. -/
def execVfcmpLt (d : MReg) (a b : VReg) (m : MReg) (s : State) : Res := s.vfcmp d a (.v b) m fcmpLt
/-- R244. -/
def execVfcmpLtVs (d : MReg) (a : VReg) (b : SReg) (m : MReg) (s : State) : Res := s.vfcmp d a (.x b) m fcmpLt
/-- R244. -/
def execVfcmpLe (d : MReg) (a b : VReg) (m : MReg) (s : State) : Res := s.vfcmp d a (.v b) m fcmpLe
/-- R244. -/
def execVfcmpLeVs (d : MReg) (a : VReg) (b : SReg) (m : MReg) (s : State) : Res := s.vfcmp d a (.x b) m fcmpLe

end Sys2Proof.Machine
end

