-- ==== Sys2Proof/Machine/Trans.lean ====
section
/-! DEFINITION. The transcendental functions of one element: correct rounding by enclosures for f64, f16 and
bf16 (R253), the sequences for f32 (R254 to R261). -/

namespace Sys2Proof.Machine

/-- R252. (DESIGN CHOICE, log 6) -/
inductive Trans where
  | exp2 | log2 | rcp | rsqrt | sinpi | cospi | tanh | sigm
  deriving DecidableEq, Repr

def Trans.code : Trans → Nat
  | .exp2 => 0
  | .log2 => 1
  | .rcp => 2
  | .rsqrt => 3
  | .sinpi => 4
  | .cospi => 5
  | .tanh => 6
  | .sigm => 7

/-! ### Enclosures: a value strictly between `lo · 2^e` and `hi · 2^e` -/

structure Encl where
  lo : Nat
  hi : Nat
  e : Int
  deriving DecidableEq, Repr

/-- `a / b` rounded up. -/
def cdiv (a b : Nat) : Nat := (a + b - 1) / b

/-- Sum of `2^p / ((2k+1) q^(2k+1))` for `n` terms from `k`, each rounded down; `alt` gives alternating signs. -/
def invSeries (alt : Bool) (q : Nat) : Nat → Nat → Nat → Int
  | 0, _, _ => 0
  | n + 1, k, t =>
    let x : Int := (t / (2 * k + 1) : Nat)
    (if alt && k % 2 == 1 then -x else x) + invSeries alt q n (k + 1) (t / (q * q))

/-- ln 2 · 2^p: at least the number given, less than it and the second. -/
def ln2At (p : Nat) : Nat × Nat :=
  let n := p / 3 + 4
  ((invSeries false 3 n 0 (2 ^ (p + 1) / 3)).toNat, (invSeries false 3 n 0 (2 ^ (p + 1) / 3)).toNat + 2 * n + 4)
/-- π · 2^p between two numbers (Machin's sum). -/
def piAt (p : Nat) : Nat × Nat :=
  let n := p / 4 + 4
  let a := 16 * invSeries true 5 n 0 (2 ^ p / 5) - 4 * invSeries true 239 n 0 (2 ^ p / 239)
  ((a - 40 * n - 40).toNat, (a + 40 * n + 40).toNat)

/-- e^r for 0 ≤ r < 1, all scaled by 2^p: a lower sum. -/
def expLo (p r : Nat) : Nat → Nat → Nat → Nat
  | 0, _, _ => 0
  | n + 1, k, t => t + expLo p r n (k + 1) (t * r / 2 ^ p / k)
/-- An upper sum; the last term bounds the tail. -/
def expHi (p r : Nat) : Nat → Nat → Nat → Nat
  | 0, _, t => 2 * t + 2
  | n + 1, k, t => t + expHi p r n (k + 1) (cdiv (t * r) (2 ^ p * k))
/-- e^r for r between two numbers. -/
def expAt (p : Nat) (r : Nat × Nat) : Nat × Nat :=
  let n := p / 2 + 8
  (expLo p r.1 n 1 (2 ^ p), expHi p r.2 n 1 (2 ^ p))

/-- Alternating sum of a^k / k! over k = k0, k0 + 2, …, scaled by 2^p. -/
def trigSum (p a2 : Nat) : Nat → Nat → Nat → Bool → Int
  | 0, _, _, _ => 0
  | n + 1, k, t, neg =>
    (if neg then -(t : Int) else t) + trigSum p a2 n (k + 2) (t * a2 / 2 ^ p / ((k + 1) * (k + 2))) (!neg)

/-- Sum of z^(2k+1) / (2k+1), scaled by 2^p. -/
def atanhSum (p z2 : Nat) : Nat → Nat → Nat → Nat
  | 0, _, _ => 0
  | n + 1, k, t => t / (2 * k + 1) + atanhSum p z2 n (k + 1) (t * z2 / 2 ^ p)

/-- A scaled dyadic: m · 2^e · 2^p rounded down, and up. -/
def scaled (m : Nat) (e : Int) (p : Nat) : Nat × Nat :=
  if 0 ≤ e + p then (m * 2 ^ (e + p).toNat, m * 2 ^ (e + p).toNat)
  else (m / 2 ^ (-(e + p)).toNat, cdiv m (2 ^ (-(e + p)).toNat))

/-- 2^t for t = m · 2^e in (0, 1). -/
def exp2Frac (p m : Nat) (e : Int) : Nat × Nat :=
  let l := ln2At p
  let t := scaled m e p
  expAt p (t.1 * l.1 / 2 ^ p, cdiv (t.2 * l.2) (2 ^ p))

/-- e^y for y = m · 2^e below 2^13: 2^n and the bounds of the rest. -/
def expOf (p m : Nat) (e : Int) : Nat × (Nat × Nat) :=
  let l := ln2At p
  let y := scaled m e p
  let n := y.1 / l.2
  (n, expAt p (y.1 - n * l.2, y.2 - n * l.1))

/-- log2 m for m = (1 + z) / (1 - z) given as a number scaled by 2^k in [1, 2). -/
def log2Frac (p m k : Nat) : Nat × Nat :=
  let num := m - 2 ^ k
  let den := m + 2 ^ k
  let z := 2 ^ p * num / den
  let n := p / 3 + 4
  let s := 2 * atanhSum p (z * z / 2 ^ p) n 0 z
  let l := ln2At p
  ((s - 2) * 2 ^ p / l.2, cdiv ((s + 8 * n + 16) * 2 ^ p) l.1)

/-- sin(πf) for f = m · 2^e in (0, 1/4]. -/
def sinEncl (p m : Nat) (e : Int) : Encl :=
  let top := e + topBit m
  if top < -300 then
    let q := piAt (p + 8)
    ⟨q.1 * m * (2 ^ 590 - 1), q.2 * m * 2 ^ 590, e - ((p + 8 : Nat) : Int) - 590⟩
  else
    let w := p + (-top).toNat + 16
    let q := piAt w
    let f := scaled m e w
    let a := q.1 * f.1 / 2 ^ w
    let n := w / 3 + 4
    let s := trigSum w (a * a / 2 ^ w) n 1 a false
    let err : Int := ((q.2 - q.1 + 4 * n + 16 : Nat) : Int)
    ⟨(s - err).toNat, (s + err).toNat, -(w : Int)⟩
/-- cos(πf) for f = m · 2^e in (0, 1/4]. -/
def cosEncl (p m : Nat) (e : Int) : Encl :=
  let w := p + 16
  let q := piAt w
  let f := scaled m e w
  let a := q.1 * f.1 / 2 ^ w
  let n := w / 3 + 4
  let s := trigSum w (a * a / 2 ^ w) n 0 (2 ^ w) false
  let err : Int := ((q.2 - q.1 + 4 * n + 20 : Nat) : Int)
  ⟨(s - err).toNat, (s + err).toNat, -(w : Int)⟩

/-- |sin| or |cos| of πf for f = m · 2^e in (0, 1/2), folded at 1/4. -/
def trigEncl (sine : Bool) (p m : Nat) (e : Int) : Encl :=
  let k := (-e).toNat
  if 4 * m ≤ 2 ^ k then (if sine then sinEncl p m e else cosEncl p m e)
  else
    let m' := 2 ^ k - 2 * m
    if sine then cosEncl p m' (e - 1) else sinEncl p m' (e - 1)

/-- 1 / (1 + e^y). -/
def sigmNegEncl (p m : Nat) (e : Int) : Encl :=
  if 13 ≤ e + topBit m then ⟨0, 1, -4000⟩
  else
    let w := p + 16
    let (n, a, b) := expOf w m e
    ⟨2 ^ (2 * w + n) / (2 ^ w + 2 ^ n * b), cdiv (2 ^ (2 * w + n)) (2 ^ w + 2 ^ n * a), -((w + n : Nat) : Int)⟩
/-- e^y / (1 + e^y). -/
def sigmPosEncl (p m : Nat) (e : Int) : Encl :=
  let w := p + 16
  if 13 ≤ e + topBit m then ⟨2 ^ w - 1, 2 ^ w, -(w : Int)⟩
  else
    let (n, a, b) := expOf w m e
    ⟨2 ^ n * a * 2 ^ w / (2 ^ w + 2 ^ n * a), cdiv (2 ^ n * b * 2 ^ w) (2 ^ w + 2 ^ n * b), -(w : Int)⟩
/-- tanh y = (e^2y - 1) / (e^2y + 1). -/
def tanhEncl (p m : Nat) (e : Int) : Encl :=
  let top := e + topBit m
  if 12 ≤ top then ⟨2 ^ p - 1, 2 ^ p, -(p : Int)⟩
  else if top < -300 then ⟨m * (2 ^ 590 - 1), m * 2 ^ 590, e - 590⟩
  else
    let w := p + 2 * (-top).toNat + 16
    let (n, a, b) := expOf w m (e + 1)
    ⟨(2 ^ n * a - 2 ^ w) * 2 ^ w / (2 ^ n * a + 2 ^ w), cdiv ((2 ^ n * b - 2 ^ w) * 2 ^ w) (2 ^ n * b + 2 ^ w), -(w : Int)⟩

/-- Rounding an enclosure: decided when both ends give the same result and flags. -/
def FF.roundEncl (f : FF) (neg : Bool) (x : Encl) : Option FRes :=
  let a := f.round 0 neg x.lo x.e true
  let b := f.round 0 neg (x.hi - 1) x.e true
  if a = b then some a else none

/-- The precisions tried: R253's value is decided at the first at which both ends of the enclosure round alike. No operand of the three
formats is known that needs more than the second; beyond the last the value is free (DESIGN CHOICE, log 6). -/
def precisions : List Nat := [80, 160, 320, 640, 1280, 2560, 5120, 10240, 20480, 40960, 81920]
def FF.settleEncl (f : FF) (neg : Bool) (g : Nat → Encl) : List Nat → Option FRes
  | [] => none
  | p :: ps =>
    match f.roundEncl neg (g p) with
    | some r => some r
    | none => f.settleEncl neg g ps
def FF.correct (f : FF) (t : Trans) (x : Nat) (neg : Bool) (g : Nat → Encl) : FRes :=
  (f.settleEncl neg g precisions).getD (Config.freeRound t.code f.width x, fNX)

/-! ### Correct rounding (R253) -/

/-- 1 / √(m · 2^e), exact to the last bit with its remainder. -/
def FF.rsqrtV (f : FF) (m : Nat) (e : Int) : FRes :=
  let m' := if e % 2 = 0 then m else 2 * m
  let e' := if e % 2 = 0 then e else e - 1
  let k := f.mb + 4 + topBit m'
  let r := isqrt (2 ^ (2 * k) / m')
  f.round 0 false r (-(e' / 2) - k) (r * r * m' != 2 ^ (2 * k))

/-- Floor of m · 2^e, and what is left as a number scaled by 2^e when e is negative. -/
def splitInt (m : Nat) (e : Int) : Nat × Nat :=
  if 0 ≤ e then (m * 2 ^ e.toNat, 0) else (m / 2 ^ (-e).toNat, m % 2 ^ (-e).toNat)

/-- 2^x of a finite non-zero x. -/
def FF.exp2V (f : FF) (x : Nat) (neg : Bool) (m : Nat) (e : Int) : FRes :=
  if 14 ≤ e + topBit m then (if neg then f.round 0 false 0 (-16384) true else f.round 0 false 1 16384 false)
  else
    let (i, r) := splitInt m e
    if r = 0 then f.round 0 false 1 (if neg then -(i : Int) else i) false
    else
      let n : Int := if neg then -(i : Int) - 1 else i
      let t := if neg then 2 ^ (-e).toNat - r else r
      f.correct .exp2 x false fun p =>
        if e + topBit m < -2 * p then
          (if neg then ⟨2 ^ p - 1, 2 ^ p, -(p : Int)⟩ else ⟨2 ^ p, 2 ^ p + 1, -(p : Int)⟩)
        else
          let w := p + 16
          let (a, b) := exp2Frac w t e
          ⟨a, b, n - w⟩

/-- log2 of a positive finite x. -/
def FF.log2V (f : FF) (x m : Nat) (e : Int) : FRes :=
  let k := topBit m
  let n := e + k
  if m = 2 ^ k then f.ofInt 0 n
  else
    f.correct .log2 x (decide (n < 0)) fun p =>
      let w := p + 80
      let (a, b) := log2Frac w m k
      if n < 0 then ⟨n.natAbs * 2 ^ w - b, n.natAbs * 2 ^ w - a, -(w : Int)⟩ else ⟨n.toNat * 2 ^ w + a, n.toNat * 2 ^ w + b, -(w : Int)⟩

/-- R259's reduction: the quarter turn q, and the fraction f in [0, 1/2) scaled as m · 2^e. -/
def quarter (m : Nat) (e : Int) : Nat × Nat × Int :=
  if 1 ≤ e then (0, 0, -1)
  else
    let k := (-e).toNat + 1
    let u := 2 * m % 2 ^ (k + 1)
    (2 * u / 2 ^ k, u % 2 ^ (k - 1), -(k : Int))

/-- sin(πx) and cos(πx) of a finite non-zero x. (DEDUCED, log 109) -/
def FF.trigV (f : FF) (t : Trans) (x : Nat) (neg : Bool) (m : Nat) (e : Int) : FRes :=
  let sine := t = .sinpi
  let (q, r, re) := quarter m e
  let q := if sine then q else (q + 1) % 4
  let neg := (decide (2 ≤ q)) != (sine && neg)
  if r = 0 then
    if q % 2 = 0 then (if sine && f.sgn ≤ x then f.sgn else 0, 0)
    else f.round 0 neg 1 0 false
  else f.correct t x neg fun p => trigEncl (q % 2 == 0) p r re

/-- R253 for a function of an encoding. -/
def FF.trans (f : FF) (t : Trans) (x : Nat) : FRes :=
  let x := x % 2 ^ f.width
  let one : Nat := f.bias * 2 ^ f.mb
  match t, f.dec x with
  | _, .nan s => f.nanRes s
  | .exp2, .inf neg => if neg then (0, 0) else f.infRes false
  | .exp2, .fin neg m e => if m = 0 then (one, 0) else f.exp2V x neg m e
  | .log2, .inf neg => if neg then f.nanRes true else f.infRes false
  | .log2, .fin neg m e =>
    if m = 0 then ((f.infRes true).1, fDZ) else if neg then f.nanRes true else f.log2V x m e
  | .rcp, v => f.divV 0 (.fin false 1 0) v
  | .rsqrt, .inf neg => if neg then f.nanRes true else (0, 0)
  | .rsqrt, .fin neg m e => if m = 0 then f.infRes neg else if neg then f.nanRes true else f.rsqrtV m e
  | .sinpi, .inf _ => f.nanRes true
  | .sinpi, .fin neg m e => if m = 0 then (x, 0) else f.trigV .sinpi x neg m e
  | .cospi, .inf _ => f.nanRes true
  | .cospi, .fin neg m e => if m = 0 then (one, 0) else f.trigV .cospi x neg m e
  | .tanh, .inf neg => ((if neg then f.sgn else 0) + one, 0)
  | .tanh, .fin neg m e => if m = 0 then (x, 0) else f.correct .tanh x neg fun p => tanhEncl p m e
  | .sigm, .inf neg => (if neg then 0 else one, 0)
  | .sigm, .fin neg m e =>
    if m = 0 then (one - 2 ^ f.mb, 0)
    else f.correct .sigm x false fun p => if neg then sigmNegEncl p m e else sigmPosEncl p m e

/-! ### The f32 sequences (R254 to R261) -/

/-- Rounding an enclosure to f32 for a table entry. -/
def tableEntry (g : Nat → Encl) : Nat := ((ff32.settleEncl false g precisions).getD (0, 0)).1

/-- R254: the tables. -/
def tExp2 (k : Nat) : Nat := if k = 0 then 0x3F800000 else tableEntry fun p => let (a, b) := exp2Frac (p + 16) k (-6); ⟨a, b, -((p + 16 : Nat) : Int)⟩
def tLog2 (k : Nat) : Nat := if k = 0 then 0 else tableEntry fun p => let (a, b) := log2Frac (p + 16) (64 + k) 6; ⟨a, b, -((p + 16 : Nat) : Int)⟩
def tRcp (k : Nat) : Nat := (ff32.divV 0 (.fin false 128 0) (.fin false (129 + 2 * k) 0)).1
def tRsqrt (k : Nat) : Nat := (ff32.rsqrtV (65 + 2 * (k % 32)) ((k / 32 : Nat) - 6)).1
/-- sin(πk/128). -/
def tSin (k : Nat) : Nat := if k = 0 then 0 else if k = 64 then 0x3F800000 else tableEntry fun p => trigEncl true p k (-7)
/-- cos(πk/128). -/
def tCos (k : Nat) : Nat := if k = 0 then 0x3F800000 else if k = 64 then 0 else tableEntry fun p => trigEncl false p k (-7)

/-- An f32 encoding as an exact value, a rounding to f32, one fused step. -/
def v32 (x : Nat) : FV := ff32.dec x
def rne32 (v : FV) : FV := v32 (ff32.ofV 0 v).1
def fma32 (a b c : FV) : FV := v32 (ff32.fmaV 0 a b c).1
/-- Exact product and sum of finite values. -/
def FV.mulx : FV → FV → FV
  | .fin n1 m1 e1, .fin n2 m2 e2 => .fin (n1 != n2) (m1 * m2) (e1 + e2)
  | x, _ => x
def FV.addx : FV → FV → FV
  | .fin n1 m1 e1, .fin n2 m2 e2 =>
    let (s, e) := addExact n1 m1 e1 n2 m2 e2
    .fin (decide (s < 0)) s.natAbs e
  | x, _ => x
def fvInt (x : Int) : FV := .fin (decide (x < 0)) x.natAbs 0
/-- Scaling by 2^k, exactly. -/
def FV.scale (k : Int) : FV → FV
  | .fin n m e => .fin n m (e + k)
  | x => x
/-- A polynomial by fused steps. -/
def poly (r : FV) (p : FV) : List Nat → FV
  | [] => p
  | c :: cs => poly r (fma32 p r (v32 c)) cs

/-- A fixed point of 160 fractional bits, which every f32 value has. -/
def fix160 (neg : Bool) (m : Nat) (e : Int) : Int := signedOf neg (m * 2 ^ (e + 160).toNat)
def ofFix (x : Int) : FV := .fin (decide (x < 0)) x.natAbs (-160)

/-- NX by the rule of R260, OF and UF of the last rounding. -/
def seqFlags (r : FRes) (exact : Bool) : FRes := (r.1, (r.2 &&& (fOF ||| fUF)) ||| (if exact then 0 else fNX))

/-- R255. -/
def exp2F32 (x : FV) : FRes :=
  match x with
  | .nan s => ff32.nanRes s
  | .inf neg => if neg then (0, 0) else ff32.infRes false
  | .fin neg m e =>
    let fx := fix160 neg m e
    if 128 * 2 ^ 160 ≤ fx then (ff32.inf, fOF ||| fNX)
    else if fx < -160 * 2 ^ 160 then (0, fUF ||| fNX)
    else
      let n := fx / 2 ^ 160
      let t := fx - n * 2 ^ 160
      let k : Nat := (t / 2 ^ 154).toNat
      let r := ofFix (t - (k : Int) * 2 ^ 154)
      let p := poly r (v32 0x3D635847) [0x3E75FDF0, 0x3F317218, 0x3F800000]
      let y := rne32 ((v32 (tExp2 k)).mulx p)
      seqFlags (ff32.ofV 0 (y.scale n)) (t = 0 && decide (-149 ≤ n))

/-- m in [1, 2) and n with m · 2^n the value. -/
def normal (m : Nat) (e : Int) : FV × Int := (.fin false m (-(topBit m : Int)), e + topBit m)
/-- floor(64 (m - 1)) for m in [1, 2). -/
def step64 (m : Nat) : Nat := 64 * m / 2 ^ topBit m - 64

/-- R256. -/
def log2F32 (x : FV) : FRes :=
  match x with
  | .nan s => ff32.nanRes s
  | .inf neg => if neg then ff32.nanRes true else ff32.infRes false
  | .fin neg m e =>
    if m = 0 then ((ff32.infRes true).1, fDZ)
    else if neg then ff32.nanRes true
    else
      let (mv, n) := normal m e
      let k := step64 m
      let mk : FV := .fin false (64 + k) (-6)
      let r := v32 (ff32.divV 0 (mv.addx (.fin true (64 + k) (-6))) mk).1
      let p := poly r (v32 0x3EF6384F) [0xBF38AA3B, 0x3FB8AA3B]
      let p := rne32 (p.mulx r)
      let s := rne32 ((v32 (tLog2 k)).addx p)
      seqFlags (ff32.ofV 0 ((fvInt n).addx s)) (decide (m = 2 ^ topBit m))

/-- R257. -/
def rcpF32 (x : FV) : FRes :=
  match x with
  | .nan s => ff32.nanRes s
  | .inf neg => (if neg then ff32.sgn else 0, 0)
  | .fin neg m e =>
    if m = 0 then ((ff32.infRes neg).1, fDZ)
    else
      let (mv, n) := normal m e
      let y := v32 (tRcp (step64 m))
      let er := rne32 ((fvInt 1).addx ((mv.mulx y).neg))
      let p := poly er (fvInt 1) [0x3F800000, 0x3F800000, 0x3F800000]
      let r := ff32.ofV 0 ((rne32 (y.mulx p)).scale (-n))
      let exact := m = 2 ^ topBit m ∧ r.1 < ff32.inf
      seqFlags (r.1 + (if neg then ff32.sgn else 0), r.2) (decide exact)

/-- R258. -/
def rsqrtF32 (x : FV) : FRes :=
  match x with
  | .nan s => ff32.nanRes s
  | .inf neg => if neg then ff32.nanRes true else (0, 0)
  | .fin neg m e =>
    if m = 0 then ff32.infRes neg
    else if neg then ff32.nanRes true
    else
      let (mv, n) := normal m e
      let h : Nat := if n % 2 = 0 then 0 else 1
      let n := n - (h : Nat)
      let mv := mv.scale (h : Nat)
      let j := 32 * m / 2 ^ topBit m - 32
      let y := v32 (tRsqrt (32 * h + j))
      let er := rne32 ((fvInt 1).addx (((mv.mulx y).mulx y).neg))
      let p := poly er (v32 0x3EA00000) [0x3EC00000, 0x3F000000, 0x3F800000]
      let r := rne32 (y.mulx p)
      seqFlags (ff32.ofV 0 (r.scale (-(n / 2)))) (decide (m = 2 ^ topBit m ∧ h = 0))

/-- R259. -/
def trigF32 (sine : Bool) (x : FV) : FRes :=
  match x with
  | .nan s => ff32.nanRes s
  | .inf _ => ff32.nanRes true
  | .fin neg m e =>
    let u := (fix160 false m e).toNat % 2 ^ 161
    let q := u / 2 ^ 159
    let f := u % 2 ^ 159
    let q := if sine then q else (q + 1) % 4
    let k := f / 2 ^ 153
    let r := ofFix ((f - k * 2 ^ 153 : Nat) : Int)
    let sk := v32 (tSin k)
    let ck := v32 (tCos k)
    let (s, c) := if q % 2 = 0 then (sk, ck) else (ck, sk.neg)
    let a1 := rne32 ((v32 0x40490FDB).mulx c)
    let a2 := rne32 (((v32 0x409DE9E6).mulx s).neg)
    let a3 := rne32 (((v32 0x40A55DE7).mulx c).neg)
    let p := fma32 (fma32 a3 r a2) r a1
    let res := ff32.fmaV 0 p r s
    let mag := res.1 % ff32.sgn
    let neg' := ((decide (ff32.sgn ≤ res.1)) != decide (2 ≤ q)) != (sine && neg)
    let bits := if mag = 0 then (if sine && neg then ff32.sgn else 0) else mag + (if neg' then ff32.sgn else 0)
    seqFlags (bits, res.2) (f = 0)

/-- Is an f32 magnitude below the least normal? -/
def tiny32 (x : Nat) : Bool := x % ff32.sgn < 2 ^ 23
def log2e32 : FV := v32 0x3FB8AA3B

/-- R261. -/
def sigmF32 (x : FV) : FRes :=
  match x with
  | .nan s => ff32.nanRes s
  | .inf neg => (if neg then 0 else 0x3F800000, 0)
  | .fin _ m _ =>
    let t := rne32 ((x.mulx log2e32).neg)
    let e := v32 (exp2F32 t).1
    let dd := v32 (ff32.addV 0 (fvInt 1) e).1
    let r := (rcpF32 dd).1
    if m = 0 then (r, 0) else (r, fNX ||| (if tiny32 r then fUF else 0))

/-- R261. -/
def tanhF32 (x : FV) : FRes :=
  match x with
  | .nan s => ff32.nanRes s
  | .inf neg => ((if neg then ff32.sgn else 0) + 0x3F800000, 0)
  | .fin neg m e =>
    let sg := if neg then ff32.sgn else 0
    if m = 0 then (sg, 0)
    else if e + topBit m < -12 then
      let b := (ff32.ofV 0 (.fin false m e)).1
      (sg + b, fNX ||| (if tiny32 b then fUF else 0))
    else
      let t := rne32 (((FV.fin false m e).scale 1).mulx log2e32)
      let ex := v32 (exp2F32 t).1
      let dd := v32 (ff32.addV 0 (fvInt 1) ex).1
      let g := v32 (rcpF32 dd).1
      let r := (ff32.ofV 0 ((fvInt 1).addx (g.scale 1).neg)).1
      (sg + r, fNX ||| (if tiny32 r then fUF else 0))

/-- R254: an f32 function. -/
def transF32 (t : Trans) (x : Nat) : FRes :=
  let v := ff32.dec x
  match t with
  | .exp2 => exp2F32 v
  | .log2 => log2F32 v
  | .rcp => rcpF32 v
  | .rsqrt => rsqrtF32 v
  | .sinpi => trigF32 true v
  | .cospi => trigF32 false v
  | .tanh => tanhF32 v
  | .sigm => sigmF32 v

/-- R253, R254: an element of a format. -/
def Trans.apply (t : Trans) (f : FF) (x : Nat) : FRes := if f = ff32 then transF32 t x else f.trans t x

end Sys2Proof.Machine
end

