-- ==== Sys2Proof/Machine/VectorWhole.lean ====
section
/-! DEFINITION. Configuration (R233 to R235), conversion and packing (R245 to R247), permutations (R250), masks
(R251), transcendental functions (R252) and random numbers (R262). -/

namespace Sys2Proof.Machine

/-! ### Configuration -/

/-- R233: VLMAX is 256 while SPAN.IF is set. -/
def execSetvl (d a : SReg) (s : State) : Res :=
  let s := s.mapMe fun c => c.setVl (c.getS a).toNat
  .next (s.result d (word s.me.vl))
/-- R234. -/
def execSetspanImm (g : BitVec 2) (t : ETy) (s : State) : Res := .next (s.mapMe fun c => c.setSpan g.toNat t).done4
/-- R234: the type from sa[3:0], the group from sa[5:4]. -/
def execSetspanReg (a : SReg) (s : State) : Res :=
  .next (s.mapMe fun c => c.setSpan (bits (c.getS a) 4 2) (ETy.ofCode (bits (c.getS a) 0 4))).done4

/-- R235: a plain load of the 64 bits; the tags follow R107. -/
def execOxl (a : SReg) (k : OxKind) (x : OxReg) (s : State) : Res :=
  .next (s.load (s.getS a) 8 2 fun s v => (s.setOx x k (word v)).done4)
/-- R235. -/
def execOxs (a : SReg) (x : OxReg) (s : State) : Res := .next (s.store (s.getS a) 8 2 (s.me.ox[x]).val.toNat fun s => s.done4)
/-- R235. -/
def execOxr (a : SReg) (k : OxKind) (x : OxReg) (s : State) : Res := .next (s.setOx x k (s.getS a)).done4

/-! ### Conversion and packing -/

/-- R245: registers of the source block. -/
def srcRegs (vlmax ew : Nat) : Nat := max 1 ((vlmax * ew + 2047) / 2048)

/-- R245: the block of A is checked with the other register fields, as one register while SPAN.IF is set (R39); whole; RMODE keeps RNA.
(DEDUCED, log 24) -/
def execVcvt (d a : VReg) (t : ETy) (m : MReg) (r : Rnd) (s : State) : Res :=
  let g := if s.me.spanIF then 1 else srcRegs s.me.vlmax t.ew
  .next (if a.val % g ≠ 0 ∨ 32 < a.val + g then s.trap s.me.illegal
    else s.span [d] (fun t => !t.isDxb) fun s =>
      let rs := (s.me.activeFrom m 0).map fun i => (i, convert t s.me.et (s.me.rndMode r) (s.me.elemAt a.val t.ew i))
      s.whole d (rs.map fun x => (x.1, x.2.1)) (orAll (rs.map fun x => x.2.2)))

/-- The format a pack record names (R113). -/
def packTy (r : Word) : ETy := ETy.ofCode (bits r 0 4)
/-- Types that `vpack` takes (R106). -/
def packSrc (t : ETy) : Bool := t == .f32 || t == .bf16 || t == .f16

/-- R246: block `k` packed: its exponents, elements and flags; none without an active element. -/
def Ctx.packBlock (c : Ctx) (dx : Dx) (gap : Nat) (a : VReg) (m : MReg) (k : Nat) : Option ((Nat × Nat) × List (Nat × Nat) × BitVec 6) :=
  let l := (upFrom (32 * k) 32).filter fun i => i < c.vl && c.active m i
  if l.isEmpty then none else some (dx.pack c.et.ff gap (l.map fun i => (i, c.elem a i)))

/-- R246: single registers take the element plane and the exponent plane; where they are one, the exponents are written last. (DESIGN
CHOICE, log 99) -/
def execVpack (d a b : VReg) (m : MReg) (x : OxReg) (s : State) : Res :=
  .next (s.span [a] packSrc fun s => s.ox x .pack fun r =>
    let t := packTy r
    let rs := (upFrom 0 ((s.me.vl + 31) / 32)).filterMap fun k => (s.me.packBlock (dxOf t) (gapOf (bits r 4 4)) a m k).map fun p => (k, p)
    ((s.mapMe fun c =>
      let c := c.putElems d.val t.ew (rs.map fun p => p.2.2.1).flatten
      c.putElems b.val 8 (rs.map fun p => [(2 * p.1, p.2.1.1), (2 * p.1 + 1, p.2.1.2)]).flatten).orFlags
      (orAll (rs.map fun p => p.2.2.2))).done4)

/-- R247. -/
def execVunpack (d a b : VReg) (m : MReg) (x : OxReg) (s : State) : Res :=
  .next (s.span [d] ETy.isFloat fun s => s.ox x .pack fun r =>
    let t := packTy r
    let c := s.me
    let rs := (c.activeFrom m 0).map fun i =>
      (i, c.et.ff.ofV 0 ((dxOf t).decode (c.elemAt a.val t.ew i) (c.elemAt b.val 8 (i / 32 * 2)) (c.elemAt b.val 8 (i / 32 * 2 + 1))))
    s.whole d (rs.map fun x => (x.1, x.2.1)) (orAll (rs.map fun x => x.2.2)))

/-! ### Permutations (R250) -/

/-- A source element; positions at or beyond VL read zero. -/
def Ctx.elem0 (c : Ctx) (a : VReg) (i : Nat) : Nat := if i < c.vl then c.elem a i else 0

/-- A permutation: element `i` of the active ones takes position `f i`; none keeps it. -/
def State.permute (s : State) (regs : List VReg) (d a : VReg) (m : MReg) (f : Ctx → Nat → Option Nat) : Res :=
  .next (s.span (d :: a :: regs) anyType fun s =>
    s.whole d ((s.me.activeFrom m 0).filterMap fun i => (f s.me i).map fun j => (i, s.me.elem0 a j)) 0)

/-- R250. -/
def execVxchg (d a : VReg) (b : SReg) (m : MReg) (s : State) : Res :=
  s.permute [] d a m fun c i => some (i ^^^ ((c.getS b).toNat % 256))
/-- R250. -/
def execVrot (d a : VReg) (b : SReg) (m : MReg) (s : State) : Res :=
  s.permute [] d a m fun c i => some ((i + (c.getS b).toNat) % c.vl)
/-- R250: element-wise. -/
def execVbcast (d : VReg) (a : SReg) (m : MReg) (s : State) : Res :=
  .next (s.span [d] anyType fun s => s.elemwise d m fun _ => (s.me.scalar a, 0))
/-- R250. -/
def execVperm (d a b : VReg) (m : MReg) (s : State) : Res := s.permute [b] d a m fun c i => some (c.elem b i)
/-- R250. -/
def execVslideUp (d a : VReg) (b : SReg) (m : MReg) (s : State) : Res :=
  s.permute [] d a m fun c i => if (c.getS b).toNat ≤ i then some (i - (c.getS b).toNat) else none
/-- R250. -/
def execVslideDn (d a : VReg) (b : SReg) (m : MReg) (s : State) : Res :=
  s.permute [] d a m fun c i => some (i + (c.getS b).toNat)
/-- Pairs of a number counted from `k` and an element. -/
def numbered {α : Type} (k : Nat) : List α → List (Nat × α)
  | [] => []
  | x :: xs => (k, x) :: numbered (k + 1) xs
/-- R250: m is the selector. -/
def execVcompress (d a : VReg) (m : MReg) (s : State) : Res :=
  .next (s.span [d, a] anyType fun s =>
    s.whole d ((numbered 0 (s.me.activeFrom m 0)).map fun p => (p.1, s.me.elem a p.2)) 0)
/-- R250: m is the selector. -/
def execVexpand (d a : VReg) (m : MReg) (s : State) : Res :=
  .next (s.span [d, a] anyType fun s =>
    s.whole d ((numbered 0 (s.me.activeFrom m 0)).map fun p => (p.2, s.me.elem a p.1)) 0)

/-! ### Masks (R251) -/

/-- A mask written below VL. -/
def State.maskOp (s : State) (d : MReg) (f : Ctx → Nat → Bool) : Res :=
  .next (s.mapMe fun c => c.putMask d ((upFrom 0 c.vl).map fun i => (i, f c i))).done4

/-- R251. -/
def execMand (d a b : MReg) (s : State) : Res := s.maskOp d fun c i => c.active a i && c.active b i
/-- R251. -/
def execMor (d a b : MReg) (s : State) : Res := s.maskOp d fun c i => c.active a i || c.active b i
/-- R251. -/
def execMxor (d a b : MReg) (s : State) : Res := s.maskOp d fun c i => c.active a i != c.active b i
/-- R251. -/
def execMnot (d a : MReg) (s : State) : Res := s.maskOp d fun c i => !c.active a i
/-- R251. -/
def execMpop (d : SReg) (a : MReg) (s : State) : Res := .next (s.result d (word (s.me.activeFrom a 0).length))
/-- R251. -/
def execMfirst (d : SReg) (a : MReg) (s : State) : Res :=
  .next (s.result d (match (s.me.activeFrom a 0).head? with | some i => word i | none => BitVec.allOnes 64))
/-- R251. -/
def execMset (d : MReg) (a : SReg) (s : State) : Res := s.maskOp d fun c i => decide (i < (c.getS a).toNat)

/-! ### Transcendental functions and random numbers -/

/-- R252. (DESIGN CHOICE, log 6) -/
def State.vtrans (s : State) (t : Trans) (d a : VReg) (m : MReg) : Res :=
  .next (s.span [d, a] ETy.isFloat fun s => s.elemwise d m fun i => t.apply s.me.et.ff (s.me.elem a i))

/-- R255, R253. -/
def execVexp2 (d a : VReg) (m : MReg) (s : State) : Res := s.vtrans .exp2 d a m
/-- R256, R253. -/
def execVlog2 (d a : VReg) (m : MReg) (s : State) : Res := s.vtrans .log2 d a m
/-- R257, R253. -/
def execVrcp (d a : VReg) (m : MReg) (s : State) : Res := s.vtrans .rcp d a m
/-- R258, R253. -/
def execVrsqrt (d a : VReg) (m : MReg) (s : State) : Res := s.vtrans .rsqrt d a m
/-- R259, R253. -/
def execVsinpi (d a : VReg) (m : MReg) (s : State) : Res := s.vtrans .sinpi d a m
/-- R259, R253. -/
def execVcospi (d a : VReg) (m : MReg) (s : State) : Res := s.vtrans .cospi d a m
/-- R261, R253. -/
def execVtanh (d a : VReg) (m : MReg) (s : State) : Res := s.vtrans .tanh d a m
/-- R261, R253. -/
def execVsigm (d a : VReg) (m : MReg) (s : State) : Res := s.vtrans .sigm d a m

/-- R262: round `j` and those after it. -/
def rngRounds (key : Word) : Nat → Nat → Word → Word
  | 0, _, x => x
  | n + 1, j, x =>
    let y := (x ^^^ (key + word j * 0x7B1D3E95C86A24F1)) * 0xA5E391C72D4B6F09
    rngRounds key n (j + 1) (y ^^^ y.rotateRight 27)
def rng32 (key counter : Word) : Nat := (rngRounds key 10 0 counter).toNat / 2 ^ 32

/-- R262. -/
def execVrng (d : VReg) (a b : SReg) (m : MReg) (s : State) : Res :=
  .next (s.span [d] (fun t => t == .i32 || t == .n32) fun s =>
    s.elemwise d m fun i => (rng32 (s.getS a) (s.getS b + word i), 0))

end Sys2Proof.Machine
end

