-- ==== Sys2Proof/Machine/Dispatch.lean ====
section
/-! DEFINITION. The dispatch: one arm per constructor of `Instr`. -/
namespace Sys2Proof.Machine

/-- The meaning of an instruction or event in a state. -/
def exec (i : Instr) (s : State) : Host.Outcome State Fault Refusal :=
  match i with
  | .add d a b => Sys2Proof.Machine.execAdd d a b s
  | .sub d a b => Sys2Proof.Machine.execSub d a b s
  | .and d a b => Sys2Proof.Machine.execAnd d a b s
  | .or d a b => Sys2Proof.Machine.execOr d a b s
  | .xor d a b => Sys2Proof.Machine.execXor d a b s
  | .shl d a b => Sys2Proof.Machine.execShl d a b s
  | .shr d a b => Sys2Proof.Machine.execShr d a b s
  | .sra d a b => Sys2Proof.Machine.execSra d a b s
  | .slt d a b => Sys2Proof.Machine.execSlt d a b s
  | .sltn d a b => Sys2Proof.Machine.execSltn d a b s
  | .min d a b => Sys2Proof.Machine.execMin d a b s
  | .max d a b => Sys2Proof.Machine.execMax d a b s
  | .minn d a b => Sys2Proof.Machine.execMinn d a b s
  | .maxn d a b => Sys2Proof.Machine.execMaxn d a b s
  | .mul d a b => Sys2Proof.Machine.execMul d a b s
  | .mulh d a b => Sys2Proof.Machine.execMulh d a b s
  | .mulhn d a b => Sys2Proof.Machine.execMulhn d a b s
  | .mulhin d a b => Sys2Proof.Machine.execMulhin d a b s
  | .div d a b => Sys2Proof.Machine.execDiv d a b s
  | .divn d a b => Sys2Proof.Machine.execDivn d a b s
  | .rem d a b => Sys2Proof.Machine.execRem d a b s
  | .remn d a b => Sys2Proof.Machine.execRemn d a b s
  | .clz d a => Sys2Proof.Machine.execClz d a s
  | .ctz d a => Sys2Proof.Machine.execCtz d a s
  | .popc d a => Sys2Proof.Machine.execPopc d a s
  | .bswap d a => Sys2Proof.Machine.execBswap d a s
  | .sext d a q => Sys2Proof.Machine.execSext d a q s
  | .zext d a q => Sys2Proof.Machine.execZext d a q s
  | .addi d a im => Sys2Proof.Machine.execAddi d a im s
  | .andi d a im => Sys2Proof.Machine.execAndi d a im s
  | .ori d a im => Sys2Proof.Machine.execOri d a im s
  | .xori d a im => Sys2Proof.Machine.execXori d a im s
  | .slti d a im => Sys2Proof.Machine.execSlti d a im s
  | .sltni d a im => Sys2Proof.Machine.execSltni d a im s
  | .shli d a im => Sys2Proof.Machine.execShli d a im s
  | .shri d a im => Sys2Proof.Machine.execShri d a im s
  | .srai d a im => Sys2Proof.Machine.execSrai d a im s
  | .lui d im => Sys2Proof.Machine.execLui d im s
  | .pcadd d im => Sys2Proof.Machine.execPcadd d im s
  | .cMov d a => Sys2Proof.Machine.execCMov d a s
  | .cAdd d a => Sys2Proof.Machine.execCAdd d a s
  | .cAddi d im => Sys2Proof.Machine.execCAddi d im s
  | .cLd d a => Sys2Proof.Machine.execCLd d a s
  | .cSt a b => Sys2Proof.Machine.execCSt a b s
  | .cBeqz a o => Sys2Proof.Machine.execCBeqz a o s
  | .cBnez a o => Sys2Proof.Machine.execCBnez a o s
  | .cJ o => Sys2Proof.Machine.execCJ o s
  | .fadd d a b t => Sys2Proof.Machine.execFadd d a b t s
  | .fsub d a b t => Sys2Proof.Machine.execFsub d a b t s
  | .fmul d a b t => Sys2Proof.Machine.execFmul d a b t s
  | .fdiv d a b t => Sys2Proof.Machine.execFdiv d a b t s
  | .fmin d a b t => Sys2Proof.Machine.execFmin d a b t s
  | .fmax d a b t => Sys2Proof.Machine.execFmax d a b t s
  | .fsqrt d a t => Sys2Proof.Machine.execFsqrt d a t s
  | .fma d a b t => Sys2Proof.Machine.execFma d a b t s
  | .fms d a b t => Sys2Proof.Machine.execFms d a b t s
  | .feq d a b t => Sys2Proof.Machine.execFeq d a b t s
  | .flt d a b t => Sys2Proof.Machine.execFlt d a b t s
  | .fle d a b t => Sys2Proof.Machine.execFle d a b t s
  | .fclass d a t => Sys2Proof.Machine.execFclass d a t s
  | .fcvt d a x y r => Sys2Proof.Machine.execFcvt d a x y r s
  | .beq a b o => Sys2Proof.Machine.execBeq a b o s
  | .bne a b o => Sys2Proof.Machine.execBne a b o s
  | .blt a b o => Sys2Proof.Machine.execBlt a b o s
  | .bge a b o => Sys2Proof.Machine.execBge a b o s
  | .bltn a b o => Sys2Proof.Machine.execBltn a b o s
  | .bgen a b o => Sys2Proof.Machine.execBgen a b o s
  | .jl d im => Sys2Proof.Machine.execJl d im s
  | .jlr d a im => Sys2Proof.Machine.execJlr d a im s
  | .fork a o => Sys2Proof.Machine.execFork a o s
  | .floop a b o => Sys2Proof.Machine.execFloop a b o s
  | .fhold => Sys2Proof.Machine.execFhold s
  | .fexit o => Sys2Proof.Machine.execFexit o s
  | .ldB d a im => Sys2Proof.Machine.execLdB d a im s
  | .ldH d a im => Sys2Proof.Machine.execLdH d a im s
  | .ldW d a im => Sys2Proof.Machine.execLdW d a im s
  | .ldD d a im => Sys2Proof.Machine.execLdD d a im s
  | .ldBn d a im => Sys2Proof.Machine.execLdBn d a im s
  | .ldHn d a im => Sys2Proof.Machine.execLdHn d a im s
  | .ldWn d a im => Sys2Proof.Machine.execLdWn d a im s
  | .stB a b im => Sys2Proof.Machine.execStB a b im s
  | .stH a b im => Sys2Proof.Machine.execStH a b im s
  | .stW a b im => Sys2Proof.Machine.execStW a b im s
  | .stD a b im => Sys2Proof.Machine.execStD a b im s
  | .ldAcq d a im q => Sys2Proof.Machine.execLdAcq d a im q s
  | .stRel a b im q => Sys2Proof.Machine.execStRel a b im q s
  | .ldFe d a => Sys2Proof.Machine.execLdFe d a s
  | .stFe a b => Sys2Proof.Machine.execStFe a b s
  | .ldFf d a => Sys2Proof.Machine.execLdFf d a s
  | .feSet a => Sys2Proof.Machine.execFeSet a s
  | .feClr a => Sys2Proof.Machine.execFeClr a s
  | .ldPod d a b z => Sys2Proof.Machine.execLdPod d a b z s
  | .stPod d a b z => Sys2Proof.Machine.execStPod d a b z s
  | .lr d a w => Sys2Proof.Machine.execLr d a w s
  | .sc d a b w => Sys2Proof.Machine.execSc d a b w s
  | .cas d a b w => Sys2Proof.Machine.execCas d a b w s
  | .amoAdd d a b w => Sys2Proof.Machine.execAmoAdd d a b w s
  | .amoAnd d a b w => Sys2Proof.Machine.execAmoAnd d a b w s
  | .amoOr d a b w => Sys2Proof.Machine.execAmoOr d a b w s
  | .amoXor d a b w => Sys2Proof.Machine.execAmoXor d a b w s
  | .amoMin d a b w => Sys2Proof.Machine.execAmoMin d a b w s
  | .amoMax d a b w => Sys2Proof.Machine.execAmoMax d a b w s
  | .amoMinn d a b w => Sys2Proof.Machine.execAmoMinn d a b w s
  | .amoMaxn d a b w => Sys2Proof.Machine.execAmoMaxn d a b w s
  | .amoSwap d a b w => Sys2Proof.Machine.execAmoSwap d a b w s
  | .amoFadd d a b w => Sys2Proof.Machine.execAmoFadd d a b w s
  | .rredAdd a b w => Sys2Proof.Machine.execRredAdd a b w s
  | .rredAnd a b w => Sys2Proof.Machine.execRredAnd a b w s
  | .rredOr a b w => Sys2Proof.Machine.execRredOr a b w s
  | .rredXor a b w => Sys2Proof.Machine.execRredXor a b w s
  | .rredMin a b w => Sys2Proof.Machine.execRredMin a b w s
  | .rredMax a b w => Sys2Proof.Machine.execRredMax a b w s
  | .rredMinn a b w => Sys2Proof.Machine.execRredMinn a b w s
  | .rredMaxn a b w => Sys2Proof.Machine.execRredMaxn a b w s
  | .rredFadd a b w => Sys2Proof.Machine.execRredFadd a b w s
  | .fence q => Sys2Proof.Machine.execFence q s
  | .wres => Sys2Proof.Machine.execWres s
  | .binit a b => Sys2Proof.Machine.execBinit a b s
  | .bpost a b => Sys2Proof.Machine.execBpost a b s
  | .barr a => Sys2Proof.Machine.execBarr a s
  | .bwait d a b => Sys2Proof.Machine.execBwait d a b s
  | .qput a b => Sys2Proof.Machine.execQput a b s
  | .qputNb d a b => Sys2Proof.Machine.execQputNb d a b s
  | .qget d a => Sys2Proof.Machine.execQget d a s
  | .qgetNb d a b => Sys2Proof.Machine.execQgetNb d a b s
  | .qputv d a => Sys2Proof.Machine.execQputv d a s
  | .qputvNb d a b => Sys2Proof.Machine.execQputvNb d a b s
  | .qgetv d a => Sys2Proof.Machine.execQgetv d a s
  | .qgetvNb d a b => Sys2Proof.Machine.execQgetvNb d a b s
  | .qstat d a => Sys2Proof.Machine.execQstat d a s
  | .qinit a b x => Sys2Proof.Machine.execQinit a b x s
  | .cpIn d a b x => Sys2Proof.Machine.execCpIn d a b x s
  | .cpOut d a b x => Sys2Proof.Machine.execCpOut d a b x s
  | .cpTt d a b x => Sys2Proof.Machine.execCpTt d a b x s
  | .gx d a b w q x => Sys2Proof.Machine.execGx d a b w q x s
  | .rdegPin a g => Sys2Proof.Machine.execRdegPin a g s
  | .rdegAuto a g => Sys2Proof.Machine.execRdegAuto a g s
  | .rpref a b => Sys2Proof.Machine.execRpref a b s
  | .gform d a b => Sys2Proof.Machine.execGform d a b s
  | .gstat d a => Sys2Proof.Machine.execGstat d a s
  | .coll d a b x => Sys2Proof.Machine.execColl d a b x s
  | .cabort a => Sys2Proof.Machine.execCabort a s
  | .setvl d a => Sys2Proof.Machine.execSetvl d a s
  | .setspanImm g t => Sys2Proof.Machine.execSetspanImm g t s
  | .setspanReg a => Sys2Proof.Machine.execSetspanReg a s
  | .oxl a k x => Sys2Proof.Machine.execOxl a k x s
  | .oxs a x => Sys2Proof.Machine.execOxs a x s
  | .oxr a k x => Sys2Proof.Machine.execOxr a k x s
  | .vld d a m => Sys2Proof.Machine.execVld d a m s
  | .vlds d a b m => Sys2Proof.Machine.execVlds d a b m s
  | .vldx d a b m => Sys2Proof.Machine.execVldx d a b m s
  | .vldxOi d a b m => Sys2Proof.Machine.execVldxOi d a b m s
  | .vst d a m => Sys2Proof.Machine.execVst d a m s
  | .vsts d a b m => Sys2Proof.Machine.execVsts d a b m s
  | .vstx d a b m => Sys2Proof.Machine.execVstx d a b m s
  | .vstxOi d a b m => Sys2Proof.Machine.execVstxOi d a b m s
  | .vappend d a m => Sys2Proof.Machine.execVappend d a m s
  | .vadd d a b m => Sys2Proof.Machine.execVadd d a b m s
  | .vsub d a b m => Sys2Proof.Machine.execVsub d a b m s
  | .vmul d a b m => Sys2Proof.Machine.execVmul d a b m s
  | .vmulh d a b m => Sys2Proof.Machine.execVmulh d a b m s
  | .vmin d a b m => Sys2Proof.Machine.execVmin d a b m s
  | .vmax d a b m => Sys2Proof.Machine.execVmax d a b m s
  | .vand d a b m => Sys2Proof.Machine.execVand d a b m s
  | .vor d a b m => Sys2Proof.Machine.execVor d a b m s
  | .vxor d a b m => Sys2Proof.Machine.execVxor d a b m s
  | .vshl d a b m => Sys2Proof.Machine.execVshl d a b m s
  | .vshr d a b m => Sys2Proof.Machine.execVshr d a b m s
  | .vsra d a b m => Sys2Proof.Machine.execVsra d a b m s
  | .vsel d a b m => Sys2Proof.Machine.execVsel d a b m s
  | .vabs d a m => Sys2Proof.Machine.execVabs d a m s
  | .vneg d a m => Sys2Proof.Machine.execVneg d a m s
  | .vcmpEq d a b m => Sys2Proof.Machine.execVcmpEq d a b m s
  | .vcmpNe d a b m => Sys2Proof.Machine.execVcmpNe d a b m s
  | .vcmpLt d a b m => Sys2Proof.Machine.execVcmpLt d a b m s
  | .vcmpLe d a b m => Sys2Proof.Machine.execVcmpLe d a b m s
  | .vcmpGt d a b m => Sys2Proof.Machine.execVcmpGt d a b m s
  | .vcmpGe d a b m => Sys2Proof.Machine.execVcmpGe d a b m s
  | .vaddVs d a b m => Sys2Proof.Machine.execVaddVs d a b m s
  | .vsubVs d a b m => Sys2Proof.Machine.execVsubVs d a b m s
  | .vmulVs d a b m => Sys2Proof.Machine.execVmulVs d a b m s
  | .vmulhVs d a b m => Sys2Proof.Machine.execVmulhVs d a b m s
  | .vminVs d a b m => Sys2Proof.Machine.execVminVs d a b m s
  | .vmaxVs d a b m => Sys2Proof.Machine.execVmaxVs d a b m s
  | .vandVs d a b m => Sys2Proof.Machine.execVandVs d a b m s
  | .vorVs d a b m => Sys2Proof.Machine.execVorVs d a b m s
  | .vxorVs d a b m => Sys2Proof.Machine.execVxorVs d a b m s
  | .vshlVs d a b m => Sys2Proof.Machine.execVshlVs d a b m s
  | .vshrVs d a b m => Sys2Proof.Machine.execVshrVs d a b m s
  | .vsraVs d a b m => Sys2Proof.Machine.execVsraVs d a b m s
  | .vselVs d a b m => Sys2Proof.Machine.execVselVs d a b m s
  | .vcmpEqVs d a b m => Sys2Proof.Machine.execVcmpEqVs d a b m s
  | .vcmpNeVs d a b m => Sys2Proof.Machine.execVcmpNeVs d a b m s
  | .vcmpLtVs d a b m => Sys2Proof.Machine.execVcmpLtVs d a b m s
  | .vcmpLeVs d a b m => Sys2Proof.Machine.execVcmpLeVs d a b m s
  | .vcmpGtVs d a b m => Sys2Proof.Machine.execVcmpGtVs d a b m s
  | .vcmpGeVs d a b m => Sys2Proof.Machine.execVcmpGeVs d a b m s
  | .vfadd d a b m => Sys2Proof.Machine.execVfadd d a b m s
  | .vfsub d a b m => Sys2Proof.Machine.execVfsub d a b m s
  | .vfmul d a b m => Sys2Proof.Machine.execVfmul d a b m s
  | .vfdiv d a b m => Sys2Proof.Machine.execVfdiv d a b m s
  | .vfmin d a b m => Sys2Proof.Machine.execVfmin d a b m s
  | .vfmax d a b m => Sys2Proof.Machine.execVfmax d a b m s
  | .vfma d a b m => Sys2Proof.Machine.execVfma d a b m s
  | .vfms d a b m => Sys2Proof.Machine.execVfms d a b m s
  | .vfsqrt d a m => Sys2Proof.Machine.execVfsqrt d a m s
  | .vfabs d a m => Sys2Proof.Machine.execVfabs d a m s
  | .vfneg d a m => Sys2Proof.Machine.execVfneg d a m s
  | .vfclass d a m => Sys2Proof.Machine.execVfclass d a m s
  | .vfcmpEq d a b m => Sys2Proof.Machine.execVfcmpEq d a b m s
  | .vfcmpNe d a b m => Sys2Proof.Machine.execVfcmpNe d a b m s
  | .vfcmpLt d a b m => Sys2Proof.Machine.execVfcmpLt d a b m s
  | .vfcmpLe d a b m => Sys2Proof.Machine.execVfcmpLe d a b m s
  | .vfaddVs d a b m => Sys2Proof.Machine.execVfaddVs d a b m s
  | .vfsubVs d a b m => Sys2Proof.Machine.execVfsubVs d a b m s
  | .vfmulVs d a b m => Sys2Proof.Machine.execVfmulVs d a b m s
  | .vfdivVs d a b m => Sys2Proof.Machine.execVfdivVs d a b m s
  | .vfminVs d a b m => Sys2Proof.Machine.execVfminVs d a b m s
  | .vfmaxVs d a b m => Sys2Proof.Machine.execVfmaxVs d a b m s
  | .vfmaVs d a b m => Sys2Proof.Machine.execVfmaVs d a b m s
  | .vfmsVs d a b m => Sys2Proof.Machine.execVfmsVs d a b m s
  | .vfcmpEqVs d a b m => Sys2Proof.Machine.execVfcmpEqVs d a b m s
  | .vfcmpNeVs d a b m => Sys2Proof.Machine.execVfcmpNeVs d a b m s
  | .vfcmpLtVs d a b m => Sys2Proof.Machine.execVfcmpLtVs d a b m s
  | .vfcmpLeVs d a b m => Sys2Proof.Machine.execVfcmpLeVs d a b m s
  | .vcvt d a q m r => Sys2Proof.Machine.execVcvt d a q m r s
  | .vpack d a b m x => Sys2Proof.Machine.execVpack d a b m x s
  | .vunpack d a b m x => Sys2Proof.Machine.execVunpack d a b m x s
  | .vredAdd d a m => Sys2Proof.Machine.execVredAdd d a m s
  | .vredMin d a m => Sys2Proof.Machine.execVredMin d a m s
  | .vredMax d a m => Sys2Proof.Machine.execVredMax d a m s
  | .vredAnd d a m => Sys2Proof.Machine.execVredAnd d a m s
  | .vredOr d a m => Sys2Proof.Machine.execVredOr d a m s
  | .vredXor d a m => Sys2Proof.Machine.execVredXor d a m s
  | .vscanIncAdd d a m => Sys2Proof.Machine.execVscanIncAdd d a m s
  | .vscanIncMin d a m => Sys2Proof.Machine.execVscanIncMin d a m s
  | .vscanIncMax d a m => Sys2Proof.Machine.execVscanIncMax d a m s
  | .vscanIncAnd d a m => Sys2Proof.Machine.execVscanIncAnd d a m s
  | .vscanIncOr d a m => Sys2Proof.Machine.execVscanIncOr d a m s
  | .vscanIncXor d a m => Sys2Proof.Machine.execVscanIncXor d a m s
  | .vscanExcAdd d a m => Sys2Proof.Machine.execVscanExcAdd d a m s
  | .vscanExcMin d a m => Sys2Proof.Machine.execVscanExcMin d a m s
  | .vscanExcMax d a m => Sys2Proof.Machine.execVscanExcMax d a m s
  | .vscanExcAnd d a m => Sys2Proof.Machine.execVscanExcAnd d a m s
  | .vscanExcOr d a m => Sys2Proof.Machine.execVscanExcOr d a m s
  | .vscanExcXor d a m => Sys2Proof.Machine.execVscanExcXor d a m s
  | .vredbs d a b m => Sys2Proof.Machine.execVredbs d a b m s
  | .vxchg d a b m => Sys2Proof.Machine.execVxchg d a b m s
  | .vrot d a b m => Sys2Proof.Machine.execVrot d a b m s
  | .vbcast d a m => Sys2Proof.Machine.execVbcast d a m s
  | .vcompress d a m => Sys2Proof.Machine.execVcompress d a m s
  | .vexpand d a m => Sys2Proof.Machine.execVexpand d a m s
  | .vperm d a b m => Sys2Proof.Machine.execVperm d a b m s
  | .vslideUp d a b m => Sys2Proof.Machine.execVslideUp d a b m s
  | .vslideDn d a b m => Sys2Proof.Machine.execVslideDn d a b m s
  | .mand d a b => Sys2Proof.Machine.execMand d a b s
  | .mor d a b => Sys2Proof.Machine.execMor d a b s
  | .mxor d a b => Sys2Proof.Machine.execMxor d a b s
  | .mnot d a => Sys2Proof.Machine.execMnot d a s
  | .mpop d a => Sys2Proof.Machine.execMpop d a s
  | .mfirst d a => Sys2Proof.Machine.execMfirst d a s
  | .mset d a => Sys2Proof.Machine.execMset d a s
  | .vexp2 d a m => Sys2Proof.Machine.execVexp2 d a m s
  | .vlog2 d a m => Sys2Proof.Machine.execVlog2 d a m s
  | .vrcp d a m => Sys2Proof.Machine.execVrcp d a m s
  | .vrsqrt d a m => Sys2Proof.Machine.execVrsqrt d a m s
  | .vsinpi d a m => Sys2Proof.Machine.execVsinpi d a m s
  | .vcospi d a m => Sys2Proof.Machine.execVcospi d a m s
  | .vtanh d a m => Sys2Proof.Machine.execVtanh d a m s
  | .vsigm d a m => Sys2Proof.Machine.execVsigm d a m s
  | .vrng d a b m => Sys2Proof.Machine.execVrng d a b m s
  | .mma d a b x => Sys2Proof.Machine.execMma d a b x s
  | .mzero d t a => Sys2Proof.Machine.execMzero d t a s
  | .mld d a b t => Sys2Proof.Machine.execMld d a b t s
  | .mst d a x => Sys2Proof.Machine.execMst d a x s
  | .macc d a => Sys2Proof.Machine.execMacc d a s
  | .mrowR d a b => Sys2Proof.Machine.execMrowR d a b s
  | .mrowW d a b => Sys2Proof.Machine.execMrowW d a b s
  | .gor2 d a t z m x => Sys2Proof.Machine.execGor2 d a t z m x s
  | .gor3 d a t z m x => Sys2Proof.Machine.execGor3 d a t z m x s
  | .ginc d a t z m x => Sys2Proof.Machine.execGinc d a t z m x s
  | .gins d a t z m x => Sys2Proof.Machine.execGins d a t z m x s
  | .gsegx d a t z m x => Sys2Proof.Machine.execGsegx d a t z m x s
  | .svc im => Sys2Proof.Machine.execSvc im s
  | .brk im => Sys2Proof.Machine.execBrk im s
  | .eret => Sys2Proof.Machine.execEret s
  | .ifence => Sys2Proof.Machine.execIfence s
  | .done => Sys2Proof.Machine.execDone s
  | .yield => Sys2Proof.Machine.execYield s
  | .hop a => Sys2Proof.Machine.execHop a s
  | .cncl a l => Sys2Proof.Machine.execCncl a l s
  | .ctlr d n => Sys2Proof.Machine.execCtlr d n s
  | .ctlw a n => Sys2Proof.Machine.execCtlw a n s
  | .ctlx d a n => Sys2Proof.Machine.execCtlx d a n s
  | .tlbinv a b => Sys2Proof.Machine.execTlbinv a b s
  | .predctlClr => Sys2Proof.Machine.execPredctlClr s
  | .dispatch die => Sys2Proof.Machine.execDispatch die s
  | .preemption die slot => Sys2Proof.Machine.execPreemption die slot s
  | .quantumExpiry die slot => Sys2Proof.Machine.execQuantumExpiry die slot s
  | .park die slot => Sys2Proof.Machine.execPark die slot s
  | .deepPark strand => Sys2Proof.Machine.execDeepPark strand s
  | .deepRetry strand => Sys2Proof.Machine.execDeepRetry strand s
  | .wakeUp k => Sys2Proof.Machine.execWakeUp k s
  | .nackRetry die slot => Sys2Proof.Machine.execNackRetry die slot s
  | .bwaitPoll die slot => Sys2Proof.Machine.execBwaitPoll die slot s
  | .bwaitTimeout strand => Sys2Proof.Machine.execBwaitTimeout strand s
  | .gformTimeout strand => Sys2Proof.Machine.execGformTimeout strand s
  | .cancelStop strand => Sys2Proof.Machine.execCancelStop strand s
  | .lateMark die packet => Sys2Proof.Machine.execLateMark die packet s
  | .lateTrap die slot => Sys2Proof.Machine.execLateTrap die slot s
  | .migrationArrival k => Sys2Proof.Machine.execMigrationArrival k s
  | .rillClaim k => Sys2Proof.Machine.execRillClaim k s
  | .chunkStart die slot => Sys2Proof.Machine.execChunkStart die slot s
  | .liveout k => Sys2Proof.Machine.execLiveout k s
  | .oxw k => Sys2Proof.Machine.execOxw k s
  | .store k => Sys2Proof.Machine.execStore k s
  | .squash k => Sys2Proof.Machine.execSquash k s
  | .chunkRestart die slot => Sys2Proof.Machine.execChunkRestart die slot s
  | .commit k => Sys2Proof.Machine.execCommit k s
  | .commitListDrain die slot => Sys2Proof.Machine.execCommitListDrain die slot s
  | .rillRelease k => Sys2Proof.Machine.execRillRelease k s
  | .olderVersionLookup die slot loc => Sys2Proof.Machine.execOlderVersionLookup die slot loc s
  | .homeAtomic k => Sys2Proof.Machine.execHomeAtomic k s
  | .homeFeRequest k => Sys2Proof.Machine.execHomeFeRequest k s
  | .homeQueueRequest k => Sys2Proof.Machine.execHomeQueueRequest k s
  | .homeBarrierRequest k => Sys2Proof.Machine.execHomeBarrierRequest k s
  | .homeReply k => Sys2Proof.Machine.execHomeReply k s
  | .pendingStoreArrival k => Sys2Proof.Machine.execPendingStoreArrival k s
  | .collapse k => Sys2Proof.Machine.execCollapse k s
  | .perf k => Sys2Proof.Machine.execPerf k s
  | .cack k => Sys2Proof.Machine.execCack k s
  | .remoteReadRequest k => Sys2Proof.Machine.execRemoteReadRequest k s
  | .replicaFill k => Sys2Proof.Machine.execReplicaFill k s
  | .evictionNotice die line => Sys2Proof.Machine.execEvictionNotice die line s
  | .epochEnd die => Sys2Proof.Machine.execEpochEnd die s
  | .pageWalk who root va => Sys2Proof.Machine.execPageWalk who root va s
  | .tlbinvAck k => Sys2Proof.Machine.execTlbinvAck k s
  | .stripAccept k => Sys2Proof.Machine.execStripAccept k s
  | .stripLand k => Sys2Proof.Machine.execStripLand k s
  | .landing k => Sys2Proof.Machine.execLanding k s
  | .gatherRequest k => Sys2Proof.Machine.execGatherRequest k s
  | .foreignBatch k => Sys2Proof.Machine.execForeignBatch k s
  | .rowActivation bank row served => Sys2Proof.Machine.execRowActivation bank row served s
  | .hotRowWindow die => Sys2Proof.Machine.execHotRowWindow die s
  | .hotRowHoldExpiry die row => Sys2Proof.Machine.execHotRowHoldExpiry die row s
  | .scrub die => Sys2Proof.Machine.execScrub die s
  | .uncorrectableError place => Sys2Proof.Machine.execUncorrectableError place s
  | .nodeHandoff node => Sys2Proof.Machine.execNodeHandoff node s
  | .batchOffer launch die => Sys2Proof.Machine.execBatchOffer launch die s
  | .jobSubmit req => Sys2Proof.Machine.execJobSubmit req s
  | .jobCancel req => Sys2Proof.Machine.execJobCancel req s
  | .jobRelease req => Sys2Proof.Machine.execJobRelease req s
  | .memOpen req => Sys2Proof.Machine.execMemOpen req s
  | .memClose req => Sys2Proof.Machine.execMemClose req s
  | .memRead req => Sys2Proof.Machine.execMemRead req s
  | .memWrite req => Sys2Proof.Machine.execMemWrite req s
  | .rdmaRead die key addr len => Sys2Proof.Machine.execRdmaRead die key addr len s
  | .rdmaWrite die key addr data => Sys2Proof.Machine.execRdmaWrite die key addr data s
  | .ctlRdreg req => Sys2Proof.Machine.execCtlRdreg req s
  | .ctlWrreg req => Sys2Proof.Machine.execCtlWrreg req s
  | .ptpctlWrite req => Sys2Proof.Machine.execPtpctlWrite req s
  | .ctlTlbinv req => Sys2Proof.Machine.execCtlTlbinv req s
  | .ctlGfree req => Sys2Proof.Machine.execCtlGfree req s
  | .ctlFreeze req => Sys2Proof.Machine.execCtlFreeze req s
  | .telRead req => Sys2Proof.Machine.execTelRead req s
  | .telSubscribe req => Sys2Proof.Machine.execTelSubscribe req s
  | .telSample die => Sys2Proof.Machine.execTelSample die s
  | .dbgRead req => Sys2Proof.Machine.execDbgRead req s
  | .dbgWrite req => Sys2Proof.Machine.execDbgWrite req s
  | .dbgHalt req => Sys2Proof.Machine.execDbgHalt req s
  | .dbgResume req => Sys2Proof.Machine.execDbgResume req s
  | .dbgRddir req => Sys2Proof.Machine.execDbgRddir req s
  | .dbgRdbfmt req => Sys2Proof.Machine.execDbgRdbfmt req s
  | .ageRead req => Sys2Proof.Machine.execAgeRead req s
  | .ageRetire req => Sys2Proof.Machine.execAgeRetire req s
  | .cmReq service => Sys2Proof.Machine.execCmReq service s
  | .cmRtu ep => Sys2Proof.Machine.execCmRtu ep s
  | .cmDreq ep => Sys2Proof.Machine.execCmDreq ep s
  | .connectionBroken ep => Sys2Proof.Machine.execConnectionBroken ep s
  | .ecnNotification ep => Sys2Proof.Machine.execEcnNotification ep s
  | .arpRequest ip => Sys2Proof.Machine.execArpRequest ip s
  | .neighbourSolicitation ip => Sys2Proof.Machine.execNeighbourSolicitation ip s
  | .dhcpRenewal => Sys2Proof.Machine.execDhcpRenewal s
  | .ptpMessage offset => Sys2Proof.Machine.execPtpMessage offset s
  | .flitReplay die dir good => Sys2Proof.Machine.execFlitReplay die dir good s
  | .linkDown die dir => Sys2Proof.Machine.execLinkDown die dir s
  | .linkUp die dir => Sys2Proof.Machine.execLinkUp die dir s
  | .fabricTimeout k => Sys2Proof.Machine.execFabricTimeout k s
  | .ualinkPortDown port => Sys2Proof.Machine.execUalinkPortDown port s
  | .ualinkPortUp port => Sys2Proof.Machine.execUalinkPortUp port s
  | .podRequest req => Sys2Proof.Machine.execPodRequest req s
  | .podReply k data => Sys2Proof.Machine.execPodReply k data s
  | .groupRegistration reg => Sys2Proof.Machine.execGroupRegistration reg s
  | .groupConfirm die entry ok => Sys2Proof.Machine.execGroupConfirm die entry ok s
  | .collectivePacket pkt => Sys2Proof.Machine.execCollectivePacket pkt s
  | .abort die handle gen => Sys2Proof.Machine.execAbort die handle gen s
  | .groupTimeout die handle => Sys2Proof.Machine.execGroupTimeout die handle s
  | .memberLost die handle => Sys2Proof.Machine.execMemberLost die handle s
  | .moduleReset => Sys2Proof.Machine.execModuleReset s
  | .bootVerify die report => Sys2Proof.Machine.execBootVerify die report s
  | .linkAuth die dir result => Sys2Proof.Machine.execLinkAuth die dir result s
  | .linkAuthTimeout die dir => Sys2Proof.Machine.execLinkAuthTimeout die dir s
  | .inclusionTimeout => Sys2Proof.Machine.execInclusionTimeout s
  | .ageSample die ring slack => Sys2Proof.Machine.execAgeSample die ring slack s
  | .thermalAlert die temp => Sys2Proof.Machine.execThermalAlert die temp s
  | .thermalClear die temps => Sys2Proof.Machine.execThermalClear die temps s
  | .thermtrip die temp => Sys2Proof.Machine.execThermtrip die temp s
  | .freeze => Sys2Proof.Machine.execFreeze s
  | .tapIdcode => Sys2Proof.Machine.execTapIdcode s
  | .tapBypass => Sys2Proof.Machine.execTapBypass s
  | .scanAccess acc => Sys2Proof.Machine.execScanAccess acc s
  | .mmaRetirement die slot acc => Sys2Proof.Machine.execMmaRetirement die slot acc s
  | .reservedEncoding w => Sys2Proof.Machine.execReservedEncoding w s
  | .instructionFetchFault code addr => Sys2Proof.Machine.execInstructionFetchFault code addr s
  | .reservedOpRequest req => Sys2Proof.Machine.execReservedOpRequest req s
  | .dhcpMessage ip => Sys2Proof.Machine.execDhcpMessage ip s
  | .routerAdvertisement ip => Sys2Proof.Machine.execRouterAdvertisement ip s
  | .ptpDelayRequest => Sys2Proof.Machine.execPtpDelayRequest s

end Sys2Proof.Machine
end

