-- ==== Sys2Proof/Machine/Sequencer.lean ====
section
/-! DEFINITION. The vector sequencer of a core (R396, R397): which instructions pass through it, what each is charged,
and the deficit counter of its slot. Which slot is served next is the agenda's choice (log 1, 84). -/

namespace Sys2Proof.Machine

/-- R396: the instructions of MAJOR 0x20 to 0x2B, 0x30 and 0x38. -/
def seqMajor (iword : BitVec 32) : Bool :=
  let w := iword.toNat
  let major := w / 2 ^ 8 % 64
  w / 2 ^ 14 % 4 == 3 && (decide (0x20 ≤ major ∧ major ≤ 0x2B) || major == 0x30 || major == 0x38)
/-- R396: `qputv`, `qgetv`, `cp`, `gx` and `coll`. -/
def seqTransfer : Instr → Bool
  | .qputv _ _ | .qputvNb _ _ _ | .qgetv _ _ | .qgetvNb _ _ _ => true
  | .cpIn _ _ _ _ | .cpOut _ _ _ _ | .cpTt _ _ _ _ | .gx _ _ _ _ _ _ | .coll _ _ _ _ => true
  | _ => false
/-- R396: does an instruction pass through the sequencer? -/
def sequenced (iword : BitVec 32) (i : Instr) : Bool := seqMajor iword || seqTransfer i

/-- Upper bound of a quotient. -/
def ceilDiv (a b : Nat) : Nat := (a + b - 1) / b

/-- R273: ticks per row of an `mma` by the type of A. -/
def rowTicks (m : Bool) (t : ETy) : Nat :=
  let x := match t with
    | .f64 => 4
    | .f32 => 2
    | _ => 1
  if m then x else 4 * x

/-- R288: ticks of an element at stage 3. -/
def Geo.stage3 (g : Geo) (t : ETy) : Nat :=
  let x : Nat × Nat := match g with
    | .gor2 => (36, 80)
    | .gor3 => (100, 280)
    | .ginc => (140, 400)
    | .gins => (480, 1800)
    | .gsegx => (144, 320)
  if t = .f64 then x.2 else x.1
def geoOf : Instr → Option Geo
  | .gor2 .. => some .gor2
  | .gor3 .. => some .gor3
  | .ginc .. => some .ginc
  | .gins .. => some .gins
  | .gsegx .. => some .gsegx
  | _ => none

/-- R397: the charge of an instruction at issue, in element-beats. -/
def charge (i : Instr) (c : Ctx) : Nat :=
  let rows := c.vl - c.ridx
  let beats (ew : Nat) : Nat := max 1 (ceilDiv (rows * ew) 512)
  match geoOf i with
  | some g => g.points * g.dim * ceilDiv (c.vl * c.et.ew) 512
  | none =>
    match i with
    | .vcvt _ _ t _ _ => beats (max t.ew c.et.ew)
    | .setvl .. | .setspanImm .. | .setspanReg .. | .oxl .. | .oxs .. | .oxr .. => 1
    | .mand .. | .mor .. | .mxor .. | .mnot .. | .mpop .. | .mfirst .. | .mset .. => 1
    | .mma _ _ _ x => rows * rowTicks (Config.isM c.die.val) (matRec c.ox[x].val).t + 16
    | .mld .. | .mst .. | .macc .. => 4 * rows
    | .mzero .. | .mrowR .. | .mrowW .. => 4
    | .qputv .. | .qputvNb .. | .qgetv .. | .qgetvNb .. => max 1 (ceilDiv c.groupLen 64)
    | .gx _ _ _ _ z _ => max 1 (ceilDiv (rows * z.bytes) 64)
    | .cpIn _ _ _ x | .cpOut _ _ _ x | .cpTt _ _ _ x => max 1 (ceilDiv (rows * bits c.ox[x].val 0 11) 64)
    | .coll .. => 1
    | _ => beats c.et.ew

/-- R397: what the elements that an instruction sent to stage 3 add, charged as they leave. -/
def charge3 (i : Instr) (c : Ctx) (n : Nat) : Nat :=
  match geoOf i with
  | some g => n * g.stage3 c.et
  | none => 0

/-- R396: what a turn of a slot adds to its counter. -/
def Ctx.quantum (c : Ctx) : Int := 64 * (c.prio.toNat + 1)
/-- R396: the sequencer goes round the four slots of a core from `cur` until one that is ready has a counter above 0: a turn adds to the
counter of a ready slot and clears that of another. The fuel exceeds the turns that a counter of 32 bits can need. (DEDUCED, log 84) -/
def serveSlots (ready : Fin 4 → Bool) (quantum : Fin 4 → Int) : Nat → Fin 4 → Vector Int 4 → Fin 4 × Vector Int 4
  | 0, cur, v => (cur, v)
  | fuel + 1, cur, v =>
    if ready cur && decide (0 < v[cur]) then (cur, v)
    else
      let next := cur + 1
      serveSlots ready quantum fuel next (v.set next (if ready next then v[next] + quantum next else 0))
def serveFuel : Nat := 2 ^ 28
/-- R396: a charge; a counter that would pass −2^31 stays there. (DEDUCED, log 84) -/
def Ctx.debit (c : Ctx) (n : Nat) : Ctx := { c with deficit := max (c.deficit - n) (-(2 : Int) ^ 31) }

/-- Did the slot complete one 32-bit instruction at its own level? -/
def Ctx.completed (c t : Ctx) : Bool :=
  t.die == c.die && t.slot == c.slot && t.strand == c.strand && t.state == c.state && t.level == c.level && t.pc == c.pc + 4
/-- Is the instruction at hand under way: some elements done, a request sent, a wait begun? -/
def Ctx.underWay (c t : Ctx) : Bool :=
  t.pc == c.pc && (t.ridx != c.ridx || t.part.isSome || t.sent.isSome || t.wait.isSome)
/-- Did it stop at a faulting element? -/
def Ctx.elemTrapped (c t : Ctx) : Bool :=
  (t.pc != c.pc && t.level == .system && t.cause.getLsbD 9 && t.epc == c.pc.setWidth 56 && t.pc == c.ctl.tvec.setWidth 64)
    || (t.chunk.bind fun k => k.held).any fun t => t.elem

/-- R396: the slot after an instruction has been issued from `s` and left `t`: an instruction that the sequencer granted is charged
once; one that something held is not charged, and counts as not ready until it has had another try. (DEDUCED, log 84) -/
def State.charged (s : State) (i : Instr) (t : State) : State :=
  let c := s.me
  let k := t.me
  let same := k.die == c.die && k.slot == c.slot && k.strand == c.strand && k.state != .free
  if !same then t
  else if sequenced c.iword i && (c.completed k || c.underWay k || c.elemTrapped k) then
    let n3 := (t.counter c.die 2 c.slot.val 2 - s.counter c.die 2 c.slot.val 2).toNat
    t.mapMe fun k => { ((if c.granted then k else k.debit (charge i c)).debit (charge3 i c n3)) with granted := k.pc == c.pc, stalled := false }
  else t.mapMe fun k => { k with stalled := sequenced c.iword i && k.pc == c.pc }

end Sys2Proof.Machine
end

