-- ==== Sys2Proof/Machine/Sources.lean ====
section
/-! DEFINITION. The s and ox registers that an instruction reads, for the live-ins of a chunk (R316 to R318). -/

namespace Sys2Proof.Machine

/-- s registers read. -/
def srcS : Instr → List SReg
  | .add _ a b => [a, b]
  | .sub _ a b => [a, b]
  | .and _ a b => [a, b]
  | .or _ a b => [a, b]
  | .xor _ a b => [a, b]
  | .shl _ a b => [a, b]
  | .shr _ a b => [a, b]
  | .sra _ a b => [a, b]
  | .slt _ a b => [a, b]
  | .sltn _ a b => [a, b]
  | .min _ a b => [a, b]
  | .max _ a b => [a, b]
  | .minn _ a b => [a, b]
  | .maxn _ a b => [a, b]
  | .mul _ a b => [a, b]
  | .mulh _ a b => [a, b]
  | .mulhn _ a b => [a, b]
  | .mulhin _ a b => [a, b]
  | .div _ a b => [a, b]
  | .divn _ a b => [a, b]
  | .rem _ a b => [a, b]
  | .remn _ a b => [a, b]
  | .clz _ a => [a]
  | .ctz _ a => [a]
  | .popc _ a => [a]
  | .bswap _ a => [a]
  | .sext _ a _ => [a]
  | .zext _ a _ => [a]
  | .addi _ a _ => [a]
  | .andi _ a _ => [a]
  | .ori _ a _ => [a]
  | .xori _ a _ => [a]
  | .slti _ a _ => [a]
  | .sltni _ a _ => [a]
  | .shli _ a _ => [a]
  | .shri _ a _ => [a]
  | .srai _ a _ => [a]
  | .cMov _ a => [a]
  | .cAdd d a => [d, a]
  | .cAddi d _ => [d]
  | .cLd _ a => [a]
  | .cSt a b => [a, b]
  | .cBeqz a _ => [a]
  | .cBnez a _ => [a]
  | .fadd _ a b _ => [a, b]
  | .fsub _ a b _ => [a, b]
  | .fmul _ a b _ => [a, b]
  | .fdiv _ a b _ => [a, b]
  | .fmin _ a b _ => [a, b]
  | .fmax _ a b _ => [a, b]
  | .fsqrt _ a _ => [a]
  | .fma d a b _ => [d, a, b]
  | .fms d a b _ => [d, a, b]
  | .feq _ a b _ => [a, b]
  | .flt _ a b _ => [a, b]
  | .fle _ a b _ => [a, b]
  | .fclass _ a _ => [a]
  | .fcvt _ a _ _ _ => [a]
  | .beq a b _ => [a, b]
  | .bne a b _ => [a, b]
  | .blt a b _ => [a, b]
  | .bge a b _ => [a, b]
  | .bltn a b _ => [a, b]
  | .bgen a b _ => [a, b]
  | .jlr _ a _ => [a]
  | .fork a _ => [a]
  | .floop a b _ => [a, b]
  | .ldB _ a _ => [a]
  | .ldH _ a _ => [a]
  | .ldW _ a _ => [a]
  | .ldD _ a _ => [a]
  | .ldBn _ a _ => [a]
  | .ldHn _ a _ => [a]
  | .ldWn _ a _ => [a]
  | .stB a b _ => [a, b]
  | .stH a b _ => [a, b]
  | .stW a b _ => [a, b]
  | .stD a b _ => [a, b]
  | .ldAcq _ a _ _ => [a]
  | .stRel a b _ _ => [a, b]
  | .ldFe _ a => [a]
  | .stFe a b => [a, b]
  | .ldFf _ a => [a]
  | .feSet a => [a]
  | .feClr a => [a]
  | .ldPod _ a b _ => [a, b]
  | .stPod d a b _ => [d, a, b]
  | .lr _ a _ => [a]
  | .sc _ a b _ => [a, b]
  | .cas d a b _ => [d, a, b]
  | .amoAdd _ a b _ => [a, b]
  | .amoAnd _ a b _ => [a, b]
  | .amoOr _ a b _ => [a, b]
  | .amoXor _ a b _ => [a, b]
  | .amoMin _ a b _ => [a, b]
  | .amoMax _ a b _ => [a, b]
  | .amoMinn _ a b _ => [a, b]
  | .amoMaxn _ a b _ => [a, b]
  | .amoSwap _ a b _ => [a, b]
  | .amoFadd _ a b _ => [a, b]
  | .rredAdd a b _ => [a, b]
  | .rredAnd a b _ => [a, b]
  | .rredOr a b _ => [a, b]
  | .rredXor a b _ => [a, b]
  | .rredMin a b _ => [a, b]
  | .rredMax a b _ => [a, b]
  | .rredMinn a b _ => [a, b]
  | .rredMaxn a b _ => [a, b]
  | .rredFadd a b _ => [a, b]
  | .binit a b => [a, b]
  | .bpost a b => [a, b]
  | .barr a => [a]
  | .bwait d a b => [d, a, b]
  | .qput a b => [a, b]
  | .qputNb _ a b => [a, b]
  | .qget _ a => [a]
  | .qgetNb _ a _ => [a]
  | .qputv _ a => [a]
  | .qputvNb _ a _ => [a]
  | .qgetv _ a => [a]
  | .qgetvNb _ a _ => [a]
  | .qstat _ a => [a]
  | .qinit a b _ => [a, b]
  | .cpIn d a b _ => [d, a, b]
  | .cpOut d a b _ => [d, a, b]
  | .cpTt d a b _ => [d, a, b]
  | .gx _ a b _ _ _ => [a, b]
  | .rdegPin a _ => [a]
  | .rdegAuto a _ => [a]
  | .rpref a b => [a, b]
  | .gform _ a b => [a, b]
  | .gstat _ a => [a]
  | .coll _ a b _ => [a, b]
  | .cabort a => [a]
  | .setvl _ a => [a]
  | .setspanReg a => [a]
  | .oxl a _ _ => [a]
  | .oxs a _ => [a]
  | .oxr a _ _ => [a]
  | .vld _ a _ => [a]
  | .vlds _ a b _ => [a, b]
  | .vldx _ a _ _ => [a]
  | .vldxOi _ a _ _ => [a]
  | .vst _ a _ => [a]
  | .vsts _ a b _ => [a, b]
  | .vstx _ a _ _ => [a]
  | .vstxOi _ a _ _ => [a]
  | .vappend _ a _ => [a]
  | .vaddVs _ _ b _ => [b]
  | .vsubVs _ _ b _ => [b]
  | .vmulVs _ _ b _ => [b]
  | .vmulhVs _ _ b _ => [b]
  | .vminVs _ _ b _ => [b]
  | .vmaxVs _ _ b _ => [b]
  | .vandVs _ _ b _ => [b]
  | .vorVs _ _ b _ => [b]
  | .vxorVs _ _ b _ => [b]
  | .vshlVs _ _ b _ => [b]
  | .vshrVs _ _ b _ => [b]
  | .vsraVs _ _ b _ => [b]
  | .vselVs _ _ b _ => [b]
  | .vcmpEqVs _ _ b _ => [b]
  | .vcmpNeVs _ _ b _ => [b]
  | .vcmpLtVs _ _ b _ => [b]
  | .vcmpLeVs _ _ b _ => [b]
  | .vcmpGtVs _ _ b _ => [b]
  | .vcmpGeVs _ _ b _ => [b]
  | .vfaddVs _ _ b _ => [b]
  | .vfsubVs _ _ b _ => [b]
  | .vfmulVs _ _ b _ => [b]
  | .vfdivVs _ _ b _ => [b]
  | .vfminVs _ _ b _ => [b]
  | .vfmaxVs _ _ b _ => [b]
  | .vfmaVs _ _ b _ => [b]
  | .vfmsVs _ _ b _ => [b]
  | .vfcmpEqVs _ _ b _ => [b]
  | .vfcmpNeVs _ _ b _ => [b]
  | .vfcmpLtVs _ _ b _ => [b]
  | .vfcmpLeVs _ _ b _ => [b]
  | .vxchg _ _ b _ => [b]
  | .vrot _ _ b _ => [b]
  | .vbcast _ a _ => [a]
  | .vslideUp _ _ b _ => [b]
  | .vslideDn _ _ b _ => [b]
  | .mset _ a => [a]
  | .vrng _ a b _ => [a, b]
  | .mma _ a b _ => [a, b]
  | .mzero _ _ a => [a]
  | .mld _ a b _ => [a, b]
  | .mst _ a _ => [a]
  | .mrowR _ _ b => [b]
  | .mrowW _ _ b => [b]
  | .hop a => [a]
  | .cncl a _ => [a]
  | .ctlw a _ => [a]
  | .ctlx _ a _ => [a]
  | .tlbinv a b => [a, b]
  | _ => []

/-- ox registers read. -/
def srcOx : Instr → List OxReg
  | .qinit _ _ x => [x]
  | .cpIn _ _ _ x => [x]
  | .cpOut _ _ _ x => [x]
  | .cpTt _ _ _ x => [x]
  | .gx _ _ _ _ _ x => [x]
  | .coll _ _ _ x => [x]
  | .oxs _ x => [x]
  | .vpack _ _ _ _ x => [x]
  | .vunpack _ _ _ _ x => [x]
  | .mma _ _ _ x => [x]
  | .mst _ _ x => [x]
  | .gor2 _ _ _ _ _ x => [x]
  | .gor3 _ _ _ _ _ x => [x]
  | .ginc _ _ _ _ _ x => [x]
  | .gins _ _ _ _ _ x => [x]
  | .gsegx _ _ _ _ _ x => [x]
  | _ => []

end Sys2Proof.Machine
end

