-- ==== Sys2Proof/Machine/Issue.lean ====
section
/-! DEFINITION. Issue: what stands between two instructions of a slot (R409, R412), the fetch of a word (R86, R87)
and the live-ins of a chunk (R317, R318); then the instruction's meaning. -/

namespace Sys2Proof.Machine

/-- What a fetch finds. -/
inductive Fetched where
  | bytes (b : List Byte)
  | fault (code : BitVec 8) (addr : Word)
  | need (p : Place) (line : Nat)
  /-- The PTE has changed at its home: the translation is dropped and walked again (R368). -/
  | rewalk (e : TlbEntry)
  deriving DecidableEq, Repr

/-- A byte as a fetch of a slot sees it (R156, R297): in a line that the slot's fetch buffer or the core's L1I holds, else as a load
of the slot would. (DESIGN CHOICE, log 10) -/
def State.fetchByte (s : State) (c : Ctx) (loc : Nat) : Seen :=
  match (s.die c.die).icopies.find? fun i => i.of c.slot && i.line.line == lineOf loc with
  | some i => .byte ((i.line.data[loc % 256]?).getD none)
  | none => s.seenByte c loc

/-- A halfword of the instruction stream; a DEV page is uncached (R171). (DEDUCED, log 7) (DESIGN CHOICE, log 10) -/
def State.fetchHalf (s : State) (va : Word) : Fetched :=
  match s.fetchPlace s.me va.toNat with
  | .error f => .fault f va
  | .ok p =>
    match p.pte.filter fun e => s.pteStale e false with
    | some e => .rewalk e
    | none =>
    if isDevice p.loc then .bytes ((upFrom p.loc 2).map s.devByte)
    else if p.dev then .bytes ((upFrom p.loc 2).map fun a => unlost (s.homeByte a))
    else
      match gatherBytes (s.fetchByte s.me) p.loc 2 with
      | .data bs => .bytes (bs.map unlost)
      | .need l => .need p l

/-- R86: two or four bytes at the PC. -/
def State.fetch (s : State) : Fetched :=
  match s.fetchHalf s.me.pc with
  | .bytes b =>
    if isLong (ofBytes b) then
      match s.fetchHalf (s.me.pc + 2) with
      | .bytes b' => .bytes (b ++ b')
      | x => x
    else .bytes b
  | x => x

/-- One live-in that an instruction reads (R317): already there, predicted, or still to come. -/
def State.liveIn (s : State) (r : SReg) : Option State :=
  match s.me.chunk with
  | none => some s
  | some k =>
    if k.oldest || r == 0 || k.wrote.getLsbD r.val then some s
    else if k.pred.any fun p => p.1 == r.val then some s
    else if k.fin.getLsbD r.val then
      some (s.mapMe fun c => { c with chunk := some { k with rx := k.rx ||| bit32 r, pred := (r.val, c.s[r]) :: k.pred } })
    else if !s.me.ctl.predctl.getLsbD 0 || s.me.ctl.predctl.getLsbD r.val then none
    else
      match s.pred? s.me, s.me.regionOf s with
      | some t, some g =>
        match predict t k.j g.passed r with
        | some x =>
          let s := s.count s.me.die 1 (ringOf s.me.slot) 6 1
          some (s.mapMe fun c => { c with s := c.s.set r x, chunk := some { k with rx := k.rx ||| bit32 r, pred := (r.val, x) :: k.pred } })
        | none => none
      | _, _ => none

def State.liveIns (s : State) : List SReg → Option State
  | [] => some s
  | r :: rs =>
    match s.liveIn r with
    | some s => s.liveIns rs
    | none => none

/-- A read of a live-in that waits is counted once (R317, R329). -/
def State.noteWaited (s : State) (regs : List SReg) : State :=
  match s.me.chunk, regs.find? fun r => (s.liveIn r).isNone with
  | some k, some r =>
    if k.waited.getLsbD r.val then s
    else (s.count s.me.die 1 (ringOf s.me.slot) 7 1).mapMe fun c => { c with chunk := some { k with waited := k.waited ||| bit32 r } }
  | _, _ => s

/-- R318: an ox register is read when no OXW of an older chunk for it is on its way toward the core. -/
def State.oxReady (s : State) (x : OxReg) : Bool :=
  match s.me.chunk with
  | none => true
  | some k => k.oldest || k.oxWrote.getLsbD x.val || !s.net.any fun p =>
      match p with
      | .rill d ring origin hops st j (.oxw r _) =>
        d == s.me.die && ring == ringOf s.me.slot && st == s.me.strand && decide (j < k.j) && r == x && decide (hops < hopsTo origin (coreOf s.me.slot))
      | _ => false
def State.noteOx (s : State) (xs : List OxReg) : State :=
  match s.me.chunk with
  | none => s
  | some k => s.mapMe fun c =>
      let new := xs.filter fun x => !k.oxWrote.getLsbD x.val && !k.oxRead.getLsbD x.val
      { c with chunk := some { k with oxRead := new.foldl (fun m x => m ||| BitVec.ofNat 8 (2 ^ x.val)) k.oxRead,
                                      oxVals := (new.map fun x => (x.val, c.ox[x])) ++ k.oxVals } }

/-- The live-ins of an instruction read; none while one is to be waited for. -/
def State.readLiveIns (s : State) (i : Instr) : Option State :=
  if s.me.speculative then
    if (srcOx i).all s.oxReady then (s.liveIns (srcS i)).map fun s => s.noteOx (srcOx i) else none
  else some s

/-- R396: has a slot of the core an instruction for the sequencer that nothing holds? (DEDUCED, log 84) -/
noncomputable def State.seqReady (s : State) (c : Ctx) : Bool :=
  (c.state == .running || (c.regionOf s).any fun r => r.slots.contains c.slot) && c.sent.isNone && c.wait.isNone && c.stopReq.isNone && !c.stalled
    && c.chunk.all (fun k => !k.restart && !k.ended && k.held.isNone)
    && match (s.focus c.die c.slot).fetch with
      | .bytes b =>
        match decode b with
        | .ok (i, _) => sequenced (BitVec.ofNat 32 (ofBytes b)) i
        | .error _ => false
      | _ => false
/-- The slot `k` of the core of the slot `me`. -/
def Ctx.neighbour (c : Ctx) (k : Fin 4) : SlotNo := Fin.ofNat 256 (c.slot.val / 4 * 4 + k.val)
/-- Which slot of a core the counter of its sequencer belongs to. -/
def Ctx.seqIx (c : Ctx) : Fin 4 := Fin.ofNat 4 c.slot.val
def Ctx.coreIx (c : Ctx) : Fin 64 := Fin.ofNat 64 (c.slot.val / 4)
/-- R396: the sequencer of the core serves its slots until it comes to one that is ready with a counter above 0: the slot `me`, whose
instruction is ready, or another, for which it waits. (DEDUCED, log 84) -/
noncomputable def State.serveCore (s : State) : State × Bool :=
  let c := s.me
  let ctx (k : Fin 4) : Option Ctx := s.ctx? c.die (c.neighbour k)
  let r := serveSlots (fun k => k == c.seqIx || (ctx k).any s.seqReady) (fun k => ((ctx k).map Ctx.quantum).getD 0) serveFuel
    (s.die c.die).turns[c.coreIx] (Vector.ofFn fun k => ((ctx k).map fun o => o.deficit).getD 0)
  let s := s.mapDie c.die fun d => { d with turns := d.turns.set c.coreIx r.1 }
  ((upFrom 0 4).foldl (fun s k => s.mapCtx c.die (c.neighbour (Fin.ofNat 4 k)) fun o => { o with deficit := r.2[Fin.ofNat 4 k] }) s, r.1 == c.seqIx)
/-- R396: may an instruction go on: it does not pass through the sequencer, has been granted before, or is granted now? (DEDUCED, log 84) -/
noncomputable def State.grant (s : State) (i : Instr) : State × Bool :=
  if sequenced s.me.iword i && !s.me.granted then s.serveCore else (s, true)

/-- What the fetch of a halfword leaves: its packet and that of its walk (R400), and A (R368). -/
def State.noteFetchAt (s : State) (va : Word) : State :=
  match s.fetchPlace s.me va.toNat with
  | .ok p => (if (s.die s.me.die).icopies.any fun i => i.of s.me.slot && i.line.line == lineOf p.loc then s else s.noteDue p).markAccess p false
  | .error _ => s
/-- What the fetch of the word at the PC leaves; its second half may lie in another page. -/
def State.noteFetch (s : State) : State :=
  let s := s.noteFetchAt s.me.pc
  if s.me.iword.toNat / 2 ^ 14 % 4 = 3 ∧ (s.me.pc.toNat + 2) % 65536 = 0 then s.noteFetchAt (s.me.pc + 2) else s

/-- An instruction issued: its turn at the sequencer (R396), its effect, and what it is charged. -/
noncomputable def State.issued (s : State) (i : Instr) : Res :=
  let (s, go) := s.grant i
  if !go then .next s
  else
    match exec i s with
    | .next t => .next (s.charged i t)
    | x => x

/-- The word at the PC issued. -/
noncomputable def State.issueWord (s : State) : Res :=
  match s.fetch with
  | .need p l => .next (s.askLine p l)
  | .rewalk e => .next (s.dropEntry s.me.die e)
  | .fault code addr => exec (.instructionFetchFault code addr) s
  | .bytes b =>
    let s := s.mapMe fun c => { c with iword := BitVec.ofNat 32 (ofBytes b) }
    match decode b with
    | .error _ => exec (.reservedEncoding (word (ofBytes b))) s
    | .ok (i, _) =>
      match s.readLiveIns i with
      | some s => (if s.me.part.isSome ∨ s.me.wait.isSome ∨ s.me.answer.isSome ∨ s.me.stalled then s else s.noteFetch).issued i
      | none => .next (s.noteWaited (srcS i))

/-- What stands at a boundary before the next word, in the order of R409. An instruction that is under way, whose answer has come
from its home, which stands within an element group, or which ends the strand and has begun, goes on first (R32, R124, R229). -/
noncomputable def State.boundary (s : State) : Res :=
  let c := s.me
  if c.answer.isSome ∨ c.part.isSome ∨ c.ending then s.issueWord
  else if c.stepDue ∧ c.step ∧ c.level = .strand then .next (s.trap (.of cBRK 0x800))
  else if c.lateDue then .next s.takeLate
  else if s.watch c 1 c.pc.toNat 2 then .next (s.trap (.of cWATCH c.pc))
  else s.issueWord

/-- A stop that a slot may take now (R412, R413): at strand level, in the oldest chunk, with no request at its home, no `done` and no
`cncl` of itself begun (R124), no element group begun (R229), and no chunk at the weir. -/
def Ctx.stopDue (c : Ctx) : Option (BitVec 4) :=
  match c.stopReq with
  | some code =>
    if c.level = .strand ∧ !c.speculative ∧ !c.ending ∧ c.answer.isNone ∧ c.part.isNone ∧ c.chunk.all (fun k => !k.ended) then some code else none
  | none => none

/-- The turn of the slot `me`: nothing for a free slot, one whose request is at its home, and a squashed chunk; then a stop that is
due; LATE, which an instruction that waits is left for (R167, R401); nothing for one that waits; a held trap for a chunk that has
become oldest (R411), after LATE (R409); the weir for a chunk that has ended; else the next instruction. A chunk that its region has
squashed under exit does nothing until SQUASH reaches it. A fork image that has found no room yet goes on entering first (R326).
(DEDUCED, log 51, 83) (DESIGN CHOICE, log 105) -/
noncomputable def State.issue (s : State) : Res :=
  let s := if s.me.state = .running then s.imageStep else s
  let c := s.me
  if c.state = .free ∨ (c.state = .claimed ∧ !(c.regionOf s).any fun r => r.slots.contains c.slot) then .next s
  else if c.sent.isSome then .next s
  else if c.chunk.any (fun k => k.restart) then .next s
  else
    match c.stopDue with
    | some code => .next (s.stopNow code.toNat)
    | none =>
      if c.wait.any (fun w => !w.woken) then .next (if c.lateDue then s.takeLate else s)
      else
        match c.chunk with
        | none => s.boundary
        | some k =>
          match k.held with
          | some t => .next (if k.oldest then (if c.lateDue then s.takeLate else s.takeTrap t true) else s)
          | none => if k.ended then .next (if k.oldest then s.weirPass c else s.sendLiveouts c) else s.boundary

end Sys2Proof.Machine
end

