-- ==== Sys2Proof/Machine/Turns.lean ====
section
/-! DEFINITION. Turns: what the agenda names moves next (log 1); with an empty agenda the slot `me` issues. -/

namespace Sys2Proof.Machine

/-- R470, R471: what acts on a frozen module: reset and the test access port. -/
def actsFrozen : Instr → Bool
  | .moduleReset => true
  | .tapIdcode => true
  | .tapBypass => true
  | .scanAccess _ => true
  | _ => false

/-- Elements between two boundaries at which the word of an element-wise instruction can stop (R39, R229, R289); the
memory phase of an `mma` stops between rows (R272). None for a whole instruction and for a word of 16 bits. (DEDUCED, log 87) -/
def groupSize (iword : BitVec 32) (ew : Nat) : Option Nat :=
  let w := iword.toNat
  let major := w / 2 ^ 8 % 64
  let f3 := w % 8
  if w / 2 ^ 14 % 4 ≠ 3 then none
  else if [0x21, 0x22, 0x23, 0x24, 0x25, 0x2A, 0x2B, 0x38].contains major || (major == 0x28 && f3 == 2 && w / 2 ^ 16 % 8 == 0) then some (512 / ew)
  else if major == 0x30 && f3 == 0 then some 1
  else none

/-- `vappend`: its register is written only when it completes (R241). -/
def isVappend (iword : BitVec 32) : Bool := iword.toNat / 2 ^ 8 % 256 == 0xE1 && iword.toNat % 8 == 6

/-- The slot `me` with VL lowered to a boundary, as if the instruction ended there. (DEDUCED, log 87) -/
def State.upTo (s : State) (b : Nat) : State := s.mapMe fun c => { c with img := { c.img with vl := BitVec.ofNat 9 b } }

/-- R229, R272: what stands once the groups below a boundary are done: the instruction is still the next one, granted and charged in
full (R396), RIDX names the first element of the next group, and the lock of an `mma` whose rows have drained is clear. (DEDUCED, log 87) -/
def State.stopAt (t : State) (i : Instr) (c : Ctx) (b : Nat) : State :=
  let rest := if c.granted then 0 else charge i c - charge i { c with img := { c.img with vl := BitVec.ofNat 9 b } }
  t.mapMe fun k =>
    let k := { k.debit rest with granted := true }
    let k := if k.mmaAcc.isSome then k.retireMma else k
    let k := if isVappend k.iword then { k with s := c.s, dirty := { k.dirty with s := c.dirty.s } } else k
    { k with img := { k.img with vl := c.img.vl, ridx := BitVec.ofNat 9 b }, pc := c.pc, wend := c.wend, nowatch := c.nowatch, stepDue := c.stepDue }

/-- The next `n` element groups of the instruction at hand, and no more; nothing where that is no such instruction, where
it would complete, and where one of those groups waits or traps, or it is a `vappend` of a chunk. (DEDUCED, log 87) -/
noncomputable def State.partWay (s : State) (n : Nat) : State :=
  let c := s.me
  let part (i : Instr) (size : Nat) : State :=
    let b := (c.ridx / size + n) * size
    if c.ridx < b ∧ b < c.vl ∧ !(size == 1 && decide (64 < c.vl)) then
      match (s.upTo b).issue with
      | .next t => if c.completed t.me && (c.chunk.isNone || !isVappend t.me.iword) then t.stopAt i c b else s
      | _ => s
    else s
  match s.fetch with
  | .bytes bs =>
    match groupSize (BitVec.ofNat 32 (ofBytes bs)) c.et.ew, decode bs with
    | some size, .ok (i, _) => part i size
    | _, _ => s
  | _ => s

/-- Lines of an L1I, the latest taken first, at most as many as it holds (R1); fetch buffers stay. (DESIGN CHOICE, log 10) -/
def trimCopies (l : List ICopy) (ring core : Nat) : List ICopy :=
  let mine (i : ICopy) : Bool := i.slot.isNone && i.ring == ring && i.core == core
  ((l.filter mine).take Config.l1iLines) ++ l.filter fun i => !mine i
/-- A slot takes the line at its PC into its fetch buffer, and its core into its L1I where it lacks it (R156); a DEV page is uncached.
Nothing where a byte of the line is still to be read at a remote home. (DESIGN CHOICE, log 10) -/
def State.takeLine (s : State) (d : DieId) (k : SlotNo) : State :=
  let c := s.ctx d k
  match s.fetchPlace c c.pc.toNat with
  | .error _ => s
  | .ok p =>
    if p.dev || isDevice p.loc then s
    else
      let line := lineOf p.loc
      let r := ringOf k
      let q := coreOf k
      let put (s : State) (bs : List (Option Byte)) (l1i : List ICopy) : State :=
        s.mapDie d fun x => { x with icopies := trimCopies (⟨r, q, some k, ⟨line, bs⟩⟩ :: l1i ++ x.icopies.filter fun i => i.slot != some k) r q }
      match (s.die d).icopies.find? fun i => i.slot.isNone && i.ring == r && i.core == q && i.line.line == line with
      | some i => put s i.line.data []
      | none =>
        match gatherBytes (fun a => s.dieByte d none [] a) line 256 with
        | .need _ => s
        | .data bs => put s bs [⟨r, q, none, ⟨line, bs⟩⟩]

/-- Time passes; what is in flight grows older (R440). (DESIGN CHOICE, log 66) -/
def State.pass (s : State) (n : Nat) : State := { s with stamps := restamp (s.net.map Packet.txn) s.stamps s.tick, tick := s.tick + n }

/-- One turn of the agenda. (DESIGN CHOICE, log 1, 5) -/
noncomputable def State.turn (s : State) : Turn → Res
  | .slot d k => if s.pins.frozen then .fault .frozen else .next (s.focus d k)
  | .pass n => if s.pins.frozen then .fault .frozen else .next (s.pass n)
  | .fetchLine d k => if s.pins.frozen then .fault .frozen else .next (s.takeLine d k)
  | .groups n => if s.pins.frozen then .fault .frozen else .next (s.partWay n)
  | .event i =>
    if !(i.isEvent && i.wf) then .refused .badTurn
    else if s.pins.frozen && !actsFrozen i then .fault .frozen
    else
      match exec i s with
      | .next t => .next (s.countFlits t)
      | x => x

/-- One step. (DESIGN CHOICE, log 1) -/
noncomputable def State.takeStep (s : State) : Res :=
  match s.agenda with
  | t :: rest => ({ s with agenda := rest } : State).turn t
  | [] =>
    if s.pins.frozen then .fault .frozen
    else if s.phase = .bootFailed then .fault .bootFailed
    else s.issue

/-- Every die present and every link up, so that nothing the instruction reaches is absent for want of a boot (log 9). -/
def State.bringUp (s : State) : State :=
  { s with dies := s.dies.map fun d => { d with present := true, icopies := [] }, phase := .running,
           links := s.links.map fun l => { l with passed := true, heard := true, up := true } }

/-- Placing an instruction: into the tile store of the slot's own ring at offset 0, the PC its relative
window address (R45); the slot runs; nothing else is due (log 9). -/
def State.placeWord (s : State) (nbits w : Nat) : State :=
  let s := s.bringUp
  let loc := tileLoc s.me.die.val (ringOf s.me.slot) 0
  { s with agenda := [], mem := memWrite s.mem loc (bytesOf 4 (w % 2 ^ nbits)),
           me := { s.me with state := .running, pc := 0x00A0000000000000, chunk := none, wait := none, sent := none, answer := none,
                             part := none, ending := false,
                             stopReq := none, stepDue := false, latem := false, nowatch := true } }

end Sys2Proof.Machine
end

