-- ==== Sys2Proof/Machine/Step.lean ====
section
/-! DEFINITION. One step of the machine, and the placing of an instruction where the next step fetches it. -/

namespace Sys2Proof.Machine

/-- One step: the next turn of the agenda, or the instruction of the slot whose turn it is. -/
noncomputable def step (s : State) : Host.Outcome State Fault Refusal := s.takeStep

/-- The state with an instruction where `step` fetches its next one (log 9). -/
def State.withFetchWord (s : State) (nbits w : Nat) : State := s.placeWord nbits w

end Sys2Proof.Machine
end

