-- ==== Sys2Proof/Safety.lean ====
section
/-! DEFINITION. What statements mean by completing, by leaving the rest unchanged, and by a sound state. -/

namespace Sys2Proof.Machine

/-- The memory keeps its canonical form (log 3). -/
def State.MemOk (s : State) : Prop := Memory.wf s.mem = true

/-- `i` answers a next state, and that state satisfies `P`. -/
def Completes (i : Instr) (s : State) (P : State → Prop) : Prop := ∃ t, exec i s = .next t ∧ P t

/-! ### Frames. A frame is an equation between two states with the parts that may change taken out of both. -/

/-- A chunk without what moving past an instruction may change in it: the registers written, the call depth (R142),
and whether it has ended or is final. -/
def Chunk.core (k : Chunk) : Chunk := { k with wrote := 0, depth := 0, final := false, ended := false }
/-- A slot without the program counter, without what an instruction in progress keeps until it completes, and without the note
of late packets (R400). -/
def Ctx.still (c : Ctx) : Ctx :=
  { c with pc := 0, wait := none, sent := none, answer := none, lines := [], wend := none, nowatch := false,
           stepDue := false, granted := false, stood := none, overdue := 0, stalled := false, cols := 0, groupFmt := none,
           chunk := c.chunk.map Chunk.core }
/-- Taking out s0 to s31, with the dirty bit of class s. -/
def Ctx.noS (c : Ctx) : Ctx := { c with s := Vector.replicate 32 0, dirty := { c.dirty with s := false } }
/-- Taking out FLAGS. -/
def Ctx.noFlags (c : Ctx) : Ctx := { c with img := { c.img with flags := 0 } }
/-- Taking out v0 to v31, with the dirty and live bits of class v. -/
def Ctx.noV (c : Ctx) : Ctx :=
  { c with img := { c.img with v := Vector.replicate 32 0 }, dirty := { c.dirty with v := false }, live := { c.live with v := false } }
/-- Taking out m0 to m7, with the dirty and live bits of class m. -/
def Ctx.noM (c : Ctx) : Ctx :=
  { c with img := { c.img with m := Vector.replicate 8 0 }, dirty := { c.dirty with m := false }, live := { c.live with m := false } }
/-- Taking out RIDX. -/
def Ctx.noRidx (c : Ctx) : Ctx := { c with img := { c.img with ridx := 0 } }
/-- Taking out VL and SPAN. -/
def Ctx.noSpan (c : Ctx) : Ctx := { c with img := { c.img with vl := 0, span := 0 } }
/-- Taking out the accumulators, with the dirty and live bits of their class. -/
def Ctx.noAcc (c : Ctx) : Ctx :=
  { c with img := { c.img with acc := Vector.replicate 4 Acc.zero }, dirty := { c.dirty with acc := false }, live := { c.live with acc := false } }

/-- Everything outside the slot whose turn it is: the other slots, the regions, memory, every die, link and message. -/
def State.outside (s : State) : State := { s with me := Ctx.reset 0 0 }

/-- Nothing but the slot's parts that `e` takes out, its program counter and its chunk's progress has changed; in
particular every byte of memory reads as before. -/
structure Keeps (s t : State) (e : Ctx → Ctx) : Prop where
  outside : t.outside = s.outside
  slot : e t.me.still = e s.me.still
  memory : ∀ a, memGet t.mem a = memGet s.mem a

/-- Scalar register `d` holds `x` and every other register its old value; s0 discards writes and reads 0 (R37). -/
def WroteS (s t : State) (d : SReg) (x : Word) : Prop := ∀ r, t.getS r = if r = d ∧ d ≠ 0 then x else s.getS r

/-- The program counter is `n` bytes further on. -/
def Passed (s t : State) (n : Nat) : Prop := t.me.pc = s.me.pc + word n

/-- A result in one scalar register, and nothing else: the whole effect of a plain scalar instruction. -/
def ScalarResult (s t : State) (d : SReg) (x : Word) (n : Nat) : Prop := WroteS s t d x ∧ Passed s t n ∧ Keeps s t Ctx.noS

/-! ### Accesses -/

/-- Taking out the performance counters (R433). -/
def State.uncounted (s : State) : State := { s with ctr := [] }
/-- Taking out the REMOTE bits of tile-store lines (R333). -/
def State.noRemote (s : State) : State := { s with dies := s.dies.map fun d => { d with remote := [] } }
/-- Taking out what a die's slices hold: which lines stand in the shared and the memory-side cache, the replicas among them, and the
pointers of the directories to those (R336 to R339, R357). -/
def State.uncached (s : State) : State :=
  { s with dies := s.dies.map fun d => { d with shared := [], memside := [], replicas := [], dir := [] } }
/-- Taking out what a read leaves outside its slot: counts, REMOTE bits, lines of the slices. -/
def State.traceless (s : State) : State := s.uncounted.noRemote.uncached
/-- Taking out the counts of stores that are not settled (R346). -/
def Ctx.noCounts (c : Ctx) : Ctx := { c with perfPend := 0, colPend := Vector.replicate 16 0, rredPend := 0, rredDev := [] }
/-- Taking out what a chunk notes of its reads and writes (R314, R315). -/
def Ctx.noNotes (c : Ctx) : Ctx :=
  { c with chunk := c.chunk.map fun k => { k with wr := [], valid := [], er := [], commit := [], ordered := [], marks := [], pred := [], oxVals := [] } }

/-- R368: the access has no A or D bit to set. -/
def Place.Marked (p : Place) (write : Bool) : Prop := ∀ e, p.pte = some e → pteA e.pte = true ∧ (write = true → pteD e.pte = true)
/-- An aligned access of `n` bytes passes its checks (R162, R163), nothing pending makes it wait, and it leads to `p`. -/
def State.Reaches (s : State) (k : AccessKind) (spaces : Nat) (va : Word) (n : Nat) (p : Place) : Prop :=
  va.toNat % n = 0 ∧ s.look k spaces va n = .ok p ∧ p.Marked k.writes
/-- A location of DRAM or of a tile store whose home is the slot's own die. -/
def State.Near (s : State) (loc : Nat) : Prop := isDevice loc = false ∧ homeOf loc = s.me.die
/-- No chunk of any slot has read one of `n` bytes early (R314). -/
def State.Unread (s : State) (loc n : Nat) : Prop :=
  ∀ c ∈ s.me :: s.others, ∀ k, c.chunk = some k → ∀ q ∈ k.er, ¬ (q < loc + n ∧ loc < q + 32)
/-- None of `n` bytes is uncorrectable (R4). -/
def State.Sound (s : State) (loc n : Nat) : Prop := ∀ a, loc ≤ a → a < loc + n → a ∉ s.lost
/-- `n` bytes of memory as a number, the first least significant (R7). -/
def numAt (m : List Host.Cell) (loc n : Nat) : Nat := ofBytes (memBytes m loc n)
/-- The low `n` bytes of a number stand at `loc`, the first least significant, and every other byte reads as before. -/
def Stored (s t : State) (loc n x : Nat) : Prop :=
  ∀ a, memGet t.mem a = if loc ≤ a ∧ a < loc + n then BitVec.ofNat 8 (x / 256 ^ (a - loc)) else memGet s.mem a
/-- The slot is as before but for the parts `e` takes out and its counts of stores. -/
def SlotKept (s t : State) (e : Ctx → Ctx) : Prop := e t.me.still.noCounts = e s.me.still.noCounts
/-- No slot runs a forked region. -/
def State.Serial (s : State) : Prop := s.me.chunk = none ∧ ∀ c ∈ s.others, c.chunk = none
/-- An access to a location squashes no chunk by what it evicts: its slice holds the line or has a way for it, or no chunk runs (R339). -/
def State.Roomy (s : State) (loc : Nat) : Prop :=
  ((s.die s.me.die).shared.any fun l => l.line == lineOf loc) = true ∨ (s.setWays s.me.die (lineOf loc)).length < Config.sliceWays ∨ s.Serial
/-- An operation at `va` on `n` bytes of DRAM homed on the slot's own die: its checks pass, no region is running, nothing is
awaited, and the strand's counts of stores have room for its write (R346). -/
def State.AtHome (s : State) (k : AccessKind) (va : Word) (n : Nat) (p : Place) : Prop :=
  s.me.answer = none ∧ s.Serial ∧ s.Reaches k 0 va n p ∧ isDram p.loc = true ∧ homeOf p.loc = s.me.die ∧ s.countRoom s.me.strand 1 = true
/-- The bytes at `loc` are those of `bs`, and every other byte reads as before. -/
def StoredBytes (s t : State) (loc : Nat) (bs : List Byte) : Prop :=
  ∀ a, memGet t.mem a = if loc ≤ a ∧ a < loc + bs.length then (bs[a - loc]?).getD 0 else memGet s.mem a
/-- Every byte of memory reads as before. -/
def SameMemory (s t : State) : Prop := ∀ a, memGet t.mem a = memGet s.mem a
/-- The bytes at `loc` are those of `bs`, those at `loc'` outside them are those of `bs'`, and every other byte reads as before. -/
def StoredBoth (s t : State) (loc : Nat) (bs : List Byte) (loc' : Nat) (bs' : List Byte) : Prop :=
  ∀ a, memGet t.mem a = if loc ≤ a ∧ a < loc + bs.length then (bs[a - loc]?).getD 0
    else if loc' ≤ a ∧ a < loc' + bs'.length then (bs'[a - loc']?).getD 0 else memGet s.mem a

/-! ### Vector registers, masks and operand-extension registers -/

/-- Element `i` of width `ew` of the group at `r` holds `f i` where that is given, and every other element of v0 to v31 of
that width its old value. -/
def WroteV (s t : State) (r : VReg) (ew : Nat) (f : Nat → Option Nat) : Prop :=
  ∀ i, i < 65536 / ew → elemGet t.me.img.v 0 ew i =
    match (if r.val * (2048 / ew) ≤ i then f (i - r.val * (2048 / ew)) else none) with
    | some x => x % 2 ^ ew
    | none => elemGet s.me.img.v 0 ew i
/-- SPAN names a supported pair, VL is within VLMAX, the named groups start at multiples of G, and no `mma` is in flight
(R39, R42, R102). -/
def State.SpanOk (s : State) (regs : List VReg) : Prop :=
  s.me.spanIF = false ∧ s.me.vl ≤ s.me.vlmax ∧ regs.all s.me.groupOk = true ∧ s.me.mmaAcc = none
/-- An ox register holds a record of a kind that passes its static checks (R107, R108). -/
def State.OxHolds (s : State) (x : OxReg) (k : OxKind) (v : Word) : Prop :=
  s.me.ox[x].kind.toNat = k.code ∧ s.me.ox[x].bad = false ∧ s.me.ox[x].val = v
/-- Taking out the interlock table. -/
def Ctx.noIlk (c : Ctx) : Ctx := { c with ilk := [] }
/-- Taking out the operand-extension registers and the dirty bit of their class. -/
def Ctx.noOx (c : Ctx) : Ctx := { c with ox := Vector.replicate 8 ⟨0, 0, false⟩, dirty := { c.dirty with ox := false } }
/-- Taking out the chunk. -/
def Ctx.noChunk (c : Ctx) : Ctx := { c with chunk := none }
/-- The translations of planned rows have no A or D bit to set. -/
def RowPlan.Marked (r : RowPlan) : Prop := (∀ p ∈ r.reads, p.Marked false) ∧ ∀ p ∈ r.writes, p.Marked true

/-! ### Elements -/

/-- Mask register `d` has `f i` as its bit `i` where that is given; other bits and other mask registers read as before, and
m0 reads ones (R37). -/
def WroteM (s t : State) (d : MReg) (f : Nat → Option Bool) : Prop :=
  ∀ r i, i < 256 → t.me.active r i = if r = d ∧ d ≠ 0 then (f i).getD (s.me.active d i) else s.me.active r i
/-- The elements of an element-wise instruction: active, below VL and not below RIDX (R228, R229). -/
def Ctx.acts (c : Ctx) (m : MReg) (i : Nat) : Bool := decide (c.ridx ≤ i) && decide (i < c.vl) && c.active m i
/-- An access to a location evicts no replica that other accesses of the same instruction may read: its line stands in the slice, or is
no line of a slice; or the die holds no replica and no chunk runs (R339). -/
def State.Calm (s : State) (loc : Nat) : Prop :=
  ((s.die s.me.die).shared.any fun l => l.line == lineOf loc) = true ∨ isDram loc = false ∨ (s.Serial ∧ (s.die s.me.die).replicas = [])
/-- A plain read of `n` bytes can be performed now and gives `x`, in address spaces `spaces`. -/
def State.ReadsIn (s : State) (spaces : Nat) (va : Word) (n x : Nat) : Prop :=
  ∃ p bs, s.look .r spaces va n = .ok p ∧ p.Marked false ∧ s.Calm p.loc ∧ s.loadBytes p n = .data (bs.map some) ∧ x = ofBytes bs
/-- Such a read of a load. -/
def State.Reads (s : State) (va : Word) (n x : Nat) : Prop := s.ReadsIn 2 va n x
/-- An element at a bit position of a bank, in the type of SPAN, with the flags of its conversion (R74, R75, R238). -/
def State.Element (s : State) (base : Word) (bank : Option (ETy × Nat)) (m : VMode) (bit : Int) (r : FRes) : Prop :=
  ∃ raw, s.Reads (bitAddr bit) (max 1 (m.width / 8)) raw ∧
    let x := if m.width = 4 then raw / 2 ^ ((bit % 8).toNat / 4 * 4) % 16 else raw
    match m.conv with
    | none => r = (x, 0)
    | some b =>
      if b.isDxb then ∃ e, s.Reads (expAddr base ((bank.map Prod.snd).getD 0) m.width bit) 2 e ∧
        r = fvTo s.me.et 0 ((dxOf b).decode x (e % 256) (e / 256))
      else r = convert b s.me.et 0 x
/-- A store of `n` bytes can be performed at `p` now, whatever memory holds. -/
def State.Lands (s : State) (va : Word) (n : Nat) (p : Place) : Prop :=
  (∀ m, ({ s with mem := m } : State).look .w 2 va n = .ok p) ∧ p.Marked true ∧ s.Near p.loc ∧ s.Calm p.loc ∧ s.Unread p.loc n ∧ s.storeRoom s.me p.loc n = true
/-- Of some elements in order, each has its `n` low bytes at its own location, the later one where two overlap, and every
other byte of memory reads as before. -/
def StoredElems (s t : State) (is : List Nat) (loc : Nat → Nat) (n : Nat) (x : Nat → Nat) : Prop :=
  (∀ i ∈ is, ∀ a, loc i ≤ a → a < loc i + n → (∀ k ∈ is, i < k → ¬ (loc k ≤ a ∧ a < loc k + n)) →
      memGet t.mem a = BitVec.ofNat 8 (x i / 256 ^ (a - loc i)))
    ∧ ∀ a, (∀ k ∈ is, ¬ (loc k ≤ a ∧ a < loc k + n)) → memGet t.mem a = memGet s.mem a

/-- No earlier collapse is on its way, so that a write's holder mask is its directory's (R301). -/
def State.Uncollapsed (s : State) : Prop := ∀ p ∈ s.net, ∀ l e, p.collapsing l e = false
/-- Taking out the `mma` in flight. -/
def Ctx.noMma (c : Ctx) : Ctx := { c with mmaAcc := none }
/-- A row of `n` bytes can be read now, piece by piece, and is `x` as a little-endian number. -/
def State.ReadsRow (s : State) (va : Word) (n x : Nat) : Prop :=
  ∃ bs : List Byte, bs.length = n ∧ x = ofBytes bs ∧ ∀ p ∈ pieces va.toNat (List.replicate n 0), ∃ pl, s.look .r 2 (word p.1) p.2.length = .ok pl
    ∧ pl.Marked false ∧ s.Calm pl.loc ∧ s.loadBytes pl p.2.length = .data (((bs.drop (p.1 - va.toNat)).take p.2.length).map some)
/-- The `n` elements of an operand row, little-endian: floats, or signed bytes; or those of DXB blocks of 32 in banks of their format, with
the two exponent bytes of each block at its place (R74, R270). -/
def State.Operand (s : State) (t : ETy) (va : Word) (n : Nat) (v : List FV) : Prop :=
  ∃ x, s.ReadsRow va ((n * t.ew + 7) / 8) x ∧
    let e := fun k => x / 2 ^ (t.ew * k) % 2 ^ t.ew
    if t.isDxb then ∃ w : Nat → Nat, v = ((List.range n).map fun k => (dxOf t).decode (e k) (w (k / 32) % 256) (w (k / 32) / 256))
      ∧ ∀ b, 32 * b < n →
        let a := va + word (32 * b * t.ew / 8)
        let inBank := a.toNat % 2 ^ 18
        ∃ ep, s.bankFmt a = some (t, ep) ∧ s.ReadsRow (a - word inBank + word ep + word (2 * (inBank * 8 / t.ew / 32))) 2 (w b)
    else v = (List.range n).map fun k => if t.isFloat then t.ff.dec (e k) else .fin (decide (sread 8 (e k) < 0)) (sread 8 (e k)).natAbs 0

/-- Taking out the copies of instruction lines (R156). -/
def State.noCopies (s : State) : State := { s with dies := s.dies.map fun d => { d with icopies := [] } }

/-! ### Exceptions -/

/-- Taking out what a trap's entry writes (R43). -/
def Ctx.noTrap (c : Ctx) : Ctx := { c with epc := 0, cause := 0, tval := 0, level := .strand, step := false }
/-- Taking out the tick at which a stop reached the slot (R414). -/
def Ctx.noStopTick (c : Ctx) : Ctx := { c with stopTick := none }
/-- No other slot is held for the strand of the slot whose turn it is, which runs no region. -/
def State.Alone (s : State) : Prop := s.me.chunk = none ∧ ∀ c ∈ s.others, c.strand ≠ s.me.strand
/-- A trap with this code, this EPC and this TVAL has been entered: its own registers written, system level, the PC at TVEC,
and nothing else changed but that a reservation is lost (R43, R178). -/
def EnteredTrap (s t : State) (code : BitVec 8) (epc tval : Word) : Prop :=
  t.me.epc = epc.setWidth 56 ∧ t.me.cause.toNat = (if s.me.level = .system then 1024 else 0) + code.toNat ∧ t.me.tval = tval
    ∧ t.me.level = .system ∧ t.me.pc = s.me.ctl.tvec.setWidth 64 ∧ t.mem = s.mem ∧ t.others = s.others ∧ SlotKept s t Ctx.noTrap

/-! ### Exact values of floating-point encodings -/

/-- The formats of R51. -/
def floatFormats : List FF := [ff64, ff32, ff16, ffbf]
/-- The number that a finite value stands for; 0 for the others. -/
noncomputable def FV.val : FV → ℝ
  | .fin neg m e => (if neg then -1 else 1) * (m : ℝ) * (2 : ℝ) ^ e
  | _ => 0
def FV.finite : FV → Prop
  | .fin _ _ _ => True
  | _ => False
/-- The magnitude that an encoding without its sign stands for. -/
noncomputable def FF.mag (f : FF) (b : Nat) : ℝ := (f.dec b).val
/-- The modes that round a value of a sign toward zero, away from zero, and to the nearest (R53). -/
def inward (mode : Mode) (neg : Bool) : Prop := mode = 1 ∨ mode = 2 ∧ neg = true ∨ mode = 3 ∧ neg = false
def outward (mode : Mode) (neg : Bool) : Prop := mode = 2 ∧ neg = false ∨ mode = 3 ∧ neg = true
def toNearest (mode : Mode) : Prop := mode = 0 ∨ mode = 4

/-- R53, R55, R59: `r` is a positive magnitude `v` with a sign, rounded under a mode, and the flags of that: OF by the
threshold of the mode, NX when the result differs, UF when it is also tiny: when the value, rounded to the format's precision alone, is
below the least normal number. -/
def FF.RoundsTo (f : FF) (mode : Mode) (neg : Bool) (v : ℝ) (r : FRes) : Prop :=
  let big := f.mag f.max
  let ulp := big - f.mag (f.max - 1)
  let least := (2 : ℝ) ^ (f.qmin + f.mb)
  let nx := r.2.getLsbD 0 = true
  let uf := r.2.getLsbD 1 = true
  let ov := r.2.getLsbD 2 = true
  ∃ b, b ≤ f.inf ∧ r.1 = (if neg then f.sgn else 0) + b ∧ r.2.toNat < 8
    ∧ (ov ↔ (outward mode neg ∧ big < v) ∨ (toNearest mode ∧ big + ulp / 2 ≤ v) ∨ (inward mode neg ∧ big + ulp ≤ v))
    ∧ (ov → nx ∧ (inward mode neg → b = f.max) ∧ (¬ inward mode neg → b = f.inf))
    ∧ (¬ ov → b < f.inf ∧ (nx ↔ f.mag b ≠ v)
      ∧ (inward mode neg → f.mag b ≤ v ∧ ∀ c, c < f.inf → f.mag c ≤ v → f.mag c ≤ f.mag b)
      ∧ (outward mode neg → v ≤ f.mag b ∧ ∀ c, c < f.inf → v ≤ f.mag c → f.mag b ≤ f.mag c)
      ∧ (toNearest mode → ∀ c, c < f.inf → c ≠ b → |f.mag b - v| < |f.mag c - v|
          ∨ |f.mag b - v| = |f.mag c - v| ∧ (mode = 0 → b % 2 = 0) ∧ (mode = 4 → f.mag c < f.mag b)))
    ∧ (uf ↔ nx ∧ ((inward mode neg ∧ v < least) ∨ (outward mode neg ∧ v ≤ least - least / (2 : ℝ) ^ (f.mb + 1))
      ∨ (toNearest mode ∧ v < least - least / (2 : ℝ) ^ (f.mb + 2))))

/-- `w` is `v` rounded once to f32, to nearest, ties to even: a rne(·) of R254. -/
def Rne32 (v w : ℝ) : Prop :=
  (v = 0 ∧ w = 0) ∨ v ≠ 0 ∧ ∃ r, ff32.RoundsTo 0 (decide (v < 0)) |v| r ∧ (ff32.dec r.1).finite ∧ w = (ff32.dec r.1).val

/-- `n` is `v` rounded to an integer under a mode (R53, R61). -/
def RoundsInt (mode : Mode) (v : ℝ) (n : Int) : Prop :=
  (mode = 1 → (0 ≤ v → n = ⌊v⌋) ∧ (v < 0 → n = ⌈v⌉)) ∧ (mode = 2 → n = ⌈v⌉) ∧ (mode = 3 → n = ⌊v⌋)
  ∧ (toNearest mode → |(n : ℝ) - v| ≤ 1 / 2 ∧ (|(n : ℝ) - v| = 1 / 2 → (mode = 0 → n % 2 = 0) ∧ (mode = 4 → |v| < |(n : ℝ)|)))

/-! ### Events -/

/-- The strand of the slot whose turn it is can leave it (R413): its chunk has committed what it holds, its transfers have landed,
no other slot is held for it, its stores have settled, and its save area and its record can be written. -/
def State.CanLeave (s : State) (keep : Bool) (prep : Ctx → Ctx) (st susp : Nat) (halt : HaltRegs := none) : Prop :=
  let r := s.quiesce keep
  r.me.drained = true ∧ r.me.landed = true ∧ r.alone = true ∧ r.settled .mask 0xFFFF = true ∧ ((r.mapMe prep).saveStrand st susp 0 halt).2 = true
/-- The cancelled strand of the slot whose turn it is can end now (R384), its launch does not complete by it, and `u` is the
state in which its record shows it retired. -/
def State.CanEnd (s u : State) : Prop :=
  let r := s.quiesce false
  let v := (r.saveArea r.me false none).1
  let m := v.mapMe fun c => { c with susp := 7 }
  r.me.drained = true ∧ r.me.ilk = [] ∧ r.alone = true ∧ r.settled .mask 0xFFFF = true ∧ s.me.susp ≠ 7 ∧ (r.saveArea r.me false none).2 = true ∧ v.me.ilk = []
    ∧ v.alone = true ∧ v.settled .mask 0xFFFF = true ∧ (m.writeRecord m.me rsRETIRED 7 0).1 = u ∧ u.MemOk ∧ u.rd s.me.header + 1 ≠ u.rd (s.me.header + 8)
/-- A strand has left a slot and is ready on that die (R386). -/
def State.ReadyAgain (t : State) (d : DieId) (k : SlotNo) (strand : Word) : Prop :=
  t.ctx? d k = none ∧ ∃ w ∈ (t.die d).ready, w.strand = strand ∧ w.isNew = false

/-- Message `n` of the net is a rill message that may leave its core now; `rest` is the net without it (R311). -/
def State.Leaves (s : State) (n : Nat) (m : Rill) (rest : List Packet) : Prop :=
  takeAt n s.net = some (.rill m.die m.ring m.origin m.hops m.strand m.j m.msg, rest)
    ∧ s.rillLeaves n m = true
/-- A rill message one core on; after eight hops it is dropped. -/
def Rill.onward (m : Rill) : List Packet :=
  if m.hops + 1 < 8 then [.rill m.die m.ring m.origin (m.hops + 1) m.strand m.j m.msg] else []
/-- A rill message at the core it comes to next. -/
def Rill.next (m : Rill) : Rill := { m with hops := m.hops + 1 }
/-- A slot holds a chunk of which `P` holds. -/
def State.ChunkIn (t : State) (c : Ctx) (P : Ctx → Chunk → Prop) : Prop :=
  ∃ o q, t.ctx? c.die c.slot = some o ∧ o.chunk = some q ∧ P o q

/-- A request has been answered: the response is sent and kept, and its SEQ is the last one of its connection (R429, R430). -/
def State.Answered (s t : State) (req : HostReq) (status : Nat) (arg0 : Option Word) (payload : List Byte) : Prop :=
  let m := responseTo req s.tick ⟨status, arg0, payload⟩
  t.out.head? = some m ∧ ∀ c, t.conns.find? (fun c => c.ep == req.qp) = some c → c.last = req.seq ∧ c.resp.head? = some m

end Sys2Proof.Machine
end

