-- ==== Sys2Proof/Certificates/Slice0/Obligations.lean ====
section
/-! DEFINITION. The statements for the provers, from the numbered rules of spec/. -/

section Slice0
open Sys2Proof Sys2Proof.Machine

/-- R128: the two-operand integer instructions write the exact result to sd, with s0 discarding it (R37), go on to the
next word and change nothing else: no flag, no other register, no byte of memory. -/
def Obligations.IntegerArithmeticResults : Prop :=
  ∀ (d a b : SReg) (s : State),
    let x := s.getS a
    let y := s.getS b
    let writes := fun (i : Instr) (v : Word) => Completes i s fun t => ScalarResult s t d v 4
    writes (.add d a b) (BitVec.ofNat 64 (x.toNat + y.toNat))
    ∧ writes (.sub d a b) (BitVec.ofInt 64 (x.toInt - y.toInt))
    ∧ writes (.and d a b) (x &&& y)
    ∧ writes (.or d a b) (x ||| y)
    ∧ writes (.xor d a b) (x ^^^ y)
    ∧ writes (.shl d a b) (BitVec.ofNat 64 (x.toNat * 2 ^ (y.toNat % 64)))
    ∧ writes (.shr d a b) (BitVec.ofNat 64 (x.toNat / 2 ^ (y.toNat % 64)))
    ∧ writes (.sra d a b) (BitVec.ofInt 64 (x.toInt / ((2 ^ (y.toNat % 64) : Nat) : Int)))
    ∧ writes (.slt d a b) (if x.toInt < y.toInt then 1 else 0)
    ∧ writes (.sltn d a b) (if x.toNat < y.toNat then 1 else 0)
    ∧ writes (.min d a b) (BitVec.ofInt 64 (Min.min x.toInt y.toInt))
    ∧ writes (.max d a b) (BitVec.ofInt 64 (Max.max x.toInt y.toInt))
    ∧ writes (.minn d a b) (BitVec.ofNat 64 (Min.min x.toNat y.toNat))
    ∧ writes (.maxn d a b) (BitVec.ofNat 64 (Max.max x.toNat y.toNat))
    ∧ writes (.mul d a b) (BitVec.ofInt 64 (x.toInt * y.toInt))
    ∧ writes (.mulh d a b) (BitVec.ofInt 64 (x.toInt * y.toInt / ((2 ^ 64 : Nat) : Int)))
    ∧ writes (.mulhn d a b) (BitVec.ofNat 64 (x.toNat * y.toNat / 2 ^ 64))
    ∧ writes (.mulhin d a b) (BitVec.ofInt 64 (x.toInt * (y.toNat : Int) / ((2 ^ 64 : Nat) : Int)))

/-- R129: division truncates toward zero, dividing by zero gives all ones and the dividend, and the most negative
number by −1 gives itself and 0. -/
def Obligations.DivisionResults : Prop :=
  ∀ (d a b : SReg) (s : State),
    let x := s.getS a
    let y := s.getS b
    let writes := fun (i : Instr) (v : Word) => Completes i s fun t => ScalarResult s t d v 4
    (y = 0 → writes (.div d a b) (BitVec.allOnes 64) ∧ writes (.rem d a b) x
      ∧ writes (.divn d a b) (BitVec.allOnes 64) ∧ writes (.remn d a b) x)
    ∧ (x = BitVec.intMin 64 → y = BitVec.allOnes 64 → writes (.div d a b) x ∧ writes (.rem d a b) 0)
    ∧ (y ≠ 0 → ∀ q r : Int, x.toInt = q * y.toInt + r → r.natAbs < y.toInt.natAbs → 0 ≤ r * x.toInt →
        writes (.div d a b) (BitVec.ofInt 64 q) ∧ writes (.rem d a b) (BitVec.ofInt 64 r))
    ∧ (y ≠ 0 → ∀ q r : Nat, x.toNat = q * y.toNat + r → r < y.toNat →
        writes (.divn d a b) (BitVec.ofNat 64 q) ∧ writes (.remn d a b) (BitVec.ofNat 64 r))

/-- R128: the one-operand integer instructions. Leading and trailing zero bits are counted, with 64 for 0; one bits are
counted; the bytes are reversed; the low field is extended by its sign or by zeros. -/
def Obligations.BitCountAndExtendResults : Prop :=
  ∀ (d a : SReg) (s : State),
    let x := s.getS a
    let writes := fun (i : Instr) (v : Word) => Completes i s fun t => ScalarResult s t d v 4
    (∃ n : Nat, n ≤ 64 ∧ (∀ i, i < n → x.getLsbD (63 - i) = false) ∧ (n < 64 → x.getLsbD (63 - n) = true)
      ∧ writes (.clz d a) (BitVec.ofNat 64 n))
    ∧ (∃ n : Nat, n ≤ 64 ∧ (∀ i, i < n → x.getLsbD i = false) ∧ (n < 64 → x.getLsbD n = true)
      ∧ writes (.ctz d a) (BitVec.ofNat 64 n))
    ∧ writes (.popc d a) (BitVec.ofNat 64 ((List.range 64).filter fun i => x.getLsbD i).length)
    ∧ (∃ v : Word, (∀ i, i < 8 → v.extractLsb' (8 * i) 8 = x.extractLsb' (56 - 8 * i) 8) ∧ writes (.bswap d a) v)
    ∧ (∀ z : Sz, z ≠ .d → writes (.sext d a z) ((x.setWidth (8 * z.bytes)).signExtend 64)
        ∧ writes (.zext d a z) ((x.setWidth (8 * z.bytes)).setWidth 64))

/-- R130, R131: the immediate instructions read the sign-extended imm11, or the shift 0 to 63; `lui` writes imm19 shifted
left by 11, and `pcadd` adds that to the address of its own word. -/
def Obligations.ImmediateResults : Prop :=
  ∀ (d a : SReg) (s : State) (i : BitVec 11) (n : BitVec 6) (u : BitVec 19),
    let x := s.getS a
    let writes := fun (j : Instr) (v : Word) => Completes j s fun t => ScalarResult s t d v 4
    writes (.addi d a i) (BitVec.ofInt 64 (x.toInt + i.toInt))
    ∧ writes (.andi d a i) (x &&& i.signExtend 64)
    ∧ writes (.ori d a i) (x ||| i.signExtend 64)
    ∧ writes (.xori d a i) (x ^^^ i.signExtend 64)
    ∧ writes (.slti d a i) (if x.toInt < i.toInt then 1 else 0)
    ∧ writes (.sltni d a i) (if x.toNat < (i.signExtend 64).toNat then 1 else 0)
    ∧ writes (.shli d a n) (BitVec.ofNat 64 (x.toNat * 2 ^ n.toNat))
    ∧ writes (.shri d a n) (BitVec.ofNat 64 (x.toNat / 2 ^ n.toNat))
    ∧ writes (.srai d a n) (BitVec.ofInt 64 (x.toInt / ((2 ^ n.toNat : Nat) : Int)))
    ∧ writes (.lui d u) (BitVec.ofInt 64 (u.toInt * 2048))
    ∧ writes (.pcadd d u) (BitVec.ofInt 64 (s.me.pc.toInt + u.toInt * 2048))

/-- R137, R90: a taken branch adds twice the sign-extended offset to the program counter, one that is not taken goes on to
the next word, of four bytes or of two; no register, flag or byte of memory changes.
The model keeps 64 bits of the program counter (log 7). -/
def Obligations.ConditionalBranches : Prop :=
  ∀ (a b : SReg) (o : BitVec 11) (h : BitVec 7) (s : State),
    let x := s.getS a
    let y := s.getS b
    let goes := fun (i : Instr) (taken : Prop) (off : Int) (n : Nat) =>
      (taken → Completes i s fun t => t.me.pc = BitVec.ofInt 64 (s.me.pc.toInt + 2 * off) ∧ Keeps s t id)
      ∧ (¬ taken → Completes i s fun t => Passed s t n ∧ Keeps s t id)
    goes (.beq a b o) (x = y) o.toInt 4
    ∧ goes (.bne a b o) (x ≠ y) o.toInt 4
    ∧ goes (.blt a b o) (x.toInt < y.toInt) o.toInt 4
    ∧ goes (.bge a b o) (y.toInt ≤ x.toInt) o.toInt 4
    ∧ goes (.bltn a b o) (x.toNat < y.toNat) o.toInt 4
    ∧ goes (.bgen a b o) (y.toNat ≤ x.toNat) o.toInt 4
    ∧ goes (.cBeqz a h) (x = 0) h.toInt 2
    ∧ goes (.cBnez a h) (x ≠ 0) h.toInt 2

/-- R138, R139, R90: `jl` and an aligned `jlr` write the address of the next word to sd and jump; `jlr` reads its base
before it writes; an odd target of `jlr` traps with MISALIGN, TVAL the target; `c.j` only jumps.
The model keeps 64 bits of the program counter (log 7). -/
def Obligations.JumpsAndLinks : Prop :=
  ∀ (d a : SReg) (u : BitVec 19) (i : BitVec 11) (o : BitVec 12) (s : State),
    let target := BitVec.ofInt 64 ((s.getS a).toInt + i.toInt)
    (Completes (.jl d u) s fun t => WroteS s t d (s.me.pc + 4) ∧ t.me.pc = BitVec.ofInt 64 (s.me.pc.toInt + 2 * u.toInt)
        ∧ Keeps s t Ctx.noS)
    ∧ (Completes (.cJ o) s fun t => t.me.pc = BitVec.ofInt 64 (s.me.pc.toInt + 2 * o.toInt) ∧ Keeps s t id)
    ∧ (target.getLsbD 0 = false → Completes (.jlr d a i) s fun t => WroteS s t d (s.me.pc + 4) ∧ t.me.pc = target ∧ Keeps s t Ctx.noS)
    ∧ (target.getLsbD 0 = true → exec (.jlr d a i) s = .next (s.trap (.of cMISALIGN target)))

/-- R90, R128, R130: `c.mov`, `c.add` and `c.addi` act as `add` and `addi` and are two bytes long. -/
def Obligations.CompressedArithmetic : Prop :=
  ∀ (d a : SReg) (i : BitVec 5) (s : State),
    (Completes (.cMov d a) s fun t => ScalarResult s t d (s.getS a) 2)
    ∧ (Completes (.cAdd d a) s fun t => ScalarResult s t d (BitVec.ofInt 64 ((s.getS d).toInt + (s.getS a).toInt)) 2)
    ∧ (Completes (.cAddi d i) s fun t => ScalarResult s t d (BitVec.ofInt 64 ((s.getS d).toInt + i.toInt)) 2)

/-! ### Memory -/

/-- R169, R170, R90: a load whose access passes its checks and whose bytes the slot sees writes their little-endian value,
extended by its sign or by zeros, to sd. Nothing else of the slot changes, and elsewhere only counts and what the slices of the caches hold,
unless the line it brings into a full set squashes a chunk (R339). Which lines the slices hold is the model's choice (log 48). -/
def Obligations.LoadResults : Prop :=
  ∀ (d a : SReg) (i : BitVec 11) (s : State) (p : Place) (bs : List Byte),
    let loads := fun (j : Instr) (va : Word) (n len : Nat) (x : Word) =>
      s.Reaches .r 2 va n p → s.loadBytes p n = .data (bs.map some) → Completes j s fun t =>
        WroteS s t d x ∧ Passed s t len ∧ SameMemory s t ∧ (s.Roomy p.loc → Keeps s.traceless t.traceless (Ctx.noS ∘ Ctx.noNotes))
    let ea := BitVec.ofInt 64 ((s.getS a).toInt + i.toInt)
    let v := ofBytes bs
    loads (.ldB d a i) ea 1 4 ((BitVec.ofNat 8 v).signExtend 64)
    ∧ loads (.ldH d a i) ea 2 4 ((BitVec.ofNat 16 v).signExtend 64)
    ∧ loads (.ldW d a i) ea 4 4 ((BitVec.ofNat 32 v).signExtend 64)
    ∧ loads (.ldD d a i) ea 8 4 (BitVec.ofNat 64 v)
    ∧ loads (.ldBn d a i) ea 1 4 (BitVec.ofNat 64 v)
    ∧ loads (.ldHn d a i) ea 2 4 (BitVec.ofNat 64 v)
    ∧ loads (.ldWn d a i) ea 4 4 (BitVec.ofNat 64 v)
    ∧ loads (.cLd d a) (s.getS a) 8 2 (BitVec.ofNat 64 v)

/-- R170, R90: outside a region, a store to a tile store or to DRAM of its own die puts the low bytes of sb at the address,
little-endian, and leaves every other byte and every register as it was; lost data becomes sound in a unit of 8 bytes that it writes whole (R469).
Such a store is performed in its own step (log 85). -/
def Obligations.StoreResults : Prop :=
  ∀ (a b : SReg) (i : BitVec 11) (s : State) (p : Place),
    let stores := fun (j : Instr) (va : Word) (n len : Nat) =>
      s.MemOk → s.me.chunk = none → s.Reaches .w 2 va n p → s.Near p.loc → s.Unread p.loc n → s.storeRoom s.me p.loc n = true →
        Completes j s fun t => Stored s t p.loc n (s.getS b).toNat ∧ Passed s t len ∧ SlotKept s t id
          ∧ ∀ x, x ∈ t.lost ↔ x ∈ s.lost ∧ ¬ (p.loc ≤ x / 8 * 8 ∧ x / 8 * 8 + 8 ≤ p.loc + n)
    let ea := BitVec.ofInt 64 ((s.getS a).toInt + i.toInt)
    stores (.stB a b i) ea 1 4 ∧ stores (.stH a b i) ea 2 4 ∧ stores (.stW a b i) ea 4 4 ∧ stores (.stD a b i) ea 8 4
      ∧ stores (.cSt a b) (s.getS a) 8 2

/-- R22, R314, R315: in a speculative chunk a store is versioned: its bytes are the chunk's own and no byte of memory
changes, until the chunk passes the weir. -/
def Obligations.SpeculativeStoresAreVersioned : Prop :=
  ∀ (a b : SReg) (i : BitVec 11) (s : State) (p : Place) (k : Chunk),
    let stores := fun (j : Instr) (va : Word) (n len : Nat) =>
      s.me.chunk = some k → k.spec = true → s.Reaches .w 2 va n p → isDevice p.loc = false →
        Completes j s fun t => t.mem = s.mem ∧ Passed s t len ∧ SlotKept s t Ctx.noNotes ∧ ∃ q, t.me.chunk = some q
          ∧ ∀ x, cellGet q.wr x = if p.loc ≤ x ∧ x < p.loc + n then some (BitVec.ofNat 8 ((s.getS b).toNat / 256 ^ (x - p.loc))) else cellGet k.wr x
    let ea := BitVec.ofInt 64 ((s.getS a).toInt + i.toInt)
    stores (.stB a b i) ea 1 4 ∧ stores (.stH a b i) ea 2 4 ∧ stores (.stW a b i) ea 4 4 ∧ stores (.stD a b i) ea 8 4
      ∧ stores (.cSt a b) (s.getS a) 8 2

/-- R170, R293: outside a region, a load of the bytes just stored to a tile store or to DRAM of the own die returns them, where none was lost.
Such a store is performed in its own step (log 85). -/
def Obligations.LoadAfterStoreReturnsIt : Prop :=
  ∀ (a b d : SReg) (i : BitVec 11) (s t : State) (p : Place),
    let ea := BitVec.ofInt 64 ((s.getS a).toInt + i.toInt)
    let back := fun (st ld : Instr) (n : Nat) (x : Word) =>
      s.MemOk → s.me.chunk = none → s.Reaches .w 2 ea n p → s.Near p.loc → s.Sound p.loc n → s.Unread p.loc n → s.storeRoom s.me p.loc n = true →
        exec st s = .next t → t.Reaches .r 2 ea n p → Completes ld t fun u => WroteS t u d x
    back (.stB a b i) (.ldBn d a i) 1 ((s.getS b).setWidth 8 |>.setWidth 64)
    ∧ back (.stH a b i) (.ldHn d a i) 2 ((s.getS b).setWidth 16 |>.setWidth 64)
    ∧ back (.stW a b i) (.ldW d a i) 4 ((s.getS b).setWidth 32 |>.signExtend 64)
    ∧ back (.stD a b i) (.ldD d a i) 8 (s.getS b)

/-- R341, R346, R295: outside a region, a store of any width to DRAM or to a tile store homed on another die waits in the die's pending-store table, counted in the
slot's PERFPEND, and a packet carries it home; no byte of memory changes yet. The die's replica of the line goes. -/
def Obligations.RemoteStoresArePending : Prop :=
  ∀ (a b : SReg) (i : BitVec 11) (s : State) (p : Place),
    let ea := BitVec.ofInt 64 ((s.getS a).toInt + i.toInt)
    let d := s.me.die
    let waits := fun (j : Instr) (va : Word) (n len : Nat) =>
      s.me.chunk = none → s.Reaches .w 2 va n p → isDevice p.loc = false → homeOf p.loc ≠ d → s.Unread (lineOf p.loc) 256 →
      (s.die d).pend = [] → s.storeRoom s.me p.loc n = true → Completes j s fun t =>
        t.mem = s.mem ∧ Passed s t len ∧ SlotKept s t id ∧ t.me.perfPend = s.me.perfPend + 1
        ∧ t.net = s.net ++ [.pending d s.serial]
        ∧ (t.die d).pend = [⟨s.serial, sectorOf p.loc, cellsPut p.loc (bytesOf n (s.getS b).toNat) [], [], p.dev, [.slot d s.me.slot], false⟩]
        ∧ ∀ l ∈ (t.die d).replicas, l.line ≠ lineOf p.loc
    waits (.stB a b i) ea 1 4 ∧ waits (.stH a b i) ea 2 4 ∧ waits (.stW a b i) ea 4 4 ∧ waits (.stD a b i) ea 8 4 ∧ waits (.cSt a b) (s.getS a) 8 2

/-- R162, R170, R177, R186, R194: an address that is not aligned as its family requires traps with MISALIGN, TVAL the address, before
any other check and with no effect; in a speculative chunk that trap is held. -/
def Obligations.MisalignedAddressesTrap : Prop :=
  ∀ (d a b : SReg) (i : BitVec 11) (z : Scope) (w : Wid) (s : State), s.me.answer = none →
    let ea := BitVec.ofInt 64 ((s.getS a).toInt + i.toInt)
    let x := s.getS a
    let traps := fun (j : Instr) (va : Word) (n : Nat) => va.toNat % n ≠ 0 → exec j s = .next (s.trap (.of cMISALIGN va))
    (∀ j n, (j, n) ∈ [(Instr.ldH d a i, 2), (.ldHn d a i, 2), (.ldW d a i, 4), (.ldWn d a i, 4), (.ldD d a i, 8),
        (.stH a b i, 2), (.stW a b i, 4), (.stD a b i, 8)] → traps j ea n)
    ∧ traps (.ldAcq d a i z) ea 8 ∧ traps (.stRel a b i z) ea 8
    ∧ (∀ j n, (j, n) ∈ [(Instr.cLd d a, 8), (.cSt a b, 8), (.ldFe d a, 8), (.stFe a b, 8), (.ldFf d a, 8), (.feSet a, 8), (.feClr a, 8),
        (.binit a b, 16), (.bpost a b, 16), (.barr a, 16), (.bwait d a b, 16),
        (.qput a b, 64), (.qputNb d a b, 64), (.qget d a, 64), (.qgetNb d a b, 64), (.qstat d a, 64)] → traps j x n)
    ∧ (∀ j ∈ [Instr.lr d a w, .sc d a b w, .cas d a b w, .amoAdd d a b w, .amoAnd d a b w, .amoOr d a b w, .amoXor d a b w, .amoMin d a b w,
        .amoMax d a b w, .amoMinn d a b w, .amoMaxn d a b w, .amoSwap d a b w, .amoFadd d a b w, .rredAdd a b w, .rredAnd a b w, .rredOr a b w,
        .rredXor a b w, .rredMin a b w, .rredMax a b w, .rredMinn a b w, .rredMaxn a b w, .rredFadd a b w], traps j x w.bytes)

/-- R172, R185, R165: outside a region, an acquire load acts as `ld.d`; a release store and a fence, once the earlier stores
are settled at their scope, act as `st.d` and as no change of any register or byte; until then they wait, with no effect.
A wait leaves the state as it is (log 83). -/
def Obligations.AcquireReleaseAndFence : Prop :=
  ∀ (d a b : SReg) (i : BitVec 11) (z : Scope) (s : State) (p : Place) (bs : List Byte),
    let ea := BitVec.ofInt 64 ((s.getS a).toInt + i.toInt)
    s.me.chunk = none →
    (s.Reaches .r 2 ea 8 p → s.loadBytes p 8 = .data (bs.map some) → Completes (.ldAcq d a i z) s fun t =>
        WroteS s t d (BitVec.ofNat 64 (ofBytes bs)) ∧ Passed s t 4 ∧ SameMemory s t ∧ (s.Roomy p.loc → Keeps s.traceless t.traceless Ctx.noS))
    ∧ (s.settled z s.me.dmask = true → s.MemOk → s.Reaches .w 2 ea 8 p → s.Near p.loc → s.Unread p.loc 8 → s.storeRoom s.me p.loc 8 = true →
        Completes (.stRel a b i z) s fun t => Stored s t p.loc 8 (s.getS b).toNat ∧ Passed s t 4 ∧ SlotKept s t id)
    ∧ (s.settled z s.me.dmask = true → Completes (.fence z) s fun t => Passed s t 4 ∧ Keeps s.uncounted t.uncounted id)
    ∧ (s.settled z s.me.dmask = false → exec (.fence z) s = .next s ∧ (ea.toNat % 8 = 0 → exec (.stRel a b i z) s = .next s))

/-- R173, R174: on a word in the state it needs, `ld.fe` reads the word and leaves it EMPTY, `ld.ff` reads it, `st.fe` writes it and
leaves it FULL; `fe.set` and `fe.clr` set the state and keep the data. No other word's state changes. -/
def Obligations.FullEmptyOperations : Prop :=
  ∀ (d a b : SReg) (s : State) (p : Place), s.AtHome .rw (s.getS a) 8 p → s.Sound p.loc 8 → s.MemOk →
    let states := fun (t : State) (e : Bool) => ∀ x, t.isEmpty x = if x / 8 = p.loc / 8 then e else s.isEmpty x
    let settled := s.settled .die s.me.dmask = true
    (s.isEmpty p.loc = false →
      (Completes (.ldFe d a) s fun t => WroteS s t d (word (numAt s.mem p.loc 8)) ∧ states t true ∧ SameMemory s t ∧ Passed s t 4 ∧ SlotKept s t Ctx.noS)
      ∧ (Completes (.ldFf d a) s fun t => WroteS s t d (word (numAt s.mem p.loc 8)) ∧ states t false ∧ SameMemory s t ∧ Passed s t 4 ∧ SlotKept s t Ctx.noS))
    ∧ (s.isEmpty p.loc = true → settled → Completes (.stFe a b) s fun t =>
        Stored s t p.loc 8 (s.getS b).toNat ∧ states t false ∧ Passed s t 4 ∧ SlotKept s t id)
    ∧ (settled → Completes (.feSet a) s fun t => states t false ∧ SameMemory s t ∧ Passed s t 4 ∧ SlotKept s t id)
    ∧ (Completes (.feClr a) s fun t => states t true ∧ SameMemory s t ∧ Passed s t 4 ∧ SlotKept s t id)

/-- R175: on a word in the wrong state the home registers a waiter while its slice's table holds fewer than 64, and the strand
waits in its slot at the instruction; with a full table it answers NACK, and the slot asks again 64 ticks later. -/
def Obligations.FullEmptyWaits : Prop :=
  ∀ (d a b : SReg) (s : State) (p : Place), s.AtHome .rw (s.getS a) 8 p → s.me.wait = none →
    let d0 := s.me.die
    let mine := (s.die d0).waiters.filter fun w => s.slice w.loc == s.slice p.loc
    let waits := fun (i : Instr) => (∀ w ∈ (s.die d0).waiters, w.strand ≠ s.me.strand) → Completes i s fun t =>
      t.me.pc = s.me.pc ∧ SameMemory s t ∧ SlotKept s t id ∧ ∃ w, t.me.wait = some w ∧ w.what = .fullEmpty ∧ w.loc = p.loc
        ∧ (mine.length < 64 → w.entry = true ∧ (t.die d0).waiters = (s.die d0).waiters ++ [⟨.fullEmpty, false, p.loc, d0, s.me.strand⟩])
        ∧ (64 ≤ mine.length → w.entry = false ∧ w.retryAt = s.tick + 64 ∧ (t.die d0).waiters = (s.die d0).waiters)
    (s.isEmpty p.loc = true → waits (.ldFe d a) ∧ waits (.ldFf d a))
    ∧ (s.isEmpty p.loc = false → s.settled .die s.me.dmask = true → waits (.stFe a b))

/-- R180, R181: an atomic on a word of its own die's DRAM replaces it by f(old, x) as one step and writes the old value,
sign-extended, to sd; `fadd` rounds to nearest, ties to even, and ORs its flags into FLAGS; the others set no flag. -/
def Obligations.AtomicUpdates : Prop :=
  ∀ (d a b : SReg) (w : Wid) (s : State) (p : Place),
    let n := w.bytes
    let old := BitVec.ofNat (8 * n) (numAt s.mem p.loc n)
    let x := (s.getS b).setWidth (8 * n)
    s.AtHome .rw (s.getS a) n p → s.Sound p.loc n → s.MemOk →
      let updates := fun (i : Instr) (v : BitVec (8 * n)) => Completes i s fun t =>
        Stored s t p.loc n v.toNat ∧ WroteS s t d (old.signExtend 64) ∧ Passed s t 4 ∧ SlotKept s t Ctx.noS
      updates (.amoAdd d a b w) (old + x) ∧ updates (.amoAnd d a b w) (old &&& x) ∧ updates (.amoOr d a b w) (old ||| x)
      ∧ updates (.amoXor d a b w) (old ^^^ x)
      ∧ updates (.amoMin d a b w) (if old.toInt ≤ x.toInt then old else x) ∧ updates (.amoMax d a b w) (if old.toInt ≤ x.toInt then x else old)
      ∧ updates (.amoMinn d a b w) (if old.toNat ≤ x.toNat then old else x) ∧ updates (.amoMaxn d a b w) (if old.toNat ≤ x.toNat then x else old)
      ∧ updates (.amoSwap d a b w) x
      ∧ (s.me.det = false → Completes (.amoFadd d a b w) s fun t =>
          let r := (if w = .w then ff32 else ff64).add 0 old.toNat x.toNat
          Stored s t p.loc n r.1 ∧ WroteS s t d (old.signExtend 64) ∧ t.me.img.flags = s.me.img.flags ||| r.2 ∧ Passed s t 4
            ∧ SlotKept s t (Ctx.noS ∘ Ctx.noFlags))
      ∧ (s.me.det = true → exec (.amoFadd d a b w) s = .next (s.trap (.of cDET_VIOLATION (s.me.iword.setWidth 64))))

/-- R181, R182: an `rred` to a word of its own die's DRAM replaces it by f(old, x) and writes no register and no flag; to a word
homed on another die it sends one update packet, counted until the home performs it, and completes at once. Under DET
`rred.fadd` traps with DET_VIOLATION once its address has passed its checks. -/
def Obligations.ReductionUpdates : Prop :=
  ∀ (a b : SReg) (w : Wid) (s : State) (p : Place),
    let n := w.bytes
    let old := BitVec.ofNat (8 * n) (numAt s.mem p.loc n)
    let x := (s.getS b).setWidth (8 * n)
    let fsum := ((if w = .w then ff32 else ff64).add 0 old.toNat x.toNat).1
    let forms : List (Instr × AmoOp × Nat) :=
      [(.rredAdd a b w, .add, (old + x).toNat), (.rredAnd a b w, .and, (old &&& x).toNat), (.rredOr a b w, .or, (old ||| x).toNat),
       (.rredXor a b w, .xor, (old ^^^ x).toNat),
       (.rredMin a b w, .min, if old.toInt ≤ x.toInt then old.toNat else x.toNat), (.rredMax a b w, .max, if old.toInt ≤ x.toInt then x.toNat else old.toNat),
       (.rredMinn a b w, .minn, Min.min old.toNat x.toNat), (.rredMaxn a b w, .maxn, Max.max old.toNat x.toNat), (.rredFadd a b w, .fadd, fsum)]
    (s.me.det = true → s.Reaches .rw 0 (s.getS a) n p → exec (.rredFadd a b w) s = .next (s.trap (.of cDET_VIOLATION (s.me.iword.setWidth 64))))
    ∧ ∀ i o v, (i, o, v) ∈ forms → (o = .fadd → s.me.det = false) →
      (s.AtHome .rw (s.getS a) n p → s.Sound p.loc n → s.MemOk → Completes i s fun t =>
        Stored s t p.loc n v ∧ Passed s t 4 ∧ SlotKept s t id)
      ∧ (s.Serial → s.Reaches .rw 0 (s.getS a) n p → homeOf p.loc ≠ s.me.die →
          s.storePending p.loc n = false → s.countRoom s.me.strand 1 = true → Completes i s fun t =>
        t.mem = s.mem ∧ t.net = s.net ++ [.request s.serial s.me.die s.me.slot s.me.strand p.loc (.rred o n (s.getS b))]
          ∧ t.me.rredPend = s.me.rredPend + 1 ∧ Passed s t 4 ∧ SlotKept s t id)

/-- R178, R179: `cas` stores sb only where the word equals sd and returns the old value; `lr` returns the word and leaves the
slot one reservation, on its sector; `sc` stores and writes 0 where that reservation stands, else writes 1 and stores
nothing, and clears it in either case. -/
def Obligations.CompareSwapAndReservations : Prop :=
  ∀ (d a b : SReg) (w : Wid) (s : State) (p : Place),
    let n := w.bytes
    let old := BitVec.ofNat (8 * n) (numAt s.mem p.loc n)
    let home := s.me.die
    let mine := fun (t : State) (e : DieId) => (t.die e).resv.filter fun r => r.die == home && r.slot == s.me.slot
    s.MemOk →
    (s.AtHome .rw (s.getS a) n p → s.Sound p.loc n →
      (old = (s.getS d).setWidth (8 * n) → Completes (.cas d a b w) s fun t =>
        Stored s t p.loc n (s.getS b).toNat ∧ WroteS s t d (old.signExtend 64) ∧ Passed s t 4 ∧ SlotKept s t Ctx.noS)
      ∧ (old ≠ (s.getS d).setWidth (8 * n) → Completes (.cas d a b w) s fun t =>
        SameMemory s t ∧ WroteS s t d (old.signExtend 64) ∧ Passed s t 4 ∧ SlotKept s t Ctx.noS))
    ∧ (s.AtHome .rw (s.getS a) n p → s.Sound p.loc n → Completes (.lr d a w) s fun t =>
        SameMemory s t ∧ WroteS s t d (old.signExtend 64) ∧ Passed s t 4 ∧ SlotKept s t Ctx.noS
          ∧ ∀ e, mine t e = if e = home then [⟨sectorOf p.loc, home, s.me.slot⟩] else [])
    ∧ (s.AtHome .rw (s.getS a) n p →
      (⟨sectorOf p.loc, home, s.me.slot⟩ ∈ (s.die home).resv → Completes (.sc d a b w) s fun t =>
        Stored s t p.loc n (s.getS b).toNat ∧ WroteS s t d 0 ∧ Passed s t 4 ∧ SlotKept s t Ctx.noS ∧ ∀ e, mine t e = [])
      ∧ (⟨sectorOf p.loc, home, s.me.slot⟩ ∉ (s.die home).resv → Completes (.sc d a b w) s fun t =>
        SameMemory s t ∧ WroteS s t d 1 ∧ Passed s t 4 ∧ SlotKept s t Ctx.noS ∧ ∀ e, mine t e = []))

/-- R184: `wres` completes at once where the slot holds no reservation, and otherwise waits in its slot at the instruction. -/
def Obligations.ReservationWait : Prop :=
  ∀ s : State, s.me.chunk = none →
    (s.reserved s.me = false → Completes .wres s fun t => Passed s t 4 ∧ Keeps s t id)
    ∧ (s.reserved s.me = true → s.me.wait = none → Completes .wres s fun t => t.me.pc = s.me.pc ∧ Keeps s t id ∧ ∃ w, t.me.wait = some w ∧ w.what = .reservation)

/-- R187 to R191: the barrier instructions on a barrier of the own die's DRAM. The state word is PHASE 63, STATUS [62:61],
ARR [60:40], BYTES [39:0], and the reload word stands 8 bytes on. -/
def Obligations.BarrierOperations : Prop :=
  ∀ (d a b : SReg) (s : State) (p : Place), s.MemOk →
    let w := numAt s.mem p.loc 8
    let rl := numAt s.mem (p.loc + 8) 8
    let phase := w / 2 ^ 63
    let status := w / 2 ^ 61 % 4
    let arr := w / 2 ^ 40 % 2 ^ 21
    let bytes := w % 2 ^ 40
    let x := (s.getS b).toNat
    let settled := s.settled .mask s.me.dmask = true
    (s.AtHome .rw (s.getS a) 16 p →
      (settled → Completes (.binit a b) s fun t =>
        Stored s t p.loc 16 (phase * 2 ^ 63 + x % 2 ^ 61 + x % 2 ^ 61 * 2 ^ 64) ∧ Passed s t 4 ∧ SlotKept s t id)
      ∧ (x < 2 ^ 40 → bytes + x < 2 ^ 40 → Completes (.bpost a b) s fun t => Stored s t p.loc 8 (w + x) ∧ Passed s t 4 ∧ SlotKept s t id)
      ∧ (2 ^ 40 ≤ x ∨ 2 ^ 40 ≤ bytes + x → s.me.sent = none →
        ∃ o, exec (.bpost a b) s = .next (({ s with me := { s.me with overdue := o } } : State).trap (.of cOVERPOST (s.getS a))))
      ∧ (settled → arr = 0 → Completes (.barr a) s fun t =>
        Stored s t p.loc 8 (phase * 2 ^ 63 + Max.max status 1 * 2 ^ 61 + bytes) ∧ Passed s t 4 ∧ SlotKept s t id)
      ∧ (settled → 1 ≤ arr → (arr ≠ 1 ∨ bytes ≠ 0) → Completes (.barr a) s fun t => Stored s t p.loc 8 (w - 2 ^ 40) ∧ Passed s t 4 ∧ SlotKept s t id)
      ∧ (settled → arr = 1 → bytes = 0 → Completes (.barr a) s fun t =>
        Stored s t p.loc 8 ((1 - phase) * 2 ^ 63 + status * 2 ^ 61 + rl % 2 ^ 61) ∧ Passed s t 4 ∧ SlotKept s t id
          ∧ ∀ v ∈ (t.die s.me.die).waiters, ¬ (v.loc = p.loc ∧ v.what = .barrier)))
    ∧ (s.AtHome .rw (s.getS a) 16 p → s.me.wait = none → s.me.wend = none →
      let p0 := (s.getS d).toNat / 2 ^ 63
      (phase ≠ p0 → Completes (.bwait d a b) s fun t =>
        WroteS s t d (word (phase * 2 ^ 63 + status * 2 ^ 61)) ∧ SameMemory s t ∧ Passed s t 4 ∧ SlotKept s t Ctx.noS)
      ∧ (phase = p0 → x = 0 → Completes (.bwait d a b) s fun t =>
        WroteS s t d (word (phase * 2 ^ 63 + status * 2 ^ 61 + 1)) ∧ SameMemory s t ∧ Passed s t 4 ∧ SlotKept s t Ctx.noS)
      ∧ (phase = p0 → x ≠ 0 → Completes (.bwait d a b) s fun t =>
        SameMemory s t ∧ t.me.pc = s.me.pc ∧ SlotKept s t id ∧ ∃ v, t.me.wait = some v ∧ v.what = .barrier ∧ v.lim = Min.min x (2 ^ 36)))

/-- R193, R196, R200: an enqueue on a queue of the own die with room writes the element, its first 8 bytes sb and the others zero,
and moves TAIL and FREE; a dequeue from one that is not empty returns the first 8 bytes and moves HEAD and FREE; the .nb forms
also write the count, and write 0 and change nothing where the others wait; `qget.nb` then leaves sd as it was (the model's reading: log 27). A queue
that fails R194 is left as it is. -/
def Obligations.QueueOperations : Prop :=
  ∀ (d a b : SReg) (s : State) (p : Place),
    let q := s.qcb p.loc
    let hdr := fun (head tail free : Nat) => bytesOf 8 head ++ bytesOf 8 tail ++ bytesOf 4 free
    let elem := bytesOf 8 (s.getS b).toNat ++ List.replicate (q.es - 8) 0
    let front := word (numAt s.mem (q.slot q.head) 8)
    let settled := s.settled .mask s.me.dmask = true
    s.MemOk → s.AtHome .rw (s.getS a) 64 p → s.countRoom s.me.strand 3 = true → s.me.sent = none → (∀ w ∈ (s.die s.me.die).waiters, w.loc ≠ p.loc) →
    (q.ok = true → settled → q.count < q.cap →
      (Completes (.qput a b) s fun t => StoredBoth s t (p.loc + 16) (hdr q.head (q.tail + 1) (q.free - 1)) (q.slot q.tail) elem ∧ Passed s t 4 ∧ SlotKept s t id)
      ∧ (Completes (.qputNb d a b) s fun t =>
        StoredBoth s t (p.loc + 16) (hdr q.head (q.tail + 1) (q.free - 1)) (q.slot q.tail) elem ∧ WroteS s t d 1 ∧ Passed s t 4 ∧ SlotKept s t Ctx.noS))
    ∧ (q.ok = true → settled → q.count = q.cap →
      (Completes (.qputNb d a b) s fun t => SameMemory s t ∧ WroteS s t d 0 ∧ Passed s t 4 ∧ SlotKept s t Ctx.noS)
      ∧ (s.me.wait = none → Completes (.qput a b) s fun t => t.me.pc = s.me.pc ∧ SlotKept s t id ∧ ∃ w, t.me.wait = some w ∧ w.what = .queue))
    ∧ (q.ok = true → 0 < q.count → s.Sound (q.slot q.head) 8 →
      (Completes (.qget d a) s fun t => StoredBytes s t (p.loc + 16) (hdr (q.head + 1) q.tail (q.free + 1)) ∧ WroteS s t d front ∧ Passed s t 4 ∧ SlotKept s t Ctx.noS)
      ∧ (Completes (.qgetNb d a b) s fun t => StoredBytes s t (p.loc + 16) (hdr (q.head + 1) q.tail (q.free + 1))
        ∧ (∀ r, t.getS r = if r = b ∧ b ≠ 0 then 1 else if r = d ∧ d ≠ 0 then front else s.getS r) ∧ Passed s t 4 ∧ SlotKept s t Ctx.noS))
    ∧ (q.ok = true → q.count = 0 →
      (Completes (.qgetNb d a b) s fun t => SameMemory s t ∧ WroteS s t b 0 ∧ Passed s t 4 ∧ SlotKept s t Ctx.noS)
      ∧ (s.me.wait = none → Completes (.qget d a) s fun t => t.me.pc = s.me.pc ∧ SlotKept s t id ∧ ∃ w, t.me.wait = some w ∧ w.what = .queue))
    ∧ (q.ok = false →
      let faults := fun (i : Instr) => Completes i s fun t => ∃ c o, t = ({ s with ctr := c, me := { s.me with overdue := o } } : State).trap (.of cQCB_CORRUPT (s.getS a))
      (settled → faults (.qput a b) ∧ faults (.qputNb d a b)) ∧ faults (.qget d a) ∧ faults (.qgetNb d a b))

/-- R197, R200: `qputv` and `qgetv` move the bytes of VL elements of a register group through as many queue elements as they fill; the
last element's bytes beyond them are written as zero and ignored; the .nb forms write the count. -/
def Obligations.VectorQueueOperations : Prop :=
  ∀ (v : VReg) (a b : SReg) (s : State) (p : Place),
    let q := s.qcb p.loc
    let ew := s.me.et.ew
    let len := (s.me.vl * ew + 7) / 8
    let n := (len + q.es - 1) / q.es
    let hdr := fun (head tail free : Nat) => bytesOf 8 head ++ bytesOf 8 tail ++ bytesOf 4 free
    let hdrAt := fun (t : State) (h : List Byte) => ∀ x, (x < q.data ∨ q.data + q.cap * q.es ≤ x) →
      memGet t.mem x = if p.loc + 16 ≤ x ∧ x < p.loc + 36 then (h[x - (p.loc + 16)]?).getD 0 else memGet s.mem x
    let settled := s.settled .mask s.me.dmask = true
    s.MemOk → s.SpanOk [v] → s.AtHome .rw (s.getS a) 64 p → s.countRoom s.me.strand (len / 8 + 2) = true → (∀ w ∈ (s.die s.me.die).waiters, w.loc ≠ p.loc) → q.ok = true →
    (p.loc + 64 ≤ q.data ∨ q.data + q.cap * q.es ≤ p.loc) → 0 < len → n ≤ q.cap →
    let putAll := fun (t : State) => hdrAt t (hdr q.head (q.tail + n) (q.free - n)) ∧ ∀ k, k < n → ∀ j, j < q.es →
      memGet t.mem (q.slot (q.tail + k) + j) = (if k * q.es + j < len then BitVec.ofNat 8 (elemGet s.me.img.v v.val 8 (k * q.es + j)) else 0)
      ∧ ∀ i, n ≤ i → i < q.cap → memGet t.mem (q.slot (q.tail + i) + j) = memGet s.mem (q.slot (q.tail + i) + j)
    let gotAll := fun (t : State) => StoredBytes s t (p.loc + 16) (hdr (q.head + n) q.tail (q.free + n)) ∧ WroteV s t v 4 fun i =>
      if i < (if ew = 4 then s.me.vl else 2 * len) then
        some ((memGet s.mem (q.slot (q.head + i / 2 / q.es) + i / 2 % q.es)).toNat / 16 ^ (i % 2) % 16) else none
    (settled → n ≤ q.cap - q.count →
      (Completes (.qputv v a) s fun t => putAll t ∧ Passed s t 4 ∧ SlotKept s t id)
      ∧ (Completes (.qputvNb v a b) s fun t => putAll t ∧ WroteS s t b (word n) ∧ Passed s t 4 ∧ SlotKept s t Ctx.noS))
    ∧ (settled → q.cap - q.count < n → Completes (.qputvNb v a b) s fun t =>
        SameMemory s t ∧ WroteS s t b 0 ∧ Passed s t 4 ∧ SlotKept s t Ctx.noS)
    ∧ (n ≤ q.count → (∀ k, k < n → s.Sound (q.slot (q.head + k)) q.es) →
      (Completes (.qgetv v a) s fun t => gotAll t ∧ Passed s t 4 ∧ SlotKept s t Ctx.noV)
      ∧ (Completes (.qgetvNb v a b) s fun t => gotAll t ∧ WroteS s t b (word n) ∧ Passed s t 4 ∧ SlotKept s t (Ctx.noS ∘ Ctx.noV)))
    ∧ (q.count < n → Completes (.qgetvNb v a b) s fun t => SameMemory s t ∧ WroteS s t b 0 ∧ Passed s t 4 ∧ SlotKept s t Ctx.noS)

/-- R193, R201, R202: `qstat` reads the counts in one word, or 2^63 for a queue that fails R194, and changes nothing; `qinit` writes the 64
bytes of a new queue control block. -/
def Obligations.QueueStatusAndInit : Prop :=
  ∀ (d a b : SReg) (x : OxReg) (s : State) (p : Place) (r : Word) (data : Nat),
    let q := s.qcb p.loc
    let es := bits r 0 3
    let cap := bits r 8 5
    (s.AtHome .rw (s.getS a) 64 p → Completes (.qstat d a) s fun t =>
      WroteS s t d (word (if q.ok then q.getw * 2 ^ 41 + q.putw * 2 ^ 25 + q.count else 2 ^ 63)) ∧ SameMemory s t ∧ Passed s t 4 ∧ SlotKept s t Ctx.noS)
    ∧ (s.MemOk → s.OxHolds x .qinit r → s.AtHome .rw (s.getS a) 64 p → s.settled .mask s.me.dmask = true →
      (∀ w ∈ (s.die s.me.die).waiters, w.loc ≠ p.loc) → (s.getS b).toNat < 2 ^ 55 → (s.getS b).toNat % 2 ^ (es + 3) = 0 →
      s.queueData p (s.getS b) (2 ^ cap * 2 ^ (es + 3)) = .ok data → Completes (.qinit a b x) s fun t =>
        StoredBytes s t p.loc (bytesOf 4 0x51430001 ++ [1, BitVec.ofNat 8 es, BitVec.ofNat 8 cap, 1] ++ bytesOf 8 data ++ List.replicate 16 0
          ++ bytesOf 4 (2 ^ cap) ++ List.replicate 4 0 ++ [BitVec.ofNat 8 s.me.die.val] ++ List.replicate 23 0) ∧ Passed s t 4 ∧ SlotKept s t id)

/-! ### Transfers, replication, the pod and groups -/

/-- R204 to R210: a copy or a gather whose operands pass their checks and whose rows or elements all do completes at issue: one
strip carries their moves, the barrier that they land on, if any, and the bytes they land there; one entry of the interlock table covers them,
RIDX becomes 0 and no byte has moved yet. The readings of logs 38, 39 and, for the translation of the barrier's word at issue, 25 and 96 are the model's. -/
def Obligations.TransfersIssueAStrip : Prop :=
  ∀ (d a b : SReg) (v : VReg) (w : Wid) (z : Sz) (x : OxReg) (s : State) (rec : Word) (rs : List RowPlan) (p : Place) (bar : Option Place) (at_ : Word),
    let sd := s.getS d
    let sa := s.getS a
    let sb := s.getS b
    let es := 2 ^ bits rec 56 3
    let dstr := (BitVec.ofNat 20 (bits rec 36 20)).signExtend 64
    let sstr := (BitVec.ofNat 20 (bits rec 16 20)).signExtend 64
    let len := bits rec 0 11
    let place := if bitAt rec 63 then some (ETy.ofCode (bits rec 59 4)) else none
    let left := s.me.vl - s.me.ridx
    let onBarrier := (at_ = 0 ∧ bar = none) ∨ (at_ ≠ 0 ∧ at_.toNat < 2 ^ 55 ∧ at_.toNat % 16 = 0 ∧ ∃ q, bar = some q ∧ s.look .rw 0 at_ 16 = .ok q ∧ q.Marked true)
    s.me.chunk = none → s.me.ilk.length < 8 → rs ≠ [] → (∀ r ∈ rs, r.Marked) → onBarrier →
      let issues := fun (i : Instr) (kind : IlkKind) => Completes i s fun t =>
        SameMemory s t ∧ Passed s t 4 ∧ t.me.img.ridx = 0 ∧ SlotKept s t (Ctx.noIlk ∘ Ctx.noRidx)
        ∧ ∃ (st : Strip) (e : Ilk), st.id = s.serial ∧ st.kind = kind ∧ st.owner = some (s.me.die, s.me.slot) ∧ st.barrier = bar.map (·.loc) ∧ st.bytes = (rs.map (·.dn)).sum ∧ st.status = 0
          ∧ st.moves = (rs.map (·.moves)).flatten ∧ e.id = s.serial ∧ e.kind = kind ∧ t.me.ilk = s.me.ilk ++ [e]
          ∧ (∀ r ∈ rs, e.dst ≤ r.dst ∧ r.dst + r.dn ≤ e.dst + e.dlen ∨ r.dn = 0)
          ∧ t.net = s.net ++ [if kind = .gx then .gather st else .strip st]
      (∀ i kind, (i, kind) ∈ [(Instr.cpIn d a b x, CpKind.cpIn), (.cpOut d a b x, .cpOut), (.cpTt d a b x, .cpTt)] →
        s.OxHolds x .shape rec → sb = at_ → (∀ u ∈ [sd, sa, dstr, sstr], u.toNat % es = 0) →
        inSpace kind.srcTile sa = true → inSpace kind.dstTile sd = true → ¬ (kind = .cpOut ∧ place.isSome) →
        s.planRows (fun r => s.planRow kind place len (sa + word r * sstr) (sd + word r * dstr)) (upFrom s.me.ridx left) = (rs, none) →
        issues i kind.ilk)
      ∧ (s.OxHolds x .raw at_ → v.val + Max.max 1 ((s.me.vl * (8 * w.bytes) + 2047) / 2048) ≤ 32 → sb.toNat % z.bytes = 0 → inSpace true sb = true →
        s.placeOf s.me .w 3 sb = .ok p → oneBank (p.loc + s.me.ridx * z.bytes) (left * z.bytes) = true →
        s.planElems v w z.bytes sa sb (upFrom s.me.ridx left) = (rs, none) → issues (.gx v a b w z x) .gx)

/-- R205, R334, R363, R190: a strip is accepted by its streamer while that holds fewer than 16; a row of a strip copies its source bytes to its
destination; a gather unit takes a request, asks other homes in batches, and writes the vector when it is whole; a landing
subtracts its bytes from its barrier's BYTES and frees its interlock entry. -/
def Obligations.TransfersMoveAndLand : Prop :=
  ∀ (s : State) (k : Nat) (st : Strip) (rest : List Packet) (restS : List Strip) (m : Move) (tid : Nat) (src : DieId),
    (s.arrive k = some (.strip st, rest) → (∀ p ∈ s.net.take k, ∀ o, p ≠ .strip o) → (s.moves.filter fun o => o.at st.die st.ring).length < 16 →
      st.place = none → exec (.stripAccept k) s = .next { s with net := rest, moves := s.moves ++ [st] })
    ∧ (s.MemOk → s.Serial → takeAt k s.moves = some (st, restS) → st.kind ≠ .gx → (∀ o ∈ s.moves.take k, o.at st.die st.ring = false) →
      st.moves = [m] → m.conv = none → m.len = m.wlen → (isTile m.src = true ∨ isDram m.src = true) → (isTile m.dst = true ∨ isDram m.dst = true) →
      s.Sound m.src m.len → Completes (.stripLand k) s fun t =>
        StoredBytes s t m.dst (memBytes s.mem m.src m.len) ∧ t.moves = restS ∧ SlotKept s t id ∧ .landing { st with moves := [] } ∈ t.net)
    ∧ (s.MemOk → s.Serial → s.arrive k = some (.gather st, rest) → (s.moves.filter fun o => o.kind == .gx && o.die == st.die).length < 8 →
      st.data = [] → st.moves = [m] → isDram m.src = true → isTile m.dst = true → s.Sound m.src m.len → 
      (homeOf m.src = st.die → Completes (.gatherRequest k) s fun t => StoredBytes s t m.dst (memBytes s.mem m.src m.len) ∧ SlotKept s t id)
      ∧ (homeOf m.src ≠ st.die → Completes (.gatherRequest k) s fun t =>
        SameMemory s t ∧ t.net = rest ++ [.batch st.id (homeOf m.src) [m]] ∧ SlotKept s t id))
    ∧ (s.MemOk → s.Serial → s.arrive k = some (.batch tid src [m], rest) → takeFirst (fun o => o.id == tid && o.kind == .gx) s.moves = some (st, restS) →
      st.awaits = [src] → st.data = [] → isDram m.src = true → isTile m.dst = true → s.Sound m.src m.len →
      Completes (.foreignBatch k) s fun t => StoredBytes s t m.dst (memBytes s.mem m.src m.len) ∧ t.moves = restS ∧ SlotKept s t id)
    ∧ (s.MemOk → s.Serial → s.arrive k = some (.landing st, rest) → s.unsettled st.id = false → st.kind ≠ .coll → 0 < st.bytes → st.status = 0 →
      ∀ loc, st.barrier = some loc → isDram loc = true → st.bytes < numAt s.mem loc 8 % 2 ^ 40 → Completes (.landing k) s fun t =>
        Stored s t loc 8 (numAt s.mem loc 8 - st.bytes) ∧ (∀ c ∈ t.me :: t.others, ∀ e ∈ c.ilk, e.id ≠ st.id) ∧ SlotKept s t Ctx.noIlk)

/-- R212, R213, R351: `rdeg.pin` sets the degree of the region of the address and pins it, `rdeg.auto` unpins it and keeps its degree; an address
that names no DRAM has no effect; `rpref` only sends requests for lines that are homed elsewhere. That a lowering waits for its collapses within the
instruction is the model's reading (log 40). -/
def Obligations.ReplicationDegrees : Prop :=
  ∀ (a b : SReg) (g : BitVec 2) (s : State) (loc : Nat),
    let d := homeOf loc
    let r := (s.die d).region (regionIx loc)
    s.me.chunk = none → s.me.answer = none →
    (s.regionOfVa (s.getS a) = .ok (some loc) →
      (r.deg.toNat ≤ g.toNat → Completes (.rdegPin a g) s fun t => Passed s t 4 ∧ SameMemory s t ∧ SlotKept s t id
        ∧ (t.die d).region (regionIx loc) = { r with deg := g, pin := true })
      ∧ (g.toNat < r.deg.toNat → (∀ e ∈ (s.die d).dir, regionIx e.line ≠ regionIx loc) → s.unsettled s.serial = false →
        Completes (.rdegPin a g) s fun t => Passed s t 4 ∧ SameMemory s t ∧ SlotKept s t id
        ∧ (t.die d).region (regionIx loc) = { r with deg := g, pin := true })
      ∧ (Completes (.rdegAuto a g) s fun t => Passed s t 4 ∧ SameMemory s t ∧ SlotKept s t id
        ∧ (t.die d).region (regionIx loc) = { r with pin := false }))
    ∧ (s.regionOfVa (s.getS a) = .ok none → ∀ i ∈ [Instr.rdegPin a g, .rdegAuto a g],
        Completes i s fun t => Passed s t 4 ∧ Keeps s.uncounted t.uncounted id)
    ∧ (Completes (.rpref a b) s fun t => Passed s t 4 ∧ t.mem = s.mem ∧ t.dies = s.dies ∧ SlotKept s t id
        ∧ ∃ l, t.net = s.net ++ l ∧ ∀ p ∈ l, ∃ i line h,
          p = .read i s.me.die s.me.slot line h (.strand s.me.strand s.me.deadline) ∧ homeOf line ≠ s.me.die)

/-- R223 to R225: a pod access that passes its checks leaves by the port of its route; `ld.pod` waits for its reply and then writes it, sign-extended;
`st.pod` completes at issue; a misaligned address and a module number of PODSIZE or more, or above 1,023, trap.
TVAL of a module number is the model's choice (log 46). -/
def Obligations.PodAccesses : Prop :=
  ∀ (d a b : SReg) (z : Sz) (s : State) (x : Word),
    let n := z.bytes
    let sa := s.getS a
    let modl := (s.getS b).toNat
    let port := s.route modl
    s.me.chunk = none →
    (s.me.answer = none → sa.toNat % n ≠ 0 → exec (.ldPod d a b z) s = .next (s.trap (.of cMISALIGN sa)) ∧ exec (.stPod d a b z) s = .next (s.trap (.of cMISALIGN sa)))
    ∧ (s.me.answer = none → sa.toNat % n = 0 → s.podSize s.me.die ≤ modl ∨ 1024 ≤ modl →
      exec (.ldPod d a b z) s = .next (s.trap (.of cACCESS sa)) ∧ exec (.stPod d a b z) s = .next (s.trap (.of cACCESS sa)))
    ∧ (s.me.answer = none → sa.toNat % n = 0 → modl < s.podSize s.me.die → modl < 1024 → s.routeHeld modl port = false →
      (Completes (.ldPod d a b z) s fun t => t.me.pc = s.me.pc ∧ t.me.sent = some s.serial ∧ t.mem = s.mem ∧ SlotKept s t id
        ∧ t.net = s.net ++ [.pod s.serial s.me.die s.me.slot s.me.strand true n modl sa 0 port s.me.deadline])
      ∧ (Completes (.stPod d a b z) s fun t => Passed s t 4 ∧ t.mem = s.mem ∧ SlotKept s t id
        ∧ t.net = s.net ++ [.pod s.serial s.me.die s.me.slot s.me.strand false n modl sa (word ((s.getS d).toNat % 2 ^ (8 * n))) port s.me.deadline]))
    ∧ (s.me.answer = some (.value x 0 none) → Completes (.ldPod d a b z) s fun t =>
        WroteS s t d ((x.setWidth (8 * n)).signExtend 64) ∧ Passed s t 4 ∧ t.mem = s.mem ∧ SlotKept s t Ctx.noS)

/-- R214 to R217, R219 to R221, R447, R448: `gform` that finds no outcome of its own starts a formation in a new entry, registers and waits for it; one whose
outcome is there writes STATUS 63:56, and of a success GEN 47:16 and HANDLE; `gstat` writes RANK, GEN, CAUSE and STATE; `cabort` ends a READY group with
cause LOCAL and tells the members; a collective of an ended group posts its bytes and lands them with status ABORT (2) at once.
The low bits of a result that is no success (log 45), and the bytes of a handle without a group (log 106), are the model's choices. -/
def Obligations.GroupInstructions : Prop :=
  ∀ (d a b : SReg) (x : OxReg) (s : State) (g : Group) (out : FormDone) (gid : Gid) (w0 rec : Word) (ws : List Word) (ms : List Member) (det : Bool) (hd : BitVec 8)
    (p : Place) (src dst : List (Place × Nat)) (n rank : Nat),
    let die := s.me.die
    let sa := s.getS a
    let sb := s.getS b
    let h := sa.toNat
    let own : Member := ⟨s.myMod die, die⟩
    let tmo := (if bits sb 0 20 = 0 then 50000 else Min.min (bits sb 0 20) 1000000) * 1600
    let fresh := sa.toNat % 8 = 0 ∧ (∀ o ∈ (s.die die).formed, o.strand ≠ s.me.strand) ∧ (∀ q ∈ (s.die die).groups, ∀ f, q.forming = some f → f.strand ≠ s.me.strand)
      ∧ s.settled .die s.me.dmask = true ∧ s.me.wait = none ∧ s.ReadsIn 0 sa 8 w0.toNat
    let started := fun (t : State) => ∃ q f, t.group? die hd = some q ∧ q.state = .forming ∧ q.gen = 0 ∧ q.forming = some f ∧ f.members = ms ∧ f.det = det ∧ f.reform = false
      ∧ f.strand = s.me.strand ∧ f.since = s.tick ∧ f.tmo = tmo ∧ ms[f.rank.toNat]? = some own
      ∧ ∀ z, ms.head? = some z → z ≠ own → s.here die z = true → .register ⟨z.die, 0, f.rank.toNat, ms, det, false, 0⟩ die hd ∈ t.net
    let r := CollRec.ofFields (rec.setWidth 48)
    let hc := bits rec 48 16
    let bytes := r.posted n
    let w := numAt s.mem p.loc 8
    let rl := numAt s.mem (p.loc + 8) 8
    let ended := (hc < 256 ∧ s.group? die (BitVec.ofNat 8 hc) = some g ∧ g.state = .aborted ∧ n = g.members.length ∧ rank = g.rank.toNat ∧ g.members ≠ [] ∧ r.root < n
        ∧ (s.me.det = true → g.det = true) ∧ s.spanAll .r sa (r.srcLen n rank / 65536 + 2) (r.srcLen n rank) = .ok src
        ∧ s.spanAll .w (s.getS d) (r.dstLen n / 65536 + 2) (r.dstLen n) = .ok dst ∧ (∀ q ∈ src, q.1.Marked false) ∧ ∀ q ∈ dst, q.1.Marked true)
      ∨ ((256 ≤ hc ∨ s.group? die (BitVec.ofNat 8 hc) = none) ∧ n = 1)
    s.me.chunk = none →
    (sa.toNat % 8 = 0 → (s.die die).formed.find? (fun o => o.strand == s.me.strand) = some out →
      (out.status = 0 → Completes (.gform d a b) s fun t =>
        WroteS s t d (word (out.gen.toNat * 2 ^ 16 + out.handle.toNat)) ∧ Passed s t 4 ∧ t.mem = s.mem ∧ SlotKept s t Ctx.noS ∧ (t.die die).formed = (s.die die).formed.erase out)
      ∧ (out.status ≠ 0 → Completes (.gform d a b) s fun t =>
        (∃ low : BitVec 48, WroteS s t d (word (out.status.toNat * 2 ^ 56 + low.toNat))) ∧ Passed s t 4 ∧ t.mem = s.mem ∧ SlotKept s t Ctx.noS))
    ∧ (fresh → bits w0 0 11 = ws.length → 2 ≤ ws.length → ws.length ≤ 1024 → (∀ k v, ws[k]? = some v → s.ReadsIn 0 (sa + 8 + word (8 * k)) 8 v.toNat) →
      s.listOk die (w0 :: ws) sb = some (ms, det) → bits sb 32 16 = 0xFFFF → s.freeHandle die = some hd → Completes (.gform d a b) s fun t =>
        started t ∧ t.me.pc = s.me.pc ∧ SameMemory s t ∧ SlotKept s t id ∧ ∃ v, t.me.wait = some v ∧ v.what = .group ∧ v.loc = hd.toNat ∧ v.lim = tmo)
    ∧ (fresh → bits w0 0 11 = 0 → Completes (.gform d a b) s fun t =>
        (∃ low : BitVec 48, WroteS s t d (word (8 * 2 ^ 56 + low.toNat))) ∧ Passed s t 4 ∧ SameMemory s t ∧ SlotKept s t Ctx.noS)
    ∧ (Completes (.gstat d a) s fun t => Passed s t 4 ∧ Keeps s t Ctx.noS ∧ WroteS s t d
        (match (if h < 256 then s.group? die (BitVec.ofNat 8 h) else none) with
        | some q => word (q.rank.toNat * 2 ^ 48 + q.gen.toNat * 2 ^ 16 + q.cause.toNat * 2 ^ 8 + q.state.code)
        | none => 0))
    ∧ (h < 256 → s.group? die (BitVec.ofNat 8 h) = some g → g.state = .ready → g.ops = [] → Completes (.cabort a) s fun t =>
        Passed s t 4 ∧ t.mem = s.mem ∧ SlotKept s t id ∧ t.group? die (BitVec.ofNat 8 h) = some { g with state := .aborted, cause := gLOCAL, early := [] }
        ∧ (g.gid = some gid → ∀ m ∈ g.members, m ≠ own → s.here die m = true → .abort die m.die gid g.gen ∈ t.net))
    ∧ ((256 ≤ h ∨ ∀ q, s.group? die (BitVec.ofNat 8 h) = some q → q.state ≠ .ready) → Completes (.cabort a) s fun t => Passed s t 4 ∧ Keeps s t id)
    ∧ (s.MemOk → s.Serial → s.OxHolds x .coll rec → ended → (r.kind = .barrier → r.count = 0) → 0 < bytes →
      (r.kind ≠ .barrier → sa.toNat % r.ty.bytes = 0 ∧ (s.getS d).toNat % r.ty.bytes = 0) → sb ≠ 0 → sb.toNat < 2 ^ 55 → s.Reaches .rw 0 sb 16 p →
      isDram p.loc = true → homeOf p.loc = die → s.me.ilk.length < 8 → s.settled .mask s.me.dmask = true → bytes < 2 ^ 40 → w % 2 ^ 40 + bytes < 2 ^ 40 →
      Completes (.coll d a b x) s fun t => Passed s t 4 ∧ SlotKept s t id ∧ Stored s t p.loc 8
        (if w % 2 ^ 61 = 0 then (1 - w / 2 ^ 63) * 2 ^ 63 + Max.max (w / 2 ^ 61 % 4) 2 * 2 ^ 61 + rl % 2 ^ 61
        else w / 2 ^ 63 * 2 ^ 63 + Max.max (w / 2 ^ 61 % 4) 2 * 2 ^ 61 + w % 2 ^ 61))

/-- R218, R219: a collective of a READY group of two or more members adds its bytes to the barrier's BYTES, takes the group's next sequence number and
an entry of the interlock table, and completes at issue. A broadcast's ROOT needs no other member: its own destination is written at once.
The source is read at issue (log 42). -/
def Obligations.CollectiveIssue : Prop :=
  ∀ (d a b : SReg) (x : OxReg) (s : State) (rec : Word) (g : Group) (p : Place) (src dst : List (Place × Nat)),
    let r := CollRec.ofFields (rec.setWidth 48)
    let n := g.members.length
    let bytes := r.posted n
    let h := bits rec 48 16
    s.MemOk → s.Serial → s.OxHolds x .coll rec → h < 256 → s.group? s.me.die (BitVec.ofNat 8 h) = some g → g.state = .ready → g.early = [] → g.ops = [] →
    2 ≤ n → r.root < n → (r.kind = .barrier → r.count = 0) → g.rank.toNat < n → (s.me.det = true → g.det = true) →
    (r.kind ≠ .barrier → (s.getS a).toNat % r.ty.bytes = 0 ∧ (s.getS d).toNat % r.ty.bytes = 0) → s.getS b ≠ 0 → (s.getS b).toNat < 2 ^ 55 →
    s.Reaches .rw 0 (s.getS b) 16 p → isDram p.loc = true → homeOf p.loc = s.me.die → s.me.ilk.length < 8 →
    s.spanAll .r (s.getS a) (r.srcLen n g.rank.toNat / 65536 + 2) (r.srcLen n g.rank.toNat) = .ok src →
    s.spanAll .w (s.getS d) (r.dstLen n / 65536 + 2) (r.dstLen n) = .ok dst → (∀ q ∈ src, q.1.Marked false) → (∀ q ∈ dst, q.1.Marked true) →
    s.settled .mask s.me.dmask = true → bytes < 2 ^ 40 → numAt s.mem p.loc 8 % 2 ^ 40 + bytes < 2 ^ 40 →
    let issued := fun (t : State) (P : CollOp → Prop) => Passed s t 4 ∧ SlotKept s t Ctx.noIlk ∧ (∃ e, t.me.ilk = s.me.ilk ++ [e] ∧ e.kind = .coll ∧ e.dlen = r.dstLen n)
      ∧ ∃ q o, t.group? s.me.die (BitVec.ofNat 8 h) = some q ∧ q.seqno = g.seqno + 1 ∧ q.ops = [o] ∧ o.seqno = g.seqno ∧ o.bytes = bytes
        ∧ o.barrier = p.loc ∧ o.strand = s.me.strand ∧ P o
    let whole := r.kind = .broadcast ∧ g.rank.toNat = r.root
    (¬ whole → Completes (.coll d a b x) s fun t => Stored s t p.loc 8 (numAt s.mem p.loc 8 + bytes) ∧ issued t fun o => o.written = false)
    ∧ (whole → ∀ from_ into len, src = [(from_, len)] → dst = [(into, len)] → isDevice from_.loc = false → isDevice into.loc = false → s.Sound from_.loc len →
      (from_.loc + len ≤ p.loc ∨ p.loc + 8 ≤ from_.loc) → (into.loc + len ≤ p.loc ∨ p.loc + 8 ≤ into.loc) → Completes (.coll d a b x) s fun t =>
        StoredBoth s t p.loc (bytesOf 8 (numAt s.mem p.loc 8 + bytes)) into.loc (memBytes s.mem from_.loc len) ∧ issued t fun o => o.written = true)

/-! ### Forked regions -/

/-- R141, R142, R144, R146, R147: `fork` begins a region whose head is the next word, and inside one only goes on; `floop` loops, counts and
ends its chunk; `fexit` and a transfer out of the body at depth 0 make the chunk final; links count the call depth; `fhold` waits for the
oldest chunk. None of these marks falls in the handler of a trap (log 100). The 64 bits of the program counter (log 7), the writing of the fork image
(logs 15 and 105) and the corners of `floop` and `fexit` (log 95) are the model's readings. -/
def Obligations.ForkedRegionInstructions : Prop :=
  ∀ (a b d : SReg) (o : BitVec 11) (u : BitVec 19) (s : State) (k : Chunk) (r : Region),
    let x := s.getS a
    let target := BitVec.ofInt 64 (s.me.pc.toInt + 2 * o.toInt)
    let callee := BitVec.ofInt 64 (s.me.pc.toInt + 2 * u.toInt)
    let n := x.toNat
    let less := x.toInt < (s.getS b).toInt
    let inRegion := s.me.chunk = some k ∧ s.me.regionOf s = some r ∧ k.traps = 0
    let out := fun (p : Word) => ¬ (r.head.toNat ≤ p.toNat ∧ p.toNat < r.exit.toNat)
    let begun := fun (t : State) => Passed s t 4 ∧ t.me.s = s.me.s ∧ t.me.ox = s.me.ox ∧ t.me.img = s.me.img.trim
      ∧ t.me.chunk = some { Chunk.start 0 true with fin := BitVec.allOnes 32 }
      ∧ ∃ q, t.me.regionOf t = some q ∧ q.head = s.me.pc + 4 ∧ q.exit = target ∧ q.c = (if 2 ^ 16 ≤ n then 0 else n)
        ∧ q.image = s.me.img.trim ∧ q.slots = [s.me.slot] ∧ q.flags = s.me.img.flags
    (o.toInt < 3 → exec (.fork a o) s = .next (s.trap s.me.illegal))
    ∧ (3 ≤ o.toInt → s.me.chunk = some k → Completes (.fork a o) s fun t => Passed s t 4 ∧ Keeps s t id)
    ∧ (3 ≤ o.toInt → s.Alone → s.me.mmaAcc = none → s.me.pc.toNat + 2048 < 2 ^ 64 →
      (saveFits s.me.ctl.privbase = false → Completes (.fork a o) s fun t => begun t ∧ t.mem = s.mem ∧ t.others = s.others)
      ∧ (saveFits s.me.ctl.privbase = true → s.Serial → Completes (.fork a o) s begun))
    ∧ ((∀ k' r', s.me.chunk = some k' → s.me.regionOf s = some r' → target ≠ r'.head ∨ k'.depth ≠ 0 ∨ k'.traps ≠ 0) →
      (less → Completes (.floop a b o) s fun t => t.me.pc = target ∧ Keeps s t id)
      ∧ (¬ less → Completes (.floop a b o) s fun t => Passed s t 4 ∧ Keeps s t id))
    ∧ (inRegion → target = r.head → k.depth = 0 → r.head.toNat < r.exit.toNat →
      let next := { k with iter := k.iter + 1 }
      (less → r.c = 0 ∨ k.iter + 1 < r.c → Completes (.floop a b o) s fun t =>
        t.me.pc = r.head ∧ t.me.chunk = some next ∧ Keeps s t Ctx.noChunk)
      ∧ (less → r.c ≠ 0 → k.iter + 1 = r.c → Completes (.floop a b o) s fun t =>
        t.me.pc = r.head ∧ t.me.chunk = some { next with ended := true } ∧ Keeps s t Ctx.noChunk)
      ∧ (¬ less → out (s.me.pc + 4) → Completes (.floop a b o) s fun t =>
        Passed s t 4 ∧ t.me.chunk = some { next with final := true, ended := true } ∧ Keeps s t Ctx.noChunk)
      ∧ (¬ less → ¬ out (s.me.pc + 4) → Completes (.floop a b o) s fun t =>
        Passed s t 4 ∧ t.me.chunk = some next ∧ Keeps s t Ctx.noChunk))
    ∧ (s.me.chunk = none → Completes (.fexit o) s fun t => t.me.pc = target ∧ Keeps s t id)
    ∧ (s.me.chunk = some k → Completes (.fexit o) s fun t => t.me.pc = target ∧ Keeps s t id
        ∧ ∃ q, t.me.chunk = some q ∧ q.final = true ∧ q.ended = true)
    ∧ (inRegion → k.depth = 0 → less → out target → Completes (.blt a b o) s fun t => t.me.pc = target
        ∧ ∃ q, t.me.chunk = some q ∧ q.final = true ∧ q.ended = true)
    ∧ (inRegion → d ≠ 0 → k.depth.toNat < 65535 → Completes (.jl d u) s fun t => t.me.pc = callee
        ∧ ∃ q, t.me.chunk = some q ∧ q.depth = k.depth + 1 ∧ q.final = k.final)
    ∧ (inRegion → d ≠ 0 → k.depth.toNat = 65535 → Completes (.jl d u) s fun t => t.me.pc = callee
        ∧ ∃ q, t.me.chunk = some q ∧ q.final = true ∧ q.ended = true)
    ∧ (inRegion → 1 < k.depth.toNat → x.getLsbD 0 = false → Completes (.jlr 0 a 0) s fun t => t.me.pc = x
        ∧ ∃ q, t.me.chunk = some q ∧ q.depth = k.depth - 1 ∧ q.final = k.final)
    ∧ (inRegion → k.depth = 1 → x.getLsbD 0 = false → out x → Completes (.jlr 0 a 0) s fun t => t.me.pc = x
        ∧ ∃ q, t.me.chunk = some q ∧ q.depth = 0 ∧ q.final = true)
    ∧ (s.me.chunk = none → Completes .fhold s fun t => Passed s t 4 ∧ Keeps s t id)
    ∧ (s.me.chunk = some k → k.oldest = false → exec .fhold s = .next s)
    ∧ (s.me.chunk = some k → k.oldest = true → k.spec = false → Completes .fhold s fun t => Passed s t 4 ∧ Keeps s t id)

/-! ### Floating point -/

/-- R53, R54, R55, R59: a sum, product, quotient, fused sum, square root or conversion of finite values is the exact real number rounded once;
an exact zero has the sign of IEEE 754-2019, and the conversion of a zero keeps its sign; a finite non-zero number divided by zero is a signed
infinity with DZ. -/
def Obligations.FloatArithmeticRoundsOnce : Prop :=
  ∀ (f : FF) (mode : Mode) (x y z : Nat) (neg : Bool) (i : Int), f ∈ floatFormats → mode < 5 →
    let a := f.dec x
    let b := f.dec y
    let c := f.dec z
    let rounds := fun (v : ℝ) (r : FRes) => v ≠ 0 → (neg = true ↔ v < 0) → f.RoundsTo mode neg |v| r
    let zero := fun (minus : Bool) => ((if minus then f.sgn else 0, 0) : FRes)
    a.finite → b.finite → c.finite →
      rounds (a.val + b.val) (f.add mode x y) ∧ rounds (a.val - b.val) (f.sub mode x y)
      ∧ (a.val + b.val = 0 → f.add mode x y = zero (if a.signBit = b.signBit then a.signBit else mode = 3))
      ∧ (a.val - b.val = 0 → f.sub mode x y = zero (if a.signBit = !b.signBit then a.signBit else mode = 3))
      ∧ rounds (a.val * b.val) (f.mul mode x y) ∧ (a.val * b.val = 0 → f.mul mode x y = zero (a.signBit != b.signBit))
      ∧ (b.val ≠ 0 → rounds (a.val / b.val) (f.div mode x y) ∧ (a.val = 0 → f.div mode x y = zero (a.signBit != b.signBit)))
      ∧ (b.val = 0 → a.val ≠ 0 → f.div mode x y = ((if a.signBit != b.signBit then f.sgn else 0) + f.inf, fDZ))
      ∧ rounds (a.val * b.val + c.val) (f.fma mode x y z) ∧ rounds (a.val * b.val - c.val) (f.fms mode x y z)
      ∧ (a.val * b.val + c.val = 0 → f.fma mode x y z
          = zero (if (a.signBit != b.signBit) = c.signBit then c.signBit else mode = 3))
      ∧ (a.val * b.val - c.val = 0 → f.fms mode x y z
          = zero (if (a.signBit != b.signBit) = !c.signBit then !c.signBit else mode = 3))
      ∧ (0 < a.val → f.RoundsTo mode false (Real.sqrt a.val) (f.sqrt mode x)) ∧ (a.val = 0 → f.sqrt mode x = zero a.signBit)
      ∧ (∀ g ∈ floatFormats, (g.dec x).finite → rounds (g.dec x).val (f.ofV mode (g.dec x))
          ∧ ((g.dec x).val = 0 → f.ofV mode (g.dec x) = zero (g.dec x).signBit))
      ∧ rounds (i : ℝ) (f.ofInt mode i) ∧ f.ofInt mode 0 = zero false

/-- R52, R56, R57, R58, R61, R135: NaN results, invalid operations, minimum and maximum, comparisons, the class word, and the conversion
to an integer, which rounds, then saturates. -/
def Obligations.FloatSpecialValues : Prop :=
  ∀ (f : FF) (mode : Mode) (x y z : Nat) (lo hi : Int), f ∈ floatFormats → mode < 5 → x < 2 ^ f.width → y < 2 ^ f.width →
    let a := f.dec x
    let b := f.dec y
    let c := f.dec z
    let nv := fun (q : Bool) => (if q then fNV else 0 : BitVec 6)
    let two := a.snan || b.snan
    let exp := x / 2 ^ f.mb % 2 ^ f.eb
    let frac := x % 2 ^ f.mb
    let minus := f.sgn ≤ x
    (a.isNan = true ∨ b.isNan = true → ∀ r ∈ [f.add mode x y, f.sub mode x y, f.mul mode x y, f.div mode x y], r = (f.nan, nv two))
    ∧ ((a.isNan || b.isNan || c.isNan) = true → (f.fma mode x y z).1 = f.nan ∧ (f.fms mode x y z).1 = f.nan
        ∧ ((two || c.snan) = true → (f.fma mode x y z).2 = fNV ∧ (f.fms mode x y z).2 = fNV))
    ∧ (a.isNan = true → f.sqrt mode x = (f.nan, nv a.snan))
    ∧ (∀ p, a = .inf p → (b = .inf (!p) → f.add mode x y = (f.nan, fNV)) ∧ (b = .inf p → f.sub mode x y = (f.nan, fNV))
        ∧ (b.finite → f.add mode x y = ((if p then f.sgn else 0) + f.inf, 0) ∧ f.sub mode x y = ((if p then f.sgn else 0) + f.inf, 0)))
    ∧ (∀ p q e, a = .inf p → b = .fin q 0 e → f.mul mode x y = (f.nan, fNV) ∧ f.mul mode y x = (f.nan, fNV))
    ∧ (∀ p q, a = .inf p → b = .inf q → f.div mode x y = (f.nan, fNV) ∧ f.mul mode x y = ((if p != q then f.sgn else 0) + f.inf, 0))
    ∧ (∀ p q e e', a = .fin p 0 e → b = .fin q 0 e' → f.div mode x y = (f.nan, fNV))
    ∧ (a.val < 0 ∨ a = .inf true → f.sqrt mode x = (f.nan, fNV))
    ∧ (∀ g ∈ floatFormats, a.isNan = true → g.ofV mode a = (g.nan, nv a.snan))
    ∧ (a.isNan = true → b.isNan = false → f.minmax false x y = (y, nv two) ∧ f.minmax true x y = (y, nv two)
        ∧ f.minmax false y x = (y, nv two) ∧ f.minmax true y x = (y, nv two))
    ∧ (a.isNan = true → b.isNan = true → f.minmax false x y = (f.nan, nv two) ∧ f.minmax true x y = (f.nan, nv two))
    ∧ (a.finite → b.finite → (a.val < b.val ∨ a.val = b.val ∧ a.signBit = true ∧ b.signBit = false) →
        f.minmax false x y = (x, 0) ∧ f.minmax false y x = (x, 0) ∧ f.minmax true x y = (y, 0) ∧ f.minmax true y x = (y, 0))
    ∧ (∀ p, a = .inf p → b.finite ∨ b = .inf (!p) → (∀ l : Bool, f.minmax l x y = (if p = l then y else x, 0) ∧ f.minmax l y x = (if p = l then y else x, 0))
        ∧ fcmpEq a b = (false, 0) ∧ fcmpEq b a = (false, 0) ∧ fcmpLt a b = (p, 0) ∧ fcmpLt b a = (!p, 0) ∧ fcmpLe a b = (p, 0) ∧ fcmpLe b a = (!p, 0))
    ∧ (a.isNan = false → (∀ l : Bool, f.minmax l x x = (x, 0)) ∧ fcmpEq a a = (true, 0) ∧ fcmpLt a a = (false, 0) ∧ fcmpLe a a = (true, 0))
    ∧ ((a.isNan || b.isNan) = true → fcmpEq a b = (false, nv two) ∧ fcmpLt a b = (false, fNV) ∧ fcmpLe a b = (false, fNV))
    ∧ (a.finite → b.finite → (fcmpEq a b).2 = 0 ∧ (fcmpLt a b).2 = 0 ∧ (fcmpLe a b).2 = 0 ∧ ((fcmpEq a b).1 = true ↔ a.val = b.val)
        ∧ ((fcmpLt a b).1 = true ↔ a.val < b.val) ∧ ((fcmpLe a b).1 = true ↔ a.val ≤ b.val))
    ∧ f.classOf x = (if exp = 0 then (if frac = 0 then (if minus then 8 else 16) else if minus then 4 else 32)
        else if exp < 2 ^ f.eb - 1 then (if minus then 2 else 64)
        else if frac = 0 then (if minus then 1 else 128) else if frac < 2 ^ (f.mb - 1) then 256 else 512)
    ∧ (a.isNan = true → toInt mode lo hi a = (0, fNV))
    ∧ (∀ p, a = .inf p → toInt mode lo hi a = (if p then lo else hi, fNV))
    ∧ (a.finite → lo ≤ hi → ∃ n, RoundsInt mode a.val n ∧ (n < lo → toInt mode lo hi a = (lo, fNV)) ∧ (hi < n → toInt mode lo hi a = (hi, fNV))
        ∧ (lo ≤ n → n ≤ hi → ((n : ℝ) = a.val → toInt mode lo hi a = (n, 0)) ∧ ((n : ℝ) ≠ a.val → toInt mode lo hi a = (n, fNX))))

/-- R133, R134, R136, R38: a scalar floating-point instruction reads the low bits of its registers, writes its result zero-extended, ORs its flags
into FLAGS, even when sd is s0, and changes nothing else; `fclass` raises no flag; 32-bit signed conversions are sign-extended. -/
def Obligations.ScalarFloatResults : Prop :=
  ∀ (d a b : SReg) (t : Fmt) (src dst : CvtTy) (r : Rnd) (s : State),
    let f := ffOf t
    let w := 2 ^ f.width
    let x := (s.getS a).toNat % w
    let y := (s.getS b).toNat % w
    let z := (s.getS d).toNat % w
    let mode := if s.me.rmode = 4 then 0 else s.me.rmode.toNat
    let writes := fun (i : Instr) (v : Word) (fl : BitVec 6) => Completes i s fun u => WroteS s u d v ∧ u.me.img.flags = s.me.img.flags ||| fl
      ∧ Passed s u 4 ∧ Keeps s u (Ctx.noS ∘ Ctx.noFlags)
    let gives := fun (i : Instr) (q : FRes) => writes i (word q.1) q.2
    let answers := fun (i : Instr) (q : Bool × BitVec 6) => writes i (if q.1 then 1 else 0) q.2
    let m := if r = .dyn then s.me.rmode.toNat else r.code
    let source : Sum FV Int := match src with
      | .f64 => .inl (ff64.dec (s.getS a).toNat) | .f32 => .inl (ff32.dec (s.getS a).toNat) | .f16 => .inl (ff16.dec (s.getS a).toNat)
      | .bf16 => .inl (ffbf.dec (s.getS a).toNat) | .i64 => .inr (s.getS a).toInt | .n64 => .inr (s.getS a).toNat
      | .i32 => .inr ((s.getS a).setWidth 32).toInt | .n32 => .inr (((s.getS a).setWidth 32).toNat : Int)
    let intoFloat := fun (g : FF) => match source with | .inl v => g.ofV m v | .inr i => g.ofInt m i
    gives (.fadd d a b t) (f.add mode x y) ∧ gives (.fsub d a b t) (f.sub mode x y) ∧ gives (.fmul d a b t) (f.mul mode x y)
    ∧ gives (.fdiv d a b t) (f.div mode x y) ∧ gives (.fmin d a b t) (f.minmax false x y) ∧ gives (.fmax d a b t) (f.minmax true x y)
    ∧ gives (.fsqrt d a t) (f.sqrt mode x) ∧ gives (.fma d a b t) (f.fma mode x y z) ∧ gives (.fms d a b t) (f.fms mode x y z)
    ∧ answers (.feq d a b t) (fcmpEq (f.dec x) (f.dec y)) ∧ answers (.flt d a b t) (fcmpLt (f.dec x) (f.dec y))
    ∧ answers (.fle d a b t) (fcmpLe (f.dec x) (f.dec y))
    ∧ (Completes (.fclass d a t) s fun u => ScalarResult s u d (word (f.classOf x)) 4)
    ∧ (∀ g, (dst, g) ∈ [(CvtTy.f64, ff64), (.f32, ff32), (.f16, ff16), (.bf16, ffbf)] → gives (.fcvt d a dst src r) (intoFloat g))
    ∧ (∀ v, source = .inl v → ∀ lo hi : Int, (dst, lo, hi) ∈ [(CvtTy.i64, -(2 ^ 63 : Int), (2 ^ 63 : Int) - 1), (.n64, 0, 2 ^ 64 - 1),
        (.i32, -(2 ^ 31 : Int), 2 ^ 31 - 1), (.n32, 0, 2 ^ 32 - 1)] →
        writes (.fcvt d a dst src r) (BitVec.ofInt 64 (toInt m lo hi v).1) (toInt m lo hi v).2)

/-! ### Vectors -/

/-- R233, R234, R42, R102, R235, R107: `setvl` writes the lesser of sa and VLMAX to VL and sd; `setspan` writes SPAN, whose IF tells an
unsupported pair, and lowers VL; an ox register takes a value, its kind and whether it breaks a check, from sa or from memory, and `oxs` stores it.
The checks of a record are those of R110 to R116: a raw value and a geometry record break none.
VLMAX while IF is set: log 24; the reserved bits of the records without a check of them: log 14. -/
def Obligations.VectorConfiguration : Prop :=
  ∀ (d a : SReg) (g : BitVec 2) (ty : ETy) (k : OxKind) (x : OxReg) (s : State) (p : Place) (bs : List Byte),
    let maxOf := fun (g : Nat) (t : ETy) => Min.min (2048 * 2 ^ g / t.ew) 256
    let supported := fun (g : Nat) (t : ETy) => g = 0 ∨ (g = 1 ∧ 16 ≤ t.ew) ∨ (g = 2 ∧ 32 ≤ t.ew)
    let gNow := s.me.img.span.toNat / 16 % 4
    let vl := Min.min (s.getS a).toNat (if s.me.spanIF then 256 else maxOf gNow s.me.et)
    let spans := fun (i : Instr) (g : Nat) (t : ETy) => Completes i s fun u => Passed s u 4 ∧ Keeps s u Ctx.noSpan
      ∧ (supported g t → u.me.img.span.toNat = 16 * g + t.code ∧ u.me.vl = Min.min s.me.vl (maxOf g t))
      ∧ (¬ supported g t → u.me.img.span.toNat = 256 + 16 * g + t.code ∧ u.me.vl = Min.min s.me.vl 256)
    let v := s.getS a
    let bytes := fun (t : Nat) => (([1, 2, 4, 8, 1, 2, 4, 8, 1, 1, 8, 4, 2, 2, 1, 1] : List Nat)[t]?).getD 0
    let limits : List (Nat × Nat × Nat) := [(0xA, 32, 32), (0xB, 32, 64), (0xC, 64, 64), (0xD, 64, 64), (0, 128, 64), (0xE, 128, 64), (0xF, 256, 64)]
    let elsz := bits v 56 3
    let rowlen := bits v 0 11
    let aet := bits v 60 4
    let breaks : OxKind → Prop := fun k => match k with
      | .raw | .geom => False
      | .shape => 3 < elsz ∨ bits v 11 5 ≠ 0 ∨ rowlen = 0 ∨ 1024 < rowlen ∨ rowlen % 2 ^ elsz ≠ 0 ∨ (bits v 63 1 = 1 ∧ bytes (bits v 59 4) ≠ 2 ^ elsz)
      | .mat => bits v 56 4 ≠ aet ∨ bits v 38 1 ≠ 0 ∨ bits v 0 2 ≠ 0 ∨ ∀ l ∈ limits, l.1 = aet →
          bits v 47 9 = 0 ∨ l.2.1 < bits v 47 9 ∨ bits v 40 7 = 0 ∨ l.2.2 < bits v 40 7 ∨ (14 ≤ aet ∧ bits v 47 9 % 32 ≠ 0)
      | .st => bits v 36 7 = 0 ∨ 64 < bits v 36 7 ∨ bits v 32 4 ∉ [2, 0xA, 0xB, 0xC, 0xD]
      | .pack => bits v 0 4 ∉ [0xE, 0xF]
      | .qinit => 24 < bits v 8 5 ∨ 5 < bits v 0 3
      | .coll => 4 < bits v 44 4 ∨ bits v 40 2 = 3
    let holds := fun (u : State) (v : Word) => u.me.ox = s.me.ox.set x ⟨v, BitVec.ofNat 3 k.code, oxBreaks k v⟩
    ((s.me.spanIF = true ∨ gNow < 3) → Completes (.setvl d a) s fun u =>
        u.me.vl = vl ∧ WroteS s u d (word vl) ∧ u.me.img.span = s.me.img.span ∧ Passed s u 4 ∧ Keeps s u (Ctx.noS ∘ Ctx.noSpan))
    ∧ spans (.setspanImm g ty) g.toNat ty
    ∧ spans (.setspanReg a) (bits (s.getS a) 4 2) (ETy.ofCode (bits (s.getS a) 0 4))
    ∧ (Completes (.oxr a k x) s fun u => holds u (s.getS a) ∧ Passed s u 4 ∧ u.mem = s.mem ∧ (s.me.chunk = none → Keeps s u Ctx.noOx))
    ∧ (s.me.chunk = none → s.Reaches .r 2 (s.getS a) 8 p → s.loadBytes p 8 = .data (bs.map some) → Completes (.oxl a k x) s fun u =>
        holds u (BitVec.ofNat 64 (ofBytes bs)) ∧ Passed s u 4 ∧ SameMemory s u ∧ (s.Roomy p.loc → Keeps s.traceless u.traceless Ctx.noOx))
    ∧ (oxBreaks k v = true ↔ breaks k)
    ∧ (s.MemOk → s.me.chunk = none → s.Reaches .w 2 (s.getS a) 8 p → s.Near p.loc → s.Unread p.loc 8 → s.storeRoom s.me p.loc 8 = true →
        Completes (.oxs a x) s fun u => Stored s u p.loc 8 (s.me.ox[x]).val.toNat ∧ Passed s u 4 ∧ SlotKept s u id)

/-- R237, R238, R240, R74, R75: a vector load puts into each active element from RIDX on the element at its own place: consecutive, at a stride,
or at an index; elements of a formatted bank are converted, with their flags. RIDX ends at 0. A fault of the first element stops at it with ELEM.
The bank is that of the base (log 31), checked whatever VL is (log 32); the address of a position at an odd half-byte is the model's choice (log 94). -/
def Obligations.VectorLoadResults : Prop :=
  ∀ (d b : VReg) (a c : SReg) (m : MReg) (s : State) (val : Nat → FRes) (k : Nat) (f : Trap),
    let base := s.getS a
    let t := s.me.et
    let bank := s.bankFmt base
    let is := s.me.activeFrom m s.me.ridx
    let loads := fun (i : Instr) (form : VForm) =>
      let v := vmode bank t true form.isStrided
      let pos : Nat → Int := fun k => match form with
        | .unit => k | .strided r => k * (s.getS r).toInt | .indexed r => (s.me.elem r k : Nat)
      let bit := fun k => 8 * (base.toNat : Int) + pos k * v.unit
      s.me.chunk = none → s.me.lines = [] → s.me.part = none → s.SpanOk (d :: form.regs) → base.toNat % baseAlign bank t = 0 →
      (∀ r, form = .strided r → rawBank bank t = true → (s.getS r).toNat % t.bytes = 0) →
        ((∀ k ∈ is, s.Element base bank v (bit k) (val k)) → Completes i s fun u =>
          WroteV s u d t.ew (fun k => if s.me.acts m k then some (val k).1 else none) ∧ u.me.ridx = 0
          ∧ u.me.img.flags = s.me.img.flags ||| orAll (is.map fun k => (val k).2)
          ∧ Passed s u 4 ∧ Keeps s.traceless u.traceless (Ctx.noV ∘ Ctx.noRidx ∘ Ctx.noFlags))
        ∧ (is.head? = some k → s.look .r 2 (bitAddr (bit k)) (max 1 (v.width / 8)) = .trap f →
          exec i s = .next ((s.mapMe fun q => { q.setRidx k with groupFmt := none }).trap { f with elem := true }))
    loads (.vld d a m) .unit ∧ loads (.vlds d a c m) (.strided c) ∧ loads (.vldx d a b m) (.indexed b) ∧ loads (.vldxOi d a b m) (.indexed b)
    ∧ (s.SpanOk [d] → base.toNat % baseAlign bank t ≠ 0 → exec (.vld d a m) s = .next (s.trap (.of cMISALIGN base)))

/-- R237, R238, R240, R241, R75: a vector store puts each active element from RIDX on, converted to the bank's type, at its own place, in element
order; `vappend` stores the active elements one after another and, with RIDX below VL, advances its pointer past them. RIDX ends at 0.
The bank is that of the base (log 31), checked whatever VL is (log 32); the address of a position at an odd half-byte and the pointer of `vappend` (log 94),
the flags of a group that has not completed (log 33) and the wait of an ordered store (log 98) are the model's choices. -/
def Obligations.VectorStoreResults : Prop :=
  ∀ (d b : VReg) (a c : SReg) (m : MReg) (s : State) (pl : Nat → Place) (k old : Nat),
    let base := s.getS a
    let t := s.me.et
    let bank := s.bankFmt base
    let is := s.me.activeFrom m s.me.ridx
    let val := fun (v : VMode) k => match v.conv with | none => ((s.me.elem d k, 0) : FRes) | some q => convert t q 0 (s.me.elem d k)
    let ready := s.MemOk ∧ s.me.chunk = none ∧ s.me.part = none ∧ (s.die s.me.die).dir = [] ∧ s.Uncollapsed
    let ends := fun (u : State) (v : VMode) => u.me.ridx = 0 ∧ u.me.img.flags = s.me.img.flags ||| orAll (is.map fun k => (val v k).2) ∧ Passed s u 4
    let stores := fun (i : Instr) (form : VForm) =>
      let v := vmode bank t false form.isStrided
      let pos : Nat → Int := fun k => match form with
        | .unit => k | .strided r => k * (s.getS r).toInt | .indexed r => (s.me.elem r k : Nat)
      let bit := fun k => 8 * (base.toNat : Int) + pos k * v.unit
      ready → s.SpanOk (d :: form.regs) → base.toNat % baseAlign bank t = 0 →
      (∀ r, form = .strided r → rawBank bank t = true → (s.getS r).toNat % t.bytes = 0) → (i = .vstxOi d a b m → s.me.perfPend = 0) →
        (8 ≤ v.width → (∀ k ∈ is, s.Lands (bitAddr (bit k)) (v.width / 8) (pl k)) → Completes i s fun u =>
          StoredElems s u is (fun k => (pl k).loc) (v.width / 8) (fun k => (val v k).1) ∧ ends u v ∧ SlotKept s u (Ctx.noRidx ∘ Ctx.noFlags))
        ∧ (v.width = 4 → is = [k] → s.loadBytes (pl k) 1 = .data [some (BitVec.ofNat 8 old)] → old < 256 → s.Lands (bitAddr (bit k)) 1 (pl k) → Completes i s fun u =>
          StoredElems s u is (fun k => (pl k).loc) 1 (fun k => if bit k % 8 < 4 then old / 16 * 16 + (val v k).1 % 16 else (val v k).1 % 16 * 16 + old % 16)
          ∧ ends u v ∧ SlotKept s u (Ctx.noRidx ∘ Ctx.noFlags))
    let v := vmode bank t false false
    stores (.vst d a m) .unit ∧ stores (.vsts d a c m) (.strided c) ∧ stores (.vstx d a b m) (.indexed b) ∧ stores (.vstxOi d a b m) (.indexed b)
    ∧ (ready → s.SpanOk [d] → 8 ≤ v.width → base.toNat % (max 1 (v.unit / 8)) = 0 →
      (∀ k ∈ is, s.Lands (bitAddr (8 * (base.toNat : Int) + (s.me.activeBelow m k * v.unit : Nat))) (v.width / 8) (pl k)) →
        Completes (.vappend d a m) s fun u =>
          StoredElems s u is (fun k => (pl k).loc) (v.width / 8) (fun k => (val v k).1) ∧ ends u v
          ∧ WroteS s u a (if s.me.ridx < s.me.vl then base + word ((s.me.activeBelow m s.me.vl * v.unit + 7) / 8) else base) ∧ SlotKept s u (Ctx.noS ∘ Ctx.noRidx ∘ Ctx.noFlags))

/-- R228, R229, R242, R243: the integer element instructions write each active element from RIDX on with the exact result modulo 2^EW, signed or
unsigned by the type; comparisons write mask bits; nothing else changes, and RIDX ends at 0. -/
def Obligations.VectorIntegerResults : Prop :=
  ∀ (d a b : VReg) (c : SReg) (dm m : MReg) (s : State),
    let t := s.me.et
    let w := t.ew
    let num : Nat → Int := fun z => if t.signed then sread w z else (z : Int)
    let x := fun k => s.me.elem a k
    let y := fun k => s.me.elem b k
    let z := (s.getS c).toNat % 2 ^ w
    let one := fun (i : Instr) (regs : List VReg) (f : Nat → Nat) => s.SpanOk regs → t.isInt = true → Completes i s fun u =>
      WroteV s u d w (fun k => if s.me.acts m k then some (f k) else none) ∧ u.me.ridx = 0 ∧ Passed s u 4 ∧ Keeps s u (Ctx.noV ∘ Ctx.noRidx)
    let both := fun (vv vs : Instr) (f : Nat → Nat → Nat) => one vv [d, a, b] (fun k => f (x k) (y k)) ∧ one vs [d, a] (fun k => f (x k) z)
    let test := fun (vv vs : Instr) (f : Nat → Nat → Bool) => ∀ p ∈ [(vv, [a, b], fun k => f (x k) (y k)), (vs, [a], fun k => f (x k) z)],
      s.SpanOk p.2.1 → t.isInt = true → Completes p.1 s fun u =>
        WroteM s u dm (fun k => if s.me.acts m k then some (p.2.2 k) else none) ∧ u.me.ridx = 0 ∧ Passed s u 4 ∧ Keeps s u (Ctx.noM ∘ Ctx.noRidx)
    let select := fun (i : Instr) (regs : List VReg) (q : Nat → Nat) => s.SpanOk regs → Completes i s fun u =>
      WroteV s u d w (fun k => if s.me.ridx ≤ k ∧ k < s.me.vl then some (if s.me.active m k then x k else q k) else none)
      ∧ u.me.ridx = 0 ∧ Passed s u 4 ∧ Keeps s u (Ctx.noV ∘ Ctx.noRidx)
    both (.vadd d a b m) (.vaddVs d a c m) (fun x y => iwrap w (num x + num y))
    ∧ both (.vsub d a b m) (.vsubVs d a c m) (fun x y => iwrap w (num x - num y))
    ∧ both (.vmul d a b m) (.vmulVs d a c m) (fun x y => iwrap w (num x * num y))
    ∧ both (.vmulh d a b m) (.vmulhVs d a c m) (fun x y => iwrap w (num x * num y / ((2 ^ w : Nat) : Int)))
    ∧ both (.vmin d a b m) (.vminVs d a c m) (fun x y => iwrap w (Min.min (num x) (num y)))
    ∧ both (.vmax d a b m) (.vmaxVs d a c m) (fun x y => iwrap w (Max.max (num x) (num y)))
    ∧ both (.vand d a b m) (.vandVs d a c m) (fun x y => x &&& y)
    ∧ both (.vor d a b m) (.vorVs d a c m) (fun x y => x ||| y)
    ∧ both (.vxor d a b m) (.vxorVs d a c m) (fun x y => x ^^^ y)
    ∧ both (.vshl d a b m) (.vshlVs d a c m) (fun x y => x * 2 ^ (y % w))
    ∧ both (.vshr d a b m) (.vshrVs d a c m) (fun x y => iwrap w (num x / ((2 ^ (y % w) : Nat) : Int)))
    ∧ both (.vsra d a b m) (.vsraVs d a c m) (fun x y => iwrap w (sread w x / ((2 ^ (y % w) : Nat) : Int)))
    ∧ one (.vabs d a m) [d, a] (fun k => iwrap w |num (x k)|) ∧ one (.vneg d a m) [d, a] (fun k => iwrap w (- num (x k)))
    ∧ select (.vsel d a b m) [d, a, b] y ∧ select (.vselVs d a c m) [d, a] (fun _ => z)
    ∧ test (.vcmpEq dm a b m) (.vcmpEqVs dm a c m) (fun x y => x = y) ∧ test (.vcmpNe dm a b m) (.vcmpNeVs dm a c m) (fun x y => x ≠ y)
    ∧ test (.vcmpLt dm a b m) (.vcmpLtVs dm a c m) (fun x y => num x < num y) ∧ test (.vcmpLe dm a b m) (.vcmpLeVs dm a c m) (fun x y => num x ≤ num y)
    ∧ test (.vcmpGt dm a b m) (.vcmpGtVs dm a c m) (fun x y => num y < num x) ∧ test (.vcmpGe dm a b m) (.vcmpGeVs dm a c m) (fun x y => num y ≤ num x)

/-- R228 to R230, R244, R252: the floating-point element instructions write each active element from RIDX on with the result of its own type under
RMODE, and OR the flags of those elements into FLAGS; comparisons write mask bits; sign operations and the class word raise no flag. The sequence of
`vrcp` for f32 is stated step by step (R254, R257, R260). -/
def Obligations.VectorFloatResults : Prop :=
  ∀ (d a b : VReg) (c : SReg) (dm m : MReg) (s : State),
    let t := s.me.et
    let f := t.ff
    let x := fun k => s.me.elem a k
    let y := fun k => s.me.elem b k
    let z := (s.getS c).toNat % 2 ^ t.ew
    let mode := if s.me.rmode = 4 then 0 else s.me.rmode.toNat
    let is := s.me.activeFrom m s.me.ridx
    let one := fun (i : Instr) (regs : List VReg) (r : Nat → FRes) => s.SpanOk regs → t.isFloat = true → Completes i s fun u =>
      WroteV s u d t.ew (fun k => if s.me.acts m k then some (r k).1 else none) ∧ u.me.ridx = 0
      ∧ u.me.img.flags = s.me.img.flags ||| orAll (is.map fun k => (r k).2) ∧ Passed s u 4 ∧ Keeps s u (Ctx.noV ∘ Ctx.noRidx ∘ Ctx.noFlags)
    let both := fun (vv vs : Instr) (r : Nat → Nat → Nat → FRes) =>
      one vv [d, a, b] (fun k => r (x k) (y k) (s.me.elem d k)) ∧ one vs [d, a] (fun k => r (x k) z (s.me.elem d k))
    let test := fun (vv vs : Instr) (r : FV → FV → Bool × BitVec 6) =>
      ∀ p ∈ [(vv, [a, b], fun k => r (f.dec (x k)) (f.dec (y k))), (vs, [a], fun k => r (f.dec (x k)) (f.dec z))],
      s.SpanOk p.2.1 → t.isFloat = true → Completes p.1 s fun u =>
        WroteM s u dm (fun k => if s.me.acts m k then some (p.2.2 k).1 else none) ∧ u.me.ridx = 0
        ∧ u.me.img.flags = s.me.img.flags ||| orAll (is.map fun k => (p.2.2 k).2) ∧ Passed s u 4 ∧ Keeps s u (Ctx.noM ∘ Ctx.noRidx ∘ Ctx.noFlags)
    both (.vfadd d a b m) (.vfaddVs d a c m) (fun x y _ => f.add mode x y) ∧ both (.vfsub d a b m) (.vfsubVs d a c m) (fun x y _ => f.sub mode x y)
    ∧ both (.vfmul d a b m) (.vfmulVs d a c m) (fun x y _ => f.mul mode x y) ∧ both (.vfdiv d a b m) (.vfdivVs d a c m) (fun x y _ => f.div mode x y)
    ∧ both (.vfmin d a b m) (.vfminVs d a c m) (fun x y _ => f.minmax false x y) ∧ both (.vfmax d a b m) (.vfmaxVs d a c m) (fun x y _ => f.minmax true x y)
    ∧ both (.vfma d a b m) (.vfmaVs d a c m) (fun x y z => f.fma mode x y z) ∧ both (.vfms d a b m) (.vfmsVs d a c m) (fun x y z => f.fms mode x y z)
    ∧ one (.vfsqrt d a m) [d, a] (fun k => f.sqrt mode (x k))
    ∧ one (.vfabs d a m) [d, a] (fun k => (x k % f.sgn, 0)) ∧ one (.vfneg d a m) [d, a] (fun k => (if x k < f.sgn then x k + f.sgn else x k - f.sgn, 0))
    ∧ one (.vfclass d a m) [d, a] (fun k => (f.classOf (x k), 0))
    ∧ test (.vfcmpEq dm a b m) (.vfcmpEqVs dm a c m) fcmpEq ∧ test (.vfcmpNe dm a b m) (.vfcmpNeVs dm a c m) (fun x y => (!(fcmpEq x y).1, (fcmpEq x y).2))
    ∧ test (.vfcmpLt dm a b m) (.vfcmpLtVs dm a c m) fcmpLt ∧ test (.vfcmpLe dm a b m) (.vfcmpLeVs dm a c m) fcmpLe
    ∧ (∀ p ∈ [(Instr.vexp2 d a m, Trans.exp2), (.vlog2 d a m, .log2), (.vrcp d a m, .rcp), (.vrsqrt d a m, .rsqrt), (.vsinpi d a m, .sinpi),
        (.vcospi d a m, .cospi), (.vtanh d a m, .tanh), (.vsigm d a m, .sigm)], one p.1 [d, a] (fun k => p.2.apply f (x k)))
    ∧ (∀ g ∈ floatFormats, Trans.rcp.apply g 0 = (g.inf, fDZ) ∧ Trans.log2.apply g 0 = (g.sgn + g.inf, fDZ) ∧ Trans.rsqrt.apply g 0 = (g.inf, 0)
        ∧ ∀ q n, g.dec n = .nan q → ∀ h : Trans, h.apply g n = (g.nan, if q then fNV else 0))
    ∧ (∀ n : Nat, (ff32.dec n).finite → (ff32.dec n).val ≠ 0 → ∃ (e : Int) (k : Nat) (v w h p1 p2 p3 q : ℝ) (r : FRes),
        |(ff32.dec n).val| = (2 : ℝ) ^ e * v ∧ 1 ≤ v ∧ v < 2 ∧ (k : Int) = ⌊64 * (v - 1)⌋ ∧ Rne32 (1 / (1 + (2 * (k : ℝ) + 1) / 128)) w
        ∧ Rne32 (1 - v * w) h ∧ Rne32 (1 * h + 1) p1 ∧ Rne32 (p1 * h + 1) p2 ∧ Rne32 (p2 * h + 1) p3 ∧ Rne32 (w * p3) q
        ∧ ff32.RoundsTo 0 false (q * (2 : ℝ) ^ (-e)) r
        ∧ Trans.rcp.apply ff32 n = ((if (ff32.dec n).val < 0 then ff32.sgn else 0) + r.1, (r.2 &&& (fOF ||| fUF)) ||| (if v = 1 ∧ r.1 < ff32.inf then 0 else fNX)))

/-- R245 to R247, R39: `vcvt` converts the active elements of a block of the source's width under its rounding, and traps with ILLEGAL for a
block whose first register is not one of its own, the block taken as one register while SPAN.IF is set; `vpack` writes the elements and exponents
of each DXB block that has an active element; `vunpack` decodes them. With one register for both planes the exponents are written
last (log 99). All are whole: RIDX is left as it was. -/
def Obligations.VectorConversions : Prop :=
  ∀ (d a b : VReg) (t : ETy) (m : MReg) (r : Rnd) (x : OxReg) (s : State) (rec : Word),
    let et := s.me.et
    let is := s.me.activeFrom m 0
    let mode := if r = .dyn then s.me.rmode.toNat else r.code
    let g := if s.me.spanIF then 1 else max 1 ((s.me.vlmax * t.ew + 2047) / 2048)
    let conv := fun k => convert t et mode (s.me.elemAt a.val t.ew k)
    let fmt := ETy.ofCode (bits rec 0 4)
    let dx := dxOf fmt
    let gap := if bits rec 4 4 = 0 then 4 else bits rec 4 4
    let block := fun k => is.filter fun i => i / 32 = k
    let packed := fun k => dx.pack et.ff gap ((block k).map fun i => (i, s.me.elem a i))
    let unpacked := fun k => et.ff.ofV 0 (dx.decode (s.me.elemAt a.val fmt.ew k) (s.me.elemAt b.val 8 (k / 32 * 2)) (s.me.elemAt b.val 8 (k / 32 * 2 + 1)))
    let on := fun k => decide (k < s.me.vl) && s.me.active m k
    (s.SpanOk [d] → et.isDxb = false → a.val % g = 0 → a.val + g ≤ 32 → Completes (.vcvt d a t m r) s fun u =>
      WroteV s u d et.ew (fun k => if on k then some (conv k).1 else none)
      ∧ u.me.img.flags = s.me.img.flags ||| orAll (is.map fun k => (conv k).2) ∧ Passed s u 4 ∧ Keeps s u (Ctx.noV ∘ Ctx.noFlags))
    ∧ (a.val % g ≠ 0 ∨ 32 < a.val + g → exec (.vcvt d a t m r) s = .next (s.trap s.me.illegal))
    ∧ (s.SpanOk [a] → packSrc et = true → s.OxHolds x .pack rec → 14 ≤ bits rec 0 4 → Completes (.vpack d a b m x) s fun u =>
      (d ≠ b → ∀ i, i < 2048 / fmt.ew → ∀ v, u.me.elemAt d.val fmt.ew i = v ↔
        v = match (packed (i / 32)).2.1.find? fun p => p.1 == i with | some p => p.2 % 2 ^ fmt.ew | none => s.me.elemAt d.val fmt.ew i)
      ∧ (∀ k, k < 128 → (d ≠ b → block k = [] → u.me.elemAt b.val 8 (2 * k) = s.me.elemAt b.val 8 (2 * k) ∧ u.me.elemAt b.val 8 (2 * k + 1) = s.me.elemAt b.val 8 (2 * k + 1))
        ∧ (block k ≠ [] → u.me.elemAt b.val 8 (2 * k) = (packed k).1.1 % 256 ∧ u.me.elemAt b.val 8 (2 * k + 1) = (packed k).1.2 % 256))
      ∧ (∀ q : VReg, q ≠ d → q ≠ b → u.me.img.v[q] = s.me.img.v[q])
      ∧ u.me.img.flags = s.me.img.flags ||| orAll ((upFrom 0 ((s.me.vl + 31) / 32)).map fun k => if block k = [] then 0 else (packed k).2.2)
      ∧ Passed s u 4 ∧ Keeps s u (Ctx.noV ∘ Ctx.noFlags))
    ∧ (s.SpanOk [d] → et.isFloat = true → s.OxHolds x .pack rec → Completes (.vunpack d a b m x) s fun u =>
      WroteV s u d et.ew (fun k => if on k then some (unpacked k).1 else none)
      ∧ u.me.img.flags = s.me.img.flags ||| orAll (is.map fun k => (unpacked k).2) ∧ Passed s u 4 ∧ Keeps s u (Ctx.noV ∘ Ctx.noFlags))
    ∧ (s.SpanOk [d] → et.isFloat = true → s.me.ox[x].kind.toNat ≠ OxKind.pack.code ∨ s.me.ox[x].bad = true →
      exec (.vunpack d a b m x) s = .next (s.trap s.me.illformed))

/-- R81 to R83, R248, R249: a reduction writes element 0 with the canonical tree over VL elements, the inactive ones replaced by the identity; the
tree halves its values and combines each with the one half the length on; a scan writes the reduction of each prefix; `vredbs` scales the sum of
each block of 32 and reduces the sums. -/
def Obligations.VectorReductions : Prop :=
  ∀ (d a b : VReg) (m : MReg) (s : State) (o : RedOp),
    let t := s.me.et
    let vl := s.me.vl
    let idn := o.identity t
    let list := fun (keep : Nat → Bool) => (List.range vl).map fun i => if s.me.active m i && keep i then s.me.elem a i else idn
    let red := fun (i : Instr) => s.SpanOk [d, a] → o.ok t = true → Completes i s fun u =>
      WroteV s u d t.ew (fun k => if k = 0 ∧ vl ≠ 0 then some (canonical o t (list fun _ => true)).1 else none)
      ∧ u.me.img.flags = s.me.img.flags ||| (if vl = 0 then 0 else (canonical o t (list fun _ => true)).2) ∧ Passed s u 4 ∧ Keeps s u (Ctx.noV ∘ Ctx.noFlags)
    let scan := fun (i : Instr) (keep : Nat → Nat → Bool) => s.SpanOk [d, a] → o.ok t = true → Completes i s fun u =>
      WroteV s u d t.ew (fun k => if k < vl ∧ s.me.active m k then some (canonical o t (list (keep k))).1 else none)
      ∧ u.me.img.flags = s.me.img.flags ||| orAll ((s.me.activeFrom m 0).map fun k => (canonical o t (list (keep k))).2)
      ∧ Passed s u 4 ∧ Keeps s u (Ctx.noV ∘ Ctx.noFlags)
    let upto := fun (k j : Nat) => decide (j ≤ k)
    let before := fun (k j : Nat) => decide (j < k)
    let sum := fun k => canonical .add .f32 ((List.range 32).map fun i => if 32 * k + i < vl ∧ s.me.active m (32 * k + i) then s.me.elem a (32 * k + i) else 2 ^ 31)
    let scaled : Nat → FRes := fun k =>
      if ∀ i, i < 32 → 32 * k + i < vl → s.me.active m (32 * k + i) = false then (2 ^ 31, 0)
      else match ff32.dec (sum k).1 with
        | .fin n x e => ((ff32.round 0 n x (e + sread 8 (s.me.elemAt b.val 8 k)) false).1, (sum k).2 ||| (ff32.round 0 n x (e + sread 8 (s.me.elemAt b.val 8 k)) false).2)
        | _ => sum k
    let sums := (List.range ((vl + 31) / 32)).map scaled
    let total := canonical .add .f32 (sums.map Prod.fst)
    (∀ p ∈ [(Instr.vredAdd d a m, RedOp.add), (.vredMin d a m, .min), (.vredMax d a m, .max), (.vredAnd d a m, .and), (.vredOr d a m, .or), (.vredXor d a m, .xor)],
      p.2 = o → red p.1)
    ∧ (∀ p ∈ [(Instr.vscanIncAdd d a m, RedOp.add), (.vscanIncMin d a m, .min), (.vscanIncMax d a m, .max), (.vscanIncAnd d a m, .and),
        (.vscanIncOr d a m, .or), (.vscanIncXor d a m, .xor)], p.2 = o → scan p.1 upto)
    ∧ (∀ p ∈ [(Instr.vscanExcAdd d a m, RedOp.add), (.vscanExcMin d a m, .min), (.vscanExcMax d a m, .max), (.vscanExcAnd d a m, .and),
        (.vscanExcOr d a m, .or), (.vscanExcXor d a m, .xor)], p.2 = o → scan p.1 before)
    ∧ (∀ x, canonical o t [x] = (x, 0)) ∧ canonical o t [] = (idn, 0)
    ∧ (∀ l r : List Nat, ∀ n, l.length = 2 ^ n → r.length = 2 ^ n →
        let q := List.zipWith (o.apply t) l r
        canonical o t (l ++ r) = ((canonical o t (q.map Prod.fst)).1, orAll (q.map Prod.snd) ||| (canonical o t (q.map Prod.fst)).2))
    ∧ (∀ l : List Nat, ∀ n, 2 ^ n < l.length → l.length ≤ 2 ^ (n + 1) → canonical o t l = canonical o t (l ++ List.replicate (2 ^ (n + 1) - l.length) idn))
    ∧ (s.SpanOk [d, a] → t = .f32 → Completes (.vredbs d a b m) s fun u =>
      WroteV s u d 32 (fun k => if k = 0 ∧ vl ≠ 0 then some total.1 else none)
      ∧ u.me.img.flags = s.me.img.flags ||| (if vl = 0 then 0 else orAll (sums.map Prod.snd) ||| total.2) ∧ Passed s u 4 ∧ Keeps s u (Ctx.noV ∘ Ctx.noFlags))

/-- R250, R251, R262: a permutation writes each active element with a source element, zero at or beyond VL; `vcompress` and `vexpand` read their
mask as a selector; the mask instructions write the bits below VL or count them; `vrng` gives each element its own number of the generator. -/
def Obligations.PermutationsAndMasks : Prop :=
  ∀ (d a b : VReg) (c e : SReg) (dm ma mb m : MReg) (s : State),
    let t := s.me.et
    let vl := s.me.vl
    let n := (s.getS c).toNat
    let src := fun i => if i < vl then s.me.elem a i else 0
    let sel := s.me.activeFrom m 0
    let moves := fun (i : Instr) (regs : List VReg) (f : Nat → Option Nat) => s.SpanOk regs → Completes i s fun u =>
      WroteV s u d t.ew f ∧ Passed s u 4 ∧ Keeps s u Ctx.noV
    let on := fun (f : Nat → Option Nat) k => if k < vl ∧ s.me.active m k then f k else none
    let each := fun (i : Instr) (f : Nat → Nat) => Completes i s fun u =>
      WroteV s u d t.ew (fun k => if s.me.acts m k then some (f k) else none) ∧ u.me.ridx = 0 ∧ Passed s u 4 ∧ Keeps s u (Ctx.noV ∘ Ctx.noRidx)
    let mask := fun (i : Instr) (f : Nat → Bool) => Completes i s fun u =>
      WroteM s u dm (fun k => if k < vl then some (f k) else none) ∧ Passed s u 4 ∧ Keeps s u Ctx.noM
    let rotr := fun (x : Word) => x.rotateRight 27
    let round := fun (x : Word) (j : Nat) => let y := (x ^^^ (s.getS c + BitVec.ofNat 64 j * 0x7B1D3E95C86A24F1)) * 0xA5E391C72D4B6F09
      y ^^^ rotr y
    moves (.vxchg d a c m) [d, a] (on fun k => some (src (k ^^^ n % 256)))
    ∧ moves (.vrot d a c m) [d, a] (on fun k => some (src ((k + n) % vl)))
    ∧ moves (.vperm d a b m) [d, a, b] (on fun k => some (src (s.me.elem b k)))
    ∧ moves (.vslideUp d a c m) [d, a] (on fun k => if n ≤ k then some (src (k - n)) else none)
    ∧ moves (.vslideDn d a c m) [d, a] (on fun k => some (src (k + n)))
    ∧ moves (.vcompress d a m) [d, a] (fun k => (sel[k]?).map fun p => s.me.elem a p)
    ∧ moves (.vexpand d a m) [d, a] (on fun k => some (s.me.elem a (sel.filter fun j => decide (j < k)).length))
    ∧ (s.SpanOk [d] → each (.vbcast d c m) (fun _ => n % 2 ^ t.ew))
    ∧ (s.SpanOk [d] → t = .i32 ∨ t = .n32 → each (.vrng d c e m) (fun k => ((List.range 10).foldl round (s.getS e + BitVec.ofNat 64 k)).toNat / 2 ^ 32))
    ∧ (vl ≤ 256 → mask (.mand dm ma mb) (fun k => s.me.active ma k && s.me.active mb k) ∧ mask (.mor dm ma mb) (fun k => s.me.active ma k || s.me.active mb k)
      ∧ mask (.mxor dm ma mb) (fun k => s.me.active ma k ^^ s.me.active mb k) ∧ mask (.mnot dm ma) (fun k => !s.me.active ma k)
      ∧ mask (.mset dm c) (fun k => decide (k < n)))
    ∧ (Completes (.mpop e ma) s fun u => ScalarResult s u e (word ((List.range vl).filter fun k => s.me.active ma k).length) 4)
    ∧ (∀ k, k < vl → s.me.active ma k = true → (∀ j, j < k → s.me.active ma j = false) → Completes (.mfirst e ma) s fun u => ScalarResult s u e (word k) 4)
    ∧ ((∀ j, j < vl → s.me.active ma j = false) → Completes (.mfirst e ma) s fun u => ScalarResult s u e (BitVec.allOnes 64) 4)

/-! ### Matrices -/

/-- R266, R269 to R271, R78, R79: `mma` reads its B tile and its A rows and begins its compute phase with LOCK set; its retirement writes every
column below N of the rows from RIDX to VL with the old value plus the exact sum of the products, rounded once, and clears RIDX. Each product is exact,
one of an infinity or a NaN that of IEEE 754, and SKIPZ leaves out those of a zero of A; the operands of a DXB type are decoded block by block.
When it retires is the model's reading (log 34), and so are the place of DET_VIOLATION (log 107) and the flags of a NaN with infinities (log 108). -/
def Obligations.MatrixMultiplyAccumulate : Prop :=
  ∀ (d : AccReg) (a b : SReg) (x : OxReg) (s : State) (rec : Word) (arow brow : Nat → List FV) (f old : Nat) (ps qs : List FV) (p q : FV) (zs : List Int) (neg skip : Bool),
    let sa := s.getS a
    let sb := s.getS b
    let t := ETy.ofCode (bits rec 60 4)
    let kk := bits rec 47 9
    let n := bits rec 40 7
    let astride := word (bits rec 20 18)
    let bstride := word (bits rec 2 18)
    let acc := s.me.img.acc[d]
    let col := fun j => (List.range kk).map fun k => ((brow k)[j]?).getD (.fin false 0 0)
    let sum := fun i j => let q := products (bitAt rec 39) (arow i) (col j); accumulate acc.ty acc.f.toNat (rowElem acc.ty (acc.row i) j) q.1 q.2
    let plain := s.me.chunk = none ∧ s.me.lines = [] ∧ s.me.spanIF = false ∧ s.me.vl ≤ 64 ∧ s.me.mmaAcc = none ∧ s.OxHolds x .mat rec
    let detBad := s.me.exw = true ∧ t ≠ .i8 ∧ acc.ty ≠ .x
    let off := fun (w : Word) => w.toNat % matAlign t ≠ 0
    let isZero := fun (p : FV) => ∃ m e, p = .fin m 0 e
    let isInf := fun (p : FV) => ∃ m, p = .inf m
    let rest := products skip ps qs
    (plain → accTakes t acc n s.me.exw = true → n ≤ acc.ty.cols → 1 ≤ kk → ¬ detBad → ¬ off sa → ¬ off sb → ¬ off astride → ¬ off bstride →
      s.me.ridx < s.me.vl → (∀ k, k < kk → s.Operand t (sb + word k * bstride) n (brow k)) →
      (∀ i, s.me.ridx ≤ i → i < s.me.vl → s.Operand t (sa + word i * astride) kk (arow i)) →
        Completes (.mma d a b x) s fun u => Passed s u 4 ∧ Keeps s.traceless u.traceless (Ctx.noAcc ∘ Ctx.noMma) ∧ (u.me.img.acc[d]).lock = true
          ∧ (∀ e : AccReg, e ≠ d → u.me.img.acc[e] = s.me.img.acc[e])
          ∧ Completes (.mmaRetirement s.me.die s.me.slot d) u fun w => w.mem = u.mem ∧ w.me.ridx = 0 ∧ w.me.mmaAcc = none ∧ (w.me.img.acc[d]).lock = false
            ∧ (w.me.img.acc[d]).ty = acc.ty ∧ (w.me.img.acc[d]).f = acc.f ∧ (∀ e : AccReg, e ≠ d → w.me.img.acc[e] = s.me.img.acc[e])
            ∧ ∀ i j, i < 64 → j < acc.ty.cols → rowElem acc.ty ((w.me.img.acc[d]).row i) j
              = if s.me.ridx ≤ i ∧ i < s.me.vl ∧ j < n then (sum i j).1 else rowElem acc.ty (acc.row i) j)
    ∧ (plain → accTakes t acc n s.me.exw = false → exec (.mma d a b x) s = .next (s.trap s.me.illformed))
    ∧ (plain → accTakes t acc n s.me.exw = true → detBad → exec (.mma d a b x) s = .next (s.trap (.of cDET_VIOLATION (s.me.iword.setWidth 64))))
    ∧ products skip [] qs = ([], 0)
    ∧ (skip = true → isZero p → products skip (p :: ps) (q :: qs) = rest)
    ∧ (skip = false ∨ ¬ isZero p → ∃ m fl, products skip (p :: ps) (q :: qs) = (m :: rest.1, fl ||| rest.2)
        ∧ (p.finite → q.finite → m.finite ∧ m.val = p.val * q.val ∧ m.signBit = (p.signBit != q.signBit) ∧ fl = 0)
        ∧ ((p.isNan || q.isNan) = true → m = .nan false ∧ fl = if p.snan || q.snan then fNV else 0)
        ∧ ((isInf p ∧ isZero q) ∨ (isZero p ∧ isInf q) → m = .nan false ∧ fl = fNV)
        ∧ ((isInf p ∧ q.isNan = false ∧ ¬ isZero q) ∨ (isInf q ∧ p.isNan = false ∧ ¬ isZero p) → m = .inf (p.signBit != q.signBit) ∧ fl = 0))
    ∧ (∀ ty, (ty = AccTy.f32 ∨ ty = AccTy.f64) →
      let all := ty.ff.dec old :: ps
      let r := accumulate ty f old ps 0
      ((∃ p ∈ all, p.isNan = true) → r.1 = ty.ff.nan)
      ∧ ((∀ p ∈ all, p.isNan = false) → (.inf true ∈ all → .inf false ∈ all → r.1 = ty.ff.nan ∧ r.2.2 = fNV)
        ∧ ∀ m, .inf m ∈ all → .inf (!m) ∉ all → r.1 = (if m then ty.ff.sgn else 0) + ty.ff.inf ∧ r.2.2 = 0))
    ∧ (∀ ty, (ty = AccTy.f32 ∨ ty = AccTy.f64) → (ty.ff.dec old).finite → (∀ p ∈ ps, p.finite) →
      let v := (ty.ff.dec old).val + (ps.map FV.val).sum
      let r := accumulate ty f old ps 0
      v ≠ 0 → (neg = true ↔ v < 0) → ty.ff.RoundsTo 0 neg |v| (r.1, r.2.2))
    ∧ ((∀ p ∈ ps, p.finite) → (accumulate .x f old ps 0).1 = iwrap 128 (old + (ps.map fun p => ⌊p.val * (2 : ℝ) ^ f⌋).sum))
    ∧ (accumulate .i32 f old (zs.map fun z => .fin (decide (z < 0)) z.natAbs 0) 0).1 = iwrap 32 (old + zs.sum)

/-- R263 to R265, R274 to R278, R80: the other matrix instructions. `mzero` clears an accumulator and gives it its TYPE; `mld` reads rows into one, `mst`
stores its elements scaled and converted with one rounding, and an element of TYPE 3 by its status word; `macc` adds two; `mrow` moves one row to or from a
vector register. A row of TYPE 3 keeps N and the three low bits of each status word. That a store of `mst` into a formatted bank is raw, and that a wait
inside a row goes on at its column, are the model's readings (log 37). -/
def Obligations.AccumulatorInstructions : Prop :=
  ∀ (d e : AccReg) (v : VReg) (a b : SReg) (ty : AccTy) (x : OxReg) (s : State) (rec : Word) (row : Nat → Nat) (pl : Nat → Nat → Place) (j : Nat),
    let acc := s.me.img.acc[d]
    let other := s.me.img.acc[e]
    let sa := s.getS a
    let sb := s.getS b
    let i := sb.toNat % 64
    let plain := s.me.spanIF = false ∧ s.me.mmaAcc = none
    let rows := s.me.vl ≤ 64 ∧ s.me.chunk = none ∧ s.me.lines = [] ∧ s.me.part = none
    let only := fun (u : State) => ∀ q : AccReg, q ≠ d → u.me.img.acc[q] = s.me.img.acc[q]
    let n := bits rec 36 7
    let t := ETy.ofCode (bits rec 32 4)
    let stride := word (bits rec 44 18)
    let ts := ff32.dec (bits rec 0 32)
    let stored := fun i => storedRow acc i n t ts
    let conv := fun (v : ℝ) (minus : Bool) (r : FRes) => ∃ w : FV, w.finite ∧ w.val = v ∧ w.signBit = minus ∧ r = fvTo t 0 w
    let nanOf := fun (r : FRes) => r.1 = (fvTo t 0 (.nan false)).1 ∧ r.2 = fNV
    let infBy := fun (minus : Bool) (r : FRes) => (ts.finite → ts.val = 0 → nanOf r) ∧ (ts.isNan = false → (ts.finite → ts.val ≠ 0) → r = fvTo t 0 (.inf (minus != ts.signBit)))
    let scaledTo := fun (i j : Nat) (r : FRes) =>
      let e := rowElem acc.ty (acc.row i) j
      let st := rowStatus (acc.row i) j
      let x := acc.ty.ff.dec e
      ((acc.ty = .f32 ∨ acc.ty = .f64) → (x.finite → ts.finite → conv (x.val * ts.val) (x.signBit != ts.signBit) r) ∧ (x.isNan = true → r.1 = (fvTo t 0 (.nan false)).1)
        ∧ ∀ m, x = .inf m → infBy m r)
      ∧ (acc.ty = .i32 → ts.finite → conv ((sread 32 e : ℝ) * ts.val) (decide (sread 32 e < 0) != ts.signBit) r)
      ∧ (acc.ty = .x → (st = 0 → ts.finite → conv ((sread 128 e : ℝ) * (2 : ℝ) ^ (-(acc.f.toNat : Int)) * ts.val) (decide (sread 128 e < 0) != ts.signBit) r)
        ∧ (st % 2 = 1 ∨ st = 6 → nanOf r) ∧ (st = 2 → infBy false r) ∧ (st = 4 → infBy true r))
    let is := upFrom s.me.ridx (s.me.vl - s.me.ridx)
    (plain → (ty = .x → s.me.exw = true) → Completes (.mzero d ty a) s fun u => Passed s u 4 ∧ Keeps s u Ctx.noAcc ∧ only u
      ∧ u.me.img.acc[d] = ⟨Vector.replicate 64 0, ty, false, if ty = .x then sa.setWidth 7 else acc.f⟩)
    ∧ (plain → rows → (ty = .x → s.me.exw = true) → sa.toNat % 16 = 0 → sb.toNat % 16 = 0 →
      (∀ i ∈ is, s.ReadsRow (sa + word i * sb) 256 (row i)) → Completes (.mld d a b ty) s fun u =>
        Passed s u 4 ∧ u.me.ridx = 0 ∧ only u ∧ Keeps s.traceless u.traceless (Ctx.noAcc ∘ Ctx.noRidx) ∧ (u.me.img.acc[d]).ty = ty ∧ (u.me.img.acc[d]).f = acc.f
        ∧ ∀ i, i < 64 → (u.me.img.acc[d]).row i = if i ∈ is then keepRow ty (row i) else acc.row i)
    ∧ (s.MemOk → plain → rows → (s.die s.me.die).dir = [] → s.Uncollapsed → s.OxHolds x .st rec → n ≤ acc.ty.cols → sa.toNat % t.bytes = 0 → stride.toNat % t.bytes = 0 →
      (∀ i ∈ is, ∀ j, j < n → s.Lands (sa + word i * stride + word (j * t.bytes)) t.bytes (pl i j)) →
      (∀ i ∈ is, ∀ p ∈ pieces (sa + word i * stride).toNat (List.replicate (n * t.bytes) 0), ∃ q, ∀ m, ({ s with mem := m } : State).look .w 2 (word p.1) p.2.length = .ok q) →
        Completes (.mst d a x) s fun u => Passed s u 4 ∧ u.me.ridx = 0 ∧ SlotKept s u (Ctx.noRidx ∘ Ctx.noFlags)
          ∧ u.me.img.flags = s.me.img.flags ||| orAll (is.map fun i => (stored i).2)
          ∧ StoredElems s u ((is.map fun i => (upFrom 0 n).map fun j => i * n + j).flatten) (fun q => (pl (q / n) (q % n)).loc) t.bytes
            (fun q => ((stored (q / n)).1[q % n]?).getD 0))
    ∧ (plain → s.me.vl ≤ 64 → acc.ty = other.ty → acc.ty = .i32 → Completes (.macc d e) s fun u => Passed s u 4 ∧ Keeps s u Ctx.noAcc ∧ only u
      ∧ ∀ i j, i < 64 → j < 64 → rowElem .i32 ((u.me.img.acc[d]).row i) j
        = if i < s.me.vl then (rowElem .i32 (acc.row i) j + rowElem .i32 (other.row i) j) % 2 ^ 32 else rowElem .i32 (acc.row i) j)
    ∧ (plain → s.me.vl ≤ 64 → acc.ty = other.ty → acc.ty = .f32 ∨ acc.ty = .f64 → Completes (.macc d e) s fun u =>
      Passed s u 4 ∧ Keeps s u (Ctx.noAcc ∘ Ctx.noFlags) ∧ only u ∧ ∀ i j, i < 64 → j < acc.ty.cols → rowElem acc.ty ((u.me.img.acc[d]).row i) j
        = if i < s.me.vl then (acc.ty.ff.add 0 (rowElem acc.ty (acc.row i) j) (rowElem acc.ty (other.row i) j)).1 else rowElem acc.ty (acc.row i) j)
    ∧ (plain → s.me.vl ≤ 64 → acc.ty = .x → other.ty = .x → acc.f = other.f → Completes (.macc d e) s fun u =>
      Passed s u 4 ∧ Keeps s u Ctx.noAcc ∧ only u ∧ ∀ i j, i < s.me.vl → j < 8 →
        rowElem .x ((u.me.img.acc[d]).row i) j = (rowElem .x (acc.row i) j + rowElem .x (other.row i) j) % 2 ^ 128
        ∧ rowStatus ((u.me.img.acc[d]).row i) j = (rowStatus (acc.row i) j ||| rowStatus (other.row i) j))
    ∧ (plain → s.me.vl ≤ 64 → acc.ty ≠ other.ty → exec (.macc d e) s = .next (s.trap s.me.illformed))
    ∧ (plain → Completes (.mrowR v d b) s fun u => u.me.img.v[v] = acc.rows[Fin.ofNat 64 i] ∧ (∀ q : VReg, q ≠ v → u.me.img.v[q] = s.me.img.v[q])
      ∧ Passed s u 4 ∧ Keeps s u Ctx.noV)
    ∧ (plain → Completes (.mrowW d v b) s fun u => only u ∧ Passed s u 4 ∧ Keeps s u Ctx.noAcc ∧ (u.me.img.acc[d]).ty = acc.ty
      ∧ ∀ q, q < 64 → (u.me.img.acc[d]).row q = if q = i then keepRow acc.ty (s.me.img.v[v]).toNat else acc.row q)
    ∧ (∀ r : Nat, (∀ q, q ≠ AccTy.x → keepRow q r = r) ∧ (r < 2 ^ 2048 → (keepRow .x r).testBit j = (r.testBit j && (decide (j < 1024) || decide (j % 128 < 3)))))
    ∧ (∀ i, ∃ q : Nat → FRes, stored i = ((List.range n).map fun j => (q j).1, orAll ((List.range n).map fun j => (q j).2)) ∧ ∀ j, j < n → scaledTo i j (q j))
    ∧ (s.me.spanIF = true → ∀ j ∈ [Instr.mzero d ty a, .mld d a b ty, .mst d a x, .macc d e, .mma d a b x, .mrowR v d b, .mrowW d v b],
      exec j s = .next (s.trap s.me.illformed))

/-! ### Exact geometry -/

/-- R280 to R287: a geometry instruction writes the outcome of each active element from RIDX on, and its bit in the zero mask and, where NF is set, in the
next mask; it sets no flag. The outcome of finite coordinates is the exact sign of the determinant, or the class of two segments. Under SOS a zero determinant of
points with distinct indices has the sign that its perturbation has for every small enough ε, and one with equal indices stays 0; −2 stands for a
coordinate that is not finite, which without NF traps. The coordinates are the elements of the groups from A on, the indices those of the block at IDXV. The
result block while SPAN.IF is set is the model's reading (log 24). -/
def Obligations.ExactGeometry : Prop :=
  ∀ (d a : VReg) (wide : Bool) (z m : MReg) (x : OxReg) (s : State) (rec : Word) (f : FF) (cs : List Nat) (ks : List Nat) (k : Nat),
    let ewr := if wide then 32 else 8
    let nf := bitAt rec 3
    let is := s.me.activeFrom m s.me.ridx
    let p : Nat → ℝ := fun i => (f.dec ((cs[i]?).getD 0)).val
    let signs := fun (g : Geo) (v : (Nat → Nat → ℝ) → ℝ) (n : Nat) =>
      let at_ := fun (ε : ℝ) => v fun i j => p (g.dim * i + j) + ε ^ (2 ^ (g.dim * (ks[i]?).getD 0 + j))
      (∀ q, q = none ∨ q = some ks ∧ ks.length = n → ∃ r, g.eval f cs q = some r ∧ (0 < at_ 0 → r.res = 1) ∧ (at_ 0 < 0 → r.res = -1)
        ∧ (at_ 0 = 0 → q = none ∨ ¬ ks.Nodup → r.res = 0)
        ∧ (at_ 0 = 0 → q = some ks → ks.Nodup → ∃ δ : ℝ, 0 < δ ∧ ∀ ε, 0 < ε → ε < δ → (r.res = 1 ∧ 0 < at_ ε) ∨ (r.res = -1 ∧ at_ ε < 0)))
    let sq := fun (v : ℝ) => v * v
    let row2 := fun (co : Nat → Nat → ℝ) i => ![co i 0 - co 3 0, co i 1 - co 3 1, sq (co i 0 - co 3 0) + sq (co i 1 - co 3 1)]
    let row3 := fun (co : Nat → Nat → ℝ) i => ![co i 0 - co 3 0, co i 1 - co 3 1, co i 2 - co 3 2]
    let row4 := fun (co : Nat → Nat → ℝ) i => ![co i 0 - co 4 0, co i 1 - co 4 1, co i 2 - co 4 2, sq (co i 0 - co 4 0) + sq (co i 1 - co 4 1) + sq (co i 2 - co 4 2)]
    let turn := fun (co : Nat → Nat → ℝ) => (co 1 0 - co 0 0) * (co 2 1 - co 0 1) - (co 1 1 - co 0 1) * (co 2 0 - co 0 0)
    let three := fun (row : Nat → Fin 3 → ℝ) => Matrix.det (Matrix.of fun (i j : Fin 3) => row i.val j)
    let coord := fun (i j : Nat) => p (2 * i + j)
    let on := fun (u v w : Nat) => ∀ j, j < 2 → Min.min (coord u j) (coord v j) ≤ coord w j ∧ coord w j ≤ Max.max (coord u j) (coord v j)
    let segx := fun (q : Option (List Nat)) =>
      let o : Nat → Nat → Nat → Int := fun u v w =>
        (((Geo.gor2.eval f ([u, v, w].map fun i => [(cs[2 * i]?).getD 0, (cs[2 * i + 1]?).getD 0]).flatten
          (q.map fun l => [u, v, w].map fun i => (l[i]?).getD 0)).map fun r => r.res).getD 0)
      let cross := o 0 1 2 * o 0 1 3 < 0 ∧ o 2 3 0 * o 2 3 1 < 0
      let touch := (o 0 1 2 = 0 ∧ on 0 1 2) ∨ (o 0 1 3 = 0 ∧ on 0 1 3) ∨ (o 2 3 0 = 0 ∧ on 2 3 0) ∨ (o 2 3 1 = 0 ∧ on 2 3 1)
      ∃ r, Geo.gsegx.eval f cs q = some r ∧ (cross → r.res = 1) ∧ (¬ cross → touch → r.res = 0) ∧ (¬ cross → ¬ touch → r.res = -1)
    let G := if s.me.spanIF then 1 else 2 ^ (s.me.img.span.toNat / 16 % 4)
    let regsFor := fun (w : Nat) => Max.max 1 ((s.me.vlmax * w + 2047) / 2048)
    let gr := if s.me.spanIF then 1 else regsFor ewr
    let gi := regsFor 32
    let idxv := bits rec 5 5
    let sos := bits rec 4 1 = 1
    let element := fun (r w i : Nat) => elemGet s.me.img.v r w i
    (∀ q ∈ [(Instr.gor2 d a wide z m x, Geo.gor2), (.gor3 d a wide z m x, .gor3), (.ginc d a wide z m x, .ginc), (.gins d a wide z m x, .gins),
        (.gsegx d a wide z m x, .gsegx)],
      let out := fun k => s.me.geoAt q.2 a rec k
      let res := fun k => ((out k).map fun r => r.res).getD (-2)
      (s.me.geoBlocks (q.2.points * q.2.dim) d a ewr = false → exec q.1 s = .next (s.trap s.me.illegal))
      ∧ (s.me.geoBlocks (q.2.points * q.2.dim) d a ewr = true → s.SpanOk [] → (s.me.et = .f32 ∨ s.me.et = .f64) → s.OxHolds x .geom rec →
        (s.me.geoFields q.2.points d ewr z rec = false → exec q.1 s = .next (s.trap s.me.illformed))
        ∧ (s.me.geoFields q.2.points d ewr z rec = true →
          ((nf = true ∨ ∀ k ∈ is, (out k).isSome = true) → Completes q.1 s fun u =>
            WroteV s u d ewr (fun k => if s.me.acts m k then some (iwrap ewr (res k)) else none) ∧ u.me.ridx = 0 ∧ Passed s u 4
            ∧ Keeps s.uncounted u.uncounted (Ctx.noV ∘ Ctx.noM ∘ Ctx.noRidx)
            ∧ ∀ r k, k < 256 → u.me.active r k = if r ≠ 0 ∧ s.me.acts m k = true ∧ nf = true ∧ r = z + 1 then decide (res k = -2)
              else if r ≠ 0 ∧ s.me.acts m k = true ∧ r = z then decide (res k = 0) else s.me.active r k)
          ∧ (nf = false → is.head? = some k → out k = none → s.me.part = none → ∃ o, (o = none ∨ o = some 0) ∧ exec q.1 s
            = .next (((s.count s.me.die 2 s.me.slot.val 5 1).mapMe fun c => { c.setRidx k with part := o }).trap ⟨cGEOM_NONFINITE, word k, true, 0⟩)))))
    ∧ (∀ g : Geo,
      let n := g.points * g.dim
      (s.me.img.span.toNat / 16 % 4 < 3 → (s.me.geoBlocks n d a ewr = true ↔ a.val % G = 0 ∧ a.val + n * G ≤ 32 ∧ d.val % gr = 0 ∧ d.val + gr ≤ 32
        ∧ (d.val + gr ≤ a.val ∨ a.val + n * G ≤ d.val))
      ∧ s.me.geoAt g a rec k = g.eval s.me.et.ff ((List.range n).map fun j => element (a.val + j * G) s.me.et.ew k)
          (if sos then some ((List.range g.points).map fun i => element (idxv + i * gi) 32 k) else none))
      ∧ (s.me.spanIF = false → (s.me.geoFields g.points d ewr z rec = true ↔ ¬ (nf = true ∧ z = 7)
        ∧ (sos → idxv % gi = 0 ∧ idxv + g.points * gi ≤ 32 ∧ (d.val + gr ≤ idxv ∨ idxv + g.points * gi ≤ d.val)))))
    ∧ (f = ff32 ∨ f = ff64 → (∀ g q, (∃ v ∈ cs, ¬ (f.dec v).finite) → Geo.eval g f cs q = none)
      ∧ ((∀ v ∈ cs, (f.dec v).finite) →
        (cs.length = 6 → signs .gor2 turn 3)
        ∧ (cs.length = 12 → signs .gor3 (fun co => three (row3 co)) 4)
        ∧ (cs.length = 8 → signs .ginc (fun co => three (row2 co)) 4 ∧ segx none ∧ (ks.length = 4 → segx (some ks)))
        ∧ (cs.length = 15 → signs .gins (fun co => Matrix.det (Matrix.of fun (i j : Fin 4) => row4 co i.val j)) 5)))

/-! ### The system -/

/-- R43, R151, R152, R161, R87, R117, R27: `svc`, `brk`, a reserved encoding and a fetch that faults enter their trap; in a speculative chunk the trap is
held instead, and with a stop standing against the slot at strand level it is not taken (R420). `eret` returns to the level of CAUSE.SPL at EPC. An instruction of
the other level traps with ILLEGAL. The 64 bits of the program counter that EPC is taken from are the model's reading (log 7). -/
def Obligations.TrapEntryAndReturn : Prop :=
  ∀ (i : BitVec 11) (w addr : Word) (code : BitVec 8) (a b : SReg) (s : State) (k : Chunk),
    let all := [(Instr.svc i, cSVC, 4, i.setWidth 64), (.brk i, cBRK, 0, i.setWidth 64), (.reservedEncoding w, cILLEGAL, 0, w),
      (.instructionFetchFault code addr, code, 0, addr)]
    (∀ p ∈ all, p.2.1 ≠ cLATE → s.Alone → s.me.part = none → s.me.stopReq = none ∨ s.me.level = .system → ¬ (s.me.level = .system ∧ (s.me.pc + word p.2.2.1).setWidth 56 = s.me.ctl.tvec) →
      s.haltsOn ⟨p.2.1, p.2.2.2, false, p.2.2.1⟩ = false → Completes p.1 s fun t => EnteredTrap s t p.2.1 (s.me.pc + word p.2.2.1) p.2.2.2)
    ∧ (∀ p ∈ all, s.me.chunk = some k → k.oldest = false → Completes p.1 s fun t =>
      t = s.mapMe fun c => { c with chunk := some { k with held := some ⟨p.2.1, p.2.2.2, false, p.2.2.1⟩ } })
    ∧ (∀ p ∈ all, s.Alone → s.me.part = none → s.me.stopReq.isSome = true → s.me.level = .strand → Completes p.1 s fun t =>
      t.me.pc = s.me.pc ∧ t.me.level = .strand ∧ t.me.epc = s.me.epc ∧ t.me.cause = s.me.cause ∧ t.me.stopReq = s.me.stopReq ∧ t.mem = s.mem)
    ∧ (s.me.level = .system → s.Alone → Completes .eret s fun t => t.me.pc = s.me.epc.setWidth 64
      ∧ t.me.level = (if s.me.cause.getLsbD 10 then .system else .strand) ∧ t.me.epc = s.me.epc ∧ t.me.cause = s.me.cause ∧ t.me.tval = s.me.tval
      ∧ t.mem = s.mem ∧ t.others = s.others ∧ SlotKept s t (Ctx.noTrap ∘ Ctx.noStopTick))
    ∧ (s.me.level = .strand → ∀ j ∈ [Instr.eret, .tlbinv a b], exec j s = .next (s.trap s.me.illegal))
    ∧ (s.me.level = .system → ∀ j ∈ [Instr.yield, .hop a], exec j s = .next (s.trap s.me.illegal))

/-- R41, R42, R158: reads, writes and exchanges of the control registers by number and level: each stores the defined fields of the value, computed and
reserved fields ignore it, every other control register and every general register keeps its value; an access the level does not have, or a reserved
value, traps with ILLEGAL.
Logs 13, 26 and 28 are the model's readings. -/
def Obligations.ControlRegisters : Prop :=
  ∀ (d a : SReg) (n : BitVec 11) (s : State) (k : Chunk) (mask : Word),
    let x := s.getS a
    let sys := s.me.level = .system
    let readable := n.toNat ≤ 0x00F ∨ (sys ∧ n.toNat ≤ 0x015)
    let writable := n.toNat ≤ 5 ∨ n.toNat = 7 ∨ n.toNat = 8 ∨ (sys ∧ (n.toNat = 9 ∨ (0x00D ≤ n.toNat ∧ n.toNat ≤ 0x014)))
    let reserved := (n.toNat = 4 ∧ 5 ≤ x.toNat % 8) ∨ (n.toNat = 0x012 ∧ 0x15 ≤ x.toNat % 256)
    let value := fun (u : State) => u.ctlValue n.toNat
    let quiet := s.me.mmaAcc = none
    let kept := fun (u : State) => Passed s u 4 ∧ u.mem = s.mem ∧ u.me.ox = s.me.ox ∧ u.me.img.v = s.me.img.v ∧ u.me.img.m = s.me.img.m
      ∧ u.me.img.acc = s.me.img.acc ∧ u.me.level = s.me.level ∧ ∀ j, j ≤ 0x015 → j ≠ n.toNat → ¬ (n.toNat = 1 ∧ j = 0) → u.ctlValue j = s.ctlValue j
    let stores := fun (P : State → Prop) =>
      (Completes (.ctlw a n) s fun u => P u ∧ kept u ∧ u.me.s = s.me.s) ∧ (Completes (.ctlx d a n) s fun u => P u ∧ kept u ∧ WroteS s u d (value s))
    let pairs := [(0x002, (0x1FF : Word)), (0x003, 0x3F), (0x004, 7), (0x005, 0xFFFF), (0x007, 0xF), (0x008, 0xFFFFFFFF), (0x00D, BitVec.allOnes 64), (0x00E, 7),
      (0x00F, 0x007FFFFFFFFFFFFF), (0x010, 0x00FFFFFFFFFFFFFE), (0x011, 0x00FFFFFFFFFFFFFE), (0x012, 0x7FF), (0x013, BitVec.allOnes 64), (0x014, 0x007FFFFFFFFF0000)]
    (readable → quiet → Completes (.ctlr d n) s fun u => ScalarResult s u d (value s) 4)
    ∧ (¬ readable → exec (.ctlr d n) s = .next (s.trap s.me.illegal))
    ∧ (¬ writable ∨ reserved → exec (.ctlw a n) s = .next (s.trap s.me.illegal) ∧ exec (.ctlx d a n) s = .next (s.trap s.me.illegal))
    ∧ (writable → ¬ reserved → s.me.chunk = none → quiet → (n.toNat, mask) ∈ pairs → stores fun u => value u = x &&& mask)
    ∧ (sys → n.toNat = 9 → s.me.chunk = none → quiet → stores fun u => value u = (x &&& 3) ||| (if x &&& 3 = 3 then 4 else 0))
    ∧ (n.toNat = 0 → s.me.chunk = none → quiet → stores fun u => u.me.vl = Min.min (x.toNat % 512) s.me.vlmax)
    ∧ (n.toNat = 1 → s.me.chunk = none → quiet → stores fun u => u.me.img.span = (s.me.setSpan (x.toNat / 16 % 4) (ETy.ofCode (x.toNat % 16))).img.span
      ∧ u.me.vl = Min.min s.me.vl u.me.vlmax)
    ∧ (s.me.chunk = some k → k.oldest = false → writable → ¬ reserved → exec (.ctlx d a n) s = .next s ∧ (3 < n.toNat → exec (.ctlw a n) s = .next s))
    ∧ (n.toNat = 8 → s.me.chunk = none → x.getLsbD 32 = true → Completes (.ctlw a n) s fun u =>
      ∀ t ∈ (u.die s.me.die).preds, t.ring = ringOf s.me.slot → t.strand = s.me.strand → t = PredTable.clear t.ring t.strand s.me.s)
    ∧ (Completes .predctlClr s fun u => u.me = s.me ∧ u.mem = s.mem ∧ u.others = s.others
      ∧ (u.die s.me.die).preds = (s.die s.me.die).preds.map fun t =>
        if t.ring = ringOf s.me.slot ∧ t.strand = s.me.strand then PredTable.clear t.ring t.strand s.me.s else t)

/-- R153 to R157, R160, R422: `done` retires a strand whose stores have settled and whose transfers have landed, and its launch counts it; `yield` and `hop` leave the
slot for the ready queue and for another die, with the step trap due that a stepped one leaves; `ifence` and `tlbinv` wait, then go on; `cncl` marks a strand that
runs or is ready, and does nothing to one that has retired or whose launch is over. What is not ready waits with no effect.
Logs 10, 16, 54 and 57 are the model's readings. -/
def Obligations.SystemInstructions : Prop :=
  ∀ (a b : SReg) (l : Level5) (s u : State) (lv : Live) (ok : Bool) (w : Waiting) (e : DieId),
    let c := s.me
    let x := s.getS a
    let d := c.die
    let all := s.settled .mask 0xFFFF
    let ready := s.Alone ∧ c.wait = none ∧ c.mmaAcc = none ∧ c.ilk = [] ∧ all = true
    let gone := fun (t : State) => t.me = Ctx.reset d c.slot ∧ ∀ r ∈ t.regions, r.strand ≠ c.strand
    let range := tlbRange x (s.getS b)
    let hit := fun (e : TlbEntry) => e.va < range.1 + range.2 ∧ range.1 < e.va + 2 ^ leafLog e.level
    let dies := s.maskDies c.dmask
    let begun := s.mapMe fun c => { c with ending := true }
    let last := ((begun.quiesce false).mapMe fun c => { c with susp := 4 }).saveLast
    (ready → last.writeRecord last.me rsRETIRED 4 0 = (u, ok) → u.MemOk → u.rd c.header + 1 ≠ u.rd (c.header + 8) →
      Completes .done s fun t => gone t ∧ t.rd c.header = u.rd c.header + 1 ∧ t.rd (c.header + 8) = u.rd (c.header + 8))
    ∧ (s.Alone → all = false ∨ c.ilk ≠ [] → exec .done s = .next begun)
    ∧ (c.level = .strand → c.chunk = none → s.CanLeave false (fun c => { c with pc := c.pc + 4, stepDue := c.step }) rsREADY 5 → Completes .yield s fun t => gone t
      ∧ ∃ w ∈ (t.die d).ready, w.strand = c.strand ∧ w.yielded = true ∧ w.stepDue = c.step)
    ∧ (c.level = .strand → c.chunk = none → (16 ≤ x.toNat ∨ s.present x.toNat = false) → exec (.hop a) s = .next (s.trap (.of cABSENT_HOME x)))
    ∧ (c.level = .strand → c.chunk = none → x.toNat < 16 → s.present x.toNat = true → classAllows (s.nodeClass c.node) (Fin.ofNat 16 x.toNat) = false →
      exec (.hop a) s = .next (s.trap (.of cACCESS x)))
    ∧ (c.level = .strand → c.chunk = none → x.toNat = d.val → s.present d.val = true → classAllows (s.nodeClass c.node) d = true →
      Completes (.hop a) s fun t => Passed s t 4 ∧ Keeps s t id)
    ∧ (c.level = .strand → c.chunk = none → x.toNat < 16 → x.toNat ≠ d.val → s.present x.toNat = true → classAllows (s.nodeClass c.node) (Fin.ofNat 16 x.toNat) = true →
      s.CanLeave false (fun c => { c with pc := c.pc + word 4, stepDue := c.stepDue || (c.step && 4 != 0) }) rsMIGRATING 3 →
      Completes (.hop a) s fun t => gone t ∧ ∃ w, .migrate w d (Fin.ofNat 16 x.toNat) ∈ t.net ∧ w.strand = c.strand ∧ (c.step = true → w.stepDue = true))
    ∧ (c.chunk = none → s.settled .die 0 = true → Completes .ifence s fun t => Passed s t 4 ∧ Keeps s.noCopies t.noCopies id
      ∧ ∀ i, i ∈ (t.die d).icopies ↔ i ∈ (s.die d).icopies ∧ i.slot ≠ some c.slot ∧ ¬ (i.slot = none ∧ i.ring = ringOf c.slot ∧ i.core = coreOf c.slot))
    ∧ (c.chunk = none → s.settled .die 0 = false → exec .ifence s = .next s)
    ∧ (c.level = .system → c.chunk = none → c.answer = none → 2 ^ 55 ≤ x.toNat → exec (.tlbinv a b) s = .next (s.trap (.of cNONCANON x)))
    ∧ (c.level = .system → c.chunk = none → c.answer = none → x.toNat < 2 ^ 55 → s.settled .mask c.dmask = false → exec (.tlbinv a b) s = .next s)
    ∧ (c.level = .system → c.chunk = none → c.answer = none → x.toNat < 2 ^ 55 → s.settled .mask c.dmask = true → dies = [d] →
      Completes (.tlbinv a b) s fun t => Passed s t 4 ∧ t.mem = s.mem ∧ SlotKept s t id ∧ (t.die d).walks = []
        ∧ ∀ e, e ∈ (t.die d).tlb ↔ e ∈ (s.die d).tlb ∧ ¬ hit e)
    ∧ (c.level = .system → c.chunk = none → c.answer = none → x.toNat < 2 ^ 55 → s.settled .mask c.dmask = true → (∃ e ∈ dies, e ≠ d) →
      Completes (.tlbinv a b) s fun t => t.me.pc = c.pc ∧ t.me.sent = some s.serial ∧ t.mem = s.mem ∧ SlotKept s t id
        ∧ t.net = s.net ++ (dies.filter fun e => e ≠ d).map fun e => .tlbinv s.serial d e c.slot 0 range.1 range.2)
    ∧ (c.level = .system → c.chunk = none → c.answer.isSome = true → Completes (.tlbinv a b) s fun t => Passed s t 4 ∧ Keeps s t id)
    ∧ (s.cnclEffect l.code x = none → exec (.cncl a l) s = .next (s.trap (.of cACCESS x)))
    ∧ (c.chunk = none → l = .strand → s.liveOfStrand x = some lv → (c.level = .system ∨ serialOf x = serialOf c.strand) → x ≠ c.strand → indexOf x < lv.next →
      (s.markedStrand x = false → (∃ o ∈ s.busy, o.strand = x) ∨ (w ∈ (s.die e).ready ∧ w.strand = x) → Completes (.cncl a l) s fun t =>
        t.markedStrand x = true ∧ Passed s t 4 ∧ t.mem = s.mem ∧ SlotKept s t id)
      ∧ (s.markedStrand x = true ∨ ((∀ o ∈ s.busy, o.strand ≠ x) ∧ s.awayOf x = none) → Completes (.cncl a l) s fun t => Passed s t 4 ∧ Keeps s t id))
    ∧ (c.chunk = none → l = .strand → s.liveOfStrand x = none → c.level = .system → s.wasStrand x = true → Completes (.cncl a l) s fun t => Passed s t 4 ∧ Keeps s t id)

/-! ### Events: strands and slots -/

/-- R15, R33, R154, R175, R191, R199, R384, R385, R386, R391, R392, R394, R400, R401, R413: strands go by priority, resumed ones first, then by
deadline, readiness and number, one that yielded after those ready before it; a free slot of the least loaded core takes the first strand, a
pre-empted one is ready again, SPIN ends in PARKED, or in DEEP without a waiter entry, and PARKED in DEEP, a wake or a retry makes a wait
try again, a limit ends it, a cancelled strand ends, a late packet is counted and marks its strand, which traps, and one that migrates is
ready on its new die. When an event comes is the agenda's choice (log 1); the place of a strand whose quantum ran out, of one that yielded, and of three
that go in a circle is the model's reading (logs 56, 103), and so is what a late packet counts for (log 62). -/
def Obligations.SchedulingEvents : Prop :=
  ∀ (d e : DieId) (k : SlotNo) (n a : Nat) (s u : State) (c : Ctx) (w : Wait) (p : Parked) (x : Waiting) (l : Live) (g : Group) (f : Forming)
    (late : LateAt) (due : Word) (st : Option Word) (rest : List Packet) (y : Waiting) (queue : List Waiting) (o : SlotNo),
    let first := fun (x y : Waiting) => x.before y = true ∧ y.before x = false
    let keys := fun (x y : Waiting) (fresh fresh' : Bool) => (fresh = false → fresh' = true → first x y)
      ∧ (fresh = fresh' → (x.deadline.toNat < y.deadline.toNat → first x y) ∧ (x.deadline = y.deadline → x.since < y.since → first x y)
        ∧ (x.deadline = y.deadline → x.since = y.since → x.strand.toNat < y.strand.toNat → first x y))
    let peers := x.prio = y.prio ∧ x.sliced = y.sliced
    let takes := fun (k : SlotNo) => s.isFree d k = true ∧ (s.die d).ringUsable (ringOf k) = true ∧ s.claimed? d k = false
    let counted := fun (n : Nat) => s.count d 6 0 2 n
    let news := s.fresh? d
    let ready := (s.die d).ready.filter fun w => classAllows w.cls d && !s.isCancelled w.strand
    let i := s.nextIndex l
    let taken := (s.mapLive e l.header fun l => l.took i).count d 6 0 0 1
    let without := s.mapDie d fun y => { y with ready := y.ready.filter fun o => o.strand != x.strand }
    let expired := fun (w : Wait) => w.what = .barrier ∧ w.t0 + w.lim ≤ s.tick
    let woken := fun (t : State) => ∃ o, t.ctx? c.die c.slot = some o ∧ o.wait.any (fun w => w.woken) = true
    let unparked := fun (t : State) => (∀ q ∈ (t.die d).parked, q.w.strand ≠ p.w.strand) ∧ { p.w with since := s.tick } ∈ (t.die d).ready
    let here := s.ctx? d k = some c ∧ c.die = d ∧ c.slot = k
    let marker := s.mapMe fun c => { c with latem := false, latet := true }
    (y.prio.toNat < x.prio.toNat → first x y)
    ∧ (x.prio = y.prio → x.sliced = false → y.sliced = true → first x y)
    ∧ (peers → x.yielded = false → y.yielded = false → keys x y x.isNew y.isNew)
    ∧ (peers → x.yielded = false → y.yielded = true → (x.since ≤ y.since → first x y) ∧ (y.since < x.since → keys x y x.isNew true ∧ keys y x true x.isNew))
    ∧ (peers → x.yielded = true → y.yielded = true → x.since < y.since → first x y)
    ∧ (bestOf queue = none ↔ queue = []) ∧ (bestOf queue = some x → x ∈ queue ∧ ((∀ w ∈ queue, w.yielded = false) → ∀ w ∈ queue, w.before x = false))
    ∧ (s.pickSlot d = some k → takes k ∧ (takes o → s.coreLoad d k < s.coreLoad d o ∨ s.coreLoad d k = s.coreLoad d o ∧ k.val ≤ o.val))
    ∧ (s.pickSlot d = none → ¬ takes k)
    ∧ (s.pickSlot d = some k → bestOf (ready ++ if (s.die d).hot then [] else news.map fun q => q.1) = some x →
      (x.isNew = false → without.resumeStrand d k x = some (c, none) → Completes (.dispatch d) s fun t =>
        t.ctx? d k = some c ∧ c.state = .running ∧ c.strand = x.strand ∧ ∀ o ∈ (t.die d).ready, o.strand ≠ x.strand)
      ∧ (x.isNew = true → (s.die d).hot = false → news.find? (fun q => q.1.strand == x.strand) = some (x, e, l) → l.staged.contains (d, 8) = true →
        s.hasStage l = false → s.staging d (ringOf k) l.node = false → taken.startStrand d k l i = some c → Completes (.dispatch d) s fun t =>
          t.ctx? d k = some c ∧ c.state = .running ∧ c.level = .strand ∧ c.strand = l.strand i ∧ c.getS 1 = word i ∧ c.deadline = l.deadline
          ∧ c.chunk = none ∧ ∀ y ∈ (t.die e).lives, y.header = l.header → y.next = i + 1))
    ∧ (here → c.state = .running → c.stopReq = none →
      (c.stopLater = false → ((counted (if s.isVictim c then 1 else 0)).focus d k).markStop.CanLeave false (fun c => { c with wend := none }) rsREADY 2 →
        Completes (.preemption d k) s fun t => t.ReadyAgain d k c.strand)
      ∧ (c.level = .system → Completes (.preemption d k) s fun t => t.ctx? d k = some { c with stopReq := some 2, stopTick := none } ∧ t.mem = s.mem)
      ∧ (c.stopLater = false → bits (s.die d).regs.rsvctl 32 16 ≠ 0 → c.dispatched + bits (s.die d).regs.rsvctl 32 16 * 1024 ≤ s.tick →
        (s.pressing d).any (fun w => w.prio == c.prio) = true → ((counted 1).focus d k).markStop.CanLeave false (fun c => { c with wend := none }) rsREADY 2 →
        Completes (.quantumExpiry d k) s fun t => t.ReadyAgain d k c.strand ∧ ∃ w ∈ (t.die d).ready, w.strand = c.strand ∧ w.sliced = true))
    ∧ (here → c.wait = some w → w.woken = false → w.since + 4096 ≤ s.tick → c.level = .strand → c.sent = none → c.stopReq = none →
      (s.focus d k).CanLeave true (fun c => { c with wend := w.wend }) (if w.what = .reservation then rsREADY else if w.parks then rsPARKED else rsDEEP) 1 → Completes (.park d k) s fun t =>
        t.ctx? d k = none
        ∧ (w.what ≠ .reservation → ∃ q ∈ (t.die d).parked, q.w.strand = c.strand ∧ q.wait = w
          ∧ (w.entry = true ∨ w.what = .group → q.deep = false) ∧ (w.entry = false → w.what ≠ .group → q.deep = true))
        ∧ (w.what = .reservation → ∃ q ∈ (t.die d).ready, q.strand = c.strand))
    ∧ (s.parkedOf p.w.strand = some (d, p) →
      (p.deep = false → p.w.since + 4096 ≤ s.tick → Completes (.deepPark p.w.strand) s fun t =>
        (∀ q ∈ (t.die d).parked, q.w.strand = p.w.strand → q.deep = true ∧ q.w.since = s.tick)
        ∧ (p.wait.what ≠ .group → ∀ q ∈ (t.die (homeOf p.wait.loc)).waiters, q.strand ≠ p.w.strand))
      ∧ (p.deep = true → p.w.since + Max.max 1 (bits (s.die d).regs.rsvctl 16 16) * 1024 ≤ s.tick → Completes (.deepRetry p.w.strand) s unparked)
      ∧ ((∀ o ∈ s.busy, o.strand ≠ p.w.strand) → expired p.wait → Completes (.bwaitTimeout p.w.strand) s unparked))
    ∧ (s.arrive n = some (.wake d p.w.strand a, rest) →
      (s.busy.find? (fun o => o.strand == p.w.strand && o.wait.any fun w => w.hears a) = some c → s.ctx? c.die c.slot = some c →
        (c.sent = none → c.answer = none → Completes (.wakeUp n) s fun t => woken t ∧ t.net = rest)
        ∧ (c.sent.isSome = true → exec (.wakeUp n) s = .next s))
      ∧ ((∀ o ∈ s.busy, o.strand ≠ p.w.strand) → (s.die d).parked.find? (fun q => q.w.strand == p.w.strand && q.wait.hears a && (!q.deep || q.wait.what == .group)) = some p →
        Completes (.wakeUp n) s unparked))
    ∧ (here → c.wait = some w → w.woken = false → w.entry = false → w.retryAt ≤ s.tick →
      let tries := fun (t : State) => t.ctx? d k = some { c with wait := some { w with woken := true, entry := false } } ∧ t.mem = s.mem
      (w.what = .fullEmpty ∨ w.what = .queue → Completes (.nackRetry d k) s tries) ∧ (w.what = .barrier → Completes (.bwaitPoll d k) s tries))
    ∧ (s.busy.find? (fun o => o.strand == c.strand && o.wait.any fun w => w.what == .barrier && decide (w.t0 + w.lim ≤ s.tick)) = some c →
      s.ctx? c.die c.slot = some c → (∀ q ∈ (s.die (homeOf w.loc)).waiters, q.strand = c.strand → q.what ≠ .queue) → c.wait = some w →
      Completes (.bwaitTimeout c.strand) s woken)
    ∧ (g ∈ (s.die d).groups → g.forming = some f → f.since + f.tmo ≤ s.tick → (∀ e, ∀ o ∈ (s.die e).groups, o.forming.any (fun q => q.strand == f.strand) = true → e = d ∧ o = g) →
      Completes (.gformTimeout f.strand) s fun t =>
        t.group? d g.handle = (if g.prior = .free then none else some { g with state := g.prior, forming := none, regs := [] })
        ∧ (⟨f.strand, g.handle, gTIMEOUT, g.gen⟩ : FormDone) ∈ (t.die d).formed ∧ .wake d f.strand g.handle.toNat ∈ t.net)
    ∧ (s.isCancelled c.strand = true → s.slotOfStrand c.strand = some c → s.ctx? c.die c.slot = some c → c.stopLater = false → c.stopReq = none →
      (s.focus c.die c.slot).markStop.CanEnd u → Completes (.cancelStop c.strand) s fun t => t.ctx? c.die c.slot = none ∧ t.rd c.header = u.rd c.header + 1)
    ∧ (s.lateDue d late = some (due, st) → due.toNat < s.tick → (∀ x, st = some x → ∃ o ∈ s.busy, o.strand = x) → Completes (.lateMark d late) s fun t =>
      t.mem = s.mem ∧ t.counter d 6 0 10 = s.counter d 6 0 10 + 1
      ∧ ∀ c, s.ctx? e k = some c → c.state ≠ .free → st = some c.strand → ∃ o, t.ctx? e k = some o ∧ o.latem = (c.latem || (s.lateen c && !c.latet)))
    ∧ (s.lateDue d late = some (due, st) → s.tick ≤ due.toNat → exec (.lateMark d late) s = .next s)
    ∧ (s.ctx? d k = some s.me → s.me.state = .running → s.me.level = .strand → s.me.latem = true → s.me.latet = false → s.Alone → s.me.sent = none → s.me.answer = none →
      s.me.wait = none → s.me.part = none → s.me.stopReq = none → s.me.stepDue = false → s.me.ending = false → Completes (.lateTrap d k) s fun t => EnteredTrap marker t cLATE s.me.pc s.me.deadline)
    ∧ (s.arrive n = some (.migrate x e d, rest) → Completes (.migrationArrival n) s fun t =>
      t.net = rest ∧ (t.die d).ready = (s.die d).ready ++ [{ x with since := s.tick }] ∧ t.mem = s.mem ∧ t.busy = s.busy)

/-! ### Events: the rill of a ring -/

/-- R143 to R145, R148, R311, R314, R316 to R318, R320, R322, R325, R327, R328: each rill message goes one core on and the chunk it meets
there acts on it; a claimed slot starts its chunk at the head with the fork image; a squashed chunk starts again, and one squashed under exit
is gone; the oldest chunk that has ended commits sector by sector, and the region goes on or ends, with SQUASH and RELEASE sent to the slots
it held. A lookup finds a byte in the nearest older chunk that wrote it.
When an event comes is the agenda's choice (log 1); the order of the messages, what COMMIT and RELEASE find and the steps of a drain are the
model's reading (logs 29, 49 to 53, 98, 102). -/
def Obligations.RillEvents : Prop :=
  ∀ (m : Rill) (n a cnt width : Nat) (s : State) (c o : Ctx) (q : Chunk) (r : Region) (x : SReg) (y : OxReg) (v : Word) (ov : Ox) (mask : BitVec 32)
    (cause : SquashCause) (more : List Nat) (d : DieId) (k : SlotNo) (rest : List Packet) (z : Nat) (w : Byte),
    let leaves := fun (msg : RillMsg) => s.Leaves n m rest ∧ m.msg = msg
    let meets := s.youngerAt m.next = some (c, q) ∧ s.ctx? c.die c.slot = some c
    let squashed := fun (t : State) => t.ChunkIn c fun _ b => b.restart = true ∧ b.wr = [] ∧ b.j = q.j
    let onCore := fun (slot : SlotNo) => ringOf slot = m.ring ∧ coreOf slot = m.next.core
    let inRegion := s.ctx? c.die c.slot = some c ∧ s.regions.find? (fun r => r.strand == c.strand) = some r
    let begun := fun (t : State) (j : Nat) (old : Bool) => t.ChunkIn c fun o b =>
      o.pc = r.head ∧ o.img = r.image ∧ b.j = j ∧ b.oldest = old ∧ b.restart = false ∧ b.iter = 0 ∧ b.depth = 0 ∧ b.wr = [] ∧ b.er = []
    let atWeir := inRegion ∧ c.chunk = some q ∧ q.oldest = true ∧ q.ended = true ∧ c.mmaAcc = none ∧ r.todo = []
    let passes := atWeir ∧ q.spec = false ∧ q.restart = false
    let written := fun (i : Nat) (b : Option Byte) => ∀ o p, s.chunkCtx c.strand i = some o → o.chunk = some p → cellGet p.wr z = b
    let found := s.olderBytes c q (sectorOf a)
    ((z, w) ∈ found ↔ (sectorOf a ≤ z ∧ z < sectorOf a + 32 ∧ cellGet q.wr z = none ∧ cellGet q.valid z = none
      ∧ ∃ i, i < q.j ∧ q.j ≤ i + 8 ∧ (∃ o p, s.chunkCtx c.strand i = some o ∧ o.chunk = some p) ∧ written i (some w) ∧ ∀ l, i < l → l < q.j → written l none))
    ∧ (leaves (.claim cnt width) → s.busy.find? (fun c => c.strand == m.strand) = some c → c.die = m.die → m.hops < 7 → cnt ≤ width →
      (s.freeSlotOf m.die m.ring m.next.core = some k → Completes (.rillClaim n) s fun t =>
        t.ctx? m.die k = some (c.claimFor k) ∧ (∀ r ∈ t.regions, r.strand = m.strand → r.slots.getLast? = some k)
        ∧ .rill m.die m.ring m.origin (m.hops + 1) m.strand m.j (.claim (cnt + 1) width) ∈ t.net)
      ∧ (s.freeSlotOf m.die m.ring m.next.core = none → Completes (.rillClaim n) s fun t =>
        .rill m.die m.ring m.origin (m.hops + 1) m.strand m.j (.claim cnt 0) ∈ t.net ∧ t.busy = s.busy ∧ t.regions = s.regions))
    ∧ (leaves (.claim cnt width) → m.hops = 7 → Completes (.rillClaim n) s fun t =>
      t.net = rest ∧ t.busy = s.busy ∧ ∀ r ∈ t.regions, r.strand = m.strand → r.claimed = true)
    ∧ (inRegion → c.state = .claimed → c.chunk = none → r.slots.contains c.slot = true → r.slotFor r.next = c.slot → r.claimed = true → s.finalSeen c.strand = false →
      Completes (.chunkStart c.die c.slot) s fun t => begun t r.next false ∧ ∀ b ∈ t.regions, b.strand = c.strand → ∃ b' ∈ s.regions, b.next = b'.next + 1)
    ∧ (inRegion → c.chunk = some q → q.restart = true → r.slots.contains c.slot = true → Completes (.chunkRestart c.die c.slot) s fun t => begun t q.j q.oldest ∧ t.mem = s.mem)
    ∧ (leaves (.liveout x v) → meets → q.j = m.j + 1 → q.restart = false → q.oldest = false →
      ((∀ b, (x.val, b) ∈ q.pred → b = v) → Completes (.liveout n) s fun t =>
        t.ChunkIn c fun o b => b.fin.getLsbD x.val = true ∧ b.restart = false ∧ (q.wrote.getLsbD x.val = false → o.s[x] = v) ∧ ∀ z, z ≠ x → o.s[z] = c.s[z])
      ∧ (q.weir = false → q.rx.getLsbD x.val = true → (x.val, v + 1) ∈ q.pred → Completes (.liveout n) s squashed))
    ∧ (leaves (.oxw y ov) → meets → q.restart = false → q.oldest = false →
      (q.weir = false → q.oxRead.getLsbD y.val = true → Completes (.oxw n) s squashed)
      ∧ (q.oxRead.getLsbD y.val = false → q.oxWrote.getLsbD y.val = false → (∀ b ∈ q.oxFrom, b.1 = y.val → b.2 ≤ m.j) → Completes (.oxw n) s fun t =>
        t.ChunkIn c fun o _ => o.ox[y] = ov ∧ ∀ z, z ≠ y → o.ox[z] = c.ox[z]))
    ∧ (leaves (.store (sectorOf a) mask) → meets → q.restart = false → q.spec = true → q.weir = false →
      (q.er.contains (sectorOf a) = true → Completes (.store n) s squashed)
      ∧ (q.er.contains (sectorOf a) = false → Completes (.store n) s fun t => t.ChunkIn c fun _ b =>
        b.restart = false ∧ b.wr = q.wr ∧ b.valid = q.valid.filter fun e => !(sectorOf e.1 == sectorOf a && mask.getLsbD (e.1 % 32))))
    ∧ (leaves (.squash cause) → meets → q.restart = false → q.weir = false → Completes (.squash n) s fun t => t.mem = s.mem ∧ (cause ≠ .exit → squashed t)
      ∧ (cause = .exit → ∃ o, t.ctx? c.die c.slot = some o ∧ o.chunk = none))
    ∧ (leaves .commit → meets → s.regions.find? (fun r => r.strand == c.strand) = some r → m.strand = c.strand → m.j + 1 < r.next →
      q.j = m.j + 1 → q.oldest = false → q.restart = false → q.misread r = false → (s.chunkCtx m.strand (m.j + 1)).any (fun c => c.chunk.any fun b => b.oldest) = false →
      Completes (.commit n) s fun t => t.ChunkIn c fun o b =>
        o.state = .running ∧ b.oldest = true ∧ b.restart = false ∧ ∀ z : SReg, o.s[z] = if q.wrote.getLsbD z.val then c.s[z] else r.lastS[z])
    ∧ (atWeir → q.spec = true → q.weir = true → q.commit = a :: more → more ≠ [] → s.MemOk → cellsFrom 0 q.wr = true →
      (∀ b ∈ q.wr, sectorOf b.1 = a → homeOf b.1 = c.die) → s.storeRoom c a 32 = true → (q.ordered.contains a = false ∨ c.perfPend = 0) → Completes (.commitListDrain c.die c.slot) s fun t =>
        (∀ z, memGet t.mem z = if sectorOf z = a then (cellGet q.wr z).getD (memGet s.mem z) else memGet s.mem z)
        ∧ t.ChunkIn c fun _ b => b.commit = more ∧ b.spec = true ∧ b.wr = q.wr.filter fun e => sectorOf e.1 != a)
    ∧ (passes → q.final = true → Completes (.commitListDrain c.die c.slot) s fun t =>
      (∀ b ∈ t.regions, b.strand ≠ c.strand) ∧ ∃ o, t.ctx? c.die c.slot = some o ∧ o.chunk = none ∧ o.state = .running ∧ o.s = c.s ∧ o.img.v = c.img.v
        ∧ o.img.flags = r.flags ||| c.img.flags
        ∧ ((∃ b ∈ s.busy, b.strand = c.strand ∧ b.at c.die c.slot = false ∧ b.state = .claimed) → c.rill q.j (.squash .exit) ∈ t.net ∧ c.rill q.j .release ∈ t.net))
    ∧ (passes → q.final = false → r.slots.length ≤ 1 → Completes (.commitListDrain c.die c.slot) s fun t =>
      begun t (q.j + 1) true ∧ t.ChunkIn c fun o _ => o.s = c.s ∧ o.ox = c.ox)
    ∧ (passes → q.final = false → 2 ≤ r.slots.length → Completes (.commitListDrain c.die c.slot) s fun t =>
      (∃ o, t.ctx? c.die c.slot = some o ∧ o.chunk = none ∧ o.state = .claimed) ∧ c.rill q.j .commit ∈ t.net)
    ∧ (leaves .release → s.ctx? o.die o.slot = some o → o.die = m.die → onCore o.slot → o.strand = m.strand → o.state = .claimed → o.chunk = none →
      (∀ r ∈ s.regions, r.strand ≠ m.strand) → Completes (.rillRelease n) s fun t => t.ctx? o.die o.slot = none ∧ t.mem = s.mem)
    ∧ (s.ctx? d k = some c → c.die = d → c.slot = k → c.chunk = some q → q.spec = true → q.restart = false → q.ended = false → found ≠ [] →
      Completes (.olderVersionLookup d k a) s fun t => (t.ChunkIn c fun _ b => b.wr = q.wr ∧ ∀ e ∈ found, cellGet b.valid e.1 = some e.2) ∧ t.mem = s.mem)

/-! ### Events: homes, coherence, translation, rows and errors -/

/-- R174, R183, R190, R203, R341, R343 to R347, R349: a request of another die is performed at its home and answered, and the answer
reaches its slot; a pending store is performed at one instant and settled; a remote line is granted as its region's degree and its page's hint
allow, delivered, collapsed and evicted; a slice evicts the least recently used line that no L1D holds, or else the least recently used, and writes it back;
at an epoch's end a region's degree moves by its counters. A CACK is counted after the PERF that awaits it.
When an event comes is the agenda's choice (log 1); what the slices hold, and when a granted line reaches them, are the model's reading
(logs 48, 67, 85, 86, 92). -/
def Obligations.HomeAndCoherenceEvents : Prop :=
  ∀ (n id line loc z : Nat) (d e : DieId) (k : SlotNo) (strand x : Word) (o : AmoOp) (op : HomeOp) (a : Answer) (bs : List Byte) (nb : Bool) (s : State) (c : Ctx)
    (p : Pend) (l : Line) (g stale : Bool) (pref : Pref) (hint : BitVec 2) (mask : BitVec 16) (whos cols : List (DieId × SlotNo)) (r : RegionEntry) (rest : List Packet)
    (v : SharedLine) (keep : Bool),
    let asked := fun (op : HomeOp) => s.arrive n = some (.request id d k strand loc op, rest) ∧ s.MemOk
      ∧ ∀ q ∈ s.net.take n, ∀ i e j st l o, q = .request i e j st l o → st = strand → l / 8 ≠ loc / 8
    let replied := fun (t : State) (op : HomeOp) (a : Answer) => ∃ pre, t.net = pre ++ [.reply id d k loc op a]
    let plain := isDevice loc = false ∧ s.Sound loc 8
    let b := Bar.ofWord (s.rd loc)
    let q := s.qcb loc
    let here := s.ctx? e k = some c ∧ c.die = e ∧ c.slot = k
    let free := fun (net : List Packet) (d : DieId) (line : Nat) => collapseFirst net d line = false
    let region := (s.die (homeOf line)).region (regionIx line)
    let entry := dirFind (s.die (homeOf line)).dir line
    let grant := grants (Min.min (degDies region.deg.toNat) (capDies hint.toNat)) entry
    let ctl := (s.die d).regs.replctl
    let roomy := fun (d : DieId) (line : Nat) => ((s.die d).shared.any fun l => l.line == line) = true ∨ (s.setWays d line).length < Config.sliceWays ∨ s.Serial
    let ways := s.setWays d line
    let pending := fun (e : DieId) (line : Nat) => (s.die e).pend.any fun q => lineOf q.sector == line
    (grants z entry = true ↔ 1 ≤ z ∧ (entry.coarse = true ∨ entry.holders.length < z ∨ 15 ≤ z))
    ∧ [0, 1, 2, 3].map degDies = [0, 1, 3, 15] ∧ [0, 1, 2, 3].map capDies = [15, 0, 1, 3]
    ∧ (asked (.amo o z x) → plain → z = 4 ∨ z = 8 → loc % z = 0 → Completes (.homeAtomic n) s fun t => Stored s t loc z (o.apply z (numAt s.mem loc z) x.toNat).1
      ∧ ∃ f, replied t (.amo o z x) (.value (word (numAt s.mem loc z)) f none))
    ∧ (asked (.stFe x) → plain → loc % 8 = 0 → s.isEmpty loc = true → Completes (.homeFeRequest n) s fun t =>
      Stored s t loc 8 x.toNat ∧ t.isEmpty loc = false ∧ (∀ w ∈ (t.die (homeOf loc)).waiters, w.loc = loc → w.what ≠ .fullEmpty) ∧ replied t (.stFe x) (.value 0 0 none))
    ∧ (asked (.put bs nb) → q.ok = true → bs.length = q.es → q.count < q.cap → (q.slot q.tail + q.es ≤ loc ∨ loc + 64 ≤ q.slot q.tail) →
      Completes (.homeQueueRequest n) s fun t =>
        numAt t.mem (q.slot q.tail) q.es = ofBytes bs ∧ t.rd (loc + 16) = word q.head ∧ t.rd (loc + 24) = word (q.tail + 1) ∧ replied t (.put bs nb) (.bytes [] 1 false))
    ∧ (asked .qstat → Completes (.homeQueueRequest n) s fun t => replied t .qstat (.value (word q.snapshot) 0 none) ∧ t.mem = s.mem)
    ∧ (asked .barr → 2 ≤ b.arr → Completes (.homeBarrierRequest n) s fun t =>
      Bar.ofWord (t.rd loc) = { b with arr := b.arr - 1 } ∧ replied t .barr (.value 0 0 none))
    ∧ (s.arrive n = some (.reply id e k loc op a, rest) → free (s.net.take n) e (lineOf loc) → here → c.sent = some id → Completes (.homeReply n) s fun t =>
      t.ctx? e k = some { c with sent := none, answer := some a } ∧ t.net = rest ∧ t.mem = s.mem)
    ∧ (s.arrive n = some (.pending d p.id, rest) → (s.die d).pend.find? (fun q => q.id == p.id) = some p →
      (∀ q ∈ (s.die d).pend.takeWhile fun q => q.id != p.id, q.sector ≠ p.sector) → p.halves = [] → cellsFrom 0 p.bytes = true → (∀ c ∈ p.bytes, sectorOf c.1 = p.sector) → s.MemOk →
      Completes (.pendingStoreArrival n) s fun t => (∀ a, memGet t.mem a = (cellGet p.bytes a).getD (memGet s.mem a))
        ∧ (∃ pre m, t.net = pre ++ [.perf d p.id p.slots p.slots.eraseDups m]) ∧ ∀ q ∈ (t.die d).pend, q.id = p.id → q.sent = true)
    ∧ (s.arrive n = some (.perf d id whos cols mask, rest) → here → Completes (.perf n) s fun t => t.net = rest ∧ t.mem = s.mem
      ∧ (∀ q ∈ (t.die d).pend, q.id ≠ id) ∧ ∃ o, t.ctx? e k = some o ∧ o.perfPend = c.perfPend - BitVec.ofNat 12 (whos.count (e, k))
        ∧ ∀ f : DieId, o.colPend[f] = c.colPend[f] + BitVec.ofNat 12 (if mask.getLsbD f.val then cols.count (e, k) else 0))
    ∧ (s.arrive n = some (.cack d (.slot e k), rest) → s.perfDue d (.slot e k) = true → exec (.cack n) s = .next s)
    ∧ (s.arrive n = some (.cack d (.slot e k), rest) → s.perfDue d (.slot e k) = false → here → c.colPend[d] ≠ 0 → Completes (.cack n) s fun t =>
      t.ctx? e k = some { c with colPend := c.colPend.set d (c.colPend[d] - 1) } ∧ t.net = rest ∧ t.mem = s.mem)
    ∧ (s.arrive n = some (.read id d k line hint pref, rest) → roomy (homeOf line) line → Completes (.remoteReadRequest n) s fun t =>
      t.net = rest ++ [.fill id d k ⟨line, (upFrom line 256).map s.homeByte⟩ grant true pref false []] ∧ t.mem = s.mem
      ∧ (grant = true → entry.line = line → dirFind (t.die (homeOf line)).dir line = entry.grant d))
    ∧ (s.arrive n = some (.fill id e k l g true .load stale [], rest) → free (s.net.take n) e l.line → here → c.sent = some id → s.Serial → l.data ≠ [] →
      Completes (.replicaFill n) s fun t => t.net = rest ∧ t.mem = s.mem ∧ (g = true → (∀ q ∈ (s.die e).pend, lineOf q.sector ≠ l.line) → l ∈ (t.die e).replicas)
        ∧ (g = false ∨ (∃ q ∈ (s.die e).pend, lineOf q.sector = l.line) → (t.die e).replicas = (s.die e).replicas)
        ∧ ∃ o, t.ctx? e k = some o ∧ o.sent = none ∧ o.lines.head? = some l)
    ∧ (s.arrive n = some (.fill id e k l g keep pref stale [], rest) → free (s.net.take n) e l.line → pref ≠ .load → s.Serial → Completes (.replicaFill n) s fun t =>
      t.net = rest ∧ t.mem = s.mem ∧ t.busy = s.busy ∧ (g = true → keep = true → pending e l.line = false → l ∈ (t.die e).replicas ∧ t.counter e 4 0 8 = s.counter e 4 0 8 + 1)
      ∧ (g = false ∨ keep = false ∨ pending e l.line = true → (t.die e).replicas = (s.die e).replicas ∧ t.counter e 4 0 9 = s.counter e 4 0 9 + 1))
    ∧ (s.arrive n = some (.collapse line d [.slot e k], rest) → (∀ q ∈ rest, ∀ i f j m g b p st cs, q = .fill i f j m g b p st cs → m.line ≠ line) →
      Completes (.collapse n) s fun t => (∀ q ∈ (t.die d).replicas, q.line ≠ line) ∧ .cack d (.slot e k) ∈ t.net ∧ t.mem = s.mem)
    ∧ (victim ways = none ↔ ways = [])
    ∧ (victim ways = some v → ∃ before after, ways = before ++ v :: after ∧ (v.cores = [] → ∀ w ∈ after, w.cores ≠ []) ∧ (v.cores ≠ [] → after = [] ∧ ∀ w ∈ ways, w.cores ≠ []))
    ∧ (victim ways = some v → v.line ≠ line → exec (.evictionNotice d line) s = .next s)
    ∧ (victim ways = some v → v.line = line → homeOf line = d → Completes (.evictionNotice d line) s fun t => t.mem = s.mem ∧ (t.die d).replicas = (s.die d).replicas
      ∧ (∀ q ∈ (t.die d).shared, q.line ≠ line) ∧ (v.dirty ≠ 0 → ∃ m ∈ (t.die d).memside, m.line = line ∧ m.dirty &&& v.dirty = v.dirty))
    ∧ (victim ways = some v → v.line = line → homeOf line ≠ d → Completes (.evictionNotice d line) s fun t => (∀ q ∈ (t.die d).replicas, q.line ≠ line) ∧ t.mem = s.mem
      ∧ (∀ q ∈ (t.die d).shared, q.line ≠ line)
      ∧ ((∀ q ∈ s.net, ∀ i j m p st cs, q = .fill i d j m true true p st cs → m.line ≠ line) → ∀ f ∈ (t.die (homeOf line)).dir, f.line = line → f.coarse = false → ∃ f' ∈ (s.die (homeOf line)).dir, f'.line = line ∧ f.holders = f'.holders.erase d))
    ∧ ((s.die d).present = true → s.tick % 2 ^ Max.max 10 (bits ctl 16 8) = 0 → (s.die d).regions = [r] →
      (r.pin = true → Completes (.epochEnd d) s fun t => (t.die d).region r.index = { r with rsh := 0, col := 0 } ∧ t.mem = s.mem)
      ∧ (r.pin = false → bits ctl 32 8 ≤ r.rsh.toNat → r.col.toNat * 2 ^ bits ctl 28 4 < r.rsh.toNat → r.col.toNat < bits ctl 40 8 → Completes (.epochEnd d) s fun t =>
        t.mem = s.mem ∧ (t.die d).region r.index =
          if r.up.toNat = 0 ∨ r.deg.toNat = 3 then { r with up := if r.up.toNat = 0 then 1 else if r.up.toNat = 1 then 2 else 3, down := 0, rsh := 0, col := 0 }
          else { r with deg := r.deg + 1, up := 0, down := 0, rsh := 0, col := 0 }))

/-- R160, R359, R360, R369, R466, R467: a completed walk is kept under its root in every TLB that serves it; a named die drops its translations and acknowledges; an activation
is counted and a row at the threshold is captured; a window and a hold end; a scrub changes nothing but its counts; an error that is corrected is
counted, one that is not loses what it hit: a clean line is fetched again, a dirty sector reads ones, data of a store reads as lost, a strand ends.
When an event comes is the agenda's choice (log 1); the order in which TLBs fill, the banks and sets of a row, what a scrub finds and what each error
takes with it are the model's choice (logs 18, 63, 64, 65). -/
def Obligations.TranslationAndErrorEvents : Prop :=
  ∀ (n id lo len bank row loc z line : Nat) (d e : DieId) (k : SlotNo) (root va : Word) (s v : State) (c : Ctx) (q : Chunk) (t : TlbEntry) (slot : Option SlotNo) (rest : List Packet)
    (core : Fin 64) (array : ErrArray) (loss : DirtyAt),
    let ctl := (s.die d).regs.hotctl
    let kept := fun (u : State) => u.mem = s.mem ∧ u.busy = s.busy ∧ u.net = s.net
    let pins := fun (u : State) => (u.die d).pins
    let stop := s.tick + Max.max 1 (bits ctl 48 16) * 1024
    let key := rowKey ⟨loc, bank⟩
    let dirtyIn := fun (l : DirtyAt) => match l with
      | .slice => ∃ x ∈ (s.die d).shared, homeOf loc = d ∧ x.line = lineOf loc ∧ x.dirty.getLsbD (loc % 256 / 32) = true
      | .memside => ∃ x ∈ (s.die d).memside, x.line = lineOf loc ∧ x.dirty.getLsbD (loc % 256 / 32) = true
      | .pending => ∃ p ∈ (s.die d).pend, p.sector = sectorOf loc ∧ p.sent = false
    let reads := fun (u : State) (lo hi : Nat) => ∀ a, memGet u.mem a = if lo ≤ a ∧ a < hi then 0xFF else memGet s.mem a
    let cleanOr := fun (p : ErrPlace) (dirty : Prop) (post : State → Prop) =>
      (dirty → exec (.uncorrectableError p) s = .next s) ∧ (¬ dirty → Completes (.uncorrectableError p) s fun u => u.mem = s.mem ∧ post u)
    ((s.die d).present = true → va.toNat < 2 ^ 55 → tlbFind (s.die d).tlb slot root.toNat va.toNat = none → s.walk d .r root.toNat va.toNat = .ok t →
      Completes (.pageWalk ⟨d, slot⟩ root va) s fun u => (∀ x ∈ tlbsOf slot, { t with held := x } ∈ (u.die d).tlb) ∧ t.root = root.toNat ∧ t.va ≤ va.toNat ∧ va.toNat < t.va + 2 ^ leafLog t.level ∧ kept u)
    ∧ (s.arrive n = some (.tlbinv id d e k 0 lo len, rest) → Completes (.tlbinvAck n) s fun u =>
      (∀ x, x ∈ (u.die e).tlb ↔ x ∈ (s.die e).tlb ∧ ¬ (x.va < lo + len ∧ lo < x.va + 2 ^ leafLog x.level)) ∧ (u.die e).walks = [] ∧ u.net = rest ++ [.tlback id e d k] ∧ u.mem = s.mem)
    ∧ (s.arrive n = some (.tlback id e d k, rest) → s.ctx? d k = some c → c.sent = some id → c.die = d → c.slot = k →
      (∀ q ∈ rest, (∀ i a b j m l h, q = .tlbinv i a b j m l h → i ≠ id) ∧ ∀ i a b j, q = .tlback i a b j → i ≠ id) → Completes (.tlbinvAck n) s fun u =>
        u.ctx? d k = some { c with sent := none, answer := some (.value 0 0 none) } ∧ u.net = rest ∧ u.mem = s.mem)
    ∧ (Config.isM (homeOf loc).val = true → key = bank) ∧ (Config.isM (homeOf loc).val = false → key = 2 * bank + loc / 2 ^ 13 % 2)
    ∧ (isDram loc = true → homeOf loc = d → bitAt ctl 12 = true → (s.die d).present = true → (s.die d).trackers = [] →
      let ch := channelOf loc
      (2 ≤ bits ctl 0 12 → Completes (.rowActivation ⟨loc, bank⟩ row false) s fun u => (u.die d).trackers = [⟨ch, key, [(row, 1)]⟩] ∧ pins u = pins s ∧ kept u)
      ∧ (bits ctl 0 12 ≤ 1 → pins s = [] → Completes (.rowActivation ⟨loc, bank⟩ row false) s fun u =>
        (u.die d).trackers = [⟨ch, key, [(0, 0)]⟩] ∧ pins u = (if s.pinsFull d ch key row then [] else [⟨ch, key, row, stop⟩]) ∧ kept u)
      ∧ Completes (.rowActivation ⟨loc, bank⟩ row true) s fun u => u.uncounted = s.uncounted)
    ∧ (s.tick % (Max.max 1 (bits ctl 32 16) * 1024) = 0 → Completes (.hotRowWindow d) s fun u => (u.die d).trackers = [] ∧ pins u = pins s ∧ kept u)
    ∧ (Completes (.hotRowHoldExpiry d row) s fun u => (∀ p, p ∈ pins u ↔ p ∈ pins s ∧ ¬ (p.row = row ∧ p.holdEnd ≤ s.tick)) ∧ kept u)
    ∧ ((s.die d).present = true → Completes (.scrub d) s fun u => u.uncounted = { s.uncounted with fresh := s.fresh + 1 })
    ∧ (Completes (.uncorrectableError (.corrected d array)) s fun u => u.uncounted = s.uncounted ∧ u.counter d 8 0 (2 * arrayIx array) = s.counter d 8 0 (2 * arrayIx array) + 1)
    ∧ (Completes (.uncorrectableError (.clean d (.l1d core) line)) s fun u => kept u ∧ ∀ l ∈ (u.die d).shared, l.line = line → core.val ∉ l.cores)
    ∧ (Completes (.uncorrectableError (.clean d (.l1i core) line)) s fun u => kept u
      ∧ ∀ i, i ∈ (u.die d).icopies ↔ i ∈ (s.die d).icopies ∧ ¬ (i.slot = none ∧ i.ring * 8 + i.core = core.val ∧ i.line.line = line))
    ∧ cleanOr (.clean d .slice line) (∃ l ∈ (s.die d).shared, l.line = line ∧ l.dirty ≠ 0) (fun u =>
      (∀ l ∈ (u.die d).shared, l.line ≠ line) ∧ ∀ l ∈ (u.die d).replicas, l.line ≠ line)
    ∧ cleanOr (.clean d .memside line) (∃ l ∈ (s.die d).memside, l.line = line ∧ l.dirty ≠ 0) (fun u => kept u ∧ ∀ l ∈ (u.die d).memside, l.line ≠ line)
    ∧ (isDevice loc = false → s.present (homeOf loc).val = true → Completes (.uncorrectableError (.store loc z)) s fun u =>
      (∀ a, a ∈ u.lost ↔ a ∈ s.lost ∨ (loc / 8 * 8 ≤ a ∧ a < loc / 8 * 8 + 8 * z)) ∧ u.mem = s.mem ∧ u.busy = s.busy)
    ∧ (¬ dirtyIn loss → exec (.uncorrectableError (.dirtySector d loss loc)) s = .next s)
    ∧ (dirtyIn loss → loss ≠ .pending → s.MemOk → Completes (.uncorrectableError (.dirtySector d loss loc)) s fun u => reads u (sectorOf loc) (sectorOf loc + 32))
    ∧ (dirtyIn .pending → Completes (.uncorrectableError (.dirtySector d .pending loc)) s fun u =>
      kept u ∧ ∀ p ∈ (u.die d).pend, p.sector = sectorOf loc → p.sent = false → (∀ b ∈ p.bytes, b.2 = 0xFF) ∧ ∀ h ∈ p.halves, h.2.2 = 15)
    ∧ (isDram loc = true → s.present (homeOf loc).val = true → s.MemOk → Completes (.uncorrectableError (.sliceState loc)) s fun u => reads u (sectorOf loc) (sectorOf loc + 32))
    ∧ (isDram line = true → s.present (homeOf line).val = true → s.MemOk → Completes (.uncorrectableError (.directory line)) s fun u => reads u (lineOf line) (lineOf line + 256))
    ∧ (s.ctx? d k = some c → c.die = d → c.slot = k → c.chunk = some q → q.spec = true → q.restart = false → q.weir = false → Completes (.uncorrectableError (.specLine d k)) s fun u =>
      u.ChunkIn c (fun _ b => b.restart = true ∧ b.wr = [] ∧ b.j = q.j) ∧ u.mem = s.mem)
    ∧ (s.ctx? d k = some c → c.die = d → c.slot = k → s.slotOfStrand c.strand = some c → c.stopLater = false → c.stopReq = none →
      ((s.count d 8 0 13 1).focus d k).markStop.CanEnd v → Completes (.uncorrectableError (.registers d k)) s fun u => u.ctx? d k = none ∧ u.rd c.header = v.rd c.header + 1)
    ∧ (Completes (.uncorrectableError (.tlb d n)) s fun u => kept u
      ∧ (n < (s.die d).tlb.length → (u.die d).tlb = (s.die d).tlb.eraseIdx n ∧ (u.die d).walks = (s.die d).walks)
      ∧ ((s.die d).tlb.length ≤ n → (u.die d).tlb = (s.die d).tlb ∧ (u.die d).walks = (s.die d).walks.eraseIdx (n - (s.die d).tlb.length)))

/-! ### Events: nodes and host requests -/

/-- R160, R375, R377, R383, R387, R388, R390, R423, R429 to R434, R436, R448, R465, R470: a ready node starts its launch and a batch of strands is handed on; a
request is answered in order, with the effect and the answer of its operation or with the status that refuses it.
When an event comes is the agenda's choice (log 1); the queues of nodes, the form of a response, which requests are refused with which status, and
what a debugger reads and writes are the model's reading (logs 61, 73 to 79), and so is what a halt leaves at 0x190 (log 91). -/
def Obligations.HostRequests : Prop :=
  ∀ (req : HostReq) (n h lo len : Nat) (d e : DieId) (key : Word) (data : List Byte) (i : Instr) (s : State) (cn : Conn) (c : Ctx) (q : ReadyNode) (l : Live) (r : Run)
    (w : Window) (x : Waiting) (sub : Subscription) (g : Group) (old m : Word) (ls : List (Nat × Nat)) (node : Nat),
    let ok := s.admits req = true
    let die := req.die
    let done := fun (i : Instr) (P : State → Prop) (a : Option Word) (bs : List Byte) => ok → Completes i s fun t => s.Answered t req hOK a bs ∧ P t
    let fails := fun (i : Instr) (st : Nat) => ok → Completes i s fun t => s.Answered t req st none [] ∧ t.mem = s.mem ∧ t.busy = s.busy
    let same := fun (t : State) => t.mem = s.mem ∧ t.busy = s.busy
    let pa := req.addr.toNat
    let inDie := fun n => s.rangeOk die pa n = true
    let ring := Fin.ofNat 9 req.arg0.toNat
    let served := [Instr.jobSubmit req, .jobCancel req, .jobRelease req, .memOpen req, .memClose req, .memRead req, .memWrite req, .ctlRdreg req, .ctlWrreg req,
      .ptpctlWrite req, .ctlTlbinv req, .ctlGfree req, .telRead req, .telSubscribe req, .dbgRead req, .dbgWrite req, .dbgHalt req, .dbgResume req, .dbgRddir req,
      .dbgRdbfmt req, .ageRead req, .ageRetire req, .reservedOpRequest req]
    let bare := s.mapDie (homeOf n) fun y => { y with nodes := y.nodes.filter fun o => o.node != n }
    let k := bare.splitOf n
    let graph : Run := ⟨homeOf h, rootOf req.arg1, 2, 0, 0, h, false, 0, req.addr⟩
    let listed := s.wr (h + 16) (withST (s.rd (h + 16)) 0)
    let begun := ({ listed with runs := listed.runs ++ [graph] } : State).runGraph graph
    let gone := ((s.die d).cancelled.filter fun y => serialOf y == l.serial.toNat && decide (l.next ≤ indexOf y)).length
    let range := tlbRange req.arg0 req.arg1
    let halting := (s.focus c.die c.slot).markStop.mapMe fun c => { c with stood := some (c.stood.getD c.ilk) }
    -- nodes and launches
    ((s.die (homeOf n)).nodes.find? (fun o => o.node == n) = some q → s.paOf (homeOf n) q.sroot (s.nodeLaunch n) = some h →
      (q.target = none → s.targetDie (homeOf n) (rootOf (s.rd (h + 48))) n = some e → s.queued e < 4096 → Completes (.nodeHandoff n) s fun t => same t ∧ t.net = s.net
        ∧ ∀ o ∈ (t.die (homeOf n)).nodes, o.node = n → o.target = some e)
      ∧ (q.target = some e → objST (s.rd (h + 16)) ≠ 1 → s.liveOf h = none → s.stageOk (homeOf n) (rootOf (s.rd (h + 48))) n = true → s.nodeCount n ≠ 0 →
        (h + 64 ≤ n ∨ n + 128 ≤ h) → s.MemOk → Completes (.nodeHandoff n) s fun t =>
        t.rd h = 0 ∧ t.rd (h + 8) = word (s.nodeCount n * 2 ^ k) ∧ objST (t.rd (h + 16)) = 1 ∧ nst (t.nodeState n) = 2 ∧ (∀ o ∈ (t.die (homeOf n)).nodes, o.node ≠ n)
        ∧ ∃ y ∈ (t.die e).lives, y.node = n ∧ y.header = h ∧ y.next = 0 ∧ y.count = s.nodeCount n * 2 ^ k ∧ y.serial.toNat = e.val * 2 ^ 28 + (s.die e).starts.toNat
          ∧ y.deadline = absDeadline (s.nodeDeadline n) s.tick))
    ∧ (s.liveOf h = some (d, l) → s.batchOf l = none → s.nextIndex l < l.count → s.accepts false d = false → s.offerTo true d l.cls l.place = some e →
      Completes (.batchOffer h e) s fun t => same t ∧ ∀ y ∈ (t.die d).lives, y.header = h →
        y.batch = some (e, s.nextIndex l + Min.min (Min.min 32 (s.freeSlots e).length) (l.count - s.nextIndex l)))
    ∧ (req.arg0 = 2 → s.hostObject req = .ok h → objST (s.rd (h + 16)) ≠ 1 → begun.2 = [.ready node (rootOf req.arg1) h] → nst (begun.1.nodeState node) = 0 →
      objST (begun.1.rd (h + 16)) ≠ 3 → begun.1.MemOk →
      (begun.1.setNst node 1 false).nodeOk (homeOf node) (rootOf req.arg1) node = true → done (.jobSubmit req) (fun t =>
        graph ∈ t.runs ∧ ⟨node, rootOf req.arg1, h, s.tick, none⟩ ∈ (t.die (homeOf node)).nodes ∧ nst (t.nodeState node) = 1) none [])
    ∧ (req.arg0 = 1 → s.hostObject req = .ok h → s.liveOf h = some (d, l) → objST (s.rd (h + 16)) = 1 → s.rd h + word (l.count - l.next - gone) ≠ s.rd (h + 8) → s.MemOk →
      done (.jobCancel req) (fun t => objST (t.rd (h + 16)) = 3 ∧ bits (t.rd (h + 16)) 48 8 = 1 ∧ t.rd h = s.rd h + word (l.count - l.next - gone)
        ∧ ∀ y ∈ (t.die d).lives, y.header = h → y.next = l.count) none [])
    ∧ (req.arg0 = 0 → s.liveOfStrand req.addr = none → (s.wasStrand req.addr = true → done (.jobCancel req) same none [])
      ∧ (s.wasStrand req.addr = false → fails (.jobCancel req) hBADADDR))
    ∧ (s.hostObject req = .ok h → s.runs.find? (fun r => r.gated && r.phase == h) = some r → (s.nextPhase r (s.rd r.job).toNat).2 = [] →
      (s.arrayPa r.die r.sroot (s.rd (r.job + 24)) (s.rd r.job).toNat).isSome = true → done (.jobRelease req) (fun t => r ∉ t.runs) (some 1) [])
    ∧ (s.hostObject req = .ok h → (∀ r ∈ s.runs, ¬ (r.gated = true ∧ r.phase = h)) → done (.jobRelease req) same (some 0) [])
    -- memory
    ∧ (req.arg1.toNat < 4 → inDie req.arg0.toNat → (s.die die).windows.length < 64 → done (.memOpen req) (fun t => same t ∧
      (t.die die).windows = ⟨Config.freeKey s.fresh, pa, req.arg0.toNat, bitAt req.arg1 0, bitAt req.arg1 1⟩ :: (s.die die).windows) (some (Config.freeKey s.fresh)) [])
    ∧ (((s.die die).windows.any fun w => w.key == req.arg0) = true → done (.memClose req) (fun t => same t ∧ ∀ w ∈ (t.die die).windows, w.key ≠ req.arg0) none [])
    ∧ (((s.die die).windows.any fun w => w.key == req.arg0) = false → fails (.memClose req) hBADADDR)
    ∧ (inDie req.plen → done (.memRead req) same none (s.hostRead pa req.plen))
    ∧ (req.payload.length = req.plen → inDie req.plen → req.plen ≠ 0 → isDevice pa = false → s.MemOk → done (.memWrite req) (fun t => StoredBytes s t pa req.payload) none [])
    ∧ (req.payload.length = 8 → req.plen = 8 → inDie 8 → isDevice pa = true → pa % 8 = 0 → devOff pa ≠ 0x138 → (s.die die).reg die (devOff pa) = some (old, m) → m ≠ 0 →
      done (.memWrite req) (fun t => same t ∧ (t.die die).reg die (devOff pa) = some ((word (ofBytes req.payload) &&& m) ||| (old &&& ~~~m), m)) none [])
    ∧ (s.conns.any (fun c => c.up && c.ep.die == d) = true → (s.die d).windows.find? (fun w => w.key == key) = some w →
      (w.read = true → w.base ≤ lo → lo + len ≤ w.base + w.len → Completes (.rdmaRead d key lo len) s fun t => same t ∧ t.wire = .rdmaData (s.hostRead lo len) :: s.wire)
      ∧ (¬ (w.read = true ∧ w.base ≤ lo ∧ lo + len ≤ w.base + w.len) → Completes (.rdmaRead d key lo len) s fun t => same t ∧ t.wire = .rdmaRefused :: s.wire)
      ∧ (w.write = true → w.base ≤ lo → lo + data.length ≤ w.base + w.len → data ≠ [] → isDevice lo = false → s.MemOk → Completes (.rdmaWrite d key lo data) s fun t =>
        StoredBytes s t lo data ∧ t.wire = .rdmaAck :: s.wire)
      ∧ (¬ (w.write = true ∧ w.base ≤ lo ∧ lo + data.length ≤ w.base + w.len) → Completes (.rdmaWrite d key lo data) s fun t => same t ∧ t.wire = .rdmaRefused :: s.wire))
    -- control
    ∧ ((s.die die).reg die pa = some (old, m) →
      done (.ctlRdreg req) same (some old) []
      ∧ (m ≠ 0 → pa ≠ 0x138 → done (.ctlWrreg req) (fun t => same t ∧ (t.die die).reg die pa = some ((req.arg0 &&& m) ||| (old &&& ~~~m), m)) none []))
    ∧ ((s.die die).reg die pa = none → fails (.ctlRdreg req) hBADADDR ∧ fails (.ctlWrreg req) hBADADDR)
    ∧ (die = 4 → pa = 0x138 → (s.ptpOn = false ∨ bits req.arg0 0 10 = bits (s.die 4).regs.ptpctl 0 10) → ∀ i ∈ [Instr.ptpctlWrite req, .ctlWrreg req], done i (fun t =>
      same t ∧ (t.die 4).regs.ptpctl = req.arg0 &&& 0x7FF ∧ (bitAt req.arg0 10 = false → t.counter 4 0 0 0 = 0)) none [])
    ∧ (die = 4 → s.ptpOn = true → bits req.arg0 0 10 ≠ bits (s.die 4).regs.ptpctl 0 10 → fails (.ptpctlWrite req) hBUSY)
    ∧ (req.arg0.toNat < 2 ^ 55 → req.arg2.toNat < 2 ^ 16 → done (.ctlTlbinv req) (fun t => same t ∧ ∀ f : DieId, ∀ y, y ∈ (t.die f).tlb ↔
      y ∈ (s.die f).tlb ∧ ¬ ((s.die f).present = true ∧ req.arg2.getLsbD f.val = true ∧ y.va < range.1 + range.2 ∧ range.1 < y.va + 2 ^ leafLog y.level)) none [])
    ∧ (req.arg0.toNat < 256 → s.group? die (BitVec.ofNat 8 req.arg0.toNat) = some g →
      (g.state = .ready ∨ g.state = .aborted → g.ops = [] → done (.ctlGfree req) (fun t => same t ∧ t.group? die g.handle = some (Group.free g.handle)) none [])
      ∧ (g.state = .ready ∨ g.state = .aborted → g.ops ≠ [] → fails (.ctlGfree req) hBUSY))
    ∧ (req.arg0 = 0x4652455A → ok → Completes (.ctlFreeze req) s fun t => t = { s with pins := { s.pins with frozen := true } })
    ∧ (req.arg0 ≠ 0x4652455A → fails (.ctlFreeze req) hBADMSG)
    -- telemetry
    ∧ (blockOk req.arg0 req.arg1.toNat (req.plen / 8) = true → done (.telRead req) same none (s.counters die req.arg0 req.arg1.toNat (req.plen / 8)))
    ∧ (req.arg0 = 0 → done (.telSubscribe req) (fun t => same t ∧ (t.die die).sub = none) none [])
    ∧ (req.arg0 ≠ 0 → bits req.arg2 32 32 = 0 → 1 ≤ bits req.arg2 16 16 → bits req.arg2 16 16 ≤ 504 → blockOk req.arg1 (bits req.arg2 0 16) (bits req.arg2 16 16) = true →
      done (.telSubscribe req) (fun t => same t ∧
        (t.die die).sub = some ⟨req.arg0.toNat * 1024, req.arg1, bits req.arg2 0 16, bits req.arg2 16 16, s.tick + req.arg0.toNat * 1024⟩) none [])
    ∧ ((s.die d).sub = some sub → sub.next ≤ s.tick → s.conns.find? (fun c => c.ep == ⟨d, .tel⟩ && c.up) = some cn → Completes (.telSample d) s fun t =>
      same t ∧ (t.die d).sub = some { sub with next := sub.next + sub.period }
      ∧ t.out = ⟨⟨d, .tel⟩, 0x80, true, d, 0, cn.aseq, 0, 0, 0, 0, 0, word s.tick, s.counters d sub.block sub.first sub.count⟩ :: s.out)
    -- debug
    ∧ (s.hostPieces die .r req.arg0 (pagePieces pa 3 req.plen) = .ok ls → done (.dbgRead req) same none (ls.map fun p => s.hostRead p.1 p.2).flatten)
    ∧ (req.payload.length = req.plen → s.dbgTarget (rootOf req.arg0) pa req.plen = none → fails (.dbgWrite req) hNOTHALTED)
    ∧ (req.payload.length = req.plen → req.plen ≠ 0 → s.dbgTarget (rootOf req.arg0) pa req.plen = some .area →
      s.hostPieces die .w req.arg0 (pagePieces pa 3 req.plen) = .ok [(lo, req.plen)] → isDevice lo = false → s.MemOk → done (.dbgWrite req) (fun t => StoredBytes s t lo req.payload) none [])
    ∧ (s.slotOfStrand req.arg0 = some c → s.ctx? c.die c.slot = some c → c.stopLater = false → c.stopReq = none → halting.CanLeave false id rsHALTED 6 (some (word (c.pc.toNat % 2 ^ 56), 0, 0)) →
      done (.dbgHalt req) (fun t => t.ctx? c.die c.slot = none ∧ ∃ y ∈ (t.die c.die).halted, y.strand = c.strand) none [])
    ∧ (s.slotOfStrand req.arg0 = none → (∀ p ∈ s.haltedAll, p.2.strand ≠ req.arg0) → fails (.dbgHalt req) hBADADDR)
    ∧ (s.haltedAll.find? (fun p => p.2.strand == req.arg0) = some (d, x) → done (.dbgResume req) (fun t =>
      (∀ y ∈ (t.die d).halted, y.strand ≠ req.arg0) ∧ { x with since := s.tick } ∈ (t.die d).ready) none [])
    ∧ ((∀ p ∈ s.haltedAll, p.2.strand ≠ req.arg0) → fails (.dbgResume req) hNOTHALTED)
    ∧ (isDram pa = true → inDie 1 → done (.dbgRddir req) same (some (word (DirEntry.bits (dirFind (s.die die).dir (lineOf pa))))) [])
    ∧ (req.arg0.toNat < 8 → req.arg1.toNat < 8 → done (.dbgRdbfmt req) same (some (word (Bfmt.bits (s.die die).bfmt[Fin.ofNat 64 (req.arg0.toNat * 8 + req.arg1.toNat)]))) [])
    -- ageing
    ∧ (req.arg0.toNat < 9 → (s.die die).rings[ring].margin = some n → done (.ageRead req) same none
      ([word n, word (s.die die).rings[ring].gb, word (bits (s.die die).regs.agectl 24 8), word (s.die die).rings[ring].st, word (2 ^ 20 - (s.die die).leaves)].map w64).flatten)
    ∧ (req.arg0.toNat < 8 → (s.die die).retiring = none → (s.die die).spareFor = none → (s.die die).rings[(8 : Fin 9)].st = 1 → (s.die die).rings[ring].st = 0 →
      (∀ c ∈ s.busy, c.die = die → ringOf c.slot ≠ req.arg0.toNat) → done (.ageRetire req) (fun t => same t ∧ (t.die die).spareFor = some req.arg0.toNat
        ∧ (t.die die).retiring = none ∧ (t.die die).rings[ring].st = 3 ∧ (t.die die).rings[(8 : Fin 9)].st = 0) none [])
    ∧ (fails (.reservedOpRequest req) hBADOP)
    -- every request
    ∧ (i ∈ served → s.conn? req.qp = some cn → cn.up = true →
      (req.seq = 0 ∨ cn.last.toNat + 1 < req.seq.toNat → Completes i s fun t => t.out = responseTo req s.tick (.of hSEQERR) :: s.out ∧ t.conns = s.conns ∧ same t)
      ∧ (∀ a ∈ cn.resp, cn.resp.find? (fun a => a.seq == req.seq) = some a → req.seq ≠ 0 → req.seq.toNat ≤ cn.last.toNat → Completes i s fun t => t = { s with out := a :: s.out })
      ∧ (req.seq.toNat = cn.last.toNat + 1 → goodHeader req = false → Completes i s fun t => s.Answered t req hBADMSG none [] ∧ same t)
      ∧ (req.seq.toNat = cn.last.toNat + 1 → goodHeader req = true → s.phase ≠ .running → beforeBoot req = false → Completes i s fun t => s.Answered t req hBUSY none [] ∧ same t)
      ∧ (req.seq.toNat = cn.last.toNat + 1 → goodHeader req = true → s.phase = .running → (s.die die).present = false → Completes i s fun t =>
        s.Answered t req hABSENT none [] ∧ same t))

/-! ### Events: the network, links, the pod and groups -/

/-- R215, R220, R224, R225, R425 to R428, R436, R439, R441, R443 to R450: connections open and end, addresses are answered and kept, links go down and
come up, a transaction without an answer ends with its loss once its timeout has passed, a pod request is served or refused, and a group forms, is refused
and aborts, a message of a GID reaching the entry that holds it.
When an event comes is the agenda's choice (log 1); what a message of another module brings, which registrations hear MISMATCH, how a group loses a member, which
messages wait and how long a packet has been in flight are the model's reading (logs 11, 41, 44, 46, 66, 80, 81). -/
def Obligations.NetworkAndGroupEvents : Prop :=
  ∀ (n id line modl z : Nat) (d e : DieId) (k : SlotNo) (h : BitVec 8) (gen : BitVec 32) (dir : Dir) (port other : Fin 8) (prt : Option (Fin 8)) (service addr x strand due : Word)
    (ip : BitVec 32) (ip6 : BitVec 128) (good load : Bool) (hint : BitVec 2) (ep : Endpoint) (op : HomeOp) (o : CollOp) (g : Group) (f : Forming) (reg r0 : GroupReg)
    (x0 : Option (DieId × BitVec 8)) (mem0 mem1 : Member) (pkt : CollPkt) (req : PodReq) (data : List Byte) (answer : Option Word) (st : Strip) (p : Place) (q : Pend) (c : Ctx) (s : State)
    (cn : Conn) (rest : List Packet) (ptp : PtpMsg) (gid : Gid) (zero : BitVec 8) (gm : GroupMsg) (v : Packet) (u : State),
    let same := fun (t : State) => t.mem = s.mem ∧ t.busy = s.busy ∧ t.dies = s.dies
    let sends := fun (m : PortMsg) (t : State) => t = { s with wire := m :: s.wire }
    let net4 := s.netUp = true
    let l := s.link d dir
    let ends := takeAt n s.net
    let here := s.ctx? e k = some c ∧ c.die = e ∧ c.slot = k
    let podDie := portDie req.port
    let root := (s.die podDie).regs.podroot
    let podOk := fun (kind : AccessKind) => s.portUsable req.port = true ∧ bitAt root 0 = true ∧ req.addr.toNat < 2 ^ 55 ∧ (req.size = 1 ∨ req.size = 2 ∨ req.size = 4 ∨ req.size = 8)
      ∧ req.addr.toNat % req.size = 0 ∧ s.translate podDie none kind true (bits root 16 32 * 65536) req.addr.toNat = .ok p ∧ p.dev = false
    let aborted := fun (t : State) (d : DieId) (h cause : BitVec 8) => ∃ g', t.group? d h = some g' ∧ g'.state = .aborted ∧ g'.cause = cause
    let ready := s.group? d h = some g ∧ g.state = .ready
    let formed := fun (t : State) (gen : BitVec 32) (gid : Gid) => (∃ g', t.group? d h = some g' ∧ g'.state = .ready ∧ g'.gen = gen ∧ g'.rank = f.rank ∧ g'.members = f.members ∧ g'.det = f.det
      ∧ g'.forming = none ∧ g'.gid = some gid ∧ g'.seqno = 0 ∧ g'.ops = []) ∧ (⟨f.strand, g.handle, gOK, gen⟩ : FormDone) ∈ (t.die d).formed
    let unformed := fun (t : State) => (⟨f.strand, g.handle, gMISMATCH, g.gen⟩ : FormDone) ∈ (t.die d).formed
    let mine : Gid := ⟨s.myMod d, d, h⟩
    let leaves := fun (t : State) (m : Member) => t.away = [] ∧ t.route m.modl.toNat = some other ∧ t.routeHeld m.modl.toNat (some other) = false
    let expired := fun (d : DieId) => s.fabricTicks d ≤ s.age n
    -- connections
    (endpointOf service = some ep → s.isOpen ep = true → ((s.conn? ep).any fun c => c.up) = false → Completes (.cmReq service) s fun t => same t
        ∧ t.conn? ep = some ⟨ep, false, 0, [], 1⟩ ∧ t.wire = .rep (qpn ep) (Config.freePsn s.fresh) :: s.wire)
    ∧ (endpointOf service = none → Completes (.cmReq service) s (sends .rej))
    ∧ (endpointOf service = some ep → s.isOpen ep = false ∨ ((s.conn? ep).any fun c => c.up) = true → Completes (.cmReq service) s (sends .rej))
    ∧ (s.conn? ep = some cn → cn.up = false → Completes (.cmRtu ep) s fun t => same t ∧ (∃ c', t.conn? ep = some c' ∧ c'.up = true) ∧ (∀ m ∈ t.asyncs, m.ep ≠ ep)
        ∧ t.out.length = s.out.length + (s.asyncs.filter fun m => m.ep == ep).length)
    ∧ (s.conn? ep = some cn → cn.up = true → Completes (.cmDreq ep) s fun t => same t ∧ t.conn? ep = none ∧ t.wire = .drep :: s.wire)
    ∧ (Completes (.connectionBroken ep) s fun t => t = { s with conns := t.conns } ∧ ∀ c, c ∈ t.conns ↔ c ∈ s.conns ∧ c.ep ≠ ep)
    ∧ (Completes (.ecnNotification ep) s fun t => t = s)
    -- addresses and time
    ∧ (net4 → s.ip4 = some ip → Completes (.arpRequest ip) s (sends (.arp ip Config.freeMac))) ∧ (s.ip4 ≠ some ip → Completes (.arpRequest ip) s fun t => t = s)
    ∧ (net4 → s.ip6 = some ip6 → Completes (.neighbourSolicitation ip6) s (sends (.neighbour ip6 Config.freeMac)))
    ∧ (net4 → v4Dhcp s.netRec = true → Completes .dhcpRenewal s (sends .dhcpRequest))
    ∧ (net4 → v4Dhcp s.netRec = true → s.ip4 = none → Completes (.dhcpMessage ip) s fun t => t = { s with ip4 := some ip })
    ∧ (net4 → v6Auto s.netRec = true → s.ip6 = none → Completes (.routerAdvertisement ip6) s fun t => t = { s with ip6 := some ip6 })
    ∧ (let ctl := (s.die 4).regs.ptpctl
      s.ptpOn = bitAt ctl 10 ∧ s.ptpPort = ⟨BitVec.ofNat 8 (bits ctl 0 8), bitAt ctl 8, bitAt ctl 9⟩)
    ∧ (s.ptpOn = true → Completes .ptpDelayRequest s (sends (.ptp s.ptpPort)))
    ∧ (s.ptpOn = true → ptp.port = s.ptpPort → Completes (.ptpMessage ptp) s fun t => t.uncounted = s.uncounted ∧ t.counter 4 0 0 0 = ptp.offset)
    ∧ (s.ptpOn = false ∨ ptp.port ≠ s.ptpPort → Completes (.ptpMessage ptp) s fun t => t = s)
    -- links
    ∧ (l.up = true → Completes (.flitReplay d dir good) s fun t => same t ∧ t.link d dir = { l with replays := if good then 0 else l.replays + 1 })
    ∧ (l.up = true → 16 ≤ l.replays → Completes (.linkDown d dir) s fun t => same t ∧ t.link d dir = { l with up := false })
    ∧ (l.up = false → l.passed = true → (s.die d).present = true → (s.die (neighbour d dir)).present = true → Completes (.linkUp d dir) s fun t =>
      same t ∧ t.link d dir = { l with up := true, replays := 0 })
    -- transactions without an answer
    ∧ (let us := bits (s.die d).regs.fabctl 0 20
      s.fabricTicks d = (if us = 0 then 50000 else Min.min us 1000000) * 1600)
    ∧ (ends = some (v, rest) → ({ s with net := rest } : State).timeoutOf v = some (d, u) → s.age n < s.fabricTicks d → exec (.fabricTimeout n) s = .next s)
    ∧ (ends = some (.read id e k line hint .load, rest) → expired e → here → c.sent = some id → Completes (.fabricTimeout n) s fun t => t.net = rest ∧ t.mem = s.mem
      ∧ ∃ o, t.ctx? e k = some o ∧ o.sent = none ∧ o.lines.head? = some ⟨line, List.replicate 256 none⟩)
    ∧ (ends = some (.request id e k strand line op, rest) → expired e → (∀ o z x, op ≠ .rred o z x) → here → c.sent = some id → Completes (.fabricTimeout n) s fun t => t.net = rest ∧ t.mem = s.mem
      ∧ ∃ a, t.ctx? e k = some { c with sent := none, answer := some a } ∧ ((∃ o z x, op = .amo o z x) → a = .value (BitVec.allOnes 64) 0 (some 0)) ∧ (op = .ldFe → a = .trap cFE_RETRY))
    ∧ (ends = some (.pending d q.id, rest) → expired d → (s.die d).pend.find? (fun o => o.id == q.id) = some q → here → q.writers = [.slot e k] → Completes (.fabricTimeout n) s fun t =>
      t.net = rest ∧ t.mem = s.mem ∧ (∀ o ∈ (t.die d).pend, o.id ≠ q.id)
      ∧ t.ctx? e k = some { c with perfPend := c.perfPend - 1, img := { c.img with flags := c.img.flags ||| flagDL } })
    ∧ (ends = some (.cack d (.slot e k), rest) → expired d → s.perfDue d (.slot e k) = false → here → Completes (.fabricTimeout n) s fun t =>
      t.net = rest.filterMap (Packet.forget d (.slot e k)) ∧ t.mem = s.mem
      ∧ t.ctx? e k = some { c with colPend := c.colPend.set d 0, img := { c.img with flags := c.img.flags ||| flagDL } })
    ∧ (ends = some (.strip st, rest) → expired st.die → Completes (.fabricTimeout n) s fun t => t.mem = s.mem ∧ ∃ st', t.net = rest ++ [.landing st'] ∧ st'.id = st.id ∧ 3 ≤ st'.status ∧ st'.bytes = st.bytes ∧ st'.barrier = st.barrier)
    ∧ (ends = some (.pod id e k strand true z modl addr x prt due, rest) → expired e → here → c.sent = some id → Completes (.fabricTimeout n) s fun t => t.net = rest ∧ t.mem = s.mem
      ∧ t.ctx? e k = some { c with sent := none, answer := some (.value (BitVec.allOnes 64) 0 (some 0)) })
    -- the pod
    ∧ (s.portUsable other = true → other ≠ port → s.away = [] → Completes (.ualinkPortDown port) s fun t => t = { s with ports := s.ports.set port false })
    ∧ ((∀ r, r ≠ port → s.portUsable r = false) → ready → g.ops = [] → (∀ e, (s.die e).groups = if e = d then [g] else []) → Completes (.ualinkPortDown port) s fun t =>
      t.ports = s.ports.set port false ∧ aborted t d h gLOST)
    ∧ (s.present (portDie port).val = true → s.away = [] → Completes (.ualinkPortUp port) s fun t => t = { s with ports := s.ports.set port true })
    ∧ (s.present (portDie port).val = true → s.away = [(mem0, gm)] → leaves { s with ports := s.ports.set port true, away := [] } mem0 → Completes (.ualinkPortUp port) s fun t =>
      t = { s with ports := s.ports.set port true, away := [], wire := .group other mem0 gm :: s.wire })
    ∧ (req.op = .read → podOk .r → p.Marked false → Completes (.podRequest req) s fun t => same t ∧ t.wire = .podData req.port ((s.bytesAt p.loc req.size).map unlost) :: s.wire)
    ∧ (req.op = .write data → data.length = req.size → podOk .w → p.Marked true → s.MemOk → Completes (.podRequest req) s fun t =>
      StoredBytes s t p.loc data ∧ t.wire = .podAck req.port :: s.wire)
    ∧ (s.portUsable req.port = true → bitAt root 0 = false → Completes (.podRequest req) s fun t => t.uncounted = { s.uncounted with wire := .podRefused req.port :: s.wire })
    ∧ (s.arrive n = some (.pod id e k strand load z modl addr x (some port) due, rest) → modl ≠ (s.myMod e).toNat →
      (∀ q ∈ s.net.take n, ∀ i e k st ld z m a y r w, q = .pod i e k st ld z m a y r w → ¬ (st = strand ∧ m = modl ∧ a = addr)) →
      (load = true → here → c.sent = some id → Completes (.podReply n answer) s fun t => t.net = rest ∧ t.mem = s.mem
        ∧ t.ctx? e k = some { c with sent := none, answer := some (match answer with | some v => .value v 0 none | none => .trap cACCESS) })
      ∧ (load = false → answer.isSome = true → s.away = [] → Completes (.podReply n answer) s fun t => t = { s with net := rest })
      ∧ (load = false → answer = none → s.slotOfStrand strand = some c → s.ctx? c.die c.slot = some c → Completes (.podReply n answer) s fun t => t.net = rest ∧ t.mem = s.mem
        ∧ t.ctx? c.die c.slot = some { c with img := { c.img with flags := c.img.flags ||| flagDL } }))
    -- groups
    ∧ (reg.die = d → reg.handle = h → reg.rank = 1 → reg.members = [mem0, mem1] → s.here d mem1 = false → (s.die d).refused.contains (h, 1) = true → leaves s mem1 →
      Completes (.groupRegistration reg) s fun t => t.wire = .group other mem1 (.mismatch mine) :: s.wire ∧ (t.die d).refused = (s.die d).refused.erase (h, 1) ∧ t.mem = s.mem)
    ∧ (s.group? d h = some g → reg.die = d → reg.handle = h → reg.rank = 1 → reg.members = [mem0, mem1] → s.here d mem1 = false → reg.reform = false →
      (s.die d).refused.contains (h, 1) = false →
      (g.forming = none → Completes (.groupRegistration reg) s fun t => t.group? d h = some { g with regs := (reg, none) :: g.regs.filter fun q => q.1.rank != 1 } ∧ t.mem = s.mem)
      ∧ (g.forming = some f → f.rank = 0 → f.members = reg.members → f.det = reg.det → f.reform = false → g.regs = [(r0, x0)] → r0.rank = 0 → r0.members = reg.members → r0.det = reg.det →
        r0.reform = false → leaves s mem1 → Completes (.groupRegistration reg) s fun t => formed t 1 mine ∧ .wake d f.strand g.handle.toNat ∈ t.net ∧ t.wire = .group other mem1 (.confirm mine 1) :: s.wire)
      ∧ (g.forming = some f → f.rank = 0 → (f.members ≠ reg.members ∨ f.det ≠ reg.det) → g.regs = [(r0, some (d, h))] → r0.rank = 0 → leaves s mem1 → Completes (.groupRegistration reg) s fun t =>
        unformed t ∧ .wake d f.strand g.handle.toNat ∈ t.net ∧ t.wire = .group other mem1 (.mismatch mine) :: s.wire ∧ t.mem = s.mem
        ∧ ∀ k, 1 < k → k < f.members.length → (h, k) ∈ (t.die d).refused))
    ∧ (s.group? d h = some g → g.forming = some f → f.members.head? = some mem0 → f.rank ≠ 0 → s.here d mem0 = false →
      (Completes (.groupConfirm d ⟨h, gen, zero⟩ true) s fun t => formed t gen ⟨mem0.modl, mem0.die, zero⟩ ∧ .wake d f.strand g.handle.toNat ∈ t.net ∧ t.mem = s.mem)
      ∧ Completes (.groupConfirm d ⟨h, gen, zero⟩ false) s fun t =>
        t.group? d h = (if g.prior = .free then none else some { g with state := g.prior, forming := none, regs := [] }) ∧ unformed t ∧ t.mem = s.mem)
    ∧ (s.entryOf d gid = some g → g ∈ (s.die d).groups ∧ (g.gid = some gid ∨ gid ∈ g.oldGids))
    ∧ (pkt.die = d → s.entryOf d pkt.gid = some g → s.group? d h = some g → g.members[pkt.rank]? = some mem0 → s.here d mem0 = false →
      (pkt.gen.toNat < g.gen.toNat → Completes (.collectivePacket pkt) s fun t => t.uncounted = s.uncounted)
      ∧ (pkt.gen = g.gen → g.gid = some pkt.gid → g.state = .ready → (∀ o ∈ g.ops, o.seqno ≠ pkt.seqno) → g.seqno ≤ pkt.seqno → Completes (.collectivePacket pkt) s fun t =>
        t.group? d h = some { g with early := g.early ++ [pkt] } ∧ t.mem = s.mem)
      ∧ (pkt.gen = g.gen → g.gid = some pkt.gid → g.state = .ready → g.ops = [o] → o.seqno = pkt.seqno → o.fields = pkt.fields → (∀ q ∈ o.parts, q.1 ≠ pkt.rank) →
        let o' := { o with parts := o.parts ++ [(pkt.rank, pkt.data)] }
        o'.whole (CollRec.ofFields o.fields) g.members.length = false → Completes (.collectivePacket pkt) s fun t => t.group? d h = some { g with ops := [o'] } ∧ t.mem = s.mem)
      ∧ (pkt.gen = g.gen → g.gid = some pkt.gid → g.state = .ready → g.ops = [o] → o.seqno = pkt.seqno → o.fields ≠ pkt.fields → Completes (.collectivePacket pkt) s fun t => aborted t d h gMISMATCH))
    ∧ (s.entryOf d gid = some g → s.group? d h = some g → (∀ p ∈ s.net, p.isAbort d gid gen = false) → s.abroad d g.members = true →
      (gen = g.gen → g.gid = some gid → g.state = .ready → Completes (.abort d gid gen) s fun t => aborted t d h gREMOTE)
      ∧ (gen.toNat < g.gen.toNat → Completes (.abort d gid gen) s fun t => t.uncounted = s.uncounted))
    ∧ (ready → g.ops = [o] → o.since + g.tmo ≤ s.tick → Completes (.groupTimeout d h) s fun t => aborted t d h gTIMEOUT
      ∧ (o.written = false → 0 < o.bytes → s.MemOk → 2 ≤ (Bar.ofWord (t.rd o.barrier)).status))
    ∧ (ready → s.memberGone d g = true → Completes (.memberLost d h) s fun t => aborted t d h gLOST)

/-! ### Events: boot, ageing, temperature and test access -/

/-- R453 to R459, R460 to R464, R470 to R472: a die verifies its images; a link authenticates; the dies reached from die 4 are included; module reset keeps DRAM
and the non-volatile counters; a sample raises the guard-band or retires a ring; heat stops dispatch and then every clock; the test access port reads.
When an event comes is the agenda's choice (log 1); which images a die verifies and when, what an exchange brings, which slots a scan reaches, the unit of a
temperature, the manifest of a module that is not degraded and the length of a signature are the model's reading (logs 68 to 72, 111, 112). -/
def Obligations.BootAndPowerEvents : Prop :=
  ∀ (d e : DieId) (dir : Dir) (rep : BootReport) (auth : LinkAuth) (ring : Fin 9) (n temp loc : Nat) (temps : List Nat) (k : SlotNo) (r : SReg) (x : Word) (acc : ScanAcc) (v : VReg) (z : VReg2048) (c : Ctx) (s : State) (q : OxReg),
    let l := s.link d dir
    let f := neighbour d dir
    let y := s.die d
    let ctl := y.regs.agectl
    let inc := s.included 16 [4]
    let boot := s.phase = .boot
    let same := fun (t : State) => t.mem = s.mem ∧ t.busy = s.busy ∧ t.net = s.net
    let margin := match y.rings[ring].margin with | some m => Min.min m n | none => n
    let frozen := { s with pins := { s.pins with frozen := true } }
    let deciding := s.tick ≤ (s.die 4).verifiedAt + 3200000000
    let flashDone := fun (x : Die) => x.verified = true ∨ x.reason ≠ 0
    let turn := boot ∧ ¬ flashDone y ∧ (d = 4 ∨ ((s.die 4).verified = true ∧ (∃ dir, flashDone (s.die (neighbour d dir))) ∧ deciding))
    let good := tableOk rep = true ∧ imagesOk d rep = true
    let whole := (∀ e, inc.contains e = true) ∧ ∀ k : Fin 32, s.links[k].passed = true
    let sampled := s.phase ≠ .boot ∧ y.present = true ∧ s.tick % (Max.max 1 (bits ctl 0 16) * 2 ^ 20) = 0
    (s.MemOk → Completes .moduleReset s fun t => (∀ a, memGet t.mem a = if isDram a then memGet s.mem a else 0) ∧ t.phase = .boot ∧ t.me = Ctx.reset 0 0 ∧ t.others = []
        ∧ t.net = [] ∧ t.conns = [] ∧ t.pins = ⟨false, false, false⟩ ∧ (∀ a, a ∈ t.lost ↔ a ∈ s.lost ∧ isDram a = true)
        ∧ ∀ e : DieId, (t.die e).present = false ∧ (t.die e).svnMin = (s.die e).svnMin ∧ (t.die e).leaves = (s.die e).leaves ∧ (t.die e).regs = DevRegs.reset
          ∧ ∀ q : Fin 9, (t.die e).rings[q].gb = (s.die e).rings[q].gb)
    ∧ (tableOk rep = true ↔ rep.sigOk = true ∧ rep.field 0 4 = 0x44584249 ∧ 1 ≤ rep.field 8 4 ∧ rep.field 8 4 ≤ 16 ∧ rep.table.length = 16 + 48 * rep.field 8 4 + 2672 ∧ rep.field 12 4 = 0
        ∧ (∀ k, k < rep.field 8 4 → let e := rep.entry k
          1 ≤ e.kind ∧ e.kind ≤ 3 ∧ e.rest = 0 ∧ e.offset % 4096 = 0 ∧ e.offset + e.len ≤ rep.flash)
        ∧ ∀ j k, j < k → k < rep.field 8 4 → ¬ ((rep.entry k).kind = (rep.entry j).kind ∧ (rep.entry k).cls = (rep.entry j).cls))
    ∧ (imagesOk d rep = true ↔ ∀ k, k < rep.field 8 4 → (rep.entry k).cls = 0 ∨ (rep.entry k).cls = (if Config.isM d.val then 1 else 2) →
        (rep.shas[k]?).map BitVec.toNat = some (rep.entry k).digest)
    ∧ (turn → good → y.svnMin ≤ rep.svn → Completes (.bootVerify d rep) s fun t => same t ∧ t.phase = .boot ∧ (t.die d).verified = true
        ∧ (t.die d).verifiedAt = s.tick ∧ (t.die d).digest = rep.tableSha ∧ (t.die d).svn = rep.svn ∧ (t.die d).leaves = y.leaves)
    ∧ (boot → d ≠ 4 → ¬ deciding → exec (.bootVerify d rep) s = .next s)
    ∧ (turn → ¬ good ∨ rep.svn < y.svnMin → Completes (.bootVerify d rep) s fun t => same t ∧ (t.die d).verified = false
        ∧ (d = 4 → t.phase = .bootFailed ∧ t.pins.bootfail = true) ∧ (d ≠ 4 → t.phase = .boot ∧ (good → (t.die d).reason = 2) ∧ (¬ good → (t.die d).reason = 1)))
    ∧ (y.canSign = true ↔ y.verified = true ∧ y.leaves < 1048576)
    ∧ (boot → l.heard = false → y.canSign = true → (s.die f).canSign = true → s.tick ≤ Max.max y.verifiedAt (s.die f).verifiedAt + 800000000 → deciding → Completes (.linkAuth d dir auth) s fun t => same t
        ∧ (t.die d).leaves = y.leaves + 1 ∧ (t.die f).leaves = (s.die f).leaves + 1 ∧ (t.link d dir).heard = true
        ∧ ((t.link d dir).passed = true ↔ auth.ours = true ∧ auth.theirs = true ∧ y.digest = (s.die f).digest) ∧ (t.link d dir).failed = !(t.link d dir).passed)
    ∧ (boot → y.verified = true → (s.die f).verified = true → Max.max y.verifiedAt (s.die f).verifiedAt + 800000000 < s.tick → exec (.linkAuth d dir auth) s = .next s)
    ∧ (boot → l.heard = false → y.verified = true → y.verifiedAt + 800000000 ≤ s.tick → ((s.die f).verified = true → (s.die f).verifiedAt + 800000000 ≤ s.tick) →
      Completes (.linkAuthTimeout d dir) s fun t => same t ∧ t.link d dir = { l with heard := true })
    ∧ (boot → (s.die 4).verified = true → (s.die 4).verifiedAt + 3200000000 ≤ s.tick → Completes .inclusionTimeout s fun t => same t ∧ t.phase = .running ∧ 4 ∈ inc
        ∧ (∀ e, (t.die e).present = inc.contains e ∧ bitAt ((t.die 4).regs.manifest[(0 : Fin 9)]) e.val = inc.contains e)
        ∧ (∀ e, e ∉ inc → (t.die e).reason = s.reasonOf e) ∧ (∀ e ∈ inc, (t.die e).reason = 0)
        ∧ (t.link d dir).up = ((s.link d dir).passed && inc.contains d && inc.contains f)
        ∧ (dir = .east → bitAt ((t.die 4).regs.manifest[(0 : Fin 9)]) (16 + 2 * d.val) = ((s.link d dir).passed && inc.contains d && inc.contains f))
        ∧ (bitAt ((t.die 4).regs.manifest[(2 : Fin 9)]) 0 = false ↔ whole)
        ∧ (whole → ∀ e, (t.die e).svnMin = Max.max (s.die e).svnMin (Min.min (s.die e).svn 64)) ∧ (¬ whole → ∀ e, (t.die e).svnMin = (s.die e).svnMin))
    ∧ (boot → n < bits (s.die d).regs.agectl 16 8 → Completes (.ageSample d 8 n) s fun t => same t ∧ (t.die d).rings[(8 : Fin 9)].st = 2)
    ∧ (sampled → bits ctl 16 8 ≤ margin → Completes (.ageSample d ring n) s fun t => same t ∧ (t.die d).rings[ring] = { y.rings[ring] with margin := some margin })
    ∧ (sampled → margin < bits ctl 16 8 → y.rings[ring].gb + 1 ≤ bits ctl 24 8 → Completes (.ageSample d ring n) s fun t => same t
        ∧ (t.die d).rings[ring] = { y.rings[ring] with margin := some margin, gb := y.rings[ring].gb + 1 })
    ∧ (sampled → margin < bits ctl 16 8 → bits ctl 24 8 ≤ y.rings[ring].gb → ring ≠ 8 → y.retiring = none → y.spareFor = none → y.rings[ring].st = 0 → y.rings[(8 : Fin 9)].st = 1 →
      (∀ c ∈ s.busy, c.die = d → ringOf c.slot ≠ ring.val) → Completes (.ageSample d ring n) s fun t => same t
        ∧ (t.die d).spareFor = some ring.val ∧ (t.die d).rings[ring].st = 3 ∧ (t.die d).rings[(8 : Fin 9)].st = 0)
    ∧ (1000 < temp → y.present = true → Completes (.thermalAlert d temp) s fun t => same t ∧ (t.die d).hot = true)
    ∧ (temps.length = 8 → (∀ t ∈ temps, t < 950) → Completes (.thermalClear d temps) s fun t => same t ∧ (t.die d).hot = false)
    ∧ (1150 ≤ temp → Completes (.thermtrip d temp) s fun t => t = { s with pins := { s.pins with frozen := true, thermtrip := true } })
    ∧ (Completes .freeze s fun t => t = frozen)
    ∧ (Completes .tapIdcode s fun t => t = { s with bypass := false, wire := .tapIds (List.replicate 16 0x19160A3B) :: s.wire })
    ∧ (Completes .tapBypass s fun t => t = { s with bypass := true, wire := .tapBits (List.replicate 16 false) :: s.wire })
    ∧ (s.pins.frozen = false → Completes (.scanAccess acc) s fun t => t = s)
    ∧ (s.pins.frozen = true →
      (Completes (.scanAccess (.memRead loc)) s fun t => t = { s with wire := .scan (some (memBytes s.mem loc 8)) :: s.wire })
      ∧ (isTile loc = true → s.MemOk → Completes (.scanAccess (.memWrite loc x)) s fun t => StoredBytes s t loc (w64 x) ∧ t.busy = s.busy)
      ∧ (isTile loc = false → Completes (.scanAccess (.memWrite loc x)) s fun t => t = { s with wire := .scan none :: s.wire })
      ∧ (s.ctx? e k = some c → c.die = e → c.slot = k →
        (Completes (.scanAccess (.sReg e k r)) s fun t => t = { s with wire := .scan (some (w64 (c.getS r))) :: s.wire })
        ∧ (Completes (.scanAccess (.sRegWrite e k r x)) s fun t => t.mem = s.mem ∧ ∃ o, t.ctx? e k = some o ∧ ∀ q, o.getS q = if q = r ∧ r ≠ 0 then x else c.getS q)
        ∧ (Completes (.scanAccess (.vRegWrite e k v z)) s fun t => t.mem = s.mem ∧ ∃ o, t.ctx? e k = some o ∧ o.img.v = c.img.v.set v z)
        ∧ (Completes (.scanAccess (.oxReg e k q)) s fun t => t = { s with wire := .scan (some (w64 c.ox[q].val)) :: s.wire })
        ∧ (Completes (.scanAccess (.pc e k)) s fun t => t = { s with wire := .scan (some (w64 c.pc)) :: s.wire })
        ∧ Completes (.scanAccess (.pcWrite e k x)) s fun t => t.ctx? e k = some { c with pc := x } ∧ t.mem = s.mem)
      ∧ (Completes (.scanAccess (.svnMin e)) s fun t => t = { s with wire := .scan (some (w64 (word (s.die e).svnMin))) :: s.wire }))

/-! ### Steps, encodings and invariants -/

/-- R86, R87, R88, R396: at an instruction boundary at which nothing else is due, a step runs the instruction that the bytes at the program counter encode, with
its word at hand, once A is set in the PTE that the fetch has used, and, for an instruction of the vector sequencer, once that has come to its slot: going round the
slots of the core, it adds a quantum to the counter of a ready slot at each turn and serves one whose counter is above 0. Then only the counter of the
slot is charged. Bytes that encode none run as a reserved encoding, a fetch that faults as its fault, and a translation that has changed is dropped.
A turn of the agenda runs its event (log 1). What the sequencer holds ready, what a fetch takes from its copies and what a late packet counts for are the model's
reading (logs 10, 62, 84). -/
def Obligations.StepRunsTheDecodedInstruction : Prop :=
  ∀ (s : State) (b b' : List Byte) (p p' : Place) (i : Instr) (n : Nat) (r : Reject) (code : BitVec 8) (addr : Word) (rest : List Turn) (u t : State)
    (ok : Bool) (e : TlbEntry) (ready : Fin 4 → Bool) (quantum : Fin 4 → Int) (v : Vector Int 4) (j k : Fin 4),
    let c := s.me
    let half := fun (va : Word) (p : Place) (b : List Byte) => s.fetchPlace c va.toNat = .ok p ∧ p.loc % 2 = 0 ∧ s.Near p.loc ∧ s.Sound p.loc 2 ∧ b = memBytes s.mem p.loc 2
      ∧ (∀ i ∈ (s.die c.die).icopies, i.of c.slot = true → i.line.line ≠ lineOf p.loc) ∧ ∀ e, p.pte = some e → s.pteStale e false = false
    let boundary := s.agenda = [] ∧ s.pins.frozen = false ∧ s.phase ≠ .bootFailed ∧ c.state = .running ∧ c.sent = none ∧ (∀ w, c.wait = some w → w.woken = true)
      ∧ c.stopReq = none ∧ (∀ r ∈ s.regions, r.strand = c.strand → r.todo = [])
      ∧ (c.answer.isSome = true ∨ c.part.isSome = true ∨ c.ending = true ∨ (c.stepDue = true → c.step = true → c.level = .system)
        ∧ (c.latem = true → c.latet = false → c.level = .system) ∧ s.watch c 1 c.pc.toNat 2 = false)
      ∧ ∀ k, c.chunk = some k → k.oldest = true ∧ k.restart = false ∧ k.held = none ∧ k.ended = false
    let at_ := fun (b : List Byte) => s.mapMe fun c => { c with iword := BitVec.ofNat 32 (ofBytes b) }
    let noted := fun (u : State) => if c.part.isSome ∨ c.wait.isSome ∨ c.answer.isSome ∨ c.stalled then u else u.noteFetch
    let counted := fun (c : Ctx) => { c with deficit := 0 }
    let onePage := s.fetchPlace c c.pc.toNat = .ok p ∧ (c.iword.toNat / 2 ^ 14 % 4 ≠ 3 ∨ (c.pc.toNat + 2) % 65536 ≠ 0)
    (boundary → s.fetch = .bytes b → (decode b = .ok (i, n) → step s = (noted (at_ b)).issued i) ∧ (decode b = .error r → step s = exec (.reservedEncoding (word (ofBytes b))) (at_ b)))
    ∧ (onePage → p.Marked false → ∃ m, s.noteFetch = s.mapMe fun c => { c with overdue := m })
    ∧ (onePage → p.pte = some e → pteA e.pte = false → c.chunk = none → s.MemOk → numAt s.noteFetch.mem e.pteLoc 8 = (word (numAt s.mem e.pteLoc 8) ||| 0x800).toNat)
    ∧ (s.grant i = (u, ok) → (ok = false → s.issued i = .next u)
      ∧ (ok = true → (exec i u = .next t → ∃ x g h, s.issued i = .next (t.mapMe fun c => { c with deficit := x, granted := g, stalled := h }))
        ∧ (∀ f, exec i u = .fault f → s.issued i = .fault f) ∧ ∀ f, exec i u = .refused f → s.issued i = .refused f))
    ∧ (sequenced c.iword i = false ∨ c.granted = true → s.grant i = (s, true)) ∧ (sequenced c.iword i = true → c.granted = false → s.grant i = s.serveCore)
    ∧ (s.serveCore = (u, ok) → counted u.me = counted c ∧ u.others.map counted = s.others.map counted ∧ u.mem = s.mem ∧ u.net = s.net
      ∧ (c.state ≠ .free → (s.die c.die).turns[c.coreIx] = c.seqIx → 0 < c.deficit → ok = true ∧ u.me = c))
    ∧ c.quantum = 64 * (c.prio.toNat + 1)
    ∧ ((∀ k, 64 ≤ quantum k) → ready j = true → -(2 : Int) ^ 31 ≤ v[j] → let r := serveSlots ready quantum serveFuel k v
      ready r.1 = true ∧ 0 < r.2[r.1])
    ∧ (boundary → s.fetch = .rewalk e → ∃ t, step s = .next t ∧ t.mem = s.mem ∧ t.busy = s.busy ∧ ∀ x, x ∈ (t.die c.die).tlb ↔ x ∈ (s.die c.die).tlb ∧ x.pteLoc ≠ e.pteLoc)
    ∧ (boundary → s.fetch = .fault code addr → step s = exec (.instructionFetchFault code addr) s)
    ∧ (c.chunk = none → half c.pc p b → isLong (ofBytes b) = false → s.fetch = .bytes b)
    ∧ (c.chunk = none → half c.pc p b → isLong (ofBytes b) = true → half (c.pc + 2) p' b' → s.fetch = .bytes (b ++ b'))
    ∧ (∀ f, s.fetchPlace c c.pc.toNat = .error f → s.fetch = .fault f c.pc)
    ∧ (s.agenda = .event i :: rest → i.isEvent = true → i.wf = true → s.pins.frozen = false →
      (exec i { s with agenda := rest } = .next t → ∃ m, ∃ x, step s = .next { t with fresh := m, ctr := x }) ∧ (∀ f, exec i { s with agenda := rest } = .fault f → step s = .fault f)
      ∧ ∀ f, exec i { s with agenda := rest } = .refused f → step s = .refused f)

/-- R86 to R100: decoding the encoding of any well-formed instruction gives it back, with every operand at every value that its fields admit. -/
def Obligations.DecodeOfEncodeIsTheInstruction : Prop :=
  ∀ (i : Instr) (len w : Nat) (rest : List Byte), i.WF → encode i = some (len, w) →
    (len = 2 ∨ len = 4) ∧ w < 2 ^ (8 * len) ∧ decode (bytesOf len w ++ rest) = .ok (i, len) ∧ (len = 4 ↔ isLong (w % 65536) = true)

/-- R86 to R92: words written out from the encoding tables decode to their instructions, and reserved ones to none. -/
def Obligations.WordsOfTheTablesDecode : Prop :=
  (∀ p ∈ [((0x2B45C428 : Nat), Instr.addi 5 5 837), (0x0004C62C, .lui 5 36), (0x000BFD10, .ctlr 2 0x00B), (0x0000FC04, .done), (0x2010D02B, .ldD 5 4 16),
        (0x2180D143, .stD 4 6 8), (0x2250D938, .amoAdd 7 4 9 .d), (0x2240DB01, .bpost 4 9), (0x52C0DC00, .qput 10 11), (0x1800E038, .setvl 7 3),
        (0x2981E122, .vldxOi 4 5 6 0), (0x0000F009, .mzero 1 .f32 0)],
      decode (bytesOf 4 p.1) = .ok (p.2, 4))
  ∧ decode (bytesOf 2 0x0015) = .ok (.cAdd 0 5, 2)
  ∧ decode (bytesOf 4 0x0001C018) = .error .reservedField ∧ decode (bytesOf 4 0xFFFFFFFF) = .error .allOnes ∧ decode (bytesOf 2 0) = .error .allZeros

/-- R3, R292, R295: the canonical form of memory (log 3) is kept by every step, from any state that has it. -/
def Obligations.EveryStepKeepsMemoryCanonical : Prop :=
  ∀ s t : State, s.MemOk → step s = .next t → t.MemOk

/-- R37, R42, R455, R470: after module reset boot has not begun: every slot is free, memory lists nothing and is canonical, no message is on its way, and the registers that
the specification gives a reset value hold it.
That memory lists nothing (log 3) and the reset values that the specification does not give (log 2) are the model's choices. -/
def Obligations.WhatResetLeaves : Prop :=
  let s := State.reset
  s.MemOk ∧ s.mem = [] ∧ s.busy = [] ∧ s.net = [] ∧ s.phase = .boot ∧ s.pins = ⟨false, false, false⟩ ∧ s.tick = 0
  ∧ (∀ d : DieId, (s.die d).present = false ∧ (s.die d).regs = DevRegs.reset ∧ (s.die d).tlb = [] ∧ (s.die d).replicas = [] ∧ (s.die d).pend = [])
  ∧ ∀ (d : DieId) (k : SlotNo), s.ctx? d k = none ∧
    let c := s.ctx d k
    (∀ r, c.getS r = 0) ∧ c.getM 0 = BitVec.allOnes 256 ∧ c.img.span = 0xB ∧ c.vl = 0 ∧ c.ridx = 0 ∧ c.img.flags = 0 ∧ c.rmode = 0 ∧ c.dmask = 0xFFFF
      ∧ c.ctl.forkctl = 0xF ∧ c.ctl.predctl = 1 ∧ c.ctl.detctl = 0 ∧ c.deadline = BitVec.allOnes 64 ∧ c.level = .strand ∧ c.chunkReg = 0x20

end Slice0
end

