-- ==== Sys2Proof/Laws/State.lean ====
section
/-! SUPPORT. One lemma per field per update of the state, so that no proof unfolds a record update. -/

namespace Sys2Proof.Machine

@[simp] theorem mapMe_me (s : State) (f : Ctx → Ctx) : (s.mapMe f).me = f s.me := rfl
@[simp] theorem mapMe_others (s : State) (f : Ctx → Ctx) : (s.mapMe f).others = s.others := rfl
@[simp] theorem mapMe_regions (s : State) (f : Ctx → Ctx) : (s.mapMe f).regions = s.regions := rfl
@[simp] theorem mapMe_mem (s : State) (f : Ctx → Ctx) : (s.mapMe f).mem = s.mem := rfl
@[simp] theorem mapMe_empties (s : State) (f : Ctx → Ctx) : (s.mapMe f).empties = s.empties := rfl
@[simp] theorem mapMe_lost (s : State) (f : Ctx → Ctx) : (s.mapMe f).lost = s.lost := rfl
@[simp] theorem mapMe_dies (s : State) (f : Ctx → Ctx) : (s.mapMe f).dies = s.dies := rfl
@[simp] theorem mapMe_links (s : State) (f : Ctx → Ctx) : (s.mapMe f).links = s.links := rfl
@[simp] theorem mapMe_ports (s : State) (f : Ctx → Ctx) : (s.mapMe f).ports = s.ports := rfl
@[simp] theorem mapMe_net (s : State) (f : Ctx → Ctx) : (s.mapMe f).net = s.net := rfl
@[simp] theorem mapMe_moves (s : State) (f : Ctx → Ctx) : (s.mapMe f).moves = s.moves := rfl
@[simp] theorem mapMe_runs (s : State) (f : Ctx → Ctx) : (s.mapMe f).runs = s.runs := rfl
@[simp] theorem mapMe_endedObjs (s : State) (f : Ctx → Ctx) : (s.mapMe f).endedObjs = s.endedObjs := rfl
@[simp] theorem mapMe_conns (s : State) (f : Ctx → Ctx) : (s.mapMe f).conns = s.conns := rfl
@[simp] theorem mapMe_asyncs (s : State) (f : Ctx → Ctx) : (s.mapMe f).asyncs = s.asyncs := rfl
@[simp] theorem mapMe_out (s : State) (f : Ctx → Ctx) : (s.mapMe f).out = s.out := rfl
@[simp] theorem mapMe_wire (s : State) (f : Ctx → Ctx) : (s.mapMe f).wire = s.wire := rfl
@[simp] theorem mapMe_away (s : State) (f : Ctx → Ctx) : (s.mapMe f).away = s.away := rfl
@[simp] theorem mapMe_stamps (s : State) (f : Ctx → Ctx) : (s.mapMe f).stamps = s.stamps := rfl
@[simp] theorem mapMe_ctr (s : State) (f : Ctx → Ctx) : (s.mapMe f).ctr = s.ctr := rfl
@[simp] theorem mapMe_netRec (s : State) (f : Ctx → Ctx) : (s.mapMe f).netRec = s.netRec := rfl
@[simp] theorem mapMe_ip4 (s : State) (f : Ctx → Ctx) : (s.mapMe f).ip4 = s.ip4 := rfl
@[simp] theorem mapMe_ip6 (s : State) (f : Ctx → Ctx) : (s.mapMe f).ip6 = s.ip6 := rfl
@[simp] theorem mapMe_tick (s : State) (f : Ctx → Ctx) : (s.mapMe f).tick = s.tick := rfl
@[simp] theorem mapMe_phase (s : State) (f : Ctx → Ctx) : (s.mapMe f).phase = s.phase := rfl
@[simp] theorem mapMe_pins (s : State) (f : Ctx → Ctx) : (s.mapMe f).pins = s.pins := rfl
@[simp] theorem mapMe_bypass (s : State) (f : Ctx → Ctx) : (s.mapMe f).bypass = s.bypass := rfl
@[simp] theorem mapMe_serial (s : State) (f : Ctx → Ctx) : (s.mapMe f).serial = s.serial := rfl
@[simp] theorem mapMe_fresh (s : State) (f : Ctx → Ctx) : (s.mapMe f).fresh = s.fresh := rfl
@[simp] theorem mapMe_agenda (s : State) (f : Ctx → Ctx) : (s.mapMe f).agenda = s.agenda := rfl

@[simp] theorem setS_me (s : State) (d : SReg) (x : Word) : (s.setS d x).me = s.me.setS d x := rfl
@[simp] theorem setS_others (s : State) (d : SReg) (x : Word) : (s.setS d x).others = s.others := rfl
@[simp] theorem setS_regions (s : State) (d : SReg) (x : Word) : (s.setS d x).regions = s.regions := rfl
@[simp] theorem setS_mem (s : State) (d : SReg) (x : Word) : (s.setS d x).mem = s.mem := rfl
@[simp] theorem setS_empties (s : State) (d : SReg) (x : Word) : (s.setS d x).empties = s.empties := rfl
@[simp] theorem setS_lost (s : State) (d : SReg) (x : Word) : (s.setS d x).lost = s.lost := rfl
@[simp] theorem setS_dies (s : State) (d : SReg) (x : Word) : (s.setS d x).dies = s.dies := rfl
@[simp] theorem setS_links (s : State) (d : SReg) (x : Word) : (s.setS d x).links = s.links := rfl
@[simp] theorem setS_ports (s : State) (d : SReg) (x : Word) : (s.setS d x).ports = s.ports := rfl
@[simp] theorem setS_net (s : State) (d : SReg) (x : Word) : (s.setS d x).net = s.net := rfl
@[simp] theorem setS_moves (s : State) (d : SReg) (x : Word) : (s.setS d x).moves = s.moves := rfl
@[simp] theorem setS_runs (s : State) (d : SReg) (x : Word) : (s.setS d x).runs = s.runs := rfl
@[simp] theorem setS_endedObjs (s : State) (d : SReg) (x : Word) : (s.setS d x).endedObjs = s.endedObjs := rfl
@[simp] theorem setS_conns (s : State) (d : SReg) (x : Word) : (s.setS d x).conns = s.conns := rfl
@[simp] theorem setS_asyncs (s : State) (d : SReg) (x : Word) : (s.setS d x).asyncs = s.asyncs := rfl
@[simp] theorem setS_out (s : State) (d : SReg) (x : Word) : (s.setS d x).out = s.out := rfl
@[simp] theorem setS_wire (s : State) (d : SReg) (x : Word) : (s.setS d x).wire = s.wire := rfl
@[simp] theorem setS_away (s : State) (d : SReg) (x : Word) : (s.setS d x).away = s.away := rfl
@[simp] theorem setS_stamps (s : State) (d : SReg) (x : Word) : (s.setS d x).stamps = s.stamps := rfl
@[simp] theorem setS_ctr (s : State) (d : SReg) (x : Word) : (s.setS d x).ctr = s.ctr := rfl
@[simp] theorem setS_netRec (s : State) (d : SReg) (x : Word) : (s.setS d x).netRec = s.netRec := rfl
@[simp] theorem setS_ip4 (s : State) (d : SReg) (x : Word) : (s.setS d x).ip4 = s.ip4 := rfl
@[simp] theorem setS_ip6 (s : State) (d : SReg) (x : Word) : (s.setS d x).ip6 = s.ip6 := rfl
@[simp] theorem setS_tick (s : State) (d : SReg) (x : Word) : (s.setS d x).tick = s.tick := rfl
@[simp] theorem setS_phase (s : State) (d : SReg) (x : Word) : (s.setS d x).phase = s.phase := rfl
@[simp] theorem setS_pins (s : State) (d : SReg) (x : Word) : (s.setS d x).pins = s.pins := rfl
@[simp] theorem setS_bypass (s : State) (d : SReg) (x : Word) : (s.setS d x).bypass = s.bypass := rfl
@[simp] theorem setS_serial (s : State) (d : SReg) (x : Word) : (s.setS d x).serial = s.serial := rfl
@[simp] theorem setS_fresh (s : State) (d : SReg) (x : Word) : (s.setS d x).fresh = s.fresh := rfl
@[simp] theorem setS_agenda (s : State) (d : SReg) (x : Word) : (s.setS d x).agenda = s.agenda := rfl

@[simp] theorem orFlags_me (s : State) (f : BitVec 6) : (s.orFlags f).me = s.me.orFlags f := rfl
@[simp] theorem orFlags_others (s : State) (f : BitVec 6) : (s.orFlags f).others = s.others := rfl
@[simp] theorem orFlags_regions (s : State) (f : BitVec 6) : (s.orFlags f).regions = s.regions := rfl
@[simp] theorem orFlags_mem (s : State) (f : BitVec 6) : (s.orFlags f).mem = s.mem := rfl
@[simp] theorem orFlags_empties (s : State) (f : BitVec 6) : (s.orFlags f).empties = s.empties := rfl
@[simp] theorem orFlags_lost (s : State) (f : BitVec 6) : (s.orFlags f).lost = s.lost := rfl
@[simp] theorem orFlags_dies (s : State) (f : BitVec 6) : (s.orFlags f).dies = s.dies := rfl
@[simp] theorem orFlags_links (s : State) (f : BitVec 6) : (s.orFlags f).links = s.links := rfl
@[simp] theorem orFlags_ports (s : State) (f : BitVec 6) : (s.orFlags f).ports = s.ports := rfl
@[simp] theorem orFlags_net (s : State) (f : BitVec 6) : (s.orFlags f).net = s.net := rfl
@[simp] theorem orFlags_moves (s : State) (f : BitVec 6) : (s.orFlags f).moves = s.moves := rfl
@[simp] theorem orFlags_runs (s : State) (f : BitVec 6) : (s.orFlags f).runs = s.runs := rfl
@[simp] theorem orFlags_endedObjs (s : State) (f : BitVec 6) : (s.orFlags f).endedObjs = s.endedObjs := rfl
@[simp] theorem orFlags_conns (s : State) (f : BitVec 6) : (s.orFlags f).conns = s.conns := rfl
@[simp] theorem orFlags_asyncs (s : State) (f : BitVec 6) : (s.orFlags f).asyncs = s.asyncs := rfl
@[simp] theorem orFlags_out (s : State) (f : BitVec 6) : (s.orFlags f).out = s.out := rfl
@[simp] theorem orFlags_wire (s : State) (f : BitVec 6) : (s.orFlags f).wire = s.wire := rfl
@[simp] theorem orFlags_away (s : State) (f : BitVec 6) : (s.orFlags f).away = s.away := rfl
@[simp] theorem orFlags_stamps (s : State) (f : BitVec 6) : (s.orFlags f).stamps = s.stamps := rfl
@[simp] theorem orFlags_ctr (s : State) (f : BitVec 6) : (s.orFlags f).ctr = s.ctr := rfl
@[simp] theorem orFlags_netRec (s : State) (f : BitVec 6) : (s.orFlags f).netRec = s.netRec := rfl
@[simp] theorem orFlags_ip4 (s : State) (f : BitVec 6) : (s.orFlags f).ip4 = s.ip4 := rfl
@[simp] theorem orFlags_ip6 (s : State) (f : BitVec 6) : (s.orFlags f).ip6 = s.ip6 := rfl
@[simp] theorem orFlags_tick (s : State) (f : BitVec 6) : (s.orFlags f).tick = s.tick := rfl
@[simp] theorem orFlags_phase (s : State) (f : BitVec 6) : (s.orFlags f).phase = s.phase := rfl
@[simp] theorem orFlags_pins (s : State) (f : BitVec 6) : (s.orFlags f).pins = s.pins := rfl
@[simp] theorem orFlags_bypass (s : State) (f : BitVec 6) : (s.orFlags f).bypass = s.bypass := rfl
@[simp] theorem orFlags_serial (s : State) (f : BitVec 6) : (s.orFlags f).serial = s.serial := rfl
@[simp] theorem orFlags_fresh (s : State) (f : BitVec 6) : (s.orFlags f).fresh = s.fresh := rfl
@[simp] theorem orFlags_agenda (s : State) (f : BitVec 6) : (s.orFlags f).agenda = s.agenda := rfl

@[simp] theorem mapDie_me (s : State) (d : DieId) (f : Die → Die) : (s.mapDie d f).me = s.me := rfl
@[simp] theorem mapDie_others (s : State) (d : DieId) (f : Die → Die) : (s.mapDie d f).others = s.others := rfl
@[simp] theorem mapDie_regions (s : State) (d : DieId) (f : Die → Die) : (s.mapDie d f).regions = s.regions := rfl
@[simp] theorem mapDie_mem (s : State) (d : DieId) (f : Die → Die) : (s.mapDie d f).mem = s.mem := rfl
@[simp] theorem mapDie_empties (s : State) (d : DieId) (f : Die → Die) : (s.mapDie d f).empties = s.empties := rfl
@[simp] theorem mapDie_lost (s : State) (d : DieId) (f : Die → Die) : (s.mapDie d f).lost = s.lost := rfl
@[simp] theorem mapDie_dies (s : State) (d : DieId) (f : Die → Die) : (s.mapDie d f).dies = s.dies.set d (f s.dies[d]) := rfl
@[simp] theorem mapDie_links (s : State) (d : DieId) (f : Die → Die) : (s.mapDie d f).links = s.links := rfl
@[simp] theorem mapDie_ports (s : State) (d : DieId) (f : Die → Die) : (s.mapDie d f).ports = s.ports := rfl
@[simp] theorem mapDie_net (s : State) (d : DieId) (f : Die → Die) : (s.mapDie d f).net = s.net := rfl
@[simp] theorem mapDie_moves (s : State) (d : DieId) (f : Die → Die) : (s.mapDie d f).moves = s.moves := rfl
@[simp] theorem mapDie_runs (s : State) (d : DieId) (f : Die → Die) : (s.mapDie d f).runs = s.runs := rfl
@[simp] theorem mapDie_endedObjs (s : State) (d : DieId) (f : Die → Die) : (s.mapDie d f).endedObjs = s.endedObjs := rfl
@[simp] theorem mapDie_conns (s : State) (d : DieId) (f : Die → Die) : (s.mapDie d f).conns = s.conns := rfl
@[simp] theorem mapDie_asyncs (s : State) (d : DieId) (f : Die → Die) : (s.mapDie d f).asyncs = s.asyncs := rfl
@[simp] theorem mapDie_out (s : State) (d : DieId) (f : Die → Die) : (s.mapDie d f).out = s.out := rfl
@[simp] theorem mapDie_wire (s : State) (d : DieId) (f : Die → Die) : (s.mapDie d f).wire = s.wire := rfl
@[simp] theorem mapDie_away (s : State) (d : DieId) (f : Die → Die) : (s.mapDie d f).away = s.away := rfl
@[simp] theorem mapDie_stamps (s : State) (d : DieId) (f : Die → Die) : (s.mapDie d f).stamps = s.stamps := rfl
@[simp] theorem mapDie_ctr (s : State) (d : DieId) (f : Die → Die) : (s.mapDie d f).ctr = s.ctr := rfl
@[simp] theorem mapDie_netRec (s : State) (d : DieId) (f : Die → Die) : (s.mapDie d f).netRec = s.netRec := rfl
@[simp] theorem mapDie_ip4 (s : State) (d : DieId) (f : Die → Die) : (s.mapDie d f).ip4 = s.ip4 := rfl
@[simp] theorem mapDie_ip6 (s : State) (d : DieId) (f : Die → Die) : (s.mapDie d f).ip6 = s.ip6 := rfl
@[simp] theorem mapDie_tick (s : State) (d : DieId) (f : Die → Die) : (s.mapDie d f).tick = s.tick := rfl
@[simp] theorem mapDie_phase (s : State) (d : DieId) (f : Die → Die) : (s.mapDie d f).phase = s.phase := rfl
@[simp] theorem mapDie_pins (s : State) (d : DieId) (f : Die → Die) : (s.mapDie d f).pins = s.pins := rfl
@[simp] theorem mapDie_bypass (s : State) (d : DieId) (f : Die → Die) : (s.mapDie d f).bypass = s.bypass := rfl
@[simp] theorem mapDie_serial (s : State) (d : DieId) (f : Die → Die) : (s.mapDie d f).serial = s.serial := rfl
@[simp] theorem mapDie_fresh (s : State) (d : DieId) (f : Die → Die) : (s.mapDie d f).fresh = s.fresh := rfl
@[simp] theorem mapDie_agenda (s : State) (d : DieId) (f : Die → Die) : (s.mapDie d f).agenda = s.agenda := rfl

@[simp] theorem mapRegion_me (s : State) (w : Word) (f : Region → Region) : (s.mapRegion w f).me = s.me := rfl
@[simp] theorem mapRegion_others (s : State) (w : Word) (f : Region → Region) : (s.mapRegion w f).others = s.others := rfl
@[simp] theorem mapRegion_regions (s : State) (w : Word) (f : Region → Region) : (s.mapRegion w f).regions = mapIf (fun r => r.strand == w) f s.regions := rfl
@[simp] theorem mapRegion_mem (s : State) (w : Word) (f : Region → Region) : (s.mapRegion w f).mem = s.mem := rfl
@[simp] theorem mapRegion_empties (s : State) (w : Word) (f : Region → Region) : (s.mapRegion w f).empties = s.empties := rfl
@[simp] theorem mapRegion_lost (s : State) (w : Word) (f : Region → Region) : (s.mapRegion w f).lost = s.lost := rfl
@[simp] theorem mapRegion_dies (s : State) (w : Word) (f : Region → Region) : (s.mapRegion w f).dies = s.dies := rfl
@[simp] theorem mapRegion_links (s : State) (w : Word) (f : Region → Region) : (s.mapRegion w f).links = s.links := rfl
@[simp] theorem mapRegion_ports (s : State) (w : Word) (f : Region → Region) : (s.mapRegion w f).ports = s.ports := rfl
@[simp] theorem mapRegion_net (s : State) (w : Word) (f : Region → Region) : (s.mapRegion w f).net = s.net := rfl
@[simp] theorem mapRegion_moves (s : State) (w : Word) (f : Region → Region) : (s.mapRegion w f).moves = s.moves := rfl
@[simp] theorem mapRegion_runs (s : State) (w : Word) (f : Region → Region) : (s.mapRegion w f).runs = s.runs := rfl
@[simp] theorem mapRegion_endedObjs (s : State) (w : Word) (f : Region → Region) : (s.mapRegion w f).endedObjs = s.endedObjs := rfl
@[simp] theorem mapRegion_conns (s : State) (w : Word) (f : Region → Region) : (s.mapRegion w f).conns = s.conns := rfl
@[simp] theorem mapRegion_asyncs (s : State) (w : Word) (f : Region → Region) : (s.mapRegion w f).asyncs = s.asyncs := rfl
@[simp] theorem mapRegion_out (s : State) (w : Word) (f : Region → Region) : (s.mapRegion w f).out = s.out := rfl
@[simp] theorem mapRegion_wire (s : State) (w : Word) (f : Region → Region) : (s.mapRegion w f).wire = s.wire := rfl
@[simp] theorem mapRegion_away (s : State) (w : Word) (f : Region → Region) : (s.mapRegion w f).away = s.away := rfl
@[simp] theorem mapRegion_stamps (s : State) (w : Word) (f : Region → Region) : (s.mapRegion w f).stamps = s.stamps := rfl
@[simp] theorem mapRegion_ctr (s : State) (w : Word) (f : Region → Region) : (s.mapRegion w f).ctr = s.ctr := rfl
@[simp] theorem mapRegion_netRec (s : State) (w : Word) (f : Region → Region) : (s.mapRegion w f).netRec = s.netRec := rfl
@[simp] theorem mapRegion_ip4 (s : State) (w : Word) (f : Region → Region) : (s.mapRegion w f).ip4 = s.ip4 := rfl
@[simp] theorem mapRegion_ip6 (s : State) (w : Word) (f : Region → Region) : (s.mapRegion w f).ip6 = s.ip6 := rfl
@[simp] theorem mapRegion_tick (s : State) (w : Word) (f : Region → Region) : (s.mapRegion w f).tick = s.tick := rfl
@[simp] theorem mapRegion_phase (s : State) (w : Word) (f : Region → Region) : (s.mapRegion w f).phase = s.phase := rfl
@[simp] theorem mapRegion_pins (s : State) (w : Word) (f : Region → Region) : (s.mapRegion w f).pins = s.pins := rfl
@[simp] theorem mapRegion_bypass (s : State) (w : Word) (f : Region → Region) : (s.mapRegion w f).bypass = s.bypass := rfl
@[simp] theorem mapRegion_serial (s : State) (w : Word) (f : Region → Region) : (s.mapRegion w f).serial = s.serial := rfl
@[simp] theorem mapRegion_fresh (s : State) (w : Word) (f : Region → Region) : (s.mapRegion w f).fresh = s.fresh := rfl
@[simp] theorem mapRegion_agenda (s : State) (w : Word) (f : Region → Region) : (s.mapRegion w f).agenda = s.agenda := rfl

@[simp] theorem send_me (s : State) (p : Packet) : (s.send p).me = s.me := rfl
@[simp] theorem send_others (s : State) (p : Packet) : (s.send p).others = s.others := rfl
@[simp] theorem send_regions (s : State) (p : Packet) : (s.send p).regions = s.regions := rfl
@[simp] theorem send_mem (s : State) (p : Packet) : (s.send p).mem = s.mem := rfl
@[simp] theorem send_empties (s : State) (p : Packet) : (s.send p).empties = s.empties := rfl
@[simp] theorem send_lost (s : State) (p : Packet) : (s.send p).lost = s.lost := rfl
@[simp] theorem send_dies (s : State) (p : Packet) : (s.send p).dies = s.dies := rfl
@[simp] theorem send_links (s : State) (p : Packet) : (s.send p).links = s.links := rfl
@[simp] theorem send_ports (s : State) (p : Packet) : (s.send p).ports = s.ports := rfl
@[simp] theorem send_net (s : State) (p : Packet) : (s.send p).net = s.net ++ [p] := rfl
@[simp] theorem send_moves (s : State) (p : Packet) : (s.send p).moves = s.moves := rfl
@[simp] theorem send_runs (s : State) (p : Packet) : (s.send p).runs = s.runs := rfl
@[simp] theorem send_endedObjs (s : State) (p : Packet) : (s.send p).endedObjs = s.endedObjs := rfl
@[simp] theorem send_conns (s : State) (p : Packet) : (s.send p).conns = s.conns := rfl
@[simp] theorem send_asyncs (s : State) (p : Packet) : (s.send p).asyncs = s.asyncs := rfl
@[simp] theorem send_out (s : State) (p : Packet) : (s.send p).out = s.out := rfl
@[simp] theorem send_wire (s : State) (p : Packet) : (s.send p).wire = s.wire := rfl
@[simp] theorem send_away (s : State) (p : Packet) : (s.send p).away = s.away := rfl
@[simp] theorem send_stamps (s : State) (p : Packet) : (s.send p).stamps = s.stamps := rfl
@[simp] theorem send_ctr (s : State) (p : Packet) : (s.send p).ctr = s.ctr := rfl
@[simp] theorem send_netRec (s : State) (p : Packet) : (s.send p).netRec = s.netRec := rfl
@[simp] theorem send_ip4 (s : State) (p : Packet) : (s.send p).ip4 = s.ip4 := rfl
@[simp] theorem send_ip6 (s : State) (p : Packet) : (s.send p).ip6 = s.ip6 := rfl
@[simp] theorem send_tick (s : State) (p : Packet) : (s.send p).tick = s.tick := rfl
@[simp] theorem send_phase (s : State) (p : Packet) : (s.send p).phase = s.phase := rfl
@[simp] theorem send_pins (s : State) (p : Packet) : (s.send p).pins = s.pins := rfl
@[simp] theorem send_bypass (s : State) (p : Packet) : (s.send p).bypass = s.bypass := rfl
@[simp] theorem send_serial (s : State) (p : Packet) : (s.send p).serial = s.serial := rfl
@[simp] theorem send_fresh (s : State) (p : Packet) : (s.send p).fresh = s.fresh := rfl
@[simp] theorem send_agenda (s : State) (p : Packet) : (s.send p).agenda = s.agenda := rfl

@[simp] theorem sendAll_me (s : State) (l : List Packet) : (s.sendAll l).me = s.me := rfl
@[simp] theorem sendAll_others (s : State) (l : List Packet) : (s.sendAll l).others = s.others := rfl
@[simp] theorem sendAll_regions (s : State) (l : List Packet) : (s.sendAll l).regions = s.regions := rfl
@[simp] theorem sendAll_mem (s : State) (l : List Packet) : (s.sendAll l).mem = s.mem := rfl
@[simp] theorem sendAll_empties (s : State) (l : List Packet) : (s.sendAll l).empties = s.empties := rfl
@[simp] theorem sendAll_lost (s : State) (l : List Packet) : (s.sendAll l).lost = s.lost := rfl
@[simp] theorem sendAll_dies (s : State) (l : List Packet) : (s.sendAll l).dies = s.dies := rfl
@[simp] theorem sendAll_links (s : State) (l : List Packet) : (s.sendAll l).links = s.links := rfl
@[simp] theorem sendAll_ports (s : State) (l : List Packet) : (s.sendAll l).ports = s.ports := rfl
@[simp] theorem sendAll_net (s : State) (l : List Packet) : (s.sendAll l).net = s.net ++ l := rfl
@[simp] theorem sendAll_moves (s : State) (l : List Packet) : (s.sendAll l).moves = s.moves := rfl
@[simp] theorem sendAll_runs (s : State) (l : List Packet) : (s.sendAll l).runs = s.runs := rfl
@[simp] theorem sendAll_endedObjs (s : State) (l : List Packet) : (s.sendAll l).endedObjs = s.endedObjs := rfl
@[simp] theorem sendAll_conns (s : State) (l : List Packet) : (s.sendAll l).conns = s.conns := rfl
@[simp] theorem sendAll_asyncs (s : State) (l : List Packet) : (s.sendAll l).asyncs = s.asyncs := rfl
@[simp] theorem sendAll_out (s : State) (l : List Packet) : (s.sendAll l).out = s.out := rfl
@[simp] theorem sendAll_wire (s : State) (l : List Packet) : (s.sendAll l).wire = s.wire := rfl
@[simp] theorem sendAll_away (s : State) (l : List Packet) : (s.sendAll l).away = s.away := rfl
@[simp] theorem sendAll_stamps (s : State) (l : List Packet) : (s.sendAll l).stamps = s.stamps := rfl
@[simp] theorem sendAll_ctr (s : State) (l : List Packet) : (s.sendAll l).ctr = s.ctr := rfl
@[simp] theorem sendAll_netRec (s : State) (l : List Packet) : (s.sendAll l).netRec = s.netRec := rfl
@[simp] theorem sendAll_ip4 (s : State) (l : List Packet) : (s.sendAll l).ip4 = s.ip4 := rfl
@[simp] theorem sendAll_ip6 (s : State) (l : List Packet) : (s.sendAll l).ip6 = s.ip6 := rfl
@[simp] theorem sendAll_tick (s : State) (l : List Packet) : (s.sendAll l).tick = s.tick := rfl
@[simp] theorem sendAll_phase (s : State) (l : List Packet) : (s.sendAll l).phase = s.phase := rfl
@[simp] theorem sendAll_pins (s : State) (l : List Packet) : (s.sendAll l).pins = s.pins := rfl
@[simp] theorem sendAll_bypass (s : State) (l : List Packet) : (s.sendAll l).bypass = s.bypass := rfl
@[simp] theorem sendAll_serial (s : State) (l : List Packet) : (s.sendAll l).serial = s.serial := rfl
@[simp] theorem sendAll_fresh (s : State) (l : List Packet) : (s.sendAll l).fresh = s.fresh := rfl
@[simp] theorem sendAll_agenda (s : State) (l : List Packet) : (s.sendAll l).agenda = s.agenda := rfl

@[simp] theorem setCounter_me (s : State) (die : DieId) (kind inst ix : Nat) (x : Word) : (s.setCounter die kind inst ix x).me = s.me := rfl
@[simp] theorem setCounter_others (s : State) (die : DieId) (kind inst ix : Nat) (x : Word) : (s.setCounter die kind inst ix x).others = s.others := rfl
@[simp] theorem setCounter_regions (s : State) (die : DieId) (kind inst ix : Nat) (x : Word) : (s.setCounter die kind inst ix x).regions = s.regions := rfl
@[simp] theorem setCounter_mem (s : State) (die : DieId) (kind inst ix : Nat) (x : Word) : (s.setCounter die kind inst ix x).mem = s.mem := rfl
@[simp] theorem setCounter_empties (s : State) (die : DieId) (kind inst ix : Nat) (x : Word) : (s.setCounter die kind inst ix x).empties = s.empties := rfl
@[simp] theorem setCounter_lost (s : State) (die : DieId) (kind inst ix : Nat) (x : Word) : (s.setCounter die kind inst ix x).lost = s.lost := rfl
@[simp] theorem setCounter_dies (s : State) (die : DieId) (kind inst ix : Nat) (x : Word) : (s.setCounter die kind inst ix x).dies = s.dies := rfl
@[simp] theorem setCounter_links (s : State) (die : DieId) (kind inst ix : Nat) (x : Word) : (s.setCounter die kind inst ix x).links = s.links := rfl
@[simp] theorem setCounter_ports (s : State) (die : DieId) (kind inst ix : Nat) (x : Word) : (s.setCounter die kind inst ix x).ports = s.ports := rfl
@[simp] theorem setCounter_net (s : State) (die : DieId) (kind inst ix : Nat) (x : Word) : (s.setCounter die kind inst ix x).net = s.net := rfl
@[simp] theorem setCounter_moves (s : State) (die : DieId) (kind inst ix : Nat) (x : Word) : (s.setCounter die kind inst ix x).moves = s.moves := rfl
@[simp] theorem setCounter_runs (s : State) (die : DieId) (kind inst ix : Nat) (x : Word) : (s.setCounter die kind inst ix x).runs = s.runs := rfl
@[simp] theorem setCounter_endedObjs (s : State) (die : DieId) (kind inst ix : Nat) (x : Word) : (s.setCounter die kind inst ix x).endedObjs = s.endedObjs := rfl
@[simp] theorem setCounter_conns (s : State) (die : DieId) (kind inst ix : Nat) (x : Word) : (s.setCounter die kind inst ix x).conns = s.conns := rfl
@[simp] theorem setCounter_asyncs (s : State) (die : DieId) (kind inst ix : Nat) (x : Word) : (s.setCounter die kind inst ix x).asyncs = s.asyncs := rfl
@[simp] theorem setCounter_out (s : State) (die : DieId) (kind inst ix : Nat) (x : Word) : (s.setCounter die kind inst ix x).out = s.out := rfl
@[simp] theorem setCounter_wire (s : State) (die : DieId) (kind inst ix : Nat) (x : Word) : (s.setCounter die kind inst ix x).wire = s.wire := rfl
@[simp] theorem setCounter_away (s : State) (die : DieId) (kind inst ix : Nat) (x : Word) : (s.setCounter die kind inst ix x).away = s.away := rfl
@[simp] theorem setCounter_stamps (s : State) (die : DieId) (kind inst ix : Nat) (x : Word) : (s.setCounter die kind inst ix x).stamps = s.stamps := rfl
@[simp] theorem setCounter_ctr (s : State) (die : DieId) (kind inst ix : Nat) (x : Word) : (s.setCounter die kind inst ix x).ctr = ctrSet (ctrKey die kind inst ix) x s.ctr := rfl
@[simp] theorem setCounter_netRec (s : State) (die : DieId) (kind inst ix : Nat) (x : Word) : (s.setCounter die kind inst ix x).netRec = s.netRec := rfl
@[simp] theorem setCounter_ip4 (s : State) (die : DieId) (kind inst ix : Nat) (x : Word) : (s.setCounter die kind inst ix x).ip4 = s.ip4 := rfl
@[simp] theorem setCounter_ip6 (s : State) (die : DieId) (kind inst ix : Nat) (x : Word) : (s.setCounter die kind inst ix x).ip6 = s.ip6 := rfl
@[simp] theorem setCounter_tick (s : State) (die : DieId) (kind inst ix : Nat) (x : Word) : (s.setCounter die kind inst ix x).tick = s.tick := rfl
@[simp] theorem setCounter_phase (s : State) (die : DieId) (kind inst ix : Nat) (x : Word) : (s.setCounter die kind inst ix x).phase = s.phase := rfl
@[simp] theorem setCounter_pins (s : State) (die : DieId) (kind inst ix : Nat) (x : Word) : (s.setCounter die kind inst ix x).pins = s.pins := rfl
@[simp] theorem setCounter_bypass (s : State) (die : DieId) (kind inst ix : Nat) (x : Word) : (s.setCounter die kind inst ix x).bypass = s.bypass := rfl
@[simp] theorem setCounter_serial (s : State) (die : DieId) (kind inst ix : Nat) (x : Word) : (s.setCounter die kind inst ix x).serial = s.serial := rfl
@[simp] theorem setCounter_fresh (s : State) (die : DieId) (kind inst ix : Nat) (x : Word) : (s.setCounter die kind inst ix x).fresh = s.fresh := rfl
@[simp] theorem setCounter_agenda (s : State) (die : DieId) (kind inst ix : Nat) (x : Word) : (s.setCounter die kind inst ix x).agenda = s.agenda := rfl

@[simp] theorem count_me (s : State) (die : DieId) (kind inst ix n : Nat) : (s.count die kind inst ix n).me = s.me := by unfold State.count; split <;> rfl
@[simp] theorem count_others (s : State) (die : DieId) (kind inst ix n : Nat) : (s.count die kind inst ix n).others = s.others := by unfold State.count; split <;> rfl
@[simp] theorem count_regions (s : State) (die : DieId) (kind inst ix n : Nat) : (s.count die kind inst ix n).regions = s.regions := by unfold State.count; split <;> rfl
@[simp] theorem count_mem (s : State) (die : DieId) (kind inst ix n : Nat) : (s.count die kind inst ix n).mem = s.mem := by unfold State.count; split <;> rfl
@[simp] theorem count_empties (s : State) (die : DieId) (kind inst ix n : Nat) : (s.count die kind inst ix n).empties = s.empties := by unfold State.count; split <;> rfl
@[simp] theorem count_lost (s : State) (die : DieId) (kind inst ix n : Nat) : (s.count die kind inst ix n).lost = s.lost := by unfold State.count; split <;> rfl
@[simp] theorem count_dies (s : State) (die : DieId) (kind inst ix n : Nat) : (s.count die kind inst ix n).dies = s.dies := by unfold State.count; split <;> rfl
@[simp] theorem count_links (s : State) (die : DieId) (kind inst ix n : Nat) : (s.count die kind inst ix n).links = s.links := by unfold State.count; split <;> rfl
@[simp] theorem count_ports (s : State) (die : DieId) (kind inst ix n : Nat) : (s.count die kind inst ix n).ports = s.ports := by unfold State.count; split <;> rfl
@[simp] theorem count_net (s : State) (die : DieId) (kind inst ix n : Nat) : (s.count die kind inst ix n).net = s.net := by unfold State.count; split <;> rfl
@[simp] theorem count_moves (s : State) (die : DieId) (kind inst ix n : Nat) : (s.count die kind inst ix n).moves = s.moves := by unfold State.count; split <;> rfl
@[simp] theorem count_runs (s : State) (die : DieId) (kind inst ix n : Nat) : (s.count die kind inst ix n).runs = s.runs := by unfold State.count; split <;> rfl
@[simp] theorem count_endedObjs (s : State) (die : DieId) (kind inst ix n : Nat) : (s.count die kind inst ix n).endedObjs = s.endedObjs := by unfold State.count; split <;> rfl
@[simp] theorem count_conns (s : State) (die : DieId) (kind inst ix n : Nat) : (s.count die kind inst ix n).conns = s.conns := by unfold State.count; split <;> rfl
@[simp] theorem count_asyncs (s : State) (die : DieId) (kind inst ix n : Nat) : (s.count die kind inst ix n).asyncs = s.asyncs := by unfold State.count; split <;> rfl
@[simp] theorem count_out (s : State) (die : DieId) (kind inst ix n : Nat) : (s.count die kind inst ix n).out = s.out := by unfold State.count; split <;> rfl
@[simp] theorem count_wire (s : State) (die : DieId) (kind inst ix n : Nat) : (s.count die kind inst ix n).wire = s.wire := by unfold State.count; split <;> rfl
@[simp] theorem count_away (s : State) (die : DieId) (kind inst ix n : Nat) : (s.count die kind inst ix n).away = s.away := by unfold State.count; split <;> rfl
@[simp] theorem count_stamps (s : State) (die : DieId) (kind inst ix n : Nat) : (s.count die kind inst ix n).stamps = s.stamps := by unfold State.count; split <;> rfl
@[simp] theorem count_netRec (s : State) (die : DieId) (kind inst ix n : Nat) : (s.count die kind inst ix n).netRec = s.netRec := by unfold State.count; split <;> rfl
@[simp] theorem count_ip4 (s : State) (die : DieId) (kind inst ix n : Nat) : (s.count die kind inst ix n).ip4 = s.ip4 := by unfold State.count; split <;> rfl
@[simp] theorem count_ip6 (s : State) (die : DieId) (kind inst ix n : Nat) : (s.count die kind inst ix n).ip6 = s.ip6 := by unfold State.count; split <;> rfl
@[simp] theorem count_tick (s : State) (die : DieId) (kind inst ix n : Nat) : (s.count die kind inst ix n).tick = s.tick := by unfold State.count; split <;> rfl
@[simp] theorem count_phase (s : State) (die : DieId) (kind inst ix n : Nat) : (s.count die kind inst ix n).phase = s.phase := by unfold State.count; split <;> rfl
@[simp] theorem count_pins (s : State) (die : DieId) (kind inst ix n : Nat) : (s.count die kind inst ix n).pins = s.pins := by unfold State.count; split <;> rfl
@[simp] theorem count_bypass (s : State) (die : DieId) (kind inst ix n : Nat) : (s.count die kind inst ix n).bypass = s.bypass := by unfold State.count; split <;> rfl
@[simp] theorem count_serial (s : State) (die : DieId) (kind inst ix n : Nat) : (s.count die kind inst ix n).serial = s.serial := by unfold State.count; split <;> rfl
@[simp] theorem count_fresh (s : State) (die : DieId) (kind inst ix n : Nat) : (s.count die kind inst ix n).fresh = s.fresh := by unfold State.count; split <;> rfl
@[simp] theorem count_agenda (s : State) (die : DieId) (kind inst ix n : Nat) : (s.count die kind inst ix n).agenda = s.agenda := by unfold State.count; split <;> rfl

@[simp] theorem take_fst (s : State) : s.take.1 = s.serial := rfl
@[simp] theorem take_snd_me (s : State) : s.take.2.me = s.me := rfl
@[simp] theorem take_snd_mem (s : State) : s.take.2.mem = s.mem := rfl

end Sys2Proof.Machine
end

