-- ==== Sys2Proof/Laws/Flow.lean ====
section
/-! SUPPORT. What moving the program counter and writing a scalar register do, said once. -/

namespace Sys2Proof.Machine

/-- Two slots that differ only in what moving past an instruction may change. -/
theorem Keeps.of_still {s t : State} {e : Ctx → Ctx} (ho : t.outside = s.outside) (hs : e t.me.still = e s.me.still) :
    Keeps s t e :=
  ⟨ho, hs, fun a => congrArg (fun m => memGet m a) (show t.outside.mem = s.outside.mem by rw [ho])⟩

theorem keeps_mapMe (s : State) (f : Ctx → Ctx) (e : Ctx → Ctx) (h : e (f s.me).still = e s.me.still) :
    Keeps s (s.mapMe f) e := .of_still rfl h

theorem transfer_eq (s : State) (pc : Word) (depth : BitVec 16) :
    ∃ k, s.transfer pc depth = { s with me := { s.me with pc, chunk := k } } ∧ k.map Chunk.core = s.me.chunk.map Chunk.core := by
  unfold State.transfer State.mapMe
  cases hc : s.me.chunk with
  | none => exact ⟨none, by simp only [hc], rfl⟩
  | some k =>
    cases hr : s.me.regionOf s with
    | none => exact ⟨some k, by simp only [hc, hr], rfl⟩
    | some r =>
      simp only [hc, hr]
      split
      · exact ⟨_, rfl, rfl⟩
      · exact ⟨_, rfl, rfl⟩

theorem transfer_keeps (s : State) (pc : Word) (depth : BitVec 16) (e : Ctx → Ctx) :
    (s.transfer pc depth).me.pc = pc ∧ Keeps s (s.transfer pc depth) e := by
  obtain ⟨k, h, hk⟩ := transfer_eq s pc depth
  rw [h]
  exact ⟨rfl, .of_still rfl (by simp only [Ctx.still, hk])⟩

theorem transfer_getS (s : State) (pc : Word) (depth : BitVec 16) (r : SReg) : (s.transfer pc depth).getS r = s.getS r := by
  obtain ⟨k, h, -⟩ := transfer_eq s pc depth
  rw [h]; rfl

theorem Keeps.trans {s t u : State} {e : Ctx → Ctx} (h : Keeps s t e) (g : Keeps t u e) : Keeps s u e :=
  ⟨g.outside.trans h.outside, g.slot.trans h.slot, fun a => (g.memory a).trans (h.memory a)⟩

theorem Keeps.refl (s : State) (e : Ctx → Ctx) : Keeps s s e := ⟨rfl, rfl, fun _ => rfl⟩

/-- Going on to the next word. -/
theorem advance_keeps (s : State) (n : Nat) (e : Ctx → Ctx) : Passed s (s.advance n) n ∧ Keeps s (s.advance n) e := by
  unfold State.advance State.goto
  exact ⟨(transfer_keeps _ _ _ e).1, Keeps.trans (keeps_mapMe _ _ _ rfl) (transfer_keeps _ _ _ e).2⟩

theorem advance_getS (s : State) (n : Nat) (r : SReg) : (s.advance n).getS r = s.getS r := transfer_getS _ _ _ _

/-- Jumping. -/
theorem jump_keeps (s : State) (pc : Word) (depth : BitVec 16) (e : Ctx → Ctx) :
    (s.jump pc depth).me.pc = pc ∧ Keeps s (s.jump pc depth) e := by
  unfold State.jump
  exact ⟨(transfer_keeps _ _ _ e).1, Keeps.trans (keeps_mapMe _ _ _ rfl) (transfer_keeps _ _ _ e).2⟩

theorem jump_getS (s : State) (pc : Word) (depth : BitVec 16) (r : SReg) : (s.jump pc depth).getS r = s.getS r :=
  transfer_getS _ _ _ _

/-- Calling and returning (R142). -/
theorem callTo_keeps (s : State) (link isReg : Bool) (pc : Word) (e : Ctx → Ctx) :
    (s.callTo link isReg pc).me.pc = pc ∧ Keeps s (s.callTo link isReg pc) e
      ∧ ∀ r, (s.callTo link isReg pc).getS r = s.getS r := by
  unfold State.callTo
  simp only []
  split
  · exact ⟨(jump_keeps _ _ _ e).1, (jump_keeps _ _ _ e).2, jump_getS _ _ _⟩
  split
  · split
    · refine ⟨(jump_keeps _ _ _ e).1, Keeps.trans (jump_keeps _ _ _ e).2 (keeps_mapMe _ _ _ ?_), jump_getS _ _ _⟩
      simp only [Ctx.still, Option.map_map]; rfl
    · exact ⟨(jump_keeps _ _ _ e).1, (jump_keeps _ _ _ e).2, jump_getS _ _ _⟩
  · split
    · exact ⟨(jump_keeps _ _ _ e).1, (jump_keeps _ _ _ e).2, jump_getS _ _ _⟩
    · exact ⟨(jump_keeps _ _ _ e).1, (jump_keeps _ _ _ e).2, jump_getS _ _ _⟩

/-- Writing a scalar register. -/
theorem setS_wrote (s : State) (d : SReg) (x : Word) : WroteS s (s.setS d x) d x := by
  intro r
  unfold State.setS State.getS Ctx.setS Ctx.getS
  by_cases hd : d = 0
  · simp [hd]
  · by_cases hr : r = 0
    · subst hr; simp [hd, Ne.symm hd]
    · by_cases h : r = d
      · subst h; simp [hr]
      · simp [hd, hr, h, Vector.getElem_set, Fin.val_inj, Ne.symm h]

theorem setS_keeps (s : State) (d : SReg) (x : Word) : Keeps s (s.setS d x) Ctx.noS := by
  refine .of_still rfl ?_
  unfold State.setS Ctx.setS
  split
  · rfl
  · cases h : s.me.chunk <;> simp [Ctx.still, Ctx.noS, Chunk.core, h]

theorem setS_pc (s : State) (d : SReg) (x : Word) : (s.setS d x).me.pc = s.me.pc := by
  simp only [setS_me, Ctx.setS]; split <;> rfl

/-- A result in a scalar register, `n` bytes on. -/
theorem setS_advance (s : State) (d : SReg) (x : Word) (n : Nat) : ScalarResult s ((s.setS d x).advance n) d x n := by
  obtain ⟨hp, hk⟩ := advance_keeps (s.setS d x) n Ctx.noS
  refine ⟨fun r => by rw [advance_getS]; exact setS_wrote s d x r, ?_, (setS_keeps s d x).trans hk⟩
  unfold Passed at hp ⊢
  rw [hp, setS_pc]

theorem result_effect (s : State) (d : SReg) (x : Word) : ScalarResult s (s.result d x) d x 4 := setS_advance s d x 4

/-- A branch. -/
theorem branch_effect (s : State) (taken : Bool) (off : Word) (n : Nat) :
    ∃ t, s.branch taken off n = .next t ∧ t.me.pc = s.me.pc + (if taken then off <<< (1 : Nat) else word n) ∧ Keeps s t id := by
  unfold State.branch
  cases taken
  · exact ⟨_, rfl, (advance_keeps s n id).1, (advance_keeps s n id).2⟩
  · exact ⟨_, rfl, (jump_keeps _ _ _ id).1, (jump_keeps _ _ _ id).2⟩

end Sys2Proof.Machine
end

