-- ==== Sys2Proof/Laws/Memory.lean ====
section
/-! SUPPORT. Memory as cells: what a write reads back as, and that every write keeps the canonical form (log 3). -/

namespace Sys2Proof.Machine

theorem cellsFrom_mono {lo lo' : Nat} {m : List Host.Cell} (h : cellsFrom lo m = true) (hl : lo' ≤ lo) : cellsFrom lo' m = true := by
  cases m with
  | nil => rfl
  | cons c m =>
    obtain ⟨k, v⟩ := c
    simp only [cellsFrom, Bool.and_eq_true, decide_eq_true_eq] at h ⊢
    exact ⟨hl.trans h.1, h.2⟩

/-- Nothing is listed below the bound of a canonical list. -/
theorem cellGet_below {lo : Nat} {m : List Host.Cell} (h : cellsFrom lo m = true) {a : Nat} (ha : a < lo) : cellGet m a = none := by
  cases m with
  | nil => rfl
  | cons c m =>
    obtain ⟨k, v⟩ := c
    simp only [cellsFrom, Bool.and_eq_true, decide_eq_true_eq] at h
    unfold cellGet
    rw [if_neg (by omega), if_pos (by omega)]

theorem cellPut_from {lo a : Nat} (b : Byte) {m : List Host.Cell} (h : cellsFrom lo m = true) (ha : lo ≤ a) :
    cellsFrom lo (cellPut a b m) = true := by
  induction m generalizing lo with
  | nil => simp [cellPut, cellsFrom, ha]
  | cons c m ih =>
    obtain ⟨k, v⟩ := c
    simp only [cellsFrom, Bool.and_eq_true, decide_eq_true_eq] at h
    unfold cellPut
    split
    · simp_all [cellsFrom]
    · split
      · simp only [cellsFrom, Bool.and_eq_true, decide_eq_true_eq]
        exact ⟨ha, by omega, h.2⟩
      · simp only [cellsFrom, Bool.and_eq_true, decide_eq_true_eq]
        exact ⟨h.1, ih h.2 (by omega)⟩

theorem cellDel_from {lo : Nat} (a : Nat) {m : List Host.Cell} (h : cellsFrom lo m = true) : cellsFrom lo (cellDel a m) = true := by
  induction m generalizing lo with
  | nil => rfl
  | cons c m ih =>
    obtain ⟨k, v⟩ := c
    simp only [cellsFrom, Bool.and_eq_true, decide_eq_true_eq] at h
    unfold cellDel
    split
    · exact cellsFrom_mono h.2 (by omega)
    · split
      · simp [cellsFrom, h]
      · simp [cellsFrom, h.1, ih h.2]

/-- A cell put is read back, and no other changes; the list need not be canonical. -/
theorem cellGet_put (a x : Nat) (b : Byte) (m : List Host.Cell) (h : cellsFrom 0 m = true) :
    cellGet (cellPut a b m) x = if x = a then some b else cellGet m x := by
  suffices ∀ lo, cellsFrom lo m = true → cellGet (cellPut a b m) x = if x = a then some b else cellGet m x from this 0 h
  clear h
  intro lo h
  induction m generalizing lo with
  | nil => simp only [cellPut, cellGet]; split <;> simp
  | cons c m ih =>
    obtain ⟨k, v⟩ := c
    simp only [cellsFrom, Bool.and_eq_true, decide_eq_true_eq] at h
    unfold cellPut
    by_cases hk : a = k
    · subst hk
      simp only [if_true, cellGet]
      by_cases hx : x = a <;> simp [hx]
    · rw [if_neg hk]
      by_cases hlt : a < k
      · rw [if_pos hlt]
        simp only [cellGet]
        by_cases hx : x = a
        · simp [hx]
        · rw [if_neg hx, if_neg hx]
          by_cases hxa : x < a
          · rw [if_pos hxa, if_neg (by omega), if_pos (by omega)]
          · rw [if_neg hxa]
      · rw [if_neg hlt]
        simp only [cellGet]
        by_cases hx : x = k
        · rw [if_pos hx, if_neg (by omega)]; simp [hx]
        · rw [if_neg hx]
          by_cases hxk : x < k
          · rw [if_pos hxk, if_neg (by omega)]; simp [hx, hxk]
          · rw [if_neg hxk, ih _ h.2]; simp [hx, hxk]

theorem cellGet_del (a x : Nat) (m : List Host.Cell) (h : cellsFrom 0 m = true) :
    cellGet (cellDel a m) x = if x = a then none else cellGet m x := by
  suffices ∀ lo, cellsFrom lo m = true → cellGet (cellDel a m) x = if x = a then none else cellGet m x from this 0 h
  clear h
  intro lo h
  induction m generalizing lo with
  | nil => simp [cellDel, cellGet]
  | cons c m ih =>
    obtain ⟨k, v⟩ := c
    simp only [cellsFrom, Bool.and_eq_true, decide_eq_true_eq] at h
    unfold cellDel
    by_cases hk : a = k
    · subst hk
      rw [if_pos rfl]
      by_cases hx : x = a
      · rw [if_pos hx, hx]; exact cellGet_below h.2 (by omega)
      · rw [if_neg hx]
        simp only [cellGet, hx, if_false]
        split
        · exact cellGet_below h.2 (by omega)
        · rfl
    · rw [if_neg hk]
      by_cases hlt : a < k
      · rw [if_pos hlt]
        by_cases hx : x = a
        · rw [if_pos hx]; simp only [cellGet]; rw [if_neg (by omega), if_pos (by omega)]
        · rw [if_neg hx]
      · rw [if_neg hlt]
        simp only [cellGet]
        by_cases hx : x = k
        · rw [if_pos hx, if_neg (by omega)]; simp [hx]
        · rw [if_neg hx]
          by_cases hxk : x < k
          · rw [if_pos hxk, if_neg (by omega)]; simp [hx, hxk]
          · rw [if_neg hxk, ih _ h.2]; simp [hx, hxk]

theorem memWf_from {m : List Host.Cell} (h : Memory.wf m = true) : cellsFrom 0 m = true := by
  unfold Memory.wf at h; exact (Bool.and_eq_true _ _ ▸ h).1

theorem cellPut_all {a : Nat} {b : Byte} {m : List Host.Cell} (hb : b ≠ unlisted) (h : m.all (fun c => c.2 != unlisted) = true) :
    (cellPut a b m).all (fun c => c.2 != unlisted) = true := by
  induction m with
  | nil => simpa [cellPut] using hb
  | cons c m ih =>
    obtain ⟨k, v⟩ := c
    simp only [List.all_cons, Bool.and_eq_true, bne_iff_ne, ne_eq] at h
    unfold cellPut
    split
    · simp [hb, h.2]
    · split
      · simp [hb, h.1, h.2]
      · simp [h.1, ih h.2]

theorem cellDel_all {a : Nat} {m : List Host.Cell} (h : m.all (fun c => c.2 != unlisted) = true) :
    (cellDel a m).all (fun c => c.2 != unlisted) = true := by
  induction m with
  | nil => rfl
  | cons c m ih =>
    obtain ⟨k, v⟩ := c
    simp only [List.all_cons, Bool.and_eq_true, bne_iff_ne, ne_eq] at h
    unfold cellDel
    split
    · exact h.2
    · split
      · simp [h.1, h.2]
      · simp [h.1, ih h.2]

/-- Writing a byte keeps the canonical form. -/
theorem memPut_wf {m : List Host.Cell} (a : Nat) (b : Byte) (h : Memory.wf m = true) : Memory.wf (memPut m a b) = true := by
  have hf := memWf_from h
  have ha : m.all (fun c => c.2 != unlisted) = true := by unfold Memory.wf at h; exact (Bool.and_eq_true _ _ ▸ h).2
  unfold memPut
  split
  · exact Bool.and_eq_true _ _ ▸ ⟨cellDel_from a hf, cellDel_all ha⟩
  · exact Bool.and_eq_true _ _ ▸ ⟨cellPut_from b hf (Nat.zero_le a), cellPut_all ‹_› ha⟩

/-- A byte written is read back, and every other byte reads as before. -/
theorem memGet_memPut {m : List Host.Cell} (a x : Nat) (b : Byte) (h : Memory.wf m = true) :
    memGet (memPut m a b) x = if x = a then b else memGet m x := by
  have hf := memWf_from h
  unfold memPut memGet
  split
  · rw [cellGet_del _ _ _ hf]; split <;> simp_all
  · rw [cellGet_put _ _ _ _ hf]; split <;> simp_all

/-- Writing bytes keeps the canonical form. -/
theorem memWrite_wf {m : List Host.Cell} (a : Nat) (bs : List Byte) (h : Memory.wf m = true) : Memory.wf (memWrite m a bs) = true := by
  induction bs generalizing m a with
  | nil => exact h
  | cons b bs ih => exact ih _ (memPut_wf a b h)

/-- Bytes written are read back, and every other byte reads as before. -/
theorem memGet_memWrite {m : List Host.Cell} (a x : Nat) (bs : List Byte) (h : Memory.wf m = true) :
    memGet (memWrite m a bs) x = if a ≤ x ∧ x < a + bs.length then (bs[x - a]?).getD 0 else memGet m x := by
  induction bs generalizing m a with
  | nil =>
    rw [if_neg (by simp only [List.length_nil]; omega)]; rfl
  | cons b bs ih =>
    unfold memWrite
    rw [ih _ (memPut_wf a b h), memGet_memPut _ _ _ h]
    simp only [List.length_cons]
    by_cases hx : x = a
    · subst hx
      rw [if_neg (by omega), if_pos rfl, if_pos (by omega)]; simp
    · by_cases hin : a + 1 ≤ x ∧ x < a + 1 + bs.length
      · rw [if_pos hin, if_pos (by omega)]
        obtain ⟨n, rfl⟩ : ∃ n, x = a + 1 + n := ⟨x - (a + 1), by omega⟩
        simp only [show a + 1 + n - (a + 1) = n by omega, show a + 1 + n - a = n + 1 by omega, List.getElem?_cons_succ]
      · rw [if_neg hin, if_neg hx, if_neg (by omega)]

theorem memBytes_length (m : List Host.Cell) (a n : Nat) : (memBytes m a n).length = n := by
  induction n generalizing a with
  | zero => rfl
  | succ n ih => simp [memBytes, ih]

theorem bytesOf_length (n w : Nat) : (bytesOf n w).length = n := by
  induction n generalizing w with
  | zero => rfl
  | succ n ih => simp [bytesOf, ih]

theorem bytesOf_get (n w i : Nat) (h : i < n) : (bytesOf n w)[i]? = some (BitVec.ofNat 8 (w / 256 ^ i)) := by
  induction n generalizing w i with
  | zero => omega
  | succ n ih =>
    cases i with
    | zero => simp [bytesOf]
    | succ i =>
      simp only [bytesOf, List.getElem?_cons_succ]
      rw [ih _ _ (by omega), Nat.div_div_eq_div_mul, Nat.pow_succ, Nat.mul_comm]

/-- The number of the bytes of a number. -/
theorem ofBytes_bytesOf (n w : Nat) : ofBytes (bytesOf n w) = w % 256 ^ n := by
  induction n generalizing w with
  | zero => simp [bytesOf, ofBytes, Nat.mod_one]
  | succ n ih =>
    simp only [bytesOf, ofBytes, ih, BitVec.toNat_ofNat]
    rw [show 256 ^ (n + 1) = 2 ^ 8 * 256 ^ n by rw [Nat.pow_succ, Nat.mul_comm]; rfl, Nat.mod_mul]; rfl

end Sys2Proof.Machine
end

