-- ==== Sys2Proof/Laws/Shared.lean ====
section
/-! SUPPORT. What each operation that the meanings share can do, said once: the accesses, the held rule, releases, requests to
a home, traps; and what they do to memory. -/

namespace Sys2Proof.Machine

/-- A fold of steps that each keep a part of the state keeps it. -/
theorem foldl_keeps {α β : Type} (g : State → β) (f : State → α → State) (h : ∀ s x, g (f s x) = g s) (l : List α) (s : State) :
    g (l.foldl f s) = g s := by
  induction l generalizing s with
  | nil => rfl
  | cons x l ih => rw [List.foldl_cons, ih, h]

theorem mem_of_ite {p : Prop} [Decidable p] {a b : State} {m : List Host.Cell} (ha : a.mem = m) (hb : b.mem = m) :
    (if p then a else b).mem = m := by split <;> assumption

/-! ### Memory is changed by writes performed at home, and by nothing else that a store does -/

@[simp] theorem mapCtx_mem (s : State) (d : DieId) (k : SlotNo) (f : Ctx → Ctx) : (s.mapCtx d k f).mem = s.mem := by
  unfold State.mapCtx; split <;> rfl

theorem squashSlot_mem (s : State) (c : Ctx) (origin : Nat) (cause : SquashCause) (here : Bool) :
    (s.squashSlot c origin cause here).mem = s.mem := by
  unfold State.squashSlot; split
  · rfl
  · simp

theorem squashEvent_mem (s : State) (c : Ctx) (cause : SquashCause) : (s.squashEvent c cause).mem = s.mem := by
  unfold State.squashEvent; simp

theorem outrank_mem (s : State) (c : Ctx) (k : Chunk) (origin : Nat) (cause : SquashCause) (here : Bool) :
    (s.outrank c k origin cause here).mem = s.mem := by
  unfold State.outrank
  split
  · rfl
  · simp only [apply_ite State.mem, mapCtx_mem, squashEvent_mem, setCounter_mem, ite_self]

theorem squash_mem (s : State) (c : Ctx) (cause : SquashCause) : (s.squash c cause).mem = s.mem := by
  unfold State.squash
  split
  · rfl
  · simp only [apply_ite State.mem, State.send, outrank_mem, mapCtx_mem, count_mem, squashSlot_mem, squashEvent_mem, ite_self]

theorem invalidate_mem (s : State) (on : Ctx → Bool) (loc n : Nat) (but : Option Word) : (s.invalidate on loc n but).mem = s.mem := by
  unfold State.invalidate
  simp only []
  rw [foldl_keeps State.mem _ (fun t c => squash_mem t c .memory)]
  split <;> rfl

theorem invalidateER_mem (s : State) (d : DieId) (loc n : Nat) (but : Option Word) : (s.invalidateER d loc n but).mem = s.mem :=
  invalidate_mem s _ loc n but

theorem invalidateTile_mem (s : State) (loc n : Nat) (but : Option Word) : (s.invalidateTile loc n but).mem = s.mem := by
  unfold State.invalidateTile
  simp only []
  refine (foldl_keeps State.mem _ (fun t line => ?_) _ _).trans (invalidate_mem s _ loc n but)
  split
  · exact invalidate_mem _ _ line 256 but
  · rfl

theorem squashReaders_mem (s : State) (loc n : Nat) (own : List Word) (but : Option Word) :
    (s.squashReaders loc n own but).mem = s.mem := by
  unfold State.squashReaders
  simp only []
  have h : (if isTile loc = true then s.invalidateTile loc n but
      else (allDies.filter fun d => !((s.die d).replicas.any fun l => [lineOf loc, lineOf (loc + n - 1)].contains l.line)).foldl
        (fun s d => s.invalidateER d loc n but) s).mem = s.mem :=
    mem_of_ite (invalidateTile_mem s loc n but) (foldl_keeps State.mem _ (fun t d => invalidateER_mem t d loc n but) _ s)
  exact mem_of_ite h h

theorem dropResv_mem (s : State) (rs : List Resv) : (s.dropResv rs).mem = s.mem := by
  unfold State.dropResv
  refine foldl_keeps State.mem _ (fun t r => ?_) rs s
  simp only []
  split <;> rfl

theorem loseResv_mem (s : State) (loc n : Nat) : (s.loseResv loc n).mem = s.mem := dropResv_mem s _

theorem collapseLine_mem (s : State) (line : Nat) (who : Requester) : (s.collapseLine line who).1.mem = s.mem := by
  unfold State.collapseLine
  refine (foldl_keeps State.mem (fun (t : State) (d : DieId) =>
    { t with net := mapFirst (fun p => p.collapsing line d) (fun p => p.join who.each) t.net }) (fun _ _ => rfl) _ _).trans ?_
  split
  · rfl
  · simp [State.mapDie]

/-! The slices of the caches hold which lines stand where; no byte of memory changes by them. -/

theorem dropReplica_mem (s : State) (d : DieId) (line : Nat) : (s.dropReplica d line).mem = s.mem := invalidateER_mem _ d line 256 none

theorem evictNotice_mem (s : State) (d : DieId) (line : Nat) : (s.evictNotice d line).mem = s.mem := mem_of_ite rfl rfl

theorem evict_mem (s : State) (d : DieId) (l : SharedLine) : (s.evict d l).mem = s.mem := by
  unfold State.evict
  refine mem_of_ite ?_ ?_
  · rw [invalidateER_mem]; exact mem_of_ite rfl rfl
  · rw [evictNotice_mem, dropReplica_mem]; rfl

theorem touch_mem (s : State) (d : DieId) (line : Nat) (dirty : BitVec 8) (core : Option Nat) : (s.touch d line dirty core).mem = s.mem := by
  unfold State.touch
  rw [mapDie_mem]
  have h (t : State) (ws : List SharedLine) :
      (if ws.length < Config.sliceWays then t else match victim ws with | some v => t.evict d v | none => t).mem = t.mem :=
    mem_of_ite rfl (by split <;> [exact evict_mem t d _; rfl])
  exact mem_of_ite rfl (mem_of_ite (h s _) (h s _))

theorem install_mem (s : State) (d : DieId) (l : Line) : (s.install d l).mem = s.mem := touch_mem _ _ _ _ _

theorem dirtied_mem (s : State) (loc n : Nat) : (s.dirtied loc n).mem = s.mem := by
  unfold State.dirtied
  exact mem_of_ite rfl (foldl_keeps State.mem _ (fun t line => touch_mem t _ line _ none) _ s)

/-- What a load takes into its die's slice and its core's L1D changes no byte. -/
theorem useLine_mem (s : State) (p : Place) : (s.useLine p).mem = s.mem := mem_of_ite (touch_mem s _ _ _ _) rfl

/-- The bytes of a write go into memory; what else the write does there changes no byte. -/
theorem writeBytes_mem (s : State) (loc : Nat) (bs : List Byte) (who : Requester) (but : Option Word) :
    (s.writeBytes loc bs who but).mem = memWrite s.mem loc bs := by
  unfold State.writeBytes
  simp only []
  rw [dirtied_mem, squashReaders_mem, loseResv_mem]

/-- A write performed at its home puts its bytes into memory, and changes nothing else there. -/
theorem performWrite_mem (s : State) (loc : Nat) (bs : List Byte) (who : Requester) (but : Option Word) :
    (s.performWrite loc bs who but).1.mem = memWrite s.mem loc bs := by
  unfold State.performWrite
  simp only []
  split
  · rw [writeBytes_mem]
  · split
    · rw [collapseLine_mem, writeBytes_mem]
    · rw [collapseLine_mem, collapseLine_mem, writeBytes_mem]

theorem performWrite_wf (s : State) (loc : Nat) (bs : List Byte) (who : Requester) (but : Option Word) (h : s.MemOk) :
    (s.performWrite loc bs who but).1.MemOk := by
  unfold State.MemOk; rw [performWrite_mem]; exact memWrite_wf loc bs h

theorem creditPerf_mem (s : State) (who : Requester) (m : BitVec 16) (r : Bool) : (s.creditPerf who m r).mem = s.mem := by
  unfold State.creditPerf; split <;> simp

theorem writeHome_mem (s : State) (loc : Nat) (bs : List Byte) (who : Requester) (but : Option Word) :
    (s.writeHome loc bs who but).mem = memWrite s.mem loc bs := by
  unfold State.writeHome
  rw [creditPerf_mem, performWrite_mem]

theorem pendStore_mem (s : State) (d : DieId) (loc : Nat) (x : Datum) (dev : Bool) (who : Requester) (but : Option Word) :
    (s.pendStore d loc x dev who but).mem = s.mem := by
  unfold State.pendStore
  simp only [State.take]
  have h (t : State) (p : Prop) [Decidable p] (d : DieId) (l n : Nat) (b : Option Word) :
      (if p then t.invalidateER d l n b else t).mem = t.mem := mem_of_ite (invalidateER_mem ..) rfl
  cases who <;> dsimp only <;> (try rw [mapCtx_mem]) <;> exact mem_of_ite (h _ _ _ _ _ _) (h _ _ _ _ _ _)

/-- A store enters memory when its home is the storing die, and waits in the pending-store table otherwise. -/
theorem enterStore_mem (s : State) (d : DieId) (loc : Nat) (bs : List Byte) (who : Requester) (but : Option Word) (dev : Bool) :
    (s.enterStore d loc bs who but dev).mem = if homeOf loc = d then memWrite s.mem loc bs else s.mem := by
  unfold State.enterStore
  simp only []
  split
  · rw [writeHome_mem]
  · exact (foldl_keeps State.mem _ (fun t (p : Nat × List Byte) => pendStore_mem t d p.1 (.bytes p.2) dev who but) _ _).trans
      (invalidateER_mem s d loc _ but)

/-! ### Accesses, case by case -/

/-- Everything a plain load can do: trap on alignment, be refused by its checks, ask for a remote line, or go on with its value
unless lost data traps. -/
theorem load_cases (s : State) (va : Word) (n spaces : Nat) (f : State → Nat → State) :
    (va.toNat % n ≠ 0 ∧ s.load va n spaces f = s.trap (.of cMISALIGN va))
    ∨ (va.toNat % n = 0 ∧ (∀ p, s.look .r spaces va n ≠ .ok p) ∧ s.load va n spaces f = s.refuse (s.look .r spaces va n))
    ∨ (∃ p, va.toNat % n = 0 ∧ s.look .r spaces va n = .ok p ∧
        ((∃ l, s.loadBytes p n = .need l ∧ s.load va n spaces f = s.askLine p l)
        ∨ ∃ bs, s.loadBytes p n = .data bs ∧ s.load va n spaces f =
            let t := (s.noteLoad p bs).noteLost bs
            if t.2 then t.1.trap (.of cDATA_LOST_TRAP (va + word (firstLost bs))) else f t.1 (numOf bs))) := by
  unfold State.load
  by_cases h : va.toNat % n = 0
  · rw [if_neg (by simp [h])]
    cases hl : s.look .r spaces va n with
    | ok p =>
      refine .inr (.inr ⟨p, h, rfl, ?_⟩)
      cases hb : s.loadBytes p n with
      | need l => exact .inl ⟨l, rfl, by simp only [hb]⟩
      | data bs => exact .inr ⟨bs, rfl, by simp only [hb]⟩
    | trap t => exact .inr (.inl ⟨h, by simp, rfl⟩)
    | stall => exact .inr (.inl ⟨h, by simp, rfl⟩)
    | commit => exact .inr (.inl ⟨h, by simp, rfl⟩)
    | full => exact .inr (.inl ⟨h, by simp, rfl⟩)
    | rewalk e => exact .inr (.inl ⟨h, by simp, rfl⟩)
    | migrate d => exact .inr (.inl ⟨h, by simp, rfl⟩)
  · rw [if_pos h]; exact .inl ⟨h, rfl⟩

/-- A load whose checks pass and whose bytes are at hand goes on with their number. -/
theorem load_ok (s : State) (va : Word) (n spaces : Nat) (f : State → Nat → State) (p : Place) (bs : List Byte)
    (ha : va.toNat % n = 0) (hl : s.look .r spaces va n = .ok p) (hb : s.loadBytes p n = .data (bs.map some)) :
    s.load va n spaces f = f (s.noteLoad p (bs.map some)) (ofBytes bs) := by
  have hn : anyLost (bs.map some) = false := by simp [anyLost]
  have hu : (bs.map some).map unlost = bs := by
    rw [List.map_map]; conv_rhs => rw [← List.map_id bs]
    exact List.map_congr_left fun _ _ => rfl
  unfold State.load
  simp only [ha, hl, hb, State.noteLost, hn, numOf, hu]
  rfl

/-- Everything a plain store can do. -/
theorem store_cases (s : State) (va : Word) (n spaces x : Nat) (f : State → State) :
    (va.toNat % n ≠ 0 ∧ s.store va n spaces x f = s.trap (.of cMISALIGN va))
    ∨ (va.toNat % n = 0 ∧ (∀ p, s.look .w spaces va n ≠ .ok p) ∧ s.store va n spaces x f = s.refuse (s.look .w spaces va n))
    ∨ (∃ p, va.toNat % n = 0 ∧ s.look .w spaces va n = .ok p ∧
        ((s.storeReady p n = false ∧ s.store va n spaces x f = s)
        ∨ (s.storeReady p n = true ∧ s.store va n spaces x f = f (((s.markAccess p true).noteMig p).putBytes p (bytesOf n x))))) := by
  unfold State.store
  by_cases h : va.toNat % n = 0
  · rw [if_neg (by simp [h])]
    cases hl : s.look .w spaces va n with
    | ok p =>
      refine .inr (.inr ⟨p, h, rfl, ?_⟩)
      cases hb : s.storeReady p n with
      | false => exact .inl ⟨rfl, by simp [hb]⟩
      | true => exact .inr ⟨rfl, by simp [hb]⟩
    | trap t => exact .inr (.inl ⟨h, by simp, rfl⟩)
    | stall => exact .inr (.inl ⟨h, by simp, rfl⟩)
    | commit => exact .inr (.inl ⟨h, by simp, rfl⟩)
    | full => exact .inr (.inl ⟨h, by simp, rfl⟩)
    | rewalk e => exact .inr (.inl ⟨h, by simp, rfl⟩)
    | migrate d => exact .inr (.inl ⟨h, by simp, rfl⟩)
  · rw [if_pos h]; exact .inl ⟨h, rfl⟩

/-- A held instruction waits in a chunk that is not the oldest; the oldest first commits what it holds (R25). -/
theorem held_cases (s : State) (f : State → State) :
    (s.me.chunk = none ∧ s.held f = f s)
    ∨ (s.me.speculative = true ∧ s.held f = s)
    ∨ (∃ k, s.me.chunk = some k ∧ k.oldest = true ∧ s.held f = s.afterDrain f) := by
  unfold State.held Ctx.speculative
  cases hc : s.me.chunk with
  | none => exact .inl ⟨rfl, rfl⟩
  | some k =>
    cases hk : k.oldest with
    | true => exact .inr (.inr ⟨k, rfl, hk, by simp [hk]⟩)
    | false => exact .inr (.inl ⟨by simp [hk], by simp [hk]⟩)

theorem held_serial (s : State) (f : State → State) (h : s.me.chunk = none) : s.held f = f s := by
  unfold State.held; rw [h]

/-- A held instruction with an address: alignment, then the checks in a speculative chunk, then the held rule. -/
theorem heldAt_cases (s : State) (k : AccessKind) (align n spaces : Nat) (va : Word) (f : State → State) :
    (va.toNat % align ≠ 0 ∧ s.heldAt k align n spaces va f = s.trap (.of cMISALIGN va))
    ∨ (va.toNat % align = 0 ∧ s.me.speculative = true ∧ ((∃ t, s.look k spaces va n = .trap t ∧ s.heldAt k align n spaces va f = s.trap t)
        ∨ s.heldAt k align n spaces va f = s))
    ∨ (va.toNat % align = 0 ∧ s.me.speculative = false ∧ s.heldAt k align n spaces va f = s.held f) := by
  unfold State.heldAt
  by_cases h : va.toNat % align = 0
  · rw [if_neg (by simp [h])]
    cases hs : s.me.speculative with
    | false => exact .inr (.inr ⟨h, rfl, by simp⟩)
    | true =>
      refine .inr (.inl ⟨h, rfl, ?_⟩)
      cases hl : s.look k spaces va n with
      | trap t => exact .inl ⟨t, rfl, by simp⟩
      | ok p => exact .inr (by simp)
      | stall => exact .inr (by simp)
      | commit => exact .inr (by simp)
      | full => exact .inr (by simp)
      | rewalk e => exact .inr (by simp)
      | migrate d => exact .inr (by simp)
  · rw [if_pos h]; exact .inl ⟨h, rfl⟩

/-- A release goes on once the stores of its scope have settled, and leaves the state as it is until then. -/
theorem release_cases (s : State) (sc : Scope) (f : State → State) :
    (s.settled sc s.me.dmask = true ∧ s.release sc f = f (if sc = .mask then s.countDropped s.me.dmask else s))
    ∨ (s.settled sc s.me.dmask = false ∧ s.release sc f = s) := by
  unfold State.release
  cases h : s.settled sc s.me.dmask
  · exact .inr ⟨rfl, by simp⟩
  · exact .inl ⟨rfl, by simp⟩

/-- Everything a home operation can do before its request is made. -/
theorem viaHome_cases (s : State) (va : Word) (align n : Nat) (k : AccessKind) (op : HomeOp) (t0 lim : Nat) (before : Before)
    (f : State → Answer → State) :
    (∃ a, s.me.answer = some a ∧ s.viaHome va align n k op t0 lim before f =
        s.answered va (match s.placeOf s.me k 0 va with | .ok p => p.loc | .error _ => 0) op t0 lim a f)
    ∨ (s.me.answer = none ∧ va.toNat % align ≠ 0 ∧ s.viaHome va align n k op t0 lim before f = s.trap (.of cMISALIGN va))
    ∨ (s.me.answer = none ∧ va.toNat % align = 0 ∧ (∀ p, s.look k 0 va n ≠ .ok p)
        ∧ s.viaHome va align n k op t0 lim before f = s.refuse (s.look k 0 va n))
    ∨ (∃ p, s.me.answer = none ∧ va.toNat % align = 0 ∧ s.look k 0 va n = .ok p
        ∧ s.viaHome va align n k op t0 lim before f = s.held fun s => before p s fun s => s.request va p n op t0 lim f) := by
  unfold State.viaHome
  cases ha : s.me.answer with
  | some a => exact .inl ⟨a, rfl, rfl⟩
  | none =>
    refine .inr ?_
    by_cases h : va.toNat % align = 0
    · simp only [h, ne_eq, not_true_eq_false, if_false, false_and, false_or, true_and]
      cases hl : s.look k 0 va n with
      | ok p => exact .inr ⟨p, rfl, rfl⟩
      | trap t => exact .inl ⟨by simp, rfl⟩
      | stall => exact .inl ⟨by simp, rfl⟩
      | commit => exact .inl ⟨by simp, rfl⟩
      | full => exact .inl ⟨by simp, rfl⟩
      | rewalk e => exact .inl ⟨by simp, rfl⟩
      | migrate d => exact .inl ⟨by simp, rfl⟩
    · exact .inl ⟨rfl, h, by simp [h]⟩

/-- A request to the slot's own die is performed at once when the counts have room for its write. -/
theorem request_home (s : State) (va : Word) (p : Place) (n : Nat) (op : HomeOp) (t0 lim : Nat) (f : State → Answer → State)
    (h : homeOf p.loc = s.me.die) (hr : s.requestRoom op = true) :
    s.request va p n op t0 lim f =
      let t := s.noteRequest p op
      let r := t.performHome t.asker p.loc op
      r.1.answered va p.loc op t0 lim r.2 f := by
  unfold State.request; rw [if_neg (by simp [hr]), if_pos h]

/-- An access with no A or D bit to set changes nothing by them. -/
theorem markAccess_marked (s : State) (p : Place) (w : Bool) (h : p.Marked w) : s.markAccess p w = s := by
  unfold State.markAccess
  cases hp : p.pte with
  | none => rfl
  | some e =>
    obtain ⟨ha, hd⟩ := h e hp
    have hu : e.unmarked w = false := by
      unfold TlbEntry.unmarked
      cases w
      · simp [ha]
      · simp [ha, hd rfl]
    simp only [hu]
    rfl

/-! ### Traps -/

/-- A trap is kept by a speculative chunk until it is oldest (R27), and taken otherwise. -/
theorem trap_cases (s : State) (t : Trap) :
    (s.me.speculative = true ∧ s.trap t = s.mapMe fun c => { c with chunk := c.chunk.map fun k => { k with held := some t } })
    ∨ (s.me.speculative = false ∧ s.trap t = s.takeTrap t false) := by
  unfold State.trap
  cases h : s.me.speculative
  · exact .inr ⟨rfl, by simp⟩
  · exact .inl ⟨rfl, by simp⟩

/-- What entry writes (R43). -/
theorem enter_writes (c : Ctx) (t : Trap) (held : Bool) :
    let e := ({ c with chunk := c.chunk.map Chunk.handles } : Ctx).flushPart
    (c.enter t held).epc = e.epcOf t ∧ (c.enter t held).cause = e.causeOf t held ∧ (c.enter t held).tval = t.tval
    ∧ (c.enter t held).level = .system ∧ (c.enter t held).pc = e.ctl.tvec.setWidth 64 :=
  ⟨rfl, rfl, rfl, rfl, rfl⟩

/-- What entry keeps where no chunk and no vector instruction is under way, and the trap is no LATE. -/
theorem enter_keeps (c : Ctx) (t : Trap) (held : Bool) (hc : c.chunk = none) (hp : c.part = none) (ht : t.code ≠ cLATE) :
    (c.enter t held).noTrap.still = c.noTrap.still := by
  have h : ({ c with chunk := c.chunk.map Chunk.handles } : Ctx).flushPart = c := by
    have hm : ({ c with chunk := c.chunk.map Chunk.handles } : Ctx) = c := by cases c; simp_all
    rw [hm]; unfold Ctx.flushPart; rw [hp]
  have hl : (t.code == cLATE) = false := by simp [ht]
  unfold Ctx.enter
  simp only [h, hl, Bool.not_false, Bool.and_true, Bool.or_false]
  rfl

end Sys2Proof.Machine
end

