-- ==== Sys2Proof/Tests/Slice0.lean ====
section
/-! SUPPORT. Tests: words of the tables and their decoding, ill-formed terms, one step of instructions on small states, and
for every statement with hypotheses a state and operands that meet them. -/

set_option maxRecDepth 10000
set_option Elab.async false
set_option linter.unusedSimpArgs false
set_option linter.unusedTactic false

namespace Sys2Proof.Tests
open Sys2Proof Sys2Proof.Machine

/-! ### Small states -/

def regs (l : List (SReg × Word)) : Vector Word 32 := l.foldl (fun v p => v.set p.1 p.2) (Vector.replicate 32 0)
/-- A cached translation of 2^29 bytes, readable, writable, executable, for strands, with A and D set. -/
def page (va pa : Nat) : TlbEntry := ⟨.die, 0x10000, va, 2, 0x20000, word (pa + 0x1C1F)⟩
/-- A strand at the start of its own tile store, with these scalar registers. -/
def cpu (l : List (SReg × Word)) : Ctx :=
  { Ctx.reset 0 0 with state := .running, pc := 0x00A0000000000000, s := regs l, strand := 0x123, launch := 0x40,
                       header := 0x8000, ctl := { Control.reset with ptroot := 0x10000, tvec := 0x7700 }, iword := 0x12345678 }
/-- The machine after boot; low addresses lead to DRAM of die 0, those from 2^29 to DRAM of die 1. -/
def world (c : Ctx) (m : List Host.Cell) : State :=
  let s := State.reset.bringUp
  { s with me := c, mem := m, dies := s.dies.set 0 { s.dies[0] with tlb := [page 0 0, page (2 ^ 29) (2 ^ 36)] } }
def near (loc : Nat) : Place := ⟨loc, false, false, 0, some (page 0 0)⟩
def far (loc : Nat) : Place := ⟨loc, false, false, 0, some (page (2 ^ 29) (2 ^ 36))⟩
def withOx (s : State) (x : OxReg) (k : OxKind) (r : Word) : State := s.mapMe fun c => c.setOx x ⟨r, BitVec.ofNat 3 k.code, oxBreaks k r⟩
def withVl (s : State) (et vl ridx : Nat) : State :=
  s.mapMe fun c => { c with img := { c.img with vl := BitVec.ofNat 9 vl, ridx := BitVec.ofNat 9 ridx, span := BitVec.ofNat 9 et } }
/-- Does a run of one meaning answer a next state of which `f` holds? -/
def after (i : Instr) (s : State) (f : State → Bool) : Bool := match exec i s with | .next t => f t | _ => false

/-! ### Predicates of statements in a form that can be evaluated -/

theorem memOk_iff (s : State) : s.MemOk ↔ Memory.wf s.mem = true := Iff.rfl
theorem marked_iff (p : Place) (w : Bool) : p.Marked w ↔ (p.pte.all fun e => pteA e.pte && (!w || pteD e.pte)) = true := by
  cases h : p.pte <;> cases w <;> simp [Place.Marked, h]
theorem near_iff (s : State) (loc : Nat) : s.Near loc ↔ isDevice loc = false ∧ homeOf loc = s.me.die := Iff.rfl
theorem reaches_iff (s : State) (k : AccessKind) (sp : Nat) (va : Word) (n : Nat) (p : Place) :
    s.Reaches k sp va n p ↔ va.toNat % n = 0 ∧ s.look k sp va n = .ok p ∧ (p.pte.all fun e => pteA e.pte && (!k.writes || pteD e.pte)) = true := by
  simp only [State.Reaches, marked_iff]
theorem unread_iff (s : State) (loc n : Nat) :
    s.Unread loc n ↔ ((s.me :: s.others).all fun c => c.chunk.all fun k => k.er.all fun q => !(decide (q < loc + n) && decide (loc < q + 32))) = true := by
  simp only [State.Unread, List.all_eq_true, Option.all_eq_true, Bool.not_eq_true', Bool.and_eq_false_iff, decide_eq_false_iff_not, not_and_or]
theorem sound_iff (s : State) (loc n : Nat) : s.Sound loc n ↔ ∀ a ∈ s.lost, ¬ (loc ≤ a ∧ a < loc + n) := by
  constructor
  · intro h a ha hb; exact h a hb.1 hb.2 ha
  · intro h a h1 h2 ha; exact h a ha ⟨h1, h2⟩
theorem serial_iff (s : State) : s.Serial ↔ s.me.chunk.isNone = true ∧ (s.others.all fun c => c.chunk.isNone) = true := by
  simp [State.Serial]
theorem alone_iff (s : State) : s.Alone ↔ s.me.chunk.isNone = true ∧ ∀ c ∈ s.others, c.strand ≠ s.me.strand := by
  simp [State.Alone]
theorem atHome_iff (s : State) (k : AccessKind) (va : Word) (n : Nat) (p : Place) :
    s.AtHome k va n p ↔ s.me.answer = none ∧ s.Serial ∧ s.Reaches k 0 va n p ∧ isDram p.loc = true ∧ homeOf p.loc = s.me.die ∧ s.countRoom s.me.strand 1 = true := Iff.rfl
theorem spanOk_iff (s : State) (r : List VReg) :
    s.SpanOk r ↔ s.me.spanIF = false ∧ s.me.vl ≤ s.me.vlmax ∧ r.all s.me.groupOk = true ∧ s.me.mmaAcc = none := Iff.rfl
theorem oxHolds_iff (s : State) (x : OxReg) (k : OxKind) (v : Word) :
    s.OxHolds x k v ↔ s.me.ox[x].kind.toNat = k.code ∧ s.me.ox[x].bad = false ∧ s.me.ox[x].val = v := Iff.rfl
theorem canLeave_iff (s : State) (keep : Bool) (prep : Ctx → Ctx) (st susp : Nat) (h : HaltRegs) : s.CanLeave keep prep st susp h ↔
    (s.quiesce keep).me.drained = true ∧ (s.quiesce keep).me.landed = true ∧ (s.quiesce keep).alone = true
      ∧ (s.quiesce keep).settled .mask 0xFFFF = true ∧ (((s.quiesce keep).mapMe prep).saveStrand st susp 0 h).2 = true := Iff.rfl
theorem leaves_iff (s : State) (n : Nat) (m : Rill) (rest : List Packet) : s.Leaves n m rest ↔
    takeAt n s.net = some (.rill m.die m.ring m.origin m.hops m.strand m.j m.msg, rest) ∧ s.rillLeaves n m = true := Iff.rfl
theorem roomy_iff (s : State) (loc : Nat) : s.Roomy loc ↔ ((s.die s.me.die).shared.any fun l => l.line == lineOf loc) = true
    ∨ (s.setWays s.me.die (lineOf loc)).length < Config.sliceWays ∨ s.me.chunk.isNone = true ∧ (s.others.all fun c => c.chunk.isNone) = true := by
  simp [State.Roomy, State.Serial]
theorem calm_iff (s : State) (loc : Nat) : s.Calm loc ↔ (!isDram loc || ((s.die s.me.die).shared.any fun l => l.line == lineOf loc)
    || s.me.chunk.isNone && (s.others.all fun c => c.chunk.isNone) && (s.die s.me.die).replicas.isEmpty) = true := by
  simp [State.Calm, State.Serial, or_assoc, or_left_comm]
theorem uncollapsed_iff (s : State) (h : s.net = []) : s.Uncollapsed := by simp [State.Uncollapsed, h]
theorem isFin_iff (v : FV) : v.finite ↔ (match v with | .fin .. => true | _ => false) = true := by cases v <;> simp [FV.finite]

theorem rowMarked_iff (r : RowPlan) : r.Marked ↔ (∀ p ∈ r.reads, (p.pte.all fun e => pteA e.pte && (!false || pteD e.pte)) = true)
    ∧ ∀ p ∈ r.writes, (p.pte.all fun e => pteA e.pte && (!true || pteD e.pte)) = true := by
  simp only [RowPlan.Marked, marked_iff]

/-- A location whose access evicts nothing, as a Bool. -/
def calmAt (s : State) (loc : Nat) : Bool :=
  !isDram loc || ((s.die s.me.die).shared.any fun l => l.line == lineOf loc)
    || s.me.chunk.isNone && (s.others.all fun c => c.chunk.isNone) && (s.die s.me.die).replicas.isEmpty
theorem reads_of {s : State} {va : Word} {n : Nat} (p : Place) (bs : List Byte)
    (h : s.look .r 2 va n = .ok p ∧ (p.pte.all fun e => pteA e.pte && (!false || pteD e.pte)) = true ∧ s.loadBytes p n = .data (bs.map some) ∧ calmAt s p.loc = true) :
    s.Reads va n (ofBytes bs) := ⟨p, bs, h.1, (marked_iff p false).2 h.2.1, (calm_iff s p.loc).2 h.2.2.2, h.2.2.1, rfl⟩
theorem lands_of {s : State} {va : Word} {n : Nat} {p : Place} (h : ∀ m, ({ s with mem := m } : State).look .w 2 va n = .ok p)
    (h' : (p.pte.all fun e => pteA e.pte && (!true || pteD e.pte)) = true ∧ isDevice p.loc = false ∧ homeOf p.loc = s.me.die
      ∧ ((s.me :: s.others).all fun c => c.chunk.all fun k => k.er.all fun q => !(decide (q < p.loc + n) && decide (p.loc < q + 32))) = true
      ∧ s.storeRoom s.me p.loc n = true ∧ calmAt s p.loc = true) : s.Lands va n p :=
  ⟨h, (marked_iff p true).2 h'.1, ⟨h'.2.1, h'.2.2.1⟩, (calm_iff s p.loc).2 h'.2.2.2.2.2, (unread_iff s p.loc n).2 h'.2.2.2.1, h'.2.2.2.2.1⟩
/-- Is a piece of a row readable now, and are its bytes these? -/
def readsPiece (s : State) (va : Nat) (bs : List Byte) (p : Nat × List Byte) : Bool :=
  match s.look .r 2 (word p.1) p.2.length with
  | .ok pl => (pl.pte.all fun e => pteA e.pte && (!false || pteD e.pte))
      && calmAt s pl.loc && decide (s.loadBytes pl p.2.length = .data (((bs.drop (p.1 - va)).take p.2.length).map some))
  | _ => false
theorem readsRow_of {s : State} {va : Word} {n : Nat} (bs : List Byte) (hl : bs.length = n)
    (h : (pieces va.toNat (List.replicate n 0)).all (readsPiece s va.toNat bs) = true) : s.ReadsRow va n (ofBytes bs) := by
  refine ⟨bs, hl, rfl, fun p hp => ?_⟩
  have hq := List.all_eq_true.1 h p hp
  unfold readsPiece at hq
  split at hq
  · rename_i pl hpl
    simp only [Bool.and_eq_true, decide_eq_true_eq] at hq
    exact ⟨pl, hpl, (marked_iff pl false).2 hq.1.1, (calm_iff s pl.loc).2 hq.1.2, hq.2⟩
  · exact absurd hq (by decide)

/-! ### Witnesses of hypotheses: integers, branches, memory -/

def w0 : State := world (cpu [(3, 0x1000), (4, 0x8877665544332211), (5, 1), (6, 0x1001)]) (memWrite [] 0x1000 (bytesOf 16 0x8000000000000001FFFFFFFF80000080))
/-- Division by zero, the one overflow, and quotients at the ends of the range. -/
theorem witness_division :
    (world (cpu [(3, 5)]) []).getS 4 = 0
    ∧ (world (cpu [(3, BitVec.intMin 64), (4, BitVec.allOnes 64)]) []).getS 3 = BitVec.intMin 64
    ∧ (world (cpu [(3, BitVec.intMin 64), (4, BitVec.allOnes 64)]) []).getS 4 = BitVec.allOnes 64
    ∧ ((-7 : Int) = -3 * 2 + -1 ∧ (-1 : Int).natAbs < (2 : Int).natAbs ∧ (0 : Int) ≤ -1 * -7 ∧ (BitVec.ofInt 64 (-7)).toInt = -7)
    ∧ ((2 ^ 64 - 1 : Nat) = 2 ^ 63 * 1 + (2 ^ 63 - 1) ∧ (2 ^ 63 - 1 : Nat) < 2 ^ 63) := by decide +kernel
theorem witness_extend : Sz.b ≠ .d ∧ Sz.w ≠ .d := by decide
theorem witness_branches :
    (w0.getS 3 = w0.getS 3 ∧ w0.getS 3 ≠ w0.getS 4) ∧ ((w0.getS 4).toInt < (w0.getS 3).toInt ∧ ¬ (w0.getS 3).toInt < (w0.getS 3).toInt)
    ∧ ((w0.getS 3).toNat < (w0.getS 4).toNat ∧ ¬ (w0.getS 4).toNat < (w0.getS 3).toNat) ∧ (w0.getS 0 = 0 ∧ w0.getS 3 ≠ 0)
    ∧ (BitVec.ofInt 64 ((w0.getS 3).toInt + (2 : BitVec 11).toInt)).getLsbD 0 = false ∧ (BitVec.ofInt 64 ((w0.getS 6).toInt + (2 : BitVec 11).toInt)).getLsbD 0 = true := by decide +kernel
theorem witness_loads :
    (w0.Reaches .r 2 0x1003 1 (near 0x1003) ∧ w0.loadBytes (near 0x1003) 1 = .data ([0xFF - 0x7F].map some))
    ∧ (w0.Reaches .r 2 0x1002 2 (near 0x1002) ∧ w0.loadBytes (near 0x1002) 2 = .data ([0, 0x80].map some))
    ∧ (w0.Reaches .r 2 0x1004 4 (near 0x1004) ∧ w0.loadBytes (near 0x1004) 4 = .data ([0xFF, 0xFF, 0xFF, 0xFF].map some))
    ∧ (w0.Reaches .r 2 0x1008 8 (near 0x1008) ∧ w0.loadBytes (near 0x1008) 8 = .data ([1, 0, 0, 0, 0, 0, 0, 0x80].map some))
    ∧ BitVec.ofInt 64 ((w0.getS 3).toInt + (2 : BitVec 11).toInt) = 0x1002 ∧ w0.Roomy 0x1003 := by
  simp only [memOk_iff, marked_iff, near_iff, reaches_iff, unread_iff, sound_iff, atHome_iff, serial_iff, alone_iff, spanOk_iff, oxHolds_iff, canLeave_iff, roomy_iff, calm_iff, leaves_iff, isFin_iff, rowMarked_iff]; decide +kernel
/-- To DRAM, at the last bytes of a page of DRAM, and to the slot's own tile store. -/
theorem witness_stores :
    (w0.MemOk ∧ w0.me.chunk = none ∧ w0.Reaches .w 2 0x1000 8 (near 0x1000) ∧ w0.Near 0x1000 ∧ w0.Unread 0x1000 8 ∧ w0.storeRoom w0.me 0x1000 8 = true)
    ∧ (w0.Reaches .w 2 0x1FFFFFFF 1 (near 0x1FFFFFFF) ∧ w0.Near 0x1FFFFFFF ∧ w0.Unread 0x1FFFFFFF 1 ∧ w0.storeRoom w0.me 0x1FFFFFFF 1 = true)
    ∧ (w0.Reaches .w 2 0x00A0000000000042 2 (Place.tile (tileLoc 0 0 0x42)) ∧ w0.Near (tileLoc 0 0 0x42) ∧ w0.Unread (tileLoc 0 0 0x42) 2
      ∧ w0.storeRoom w0.me (tileLoc 0 0 0x42) 2 = true)
    ∧ (w0.Reaches .w 2 0x1004 4 (near 0x1004) ∧ w0.Near 0x1004 ∧ w0.Unread 0x1004 4 ∧ w0.storeRoom w0.me 0x1004 4 = true) := by
  simp only [memOk_iff, marked_iff, near_iff, reaches_iff, unread_iff, sound_iff, atHome_iff, serial_iff, alone_iff, spanOk_iff, oxHolds_iff, canLeave_iff, roomy_iff, calm_iff, leaves_iff, isFin_iff, rowMarked_iff]; decide +kernel
def k1 : Chunk := Chunk.start 1 false
def wSpec : State := w0.mapMe fun c => { c with chunk := some k1 }
theorem witness_speculative : wSpec.me.chunk = some k1 ∧ k1.spec = true ∧ wSpec.Reaches .w 2 0x1000 8 (near 0x1000) ∧ isDevice 0x1000 = false
    ∧ wSpec.Reaches .w 2 0x1000 1 (near 0x1000) := by
  simp only [memOk_iff, marked_iff, near_iff, reaches_iff, unread_iff, sound_iff, atHome_iff, serial_iff, alone_iff, spanOk_iff, oxHolds_iff, canLeave_iff, roomy_iff, calm_iff, leaves_iff, isFin_iff, rowMarked_iff]; decide +kernel
theorem witness_load_after_store : ∃ t, exec (.stD 3 4 0) w0 = .next t ∧ t.Reaches .r 2 0x1000 8 (near 0x1000) := by
  refine ⟨_, rfl, ?_⟩; (simp only [memOk_iff, marked_iff, near_iff, reaches_iff, unread_iff, sound_iff, atHome_iff, serial_iff, alone_iff, spanOk_iff, oxHolds_iff, canLeave_iff, roomy_iff, calm_iff, leaves_iff, isFin_iff, rowMarked_iff]; decide +kernel)
theorem witness_remote_store : ∀ q ∈ [(0x118, 8), (0x11C, 4), (0x11E, 2), (0x11F, 1)], let s := world (cpu [(3, 0x20000118), (4, 5)]) []
    s.me.chunk = none ∧ s.Reaches .w 2 (word (0x20000000 + q.1)) q.2 (far (0x1000000000 + q.1)) ∧ isDevice (0x1000000000 + q.1) = false
    ∧ homeOf (0x1000000000 + q.1) ≠ s.me.die ∧ s.Unread (lineOf (0x1000000000 + q.1)) 256 ∧ (s.die s.me.die).pend = []
    ∧ s.storeRoom s.me (0x1000000000 + q.1) q.2 = true := by
  (try simp only [memOk_iff, marked_iff, near_iff, reaches_iff, unread_iff, sound_iff, atHome_iff, serial_iff, alone_iff, spanOk_iff, oxHolds_iff, canLeave_iff, roomy_iff, calm_iff, leaves_iff, isFin_iff, rowMarked_iff]); decide +kernel
theorem witness_misaligned : w0.me.answer = none ∧ ∀ n ∈ [2, 4, 8, 16, 64], (w0.getS 6).toNat % n ≠ 0 := by decide +kernel
/-- A fence that need not wait, and one that waits for a store. -/
theorem witness_acquire_release :
    (w0.settled .pod w0.me.dmask = true ∧ w0.Reaches .r 2 0x1008 8 (near 0x1008) ∧ w0.Reaches .w 2 0x1008 8 (near 0x1008) ∧ w0.storeRoom w0.me 0x1008 8 = true
      ∧ w0.loadBytes (near 0x1008) 8 = .data ([1, 0, 0, 0, 0, 0, 0, 0x80].map some) ∧ w0.Roomy 0x1008)
    ∧ (let s := w0.mapMe fun c => { c with perfPend := 1 }
       s.me.chunk = none ∧ s.settled .die s.me.dmask = false ∧ s.settled .mask s.me.dmask = false ∧ (0x1008 : Word).toNat % 8 = 0) := by
  (try simp only [memOk_iff, marked_iff, near_iff, reaches_iff, unread_iff, sound_iff, atHome_iff, serial_iff, alone_iff, spanOk_iff, oxHolds_iff, canLeave_iff, roomy_iff, calm_iff, leaves_iff, isFin_iff, rowMarked_iff]); decide +kernel
def wEmpty : State := { w0 with empties := [0x1000] }
theorem witness_full_empty :
    (w0.AtHome .rw 0x1000 8 (near 0x1000) ∧ w0.Sound 0x1000 8 ∧ w0.MemOk ∧ w0.isEmpty 0x1000 = false ∧ w0.me.wait = none)
    ∧ (wEmpty.AtHome .rw 0x1000 8 (near 0x1000) ∧ wEmpty.isEmpty 0x1000 = true ∧ wEmpty.settled .die wEmpty.me.dmask = true ∧ wEmpty.me.wait = none) := by
  simp only [memOk_iff, marked_iff, near_iff, reaches_iff, unread_iff, sound_iff, atHome_iff, serial_iff, alone_iff, spanOk_iff, oxHolds_iff, canLeave_iff, roomy_iff, calm_iff, leaves_iff, isFin_iff, rowMarked_iff]; decide +kernel
/-- The last waiter the table takes, and the first it does not. -/
theorem witness_waiters : ∀ n ∈ [63, 64],
    let s := w0.mapDie 0 fun d => { d with waiters := List.replicate n ⟨.fullEmpty, false, 0x1000, 1, 99⟩ }
    (∀ w ∈ (s.die 0).waiters, w.strand ≠ s.me.strand) ∧ ((s.die 0).waiters.filter fun w => s.slice w.loc == s.slice 0x1000).length = n := by decide +kernel
theorem witness_atomics :
    (w0.AtHome .rw 0x1004 4 (near 0x1004) ∧ w0.Sound 0x1004 4 ∧ w0.me.det = false ∧ w0.AtHome .rw 0x1008 8 (near 0x1008) ∧ w0.Sound 0x1008 8)
    ∧ (let s := w0.mapMe fun c => { c with ctl := { c.ctl with detctl := 1 } }; s.me.det = true ∧ s.AtHome .rw 0x1000 4 (near 0x1000)) := by
  (try simp only [memOk_iff, marked_iff, near_iff, reaches_iff, unread_iff, sound_iff, atHome_iff, serial_iff, alone_iff, spanOk_iff, oxHolds_iff, canLeave_iff, roomy_iff, calm_iff, leaves_iff, isFin_iff, rowMarked_iff]); decide +kernel
theorem witness_reductions : let s := world (cpu [(3, 0x20001000), (4, 7)]) []
    (s.Serial ∧ s.Reaches .rw 0 0x20001000 4 (far 0x1000001000) ∧ homeOf 0x1000001000 ≠ s.me.die ∧ s.storePending 0x1000001000 4 = false
    ∧ s.countRoom s.me.strand 1 = true ∧ s.me.det = false)
    ∧ (let t := w0.mapMe fun c => { c with ctl := { c.ctl with detctl := 1 } }; t.me.det = true ∧ t.Reaches .rw 0 0x1000 4 (near 0x1000)) := by
  (try simp only [memOk_iff, marked_iff, near_iff, reaches_iff, unread_iff, sound_iff, atHome_iff, serial_iff, alone_iff, spanOk_iff, oxHolds_iff, canLeave_iff, roomy_iff, calm_iff, leaves_iff, isFin_iff, rowMarked_iff]); decide +kernel
theorem witness_reservations :
    (w0.AtHome .r 0x1000 4 (near 0x1000) ∧ w0.AtHome .w 0x1000 8 (near 0x1000) ∧ BitVec.ofNat 32 (numAt w0.mem 0x1000 4) = (0x80000080 : Word).setWidth (8 * 4)
      ∧ BitVec.ofNat 32 (numAt w0.mem 0x1000 4) ≠ (w0.getS 3).setWidth (8 * 4))
    ∧ (let s := w0.mapDie 0 fun d => { d with resv := [⟨0x1000, 0, 0⟩] }
       ⟨sectorOf 0x1000, 0, s.me.slot⟩ ∈ (s.die 0).resv ∧ s.AtHome .w 0x1000 8 (near 0x1000) ∧ s.reserved s.me = true ∧ s.me.wait = none)
    ∧ (⟨sectorOf 0x1000, 0, w0.me.slot⟩ : Resv) ∉ (w0.die 0).resv ∧ w0.reserved w0.me = false := by
  (try simp only [memOk_iff, marked_iff, near_iff, reaches_iff, unread_iff, sound_iff, atHome_iff, serial_iff, alone_iff, spanOk_iff, oxHolds_iff, canLeave_iff, roomy_iff, calm_iff, leaves_iff, isFin_iff, rowMarked_iff]); decide +kernel
/-- A barrier in the state that each clause asks for: its state word, and s4. -/
def wBar (w : Nat) (x : Word) : State := world (cpu [(2, 0), (3, 0x1000), (4, x), (5, BitVec.intMin 64)]) (memWrite [] 0x1000 (bytesOf 16 (w + (3 * 2 ^ 40 + 9) * 2 ^ 64)))
theorem witness_barriers :
    ((wBar 0 0).MemOk ∧ (wBar 0 0).AtHome .rw 0x1000 16 (near 0x1000) ∧ (wBar 0 0).settled .mask (wBar 0 0).me.dmask = true ∧ (wBar 0 0).me.sent = none
      ∧ (wBar 0 0).AtHome .r 0x1000 16 (near 0x1000) ∧ (wBar 0 0).me.wait = none ∧ (wBar 0 0).me.wend = none)
    -- arr = 0; arr = 1 with bytes; arr = 1 without; overpost at and below the limit
    ∧ numAt (wBar 5 0).mem 0x1000 8 / 2 ^ 40 % 2 ^ 21 = 0
    ∧ (numAt (wBar (2 ^ 40 + 1) 0).mem 0x1000 8 / 2 ^ 40 % 2 ^ 21 = 1 ∧ numAt (wBar (2 ^ 40 + 1) 0).mem 0x1000 8 % 2 ^ 40 ≠ 0)
    ∧ (numAt (wBar (2 ^ 40) 0).mem 0x1000 8 / 2 ^ 40 % 2 ^ 21 = 1 ∧ numAt (wBar (2 ^ 40) 0).mem 0x1000 8 % 2 ^ 40 = 0)
    ∧ (5 < 2 ^ 40 ∧ numAt (wBar (2 ^ 40 - 6) 5).mem 0x1000 8 % 2 ^ 40 + 5 < 2 ^ 40) ∧ 2 ^ 40 ≤ numAt (wBar (2 ^ 40 - 5) 5).mem 0x1000 8 % 2 ^ 40 + 5
    -- a wait in the phase that has ended and in the one that has not, with a limit and with none
    ∧ (numAt (wBar 7 0).mem 0x1000 8 / 2 ^ 63 ≠ ((wBar 7 0).getS 5).toNat / 2 ^ 63 ∧ numAt (wBar 7 0).mem 0x1000 8 / 2 ^ 63 = ((wBar 7 0).getS 2).toNat / 2 ^ 63)
    ∧ ((wBar 7 0).getS 4).toNat = 0 ∧ ((wBar 7 1).getS 4).toNat ≠ 0 := by
  simp only [memOk_iff, marked_iff, near_iff, reaches_iff, unread_iff, sound_iff, atHome_iff, serial_iff, alone_iff, spanOk_iff, oxHolds_iff, canLeave_iff, roomy_iff, calm_iff, leaves_iff, isFin_iff, rowMarked_iff]; decide +kernel
def qcbBytes (es cap head tail free : Nat) : List Byte :=
  bytesOf 4 0x51430001 ++ [1, BitVec.ofNat 8 es, BitVec.ofNat 8 cap, 1] ++ bytesOf 8 0x4000 ++ bytesOf 8 head ++ bytesOf 8 tail ++ bytesOf 4 free
    ++ bytesOf 4 0 ++ List.replicate 24 0
def wQueue (es cap head tail free : Nat) : State :=
  withVl (world (cpu [(2, 0x4040), (3, 0x1000), (4, 0x4000), (5, 77)]) (memWrite [] 0x1000 (qcbBytes es cap head tail free))) 0xB 4 0
theorem witness_queues :
    (let s := wQueue 0 2 0 0 4; s.MemOk ∧ s.AtHome .rw 0x1000 64 (near 0x1000) ∧ s.me.sent = none ∧ (∀ w ∈ (s.die s.me.die).waiters, w.loc ≠ 0x1000)
      ∧ s.settled .mask s.me.dmask = true ∧ (s.qcb 0x1000).ok = true ∧ (s.qcb 0x1000).count < (s.qcb 0x1000).cap ∧ (s.qcb 0x1000).count = 0 ∧ s.me.wait = none)
    ∧ (let s := wQueue 0 2 1 5 0; (s.qcb 0x1000).ok = true ∧ (s.qcb 0x1000).count = (s.qcb 0x1000).cap ∧ 0 < (s.qcb 0x1000).count
      ∧ s.Sound ((s.qcb 0x1000).slot (s.qcb 0x1000).head) 8)
    ∧ (let s := wQueue 0 2 0 5 4; (s.qcb 0x1000).ok = false ∧ s.AtHome .rw 0x1000 64 (near 0x1000)) := by
  (try simp only [memOk_iff, marked_iff, near_iff, reaches_iff, unread_iff, sound_iff, atHome_iff, serial_iff, alone_iff, spanOk_iff, oxHolds_iff, canLeave_iff, roomy_iff, calm_iff, leaves_iff, isFin_iff, rowMarked_iff]); decide +kernel
/-- 16 bytes in two elements of 8: room for both, room for one, both there, one there. -/
theorem witness_vector_queues :
    (let s := wQueue 0 2 0 2 2; s.SpanOk [4] ∧ (s.qcb 0x1000).ok = true ∧ 0 < (s.me.vl * s.me.et.ew + 7) / 8 ∧ (s.me.vl * s.me.et.ew + 7) / 8 = 16
      ∧ (0x1040 ≤ (s.qcb 0x1000).data) ∧ 2 ≤ (s.qcb 0x1000).cap ∧ 2 ≤ (s.qcb 0x1000).cap - (s.qcb 0x1000).count ∧ 2 ≤ (s.qcb 0x1000).count
      ∧ ∀ k, k < 2 → s.Sound ((s.qcb 0x1000).slot ((s.qcb 0x1000).head + k)) (s.qcb 0x1000).es)
    ∧ (let s := wQueue 0 2 0 3 1; (s.qcb 0x1000).ok = true ∧ (s.qcb 0x1000).cap - (s.qcb 0x1000).count < 2)
    ∧ (let s := wQueue 0 2 0 1 3; (s.qcb 0x1000).ok = true ∧ (s.qcb 0x1000).count < 2) := by
  (try simp only [memOk_iff, marked_iff, near_iff, reaches_iff, unread_iff, sound_iff, atHome_iff, serial_iff, alone_iff, spanOk_iff, oxHolds_iff, canLeave_iff, roomy_iff, calm_iff, leaves_iff, isFin_iff, rowMarked_iff]); decide +kernel
theorem witness_queue_init : let s := withOx (wQueue 0 2 0 0 4) 1 .qinit 0x200
    s.OxHolds 1 .qinit 0x200 ∧ s.AtHome .rw 0x1000 64 (near 0x1000) ∧ s.AtHome .r 0x1000 64 (near 0x1000) ∧ (s.getS 4).toNat < 2 ^ 55 ∧ (s.getS 4).toNat % 8 = 0
    ∧ s.queueData (near 0x1000) (s.getS 4) 32 = .ok 0x4000 := by
  (try simp only [memOk_iff, marked_iff, near_iff, reaches_iff, unread_iff, sound_iff, atHome_iff, serial_iff, alone_iff, spanOk_iff, oxHolds_iff, canLeave_iff, roomy_iff, calm_iff, leaves_iff, isFin_iff, rowMarked_iff]); decide +kernel

/-! ### Witnesses: transfers, replication, the pod, groups, forked regions -/

def shapeWord (es len dstr sstr : Nat) : Word := word (es * 2 ^ 56 + dstr % 2 ^ 20 * 2 ^ 36 + sstr % 2 ^ 20 * 2 ^ 16 + len)
/-- Two rows of 24 bytes; a gather of words. -/
def wCopy (dst src : Word) : State := withVl (withOx (world (cpu [(2, dst), (3, src)]) []) 1 .shape (shapeWord 2 24 0x40 0x20)) 0xB 2 0
def plans (s : State) (k : CpKind) : List RowPlan × Option (Nat × Look) :=
  s.planRows (fun r => s.planRow k none 24 (s.getS 3 + word r * 0x20) (s.getS 2 + word r * 0x40)) (upFrom 0 2)
theorem witness_copies :
    ∀ p ∈ [(CpKind.cpIn, wCopy 0x00A0000000000100 0x2000), (.cpOut, wCopy 0x2000 0x00A0000000000100), (.cpTt, wCopy 0x00A0000000004000 0x00A0000000000100)],
      let s := p.2
      s.me.chunk = none ∧ s.me.ilk.length < 8 ∧ (plans s p.1).1 ≠ [] ∧ (plans s p.1).2 = none ∧ (∀ r ∈ (plans s p.1).1, r.Marked)
      ∧ s.OxHolds 1 .shape (shapeWord 2 24 0x40 0x20) ∧ s.getS 0 = 0 ∧ (s.look .rw 0 0x3000 16 = .ok (near 0x3000) ∧ ((0x3000 : Word).toNat < 2 ^ 55 ∧ (0x3000 : Word).toNat % 16 = 0) ∧ (near 0x3000).Marked true) ∧ ((s.getS 2).toNat % 4 = 0 ∧ (s.getS 3).toNat % 4 = 0)
      ∧ inSpace p.1.srcTile (s.getS 3) = true ∧ inSpace p.1.dstTile (s.getS 2) = true := by
  (try simp only [memOk_iff, marked_iff, near_iff, reaches_iff, unread_iff, sound_iff, atHome_iff, serial_iff, alone_iff, spanOk_iff, oxHolds_iff, canLeave_iff, roomy_iff, calm_iff, leaves_iff, isFin_iff, rowMarked_iff]); decide +kernel
def wGather : State :=
  (withVl (withOx (world (cpu [(3, 0x2000), (4, 0x00A0000000000800)]) []) 1 .raw 0) 0xB 4 0).mapMe fun c =>
    { c with img := { c.img with v := c.img.v.set 6 0x00000009000000050000000300000002 } }
def gatherPlans : List RowPlan × Option (Nat × Look) := wGather.planElems 6 .w 4 0x2000 0x00A0000000000800 (upFrom 0 4)
theorem witness_gather : wGather.OxHolds 1 .raw 0 ∧ (6 : VReg).val + Max.max 1 ((wGather.me.vl * (8 * Wid.w.bytes) + 2047) / 2048) ≤ 32
    ∧ (wGather.getS 4).toNat % Sz.w.bytes = 0 ∧ inSpace true (wGather.getS 4) = true
    ∧ wGather.placeOf wGather.me .w 3 (wGather.getS 4) = .ok (Place.tile (tileLoc 0 0 0x800)) ∧ oneBank (tileLoc 0 0 0x800) 16 = true
    ∧ wGather.look .w 3 (wGather.getS 4) 16 = .ok (Place.tile (tileLoc 0 0 0x800)) ∧ gatherPlans.2 = none ∧ gatherPlans.1 ≠ []
    ∧ ∀ r ∈ gatherPlans.1, r.Marked := by
  simp only [memOk_iff, marked_iff, near_iff, reaches_iff, unread_iff, sound_iff, atHome_iff, serial_iff, alone_iff, spanOk_iff, oxHolds_iff, canLeave_iff, roomy_iff, calm_iff, leaves_iff, isFin_iff, rowMarked_iff]; decide +kernel
def strip0 (k : IlkKind) (src dst n : Nat) : Strip := ⟨7, k, some (0, 0), 0, 0, [⟨src, dst, n, none, n⟩], none, none, n, 0, [], [], 0, some 0x123, BitVec.allOnes 64⟩
def wStrip (net : List Packet) (mv : List Strip) : State :=
  let s := world (cpu []) (memWrite [] 0x3000 (bytesOf 16 (100 + 2 ^ 40)))
  { s with net := net, moves := mv }
def stIn : Strip := strip0 .cpIn 0x2000 (tileLoc 0 0 0x100) 40
def gxIn : Strip := strip0 .gx 0x2000 (tileLoc 0 0 0x100) 8
def gxFar : Strip := strip0 .gx (2 ^ 36 + 0x2000) (tileLoc 0 0 0x100) 8
def stLand : Strip := { stIn with barrier := some 0x3000, moves := [] }
theorem witness_movement :
    -- the sixteenth strip is accepted
    (let s := wStrip [.strip stIn] (List.replicate 15 stIn); s.arrive 0 = some (.strip stIn, []) ∧ s.net.take 0 = [] ∧ (s.moves.filter fun o => o.at 0 0).length < 16 ∧ stIn.place = none)
    ∧ (let s := wStrip [] [stIn]; s.MemOk ∧ s.Serial ∧ takeAt 0 s.moves = some (stIn, []) ∧ stIn.kind ≠ .gx ∧ s.moves.take 0 = [] ∧ isDram 0x2000 = true ∧ isTile (tileLoc 0 0 0x100) = true
      ∧ s.Sound 0x2000 40)
    ∧ (let s := wStrip [.gather gxIn] []; s.MemOk ∧ s.Serial ∧ s.arrive 0 = some (.gather gxIn, []) ∧ (s.moves.filter fun o => o.kind == .gx && o.die == 0).length < 8 ∧ gxIn.data = []
      ∧ s.Sound 0x2000 8 ∧ homeOf 0x2000 = gxIn.die) := by
  (try simp only [memOk_iff, marked_iff, near_iff, reaches_iff, unread_iff, sound_iff, atHome_iff, serial_iff, alone_iff, spanOk_iff, oxHolds_iff, canLeave_iff, roomy_iff, calm_iff, leaves_iff, isFin_iff, rowMarked_iff]); decide +kernel
theorem witness_landing :
    (let s := wStrip [.gather gxFar] []; s.arrive 0 = some (.gather gxFar, []) ∧ homeOf (2 ^ 36 + 0x2000) ≠ gxFar.die)
    ∧ (let s := wStrip [.batch 7 1 gxFar.moves] [{ gxFar with moves := [], awaits := [1] }]
       s.arrive 0 = some (.batch 7 1 gxFar.moves, []) ∧ takeFirst (fun o => o.id == 7 && o.kind == .gx) s.moves = some ({ gxFar with moves := [], awaits := [1] }, []))
    ∧ (let s := wStrip [.landing stLand] []; s.MemOk ∧ s.Serial ∧ s.arrive 0 = some (.landing stLand, []) ∧ s.unsettled 7 = false ∧ stLand.kind ≠ .coll ∧ 0 < stLand.bytes
      ∧ stLand.status = 0 ∧ isDram 0x3000 = true ∧ stLand.bytes < numAt s.mem 0x3000 8 % 2 ^ 40) := by
  (try simp only [memOk_iff, marked_iff, near_iff, reaches_iff, unread_iff, sound_iff, atHome_iff, serial_iff, alone_iff, spanOk_iff, oxHolds_iff, canLeave_iff, roomy_iff, calm_iff, leaves_iff, isFin_iff, rowMarked_iff]); decide +kernel
/-- A degree raised to the most, one lowered, and an address that names no DRAM. -/
def wDeg (dg : Nat) : State := (world (cpu [(3, 0x20300000), (4, 256)]) []).mapDie 1 fun d => d.setRegion ⟨regionIx (2 ^ 36 + 0x300000), BitVec.ofNat 2 dg, false, 1, 2, 3, 4⟩
theorem witness_degrees :
    ((wDeg 2).me.chunk = none ∧ (wDeg 2).me.answer = none ∧ (wDeg 2).regionOfVa ((wDeg 2).getS 3) = .ok (some (2 ^ 36 + 0x300000))
      ∧ (((wDeg 2).die 1).region (regionIx (2 ^ 36 + 0x300000))).deg.toNat ≤ (3 : BitVec 2).toNat
      ∧ (1 : BitVec 2).toNat < (((wDeg 2).die 1).region (regionIx (2 ^ 36 + 0x300000))).deg.toNat ∧ ((wDeg 2).die 1).dir = [] ∧ (wDeg 2).unsettled (wDeg 2).serial = false)
    ∧ (let s := world (cpu [(3, 0x00A0000000000000)]) []; s.regionOfVa (s.getS 3) = .ok none) := by
  (try simp only [memOk_iff, marked_iff, near_iff, reaches_iff, unread_iff, sound_iff, atHome_iff, serial_iff, alone_iff, spanOk_iff, oxHolds_iff, canLeave_iff, roomy_iff, calm_iff, leaves_iff, isFin_iff, rowMarked_iff]); decide +kernel
/-- A pod access: misaligned, to the first module number that is too large, to the last one, and with its reply. -/
def wPod (sa m : Word) : State := (world (cpu [(2, 5), (3, sa), (4, m)]) []).mapDie 0 fun d => { d with regs := { d.regs with podctl := word (16 * 2 ^ 32) } }
theorem witness_pod :
    ((wPod 0x1001 3).me.chunk = none ∧ (wPod 0x1001 3).me.answer = none ∧ ((wPod 0x1001 3).getS 3).toNat % 2 ≠ 0)
    ∧ ((wPod 0x1000 16).getS 3).toNat % 8 = 0 ∧ (wPod 0x1000 16).podSize 0 ≤ ((wPod 0x1000 16).getS 4).toNat
    ∧ 1024 ≤ ((wPod 0x1000 1024).getS 4).toNat
    ∧ (((wPod 0x1000 15).getS 4).toNat < (wPod 0x1000 15).podSize 0 ∧ ((wPod 0x1000 15).getS 4).toNat < 1024 ∧ (wPod 0x1000 15).routeHeld 15 ((wPod 0x1000 15).route 15) = false)
    ∧ ((wPod 0x1000 15).mapMe fun c => { c with answer := some (.value 5 0 none) }).me.answer = some (.value 5 0 none) := by decide +kernel
def grp : Group := { Group.free 9 with state := .ready, gen := 3, rank := 1, members := [⟨0, 1⟩, ⟨0, 0⟩, ⟨5, 2⟩], gid := some ⟨0, 1, 4⟩, seqno := 4, tmo := 1000 }
def fdone (st : BitVec 8) : FormDone := ⟨0x123, 9, st, 7⟩
def wGroup (g : Group) : State :=
  (world (cpu [(2, 0x5000), (3, 0x2000), (4, 0x3000), (5, 9), (6, 255), (7, 256)]) (memWrite [] 0x3000 (bytesOf 16 (100 + 2 ^ 40)))).mapDie 0 fun d => { d with groups := [g] }
def wFormed (st : BitVec 8) : State := (wGroup grp).mapDie 0 fun d => { d with formed := [fdone st] }
theorem witness_groups :
    (∀ st ∈ [0, 4], let s := wFormed st; s.me.chunk = none ∧ (s.getS 3).toNat % 8 = 0
      ∧ (s.die 0).formed.find? (fun o => o.strand == s.me.strand) = some (fdone st))
    ∧ (fdone 0).status = 0 ∧ (fdone 4).status ≠ 0
    ∧ ((wGroup grp).getS 5).toNat < 256 ∧ (wGroup grp).group? 0 9 = some grp ∧ grp.state = .ready ∧ grp.ops = [] ∧ grp.gid = some ⟨0, 1, 4⟩
    ∧ (∃ m ∈ grp.members, m ≠ ⟨(wGroup grp).myMod 0, 0⟩ ∧ (wGroup grp).here 0 m = true)
    ∧ 256 ≤ ((wGroup grp).getS 7).toNat ∧ (((wGroup grp).group? 0 255).all fun q => q.state != .ready) = true := by decide +kernel
theorem readsIn_of {s : State} {va : Word} {n : Nat} (sp : Nat) (p : Place) (bs : List Byte)
    (h : s.look .r sp va n = .ok p ∧ (p.pte.all fun e => pteA e.pte && (!false || pteD e.pte)) = true ∧ s.loadBytes p n = .data (bs.map some) ∧ calmAt s p.loc = true) :
    s.ReadsIn sp va n (ofBytes bs) := ⟨p, bs, h.1, (marked_iff p false).2 h.2.1, (calm_iff s p.loc).2 h.2.2.2, h.2.2.1, rfl⟩
/-- A list of two members, this die first, and a parameter that asks for a new entry; and a list that counts none. -/
def wForm (n : Word) : State := world (cpu [(3, 0x2000), (4, 0xFFFF00000000)]) (memWrite [] 0x2000 (w64 n ++ w64 0 ++ w64 0x400))
theorem witness_new_group : (∀ n ∈ [2, 0], let s := wForm n
      (s.getS 3).toNat % 8 = 0 ∧ (s.die 0).formed = [] ∧ (s.die 0).groups = [] ∧ s.settled .die s.me.dmask = true ∧ s.me.wait = none
      ∧ bits (s.getS 4) 32 16 = 0xFFFF ∧ s.freeHandle 0 = some 0 ∧ s.ReadsIn 0 0x2000 8 n.toNat)
    ∧ (wForm 2).listOk 0 [2, 0, 0x400] 0xFFFF00000000 = some ([⟨0, 0⟩, ⟨0, 1⟩], false) ∧ bits (2 : Word) 0 11 = [(0 : Word), 0x400].length ∧ bits (0 : Word) 0 11 = 0
    ∧ (∀ k v, [(0 : Word), 0x400][k]? = some v → (wForm 2).ReadsIn 0 (0x2000 + 8 + word (8 * k)) 8 v.toNat) := by
  refine ⟨fun n hn => ?_, by decide +kernel, by decide, by decide, fun k v h => ?_⟩
  · simp only [List.mem_cons, List.mem_nil_iff, or_false] at hn
    rcases hn with rfl | rfl
    · exact ⟨by decide +kernel, by decide +kernel, by decide +kernel, by decide +kernel, by decide +kernel, by decide +kernel, by decide +kernel,
        readsIn_of 0 (near 0x2000) (w64 2) (by decide +kernel)⟩
    · exact ⟨by decide +kernel, by decide +kernel, by decide +kernel, by decide +kernel, by decide +kernel, by decide +kernel, by decide +kernel,
        readsIn_of 0 (near 0x2000) (w64 0) (by decide +kernel)⟩
  · rcases k with _ | _ | k
    · obtain rfl : (0 : Word) = v := by simpa using h
      exact readsIn_of 0 (near 0x2008) (w64 0) (by decide +kernel)
    · obtain rfl : (0x400 : Word) = v := by simpa using h
      exact readsIn_of 0 (near 0x2010) (w64 0x400) (by decide +kernel)
    · simp at h
def collWord (op ty rop root count h : Nat) : Word := word (h * 2 ^ 48 + op * 2 ^ 44 + ty * 2 ^ 42 + rop * 2 ^ 40 + root * 2 ^ 28 + count)
/-- An all-reduce of 4 elements, and a broadcast from the group's own rank. -/
def wColl (w : Word) : State := withOx (wGroup grp) 1 .coll w
def collOk (s : State) (w : Word) (src dst : List (Place × Nat)) : Prop :=
  let r := CollRec.ofFields (w.setWidth 48)
  s.MemOk ∧ s.Serial ∧ s.OxHolds 1 .coll w ∧ s.group? 0 9 = some grp ∧ bits w 48 16 = 9 ∧ grp.early = [] ∧ 2 ≤ grp.members.length ∧ r.root < 3 ∧ r.kind ≠ .barrier
  ∧ grp.rank.toNat < 3 ∧ s.me.det = false ∧ (s.getS 3).toNat % r.ty.bytes = 0 ∧ (s.getS 2).toNat % r.ty.bytes = 0 ∧ s.getS 4 ≠ 0 ∧ (s.getS 4).toNat < 2 ^ 55
  ∧ s.Reaches .rw 0 (s.getS 4) 16 (near 0x3000) ∧ s.me.ilk.length < 8
  ∧ s.spanAll .r (s.getS 3) (r.srcLen 3 1 / 65536 + 2) (r.srcLen 3 1) = .ok src ∧ s.spanAll .w (s.getS 2) (r.dstLen 3 / 65536 + 2) (r.dstLen 3) = .ok dst
  ∧ (∀ q ∈ src, q.1.Marked false) ∧ (∀ q ∈ dst, q.1.Marked true) ∧ s.settled .mask s.me.dmask = true ∧ r.posted 3 < 2 ^ 40
  ∧ numAt s.mem 0x3000 8 % 2 ^ 40 + r.posted 3 < 2 ^ 40
theorem witness_collective : collOk (wColl (collWord 0 0 0 0 4 9)) (collWord 0 0 0 0 4 9) [(near 0x2000, 16)] [(near 0x5000, 16)] := by
  unfold collOk; (simp only [memOk_iff, marked_iff, near_iff, reaches_iff, unread_iff, sound_iff, atHome_iff, serial_iff, alone_iff, spanOk_iff, oxHolds_iff, canLeave_iff, roomy_iff, calm_iff, leaves_iff, isFin_iff, rowMarked_iff]; decide +kernel)
theorem witness_broadcast_root : collOk (wColl (collWord 3 0 0 1 4 9)) (collWord 3 0 0 1 4 9) [(near 0x2000, 16)] [(near 0x5000, 16)]
    ∧ (CollRec.ofFields ((collWord 3 0 0 1 4 9).setWidth 48)).kind = .broadcast ∧ isDevice 0x2000 = false ∧ isDevice 0x5000 = false
    ∧ (wColl (collWord 3 0 0 1 4 9)).Sound 0x2000 16 := by
  unfold collOk; (simp only [memOk_iff, marked_iff, near_iff, reaches_iff, unread_iff, sound_iff, atHome_iff, serial_iff, alone_iff, spanOk_iff, oxHolds_iff, canLeave_iff, roomy_iff, calm_iff, leaves_iff, isFin_iff, rowMarked_iff]; decide +kernel)

/-- A collective on a group that has ended, and on a handle that names none. -/
theorem witness_ended_collective : ∀ q ∈ [(({ grp with state := .aborted } : Group), 9, 3), (grp, 256, 1)], let s := wGroup q.1; let w := collWord 0 0 0 0 4 q.2.1
    let s := withOx s 1 .coll w; let r := CollRec.ofFields (w.setWidth 48)
    s.me.chunk = none ∧ s.MemOk ∧ s.Serial ∧ s.OxHolds 1 .coll w ∧ bits w 48 16 = q.2.1 ∧ (q.2.1 < 256 → s.group? 0 9 = some q.1 ∧ q.1.state = .aborted ∧ q.1.members.length = 3 ∧ r.root < 3)
    ∧ s.spanAll .r (s.getS 3) (r.srcLen 3 1 / 65536 + 2) (r.srcLen 3 1) = .ok [(near 0x2000, 16)] ∧ s.spanAll .w (s.getS 2) (r.dstLen 3 / 65536 + 2) (r.dstLen 3) = .ok [(near 0x5000, 16)]
    ∧ (near 0x2000).Marked false ∧ (near 0x5000).Marked true ∧ s.me.det = false ∧ r.kind ≠ .barrier ∧ 0 < r.posted q.2.2 ∧ (s.getS 3).toNat % r.ty.bytes = 0 ∧ (s.getS 2).toNat % r.ty.bytes = 0
    ∧ s.getS 4 ≠ 0 ∧ (s.getS 4).toNat < 2 ^ 55 ∧ s.Reaches .rw 0 (s.getS 4) 16 (near 0x3000) ∧ isDram 0x3000 = true ∧ homeOf 0x3000 = s.me.die ∧ s.me.ilk.length < 8
    ∧ s.settled .mask s.me.dmask = true ∧ numAt s.mem 0x3000 8 % 2 ^ 40 + r.posted q.2.2 < 2 ^ 40 := by
  (try simp only [memOk_iff, marked_iff, near_iff, reaches_iff, unread_iff, sound_iff, atHome_iff, serial_iff, alone_iff, spanOk_iff, oxHolds_iff, canLeave_iff, roomy_iff, calm_iff, leaves_iff, isFin_iff, rowMarked_iff]); decide +kernel

/-- Inside a region of head PC − 8 and exit PC + 16: a call depth, an iteration, a limit, whether the chunk is the oldest and speculative. -/
def wRegion (depth it lim : Nat) (old sp : Bool) (exit : Word := 0x00A0000000000010) : State :=
  let s := world (cpu [(3, 0x00A0000000000020), (4, 9), (5, 3)]) []
  { s with me := { s.me with chunk := some { Chunk.start 2 old with depth := BitVec.ofNat 16 depth, iter := it, spec := sp } },
           regions := [⟨0, 0, 0x123, 0x009FFFFFFFFFFFF8, exit, lim, Image.reset, .none, 0, [], [0], 0, true, 3, 2, s.me.s, s.me.ox, .none⟩] }
def theChunk (s : State) : Chunk := s.me.chunk.getD (Chunk.start 0 false)
theorem witness_fork :
    ((2 : BitVec 11).toInt < 3 ∧ ¬ (3 : BitVec 11).toInt < 3) ∧ w0.Alone
    ∧ (w0.me.chunk = none ∧ w0.me.mmaAcc = none ∧ w0.me.pc.toNat + 2048 < 2 ^ 64 ∧ saveFits w0.me.ctl.privbase = false)
    ∧ (let s := w0.mapMe fun c => { c with ctl := { c.ctl with privbase := 0x50FFFF } }; saveFits s.me.ctl.privbase = true ∧ s.Serial) := by
  (try simp only [memOk_iff, marked_iff, near_iff, reaches_iff, unread_iff, sound_iff, atHome_iff, serial_iff, alone_iff, spanOk_iff, oxHolds_iff, canLeave_iff, roomy_iff, calm_iff, leaves_iff, isFin_iff, rowMarked_iff]); decide +kernel
theorem witness_floop :
    (let s := wRegion 1 3 0 true true; s.me.level = .strand ∧ (s.me.regionOf s).isSome = true ∧ (theChunk s).depth ≠ 0)
    ∧ (∀ p ∈ [(wRegion 0 1 4 true true, false), (wRegion 0 3 4 true true, true)],
      let s := p.1
      s.me.chunk = some (theChunk s) ∧ s.me.level = .strand ∧ ((s.me.regionOf s).any fun r => BitVec.ofInt 64 (s.me.pc.toInt + 2 * (0x7FC : BitVec 11).toInt) == r.head
        && decide (r.head.toNat < r.exit.toNat) && r.c != 0 && decide (((theChunk s).iter + 1 = r.c) = p.2)) = true ∧ (theChunk s).depth = 0 ∧ (theChunk s).traps = 0
      ∧ (s.getS 5).toInt < (s.getS 4).toInt ∧ ¬ (s.getS 4).toInt < (s.getS 5).toInt)
    ∧ (let s := wRegion 0 3 4 true true 0x00A0000000000004; ((s.me.regionOf s).any fun r => decide (r.exit.toNat ≤ (s.me.pc + 4).toNat)) = true)
    ∧ (let s := wRegion 0 3 4 true true 0x00A0000000000005; ((s.me.regionOf s).any fun r => decide ((s.me.pc + 4).toNat < r.exit.toNat)) = true) := by decide +kernel
theorem witness_region_ends :
    (let s := wRegion 0 1 4 true true; (s.getS 5).toInt < (s.getS 4).toInt ∧ ((s.me.regionOf s).any fun r =>
        decide (r.exit.toNat ≤ (BitVec.ofInt 64 (s.me.pc.toInt + 2 * (0x20 : BitVec 11).toInt)).toNat)) = true ∧ (theChunk s).depth.toNat < 65535)
    ∧ (theChunk (wRegion 65535 1 4 true true)).depth.toNat = 65535
    ∧ (let s := wRegion 2 1 4 true true; 1 < (theChunk s).depth.toNat ∧ (s.getS 3).getLsbD 0 = false)
    ∧ (let s := wRegion 1 1 4 true true; (theChunk s).depth = 1 ∧ ((s.me.regionOf s).any fun r => decide (r.exit.toNat ≤ (s.getS 3).toNat)) = true)
    ∧ (theChunk (wRegion 0 1 4 false true)).oldest = false
    ∧ (theChunk (wRegion 0 1 4 true false)).oldest = true ∧ (theChunk (wRegion 0 1 4 true false)).spec = false := by decide +kernel

/-! ### Witnesses: floating point -/

theorem val_of {v : FV} (n : Bool) (m : Nat) (e : Int) (h : v = .fin n m e) : v.val = (if n then -1 else 1) * (m : ℝ) * (2 : ℝ) ^ e := by rw [h]; rfl
theorem one32 : (ff32.dec 0x3F800000).val = 1 := by
  rw [val_of false 0x800000 (-23) (by decide +kernel)]; norm_num
theorem minus32 : (ff32.dec 0xBF800000).val = -1 := by
  rw [val_of true 0x800000 (-23) (by decide +kernel)]; norm_num
theorem zero32 : (ff32.dec 0).val = 0 := by
  rw [val_of false 0 (-149) (by decide +kernel)]; norm_num
theorem witness_float_arithmetic :
    (ff32 ∈ floatFormats ∧ 4 < 5 ∧ (ff32.dec 0x3F800000).finite ∧ (ff32.dec 0).finite)
    ∧ ((ff32.dec 0x3F800000).val + (ff32.dec 0xBF800000).val = 0 ∧ (ff32.dec 0x3F800000).val - (ff32.dec 0x3F800000).val = 0
      ∧ (ff32.dec 0x3F800000).val + (ff32.dec 0x3F800000).val ≠ 0 ∧ (ff32.dec 0).val - (ff32.dec 0x3F800000).val < 0)
    ∧ ((ff32.dec 0x3F800000).val * (ff32.dec 0).val = 0 ∧ (ff32.dec 0).val = 0 ∧ (ff32.dec 0x3F800000).val ≠ 0 ∧ 0 < (ff32.dec 0x3F800000).val)
    ∧ ((ff32.dec 0x3F800000).val * (ff32.dec 0x3F800000).val + (ff32.dec 0xBF800000).val = 0
      ∧ (ff32.dec 0x3F800000).val * (ff32.dec 0x3F800000).val - (ff32.dec 0xBF800000).val ≠ 0
      ∧ (ff32.dec 0x3F800000).val * (ff32.dec 0x3F800000).val - (ff32.dec 0x3F800000).val = 0) := by
  rw [one32, minus32, zero32]
  refine ⟨⟨by simp [floatFormats], by norm_num, ?_, ?_⟩, ?_⟩
  · rw [isFin_iff]; decide +kernel
  · rw [isFin_iff]; decide +kernel
  · norm_num
theorem witness_float_special :
    (ff32.dec 0x7F800001).isNan = true ∧ (ff32.dec 0x7F800001).snan = true ∧ (ff32.dec 0x7FC00000).isNan = true ∧ (ff32.dec 0x3F800000).isNan = false
    ∧ ff32.dec 0x7F800000 = .inf false ∧ ff32.dec 0xFF800000 = .inf true ∧ (∃ e, ff32.dec 0x80000000 = .fin true 0 e) ∧ (ff32.dec 0xBF800000).val < 0
    ∧ (ff32.dec 0xBF800000).val < (ff32.dec 0x3F800000).val ∧ (ff32.dec 0x80000000).signBit = true ∧ (ff32.dec 0).signBit = false
    ∧ 0x7F800001 < 2 ^ ff32.width ∧ ((-128 : Int) ≤ 127) := by
  rw [one32, minus32]
  refine ⟨by decide +kernel, by decide +kernel, by decide +kernel, by decide +kernel, by decide +kernel, by decide +kernel, ⟨-149, by decide +kernel⟩,
    by norm_num, by norm_num, by decide +kernel, by decide +kernel, by decide +kernel, by norm_num⟩
theorem witness_float_scalar : (CvtTy.f16, ff16) ∈ [(CvtTy.f64, ff64), (.f32, ff32), (.f16, ff16), (.bf16, ffbf)]
    ∧ ∃ v : FV, (Sum.inl (ff64.dec 5) : Sum FV Int) = .inl v := ⟨by simp, _, rfl⟩

/-! ### Witnesses: vectors and matrices -/

/-- A SPAN, a VL and a RIDX over words in memory and in v4. -/
def wVec (et vl ridx : Nat) (base : Word) : State :=
  (withVl (world (cpu [(3, base), (4, 8), (5, 300), (6, 0x1008)]) (memWrite [] 0x1000 (bytesOf 16 0x11112222333344443F80000040000000))) et vl ridx).mapMe fun c =>
    { c with img := { c.img with v := (c.img.v.set 4 0x3F80000040000000).set 8 0x0000000100000000, m := c.img.m.set 2 0x5 } }
/-- The largest group, an unsupported pair, and the pair 3 that no SPAN has. -/
theorem witness_vector_configuration :
    ((wVec 0x2B 0 0 0).me.spanIF = false ∧ (wVec 0x2B 0 0 0).me.img.span.toNat / 16 % 4 < 3 ∧ (wVec 0x124 0 0 0).me.spanIF = true)
    ∧ ((2 = 2 ∧ 32 ≤ ETy.f32.ew) ∧ ¬ ((1 : Nat) = 0 ∨ ((1 : Nat) = 1 ∧ 16 ≤ ETy.i8.ew) ∨ ((1 : Nat) = 2 ∧ 32 ≤ ETy.i8.ew)))
    ∧ (w0.Reaches .r 2 0x1000 8 (near 0x1000) ∧ w0.loadBytes (near 0x1000) 8 = .data ((bytesOf 8 0xFFFFFFFF80000080).map some) ∧ w0.Roomy 0x1000) := by
  simp only [memOk_iff, marked_iff, near_iff, reaches_iff, unread_iff, sound_iff, atHome_iff, serial_iff, alone_iff, spanOk_iff, oxHolds_iff, canLeave_iff, roomy_iff, calm_iff, leaves_iff, isFin_iff, rowMarked_iff]; decide +kernel
theorem witness_vector_load : let s := wVec 0xB 2 0 0x1000
    s.me.chunk = none ∧ s.me.lines = [] ∧ s.me.part = none ∧ s.SpanOk [5] ∧ (0x1000 : Word).toNat % baseAlign (s.bankFmt 0x1000) s.me.et = 0 ∧ s.bankFmt 0x1000 = none
    ∧ s.me.activeFrom 0 s.me.ridx = [0, 1] ∧ (s.getS 4).toNat % s.me.et.bytes = 0 ∧ vmode none s.me.et true false = ⟨32, 32, none⟩ := by
  (try simp only [memOk_iff, marked_iff, near_iff, reaches_iff, unread_iff, sound_iff, atHome_iff, serial_iff, alone_iff, spanOk_iff, oxHolds_iff, canLeave_iff, roomy_iff, calm_iff, leaves_iff, isFin_iff, rowMarked_iff]); decide +kernel
theorem witness_vector_load_elements :
    (wVec 0xB 2 0 0x1000).Element 0x1000 none ⟨32, 32, none⟩ (8 * 0x1000) (0x40000000, 0)
    ∧ (wVec 0xB 2 0 0x1000).Element 0x1000 none ⟨32, 32, none⟩ (8 * 0x1000 + 32) (0x3F800000, 0) :=
  ⟨⟨_, reads_of (near 0x1000) [0, 0, 0, 0x40] (by decide +kernel), by decide +kernel⟩,
   ⟨_, reads_of (near 0x1004) [0, 0, 0x80, 0x3F] (by decide +kernel), by decide +kernel⟩⟩
theorem witness_vector_load_fault : let s := wVec 0xB 2 1 0xFFFFFFFC0
    s.SpanOk [5] ∧ (s.me.activeFrom 0 s.me.ridx).head? = some 1 ∧ s.look .r 2 (bitAddr (8 * 0xFFFFFFFC0 + 32)) 4 = .trap (.of cPAGE_R 0xFFFFFFFC4)
    ∧ (0x1002 : Word).toNat % baseAlign (s.bankFmt 0x1002) s.me.et ≠ 0 := by
  (try simp only [memOk_iff, marked_iff, near_iff, reaches_iff, unread_iff, sound_iff, atHome_iff, serial_iff, alone_iff, spanOk_iff, oxHolds_iff, canLeave_iff, roomy_iff, calm_iff, leaves_iff, isFin_iff, rowMarked_iff]); decide +kernel
/-- A store of elements, and of one half-byte under a mask. -/
theorem witness_vector_store : let s := wVec 0xB 2 0 0x1000
    s.MemOk ∧ s.me.chunk = none ∧ s.me.part = none ∧ (s.die s.me.die).dir = [] ∧ s.SpanOk [4] ∧ s.me.activeFrom 0 s.me.ridx = [0, 1] ∧ s.me.perfPend = 0
    ∧ 8 ≤ (vmode (s.bankFmt 0x1000) s.me.et false false).width ∧ (0x1000 : Word).toNat % (max 1 ((vmode none s.me.et false false).unit / 8)) = 0 := by
  (try simp only [memOk_iff, marked_iff, near_iff, reaches_iff, unread_iff, sound_iff, atHome_iff, serial_iff, alone_iff, spanOk_iff, oxHolds_iff, canLeave_iff, roomy_iff, calm_iff, leaves_iff, isFin_iff, rowMarked_iff]); decide +kernel
theorem witness_vector_store_uncollapsed : (wVec 0xB 2 0 0x1000).Uncollapsed := uncollapsed_iff _ (by decide +kernel)
theorem witness_vector_store_lands :
    (wVec 0xB 2 0 0x1000).Lands (bitAddr (8 * 0x1000)) 4 (near 0x1000) ∧ (wVec 0xB 2 0 0x1000).Lands (bitAddr (8 * 0x1000 + 32)) 4 (near 0x1004)
    ∧ (wVec 0x8 2 1 0x1000).Lands (bitAddr (8 * 0x1000 + 4)) 1 (near 0x1000) :=
  ⟨lands_of (fun m => by with_unfolding_all rfl) (by decide +kernel), lands_of (fun m => by with_unfolding_all rfl) (by decide +kernel),
   lands_of (fun m => by with_unfolding_all rfl) (by decide +kernel)⟩
theorem witness_vector_store_half : let s := wVec 0x8 2 1 0x1000
    (vmode (s.bankFmt 0x1000) s.me.et false false).width = 4 ∧ s.me.activeFrom 0 s.me.ridx = [1] ∧ s.loadBytes (near 0x1000) 1 = .data [some (BitVec.ofNat 8 0)] ∧ 0 < 256 := by
  (try simp only [memOk_iff, marked_iff, near_iff, reaches_iff, unread_iff, sound_iff, atHome_iff, serial_iff, alone_iff, spanOk_iff, oxHolds_iff, canLeave_iff, roomy_iff, calm_iff, leaves_iff, isFin_iff, rowMarked_iff]); decide +kernel
theorem witness_vector_elements :
    ((wVec 0x22 192 191 0).SpanOk [4, 8, 28] ∧ (wVec 0x22 192 191 0).me.et.isInt = true) ∧ ((wVec 0x1C 256 0 0).SpanOk [4, 30] ∧ (wVec 0x1C 256 0 0).me.et.isFloat = true)
    ∧ ff32.dec 0x7F800001 = .nan true := by
  simp only [memOk_iff, marked_iff, near_iff, reaches_iff, unread_iff, sound_iff, atHome_iff, serial_iff, alone_iff, spanOk_iff, oxHolds_iff, canLeave_iff, roomy_iff, calm_iff, leaves_iff, isFin_iff, rowMarked_iff]; decide +kernel
theorem witness_vector_conversions : let s := withOx (wVec 0xB 33 0 0) 1 .pack 0xE
    s.SpanOk [4] ∧ s.me.et.isDxb = false ∧ 4 % (if s.me.spanIF then 1 else max 1 ((s.me.vlmax * ETy.f64.ew + 2047) / 2048)) = 0 ∧ 5 % (if s.me.spanIF then 1 else max 1 ((s.me.vlmax * ETy.f64.ew + 2047) / 2048)) ≠ 0
    ∧ packSrc s.me.et = true ∧ s.OxHolds 1 .pack 0xE ∧ 14 ≤ bits (0xE : Word) 0 4 ∧ s.me.et.isFloat = true ∧ s.me.ox[0].kind.toNat ≠ OxKind.pack.code := by
  (try simp only [memOk_iff, marked_iff, near_iff, reaches_iff, unread_iff, sound_iff, atHome_iff, serial_iff, alone_iff, spanOk_iff, oxHolds_iff, canLeave_iff, roomy_iff, calm_iff, leaves_iff, isFin_iff, rowMarked_iff]); decide +kernel
theorem witness_vector_reductions : let s := wVec 0xB 33 0 0
    s.SpanOk [5, 4] ∧ RedOp.add.ok s.me.et = true ∧ s.me.et = .f32 ∧ [1, 2].length = 2 ^ 1 ∧ 2 ^ 1 < [1, 2, 3].length ∧ [1, 2, 3].length ≤ 2 ^ 2 := by
  (try simp only [memOk_iff, marked_iff, near_iff, reaches_iff, unread_iff, sound_iff, atHome_iff, serial_iff, alone_iff, spanOk_iff, oxHolds_iff, canLeave_iff, roomy_iff, calm_iff, leaves_iff, isFin_iff, rowMarked_iff]); decide +kernel
theorem witness_permutations : let s := wVec 2 4 0 0
    s.SpanOk [5, 4, 8] ∧ s.SpanOk [5] ∧ s.me.et = .i32 ∧ s.me.vl ≤ 256 ∧ 2 < s.me.vl ∧ s.me.active 2 2 = true ∧ s.me.active 2 1 = false
    ∧ ∀ j, j < 4 → (wVec 2 4 0 0).me.active 5 j = false := by
  (try simp only [memOk_iff, marked_iff, near_iff, reaches_iff, unread_iff, sound_iff, atHome_iff, serial_iff, alone_iff, spanOk_iff, oxHolds_iff, canLeave_iff, roomy_iff, calm_iff, leaves_iff, isFin_iff, rowMarked_iff]); decide +kernel
/-- An `mma` of one bf16 product into an f32 accumulator, with its operands' rows. -/
def matWord (t k n : Nat) : Word := word (t * 2 ^ 60 + t * 2 ^ 56 + k * 2 ^ 47 + n * 2 ^ 40)
def wMat (w : Word) (det : Nat) : State :=
  (withOx (wVec 0xB 1 0 0x1000) 1 .mat w).mapMe fun c => { c with ctl := { c.ctl with detctl := BitVec.ofNat 2 det } }
theorem witness_mma : let s := wMat (matWord 13 1 1) 0
    s.me.chunk = none ∧ s.me.lines = [] ∧ s.me.spanIF = false ∧ s.me.vl ≤ 64 ∧ s.me.mmaAcc = none ∧ s.OxHolds 1 .mat (matWord 13 1 1)
    ∧ accTakes .bf16 s.me.img.acc[0] 1 s.me.exw = true ∧ ETy.bf16.isDxb = false ∧ 1 ≤ s.me.img.acc[0].ty.cols ∧ (0x1000 : Word).toNat % matAlign .bf16 = 0
    ∧ s.me.ridx < s.me.vl := by
  (try simp only [memOk_iff, marked_iff, near_iff, reaches_iff, unread_iff, sound_iff, atHome_iff, serial_iff, alone_iff, spanOk_iff, oxHolds_iff, canLeave_iff, roomy_iff, calm_iff, leaves_iff, isFin_iff, rowMarked_iff]); decide +kernel
theorem witness_mma_operand : (wMat (matWord 13 1 1) 0).Operand .bf16 0x1000 1 [.fin false 0 (-133)] :=
  ⟨_, readsRow_of [0, 0] rfl (by decide +kernel), by rw [if_neg (by decide)]; decide +kernel⟩
/-- A row of one DXB8 element in a bank of that format, with its two exponent bytes 64 bytes on. -/
def wDxb : State := ({ wMat (matWord 14 32 1) 0 with mem := memWrite [] (tileLoc 0 0 64) [(1 : Byte), 2] }).mapDie 0 fun d => { d with bfmt := d.bfmt.set 0 ⟨4, true, 14⟩ }
theorem witness_mma_dxb : ETy.dxb8.isDxb = true ∧ wDxb.Operand .dxb8 0x00A0000000000000 1 [(dxOf .dxb8).decode 0 1 2] := by
  refine ⟨rfl, _, readsRow_of [0] rfl (by decide +kernel), ?_⟩
  simp only [show ETy.dxb8.isDxb = true from rfl, if_true]
  refine ⟨fun _ => ofBytes [1, 2], by decide +kernel, fun b hb => ?_⟩
  obtain rfl : b = 0 := by omega
  exact ⟨64, by decide +kernel, readsRow_of [1, 2] rfl (by decide +kernel)⟩
/-- A product of finite values, of a NaN, of an infinity and a zero, and of an infinity and a number. -/
theorem witness_products : (∃ m e, ff32.dec 0x80000000 = .fin m 0 e) ∧ (¬ ∃ m e, ff32.dec 0x3F800000 = .fin m 0 e) ∧ (∃ m, ff32.dec 0x7F800000 = .inf m)
    ∧ (ff32.dec 0x7FC00000).isNan = true ∧ (ff32.dec 0x3F800000).isNan = false ∧ (ff32.dec 0x3F800000).finite
    ∧ ((∀ p ∈ [FV.inf true, .inf false], p.isNan = false) ∧ ∃ p ∈ [FV.nan false, .inf true], p.isNan = true) := by
  rw [isFin_iff]
  refine ⟨⟨true, -149, by decide +kernel⟩, fun ⟨m, e, h⟩ => ?_, ⟨false, by decide +kernel⟩, by decide +kernel, by decide +kernel, by decide +kernel, by decide, by decide⟩
  have h2 : ff32.dec 0x3F800000 = .fin false 0x800000 (-23) := by decide +kernel
  simp [h2] at h
theorem witness_mma_stops :
    accTakes .f64 (wMat (matWord 10 1 1) 0).me.img.acc[0] 1 (wMat (matWord 10 1 1) 0).me.exw = false
    ∧ (let s := wMat (matWord 13 1 1) 3; accTakes .bf16 s.me.img.acc[0] 1 s.me.exw = true ∧ s.me.exw = true ∧ ETy.bf16 ≠ .i8 ∧ s.me.img.acc[0].ty ≠ .x) := by decide +kernel
theorem witness_accumulate : (ff32.dec 0x3F800000).finite ∧ (∀ p ∈ [ff32.dec 0x3F800000], p.finite)
    ∧ (ff32.dec 0x3F800000).val + ([ff32.dec 0x3F800000].map FV.val).sum ≠ 0 ∧ (false = true ↔ (ff32.dec 0x3F800000).val + ([ff32.dec 0x3F800000].map FV.val).sum < 0) := by
  simp only [List.map_cons, List.map_nil, List.sum_cons, List.sum_nil, List.mem_singleton, forall_eq, isFin_iff]
  rw [one32]
  refine ⟨by decide +kernel, by decide +kernel, by norm_num, by norm_num⟩
def stWord (t n : Nat) : Word := word (t * 2 ^ 32 + n * 2 ^ 36 + 0x3F800000)
def wAcc (a b : AccTy) : State :=
  (withOx (wVec 0xB 1 0 0x1000) 1 .st (stWord 11 1)).mapMe fun c => { c with img := { c.img with acc := (c.img.acc.set 0 { Acc.zero with ty := a }).set 1 { Acc.zero with ty := b } } }
theorem witness_accumulators :
    (let s := wAcc .f32 .f64; s.MemOk ∧ s.me.spanIF = false ∧ s.me.mmaAcc = none ∧ s.me.vl ≤ 64 ∧ s.me.chunk = none ∧ s.me.lines = [] ∧ s.me.part = none ∧ (s.die s.me.die).dir = []
      ∧ s.OxHolds 1 .st (stWord 11 1) ∧ 1 ≤ s.me.img.acc[0].ty.cols ∧ s.me.img.acc[0].ty ≠ s.me.img.acc[1].ty ∧ (s.getS 3).toNat % 16 = 0
      ∧ upFrom s.me.ridx (s.me.vl - s.me.ridx) = [0])
    ∧ ((wAcc .i32 .i32).me.img.acc[0].ty = .i32 ∧ (wAcc .i32 .i32).me.img.acc[1].ty = .i32) ∧ (wAcc .x .x).me.img.acc[0].f = (wAcc .x .x).me.img.acc[1].f
    ∧ (wMat 0 3).me.exw = true ∧ (wVec 0x124 0 0 0).me.spanIF = true := by
  (try simp only [memOk_iff, marked_iff, near_iff, reaches_iff, unread_iff, sound_iff, atHome_iff, serial_iff, alone_iff, spanOk_iff, oxHolds_iff, canLeave_iff, roomy_iff, calm_iff, leaves_iff, isFin_iff, rowMarked_iff]); decide +kernel
theorem witness_mld : (wAcc .f32 .f32).ReadsRow 0x1000 256 (ofBytes (bytesOf 16 0x11112222333344443F80000040000000 ++ List.replicate 240 0)) :=
  readsRow_of _ rfl (by decide +kernel)
theorem witness_mst : (wAcc .f32 .f32).Uncollapsed ∧ (wAcc .f32 .f32).Lands 0x1000 4 (near 0x1000) ∧ pieces 0x1000 (List.replicate 4 0) = [(0x1000, List.replicate 4 0)]
    ∧ ∀ m, ({ wAcc .f32 .f32 with mem := m } : State).look .w 2 (word 0x1000) 4 = .ok (near 0x1000) :=
  ⟨uncollapsed_iff _ (by decide +kernel), lands_of (fun m => by with_unfolding_all rfl) (by decide +kernel), by decide +kernel, fun m => by with_unfolding_all rfl⟩

/-! ### Witnesses: geometry and the system -/

def wGeo (rec_ : Word) : State :=
  (withOx (wVec 0xB 2 0 0) 1 .geom rec_).mapMe fun c => { c with img := { c.img with v := c.img.v.set 9 0x7FC00000 } }
/-- Registers that overlap, the fields that break a check, elements that are all finite, and one that is not, with NF and without. -/
theorem witness_geometry :
    ((wGeo 0).me.geoBlocks 6 4 4 8 = false ∧ (wGeo 0).me.geoBlocks 6 30 16 8 = true ∧ (wGeo 0).SpanOk [] ∧ (wGeo 0).me.et = .f32 ∧ (wGeo 0).OxHolds 1 .geom 0)
    ∧ ((wGeo 8).me.geoFields 3 30 8 7 8 = false ∧ (wGeo 8).me.geoFields 3 30 8 6 8 = true ∧ bitAt (8 : Word) 3 = true)
    ∧ ((wGeo 0).me.activeFrom 0 (wGeo 0).me.ridx = [0, 1] ∧ ((wGeo 0).me.geoAt .gor2 16 0 0).isSome = true ∧ ((wGeo 0).me.geoAt .gor2 16 0 1).isSome = true)
    ∧ (bitAt (0 : Word) 3 = false ∧ (wGeo 0).me.geoAt .gor2 9 0 0 = none ∧ (wGeo 0).me.geoBlocks 6 30 9 8 = true ∧ (wGeo 0).me.geoFields 3 30 8 7 0 = true) := by
  simp only [memOk_iff, marked_iff, near_iff, reaches_iff, unread_iff, sound_iff, atHome_iff, serial_iff, alone_iff, spanOk_iff, oxHolds_iff, canLeave_iff, roomy_iff, calm_iff, leaves_iff, isFin_iff, rowMarked_iff]; decide +kernel
/-- Coordinates of points that are 0 or 1, as encodings. -/
def bin (l : List Nat) : List Nat := l.map fun x => if x = 0 then 0 else 0x3F800000
theorem witness_geometry_values :
    (∃ v ∈ [0x7F800000, 0], ¬ (ff32.dec v).finite) ∧ (∀ v ∈ bin [0, 0, 1, 0, 0, 1], (ff32.dec v).finite)
    ∧ ((bin [0, 0, 1, 0, 0, 1]).length = 6 ∧ (bin (List.replicate 12 0)).length = 12 ∧ (bin [0, 0, 1, 1, 0, 1, 1, 0]).length = 8 ∧ (bin (List.replicate 15 0)).length = 15)
    ∧ [1, 2, 3].length = 3 ∧ ¬ [1, 1, 3].Nodup := by
  simp only [isFin_iff]; refine ⟨⟨0x7F800000, by simp, by decide +kernel⟩, ?_⟩; decide +kernel
/-- The turns of the first two points and the third are positive, so that segments cross, touch or neither. -/
theorem witness_segments :
    let o := fun (l : List Nat) (u v w : Nat) => (((Geo.gor2.eval ff32 ([u, v, w].map fun i => [((bin l)[2 * i]?).getD 0, ((bin l)[2 * i + 1]?).getD 0]).flatten none).map fun r => r.res).getD 0 : Int)
    (o [0, 0, 1, 1, 0, 1, 1, 0] 0 1 2 * o [0, 0, 1, 1, 0, 1, 1, 0] 0 1 3 < 0 ∧ o [0, 0, 1, 1, 0, 1, 1, 0] 2 3 0 * o [0, 0, 1, 1, 0, 1, 1, 0] 2 3 1 < 0)
    ∧ (o [0, 0, 1, 0, 0, 0, 0, 1] 0 1 2 = 0 ∧ ¬ o [0, 0, 1, 0, 0, 0, 0, 1] 0 1 2 * o [0, 0, 1, 0, 0, 0, 0, 1] 0 1 3 < 0)
    ∧ (0 < o [0, 0, 1, 0, 0, 1, 1, 1] 0 1 2 ∧ ∀ q ∈ [(0, 1, 2), (0, 1, 3), (2, 3, 0), (2, 3, 1)], o [0, 0, 1, 0, 0, 1, 1, 1] q.1 q.2.1 q.2.2 ≠ 0) := by
  decide +kernel

/-- A level, and a launch header at 0x8000 of five strands, one retired, whose records stand at 0x9000 and up. -/
def headerBytes (st : Nat) : List Byte := (([1, 5, word (st * 2 ^ 62), 0x9000, 0, 0, 0x10000, 0] : List Word).map w64).flatten
def theLive : Live :=
  ⟨0xA000, 0x8000, 0x8000, 0xB000, 0x10000, 0x9000, 0x124, 3, 5, 0, BitVec.allOnes 64, 0, 0, 0, none, [(0, 8)], 0x200, 0x10000⟩
def wSys (level : Level) (l : List (SReg × Word)) : State :=
  let s := (world (cpu l) (memWrite [] 0x8000 (headerBytes 1))).mapDie 0 fun d => { d with lives := [theLive] }
  s.mapMe fun c => { c with level := level, node := 0xA000, epc := 0x5000 }
theorem witness_traps :
    (cSVC ≠ cLATE ∧ (wSys .strand []).Alone ∧ (wSys .strand []).me.part = none ∧ (wSys .strand []).me.level = .strand ∧ (wSys .strand []).me.chunk = none ∧ (wSys .strand []).me.stopReq = none ∧ (wSys .strand []).haltsOn ⟨cSVC, 5, false, 4⟩ = false
      ∧ (wSys .strand []).haltsOn ⟨cBRK, 5, false, 0⟩ = false)
    ∧ ((wSys .system []).Alone ∧ (wSys .system []).me.part = none ∧ (wSys .system []).me.level = .system ∧ ((wSys .system []).me.pc + 4).setWidth 56 ≠ (wSys .system []).me.ctl.tvec)
    ∧ (let s := (wSys .strand []).mapMe fun c => { c with stopReq := some 2 }; s.Alone ∧ s.me.part = none ∧ s.me.stopReq.isSome = true ∧ s.me.level = .strand)
    ∧ wSpec.me.chunk = some k1 ∧ k1.oldest = false := by
  simp only [memOk_iff, marked_iff, near_iff, reaches_iff, unread_iff, sound_iff, atHome_iff, serial_iff, alone_iff, spanOk_iff, oxHolds_iff, canLeave_iff, roomy_iff, calm_iff, leaves_iff, isFin_iff, rowMarked_iff]; decide +kernel
theorem witness_control :
    ((wSys .strand [(3, 0x1FF)]).me.mmaAcc = none ∧ (wSys .system []).me.level = .system)
    ∧ ((0x00F : BitVec 11).toNat ≤ 0x00F ∧ ¬ (0x010 : BitVec 11).toNat ≤ 0x00F ∧ (0x015 : BitVec 11).toNat ≤ 0x015 ∧ ¬ (0x016 : BitVec 11).toNat ≤ 0x015)
    ∧ ((4 : BitVec 11).toNat = 4 ∧ 5 ≤ (5 : Word).toNat % 8 ∧ ¬ 5 ≤ (4 : Word).toNat % 8 ∧ 0x15 ≤ (0x15 : Word).toNat % 256)
    ∧ ((0x014, (0x007FFFFFFFFF0000 : Word)) ∈ [(0x014, (0x007FFFFFFFFF0000 : Word))])
    ∧ wSpec.me.chunk = some k1 ∧ k1.oldest = false ∧ (0x100000000 : Word).getLsbD 32 = true := by decide +kernel
/-- A strand with nothing pending, and what `done` leaves of it in memory; one with a transfer in flight. -/
def lastOf (s : State) : State := (((s.mapMe fun c => { c with ending := true }).quiesce false).mapMe fun c => { c with susp := 4 }).saveLast
theorem witness_leaving : let s := wSys .strand []
    (s.Alone ∧ s.me.wait = none ∧ s.me.mmaAcc = none ∧ s.me.ilk = [] ∧ s.settled .mask 0xFFFF = true ∧ s.me.level = .strand)
    ∧ (let u := ((lastOf s).writeRecord (lastOf s).me rsRETIRED 4 0).1; Memory.wf u.mem = true ∧ u.rd 0x8000 + 1 ≠ u.rd 0x8008)
    ∧ s.CanLeave false (fun c => { c with pc := c.pc + 4, stepDue := c.step }) rsREADY 5
    ∧ s.CanLeave false (fun c => { c with pc := c.pc + word 4, stepDue := c.stepDue || (c.step && 4 != 0) }) rsMIGRATING 3
    ∧ (s.mapMe fun c => { c with ilk := [⟨.cpIn, 1, 0, 0, 0, 0, 0, 0, 0, 0⟩] }).me.ilk ≠ [] := by
  (try simp only [memOk_iff, marked_iff, near_iff, reaches_iff, unread_iff, sound_iff, atHome_iff, serial_iff, alone_iff, spanOk_iff, oxHolds_iff, canLeave_iff, roomy_iff, calm_iff, leaves_iff, isFin_iff, rowMarked_iff]); decide +kernel
def wWait : State := (wSys .strand []).mapMe fun c => { c with perfPend := 1 }
theorem witness_not_ready : wWait.Alone ∧ wWait.settled .mask 0xFFFF = false ∧ wWait.settled .die 0 = false ∧ wWait.me.chunk = none
    ∧ (wSys .strand []).settled .die 0 = true := by
  simp only [memOk_iff, marked_iff, near_iff, reaches_iff, unread_iff, sound_iff, atHome_iff, serial_iff, alone_iff, spanOk_iff, oxHolds_iff, canLeave_iff, roomy_iff, calm_iff, leaves_iff, isFin_iff, rowMarked_iff]; decide +kernel
theorem witness_hop : let s := wSys .strand [(3, 16), (4, 15), (5, 1), (6, 0)]
    16 ≤ (s.getS 3).toNat ∧ s.present (s.getS 4).toNat = true ∧ (s.getS 6).toNat = s.me.die.val ∧ classAllows (s.nodeClass s.me.node) 0 = true
    ∧ (s.getS 5).toNat < 16 ∧ (s.getS 5).toNat ≠ s.me.die.val ∧ classAllows (s.nodeClass s.me.node) (Fin.ofNat 16 (s.getS 5).toNat) = true := by decide +kernel
def wClassS : State := let s := wSys .strand [(3, 6)]; { s with mem := memWrite s.mem 0xA014 [(0x02 : Byte)] }
theorem witness_hop_class : (wClassS.getS 3).toNat < 16 ∧ wClassS.present 6 = true ∧ (List.finRange 16).any (fun d => !classAllows (wClassS.nodeClass wClassS.me.node) d) = true := by decide +kernel
theorem witness_tlbinv :
    (let s := wSys .system [(3, 0x80000000000000), (4, 0x7FFFFFFFFFFFFF)]; s.me.level = .system ∧ s.me.answer = none ∧ 2 ^ 55 ≤ (s.getS 3).toNat ∧ (s.getS 4).toNat < 2 ^ 55
      ∧ s.settled .mask s.me.dmask = true ∧ (s.maskDies s.me.dmask).any (fun e => e != s.me.die) = true)
    ∧ (let s := (wSys .system []).mapMe fun c => { c with dmask := 1 }; s.maskDies s.me.dmask = [s.me.die])
    ∧ (let s := (wSys .system []).mapMe fun c => { c with perfPend := 1 }; s.settled .mask s.me.dmask = false)
    ∧ (let s := (wSys .system []).mapMe fun c => { c with answer := some (.value 0 0 none) }; s.me.answer.isSome = true) := by decide +kernel
/-- A strand that waits to be dispatched. -/
def waits (strand : Word) : Waiting := ⟨strand, 0x9000, 0x10000, 0x8000, 0xA000, 0, 7, 0, 0, 5, false, false, false, false, 0⟩
theorem witness_cancel : let s := wSys .strand []
    (s.cnclEffect 0 0x12500000000).isNone = true
    ∧ (let s := s.mapMe fun c => { c with strand := 0x12400000003 }
       s.liveOfStrand 0x12400000002 = some theLive ∧ serialOf 0x12400000002 = serialOf s.me.strand ∧ (0x12400000002 : Word) ≠ s.me.strand ∧ indexOf 0x12400000002 < theLive.next
       ∧ s.markedStrand 0x12400000002 = false ∧ (∀ o ∈ s.busy, o.strand ≠ 0x12400000002) ∧ s.awayOf 0x12400000002 = none
       ∧ ∃ w ∈ ((s.mapDie 3 fun d => { d with ready := [waits 0x12400000002] }).die 3).ready, w.strand = 0x12400000002)
    ∧ (let s := (wSys .system []).mapDie 0 fun d => { d with lives := [], past := [(0x124, 5)] }; s.liveOfStrand 0x12400000002 = none ∧ s.me.level = .system ∧ s.wasStrand 0x12400000002 = true) := by
  (try simp only [memOk_iff, marked_iff, near_iff, reaches_iff, unread_iff, sound_iff, atHome_iff, serial_iff, alone_iff, spanOk_iff, oxHolds_iff, canLeave_iff, roomy_iff, calm_iff, leaves_iff, isFin_iff, rowMarked_iff]); decide +kernel


/-! ### Witnesses: strands and slots -/

/-- What a meaning left behind; the state before it where it stopped. -/
def left (s : State) (r : Res) : State := match r with | .next t => t | _ => s
/-- A strand that has yielded, on a die too hot for new ones. -/
def wYielded : State := let s := wSys .strand [(3, 7)]; (left s (execYield s)).mapDie 0 fun d => { d with hot := true }
def wNew : State := let s := world (Ctx.reset 0 0) (memWrite [] 0x8000 (headerBytes 1)); s.mapDie 0 fun d => { d with lives := [theLive] }
def best (s : State) (d : DieId) : Option Waiting :=
  bestOf (((s.die d).ready.filter fun w => classAllows w.cls d && !s.isCancelled w.strand) ++ if (s.die d).hot then [] else (s.fresh? d).map fun q => q.1)
/-- The keys of a ready strand in turn: priority, a quantum that has run out, a new strand, the deadline, the time, the number; then those that yielded. -/
theorem witness_ranks : let w := waits 5
    (w.prio.toNat < ({ w with prio := 7 } : Waiting).prio.toNat) ∧ (w.sliced = false ∧ ({ w with sliced := true } : Waiting).sliced = true)
    ∧ (w.yielded = false ∧ w.isNew = false ∧ ({ w with isNew := true } : Waiting).isNew = true) ∧ (w.deadline.toNat < ({ w with deadline := 9 } : Waiting).deadline.toNat)
    ∧ (({ w with since := 1 } : Waiting).since < ({ w with since := 2 } : Waiting).since) ∧ (w.strand.toNat < (waits 6).strand.toNat)
    ∧ (({ w with yielded := true } : Waiting).yielded = true ∧ w.since ≤ ({ w with yielded := true } : Waiting).since ∧ ({ w with yielded := true, since := 1 } : Waiting).since < ({ w with since := 2 } : Waiting).since)
    ∧ (bestOf [waits 6, w] = some w ∧ ∀ q ∈ [waits 6, w], q.yielded = false) ∧ bestOf [] = none
    ∧ ((w0.mapDie 0 fun d => { d with rings := Vector.replicate 9 ⟨none, 0, 3⟩ }).pickSlot 0 = none ∧ w0.pickSlot 0 ≠ none) := by decide +kernel
theorem witness_dispatch :
    (let s := wYielded; s.pickSlot 0 = some 0 ∧ (match best s 0 with
      | some x => decide (x.isNew = false) && ((s.mapDie 0 fun y => { y with ready := y.ready.filter fun o => o.strand != x.strand }).resumeStrand 0 0 x).any fun p => p.2.isNone
      | none => false) = true)
    ∧ (let s := wNew; s.pickSlot 0 = some 0 ∧ (match best s 0 with
      | some x => x.isNew && decide ((s.fresh? 0).find? (fun q => q.1.strand == x.strand) = some (x, 0, theLive))
      | none => false) = true ∧ (s.die 0).hot = false ∧ theLive.staged.contains (0, 8) = true ∧ s.hasStage theLive = false ∧ s.staging 0 0 theLive.node = false
      ∧ (((s.mapLive 0 theLive.header fun l => l.took (s.nextIndex theLive)).count 0 6 0 0 1).startStrand 0 0 theLive (s.nextIndex theLive)).isSome = true) := by
  (try simp only [memOk_iff, marked_iff, near_iff, reaches_iff, unread_iff, sound_iff, atHome_iff, serial_iff, alone_iff, spanOk_iff, oxHolds_iff, canLeave_iff, roomy_iff, calm_iff, leaves_iff, isFin_iff, rowMarked_iff]); decide +kernel
/-- A strand whose die has no free slot, beside one that waits. -/
def wFull : State :=
  { (wSys .strand []).mapDie 0 fun d => { d with rings := Vector.replicate 9 ⟨none, 0, 1⟩, ready := [waits 0x12400000001] } with tick := 70000 }
theorem witness_preemption : let s := wFull
    s.ctx? 0 0 = some s.me ∧ s.me.die = 0 ∧ s.me.slot = 0 ∧ s.me.state = .running ∧ s.me.stopReq = none ∧ s.me.stopLater = false
    ∧ ((s.count 0 6 0 2 (if s.isVictim s.me then 1 else 0)).focus 0 0).markStop.CanLeave false (fun c => { c with wend := none }) rsREADY 2
    ∧ bits (s.die 0).regs.rsvctl 32 16 ≠ 0 ∧ s.me.dispatched + bits (s.die 0).regs.rsvctl 32 16 * 1024 ≤ s.tick
    ∧ (s.pressing 0).any (fun w => w.prio == s.me.prio) = true ∧ ((s.count 0 6 0 2 1).focus 0 0).markStop.CanLeave false (fun c => { c with wend := none }) rsREADY 2
    ∧ (wSys .system []).me.level = .system ∧ (wSys .system []).ctx? 0 0 = some (wSys .system []).me := by
  (try simp only [memOk_iff, marked_iff, near_iff, reaches_iff, unread_iff, sound_iff, atHome_iff, serial_iff, alone_iff, spanOk_iff, oxHolds_iff, canLeave_iff, roomy_iff, calm_iff, leaves_iff, isFin_iff, rowMarked_iff]); decide +kernel
def waitOn (f : WaitFor) (entry : Bool := false) : Wait := ⟨f, 0x3000, 1000, 1000, 2000, entry, 0, 4000, false⟩
def wSpin (w : Wait) : State := { (wSys .strand []).mapMe fun c => { c with wait := some w } with tick := 5096 }
/-- Waits with an entry and without, one that needs none, and one on a reservation. -/
theorem witness_park : ∀ w ∈ [waitOn .fullEmpty true, waitOn .barrier, waitOn .group, waitOn .reservation], let s := wSpin w
    s.ctx? 0 0 = some s.me ∧ s.me.wait = some w ∧ w.woken = false ∧ w.since + 4096 ≤ s.tick ∧ s.me.level = .strand ∧ s.me.sent = none
    ∧ s.me.stopReq = none ∧ (s.focus 0 0).CanLeave true (fun c => { c with wend := w.wend }) (if w.what = .reservation then rsREADY else if w.parks then rsPARKED else rsDEEP) 1 := by
  (try simp only [memOk_iff, marked_iff, near_iff, reaches_iff, unread_iff, sound_iff, atHome_iff, serial_iff, alone_iff, spanOk_iff, oxHolds_iff, canLeave_iff, roomy_iff, calm_iff, leaves_iff, isFin_iff, rowMarked_iff]); decide +kernel
def parked (deep : Bool) : Parked := ⟨waits 0x12400000002, deep, waitOn .barrier⟩
def wParked (deep : Bool) : State :=
  let s := (wSys .strand []).mapDie 0 fun d => { d with parked := [parked deep], waiters := [⟨.barrier, false, 0x3000, 0, 0x12400000002⟩] }
  { s with tick := 70000, net := [.wake 0 0x12400000002 0x3000] }
theorem witness_parked : ∀ deep ∈ [false, true], let s := wParked deep
    s.parkedOf 0x12400000002 = some (0, parked deep) ∧ (waits 0x12400000002).since + 4096 ≤ s.tick
    ∧ (waits 0x12400000002).since + Max.max 1 (bits (s.die 0).regs.rsvctl 16 16) * 1024 ≤ s.tick
    ∧ (∀ o ∈ s.busy, o.strand ≠ 0x12400000002) ∧ (waitOn .barrier).what = .barrier ∧ (waitOn .barrier).t0 + (waitOn .barrier).lim ≤ s.tick
    ∧ s.arrive 0 = some (.wake 0 0x12400000002 0x3000, []) ∧ (deep = false → (s.die 0).parked.find? (fun q => q.w.strand == 0x12400000002 && q.wait.hears 0x3000 && (!q.deep || q.wait.what == .group)) = some (parked deep)) := by
  (try simp only [memOk_iff, marked_iff, near_iff, reaches_iff, unread_iff, sound_iff, atHome_iff, serial_iff, alone_iff, spanOk_iff, oxHolds_iff, canLeave_iff, roomy_iff, calm_iff, leaves_iff, isFin_iff, rowMarked_iff]); decide +kernel
theorem witness_woken : let s : State := { wSpin (waitOn .barrier) with net := [.wake 0 0x123 0x3000] }
    s.arrive 0 = some (.wake 0 0x123 0x3000, []) ∧ s.busy.find? (fun o => o.strand == 0x123 && o.wait.any fun w => w.hears 0x3000) = some s.me ∧ s.ctx? 0 0 = some s.me
    ∧ s.me.sent = none ∧ s.me.answer = none ∧ (s.mapMe fun c => { c with sent := some 4 }).me.sent.isSome = true
    ∧ s.busy.find? (fun o => o.strand == 0x123 && o.wait.any fun w => w.what == .barrier && decide (w.t0 + w.lim ≤ s.tick)) = some s.me
    ∧ (∀ q ∈ (s.die 0).waiters, q.strand = 0x123 → q.what ≠ .queue) := by
  (try simp only [memOk_iff, marked_iff, near_iff, reaches_iff, unread_iff, sound_iff, atHome_iff, serial_iff, alone_iff, spanOk_iff, oxHolds_iff, canLeave_iff, roomy_iff, calm_iff, leaves_iff, isFin_iff, rowMarked_iff]); decide +kernel
theorem witness_retry : ∀ f ∈ [WaitFor.barrier, .fullEmpty, .queue], let s := wSpin (waitOn f)
    s.ctx? 0 0 = some s.me ∧ s.me.wait = some (waitOn f) ∧ (waitOn f).entry = false ∧ (waitOn f).retryAt ≤ s.tick := by
  (try simp only [memOk_iff, marked_iff, near_iff, reaches_iff, unread_iff, sound_iff, atHome_iff, serial_iff, alone_iff, spanOk_iff, oxHolds_iff, canLeave_iff, roomy_iff, calm_iff, leaves_iff, isFin_iff, rowMarked_iff]); decide +kernel
def forming : Group := { Group.free 9 with state := .forming, gen := 3, forming := some ⟨[⟨0, 1⟩, ⟨0, 0⟩], 0, false, false, 1000, 0x123, 500⟩ }
def wForming : State := { wGroup forming with tick := 1500 }
theorem witness_gform_timeout : let s := wForming
    forming ∈ (s.die 0).groups ∧ 500 + 1000 ≤ s.tick
    ∧ ∀ e ∈ allDies, ∀ o ∈ (s.die e).groups, o.forming.any (fun q => q.strand == 0x123) = true → e = 0 ∧ o = forming := by
  (try simp only [memOk_iff, marked_iff, near_iff, reaches_iff, unread_iff, sound_iff, atHome_iff, serial_iff, alone_iff, spanOk_iff, oxHolds_iff, canLeave_iff, roomy_iff, calm_iff, leaves_iff, isFin_iff, rowMarked_iff]); decide +kernel
/-- A strand that is cancelled and whose stores have settled, and what its record's write leaves. -/
def wMarked : State := (wSys .strand []).mapDie 0 fun d => { d with cancelled := [0x123] }
def ended (s : State) : State :=
  let v := ((s.quiesce false).saveArea (s.quiesce false).me false none).1.mapMe fun c => { c with susp := 7 }
  (v.writeRecord v.me rsRETIRED 7 0).1
theorem ends_iff (s u : State) : s.CanEnd u ↔ ((s.quiesce false).me.drained = true ∧ (s.quiesce false).me.ilk = [] ∧ (s.quiesce false).alone = true ∧ (s.quiesce false).settled .mask 0xFFFF = true ∧ s.me.susp ≠ 7
    ∧ ((s.quiesce false).saveArea (s.quiesce false).me false none).2 = true ∧ ((s.quiesce false).saveArea (s.quiesce false).me false none).1.me.ilk = [] ∧ ((s.quiesce false).saveArea (s.quiesce false).me false none).1.alone = true
    ∧ ((s.quiesce false).saveArea (s.quiesce false).me false none).1.settled .mask 0xFFFF = true ∧ ended s = u ∧ Memory.wf u.mem = true ∧ u.rd s.me.header + 1 ≠ u.rd (s.me.header + 8)) := Iff.rfl
theorem witness_cancel_stop : let s := wMarked
    s.isCancelled s.me.strand = true ∧ s.slotOfStrand s.me.strand = some s.me ∧ s.ctx? 0 0 = some s.me ∧ s.me.stopLater = false ∧ s.me.stopReq = none ∧ s.me.iword ≠ 0xFC04
    ∧ (s.focus 0 0).markStop.CanEnd (ended (s.focus 0 0).markStop) := by simp only [ends_iff]; decide +kernel
def wLate : State := { (wSys .strand []).mapMe fun c => { c with deadline := 100, latem := true, overdue := 1 } with tick := 101, net := [.migrate (waits 0x12400000001) 3 0] }
theorem witness_late : let s := wLate
    s.ctx? 0 0 = some s.me ∧ s.lateDue 0 (.access 0) = some (100, some s.me.strand) ∧ (100 : Word).toNat < s.tick ∧ (∃ o ∈ s.busy, o.strand = s.me.strand)
    ∧ s.lateDue 0 .management = some (0, none) ∧ ({ s with tick := 100 } : State).tick ≤ (100 : Word).toNat ∧ s.me.part = none ∧ s.me.state = .running ∧ s.me.level = .strand ∧ s.me.latem = true ∧ s.me.latet = false ∧ s.Alone ∧ s.me.sent = none
    ∧ s.me.answer = none ∧ s.me.wait = none ∧ s.me.stopReq = none ∧ s.me.stepDue = false ∧ s.me.ending = false ∧ s.arrive 0 = some (.migrate (waits 0x12400000001) 3 0, []) := by
  (try simp only [memOk_iff, marked_iff, near_iff, reaches_iff, unread_iff, sound_iff, atHome_iff, serial_iff, alone_iff, spanOk_iff, oxHolds_iff, canLeave_iff, roomy_iff, calm_iff, leaves_iff, isFin_iff, rowMarked_iff]); decide +kernel

/-! ### Witnesses: the rill -/

def younger (q : Option Chunk) : Ctx := { cpu [(3, 0x77), (4, 9)] with slot := 4, state := .claimed, chunk := q }
/-- A region of two slots: chunk 2 on core 0, a slot claimed on core 1, and a message of core 0. -/
def wRing (q2 q3 : Option Chunk) (next : Nat) (net : List Packet) : State :=
  let s := world { cpu [(3, 0x55), (4, 9)] with chunk := q2 } []
  { s with others := [younger q3], net := net,
           regions := [⟨0, 0, 0x123, 0x00A0000000000100, 0x00A0000000000200, 4, { Image.reset with vl := 5 }, .none, 1, [], [0, 4], 2, true, next, 2, s.me.s.set (5 : Fin 32) 6, s.me.ox, .none⟩] }
def q2 : Chunk := Chunk.start 2 true
def q3 : Chunk := { Chunk.start 3 false with wr := [(0x2000, 7)], valid := [(0x3000, 1), (0x3001, 2)] }
def msg (hops : Nat) (m : RillMsg) : List Packet := [.rill 0 0 0 hops 0x123 2 m]
def rillOf (hops : Nat) (m : RillMsg) : Rill := ⟨0, 0, 0, hops, 0x123, 2, m⟩
/-- The slot that a message of core 0 comes to, and its chunk. -/
def meetsQ (s : State) (m : RillMsg) (q : Chunk) : Prop :=
  s.Leaves 0 (rillOf 0 m) [] ∧ s.youngerAt (rillOf 0 m).next = some (younger (some q), q) ∧ s.ctx? 0 4 = some (younger (some q))
theorem witness_claim :
    (let s := wRing (some q2) none 3 (msg 1 (.claim 1 3))
     s.Leaves 0 (rillOf 1 (.claim 1 3)) [] ∧ s.busy.find? (fun c => c.strand == 0x123) = some s.me ∧ s.me.die = 0 ∧ 1 < 7 ∧ s.freeSlotOf 0 0 2 = some 8)
    ∧ (let s := wRing (some q2) none 3 (msg 1 (.claim 1 3)); ({ s with others := s.others ++ [8, 9, 10, 11].map fun k => { Ctx.reset 0 k with state := .running, strand := 5 } } : State).freeSlotOf 0 0 2 = none)
    ∧ (wRing (some q2) none 3 (msg 7 (.claim 2 3))).Leaves 0 (rillOf 7 (.claim 2 3)) [] := by
  (try simp only [memOk_iff, marked_iff, near_iff, reaches_iff, unread_iff, sound_iff, atHome_iff, serial_iff, alone_iff, spanOk_iff, oxHolds_iff, canLeave_iff, roomy_iff, calm_iff, leaves_iff, isFin_iff, rowMarked_iff]); decide +kernel
theorem witness_chunks_start :
    (let s := wRing (some q2) none 3 []; s.ctx? 0 4 = some (younger none) ∧ (s.regions.find? fun r => r.strand == 0x123).any (fun r =>
        r.slots.contains 4 && decide (r.slotFor r.next = 4) && r.claimed) = true ∧ (younger none).state = .claimed ∧ s.finalSeen 0x123 = false)
    ∧ (let q := { q3 with restart := true }; let s := wRing (some q2) (some q) 4 []; s.ctx? 0 4 = some (younger (some q)) ∧ q.restart = true) := by
  (try simp only [memOk_iff, marked_iff, near_iff, reaches_iff, unread_iff, sound_iff, atHome_iff, serial_iff, alone_iff, spanOk_iff, oxHolds_iff, canLeave_iff, roomy_iff, calm_iff, leaves_iff, isFin_iff, rowMarked_iff]); decide +kernel
theorem witness_liveout :
    (meetsQ (wRing (some q2) (some q3) 4 (msg 0 (.liveout 3 0x55))) (.liveout 3 0x55) q3 ∧ q3.j = 2 + 1 ∧ q3.restart = false ∧ q3.oldest = false
      ∧ q3.fin.getLsbD 3 = false ∧ q3.weir = false ∧ q3.pred = [])
    ∧ (let q := { q3 with rx := 8, pred := [(3, 0x56)] }; meetsQ (wRing (some q2) (some q) 4 (msg 0 (.liveout 3 0x55))) (.liveout 3 0x55) q
      ∧ q.rx.getLsbD 3 = true ∧ (3, (0x55 : Word) + 1) ∈ q.pred) := by unfold meetsQ; (simp only [memOk_iff, marked_iff, near_iff, reaches_iff, unread_iff, sound_iff, atHome_iff, serial_iff, alone_iff, spanOk_iff, oxHolds_iff, canLeave_iff, roomy_iff, calm_iff, leaves_iff, isFin_iff, rowMarked_iff]; decide +kernel)
theorem witness_oxw :
    (meetsQ (wRing (some q2) (some q3) 4 (msg 0 (.oxw 2 ⟨9, 1, false⟩))) (.oxw 2 ⟨9, 1, false⟩) q3 ∧ q3.oxRead.getLsbD 2 = false ∧ q3.oxWrote.getLsbD 2 = false ∧ q3.oxFrom = [])
    ∧ (let q := { q3 with oxRead := 4 }; meetsQ (wRing (some q2) (some q) 4 (msg 0 (.oxw 2 ⟨9, 1, false⟩))) (.oxw 2 ⟨9, 1, false⟩) q ∧ q.oxRead.getLsbD 2 = true) := by
  unfold meetsQ; (simp only [memOk_iff, marked_iff, near_iff, reaches_iff, unread_iff, sound_iff, atHome_iff, serial_iff, alone_iff, spanOk_iff, oxHolds_iff, canLeave_iff, roomy_iff, calm_iff, leaves_iff, isFin_iff, rowMarked_iff]; decide +kernel)
theorem witness_violation :
    (meetsQ (wRing (some q2) (some q3) 4 (msg 0 (.store (sectorOf 0x3000) 1))) (.store (sectorOf 0x3000) 1) q3 ∧ q3.spec = true ∧ q3.er.contains (sectorOf 0x3000) = false)
    ∧ (let q := { q3 with er := [0x3000] }; meetsQ (wRing (some q2) (some q) 4 (msg 0 (.store (sectorOf 0x3000) 1))) (.store (sectorOf 0x3000) 1) q ∧ q.er.contains (sectorOf 0x3000) = true)
    ∧ meetsQ (wRing (some q2) (some q3) 4 (msg 0 (.squash .memory))) (.squash .memory) q3 := by unfold meetsQ; (simp only [memOk_iff, marked_iff, near_iff, reaches_iff, unread_iff, sound_iff, atHome_iff, serial_iff, alone_iff, spanOk_iff, oxHolds_iff, canLeave_iff, roomy_iff, calm_iff, leaves_iff, isFin_iff, rowMarked_iff]; decide +kernel)
theorem witness_commit : let s := wRing none (some q3) 4 (msg 0 .commit)
    meetsQ s .commit q3 ∧ 2 + 1 < 4 ∧ (s.regions.find? fun r => r.strand == 0x123).any (fun r => !q3.misread r && decide (r.next = 4)) = true
    ∧ (s.chunkCtx 0x123 (2 + 1)).any (fun c => c.chunk.any fun b => b.oldest) = false := by unfold meetsQ; (simp only [memOk_iff, marked_iff, near_iff, reaches_iff, unread_iff, sound_iff, atHome_iff, serial_iff, alone_iff, spanOk_iff, oxHolds_iff, canLeave_iff, roomy_iff, calm_iff, leaves_iff, isFin_iff, rowMarked_iff]; decide +kernel)
/-- The oldest chunk at the weir: with its commit list, the last sector of it, and drained. -/
def qEnd (final : Bool) (commit : List Nat) : Chunk :=
  { q2 with ended := true, final := final, wr := [(0x2000, 7), (0x2040, 8)], commit := commit, spec := !commit.isEmpty, weir := !commit.isEmpty }
theorem witness_weir :
    (∀ f ∈ [true, false], let s := wRing (some (qEnd f [])) none 3 []; s.ctx? 0 0 = some s.me ∧ (s.regions.find? fun r => r.strand == 0x123).any (fun r => decide (2 ≤ r.slots.length)) = true
      ∧ s.me.chunk = some (qEnd f []) ∧ (qEnd f []).oldest = true ∧ (qEnd f []).ended = true ∧ (qEnd f []).final = f ∧ s.me.mmaAcc = none ∧ (s.regions.find? fun r => r.strand == 0x123).any (fun r => r.todo.isEmpty) = true ∧ (qEnd f []).restart = false ∧ (qEnd f []).spec = false
      ∧ ∃ b ∈ s.busy, b.strand = s.me.strand ∧ b.at s.me.die s.me.slot = false ∧ b.state = .claimed)
    ∧ (let s := wRing (some (qEnd false [0x2000, 0x2040])) none 3 []; let q := qEnd false [0x2000, 0x2040]
       s.me.chunk = some q ∧ q.spec = true ∧ q.weir = true ∧ q.commit = 0x2000 :: [0x2040] ∧ [0x2040] ≠ [] ∧ s.MemOk ∧ cellsFrom 0 q.wr = true
       ∧ (∀ b ∈ q.wr, sectorOf b.1 = 0x2000 → homeOf b.1 = s.me.die) ∧ s.storeRoom s.me 0x2000 32 = true ∧ q.ordered.contains 0x2000 = false)
    ∧ (let s := wRing (some (qEnd false [])) none 3 []; let t : State := { s with others := [], regions := s.regions.map fun r => { r with slots := [0] } }
       t.ctx? 0 0 = some t.me ∧ (t.regions.find? fun r => r.strand == 0x123).any (fun r => decide (r.slots.length ≤ 1)) = true) := by
  (try simp only [memOk_iff, marked_iff, near_iff, reaches_iff, unread_iff, sound_iff, atHome_iff, serial_iff, alone_iff, spanOk_iff, oxHolds_iff, canLeave_iff, roomy_iff, calm_iff, leaves_iff, isFin_iff, rowMarked_iff]); decide +kernel
theorem witness_release : let s : State := { wRing none none 3 (msg 0 .release) with regions := [] }
    s.Leaves 0 (rillOf 0 .release) [] ∧ s.ctx? 0 4 = some (younger none) ∧ ringOf 4 = 0 ∧ coreOf 4 = (rillOf 0 .release).next.core := by
  (try simp only [memOk_iff, marked_iff, near_iff, reaches_iff, unread_iff, sound_iff, atHome_iff, serial_iff, alone_iff, spanOk_iff, oxHolds_iff, canLeave_iff, roomy_iff, calm_iff, leaves_iff, isFin_iff, rowMarked_iff]); decide +kernel
theorem witness_older_version : let q := { q2 with wr := [(0x4000, 5)] }; let s := wRing (some q) (some q3) 4 []
    s.ctx? 0 4 = some (younger (some q3)) ∧ q3.spec = true ∧ q3.restart = false ∧ q3.ended = false ∧ s.olderBytes (younger (some q3)) q3 (sectorOf 0x4008) ≠ []
    ∧ s.chunkCtx 0x123 2 = some s.me ∧ s.me.chunk = some q ∧ cellGet q.wr 0x4000 = some 5 ∧ cellGet q3.wr 0x4000 = none ∧ cellGet q3.valid 0x4000 = none := by
  (try simp only [memOk_iff, marked_iff, near_iff, reaches_iff, unread_iff, sound_iff, atHome_iff, serial_iff, alone_iff, spanOk_iff, oxHolds_iff, canLeave_iff, roomy_iff, calm_iff, leaves_iff, isFin_iff, rowMarked_iff]); decide +kernel

/-! ### Witnesses: homes and coherence -/

/-- A request of slot 3 of die 1 arrives at a location of die 0. -/
def ask (s : State) (loc : Nat) (op : HomeOp) : State := { s with net := [.request 9 1 3 0x555 loc op] }
def askedOf (s : State) (loc : Nat) (op : HomeOp) : Prop := s.arrive 0 = some (.request 9 1 3 0x555 loc op, []) ∧ s.MemOk
  ∧ ∀ q ∈ s.net.take 0, ∀ i e j st l o, q = .request i e j st l o → st = (0x555 : Word) → l / 8 ≠ loc / 8
theorem asked_of {s : State} {loc : Nat} {op : HomeOp} (h : s.arrive 0 = some (.request 9 1 3 0x555 loc op, []) ∧ Memory.wf s.mem = true) : askedOf s loc op :=
  ⟨h.1, h.2, by simp⟩
theorem witness_home_requests :
    (askedOf (ask w0 0x1000 (.amo .add 8 5)) 0x1000 (.amo .add 8 5) ∧ isDevice 0x1000 = false ∧ (ask w0 0x1000 (.amo .add 8 5)).Sound 0x1000 8)
    ∧ (askedOf (ask wEmpty 0x1000 (.stFe 6)) 0x1000 (.stFe 6) ∧ (ask wEmpty 0x1000 (.stFe 6)).isEmpty 0x1000 = true)
    ∧ (let s := ask (wQueue 0 2 0 0 4) 0x1000 (.put [1, 2, 3, 4, 5, 6, 7, 8] true); askedOf s 0x1000 (.put [1, 2, 3, 4, 5, 6, 7, 8] true) ∧ (s.qcb 0x1000).ok = true
      ∧ (s.qcb 0x1000).es = 8 ∧ (s.qcb 0x1000).count < (s.qcb 0x1000).cap ∧ 0x1000 + 64 ≤ (s.qcb 0x1000).slot (s.qcb 0x1000).tail)
    ∧ askedOf (ask (wQueue 0 2 0 0 4) 0x1000 .qstat) 0x1000 .qstat
    ∧ (askedOf (ask (wBar (2 * 2 ^ 40) 0) 0x1000 .barr) 0x1000 .barr ∧ 2 ≤ (Bar.ofWord ((ask (wBar (2 * 2 ^ 40) 0) 0x1000 .barr).rd 0x1000)).arr) := by
  refine ⟨⟨asked_of ?_, ?_⟩, ⟨asked_of ?_, ?_⟩, ⟨asked_of ?_, ?_⟩, asked_of ?_, asked_of ?_, ?_⟩ <;> (try simp only [sound_iff]) <;> decide +kernel
/-- The slot whose turn it is awaits answer 9. -/
def wSent (net : List Packet) : State := { w0.mapMe fun c => { c with sent := some 9, perfPend := 3, colPend := c.colPend.set 1 2 } with net := net }
def pend1 : Pend := ⟨7, 2 ^ 36 + 0x2000, [(2 ^ 36 + 0x2001, 5), (2 ^ 36 + 0x2004, 0)], [], false, [.slots [(0, 0)]], false⟩
def line1 : Line := ⟨2 ^ 36 + 0x2000, (List.replicate 256 (none : Option Byte))⟩
theorem witness_home_answers :
    (let s := wSent [.reply 9 0 0 0x1000 .qstat (.value 5 0 none)]
     s.arrive 0 = some (.reply 9 0 0 0x1000 .qstat (.value 5 0 none), []) ∧ collapseFirst (s.net.take 0) 0 (lineOf 0x1000) = false ∧ s.ctx? 0 0 = some s.me ∧ s.me.sent = some 9)
    ∧ (let s := (wSent [.pending 0 7]).mapDie 0 fun d => { d with pend := [pend1] }
       s.arrive 0 = some (.pending 0 7, []) ∧ (s.die 0).pend.find? (fun q => q.id == 7) = some pend1
       ∧ (∀ q ∈ (s.die 0).pend.takeWhile fun q => q.id != pend1.id, q.sector ≠ pend1.sector)
       ∧ pend1.halves = [] ∧ cellsFrom 0 pend1.bytes = true ∧ (∀ c ∈ pend1.bytes, sectorOf c.1 = pend1.sector) ∧ s.MemOk)
    ∧ (let s := wSent [.perf 0 7 [(0, 0)] [(0, 0)] 2]; s.arrive 0 = some (.perf 0 7 [(0, 0)] [(0, 0)] 2, []) ∧ s.ctx? 0 0 = some s.me)
    ∧ (let s := wSent [.cack 1 (.slot 0 0)]; s.arrive 0 = some (.cack 1 (.slot 0 0), []) ∧ s.me.colPend[1] ≠ 0 ∧ s.perfDue 1 (.slot 0 0) = false)
    ∧ (let s := wSent [.cack 1 (.slot 0 0), .perf 0 7 [(0, 0)] [(0, 0)] 2]; (s.arrive 0).any (fun q => decide (q.1 = .cack 1 (.slot 0 0))) = true ∧ s.perfDue 1 (.slot 0 0) = true)
    ∧ (let s := wSent [.read 9 1 3 0x2000 0 .load]; s.arrive 0 = some (.read 9 1 3 0x2000 0 .load, []) ∧ (s.setWays (homeOf 0x2000) 0x2000).length < Config.sliceWays)
    ∧ (let s := wSent [.fill 9 0 0 line1 true true (.strand 5 5) false []]; s.arrive 0 = some (.fill 9 0 0 line1 true true (.strand 5 5) false [], []) ∧ s.Serial
       ∧ ((s.die 0).pend.any fun q => lineOf q.sector == line1.line) = false ∧ (((s.mapDie 0 fun d => { d with pend := [pend1] }).die 0).pend.any fun q => lineOf q.sector == line1.line) = true)
    ∧ (let s := wSent [.fill 9 0 0 line1 true true .load false []]
       s.arrive 0 = some (.fill 9 0 0 line1 true true .load false [], []) ∧ collapseFirst (s.net.take 0) 0 line1.line = false ∧ s.me.sent = some 9 ∧ s.Serial ∧ line1.data ≠ [] ∧ (s.die 0).pend = []
       ∧ ∃ q ∈ ((s.mapDie 0 fun d => { d with pend := [pend1] }).die 0).pend, lineOf q.sector = line1.line) := by
  (try simp only [memOk_iff, marked_iff, near_iff, reaches_iff, unread_iff, sound_iff, atHome_iff, serial_iff, alone_iff, spanOk_iff, oxHolds_iff, canLeave_iff, roomy_iff, calm_iff, leaves_iff, isFin_iff, rowMarked_iff]); decide +kernel
/-- A line's read that is granted, and one that is not. -/
theorem witness_grants : let s := wSent [.read 9 1 3 0x2000 0 .load]
    grants (Min.min (degDies (((s.die 0).region (regionIx 0x2000)).deg).toNat) (capDies (1 : BitVec 2).toNat)) (dirFind (s.die 0).dir 0x2000)
      ≠ grants (Min.min (degDies (((s.die 0).region (regionIx 0x2000)).deg).toNat) (capDies (0 : BitVec 2).toNat)) (dirFind (s.die 0).dir 0x2000) := by decide +kernel
def wLine (net : List Packet) : State :=
  { (w0.mapDie 0 fun d => { d with replicas := [line1], shared := [⟨line1.line, 0, []⟩] }).mapDie 1 fun d => { d with dir := [⟨line1.line, false, [0, 2]⟩] } with net := net }
theorem witness_collapse :
    (let s := wLine [.collapse line1.line 0 [.slot 1 3]]; s.arrive 0 = some (.collapse line1.line 0 [.slot 1 3], []) ∧ homeOf line1.line ≠ 0 ∧ (wLine []).net = [])
    ∧ victim ((wLine []).setWays 0 line1.line) = some ⟨line1.line, 0, []⟩ ∧ homeOf line1.line ≠ 0
    ∧ (let s := w0.mapDie 0 fun d => { d with shared := [⟨0x2000, 3, []⟩] }; victim (s.setWays 0 0x2000) = some ⟨0x2000, 3, []⟩ ∧ homeOf 0x2000 = 0 ∧ (3 : BitVec 8) ≠ 0)
    ∧ (let s := w0.mapDie 0 fun d => { d with shared := [⟨0x2000, 3, []⟩] }; w0.setWays 0 0x2000 = [] ∧ (s.setWays 0 0x2000).all (fun v => v.line != 0x2100) = true)
    ∧ (((wLine []).die 0).replicas.any fun q => q.line == line1.line) = true ∧ ∃ f ∈ ((wLine []).die (homeOf line1.line)).dir, f.line = line1.line ∧ f.coarse = false := by decide +kernel
def wEpoch (r : RegionEntry) : State := { w0.mapDie 0 fun d => { d with regions := [r] } with tick := 2 ^ 20 }
theorem witness_epoch : let s := wEpoch ⟨7, 0, false, 1, 0, 200, 3⟩
    (s.die 0).present = true ∧ s.tick % 2 ^ Max.max 10 (bits (s.die 0).regs.replctl 16 8) = 0
    ∧ bits (s.die 0).regs.replctl 32 8 ≤ (200 : BitVec 8).toNat ∧ (3 : BitVec 8).toNat * 2 ^ bits (s.die 0).regs.replctl 28 4 < (200 : BitVec 8).toNat
    ∧ (3 : BitVec 8).toNat < bits (s.die 0).regs.replctl 40 8 := by decide +kernel

/-! ### Witnesses: translations, rows and errors -/

def wWalk : State := world (cpu []) (memWrite [] 0x10000 (bytesOf 8 0x1E1F))
theorem witness_walk : (wWalk.die 1).present = true ∧ (0x12345 : Word).toNat < 2 ^ 55 ∧ tlbFind (wWalk.die 1).tlb (some 5) 0x10000 0x12345 = none ∧ (match wWalk.walk 1 .r 0x10000 0x12345 with | .ok _ => true | .error _ => false) = true := by
  (try simp only [memOk_iff, marked_iff, near_iff, reaches_iff, unread_iff, sound_iff, atHome_iff, serial_iff, alone_iff, spanOk_iff, oxHolds_iff, canLeave_iff, roomy_iff, calm_iff, leaves_iff, isFin_iff, rowMarked_iff]); decide +kernel
def wTlbNet (net : List Packet) : State := { w0.mapMe fun c => { c with sent := some 9 } with net := net }
theorem witness_tlb_messages :
    (let s := wTlbNet [.tlbinv 9 1 0 3 0 0 0x1000]; s.arrive 0 = some (.tlbinv 9 1 0 3 0 0 0x1000, []))
    ∧ (let s := wTlbNet [.tlback 9 1 0 0]; s.arrive 0 = some (.tlback 9 1 0 0, []) ∧ s.ctx? 0 0 = some s.me ∧ s.me.sent = some 9) := by
  (try simp only [memOk_iff, marked_iff, near_iff, reaches_iff, unread_iff, sound_iff, atHome_iff, serial_iff, alone_iff, spanOk_iff, oxHolds_iff, canLeave_iff, roomy_iff, calm_iff, leaves_iff, isFin_iff, rowMarked_iff]); decide +kernel
def wHot (thr : Nat) : State :=
  { w0.mapDie 0 fun d => { d with regs := { d.regs with hotctl := word (64 * 2 ^ 48 + 32 * 2 ^ 32 + 2 ^ 12 + thr) } } with tick := 2 ^ 15 }
theorem witness_rows :
    (Config.isM (homeOf 0).val = true ∧ Config.isM (homeOf (5 * 2 ^ 36)).val = false) ∧ (∀ thr ∈ [0, 1, 2, 4095], let s := wHot thr; isDram 0x1000 = true ∧ homeOf 0x1000 = 0 ∧ bitAt (s.die 0).regs.hotctl 12 = true ∧ (s.die 0).present = true ∧ (s.die 0).trackers = [] ∧ (s.die 0).pins = []
      ∧ bits (s.die 0).regs.hotctl 0 12 = thr ∧ s.tick % (Max.max 1 (bits (s.die 0).regs.hotctl 32 16) * 1024) = 0)
    ∧ (let s := (wHot 2).mapDie 0 fun d => { d with pins := [⟨0, 1, 7, 2 ^ 15⟩, ⟨0, 1, 7, 2 ^ 15 + 1⟩] }; ∃ p ∈ (s.die 0).pins, p.row = 7 ∧ p.holdEnd ≤ s.tick) := by
  (try simp only [memOk_iff, marked_iff, near_iff, reaches_iff, unread_iff, sound_iff, atHome_iff, serial_iff, alone_iff, spanOk_iff, oxHolds_iff, canLeave_iff, roomy_iff, calm_iff, leaves_iff, isFin_iff, rowMarked_iff]); decide +kernel
/-- A line that is dirty in its slice and in the memory-side cache, and a store that has not been sent. -/
def wDirty : State := w0.mapDie 0 fun d => { d with pend := [pend1], shared := [⟨0x1000, 1, [5]⟩], memside := [⟨0x1000, 1⟩] }
theorem witness_errors :
    (isDevice 0x1000 = false ∧ w0.present (homeOf 0x1000).val = true ∧ isDram 0x1000 = true ∧ w0.MemOk ∧ wDirty.MemOk)
    ∧ ((∃ x ∈ (wDirty.die 0).shared, homeOf 0x1008 = 0 ∧ x.line = lineOf 0x1008 ∧ x.dirty.getLsbD (0x1008 % 256 / 32) = true ∧ x.dirty ≠ 0)
      ∧ (∃ x ∈ (wDirty.die 0).memside, x.line = lineOf 0x1008 ∧ x.dirty.getLsbD (0x1008 % 256 / 32) = true ∧ x.dirty ≠ 0)
      ∧ ∃ p ∈ (wDirty.die 0).pend, p.sector = sectorOf (2 ^ 36 + 0x2001) ∧ p.sent = false)
    ∧ ((w0.die 0).shared = [] ∧ (w0.die 0).memside = [] ∧ (w0.die 0).pend = [])
    ∧ (0 < (w0.die 0).tlb.length ∧ (w0.die 0).tlb.length ≤ 2)
    ∧ (wSpec.ctx? 0 0 = some wSpec.me ∧ wSpec.me.chunk = some k1 ∧ k1.spec = true ∧ k1.restart = false ∧ k1.weir = false) := by
  (try simp only [memOk_iff, marked_iff, near_iff, reaches_iff, unread_iff, sound_iff, atHome_iff, serial_iff, alone_iff, spanOk_iff, oxHolds_iff, canLeave_iff, roomy_iff, calm_iff, leaves_iff, isFin_iff, rowMarked_iff]); decide +kernel
theorem witness_register_error : let s := wMarked
    s.ctx? 0 0 = some s.me ∧ s.slotOfStrand s.me.strand = some s.me ∧ s.me.stopLater = false ∧ s.me.stopReq = none ∧ s.me.iword ≠ 0xFC04
    ∧ ((s.count 0 8 0 13 1).focus 0 0).markStop.CanEnd (ended ((s.count 0 8 0 13 1).focus 0 0).markStop) := by simp only [ends_iff]; decide +kernel

/-! ### Witnesses: nodes and host requests -/

def dwords (l : List (Nat × List Word)) : List Host.Cell := l.foldl (fun m p => memWrite m p.1 (p.2.map w64).flatten) []
/-- A graph at 0x4000 of one node at 0x5000 (two strands, a launch header at 0x8000), and a job at 0x4100 whose second phase, at 0x4300, holds an empty graph. -/
def jobMem (live : Word) : List Host.Cell := dwords [(0x4000, [0, 1, 0, 0x5000]), (0x5000, [0xB000, 0x8000, 2, 1000]), (0x5060, [0xFFFFFFFFFFFFFFFF, 0xFFFFFFFF]), (0x5070, [0x4000, 0]),
  (0x8000, [0, 5, live * 2 ^ 62, 0x9000, 0, 0, 0x10000, 0]), (0x4100, [1, 2, 1 * 2 ^ 62, 0x4200]), (0x4200, [0x4280, 0x4300]), (0x4300, [0, 1, 0, 0x4400]), (0x4400, [0x4500]), (0x4500, [0, 0, 0, 0])]
def conn (k : EpKind) (d : DieId) : Conn := ⟨⟨d, k⟩, true, 4, [], 9⟩
def wHost (live : Word) : State :=
  { world (Ctx.reset 0 0) (jobMem live) with conns := [EpKind.job, .mem, .ctl, .tel, .dbg, .age].map (fun k => conn k 0) ++ [conn .ctl 4], tick := 5000 }
def hreq (k : EpKind) (op : BitVec 8) (addr a0 a1 a2 : Word) (plen : Nat) (bs : List Byte) (d : DieId := 0) : HostReq :=
  ⟨⟨d, k⟩, 1, BitVec.ofNat 8 (EpKind.code k), op, true, d, 5, 0, addr, a0, a1, a2, plen, bs⟩
def wReady (t : Option DieId) : State := (wHost 0).mapDie 0 fun d => { d with nodes := [⟨0x5000, 0x10000, 0x4000, 3, t⟩] }
theorem witness_node_handoff :
    (∀ t ∈ [none, some 0], let s := wReady t
      (s.die (homeOf 0x5000)).nodes.find? (fun o => o.node == 0x5000) = some ⟨0x5000, 0x10000, 0x4000, 3, t⟩ ∧ s.paOf 0 0x10000 (s.nodeLaunch 0x5000) = some 0x8000)
    ∧ (wReady none).targetDie 0 (rootOf ((wReady none).rd (0x8000 + 48))) 0x5000 = some 0 ∧ (wReady none).queued 0 < 4096
    ∧ (let s := wReady (some 0); objST (s.rd (0x8000 + 16)) ≠ 1 ∧ s.liveOf 0x8000 = none ∧ s.stageOk 0 (rootOf (s.rd (0x8000 + 48))) 0x5000 = true ∧ s.nodeCount 0x5000 ≠ 0
      ∧ 0x5000 + 128 ≤ 0x8000 ∧ s.MemOk) := by
  (simp only [memOk_iff]); decide +kernel
theorem witness_batch_offer : let s := (wHost 1).mapDie 0 fun d => { d with lives := [theLive], rings := Vector.replicate 9 ⟨none, 0, 1⟩ }
    (s.liveOf 0x8000) = some (0, theLive) ∧ (s.batchOf theLive).isNone = true ∧ s.nextIndex theLive < theLive.count ∧ s.accepts false 0 = false
    ∧ (s.offerTo true 0 theLive.cls theLive.place).isSome = true := by decide +kernel
def rSubmit : HostReq := hreq .job 1 0x4000 2 0x10000 0 0 []
def rGraph : Run := ⟨0, 0x10000, 2, 0, 0, 0x4000, false, 0, 0x4000⟩
def wBegun : State × List NodeWork :=
  let s := (wHost 0).wr (0x4000 + 16) (withST ((wHost 0).rd (0x4000 + 16)) 0); ({ s with runs := s.runs ++ [rGraph] } : State).runGraph rGraph
theorem witness_submit : let s := wHost 0; let t := wBegun.1
    s.admits rSubmit = true ∧ (match s.hostObject rSubmit with | .ok h => decide (h = 0x4000) | .error _ => false) = true ∧ objST (s.rd (0x4000 + 16)) ≠ 1
    ∧ wBegun.2 = [.ready 0x5000 0x10000 0x4000] ∧ nst (t.nodeState 0x5000) = 0 ∧ objST (t.rd (0x4000 + 16)) ≠ 3
    ∧ Memory.wf t.mem = true ∧ (t.setNst 0x5000 1 false).nodeOk 0 0x10000 0x5000 = true := by decide +kernel
theorem witness_cancel_request : let s := (wHost 1).mapDie 0 fun d => { d with lives := [theLive] }; let r := hreq .job 2 0x8000 1 0x10000 0 0 []
    s.admits r = true ∧ (match s.hostObject r with | .ok h => decide (h = 0x8000) | .error _ => false) = true ∧ s.liveOf 0x8000 = some (0, theLive)
    ∧ objST (s.rd (0x8000 + 16)) = 1 ∧ s.rd 0x8000 + word (theLive.count - theLive.next - 0) ≠ s.rd (0x8000 + 8) ∧ s.MemOk := by
  (try simp only [memOk_iff, marked_iff, near_iff, reaches_iff, unread_iff, sound_iff, atHome_iff, serial_iff, alone_iff, spanOk_iff, oxHolds_iff, canLeave_iff, roomy_iff, calm_iff, leaves_iff, isFin_iff, rowMarked_iff]); decide +kernel
theorem witness_cancel_strand : let s := (wHost 1).mapDie 0 fun d => { d with past := [(0x124, 5)] }
    (let r := hreq .job 2 0x12400000002 0 0 0 0 []; s.admits r = true ∧ s.liveOfStrand r.addr = none ∧ s.wasStrand r.addr = true)
    ∧ (let r := hreq .job 2 0x12500000002 0 0 0 0 []; s.admits r = true ∧ s.liveOfStrand r.addr = none ∧ s.wasStrand r.addr = false) := by decide +kernel
def rGated : Run := ⟨0, 0x10000, 4, 0x4100, 0x4280, 0, true, 0, 0x4100⟩
theorem witness_release_request : let s := { wHost 0 with runs := [rGated] }; let r := hreq .job 3 0x4280 0 0x10000 0 0 []
    s.admits r = true ∧ (match s.hostObject r with | .ok h => decide (h = 0x4280) | .error _ => false) = true ∧ s.runs.find? (fun r => r.gated && r.phase == 0x4280) = some rGated
    ∧ (s.nextPhase rGated (s.rd rGated.job).toNat).2 = [] ∧ (s.arrayPa 0 0x10000 (s.rd (0x4100 + 24)) (s.rd 0x4100).toNat).isSome = true
    ∧ (match (wHost 0).hostObject r with | .ok h => decide (h = 0x4280) | .error _ => false) = true ∧ (wHost 0).admits r = true ∧ ∀ r ∈ (wHost 0).runs, ¬ (r.gated = true ∧ r.phase = 0x4280) := by decide +kernel
def win : Window := ⟨77, 0x4000, 64, true, true⟩
def wWin : State := (wHost 0).mapDie 0 fun d => { d with windows := [win] }
theorem witness_memory_requests :
    (let r := hreq .mem 1 0x4000 64 3 0 0 []; wWin.admits r = true ∧ r.arg1.toNat < 4 ∧ wWin.rangeOk 0 0x4000 64 = true ∧ (wWin.die 0).windows.length < 64)
    ∧ (let r := hreq .mem 2 0 77 0 0 0 []; wWin.admits r = true ∧ ((wWin.die 0).windows.any fun w => w.key == r.arg0) = true)
    ∧ (let r := hreq .mem 2 0 78 0 0 0 []; wWin.admits r = true ∧ ((wWin.die 0).windows.any fun w => w.key == r.arg0) = false)
    ∧ (let r := hreq .mem 4 0x4000 0 0 0 3 [1, 2, 3]; wWin.admits r = true ∧ wWin.rangeOk 0 0x4000 3 = true ∧ isDevice 0x4000 = false ∧ wWin.MemOk)
    ∧ (let pa := 2 ^ 40 + 0x110; let r := hreq .mem 4 (word pa) 0 0 0 8 (List.replicate 8 7); wWin.admits r = true ∧ wWin.rangeOk 0 pa 8 = true ∧ isDevice pa = true ∧ pa % 8 = 0 ∧ devOff pa ≠ 0x138
      ∧ ((wWin.die 0).reg 0 (devOff pa)).any (fun p => p.2 != 0) = true)
    ∧ (wWin.conns.any (fun c => c.up && c.ep.die == 0) = true ∧ (wWin.die 0).windows.find? (fun w => w.key == 77) = some win
      ∧ (win.base ≤ 0x4020 ∧ 0x4020 + 32 ≤ win.base + win.len) ∧ ¬ (0x4020 + 33 ≤ win.base + win.len)) := by
  (try simp only [memOk_iff, marked_iff, near_iff, reaches_iff, unread_iff, sound_iff, atHome_iff, serial_iff, alone_iff, spanOk_iff, oxHolds_iff, canLeave_iff, roomy_iff, calm_iff, leaves_iff, isFin_iff, rowMarked_iff]); decide +kernel
theorem witness_control_requests : let s := wHost 0
    ((s.die 0).reg 0 0x110).isSome = true ∧ ((s.die 0).reg 0 0x140).isNone = true ∧ s.admits (hreq .ctl 2 0x110 5 0 0 0 []) = true
    ∧ ((s.die 0).reg 0 0x110).any (fun p => p.2 != 0) = true
    ∧ (s.ptpOn = false ∧ s.admits (hreq .ctl 2 0x138 0x400 0 0 0 [] 4) = true)
    ∧ (let t := s.mapDie 4 fun d => { d with regs := { d.regs with ptpctl := 0x400 } }
       t.ptpOn = true ∧ t.admits (hreq .ctl 2 0x138 0x001 0 0 0 [] 4) = true ∧ bits (0x001 : Word) 0 10 ≠ bits (t.die 4).regs.ptpctl 0 10)
    ∧ (s.admits (hreq .ctl 3 0 0x1000 0x1000 0xFFFF 0 []) = true ∧ (0x1000 : Word).toNat < 2 ^ 55 ∧ (0xFFFF : Word).toNat < 2 ^ 16)
    ∧ (let g := { grp with ops := [] }; let t := s.mapDie 0 fun d => { d with groups := [g] }; t.group? 0 9 = some g ∧ g.state = .ready ∧ t.admits (hreq .ctl 4 0 9 0 0 0 []) = true)
    ∧ (s.admits (hreq .ctl 5 0 0x4652455A 0 0 0 []) = true ∧ (0x4652455A : Word) ≠ 0) := by decide +kernel
def op0 : CollOp := ⟨4, 7, 0x123, 0, 0, BitVec.ofNat 48 4, [(0x5000, 16)], 0x5000, 0x3000, 16, [], false, false, 77⟩
theorem witness_gfree_busy : let g := { grp with ops := [op0] }; ((wHost 0).mapDie 0 fun d => { d with groups := [g] }).group? 0 9 = some g ∧ g.ops ≠ [] := by decide +kernel
def subs : Subscription := ⟨1024, 0x600, 0, 4, 4096⟩
theorem witness_telemetry : let s := (wHost 0).mapDie 0 fun d => { d with sub := some subs }
    blockOk 0x600 2 (32 / 8) = true ∧ s.admits (hreq .tel 1 0 0x600 2 0 32 []) = true ∧ s.admits (hreq .tel 2 0 0 0 0 0 []) = true
    ∧ (bits (word (504 * 65536)) 32 32 = 0 ∧ 1 ≤ bits (word (4 * 65536)) 16 16 ∧ blockOk 0x600 (bits (word (4 * 65536)) 0 16) (bits (word (4 * 65536)) 16 16) = true)
    ∧ ((s.die 0).sub = some subs ∧ subs.next ≤ s.tick ∧ s.conns.find? (fun c => c.ep == ⟨0, .tel⟩ && c.up) = some (conn .tel 0)) := by decide +kernel
/-- A strand that a debugger has halted, with its save area at 0x60000. -/
def haltedRec : List Word := [0x1000, 0x12400000001, 0x8000, 0x60000, word (rsHALTED * 2 ^ 60), 0, 0, 0]
def wHalted : State :=
  { (wHost 1).mapDie 0 fun d => { d with halted := [waits 0x12400000001], tlb := page 0 0 :: d.tlb } with
    mem := memWrite (jobMem 1) 0x9000 (haltedRec.map w64).flatten }
theorem witness_debug : let s := wHalted
    (match s.hostPieces 0 .r 0x10000 (pagePieces 0x9000 3 16) with | .ok _ => true | .error _ => false) = true
    ∧ s.dbgTarget (rootOf 0x10000) 0x4000 8 = none ∧ s.dbgTarget (rootOf 0x10000) 0x60010 8 = some .area
    ∧ (match s.hostPieces 0 .w 0x10000 (pagePieces 0x60010 3 8) with | .ok l => decide (l = [(0x60010, 8)]) | .error _ => false) = true ∧ isDevice 0x60010 = false ∧ s.MemOk
    ∧ s.haltedAll.find? (fun p => p.2.strand == 0x12400000001) = some (0, waits 0x12400000001) ∧ s.admits (hreq .dbg 4 0 0x12400000001 0 0 0 []) = true
    ∧ (s.slotOfStrand 0x777).isNone = true ∧ (∀ p ∈ s.haltedAll, p.2.strand ≠ 0x777) ∧ isDram 0x4000 = true ∧ s.rangeOk 0 0x4000 1 = true
    ∧ s.admits (hreq .dbg 2 0x60010 0x10000 0 0 8 (List.replicate 8 7)) = true := by
  (try simp only [memOk_iff, marked_iff, near_iff, reaches_iff, unread_iff, sound_iff, atHome_iff, serial_iff, alone_iff, spanOk_iff, oxHolds_iff, canLeave_iff, roomy_iff, calm_iff, leaves_iff, isFin_iff, rowMarked_iff]); decide +kernel
def wRunning : State := ({ wSys .strand [] with conns := [conn .dbg 0] } : State).mapMe fun c => { c with ctl := { c.ctl with privbase := 0x50003F } }
theorem witness_halt : let s := wRunning
    s.admits (hreq .dbg 3 0 0x123 0 0 0 []) = true ∧ s.slotOfStrand 0x123 = some s.me ∧ s.ctx? 0 0 = some s.me ∧ s.me.stopLater = false ∧ s.me.stopReq = none
    ∧ (let h := (s.focus 0 0).markStop.mapMe fun c => { c with stood := some (c.stood.getD c.ilk) }; h.CanLeave false id rsHALTED 6 (some (word (s.me.pc.toNat % 2 ^ 56), 0, 0))) := by
  (try simp only [memOk_iff, marked_iff, near_iff, reaches_iff, unread_iff, sound_iff, atHome_iff, serial_iff, alone_iff, spanOk_iff, oxHolds_iff, canLeave_iff, roomy_iff, calm_iff, leaves_iff, isFin_iff, rowMarked_iff]); decide +kernel
theorem witness_age_requests :
    (let s := (wHost 0).mapDie 0 fun d => { d with rings := d.rings.set 8 { d.rings[(8 : Fin 9)] with margin := some 40 } }
     (s.die 0).rings[Fin.ofNat 9 (8 : Word).toNat].margin = some 40 ∧ s.admits (hreq .age 1 0 8 0 0 0 []) = true)
    ∧ (let s := wHost 0; (s.die 0).retiring = none ∧ (s.die 0).spareFor = none ∧ (s.die 0).rings[(8 : Fin 9)].st = 1 ∧ (s.die 0).rings[(7 : Fin 9)].st = 0
      ∧ (∀ c ∈ s.busy, c.die = 0 → ringOf c.slot ≠ 7) ∧ s.admits (hreq .age 2 0 7 0 0 0 []) = true) := by decide +kernel
/-- A request out of order, one that is repeated, one with a bad header, one before boot and one for an absent die. -/
def anAnswer : HostMsg := responseTo { hreq .job 1 0 0 0 0 0 [] with seq := 4 } 77 ⟨hOK, none, []⟩
def wSeq : State := { wHost 0 with conns := [{ conn .job 0 with resp := [anAnswer] }] }
theorem witness_every_request : let cn : Conn := { conn .job 0 with resp := [anAnswer] }; let r := hreq .job 1 0 0 0 0 0 []
    wSeq.conn? r.qp = some cn ∧ cn.up = true ∧ cn.last.toNat + 1 < ({ r with seq := 6 } : HostReq).seq.toNat
    ∧ (anAnswer ∈ cn.resp ∧ cn.resp.find? (fun a => a.seq == 4) = some anAnswer) ∧ r.seq.toNat = cn.last.toNat + 1 ∧ goodHeader { r with ver := 2 } = false ∧ goodHeader r = true
    ∧ ({ wSeq with phase := .boot } : State).phase ≠ .running ∧ beforeBoot r = false ∧ ((wSeq.mapDie 0 fun d => { d with present := false }).die 0).present = false := by decide +kernel

/-! ### Witnesses: the network, links, the pod and groups -/

def epJob : Endpoint := ⟨0, .job⟩
def anAsync : HostMsg := ⟨epJob, 0x80, true, 0, 0, 0, 0, 0, 0, 0, 0, 7, []⟩
def wNet : State := { (wHost 0).mapDie 4 fun d => { d with verified := true } with conns := [⟨epJob, false, 0, [], 1⟩], asyncs := [anAsync], ip4 := some 0x0A000001, ip6 := some 5 }
theorem witness_connections :
    (endpointOf 0x100 = some epJob ∧ wNet.isOpen epJob = true ∧ ((wNet.conn? epJob).any fun c => c.up) = false ∧ endpointOf 0x106 = none ∧ endpointOf 0x180 = none
      ∧ (wNet.mapDie 0 fun d => { d with present := false }).isOpen epJob = false ∧ (((wHost 0).conn? epJob).any fun c => c.up) = true)
    ∧ (wNet.conn? epJob = some ⟨epJob, false, 0, [], 1⟩ ∧ (wHost 0).conn? epJob = some (conn .job 0)) := by decide +kernel
theorem witness_addresses : wNet.netUp = true ∧ wNet.ip4 = some 0x0A000001 ∧ wNet.ip4 ≠ some 0 ∧ wNet.ip6 = some 5 ∧ v4Dhcp wNet.netRec = true ∧ v6Auto wNet.netRec = true
    ∧ ({ wNet with ip4 := none, ip6 := none } : State).ip4 = none
    ∧ (let s := wNet.mapDie 4 fun d => { d with regs := { d.regs with ptpctl := 0x405 } }; s.ptpOn = true ∧ s.ptpPort = ⟨5, false, false⟩ ∧ s.ptpPort ≠ ⟨6, false, false⟩) ∧ wNet.ptpOn = false := by decide +kernel
def wLink (up : Bool) (n : Nat) : State := (wHost 0).mapLink 0 .east fun l => { l with up := up, replays := n }
theorem witness_links : ((wLink true 16).link 0 .east).up = true ∧ 16 ≤ ((wLink true 16).link 0 .east).replays
    ∧ ((wLink false 16).link 0 .east).up = false ∧ ((wLink false 16).link 0 .east).passed = true ∧ ((wLink false 0).die 0).present = true
    ∧ ((wLink false 0).die (neighbour 0 .east)).present = true := by decide +kernel
/-- A message that has been in flight for the whole timeout. -/
def wOld (s : State) : State := { s with tick := 80000000, stamps := s.net.map fun p => (p.txn, 0) }
theorem witness_timeouts :
    (∀ p ∈ [Packet.read 9 0 0 0x1000002000 0 .load, .request 9 0 0 0x123 0x1000002000 (.amo .add 8 1), .request 9 0 0 0x123 0x1000002000 .ldFe, .pod 9 0 0 0x123 true 8 3 0x40 0 (some 0) 77],
      let s := wOld (wSent [p]); s.fabricTicks 0 ≤ s.age 0 ∧ takeAt 0 s.net = some (p, []) ∧ s.ctx? 0 0 = some s.me ∧ s.me.sent = some 9)
    ∧ (let s := wOld ((wSent [.pending 0 7]).mapDie 0 fun d => { d with pend := [{ pend1 with writers := [.slot 0 0] }] })
       s.fabricTicks 0 ≤ s.age 0 ∧ takeAt 0 s.net = some (.pending 0 7, []) ∧ (s.die 0).pend.find? (fun o => o.id == 7) = some { pend1 with writers := [.slot 0 0] } ∧ s.ctx? 0 0 = some s.me)
    ∧ (∀ p ∈ [Packet.cack 1 (.slot 0 0), .strip stIn], let s := wOld (wSent [p]); takeAt 0 s.net = some (p, []) ∧ s.fabricTicks 0 ≤ s.age 0 ∧ s.fabricTicks 1 ≤ s.age 0 ∧ s.perfDue 1 (.slot 0 0) = false)
    ∧ (let s := wSent [.strip stIn]; (({ s with net := [] } : State).timeoutOf (.strip stIn)).any (fun q => decide (q.1 = 0)) = true ∧ s.age 0 < s.fabricTicks 0) := by
  (try simp only [memOk_iff, marked_iff, near_iff, reaches_iff, unread_iff, sound_iff, atHome_iff, serial_iff, alone_iff, spanOk_iff, oxHolds_iff, canLeave_iff, roomy_iff, calm_iff, leaves_iff, isFin_iff, rowMarked_iff]); decide +kernel
def wPort (live : List (Fin 8)) : State :=
  let s := (wHost 0).mapDie 0 fun d => { d with groups := [grp] }
  { s with ports := Vector.ofFn fun p => live.contains p }
theorem witness_ports :
    ((wPort [1, 2]).portUsable 1 = true ∧ (1 : Fin 8) ≠ 2) ∧ ((wPort [2]).portUsable 2 = true ∧ (∀ r, r ≠ (2 : Fin 8) → (wPort [2]).portUsable r = false) ∧ (wPort [2]).group? 0 9 = some grp
      ∧ grp.state = .ready ∧ grp.ops = [] ∧ ∀ e, ((wPort [2]).die e).groups = if e = 0 then [grp] else [])
    ∧ (∀ p : Fin 8, (wPort []).present (portDie p).val = true) ∧ (wPort []).away = []
    ∧ (let s : State := { wPort [] with away := [(⟨5, 2⟩, .mismatch ⟨0, 0, 9⟩)], ports := (wPort []).ports.set 2 true }
       s.away = [(⟨5, 2⟩, .mismatch ⟨0, 0, 9⟩)] ∧ ({ s with away := [] } : State).route 5 = some 2 ∧ ({ s with away := [] } : State).routeHeld 5 (some 2) = false) := by decide +kernel
/-- A pod request of 8 bytes at a page mapped for the root of the port's die. -/
def wPodIn : State := let s := wPort [0]; let s := s.mapDie (portDie 0) fun d => { d with regs := { d.regs with podroot := 0x10001 }, tlb := [page 0 0] }; { s with mem := [] }
theorem witness_pod_requests :
    (let s := wPodIn; s.portUsable 0 = true ∧ bitAt (s.die (portDie 0)).regs.podroot 0 = true ∧ (0x4000 : Word).toNat < 2 ^ 55 ∧ (0x4000 : Word).toNat % 8 = 0
      ∧ (∀ k ∈ [AccessKind.r, .w], (match s.translate (portDie 0) none k true (bits (s.die (portDie 0)).regs.podroot 16 32 * 65536) 0x4000 with | .ok p => decide (p = near 0x4000) | .error _ => false) = true)
      ∧ (near 0x4000).dev = false ∧ (near 0x4000).Marked true ∧ s.MemOk)
    ∧ bitAt ((wPort [0]).die (portDie 0)).regs.podroot 0 = false := by
  (try simp only [memOk_iff, marked_iff, near_iff, reaches_iff, unread_iff, sound_iff, atHome_iff, serial_iff, alone_iff, spanOk_iff, oxHolds_iff, canLeave_iff, roomy_iff, calm_iff, leaves_iff, isFin_iff, rowMarked_iff]); decide +kernel
def wPodOut (load : Bool) : State := wSent [.pod 9 0 0 0x123 load 8 3 0x40 0 (some 0) 77]
theorem witness_pod_replies : ∀ l ∈ [true, false], (wPodOut l).arrive 0 = some (.pod 9 0 0 0x123 l 8 3 0x40 0 (some 0) 77, []) ∧ (wPodOut l).net.take 0 = [] ∧ 3 ≠ ((wPodOut l).myMod 0).toNat
    ∧ (wPodOut l).ctx? 0 0 = some (wPodOut l).me ∧ (wPodOut l).me.sent = some 9 ∧ (wPodOut l).slotOfStrand 0x123 = some (wPodOut l).me ∧ (wPodOut l).away = [] := by
  (try simp only [memOk_iff, marked_iff, near_iff, reaches_iff, unread_iff, sound_iff, atHome_iff, serial_iff, alone_iff, spanOk_iff, oxHolds_iff, canLeave_iff, roomy_iff, calm_iff, leaves_iff, isFin_iff, rowMarked_iff]); decide +kernel
def two : List Member := [⟨0, 0⟩, ⟨5, 2⟩]
def theReg : GroupReg := ⟨0, 9, 1, two, false, false, 0⟩
def ownReg : GroupReg := ⟨0, 9, 0, two, false, false, 0⟩
def gForm (rank : BitVec 10) : Group := { Group.free 9 with state := .forming, forming := some ⟨two, rank, false, false, 1000, 0x123, 500⟩, regs := [(ownReg, none)] }
def wPorts (s : State) : State := { s with ports := Vector.replicate 8 true }
theorem witness_registration :
    (let s := wPorts (wGroup (gForm 0)); s.away = [] ∧ s.route 5 = some 5 ∧ s.routeHeld 5 (some 5) = false ∧ (s.die 0).refused.contains (9, 1) = false
      ∧ ((s.mapDie 0 fun d => { d with refused := [(9, 1)] }).die 0).refused.contains (9, 1) = true)
    ∧ (let g := { gForm 0 with forming := some ⟨[⟨0, 0⟩, ⟨5, 2⟩, ⟨5, 3⟩], 0, false, false, 1000, 0x123, 500⟩, regs := [(ownReg, some (0, 9))] }
       (wGroup g).group? 0 9 = some g ∧ (∃ f, g.forming = some f ∧ f.rank = 0 ∧ f.members ≠ theReg.members ∧ 2 < f.members.length) ∧ ownReg.rank = 0) ∧
    ((wGroup (Group.free 9)).group? 0 9 = some (Group.free 9) ∧ theReg.members = [⟨0, 0⟩, ⟨5, 2⟩] ∧ (wGroup (Group.free 9)).here 0 ⟨5, 2⟩ = false ∧ (Group.free 9).forming = none)
    ∧ ((wGroup (gForm 0)).group? 0 9 = some (gForm 0) ∧ (gForm 0).regs = [(ownReg, none)] ∧ ownReg.rank = 0 ∧ ownReg.members = theReg.members ∧ ownReg.det = theReg.det ∧ ownReg.reform = false)
    ∧ (let f : Forming := ⟨[⟨5, 2⟩, ⟨0, 0⟩], 1, false, false, 1000, 0x123, 500⟩; let g : Group := { Group.free 9 with state := .forming, forming := some f }
       (wGroup g).group? 0 9 = some g ∧ f.members.head? = some ⟨5, 2⟩ ∧ f.rank ≠ 0 ∧ (wGroup g).here 0 ⟨5, 2⟩ = false) := by decide +kernel
def gRun : Group := { Group.free 9 with state := .ready, gen := 3, rank := 0, members := [⟨0, 0⟩, ⟨5, 2⟩, ⟨5, 3⟩], seqno := 5, tmo := 1000, ops := [op0], gid := some ⟨0, 0, 9⟩, oldGids := [⟨0, 0, 8⟩] }
def pktOf (gen : BitVec 32) (seqno : Nat) (f : BitVec 48) : CollPkt := ⟨0, ⟨0, 0, 9⟩, gen, seqno, f, 1, List.replicate 16 1⟩
def wRun : State := { wGroup gRun with tick := 1000 }
theorem witness_packets :
    (wRun.entryOf 0 ⟨0, 0, 9⟩ = some gRun ∧ wRun.entryOf 0 ⟨0, 0, 8⟩ = some gRun ∧ gRun.gid = some (pktOf 3 5 4).gid ∧ gRun.state = .ready)
    ∧ (wRun.group? 0 9 = some gRun ∧ gRun.members[1]? = some ⟨5, 2⟩ ∧ wRun.here 0 ⟨5, 2⟩ = false ∧ (pktOf 2 4 4).gen.toNat < gRun.gen.toNat ∧ (pktOf 3 5 4).gen = gRun.gen)
    ∧ ((∀ o ∈ gRun.ops, o.seqno ≠ (pktOf 3 5 4).seqno) ∧ gRun.seqno ≤ (pktOf 3 5 4).seqno)
    ∧ (op0.seqno = (pktOf 3 4 4).seqno ∧ op0.fields = (pktOf 3 4 4).fields ∧ (∀ q ∈ op0.parts, q.1 ≠ 1) ∧ op0.fields ≠ (pktOf 3 4 5).fields
      ∧ ({ op0 with parts := op0.parts ++ [(1, (pktOf 3 4 4).data)] } : CollOp).whole (CollRec.ofFields op0.fields) gRun.members.length = false)
    ∧ ((∀ p ∈ wRun.net, p.isAbort 0 ⟨0, 0, 9⟩ 3 = false) ∧ wRun.abroad 0 gRun.members = true ∧ (2 : BitVec 32).toNat < gRun.gen.toNat)
    ∧ (op0.since + gRun.tmo ≤ wRun.tick ∧ op0.written = false ∧ 0 < op0.bytes ∧ wRun.MemOk)
    ∧ wRun.memberGone 0 gRun = true := by
  (try simp only [memOk_iff, marked_iff, near_iff, reaches_iff, unread_iff, sound_iff, atHome_iff, serial_iff, alone_iff, spanOk_iff, oxHolds_iff, canLeave_iff, roomy_iff, calm_iff, leaves_iff, isFin_iff, rowMarked_iff]); decide +kernel

/-! ### Witnesses: boot, ageing, temperature and test access -/

/-- A table of one image for dies of either class, 16 bytes at offset 4,096 of a flash of 8,192, whose digest matches. -/
def rep0 : BootReport :=
  ⟨bytesOf 4 0x44584249 ++ bytesOf 4 3 ++ bytesOf 4 1 ++ bytesOf 4 0 ++ bytesOf 4 1 ++ bytesOf 4 16 ++ bytesOf 8 4096 ++ bytesOf 32 77 ++ List.replicate 2672 0,
   8192, true, [77], 99, []⟩
def wBoot : State := State.reset
def wBoot4 : State := wBoot.mapDie 4 fun d => { d with verified := true }
def wSigned (tick : Nat) : State := { wBoot with tick := tick, dies := wBoot.dies.map fun d => { d with verified := true, verifiedAt := 5, digest := 77, leaves := 10 } }
theorem witness_boot :
    (wBoot.phase = .boot ∧ (wBoot.die 4).verified = false ∧ (wBoot.die 4).reason = 0 ∧ tableOk rep0 = true ∧ imagesOk 4 rep0 = true ∧ imagesOk 5 rep0 = true
      ∧ (wBoot.die 4).svnMin ≤ rep0.svn ∧ wBoot.MemOk)
    ∧ ((wBoot4.die 5).verified = false ∧ (wBoot4.die 5).reason = 0 ∧ (wBoot4.die 4).verified = true ∧ neighbour 5 .west = 4 ∧ wBoot4.tick ≤ (wBoot4.die 4).verifiedAt + 3200000000
      ∧ tableOk { rep0 with sigOk := false } = false ∧ imagesOk 5 { rep0 with shas := [78] } = false ∧ rep0.svn < ((wBoot4.mapDie 5 fun d => { d with svnMin := 4 }).die 5).svnMin)
    ∧ (let s := wSigned 800000005; s.phase = .boot ∧ (s.link 0 .east).heard = false ∧ (s.die 0).canSign = true ∧ (s.die (neighbour 0 .east)).canSign = true
      ∧ s.tick ≤ Max.max (s.die 0).verifiedAt (s.die (neighbour 0 .east)).verifiedAt + 800000000 ∧ s.tick ≤ (s.die 4).verifiedAt + 3200000000)
    ∧ (let s := wSigned 4000000000; ¬ s.tick ≤ (s.die 4).verifiedAt + 3200000000 ∧ Max.max (s.die 0).verifiedAt (s.die (neighbour 0 .east)).verifiedAt + 800000000 < s.tick
      ∧ (s.die 0).verifiedAt + 800000000 ≤ s.tick ∧ (s.die 4).verifiedAt + 3200000000 ≤ s.tick ∧ s.links.all (fun l => l.passed) = false)
    ∧ (let s : State := { wSigned 4000000000 with links := wBoot.links.map fun l => { l with passed := true } }; (List.finRange 16).all (fun e => (s.included 16 [4]).contains e) = true
      ∧ s.links.all (fun l => l.passed) = true)
    ∧ (0 < bits (wBoot.die 0).regs.agectl 16 8) := by
  (try simp only [memOk_iff, marked_iff, near_iff, reaches_iff, unread_iff, sound_iff, atHome_iff, serial_iff, alone_iff, spanOk_iff, oxHolds_iff, canLeave_iff, roomy_iff, calm_iff, leaves_iff, isFin_iff, rowMarked_iff]); decide +kernel
def wAge (gb : Nat) : State := { (wHost 0).mapDie 0 fun d => { d with rings := d.rings.set 3 ⟨none, gb, 0⟩ } with tick := 1526 * 2 ^ 20 }
theorem witness_age :
    (let s := wAge 2; s.phase ≠ .boot ∧ (s.die 0).present = true ∧ s.tick % (Max.max 1 (bits (s.die 0).regs.agectl 0 16) * 2 ^ 20) = 0
      ∧ bits (s.die 0).regs.agectl 16 8 ≤ 12 ∧ 11 < bits (s.die 0).regs.agectl 16 8 ∧ 2 + 1 ≤ bits (s.die 0).regs.agectl 24 8)
    ∧ (let s := wAge (bits DevRegs.reset.agectl 24 8); bits (s.die 0).regs.agectl 24 8 ≤ (s.die 0).rings[(3 : Fin 9)].gb ∧ (s.die 0).retiring = none ∧ (s.die 0).spareFor = none
      ∧ (s.die 0).rings[(3 : Fin 9)].st = 0 ∧ (s.die 0).rings[(8 : Fin 9)].st = 1 ∧ ∀ c ∈ s.busy, c.die = 0 → ringOf c.slot ≠ 3)
    ∧ ((List.replicate 8 949).length = 8 ∧ ∀ t ∈ List.replicate 8 949, t < 950) := by decide +kernel
def wFrozen : State := { w0 with pins := { w0.pins with frozen := true } }
theorem witness_scan : wFrozen.pins.frozen = true ∧ w0.pins.frozen = false ∧ isTile (tileLoc 0 0 0x100) = true ∧ wFrozen.MemOk ∧ isTile 0x1000 = false ∧ wFrozen.ctx? 0 0 = some wFrozen.me ∧ wFrozen.me.die = 0 ∧ wFrozen.me.slot = 0 := by
  (try simp only [memOk_iff, marked_iff, near_iff, reaches_iff, unread_iff, sound_iff, atHome_iff, serial_iff, alone_iff, spanOk_iff, oxHolds_iff, canLeave_iff, roomy_iff, calm_iff, leaves_iff, isFin_iff, rowMarked_iff]); decide +kernel

/-! ### Witnesses: steps, encodings and invariants -/

/-- The next instruction at a tile store's start, one that is reserved, and a turn of the agenda. -/
def wFetch (nbits w : Nat) : State := State.reset.withFetchWord nbits w
theorem witness_step :
    (let s := wFetch 32 0x2B45C428
     s.agenda = [] ∧ s.pins.frozen = false ∧ s.phase ≠ .bootFailed ∧ s.me.state = .running ∧ s.me.sent = none ∧ s.me.wait = none ∧ s.me.answer = none ∧ s.me.part = none ∧ s.regions = [] ∧ (s.die s.me.die).icopies = [] ∧ s.me.stopReq = none
      ∧ s.me.stepDue = false ∧ s.me.latem = false ∧ s.watch s.me 1 s.me.pc.toNat 2 = false ∧ s.me.chunk = none
      ∧ s.fetchPlace s.me s.me.pc.toNat = .ok (Place.tile (tileLoc 0 0 0)) ∧ s.fetchPlace s.me (s.me.pc + 2).toNat = .ok (Place.tile (tileLoc 0 0 2))
      ∧ tileLoc 0 0 0 % 2 = 0 ∧ s.Near (tileLoc 0 0 0) ∧ s.Near (tileLoc 0 0 2) ∧ s.Sound (tileLoc 0 0 0) 2 ∧ s.Sound (tileLoc 0 0 2) 2
      ∧ isLong (ofBytes (memBytes s.mem (tileLoc 0 0 0) 2)) = true ∧ s.fetch = .bytes (bytesOf 4 0x2B45C428))
    ∧ (let s := wFetch 16 0x0015; isLong (ofBytes (memBytes s.mem (tileLoc 0 0 0) 2)) = false ∧ s.fetch = .bytes (bytesOf 2 0x0015))
    ∧ ((wFetch 32 0x0001C018).fetch = .bytes (bytesOf 4 0x0001C018))
    ∧ (let s := (wFetch 32 0).mapMe fun c => { c with pc := 0x0100000000000000 }; s.fetchPlace s.me s.me.pc.toNat = .error cNONCANON) := by
  (try simp only [memOk_iff, marked_iff, near_iff, reaches_iff, unread_iff, sound_iff, atHome_iff, serial_iff, alone_iff, spanOk_iff, oxHolds_iff, canLeave_iff, roomy_iff, calm_iff, leaves_iff, isFin_iff, rowMarked_iff]); decide +kernel
/-- The word at 0x1000 of DRAM, whose translation has A clear, with its PTE as it was walked or changed since. -/
def wFetchA (pte : Word) : State :=
  let s := world { cpu [] with pc := 0x1000 } (memWrite (memWrite [] 0x1000 (bytesOf 2 0x0015)) 0x20000 (w64 pte))
  s.mapDie 0 fun d => { d with tlb := [{ page 0 0 with pte := 0x141F }] }
theorem witness_fetch_marks :
    (let s := wFetchA 0x141F; (match s.fetchPlace s.me 0x1000 with | .ok p => decide (p = ⟨0x1000, false, false, 0, some { page 0 0 with pte := 0x141F }⟩) | .error _ => false) = true ∧ s.me.iword.toNat / 2 ^ 14 % 4 ≠ 3
      ∧ pteA (0x141F : Word) = false ∧ s.me.chunk = none ∧ s.MemOk)
    ∧ (match (wFetchA 0x2000141F).fetch with | .rewalk e => decide (e = { page 0 0 with pte := 0x141F }) | _ => false) = true := by
  (try simp only [memOk_iff, marked_iff, near_iff, reaches_iff, unread_iff, sound_iff, atHome_iff, serial_iff, alone_iff, spanOk_iff, oxHolds_iff, canLeave_iff, roomy_iff, calm_iff, leaves_iff, isFin_iff, rowMarked_iff]); decide +kernel
/-- A vector instruction in a slot that is its core's next, with a counter of its own. -/
theorem witness_sequencer :
    (let s := wFetch 32 0x1800E038; sequenced 0x1800E038 (.vadd 4 8 8 0) = true ∧ s.me.granted = false ∧ (s.grant (.vadd 4 8 8 0)).2 = s.serveCore.2)
    ∧ (let s := w0.mapMe fun c => { c with deficit := 5 }; s.me.state ≠ .free ∧ (s.die 0).turns[s.me.coreIx] = s.me.seqIx ∧ (0 : Int) < s.me.deficit)
    ∧ ((∀ k : Fin 4, 64 ≤ (fun _ : Fin 4 => 64 : Fin 4 → Int) k) ∧ -(2 : Int) ^ 31 ≤ (Vector.replicate 4 (-(2 : Int) ^ 31))[(2 : Fin 4)]) := by decide +kernel
theorem witness_agenda : let s := { w0 with agenda := [.event .freeze, .pass 3] }
    s.agenda = .event .freeze :: [.pass 3] ∧ s.pins.frozen = false := by decide +kernel
theorem witness_encode : Instr.WF (.addi 5 5 837) ∧ encode (.addi 5 5 837) = some (4, 0x2B45C428) := by unfold Instr.WF; decide +kernel
theorem next_of {r : Res} (h : (match r with | .next _ => true | _ => false) = true) : ∃ t, r = .next t := by
  cases r with
  | next t => exact ⟨t, rfl⟩
  | _ => simp at h
theorem witness_canonical : (wFetch 32 0x2180D143).MemOk ∧ ∃ t, step (wFetch 32 0x2180D143) = .next t :=
  ⟨by rw [memOk_iff]; decide +kernel, next_of (by decide +kernel)⟩

/-! ### Words of the tables -/

/-- Do `n` bytes of a word decode to an instruction? -/
noncomputable def reads (n w : Nat) (i : Instr) : Bool := match decode (bytesOf n w) with | .ok p => decide (p = (i, n)) | .error _ => false
noncomputable def refused (n w : Nat) (r : Reject) : Bool := match decode (bytesOf n w) with | .ok _ => false | .error q => decide (q = r)
/-- The words that the specification works out in its chapters. -/
theorem test_worked_words : ([(0x21C2E315, .vcmpGeVs 2 4 7 0), (0x0900E516, .vfmaVs 2 1 4 0), (0x2340E640, .vcvt 8 4 .bf16 0 .rne), (0x2000E740, .vredAdd 8 4 0), (0x0980E808, .vxchg 1 1 6 0),
    (0x1000E94C, .mpop 9 2), (0x2902DD40, .cpIn 8 5 4 2), (0x21C0DB33, .bwait 6 4 7), (0x1903DC05, .qinit 3 4 3), (0x38C0CC93, .bge 7 3 18), (0x3000CF80, .fork 6 16), (0x38FFCFA1, .floop 7 3 2036),
    (0x2142F008, .mma 1 4 5 2), (0x3003F011, .mzero 2 .x 6), (0x2140F002, .mld 0 4 5 .f32), (0x3803F00B, .mst 1 7 3), (0x0800F004, .macc 0 1), (0x0A40F01D, .mrowR 3 1 9),
    (0x0802E708, .vscanExcAdd 1 1 0), (0x300CCA29, .fcvt 5 6 .f32 .i64 .rtz)] : List (Nat × Instr)).all (fun p => reads 4 p.1 p.2) = true := by decide +kernel
theorem test_worked_short_word : reads 2 0x03FE (.cAddi 7 (-1)) = true := by decide +kernel
/-- A non-zero reserved field, a lane operation on masks alone, all ones, all zeros, and bytes that end early. -/
theorem test_refused_words : refused 4 0x0001C018 .reservedField = true ∧ refused 4 0x0981E808 .reservedField = true ∧ refused 4 0xFFFFFFFF .allOnes = true ∧ refused 2 0 .allZeros = true
    ∧ refused 2 0xC0B0 .short = true := by decide +kernel

theorem test_decode_major_00 : ([(0x4E40C0A0, .add 20 9 25),
    (0x2180C019, .sub 3 4 6),
    (0x1B40C0BA, .and 23 3 13),
    (0x2EC0C013, .or 2 5 27),
    (0x23C0C0D4, .xor 26 4 15),
    (0xD8C0C02D, .shl 5 27 3),
    (0x70C0C03E, .shr 7 14 3),
    (0x1B80C0CF, .sra 25 3 14)] : List (Nat × Instr)).all (fun p => reads 4 p.1 p.2) = true := by decide +kernel

theorem test_decode_major_01 : ([(0x4480C110, .slt 2 8 18),
    (0x49C0C1D1, .sltn 26 9 7),
    (0x5980C19A, .min 19 11 6),
    (0xB980C163, .max 12 23 6),
    (0x1B40C124, .minn 4 3 13),
    (0xDD00C1FD, .maxn 31 27 20)] : List (Nat × Instr)).all (fun p => reads 4 p.1 p.2) = true := by decide +kernel

theorem test_decode_major_02 : ([(0xEDC0C2E8, .mul 29 29 23),
    (0x7AC0C299, .mulh 19 15 11),
    (0x2CC0C27A, .mulhn 15 5 19),
    (0xAF00C2FB, .mulhin 31 21 28),
    (0x21C0C294, .div 18 4 7),
    (0x5540C2D5, .divn 26 10 21),
    (0xFE80C24E, .rem 9 31 26),
    (0x2500C217, .remn 2 4 20)] : List (Nat × Instr)).all (fun p => reads 4 p.1 p.2) = true := by decide +kernel

theorem test_decode_major_03 : ([(0xB000C3A8, .clz 21 22),
    (0xE800C3F9, .ctz 31 29),
    (0x2800C322, .popc 4 5),
    (0xF000C38B, .bswap 17 30),
    (0x1802C324, .sext 4 3 .w),
    (0x5000C3B5, .zext 22 10 .b)] : List (Nat × Instr)).all (fun p => reads 4 p.1 p.2) = true := by decide +kernel

theorem test_decode_major_04 : ([(0x1B7DC4F8, .addi 31 3 893),
    (0x43F6C491, .andi 18 8 1014),
    (0xCFF1C4CA, .ori 25 25 2033),
    (0x572FC42B, .xori 5 10 1839),
    (0x8A30C4CC, .slti 25 17 560),
    (0x8EA5C4DD, .sltni 27 17 1701)] : List (Nat × Instr)).all (fun p => reads 4 p.1 p.2) = true := by decide +kernel

theorem test_decode_major_05 : ([(0xC01DC5B0, .shli 22 24 29),
    (0x2816C549, .shri 9 5 22),
    (0x701DC54A, .srai 9 14 29)] : List (Nat × Instr)).all (fun p => reads 4 p.1 p.2) = true := by decide +kernel

theorem test_decode_major_06 : ([(0xF84DC600, .lui 0 508520)] : List (Nat × Instr)).all (fun p => reads 4 p.1 p.2) = true := by decide +kernel

theorem test_decode_major_07 : ([(0x8686C75D, .pcadd 11 275509)] : List (Nat × Instr)).all (fun p => reads 4 p.1 p.2) = true := by decide +kernel

theorem test_decode_major_08 : ([(0x1B00C8C8, .fadd 25 3 12 .f64),
    (0xE280C869, .fsub 13 28 10 .f64),
    (0x1980C8AA, .fmul 21 3 6 .f64),
    (0x35C0C84B, .fdiv 9 6 23 .f64),
    (0x6E01C824, .fmin 4 13 24 .f32),
    (0xB5C3C885, .fmax 16 22 23 .bf16),
    (0x3803C83E, .fsqrt 7 7 .bf16)] : List (Nat × Instr)).all (fun p => reads 4 p.1 p.2) = true := by decide +kernel

theorem test_decode_major_09 : ([(0xF782C9E8, .fma 29 30 30 .f16),
    (0x4982C929, .fms 5 9 6 .f16),
    (0xF280C982, .feq 16 30 10 .f64),
    (0xBA40C96B, .flt 13 23 9 .f64),
    (0x2C02C99C, .fle 19 5 16 .f16),
    (0xB001C955, .fclass 10 22 .f32)] : List (Nat × Instr)).all (fun p => reads 4 p.1 p.2) = true := by decide +kernel

theorem test_decode_major_0a : ([(0x301FCA73, .fcvt 14 6 .bf16 .n32 .rdn)] : List (Nat × Instr)).all (fun p => reads 4 p.1 p.2) = true := by decide +kernel

theorem test_decode_major_0c : ([(0xAB7DCCC0, .beq 21 13 1976),
    (0x07ACCC09, .bne 0 30 1409),
    (0x29F1CCBA, .blt 5 7 1591),
    (0x6796CCDB, .bge 12 30 731),
    (0xDD4BCC1C, .bltn 27 21 355),
    (0xCF73CC65, .bgen 25 29 1644)] : List (Nat × Instr)).all (fun p => reads 4 p.1 p.2) = true := by decide +kernel

theorem test_decode_major_0d : ([(0x5155CD2C, .jl 5 166572)] : List (Nat × Instr)).all (fun p => reads 4 p.1 p.2) = true := by decide +kernel

theorem test_decode_major_0e : ([(0x4070CE50, .jlr 10 8 112)] : List (Nat × Instr)).all (fun p => reads 4 p.1 p.2) = true := by decide +kernel

theorem test_decode_major_0f : ([(0x483BCF90, .fork 9 1906),
    (0x4FACCFD9, .floop 9 30 1435),
    (0x0000CF02, .fhold),
    (0x0013CFF3, .fexit 638)] : List (Nat × Instr)).all (fun p => reads 4 p.1 p.2) = true := by decide +kernel

theorem test_decode_major_10 : ([(0x083AD040, .ldB 8 1 58),
    (0x46F0D031, .ldH 6 8 1776),
    (0x6872D062, .ldW 12 13 114),
    (0x6CAFD083, .ldD 16 13 1199),
    (0xA426D07C, .ldBn 15 20 1062),
    (0x40F9D0D5, .ldHn 26 8 249),
    (0xEEBAD0B6, .ldWn 22 29 1722)] : List (Nat × Instr)).all (fun p => reads 4 p.1 p.2) = true := by decide +kernel

theorem test_decode_major_11 : ([(0x4242D160, .stB 8 9 76),
    (0xE2C0D181, .stH 28 11 16),
    (0x4AD2D11A, .stW 9 11 579),
    (0xF1C7D1E3, .stD 30 7 252)] : List (Nat × Instr)).all (fun p => reads 4 p.1 p.2) = true := by decide +kernel

theorem test_decode_major_12 : ([(0xF1B2D2A0, .ldAcq 20 30 434 .strand)] : List (Nat × Instr)).all (fun p => reads 4 p.1 p.2) = true := by decide +kernel

theorem test_decode_major_13 : ([(0x7B23D370, .stRel 15 12 1134 .strand)] : List (Nat × Instr)).all (fun p => reads 4 p.1 p.2) = true := by decide +kernel

theorem test_decode_major_14 : ([(0xE000D430, .ldFe 6 28),
    (0x0900D401, .stFe 1 4),
    (0xA000D4E2, .ldFf 28 20),
    (0x6000D403, .feSet 12),
    (0x8800D404, .feClr 17)] : List (Nat × Instr)).all (fun p => reads 4 p.1 p.2) = true := by decide +kernel

theorem test_decode_major_15 : ([(0xF3C2D5E0, .ldPod 28 30 15 .w),
    (0xE203D561, .stPod 12 28 8 .d)] : List (Nat × Instr)).all (fun p => reads 4 p.1 p.2) = true := by decide +kernel

theorem test_decode_major_18 : ([(0xC801D838, .lr 7 25 .d),
    (0x23C1D8A1, .sc 20 4 15 .d),
    (0x6CC0D822, .cas 4 13 19 .w)] : List (Nat × Instr)).all (fun p => reads 4 p.1 p.2) = true := by decide +kernel

theorem test_decode_major_19 : ([(0xBA50D948, .amoAdd 9 23 9 .d),
    (0xEB81D940, .amoAnd 8 29 14 .w),
    (0xFA82D9C8, .amoOr 25 31 10 .w),
    (0xDE53D950, .amoXor 10 27 25 .d),
    (0x6594D9D0, .amoMin 26 12 22 .d),
    (0xB855D928, .amoMax 5 23 1 .d),
    (0xE056D9E8, .amoMinn 29 28 1 .d),
    (0x9107D9A8, .amoMaxn 21 18 4 .w),
    (0x3158D970, .amoSwap 14 6 5 .d),
    (0x12D9D988, .amoFadd 17 2 11 .d),
    (0x46D0D901, .rredAdd 8 27 .d),
    (0xCA51D901, .rredAnd 25 9 .d),
    (0xA152D901, .rredOr 20 5 .d),
    (0x1AD3D901, .rredXor 3 11 .d),
    (0x2444D901, .rredMin 4 17 .w),
    (0x2C05D901, .rredMax 5 16 .w),
    (0x7116D901, .rredMinn 14 4 .d),
    (0x3F47D901, .rredMaxn 7 29 .w),
    (0xAE99D901, .rredFadd 21 26 .d)] : List (Nat × Instr)).all (fun p => reads 4 p.1 p.2) = true := by decide +kernel

theorem test_decode_major_1a : ([(0x0002DA00, .fence .die),
    (0x0000DA01, .wres)] : List (Nat × Instr)).all (fun p => reads 4 p.1 p.2) = true := by decide +kernel

theorem test_decode_major_1b : ([(0x13C0DB00, .binit 2 15),
    (0x3A80DB01, .bpost 7 10),
    (0x8000DB02, .barr 16),
    (0x5B00DB1B, .bwait 3 11 12)] : List (Nat × Instr)).all (fun p => reads 4 p.1 p.2) = true := by decide +kernel

theorem test_decode_major_1c : ([(0x9CC0DC00, .qput 19 19),
    (0x9701DC68, .qputNb 13 18 28),
    (0x8800DC59, .qget 11 17),
    (0x0C01DCB1, .qgetNb 22 1 16),
    (0x0000DC12, .qputv 2 0),
    (0x6781DC0A, .qputvNb 1 12 30),
    (0xE000DC7B, .qgetv 15 28),
    (0xDFC1DC33, .qgetvNb 6 27 31),
    (0x9800DCCC, .qstat 25 19),
    (0x6B85DC05, .qinit 13 14 5)] : List (Nat × Instr)).all (fun p => reads 4 p.1 p.2) = true := by decide +kernel

theorem test_decode_major_1d : ([(0x4645DD60, .cpIn 12 8 25 5),
    (0x4001DD19, .cpOut 3 8 0 1),
    (0xDA80DD82, .cpTt 16 27 10 0),
    (0xC490DD2B, .gx 5 24 18 .w .w 0)] : List (Nat × Instr)).all (fun p => reads 4 p.1 p.2) = true := by decide +kernel

theorem test_decode_major_1e : ([(0xE805DE00, .rdegPin 29 1),
    (0x5002DE00, .rdegAuto 10 2),
    (0xE000DE01, .rpref 28 0)] : List (Nat × Instr)).all (fun p => reads 4 p.1 p.2) = true := by decide +kernel

theorem test_decode_major_1f : ([(0xBD40DF80, .gform 16 23 21),
    (0x7800DFA1, .gstat 20 15),
    (0x9B45DF12, .coll 2 19 13 5),
    (0x5800DF03, .cabort 11)] : List (Nat × Instr)).all (fun p => reads 4 p.1 p.2) = true := by decide +kernel

theorem test_decode_major_20 : ([(0xA800E000, .setvl 0 21),
    (0x0002E001, .setspanImm 0 .i32),
    (0x8000E002, .setspanReg 16),
    (0x2816E003, .oxl 5 .mat 6),
    (0x1006E004, .oxs 2 6),
    (0x0824E005, .oxr 1 .pack 4)] : List (Nat × Instr)).all (fun p => reads 4 p.1 p.2) = true := by decide +kernel

theorem test_decode_major_21 : ([(0x2810E170, .vld 14 5 2),
    (0xA7D0E1C1, .vlds 24 20 31 2),
    (0x48B0E192, .vldx 18 9 2 6),
    (0x0B89E142, .vldxOi 8 1 14 1),
    (0x1010E10B, .vst 1 2 2),
    (0x3638E1BC, .vsts 23 6 24 7),
    (0x0BF8E11D, .vstx 3 1 15 7),
    (0x0749E185, .vstxOi 16 0 29 1),
    (0x2038E12E, .vappend 5 4 7)] : List (Nat × Instr)).all (fun p => reads 4 p.1 p.2) = true := by decide +kernel

theorem test_decode_major_22 : ([(0x2418E280, .vadd 16 4 16 3),
    (0x7778E269, .vsub 13 14 29 7),
    (0x27A0E2C2, .vmul 24 4 30 4),
    (0x6110E213, .vmulh 2 12 4 2),
    (0x84D0E2AC, .vmin 21 16 19 2),
    (0xF0F8E205, .vmax 0 30 3 7),
    (0x3378E28E, .vand 17 6 13 7),
    (0x9778E297, .vor 18 18 29 7),
    (0x3B21E2E8, .vxor 29 7 12 4),
    (0xF061E229, .vshl 5 30 1 4),
    (0x2721E2EA, .vshr 29 4 28 4),
    (0x6B49E2C3, .vsra 24 13 13 1),
    (0x4C29E22D, .vsel 5 9 16 5),
    (0x8809E246, .vabs 8 17 1),
    (0x7039E2BF, .vneg 23 14 7),
    (0xC852E238, .vcmpEq 7 25 1 2),
    (0xFF32E201, .vcmpNe 0 31 28 6),
    (0x4EAAE222, .vcmpLt 4 9 26 5),
    (0xA1EAE233, .vcmpLe 6 20 7 5),
    (0xA572E204, .vcmpGt 0 20 21 6),
    (0x6022E20D, .vcmpGe 1 12 0 4)] : List (Nat × Instr)).all (fun p => reads 4 p.1 p.2) = true := by decide +kernel

theorem test_decode_major_23 : ([(0xB930E380, .vaddVs 16 23 4 6),
    (0x25F0E3C1, .vsubVs 24 4 23 6),
    (0x1C48E38A, .vmulVs 17 3 17 1),
    (0x9258E31B, .vmulhVs 3 18 9 3),
    (0xDD18E38C, .vminVs 17 27 20 3),
    (0xD870E3BD, .vmaxVs 23 27 1 6),
    (0x28F0E36E, .vandVs 13 5 3 6),
    (0x44B8E3E7, .vorVs 28 8 18 7),
    (0x42B9E318, .vxorVs 3 8 10 7),
    (0xACA1E3D1, .vshlVs 26 21 18 4),
    (0x8659E382, .vshrVs 16 16 25 3),
    (0xF649E39B, .vsraVs 19 30 25 1),
    (0x5119E355, .vselVs 10 10 4 3),
    (0x772AE338, .vcmpEqVs 7 14 28 5),
    (0xDA1AE339, .vcmpNeVs 7 27 8 3),
    (0x2AEAE31A, .vcmpLtVs 3 5 11 5),
    (0xA3EAE30B, .vcmpLeVs 1 20 15 5),
    (0x6072E324, .vcmpGtVs 4 12 1 6),
    (0xD372E335, .vcmpGeVs 6 26 13 6)] : List (Nat × Instr)).all (fun p => reads 4 p.1 p.2) = true := by decide +kernel

theorem test_decode_major_24 : ([(0xA8F8E488, .vfadd 17 21 3 7),
    (0xBA18E489, .vfsub 17 23 8 3),
    (0x8BF0E42A, .vfmul 5 17 15 6),
    (0xE6E0E4CB, .vfdiv 25 28 27 4),
    (0x40B0E40C, .vfmin 1 8 2 6),
    (0xF808E4F5, .vfmax 30 31 0 1),
    (0xEF18E4CE, .vfma 25 29 28 3),
    (0x7250E437, .vfms 6 14 9 2),
    (0xE809E430, .vfsqrt 6 29 1),
    (0x0011E411, .vfabs 2 0 2),
    (0x1021E472, .vfneg 14 2 4),
    (0x8031E443, .vfclass 8 16 6),
    (0x3121E40C, .vfcmpEq 1 6 4 4),
    (0xC419E41D, .vfcmpNe 3 24 16 3),
    (0x04F9E406, .vfcmpLt 0 0 19 7),
    (0xA3F9E427, .vfcmpLe 4 20 15 7)] : List (Nat × Instr)).all (fun p => reads 4 p.1 p.2) = true := by decide +kernel

theorem test_decode_major_25 : ([(0x7870E578, .vfaddVs 15 15 1 6),
    (0x1858E599, .vfsubVs 19 3 1 3),
    (0xD160E5FA, .vfmulVs 31 26 5 4),
    (0xDDD8E573, .vfdivVs 14 27 23 3),
    (0x1570E5FC, .vfminVs 31 2 21 6),
    (0xCB00E5BD, .vfmaxVs 23 25 12 0),
    (0x2378E596, .vfmaVs 18 4 13 7),
    (0x9B18E567, .vfmsVs 12 19 12 3),
    (0x7421E53C, .vfcmpEqVs 7 14 16 4),
    (0xFAD9E50D, .vfcmpNeVs 1 31 11 3),
    (0xD0D1E53E, .vfcmpLtVs 7 26 3 2),
    (0x1B41E537, .vfcmpLeVs 6 3 13 0)] : List (Nat × Instr)).all (fun p => reads 4 p.1 p.2) = true := by decide +kernel

theorem test_decode_major_26 : ([(0xD040E64A, .vcvt 9 26 .i16 0 .rup),
    (0xE509E6C9, .vpack 25 28 20 1 1),
    (0xAB12E657, .vunpack 10 21 12 2 7)] : List (Nat × Instr)).all (fun p => reads 4 p.1 p.2) = true := by decide +kernel

theorem test_decode_major_27 : ([(0x9830E710, .vredAdd 2 19 6),
    (0xA838E7B9, .vredMin 23 21 7),
    (0x3000E752, .vredMax 10 6 0),
    (0x8808E72B, .vredAnd 5 17 1),
    (0xD008E7B4, .vredOr 22 26 1),
    (0xC028E76D, .vredXor 13 24 5),
    (0xD809E798, .vscanIncAdd 19 27 1),
    (0xF019E719, .vscanIncMin 3 30 3),
    (0xE019E7BA, .vscanIncMax 23 28 3),
    (0xB839E7A3, .vscanIncAnd 20 23 7),
    (0xD019E70C, .vscanIncOr 1 26 3),
    (0x1031E7CD, .vscanIncXor 25 2 6),
    (0xE80AE710, .vscanExcAdd 2 29 1),
    (0x801AE719, .vscanExcMin 3 16 3),
    (0xA82AE722, .vscanExcMax 4 21 5),
    (0xA802E78B, .vscanExcAnd 17 21 0),
    (0xA022E784, .vscanExcOr 16 20 4),
    (0x000AE79D, .vscanExcXor 19 0 1),
    (0x71BBE708, .vredbs 1 14 6 7)] : List (Nat × Instr)).all (fun p => reads 4 p.1 p.2) = true := by decide +kernel

theorem test_decode_major_28 : ([(0xC430E8E8, .vxchg 29 24 16 6),
    (0x47D0E8F9, .vrot 31 8 31 2),
    (0x9810E802, .vbcast 0 19 2),
    (0xA028E87B, .vcompress 15 20 5),
    (0xB808E8EC, .vexpand 29 23 1),
    (0xCA98E865, .vperm 12 25 10 3),
    (0x20B8E8D6, .vslideUp 26 4 2 7),
    (0x56C8E8A7, .vslideDn 20 10 27 1)] : List (Nat × Instr)).all (fun p => reads 4 p.1 p.2) = true := by decide +kernel

theorem test_decode_major_29 : ([(0x2040E908, .mand 1 4 1),
    (0x0980E919, .mor 3 1 6),
    (0x3880E93A, .mxor 7 7 2),
    (0x1000E91B, .mnot 3 2),
    (0x3800E9D4, .mpop 26 7),
    (0x0800E97D, .mfirst 15 1),
    (0x9000E926, .mset 4 18)] : List (Nat × Instr)).all (fun p => reads 4 p.1 p.2) = true := by decide +kernel

theorem test_decode_major_2a : ([(0x8828EA88, .vexp2 17 17 5),
    (0x8018EA81, .vlog2 16 16 3),
    (0x7810EAE2, .vrcp 28 15 2),
    (0x7810EA7B, .vrsqrt 15 15 2),
    (0x6028EA94, .vsinpi 18 12 5),
    (0xC820EA25, .vcospi 4 25 4),
    (0x7008EA7E, .vtanh 15 14 1),
    (0x1008EAEF, .vsigm 29 2 1)] : List (Nat × Instr)).all (fun p => reads 4 p.1 p.2) = true := by decide +kernel

theorem test_decode_major_2b : ([(0xF3B8EB00, .vrng 0 30 14 7)] : List (Nat × Instr)).all (fun p => reads 4 p.1 p.2) = true := by decide +kernel

theorem test_decode_major_30 : ([(0x1483F010, .mma 2 2 18 3),
    (0x8003F009, .mzero 1 .x 16),
    (0x3581F002, .mld 0 6 22 .i32),
    (0xB805F003, .mst 0 23 5),
    (0x0000F00C, .macc 1 0),
    (0x1080F06D, .mrowR 13 2 2),
    (0x0501F00D, .mrowW 1 0 20)] : List (Nat × Instr)).all (fun p => reads 4 p.1 p.2) = true := by decide +kernel

theorem test_decode_major_38 : ([(0xB908F8D3, .gor2 26 23 false 4 1 3),
    (0xFA71F811, .gor3 2 31 true 1 6 1),
    (0x48B2F8CC, .ginc 25 9 false 2 6 4),
    (0x9383F8D4, .gins 26 18 true 6 0 4),
    (0xD22CF8B3, .gsegx 22 26 true 0 5 3)] : List (Nat × Instr)).all (fun p => reads 4 p.1 p.2) = true := by decide +kernel

theorem test_decode_major_3c : ([(0x0640FC00, .svc 1600),
    (0x067AFC01, .brk 1658),
    (0x0000FC02, .eret),
    (0x0000FC03, .ifence),
    (0x0000FC04, .done),
    (0x0000FC05, .yield),
    (0x6800FC06, .hop 13),
    (0x0001FC07, .cncl 0 .launch)] : List (Nat × Instr)).all (fun p => reads 4 p.1 p.2) = true := by decide +kernel

theorem test_decode_major_3d : ([(0x06C7FD50, .ctlr 10 1735),
    (0x3972FD01, .ctlw 7 370),
    (0xBF5FFDCA, .ctlx 25 23 1887),
    (0x5200FD03, .tlbinv 10 8)] : List (Nat × Instr)).all (fun p => reads 4 p.1 p.2) = true := by decide +kernel

theorem test_decode_short : ([(0x0900, .cMov 18 0),
    (0x04E9, .cAdd 9 26),
    (0x0BD2, .cAddi 23 20),
    (0x140C, .cLd 8 3),
    (0x1CF5, .cSt 29 25),
    (0x2CE6, .cBeqz 25 102),
    (0x3C9A, .cBnez 25 26),
    (0x4F68, .cJ 3944)] : List (Nat × Instr)).all (fun p => reads 2 p.1 p.2) = true := by decide +kernel


/-! ### One step of instructions, with results that the specification works out -/

def gives (i : Instr) (s : State) (d : SReg) (x : Word) (fl : BitVec 6 := 0) : Bool := after i s fun t => t.getS d == x && t.me.img.flags == fl && t.me.pc == s.me.pc + 4
def ones : State := world (cpu [(3, BitVec.allOnes 64), (4, BitVec.allOnes 64), (6, BitVec.intMin 64)]) []
/-- The examples below R128. -/
theorem test_high_products : gives (.mulh 5 3 4) ones 5 0 = true ∧ gives (.mulhn 5 3 4) ones 5 0xFFFFFFFFFFFFFFFE = true ∧ gives (.mulhin 5 3 4) ones 5 (BitVec.allOnes 64) = true := by decide +kernel
theorem test_add_wraps : gives (.add 5 3 4) ones 5 0xFFFFFFFFFFFFFFFE = true := by decide +kernel
/-- R37: s0 discards a write. -/
theorem test_zero_register : gives (.add 0 3 4) ones 0 0 = true := by decide +kernel
def conv1 (x : Word) : State := world (cpu [(3, x)]) []
/-- The table of worked conversions in 02_arithmetic.md. -/
theorem test_float_to_float : gives (.fcvt 5 3 .bf16 .f32 .rne) (conv1 0x3F808000) 5 0x3F80 1 = true ∧ gives (.fcvt 5 3 .bf16 .f32 .rne) (conv1 0x3F818000) 5 0x3F82 1 = true
    ∧ gives (.fcvt 5 3 .f16 .f32 .rne) (conv1 0x477FF000) 5 0x7C00 5 = true ∧ gives (.fcvt 5 3 .f16 .f32 .rtz) (conv1 0x477FF000) 5 0x7BFF 1 = true := by decide +kernel
theorem test_float_to_integer : gives (.fcvt 5 3 .i32 .f32 .rup) (conv1 0xC0200000) 5 (-2) 1 = true ∧ gives (.fcvt 5 3 .i32 .f32 .rna) (conv1 0xC0200000) 5 (-3) 1 = true
    ∧ gives (.fcvt 5 3 .f32 .i32 .rne) (conv1 16777217) 5 0x4B800000 1 = true := by decide +kernel
/-- v4 holds these f32 values, VL their number. -/
def wF32 (l : List Nat) : State := (withVl (world (cpu []) []) 0xB l.length 0).mapMe fun c => { c with img := { c.img with v := c.img.v.set 4 (BitVec.ofNat 2048 (l.foldr (fun x n => x + 2 ^ 32 * n) 0)) } }
def elem0 (i : Instr) (s : State) (d : VReg) (x : Nat) (fl : BitVec 6) : Bool := after i s fun t => elemGet t.me.img.v d.val 32 0 == x && t.me.img.flags == fl
/-- The twelve values of 02_arithmetic.md. -/
theorem test_canonical_sum : elem0 (.vredAdd 8 4 0) (wF32 (0x4B800000 :: List.replicate 11 0x3F800000)) 8 0x4B800005 1 = true := by decide +kernel
/-- The two cases below R261. -/
theorem test_exp2_log2 : elem0 (.vexp2 8 4 0) (wF32 [0x3F000000]) 8 0x3FB504F3 1 = true ∧ elem0 (.vlog2 8 4 0) (wF32 [0x40400000]) 8 0x3FCAE00D 1 = true := by decide +kernel
/-- The window addresses below R47, loaded from a strand on die 0 and one on die 15, ring 3. -/
def wAt (die : DieId) (ring : Nat) (va : Word) (loc : Nat) : State :=
  let c := { cpu [(3, va)] with die := die, slot := slotOf ring 0 0 }
  world c (memWrite [] loc (bytesOf 8 0x1122334455667788))
theorem test_window_addresses : gives (.ldD 5 3 0) (wAt 0 0 0x008A800000012340 (tileLoc 5 2 0x12340)) 5 0x1122334455667788 = true
    ∧ gives (.ldD 5 3 0) (wAt 15 3 0x00A3C00000000100 (tileLoc 0 2 0x100)) 5 0x1122334455667788 = true
    ∧ gives (.ldD 5 3 0) (wAt 7 1 0x00A3C00000000100 (tileLoc 8 0 0x100)) 5 0x1122334455667788 = true := by decide +kernel
/-- The example below R337. -/
theorem test_slice : sliceOf DevRegs.reset.hmask 0x0000005123456700 = 2 ∧ homeOf 0x0000005123456700 = 5 := by decide +kernel
/-- R151, R43 and R152: into the handler and back. -/
theorem test_svc_eret : after (.svc 9) (cpu [] |> fun c => world c []) (fun t => t.me.level == .system && t.me.pc == 0x7700 && t.me.epc == 0x00A0000000000004 && t.me.tval == 9
    && after .eret t fun u => u.me.level == .strand && u.me.pc == 0x00A0000000000004) = true := by decide +kernel
/-- R87: a misaligned load traps with its address, and writes nothing. -/
theorem test_misaligned : after (.ldD 5 3 1) (conv1 0x1000) (fun t => t.me.cause.toNat == cMISALIGN.toNat && t.me.tval == 0x1001 && t.getS 5 == 0) = true := by decide +kernel

/-! ### Terms that are not well-formed -/

def bad (k : EpKind) (op : BitVec 8) : HostReq := hreq k op 0 0 0 0 4033 []
theorem smoke_scalar : Instr.wf (.sext 1 2 .d) = false ∧ Instr.wf (.zext 1 2 .d) = false ∧ Instr.wf (.cMov 0 0) = false ∧ Instr.wf (.fcvt 1 2 .f32 .f32 .rne) = false
    ∧ Instr.wf (.fcvt 1 2 .i32 .n64 .rne) = false ∧ Instr.wf (.vcvt 1 2 .dxb8 0 .rne) = false ∧ Instr.wf (.vcvt 1 2 .dxb4 0 .rne) = false ∧ Instr.wf (.mzero 1 .f32 3) = false := by decide +kernel
theorem smoke_requests : Instr.wf (.jobSubmit (hreq .job 2 0 0 0 0 0 [])) = false ∧ Instr.wf (.jobCancel (hreq .job 1 0 0 0 0 0 [])) = false ∧ Instr.wf (.jobRelease (bad .job 3)) = false
    ∧ Instr.wf (.memOpen (hreq .ctl 1 0 0 0 0 0 [])) = false ∧ Instr.wf (.memClose (bad .mem 2)) = false ∧ Instr.wf (.memRead (bad .mem 3)) = false ∧ Instr.wf (.memWrite (bad .mem 4)) = false
    ∧ Instr.wf (.ctlRdreg (bad .ctl 1)) = false ∧ Instr.wf (.ctlWrreg (hreq .ctl 2 0x138 0 0 0 0 [])) = false ∧ Instr.wf (.ptpctlWrite (hreq .ctl 2 0x130 0 0 0 0 [])) = false
    ∧ Instr.wf (.ctlTlbinv { hreq .ctl 3 0 0 0 0 0 [] with clean := false }) = false ∧ Instr.wf (.ctlGfree { hreq .ctl 4 0 0 0 0 0 [] with ver := 2 }) = false ∧ Instr.wf (.ctlFreeze (bad .ctl 5)) = false
    ∧ Instr.wf (.telRead (bad .tel 1)) = false ∧ Instr.wf (.telSubscribe (bad .tel 2)) = false ∧ Instr.wf (.dbgRead (bad .dbg 1)) = false ∧ Instr.wf (.dbgWrite (bad .dbg 2)) = false
    ∧ Instr.wf (.dbgHalt (bad .dbg 3)) = false ∧ Instr.wf (.dbgResume (bad .dbg 4)) = false ∧ Instr.wf (.dbgRddir (bad .dbg 5)) = false ∧ Instr.wf (.dbgRdbfmt (bad .dbg 6)) = false
    ∧ Instr.wf (.ageRead (bad .age 1)) = false ∧ Instr.wf (.ageRetire (bad .age 2)) = false ∧ Instr.wf (.reservedOpRequest (hreq .age 1 0 0 0 0 0 [])) = false := by decide +kernel
theorem smoke_other_events : Instr.wf (.podRequest ⟨0, 0, 3, .read⟩) = false ∧ Instr.wf (.podRequest ⟨0, 0, 8, .write [1]⟩) = false ∧ Instr.wf (.podRequest ⟨0, 0, 2, .atomic .add 1 0⟩) = false
    ∧ Instr.wf (.scanAccess (.memRead 4)) = false ∧ Instr.wf (.scanAccess (.memWrite 9 0)) = false := by decide +kernel

/-! ### A step fetches, decodes and runs -/

noncomputable def steps (s t : State) : Bool := match step s with | .next u => decide (u = t) | _ => false
/-- The same but for what the sequencer of the slot holds (R396). -/
noncomputable def stepsTo (s t : State) : Bool :=
  match step s with | .next u => decide ((u.mapMe fun c => { c with deficit := 0, granted := false }) = t.mapMe fun c => { c with deficit := 0, granted := false }) | _ => false
theorem test_step_runs : (let s := wFetch 32 0x2B45C428; stepsTo s (left s (exec (.addi 5 5 837) (s.mapMe fun c => { c with iword := 0x2B45C428 })))) = true
    ∧ (let s := wFetch 16 0x0015; stepsTo s (left s (exec (.cAdd 0 5) (s.mapMe fun c => { c with iword := 0x0015 })))) = true
    ∧ (let s := wFetch 32 0x0001C018; stepsTo s (left s (exec (.reservedEncoding 0x0001C018) (s.mapMe fun c => { c with iword := 0x0001C018 })))) = true
    ∧ (let s := (wFetch 32 0).mapMe fun c => { c with pc := 0x0100000000000000 }; stepsTo s (left s (exec (.instructionFetchFault cNONCANON 0x0100000000000000) s))) = true := by decide +kernel
theorem test_agenda_turn : steps { w0 with agenda := [.event .moduleReset, .pass 3] } { w0.moduleReset with agenda := [.pass 3] } = true
    ∧ steps { w0 with agenda := [.pass 3] } { w0 with tick := w0.tick + 3 } = true := by decide +kernel
/-- `vadd.i32 v4, v2, v6` with VL = 40, pre-empted after two of its three groups, as in the example of chapter 12 (R229, log 87). -/
def wGroups : State := (wFetch 32 0x1180E220).mapMe fun c =>
  { c with img := { c.img with span := 0x002, vl := 40, v := (c.img.v.set 2 (1 + 2 ^ 1024)).set 6 (2 + 2 ^ 1024) } }
theorem test_groups_turn : (match step { wGroups with agenda := [.groups 2] } with
    | .next t => decide (t.me.pc = wGroups.me.pc ∧ t.me.img.ridx = 32 ∧ t.me.img.vl = 40 ∧ t.me.img.v[4] = 3 ∧ t.me.dirty.v = true)
    | _ => false) = true
    ∧ steps { wGroups with agenda := [.groups 3] } wGroups = true := by decide +kernel
end Sys2Proof.Tests
end

section
/-! SUPPORT. State operations that leave memory as it is. -/

namespace Sys2Proof.Machine

@[simp] theorem ite_mem {p : Prop} {_ : Decidable p} (a b : State) : (if p then a else b).mem = if p then a.mem else b.mem := by split <;> rfl

@[simp] theorem foldl_mem {α : Type} (f : State → α → State) (h : ∀ t x, (f t x).mem = t.mem) (l : List α) (s : State) :
    (l.foldl f s).mem = s.mem := foldl_keeps State.mem f h l s

variable (s : State)

@[simp] theorem putCtx_mem (c : Ctx) : (s.putCtx c).mem = s.mem := mem_of_ite rfl rfl
@[simp] theorem focus_mem (d : DieId) (k : SlotNo) : (s.focus d k).mem = s.mem := mem_of_ite rfl rfl
@[simp] theorem mapLink_mem (d : DieId) (dir : Dir) (f : Link → Link) : (s.mapLink d dir f).mem = s.mem := rfl
@[simp] theorem countFlits_mem (t : State) : (s.countFlits t).mem = t.mem := by
  unfold State.countFlits
  refine foldl_mem _ (fun u p => ?_) _ _
  split <;> simp
@[simp] theorem sendAway_mem (m : Member) (x : GroupMsg) : (s.sendAway m x).mem = s.mem := by
  unfold State.sendAway
  split <;> simp
@[simp] theorem flushAway_mem : s.flushAway.mem = s.mem := by simp [State.flushAway]
@[simp] theorem dropEntry_mem (d : DieId) (e : TlbEntry) : (s.dropEntry d e).mem = s.mem := rfl
@[simp] theorem announce_mem (c : Ctx) (k : Chunk) (loc n : Nat) : (s.announce c k loc n).mem = s.mem := mem_of_ite rfl rfl
@[simp] theorem mapChunk_mem (c : Ctx) (f : Chunk → Chunk) : (s.mapChunk c f).mem = s.mem := mem_of_ite rfl rfl
@[simp] theorem sendLiveouts_mem (c : Ctx) : (s.sendLiveouts c).mem = s.mem := by
  unfold State.sendLiveouts
  split <;> simp
@[simp] theorem freshFetch_mem (d : DieId) (slot : SlotNo) : (s.freshFetch d slot).mem = s.mem := mem_of_ite rfl rfl
@[simp] theorem startChunk_mem (r : Region) (d : DieId) (slot : SlotNo) (j : Nat) (oldest spec : Bool) (memSq : Nat) :
    (s.startChunk r d slot j oldest spec memSq).mem = s.mem := by simp [State.startChunk]
@[simp] theorem free_mem (d : DieId) (slot : SlotNo) : (s.free d slot).mem = s.mem := mem_of_ite rfl rfl
@[simp] theorem inherit_mem (d : DieId) (src dst : SlotNo) : (s.inherit d src dst).mem = s.mem := mem_of_ite rfl rfl
@[simp] theorem freeClaimed_mem (o : Ctx) : (s.freeClaimed o).mem = s.mem := by
  unfold State.freeClaimed
  split <;> simp
@[simp] theorem squashExit_mem (c : Ctx) (j : Nat) : (s.squashExit c j).mem = s.mem := by simp [State.squashExit, squashEvent_mem]
@[simp] theorem endSpeculation_mem (c : Ctx) : (s.endSpeculation c).mem = s.mem := by
  unfold State.endSpeculation
  split <;> simp
@[simp] theorem endRegion_mem (c : Ctx) (r : Region) : (s.endRegion c r).mem = s.mem := by simp [State.endRegion]
@[simp] theorem weirPassed_mem (c : Ctx) (k : Chunk) (r : Region) : (s.weirPassed c k r).mem = s.mem := by simp [State.weirPassed]
@[simp] theorem savePlace_mem (c : Ctx) (va : Nat) : (s.savePlace c va).1.mem = s.mem := by
  unfold State.savePlace
  dsimp only
  split <;> simp
@[simp] theorem notePreemax_mem (c : Ctx) : (s.notePreemax c).mem = s.mem := by
  unfold State.notePreemax
  split <;> simp
@[simp] theorem post_mem (ep : Endpoint) (op : Nat) (die : DieId) (tag addr arg0 arg1 : Word) (payload : List Byte) :
    (s.post ep op die tag addr arg0 arg1 payload).mem = s.mem := by
  unfold State.post
  split <;> simp
@[simp] theorem badrec_mem (n : Nat) (tag : Word) : (s.badrec n tag).mem = s.mem := by simp [State.badrec]
@[simp] theorem ended_mem (level obj : Nat) : (s.ended level obj).mem = s.mem := mem_of_ite rfl rfl
@[simp] theorem putRun_mem (r r' : Run) : (s.putRun r r').mem = s.mem := rfl
@[simp] theorem jobMsg_mem (r : Run) (obj level : Nat) (addr : Word) : (s.jobMsg r obj level addr).mem = s.mem := by simp [State.jobMsg]
@[simp] theorem endLive_mem (d : DieId) (l : Live) : (s.endLive d l).mem = s.mem := mem_of_ite rfl rfl
@[simp] theorem clearResv_mem (c : Ctx) : (s.clearResv c).mem = s.mem := by
  unfold State.clearResv
  refine foldl_mem _ (fun t d => ?_) _ _
  exact mem_of_ite rfl rfl
@[simp] theorem withdraw_mem (c : Ctx) : (s.withdraw c).mem = s.mem := by
  unfold State.withdraw
  split
  · rfl
  · rw [mapDie_mem]
    exact (foldl_mem _ (fun t d => by rw [mapDie_mem]) _ _).trans rfl
@[simp] theorem losePred_mem (c : Ctx) : (s.losePred c).mem = s.mem := rfl
@[simp] theorem ringEmptied_mem (d : DieId) : (s.ringEmptied d).mem = s.mem := by
  unfold State.ringEmptied
  split <;> simp
@[simp] theorem vacate_mem : s.vacate.mem = s.mem := by simp [State.vacate]
@[simp] theorem makeReady_mem (d : DieId) (w : Waiting) : (s.makeReady d w).mem = s.mem := rfl
@[simp] theorem keepHalted_mem (d : DieId) (w : Waiting) : (s.keepHalted d w).mem = s.mem := rfl
@[simp] theorem ptpWrite_mem (x : Word) : (s.ptpWrite x).mem = s.mem := by simp [State.ptpWrite]
@[simp] theorem writeReg_mem (d : DieId) (off : Nat) (x : Word) : (s.writeReg d off x).mem = s.mem := by
  unfold State.writeReg
  (repeat' split) <;> simp
@[simp] theorem devWrite_mem (loc : Nat) (bs : List Byte) : (s.devWrite loc bs).mem = s.mem := by
  unfold State.devWrite
  dsimp only
  split <;> simp [loseResv_mem]
@[simp] theorem setEmpty_mem (loc : Nat) (e : Bool) : (s.setEmpty loc e).mem = s.mem := rfl
@[simp] theorem reserve_mem (a : Asker) (loc : Nat) : (s.reserve a loc).mem = s.mem := by
  unfold State.reserve
  rw [mapDie_mem]
  refine mem_of_ite ?_ ((dropResv_mem _ _).trans ?_) <;> exact foldl_mem _ (fun t d => by rw [mapDie_mem]) _ _
@[simp] theorem rredFlag_mem (loc : Nat) (f : BitVec 6) : (s.rredFlag loc f).mem = s.mem := mem_of_ite rfl rfl
@[simp] theorem dropTrap_mem : s.dropTrap.mem = s.mem := rfl
@[simp] theorem claim_mem (r : Region) : (s.claim r).mem = s.mem := mem_of_ite rfl rfl
@[simp] theorem eret_mem : s.eret.mem = s.mem := by
  unfold State.eret
  refine mem_of_ite rfl ?_
  dsimp only
  split <;> simp
@[simp] theorem advance_mem (n : Nat) : (s.advance n).mem = s.mem := rfl
@[simp] theorem done4_mem : s.done4.mem = s.mem := rfl
@[simp] theorem jump_mem (pc : Word) (depth : BitVec 16) : (s.jump pc depth).mem = s.mem := rfl
@[simp] theorem callTo_mem (link isReg : Bool) (pc : Word) : (s.callTo link isReg pc).mem = s.mem := by simp [State.callTo]
@[simp] theorem noteMig_mem (p : Place) : (s.noteMig p).mem = s.mem := mem_of_ite rfl rfl
@[simp] theorem askLine_mem (p : Place) (line : Nat) : (s.askLine p line).mem = s.mem := mem_of_ite rfl rfl
@[simp] theorem squashYounger_mem (cause : SquashCause) : (s.squashYounger cause).mem = s.mem := by
  unfold State.squashYounger
  split <;> simp [squashEvent_mem]
@[simp] theorem noteDue_mem (p : Place) : (s.noteDue p).mem = s.mem := mem_of_ite rfl rfl
@[simp] theorem setRemote_mem (loc : Nat) : (s.setRemote loc).mem = s.mem := mem_of_ite rfl rfl
@[simp] theorem noteSpec_mem (loc n : Nat) : (s.noteSpec loc n).mem = s.mem := by
  unfold State.noteSpec
  split <;> simp
@[simp] theorem noteLost_mem (bs : List (Option Byte)) : (s.noteLost bs).1.mem = s.mem := by
  unfold State.noteLost
  split <;> simp
@[simp] theorem countDropped_mem (m : BitVec 16) : (s.countDropped m).mem = s.mem := mem_of_ite rfl rfl
theorem release_mem {s : State} {f : State → State} (sc : Scope) (h : ∀ t : State, (f t).mem = t.mem) : (s.release sc f).mem = s.mem := by
  simp [State.release, h]
@[simp] theorem acquire_mem : s.acquire.mem = s.mem := by simp [State.acquire]
@[simp] theorem waitAt_mem (what : WaitFor) (loc t0 lim : Nat) (entry nack : Bool) : (s.waitAt what loc t0 lim entry nack).mem = s.mem := rfl
@[simp] theorem result_mem (d : SReg) (x : Word) : (s.result d x).mem = s.mem := rfl
@[simp] theorem inSlot_mem (d : DieId) (k : SlotNo) (f : State → State) : (s.inSlot d k f).mem = (f (s.focus d k)).mem := by simp [State.inSlot]
@[simp] theorem markStop_mem : s.markStop.mem = s.mem := rfl
@[simp] theorem loseData_mem (p : DieId × SlotNo) : (s.loseData p).mem = s.mem := mem_of_ite rfl rfl
@[simp] theorem dropReady_mem (d : DieId) (strand : Word) : (s.dropReady d strand).mem = s.mem := rfl
@[simp] theorem withdrawOf_mem (d : DieId) (strand : Word) : (s.withdrawOf d strand).mem = s.mem := by simp [State.withdrawOf]
@[simp] theorem lowerRegion_mem (d : DieId) (ix code : Nat) (who : Requester) : (s.lowerRegion d ix code who).mem = s.mem := by
  simp [State.lowerRegion, collapseLine_mem]
@[simp] theorem countDeg_mem (d : DieId) (old new : Nat) : (s.countDeg d old new).mem = s.mem := by simp [State.countDeg]
@[simp] theorem prefetchLines_mem (d : DieId) (slot : SlotNo) (kind : Pref) (hint : BitVec 2) (lo n : Nat) :
    (s.prefetchLines d slot kind hint lo n).mem = s.mem := by simp [State.prefetchLines]
@[simp] theorem prefetch_mem (d : DieId) (slot : Option SlotNo) (kind : Pref) (strandLevel : Bool) (root fuel va n : Nat) :
    (s.prefetch d slot kind strandLevel root fuel va n).mem = s.mem := by
  induction fuel generalizing s va n with
  | zero => rfl
  | succ fuel ih =>
    unfold State.prefetch
    refine mem_of_ite rfl ?_
    dsimp only
    split <;> simp [ih]
@[simp] theorem sendCacks_mem (d : DieId) (line : Nat) (ws : List Requester) : (s.sendCacks d line ws).mem = s.mem := mem_of_ite rfl rfl
@[simp] theorem lowered_mem (id : Nat) : (s.lowered id).mem = s.mem := mem_of_ite rfl rfl
@[simp] theorem mapLive_mem (t : DieId) (h : Nat) (f : Live → Live) : (s.mapLive t h f).mem = s.mem := rfl
@[simp] theorem prefetchOps_mem (d : DieId) (l : Live) : (s.prefetchOps d l).mem = s.mem := by
  unfold State.prefetchOps
  refine foldl_mem _ (fun t o => ?_) _ _
  refine mem_of_ite rfl (foldl_mem _ (fun u k => prefetch_mem ..) _ _)
@[simp] theorem stageRing_mem (d : DieId) (ring : Nat) (l : Live) : (s.stageRing d ring l).mem = s.mem := by
  unfold State.stageRing
  refine foldl_mem _ (fun t o => ?_) _ _
  rfl
@[simp] theorem placeStrand_mem (c : Ctx) (r : Option Region) : (s.placeStrand c r).mem = s.mem := by
  unfold State.placeStrand
  dsimp only
  split <;> simp [inSlot_mem]
@[simp] theorem sliceOver_mem (d : DieId) (prio : BitVec 3) : (s.sliceOver d prio).mem = s.mem := rfl
@[simp] theorem mapParked_mem (d : DieId) (strand : Word) (f : Parked → Parked) : (s.mapParked d strand f).mem = s.mem := rfl
@[simp] theorem wakeCtx_mem (d : DieId) (k : SlotNo) : (s.wakeCtx d k).mem = s.mem := mem_of_ite rfl rfl
@[simp] theorem clearPred_mem : s.clearPred.mem = s.mem := rfl
@[simp] theorem shareCtl_mem : s.shareCtl.mem = s.mem := rfl
@[simp] theorem ctlWrite_mem (n : Nat) (x : Word) : (s.ctlWrite n x).mem = s.mem := by simp [State.ctlWrite]
@[simp] theorem flagsSettled_mem (n : Nat) : (s.flagsSettled n).mem = s.mem := mem_of_ite rfl rfl
@[simp] theorem dropFetched_mem : s.dropFetched.mem = s.mem := mem_of_ite rfl rfl
@[simp] theorem dropTlb_mem (d : DieId) (lo n : Nat) : (s.dropTlb d lo n).mem = s.mem := rfl
@[simp] theorem tlbinv_mem (base len : Word) : (s.tlbinv base len).mem = s.mem := by
  unfold State.tlbinv
  refine release_mem _ fun t => ?_
  simp
@[simp] theorem takeRecord_mem (r : List Byte) : (s.takeRecord r).mem = s.mem := rfl
@[simp] theorem useLeaf_mem (d : DieId) : (s.useLeaf d).mem = s.mem := rfl
@[simp] theorem freeze_mem : s.freeze.mem = s.mem := rfl
@[simp] theorem shift_mem (x : Option (List Byte)) : (s.shift x).mem = s.mem := rfl
@[simp] theorem iterate_mem : s.iterate.mem = s.mem := rfl
@[simp] theorem endChunk_mem (final : Bool) : (s.endChunk final).mem = s.mem := rfl
@[simp] theorem doneElems_mem : s.doneElems.mem = s.mem := rfl
@[simp] theorem elemwise_mem (d : VReg) (m : MReg) (f : Nat → FRes) : (s.elemwise d m f).mem = s.mem := rfl
@[simp] theorem elemMask_mem (d m : MReg) (f : Nat → Bool × BitVec 6) : (s.elemMask d m f).mem = s.mem := rfl
@[simp] theorem whole_mem (d : VReg) (l : List (Nat × Nat)) (fl : BitVec 6) : (s.whole d l fl).mem = s.mem := rfl
@[simp] theorem setOx_mem (x : OxReg) (k : OxKind) (v : Word) : (s.setOx x k v).mem = s.mem := by
  unfold State.setOx
  dsimp only
  split
  · exact mem_of_ite rfl rfl
  · rfl
@[simp] theorem addIlk_mem (e : Ilk) : (s.addIlk e).mem = s.mem := rfl
@[simp] theorem noteBarrier_mem (bar : Option Place) : (s.noteBarrier bar).mem = s.mem := by
  unfold State.noteBarrier
  split <;> simp
@[simp] theorem countConv_mem (d : DieId) (ring : Nat) (fl : List (BitVec 6)) : (s.countConv d ring fl).mem = s.mem := by simp [State.countConv]
@[simp] theorem placeBanks_mem (st : Strip) : (s.placeBanks st).mem = s.mem := by
  unfold State.placeBanks
  split
  · rfl
  · refine foldl_mem _ (fun t m => ?_) _ _
    rfl
@[simp] theorem freeIlk_mem (id : Nat) : (s.freeIlk id).mem = s.mem := rfl
@[simp] theorem endColl_mem (id : Nat) : (s.endColl id).mem = s.mem := rfl
@[simp] theorem readTimeout_mem (id : Nat) (d : DieId) (slot : SlotNo) (line : Nat) (pref : Pref) :
    (s.readTimeout id d slot line pref).mem = s.mem := by
  unfold State.readTimeout
  exact mem_of_ite (count_mem ..) (mapCtx_mem ..)
@[simp] theorem storeTimeout_mem (d : DieId) (id : Nat) (whos : List (DieId × SlotNo)) : (s.storeTimeout d id whos).mem = s.mem := by
  simp [State.storeTimeout]
@[simp] theorem stripTimeout_mem (st : Strip) : (s.stripTimeout st).mem = s.mem := rfl
@[simp] theorem cackTimeout_mem (src : DieId) (x0 : Requester) : (s.cackTimeout src x0).mem = s.mem := by
  unfold State.cackTimeout
  split <;> simp
@[simp] theorem requestTimeout_mem (id : Nat) (d : DieId) (slot : SlotNo) (op : HomeOp) : (s.requestTimeout id d slot op).mem = s.mem := by
  unfold State.requestTimeout
  split <;> simp
@[simp] theorem countLink_mem (d : DieId) (dir : Dir) (ix n : Nat) : (s.countLink d dir ix n).mem = s.mem := by simp [State.countLink]
@[simp] theorem capture_mem (d : DieId) (ch bank row : Nat) : (s.capture d ch bank row).mem = s.mem := by simp [State.capture]
@[simp] theorem activated_mem (d : DieId) (ch bank row : Nat) : (s.activated d ch bank row).mem = s.mem := by simp [State.activated]
@[simp] theorem markLost_mem (loc n : Nat) : (s.markLost loc n).mem = s.mem := rfl
@[simp] theorem countCE_mem (d : DieId) (what : ErrArray) : (s.countCE d what).mem = s.mem := rfl
@[simp] theorem countUE_mem (d : DieId) (what : ErrArray) : (s.countUE d what).mem = s.mem := rfl
@[simp] theorem losePending_mem (d : DieId) (sector : Nat) : (s.losePending d sector).mem = s.mem := rfl
@[simp] theorem dropClean_mem (d : DieId) (line : Nat) (x0 : CleanAt) : (s.dropClean d line x0).mem = s.mem := by
  unfold State.dropClean
  split <;> simp [dropReplica_mem]
@[simp] theorem geoCount_mem (o : Option GeoRes) : (s.geoCount o).mem = s.mem := by
  unfold State.geoCount
  split <;> simp
@[simp] theorem countNonfin_mem : s.countNonfin.mem = s.mem := by simp [State.countNonfin]
@[simp] theorem putGroup_mem (d : DieId) (g : Group) : (s.putGroup d g).mem = s.mem := rfl
@[simp] theorem sendAborts_mem (d : DieId) (g : Group) (cause : BitVec 8) : (s.sendAborts d g cause).mem = s.mem := by
  unfold State.sendAborts
  split <;> simp
@[simp] theorem formDone_mem (d : DieId) (g : Group) (strand : Word) (status : BitVec 8) : (s.formDone d g strand status).mem = s.mem := rfl
@[simp] theorem formFail_mem (d : DieId) (g : Group) (status : BitVec 8) : (s.formFail d g status).mem = s.mem := by
  unfold State.formFail
  split <;> simp
@[simp] theorem formReady_mem (d : DieId) (g : Group) (gen : BitVec 32) (gid : Gid) : (s.formReady d g gen gid).mem = s.mem := by
  unfold State.formReady
  split <;> simp
@[simp] theorem tellMismatch_mem (d : DieId) (h : BitVec 8) (r : GroupReg × Option (DieId × BitVec 8)) : (s.tellMismatch d h r).mem = s.mem := by
  unfold State.tellMismatch
  (repeat' split) <;> simp
@[simp] theorem mismatch_mem (d : DieId) (g : Group) (regs : List (GroupReg × Option (DieId × BitVec 8))) : (s.mismatch d g regs).mem = s.mem := by
  simp [State.mismatch]
@[simp] theorem collect_mem (d : DieId) (g : Group) (f : Forming) : (s.collect d g f).mem = s.mem := by
  unfold State.collect
  refine mem_of_ite (mismatch_mem ..) (mem_of_ite ?_ rfl)
  refine (foldl_mem _ (fun t r => ?_) _ _).trans (formReady_mem ..)
  split
  · rfl
  · split <;> simp
@[simp] theorem register_mem (d : DieId) (g : Group) (f : Forming) : (s.register d g f).mem = s.mem := by
  unfold State.register
  split <;> simp
@[simp] theorem formResult_mem (d : SReg) (status : BitVec 8) (gen : BitVec 32) (h : BitVec 8) : (s.formResult d status gen h).mem = s.mem :=
  mem_of_ite rfl rfl
@[simp] theorem startForm_mem (g : Group) (ms : List Member) (det reform : Bool) (tmo : Nat) : (s.startForm g ms det reform tmo).mem = s.mem := by
  simp [State.startForm]
@[simp] theorem sendParts_mem (d : DieId) (g : Group) (o : CollOp) (data : List Byte) : (s.sendParts d g o data).mem = s.mem := by
  unfold State.sendParts
  split <;> simp
theorem takePacket_mem {s u : State} {q : Packet → Bool} (h : s.takePacket q = some u) : u.mem = s.mem := by
  obtain ⟨x, -, rfl⟩ := Option.map_eq_some_iff.mp h
  rfl
theorem takeReg_mem {s : State} {r : GroupReg} {u : State × DieId × BitVec 8} (h : s.takeReg r = some u) : u.1.mem = s.mem := by
  unfold State.takeReg at h
  split at h <;> cases h
  rfl
@[simp] theorem say_mem (m : PortMsg) : (s.say m).mem = s.mem := rfl
@[simp] theorem flushAsyncs_mem (ep : Endpoint) : (s.flushAsyncs ep).mem = s.mem := by simp [State.flushAsyncs]
@[simp] theorem closeConn_mem (ep : Endpoint) : (s.closeConn ep).mem = s.mem := rfl
@[simp] theorem respond_mem (req : HostReq) (r : HRes) : (s.respond req r).mem = s.mem := rfl
@[simp] theorem partFlags_mem (fl : BitVec 6) : (s.partFlags fl).mem = s.mem := rfl
@[simp] theorem enterElem_mem (size i : Nat) : (s.enterElem size i).mem = s.mem := rfl
@[simp] theorem noteLostElem_mem (bs : List (Option Byte)) : (s.noteLostElem bs).1.mem = s.mem := by
  unfold State.noteLostElem
  split <;> simp
@[simp] theorem groupBank_mem (base : Word) : (s.groupBank base).1.mem = s.mem := by
  unfold State.groupBank
  split <;> simp
@[simp] theorem noteOrdered_mem (va : Word) (n : Nat) : (s.noteOrdered va n).mem = s.mem := by
  unfold State.noteOrdered
  split <;> [rfl; split] <;> simp
@[simp] theorem drainRows_mem (d : AccReg) (skipz : Bool) (cols : List (List FV)) (rows : List (Nat × List FV)) :
    (s.drainRows d skipz cols rows).mem = s.mem := mem_of_ite rfl rfl
@[simp] theorem claimAt_mem (m : Rill) (count width : Nat) : (s.claimAt m count width).mem = s.mem := by
  unfold State.claimAt
  (repeat' split) <;> simp
@[simp] theorem setLiveIn_mem (c : Ctx) (k : Chunk) (r : SReg) (x : Word) : (s.setLiveIn c k r x).mem = s.mem := by simp [State.setLiveIn, squash_mem]
@[simp] theorem liveoutAt_mem (m : Rill) (r : SReg) (x : Word) : (s.liveoutAt m r x).mem = s.mem := by
  unfold State.liveoutAt
  split <;> simp
@[simp] theorem oxwAt_mem (m : Rill) (r : OxReg) (x : Ox) : (s.oxwAt m r x).mem = s.mem := by
  unfold State.oxwAt
  split <;> simp [squash_mem]
@[simp] theorem storeAt_mem (m : Rill) (sector : Nat) (mask : BitVec 32) : (s.storeAt m sector mask).mem = s.mem := by
  unfold State.storeAt
  split <;> simp [squash_mem]
@[simp] theorem squashAt_mem (m : Rill) (cause : SquashCause) : (s.squashAt m cause).mem = s.mem := by
  unfold State.squashAt
  split <;> simp [squashSlot_mem, outrank_mem]
@[simp] theorem commitAt_mem (m : Rill) : (s.commitAt m).mem = s.mem := by
  unfold State.commitAt
  split <;> [rfl; split] <;> simp [squash_mem]
@[simp] theorem releaseAt_mem (m : Rill) : (s.releaseAt m).mem = s.mem := by simp [State.releaseAt]
@[simp] theorem charged_mem (i : Instr) (t : State) : (s.charged i t).mem = t.mem := by
  unfold State.charged
  exact mem_of_ite rfl (mem_of_ite rfl rfl)
theorem liveIn_mem {s u : State} {r : SReg} (h : s.liveIn r = some u) : u.mem = s.mem := by
  unfold State.liveIn at h
  grind [mapMe_mem, count_mem]
theorem liveIns_mem {rs : List SReg} {s u : State} (h : s.liveIns rs = some u) : u.mem = s.mem := by
  induction rs generalizing s with
  | nil => cases h; rfl
  | cons r rs ih =>
    unfold State.liveIns at h
    split at h
    next t ht => rw [ih h, liveIn_mem ht]
    next => cases h
@[simp] theorem noteWaited_mem (regs : List SReg) : (s.noteWaited regs).mem = s.mem := by
  unfold State.noteWaited
  split <;> simp
@[simp] theorem noteOx_mem (xs : List OxReg) : (s.noteOx xs).mem = s.mem := by
  unfold State.noteOx
  split <;> simp
theorem readLiveIns_mem {s u : State} {i : Instr} (h : s.readLiveIns i = some u) : u.mem = s.mem := by
  unfold State.readLiveIns at h
  split at h
  · split at h
    · obtain ⟨t, ht, rfl⟩ := Option.map_eq_some_iff.mp h
      rw [noteOx_mem, liveIns_mem ht]
    · cases h
  · cases h; rfl
@[simp] theorem serveCore_mem : s.serveCore.1.mem = s.mem := by simp [State.serveCore]
@[simp] theorem grant_mem (i : Instr) : (s.grant i).1.mem = s.mem := by
  unfold State.grant
  split <;> simp
@[simp] theorem takeLine_mem (d : DieId) (k : SlotNo) : (s.takeLine d k).mem = s.mem := by
  unfold State.takeLine
  dsimp only
  split
  · rfl
  · refine mem_of_ite rfl ?_
    split
    · rfl
    · split <;> rfl
@[simp] theorem pass_mem (n : Nat) : (s.pass n).mem = s.mem := rfl

end Sys2Proof.Machine
end

section
/-! SUPPORT. The canonical form of memory (log 3) through branches and folds. -/

namespace Sys2Proof.Machine

@[simp] theorem ite_wf {p : Prop} {_ : Decidable p} (m n : List Host.Cell) :
    Memory.wf (if p then m else n) = true ↔ (p → Memory.wf m = true) ∧ (¬p → Memory.wf n = true) := by
  split <;> simp [*]

theorem wf_of_ite {p : Prop} {_ : Decidable p} {a b : State} (ha : Memory.wf a.mem = true) (hb : Memory.wf b.mem = true) :
    Memory.wf (if p then a else b).mem = true := by
  split <;> assumption

theorem wf_fst_of_ite {α : Type} {p : Prop} {_ : Decidable p} {a b : State × α} (ha : Memory.wf a.1.mem = true)
    (hb : Memory.wf b.1.mem = true) : Memory.wf (if p then a else b).1.mem = true := by
  split <;> assumption

theorem wf_fst {α : Type} {p : State × α} {t : State} {x : α} (e : p = (t, x)) (h : Memory.wf p.1.mem = true) :
    Memory.wf t.mem = true := by
  subst e; exact h

@[simp] theorem foldl_wf {α : Type} (f : State → α → State) (hf : ∀ t x, Memory.wf t.mem = true → Memory.wf (f t x).mem = true) (l : List α)
    {s : State} (h : Memory.wf s.mem = true) : Memory.wf (l.foldl f s).mem = true :=
  List.foldlRecOn l f h fun t ht x _ => hf t x ht

theorem foldl_fst_wf {α β : Type} (f : State × β → α → State × β)
    (hf : ∀ p x, Memory.wf p.1.mem = true → Memory.wf (f p x).1.mem = true) (l : List α) {p : State × β}
    (h : Memory.wf p.1.mem = true) : Memory.wf (l.foldl f p).1.mem = true :=
  List.foldlRecOn l f h fun q hq x _ => hf q x hq

end Sys2Proof.Machine
end

section
/-! SUPPORT. State operations that write memory, or run another operation, and keep its canonical form (log 3). An operation that takes
a continuation keeps the form when the continuation does. -/

namespace Sys2Proof.Machine

/-- What stands before a request keeps memory canonical when the request itself does. -/
def BeforeKeeps (b : Before) : Prop :=
  ∀ p t g, Memory.wf t.mem = true → (∀ u : State, Memory.wf u.mem = true → Memory.wf (g u).mem = true) → Memory.wf (b p t g).mem = true

theorem cellsFrom_filter (p : Host.Cell → Bool) {lo : Nat} {m : List Host.Cell} (h : cellsFrom lo m = true) : cellsFrom lo (m.filter p) = true := by
  induction m generalizing lo with
  | nil => rfl
  | cons c m ih =>
    obtain ⟨k, v⟩ := c
    simp only [cellsFrom, Bool.and_eq_true, decide_eq_true_eq] at h
    rw [List.filter_cons]
    split
    · simp [cellsFrom, h.1, ih h.2]
    · exact cellsFrom_mono (ih h.2) (by omega)

/-- Part of a canonical memory is canonical. -/
theorem filter_wf (p : Host.Cell → Bool) {m : List Host.Cell} (h : Memory.wf m = true) :
    Memory.wf (m.filter p) = true := by
  unfold Memory.wf at h ⊢
  rw [Bool.and_eq_true, List.all_eq_true] at h ⊢
  exact ⟨cellsFrom_filter p h.1, fun c hc => h.2 c (List.mem_of_mem_filter hc)⟩

/-- The state that an element leaves. -/
@[simp] def Elt.state : Elt → State
  | .ok s | .stop s | .trap s _ | .leave s _ => s

/-- The state that an element leaves has a canonical memory. -/
@[simp] def Elt.Wf (e : Elt) : Prop := Memory.wf e.state.mem = true

/-- The state that the read of a row leaves, where it leaves one. -/
@[simp] def Row.state? : Row → Option State
  | .ok s _ | .trap s _ => some s
  | .need _ _ | .wait _ => none

/-- The state that the read of a row leaves has a canonical memory. -/
@[simp] def Row.Wf (r : Row) : Prop := (r.state?.all fun s => Memory.wf s.mem) = true

/-- The state that the read of an operand's row leaves, where it leaves one. -/
@[simp] def Vals.state? : Vals → Option State
  | .ok s _ | .trap s _ => some s
  | .need _ _ | .wait _ => none

/-- The state that the read of an operand's row leaves has a canonical memory. -/
@[simp] def Vals.Wf (v : Vals) : Prop := (v.state?.all fun s => Memory.wf s.mem) = true

/-- The state that the read of a tile leaves, where it leaves one. -/
@[simp] def Tile.state? : Tile → Option State
  | .ok s _ | .trap s _ => some s
  | .need _ _ | .wait _ => none

/-- The state that the read of a tile leaves has a canonical memory. -/
@[simp] def Tile.Wf (t : Tile) : Prop := (t.state?.all fun s => Memory.wf s.mem) = true

variable {s : State} (h : Memory.wf s.mem = true)
include h

@[simp] theorem writeBytes_wf {loc : Nat} {bs : List Byte} {who : Requester} {but : Option Word} :
    Memory.wf (s.writeBytes loc bs who but).mem = true := by
  rw [writeBytes_mem]; exact memWrite_wf loc bs h

@[simp] theorem performWrite_fst_wf {loc : Nat} {bs : List Byte} {who : Requester} {but : Option Word} :
    Memory.wf (s.performWrite loc bs who but).1.mem = true := performWrite_wf s loc bs who but h

@[simp] theorem writeHome_wf {loc : Nat} {bs : List Byte} {who : Requester} {but : Option Word} :
    Memory.wf (s.writeHome loc bs who but).mem = true := by
  rw [writeHome_mem]; exact memWrite_wf loc bs h

@[simp] theorem enterStore_wf {d : DieId} {loc : Nat} {bs : List Byte} {who : Requester} {but : Option Word} {dev : Bool} :
    Memory.wf (s.enterStore d loc bs who but dev).mem = true := by
  rw [enterStore_mem]
  split
  · exact memWrite_wf loc bs h
  · exact h

@[simp] theorem enterHalf_wf {d : DieId} {loc : Nat} {hi : Bool} {x : BitVec 4} {who : Requester} {but : Option Word} {dev : Bool} :
    Memory.wf (s.enterHalf d loc hi x who but dev).mem = true := by simp [State.enterHalf, h, invalidateER_mem, pendStore_mem]

@[simp] theorem setAD_wf {d : DieId} {pteLoc : Nat} {dd : Bool} : Memory.wf (s.setAD d pteLoc dd).mem = true := by simp [State.setAD, h]

@[simp] theorem markAD_wf {d : DieId} {p : Place} {write : Bool} : Memory.wf (s.markAD d p write).mem = true := by
  unfold State.markAD
  split <;> simp +contextual [h]

@[simp] theorem drainSector_wf {c : Ctx} {wr : List Host.Cell} {q : Nat} : Memory.wf (s.drainSector c wr q).mem = true := by
  simp +contextual [State.drainSector, h]

@[simp] theorem weirBegin_wf {c : Ctx} {k : Chunk} : Memory.wf (s.weirBegin c k).mem = true := by
  unfold State.weirBegin
  dsimp only
  (repeat' split) <;> simp +contextual [h, squash_mem]

@[simp] theorem drainNext_wf {c : Ctx} {k : Chunk} : Memory.wf (s.drainNext c k).mem = true := by
  unfold State.drainNext
  split <;> simp +contextual [h]

@[simp] theorem drainStep_wf {c : Ctx} : Memory.wf (s.drainStep c).mem = true := by
  unfold State.drainStep
  dsimp only
  (repeat' split) <;> simp +contextual [h]

@[simp] theorem afterDrain_wf {f : State → State} (hf : ∀ t, Memory.wf t.mem = true → Memory.wf (f t).mem = true) :
    Memory.wf (s.afterDrain f).mem = true := by simp [State.afterDrain, h, hf]

@[simp] theorem weirPass_wf {c : Ctx} : Memory.wf (s.weirPass c).mem = true := by
  unfold State.weirPass
  dsimp only
  (repeat' split) <;> simp +contextual [h]

@[simp] theorem settleWrite_wf {loc : Nat} {bs : List Byte} : Memory.wf (s.settleWrite loc bs).mem = true := by
  simp [State.settleWrite, h, invalidateER_mem]

@[simp] theorem vwrite_wf {c : Ctx} {va : Nat} {bs : List Byte} : Memory.wf (s.vwrite c va bs).1.mem = true := by
  unfold State.vwrite
  refine foldl_fst_wf _ (fun a p ha => ?_) _ h
  split
  · exact ha
  · have hp : Memory.wf (a.1.savePlace c p.1).1.mem = true := by simpa using ha
    split
    next heq => exact wf_fst heq hp
    next heq => simp [wf_fst heq hp]

@[simp] theorem enterImage_wf {c : Ctx} {l : List (Nat × List Byte)} : Memory.wf (s.enterImage c l).1.mem = true := by
  induction l generalizing s with
  | nil => exact h
  | cons p ps ih =>
    have hp : Memory.wf (s.savePlace c p.1).1.mem = true := by simpa using h
    unfold State.enterImage
    split
    next heq => exact wf_fst heq hp
    next heq =>
      have ht := wf_fst heq hp
      split
      · exact ih (by simp [ht])
      · exact ht

@[simp] theorem imageStep_wf : Memory.wf s.imageStep.mem = true := by
  unfold State.imageStep
  split <;> simp +contextual [h]

@[simp] theorem vwrites_wf {c : Ctx} {l : List (Nat × List Byte)} : Memory.wf (s.vwrites c l).1.mem = true := by
  unfold State.vwrites
  refine foldl_fst_wf _ (fun a w ha => ?_) _ h
  split
  · exact vwrite_wf ha
  · exact ha

@[simp] theorem saveArea_wf {c : Ctx} {halted : Bool} {halt : HaltRegs} : Memory.wf (s.saveArea c halted halt).1.mem = true := by
  unfold State.saveArea
  dsimp only
  split <;> simp +contextual [h]

@[simp] theorem writeRecord_wf {c : Ctx} {st susp hcode : Nat} : Memory.wf (s.writeRecord c st susp hcode).1.mem = true := by
  simp [State.writeRecord, h]

@[simp] theorem saveStrand_wf {st susp hcode : Nat} {halt : HaltRegs} : Memory.wf (s.saveStrand st susp hcode halt).1.mem = true := by
  unfold State.saveStrand
  dsimp only
  split <;> simp +contextual [h]

@[simp] theorem wr_wf {loc : Nat} {x : Word} : Memory.wf (s.wr loc x).mem = true := by simp [State.wr, h]

@[simp] theorem childDone_wf {obj : Nat} {cancelled : Bool} : Memory.wf (s.childDone obj cancelled).1.mem = true := by simp [State.childDone, h]

@[simp] theorem setNst_wf {n st : Nat} {cxl : Bool} : Memory.wf (s.setNst n st cxl).mem = true := by simp [State.setNst, h]

@[simp] theorem markCancelled_wf {obj cause : Nat} : Memory.wf (s.markCancelled obj cause).mem = true := by simp [State.markCancelled, h]

@[simp] theorem runGraph_wf {r : Run} : Memory.wf (s.runGraph r).1.mem = true := by
  unfold State.runGraph
  split <;> simp +contextual [h]

@[simp] theorem nextGraph_wf {r : Run} {k : Nat} : Memory.wf (s.nextGraph r k).1.mem = true := by
  unfold State.nextGraph
  split <;> simp +contextual [h]

@[simp] theorem nextPhase_wf {r : Run} {k : Nat} : Memory.wf (s.nextPhase r k).1.mem = true := by
  unfold State.nextPhase
  split
  · exact h
  · exact nextGraph_wf (by simp [↓wf_of_ite, h])

@[simp] theorem phaseDone_wf {r : Run} : Memory.wf (s.phaseDone r).1.mem = true := by
  unfold State.phaseDone
  dsimp only
  (repeat' split) <;> simp +contextual [h]

@[simp] theorem graphDone_wf {r : Run} : Memory.wf (s.graphDone r).1.mem = true := by
  unfold State.graphDone
  dsimp only
  (repeat' split) <;> simp +contextual [h]

@[simp] theorem badNode_wf {sroot n g : Nat} : Memory.wf (s.badNode sroot n g).1.mem = true := by
  unfold State.badNode
  dsimp only
  split <;> simp +contextual [h]

@[simp] theorem releaseSucc_wf {sroot n g : Nat} : Memory.wf (s.releaseSucc sroot n g).1.mem = true := by
  unfold State.releaseSucc
  dsimp only
  (repeat' split) <;> simp +contextual [h]

@[simp] theorem nodeDone_wf {sroot n g : Nat} {cxl : Bool} : Memory.wf (s.nodeDone sroot n g cxl).1.mem = true := by
  unfold State.nodeDone
  dsimp only
  refine wf_fst_of_ite h ?_
  generalize hq : State.childDone _ g cxl = q
  have hq : Memory.wf q.1.mem = true := by
    subst hq
    refine childDone_wf (foldl_fst_wf _ (fun a k ha => wf_fst_of_ite ha ?_) _ (by simpa using setNst_wf h))
    split
    · exact ha
    · exact releaseSucc_wf ha
  refine wf_fst_of_ite hq ?_
  split
  · exact hq
  · exact graphDone_wf hq

@[simp] theorem nodeReady_wf {sroot n g : Nat} : Memory.wf (s.nodeReady sroot n g).1.mem = true := by
  unfold State.nodeReady
  dsimp only
  (repeat' split) <;> simp +contextual [h]

@[simp] theorem work_wf {fuel : Nat} {l : List NodeWork} : Memory.wf (State.work fuel s l).mem = true := by
  induction fuel generalizing s l with
  | zero => exact h
  | succ fuel ih =>
    cases l with
    | nil => exact h
    | cons w ws =>
      unfold State.work
      cases w with
      | ready n r g => exact ih (nodeReady_wf h)
      | complete n r g cxl => exact ih (nodeDone_wf h)

@[simp] theorem doWork_wf {l : List NodeWork} : Memory.wf (s.doWork l).mem = true := by simp [State.doWork, h]

@[simp] theorem strandEnded_wf {header : Nat} {cancelled : Bool} : Memory.wf (s.strandEnded header cancelled).mem = true := by
  unfold State.strandEnded
  dsimp only
  (repeat' split) <;> simp +contextual [h]

@[simp] theorem qcount_wf {qcb : Nat} {put up : Bool} : Memory.wf (s.qcount qcb put up).mem = true := by simp [State.qcount, h]

@[simp] theorem dropWaiter_wf {strand : Word} {home : DieId} : Memory.wf (s.dropWaiter strand home).mem = true := by
  simp +contextual [State.dropWaiter, h]

@[simp] theorem leaveWait_wf : Memory.wf s.leaveWait.mem = true := by
  unfold State.leaveWait
  split <;> simp +contextual [h]

@[simp] theorem quiesce_wf {keep : Bool} : Memory.wf (s.quiesce keep).mem = true := by simp [State.quiesce, h]

@[simp] theorem saveLast_wf : Memory.wf s.saveLast.mem = true := by
  unfold State.saveLast
  split
  next heq => exact wf_fst heq (saveArea_wf h)
  · exact h

@[simp] theorem retire_wf {susp : Nat} {cancelled : Bool} : Memory.wf (s.retire susp cancelled).mem = true := by
  unfold State.retire
  refine strandEnded_wf ?_
  simp only [vacate_mem, count_mem]
  refine writeRecord_wf (wf_of_ite (saveLast_wf ?_) ?_) <;> exact h

@[simp] theorem countFailed_wf {ix : Nat} : Memory.wf (s.countFailed ix).mem = true := by simp [State.countFailed, h]

@[simp] theorem retireCancelled_wf : Memory.wf s.retireCancelled.mem = true := by simp [State.retireCancelled, h]

@[simp] theorem stopCancelled_wf : Memory.wf s.stopCancelled.mem = true := by
  unfold State.stopCancelled
  generalize hq : s.quiesce false = q
  have hq : Memory.wf q.mem = true := hq ▸ quiesce_wf h
  refine wf_of_ite ?_ hq
  split
  next heq =>
  have ht := wf_fst heq (wf_fst_of_ite hq (saveArea_wf hq))
  exact retireCancelled_wf (wf_of_ite ht (countFailed_wf ht))

@[simp] theorem suspend_wf {keep : Bool} {retry : Option (BitVec 4)} {prep : Ctx → Ctx} {st susp hcode : Nat} {halt : HaltRegs} {yielded : Bool}
    {f : Waiting → State → State} (hf : ∀ w t, Memory.wf t.mem = true → Memory.wf (f w t).mem = true) :
    Memory.wf (s.suspend keep retry prep st susp hcode halt yielded f).mem = true := by
  unfold State.suspend
  dsimp only
  generalize hq : State.quiesce _ keep = q
  have hq : Memory.wf q.mem = true := hq ▸ quiesce_wf (by split <;> exact h)
  generalize hp : State.saveStrand _ st susp hcode halt = p
  have hp : Memory.wf p.1.mem = true := hp ▸ saveStrand_wf (by simpa using hq)
  have hl : Memory.wf (if p.2 then p.1 else p.1.leaveWait).mem = true := wf_of_ite hp (leaveWait_wf hp)
  refine wf_of_ite (wf_of_ite (hf _ _ (by simpa only [vacate_mem] using hl)) ?_) ?_
  · exact retireCancelled_wf (countFailed_wf (ix := 3) hl)
  · split <;> exact hq

@[simp] theorem wake_wf {loc : Nat} {p : Waiter → Bool} : Memory.wf (s.wake loc p).mem = true := by simp +contextual [State.wake, h]

@[simp] theorem addWaiter_wf {w : Waiter} : Memory.wf (s.addWaiter w).1.mem = true := by
  unfold State.addWaiter
  dsimp only
  (repeat' split) <;> simp +contextual [h]

@[simp] theorem putBar_wf {loc : Nat} {b : Bar} {who : Requester} {done : Bool} : Memory.wf (s.putBar loc b who done).1.mem = true := by
  simp [State.putBar, h]

@[simp] theorem landAt_wf {loc k status : Nat} : Memory.wf (s.landAt loc k status).mem = true := by simp [State.landAt, h]

@[simp] theorem qwrite_wf {q : Qcb} {who : Requester} {k n : Nat} {bs : List Byte} : Memory.wf (s.qwrite q who k n bs).mem = true := by
  induction n generalizing s k bs with
  | zero => exact h
  | succ n ih =>
    unfold State.qwrite
    split
    next heq => exact ih (by simpa only [creditPerf_mem] using wf_fst heq (performWrite_fst_wf h))

@[simp] theorem qput_wf {q : Qcb} {who : Requester} {head tail free : Nat} : Memory.wf (s.qput q who head tail free).mem = true := by
  simp [State.qput, h, creditPerf_mem]

@[simp] theorem homeWrite_wf {a : Asker} {loc n x : Nat} : Memory.wf (s.homeWrite a loc n x).mem = true := by simp [State.homeWrite, h]

@[simp] theorem mustWait_wf {a : Asker} {what : WaitFor} {put : Bool} {loc : Nat} : Memory.wf (s.mustWait a what put loc).1.mem = true := by
  simp [State.mustWait, h]

@[simp] theorem homePut_wf {a : Asker} {loc : Nat} {e : List Byte} {nb : Bool} : Memory.wf (s.homePut a loc e nb).1.mem = true := by
  unfold State.homePut
  refine wf_fst_of_ite h (wf_fst_of_ite h (wf_fst_of_ite h (wf_fst_of_ite ?_ ?_)))
  · exact wf_fst_of_ite h (mustWait_wf h)
  · exact wake_wf (qput_wf (qwrite_wf h))

@[simp] theorem homeGet_wf {a : Asker} {loc bytes : Nat} {nb : Bool} : Memory.wf (s.homeGet a loc bytes nb).1.mem = true := by
  unfold State.homeGet
  dsimp only
  (repeat' split) <;> simp +contextual [h]

@[simp] theorem performHome_wf {a : Asker} {loc : Nat} {op : HomeOp} : Memory.wf (s.performHome a loc op).1.mem = true := by
  unfold State.performHome
  dsimp only
  (repeat' split) <;> simp +contextual [h, creditPerf_mem]

@[simp] theorem halt_wf {t : Trap} {held : Bool} : Memory.wf (s.halt t held).mem = true := by simp [State.halt, h]

@[simp] theorem takeTrap_wf {t : Trap} {held : Bool} : Memory.wf (s.takeTrap t held).mem = true := by simp +contextual [State.takeTrap, h]

@[simp] theorem trap_wf {t : Trap} : Memory.wf (s.trap t).mem = true := by simp [State.trap, h]

@[simp] theorem takeLate_wf : Memory.wf s.takeLate.mem = true := by simp [State.takeLate, h]

@[simp] theorem stopNow_wf {code : Nat} : Memory.wf (s.stopNow code).mem = true := by simp +contextual [State.stopNow, h]

@[simp] theorem held_wf {f : State → State} (hf : ∀ t, Memory.wf t.mem = true → Memory.wf (f t).mem = true) :
    Memory.wf (s.held f).mem = true := by
  unfold State.held
  split <;> simp +contextual [h, hf]

@[simp] theorem migrateTo_wf {d : DieId} {skip : Nat} : Memory.wf (s.migrateTo d skip).mem = true := by simp +contextual [State.migrateTo, h]

@[simp] theorem markAccess_wf {p : Place} {write : Bool} : Memory.wf (s.markAccess p write).mem = true := by
  unfold State.markAccess
  split
  · exact h
  split
  · exact h
  split
  · split <;> simp [h]
  · simp [h]

@[simp] theorem noteLoad_wf {p : Place} {bs : List (Option Byte)} : Memory.wf (s.noteLoad p bs).mem = true := by simp [State.noteLoad, h, useLine_mem]

@[simp] theorem capacityEvent_wf : Memory.wf s.capacityEvent.mem = true := by
  unfold State.capacityEvent
  split <;> simp +contextual [h]

@[simp] theorem refuse_wf {x0 : Look} : Memory.wf (s.refuse x0).mem = true := by
  unfold State.refuse
  split <;> simp +contextual [h]

@[simp] theorem load_wf {va : Word} {n spaces : Nat} {f : State → Nat → State} (hf : ∀ t x, Memory.wf t.mem = true → Memory.wf (f t x).mem = true) :
    Memory.wf (s.load va n spaces f).mem = true := by
  unfold State.load
  dsimp only
  (repeat' split) <;> simp +contextual [h, hf]

@[simp] theorem putBytes_wf {p : Place} {bs : List Byte} : Memory.wf (s.putBytes p bs).mem = true := by
  unfold State.putBytes
  dsimp only
  (repeat' split) <;> simp +contextual [h]

@[simp] theorem store_wf {va : Word} {n spaces x : Nat} {f : State → State} (hf : ∀ t, Memory.wf t.mem = true → Memory.wf (f t).mem = true) :
    Memory.wf (s.store va n spaces x f).mem = true := by
  unfold State.store
  split
  · simp [h]
  split
  · split
    · exact hf _ (by simp [h])
    · exact h
  · simp [h]

@[simp] theorem heldAt_wf {k : AccessKind} {align n spaces : Nat} {va : Word} {f : State → State}
    (hf : ∀ t, Memory.wf t.mem = true → Memory.wf (f t).mem = true) : Memory.wf (s.heldAt k align n spaces va f).mem = true := by
  unfold State.heldAt
  split
  · simp [h]
  split
  · split <;> simp [h]
  · exact held_wf h hf

@[simp] theorem release_wf {sc : Scope} {f : State → State} (hf : ∀ t, Memory.wf t.mem = true → Memory.wf (f t).mem = true) :
    Memory.wf (s.release sc f).mem = true := by simp [State.release, h, hf]

@[simp] theorem releaseAll_wf {f : State → State} (hf : ∀ t, Memory.wf t.mem = true → Memory.wf (f t).mem = true) :
    Memory.wf (s.releaseAll f).mem = true := by simp [State.releaseAll, h, hf]

@[simp] theorem answered_wf {va : Word} {loc : Nat} {op : HomeOp} {t0 lim : Nat} {a : Answer} {f : State → Answer → State}
    (hf : ∀ t x, Memory.wf t.mem = true → Memory.wf (f t x).mem = true) : Memory.wf (s.answered va loc op t0 lim a f).mem = true := by
  unfold State.answered
  split <;> simp +contextual [h, hf]

@[simp] theorem noteRequest_wf {p : Place} {op : HomeOp} : Memory.wf (s.noteRequest p op).mem = true := by simp [State.noteRequest, h]

@[simp] theorem request_wf {va : Word} {p : Place} {n : Nat} {op : HomeOp} {t0 lim : Nat} {f : State → Answer → State}
    (hf : ∀ t a, Memory.wf t.mem = true → Memory.wf (f t a).mem = true) : Memory.wf (s.request va p n op t0 lim f).mem = true := by
  unfold State.request
  dsimp only
  split
  · exact h
  split
  · exact answered_wf (by simp [h]) hf
  split
  · exact h
  · simp [invalidateER_mem, h]

omit h in
@[simp] theorem noWait_keeps : BeforeKeeps noWait := fun _ t _ ht hg => hg t ht

omit h in
@[simp] theorem maskRelease_keeps : BeforeKeeps maskRelease := fun _ _ _ ht hg => release_wf ht hg

omit h in
@[simp] theorem feRelease_keeps : BeforeKeeps feRelease := fun _ _ _ ht hg => release_wf ht hg

@[simp] theorem viaHome_wf {va : Word} {align n : Nat} {k : AccessKind} {op : HomeOp} {t0 lim : Nat} {before : Before} {f : State → Answer → State}
    (hf : ∀ t a, Memory.wf t.mem = true → Memory.wf (f t a).mem = true) (hbefore : BeforeKeeps before) :
    Memory.wf (s.viaHome va align n k op t0 lim before f).mem = true := by
  unfold State.viaHome
  split
  · exact answered_wf h hf
  split
  · simp [h]
  split
  · exact held_wf h fun t ht => hbefore _ _ _ ht fun u hu => request_wf hu hf
  · simp [h]

@[simp] theorem withValue_wf {va : Word} {a : Answer} {f : State → Word → State} {loads : Bool}
    (hf : ∀ t x, Memory.wf t.mem = true → Memory.wf (f t x).mem = true) : Memory.wf (s.withValue va a f loads).mem = true := by
  unfold State.withValue
  dsimp only
  (repeat' split) <;> simp +contextual [h, hf]

@[simp] theorem detTrap_wf {va : Word} {wid : Wid} : Memory.wf (s.detTrap va wid).mem = true := by
  unfold State.detTrap
  split
  · simp [h]
  · split <;> simp [h]

@[simp] theorem sendUpdate_wf {p : Place} {op : HomeOp} {n : Nat} : Memory.wf (s.sendUpdate p op n).mem = true := by
  unfold State.sendUpdate
  dsimp only
  split
  · exact h
  split
  · simp [h]
  split
  · exact h
  · simp [invalidateER_mem, h]

@[simp] theorem cancelStrand_wf {l : Live} {strand : Word} : Memory.wf (s.cancelStrand l strand).mem = true := by simp [State.cancelStrand, h]

@[simp] theorem cancelLaunch_wf {hdr cause : Nat} : Memory.wf (s.cancelLaunch hdr cause).1.mem = true := by
  unfold State.cancelLaunch
  split
  · exact h
  · refine wf_fst_of_ite h ?_
    dsimp only
    generalize hu : State.wr _ (hdr + 16) _ = u
    have hu : Memory.wf u.mem = true := hu ▸ wr_wf (wr_wf (by simp [h]))
    exact wf_fst_of_ite (by simpa using hu) hu

@[simp] theorem cancelGraph_wf {d : DieId} {sroot g cause : Nat} : Memory.wf (s.cancelGraph d sroot g cause).1.mem = true := by
  unfold State.cancelGraph
  dsimp only
  split
  · simp [h]
  · refine foldl_fst_wf _ (fun a n ha => ?_) _ (by simp [h])
    split
    · exact ha
    split
    · split
      · exact cancelLaunch_wf ha
      · exact ha
    · simpa using ha

@[simp] theorem cancelPhase_wf {r : Run} {ph cause : Nat} : Memory.wf (s.cancelPhase r ph cause).1.mem = true := by
  unfold State.cancelPhase
  dsimp only
  split
  · exact h
  have hs : Memory.wf ((s.childrenFrom r.die r.sroot ph (if objST (s.rd (ph + 16)) = 1 then (s.rd ph).toNat + 1 else 0)).foldl
      (fun s g => s.markCancelled g 2) (s.markCancelled ph cause)).mem = true :=
    foldl_wf _ (fun t g ht => markCancelled_wf ht) _ (markCancelled_wf h)
  split
  · exact cancelGraph_wf hs
  · exact hs

@[simp] theorem cancelJob_wf {r : Run} {cause : Nat} : Memory.wf (s.cancelJob r cause).1.mem = true := by
  unfold State.cancelJob
  dsimp only
  split
  · exact h
  split
  · exact nextPhase_wf (foldl_wf _ (fun t ph ht => cancelPhase_wf ht) _ (markCancelled_wf h))
  · exact cancelPhase_wf (foldl_wf _ (fun t ph ht => cancelPhase_wf ht) _ (markCancelled_wf h))

theorem cancelObject_wf {level obj : Nat} {u : State} (hu : s.cancelObject level obj = some u) : Memory.wf u.mem = true := by
  have hwork (p : State × List NodeWork) (hp : Memory.wf p.1.mem = true) (b : Bool)
      (e : some (if b then s else p.1.doWork p.2) = some u) : Memory.wf u.mem = true := by
    cases e; exact wf_of_ite h (doWork_wf hp)
  have hnone (b : Bool) (e : (if b then some s else none) = some u) : Memory.wf u.mem = true := by
    split at e <;> cases e; exact h
  unfold State.cancelObject at hu
  dsimp only at hu
  split at hu
  · split at hu
    · exact hwork _ (cancelLaunch_wf h) _ hu
    split at hu
    · cases hu; exact markCancelled_wf h
    · exact hnone _ hu
  · split at hu
    · exact hwork _ (cancelGraph_wf h) _ hu
    · exact hnone _ hu
  · split at hu
    · exact hwork _ (cancelPhase_wf h) _ hu
    · exact hnone _ hu
  · split at hu
    · exact hwork _ (cancelJob_wf h) _ hu
    · exact hnone _ hu

theorem cnclEffect_wf {level : Nat} {a : Word} {u : State × Bool} (hu : s.cnclEffect level a = some u) : Memory.wf u.1.mem = true := by
  unfold State.cnclEffect at hu
  dsimp only at hu
  split at hu
  · split at hu
    · split at hu <;> cases hu; exact h
    · split at hu <;> cases hu; exact cancelStrand_wf h
  · split at hu
    · cases hu
    split at hu
    · cases hu
    · obtain ⟨t, ht, rfl⟩ := Option.map_eq_some_iff.mp hu
      exact cancelObject_wf h ht

@[simp] theorem stopMe_wf {code : Nat} {f : State → State} (hf : ∀ t, Memory.wf t.mem = true → Memory.wf (f t).mem = true) :
    Memory.wf (s.stopMe code f).mem = true := by simp [State.stopMe, h, hf]

@[simp] theorem editRecord_wf {d : DieId} {root record k : Nat} {f : Nat → Nat} : Memory.wf (s.editRecord d root record k f).1.mem = true := by
  unfold State.editRecord
  dsimp only
  (repeat' split) <;> simp +contextual [h]

@[simp] theorem recordTo_wf {d : DieId} {w : Waiting} {st : Nat} : Memory.wf (s.recordTo d w st).mem = true := by simp [State.recordTo, h]

@[simp] theorem retireAway_wf {d : DieId} {root record header : Nat} : Memory.wf (s.retireAway d root record header).mem = true := by
  simp [State.retireAway, h]

@[simp] theorem strandLoses_wf {strand : Word} : Memory.wf (s.strandLoses strand).mem = true := by
  unfold State.strandLoses
  split
  · simp [h]
  · split <;> simp [h]

@[simp] theorem cancelStop_wf {strand : Word} : Memory.wf (s.cancelStop strand).mem = true := by
  unfold State.cancelStop
  dsimp only
  (repeat' split) <;> simp +contextual [h, inSlot_mem]

@[simp] theorem serve_wf {ok : HomeOp → Bool} {k : Nat} : Memory.wf (s.serve ok k).mem = true := by
  unfold State.serve
  dsimp only
  (repeat' split) <;> simp +contextual [h]

@[simp] theorem startNode_wf {n sroot g hdr : Nat} {t : DieId} : Memory.wf (s.startNode n sroot g hdr t).mem = true := by
  unfold State.startNode
  dsimp only
  generalize hu : State.setNst _ n 2 false = u
  have hu : Memory.wf u.mem = true := hu ▸ setNst_wf (wr_wf (wr_wf (wr_wf (wr_wf (by simpa using h)))))
  exact wf_of_ite (doWork_wf (wr_wf hu)) hu

@[simp] theorem startReady_wf {q : ReadyNode} {t : DieId} : Memory.wf (s.startReady q t).mem = true := by
  have hout (f : Die → Die) : Memory.wf (s.mapDie (homeOf q.node) f).mem = true := h
  unfold State.startReady
  dsimp only
  split
  · exact doWork_wf (badNode_wf (hout _))
  split
  · exact h
  split
  · exact startNode_wf (hout _)
  · exact doWork_wf (badNode_wf (hout _))

@[simp] theorem badRecord_wf {d : DieId} {root record header : Nat} : Memory.wf (s.badRecord d root record header).mem = true := by
  simp [State.badRecord, h]

@[simp] theorem dispatchResumed_wf {d : DieId} {k : SlotNo} {w : Waiting} : Memory.wf (s.dispatchResumed d k w).mem = true := by
  unfold State.dispatchResumed
  dsimp only
  split <;> simp +contextual [h]

@[simp] theorem stageFails_wf {l : Live} : Memory.wf (s.stageFails l).mem = true := doWork_wf (cancelLaunch_wf (by simp [h]))

@[simp] theorem dispatchNew_wf {d : DieId} {k : SlotNo} {t : DieId} {l : Live} : Memory.wf (s.dispatchNew d k t l).mem = true := by
  unfold State.dispatchNew
  dsimp only
  (repeat' split) <;> simp +contextual [h]

@[simp] theorem preempt_wf : Memory.wf s.preempt.mem = true := by simp +contextual [State.preempt, h]

@[simp] theorem parkMe_wf {w : Wait} : Memory.wf (s.parkMe w).mem = true := by simp [State.parkMe, h]

@[simp] theorem unpark_wf {d : DieId} {p : Parked} : Memory.wf (s.unpark d p).mem = true := by simp [State.unpark, h]

@[simp] theorem markLate_wf {strand : Word} : Memory.wf (s.markLate strand).mem = true := by
  unfold State.markLate
  dsimp only
  (repeat' split) <;> simp +contextual [h]

@[simp] theorem moduleReset_wf : Memory.wf s.moduleReset.mem = true := filter_wf _ h

@[simp] theorem clearRing_wf {d : DieId} {ring : Nat} : Memory.wf (s.clearRing d ring).mem = true := by
  simp +contextual [State.clearRing, h, inSlot_mem]

@[simp] theorem fence_wf {d : DieId} {ring : Nat} : Memory.wf (s.fence d ring).mem = true := by simp [State.fence, h]

@[simp] theorem retireRing_wf {d : DieId} {ring : Nat} : Memory.wf (s.retireRing d ring).mem = true := by simp [State.retireRing, h]

@[simp] theorem scan_wf {x0 : ScanAcc} : Memory.wf (s.scan x0).mem = true := by
  unfold State.scan
  split <;> simp +contextual [h, memWrite_wf]

@[simp] theorem enterRegion_wf {r : Region} : Memory.wf (s.enterRegion r).mem = true := by simp [State.enterRegion, h]

@[simp] theorem span_wf {regs : List VReg} {ok : ETy → Bool} {f : State → State}
    (hf : ∀ t, Memory.wf t.mem = true → Memory.wf (f t).mem = true) : Memory.wf (s.span regs ok f).mem = true := by simp [State.span, h, hf]

@[simp] theorem ox_wf {x : OxReg} {k : OxKind} {f : Word → State} (hf : ∀ (y0 : Word), Memory.wf (f y0).mem = true) :
    Memory.wf (s.ox x k f).mem = true := by simp [State.ox, h, hf]

@[simp] theorem checks_wf {f : State → State} {l : List (Bool × Trap)} (hf : ∀ t, Memory.wf t.mem = true → Memory.wf (f t).mem = true) :
    Memory.wf (s.checks f l).mem = true := by
  induction l with
  | nil => exact hf s h
  | cons p l ih => exact wf_of_ite (trap_wf h) ih

@[simp] theorem barrierOf_wf {va : Word} {f : State → Option Place → State} (hf : ∀ t p, Memory.wf t.mem = true → Memory.wf (f t p).mem = true) :
    Memory.wf (s.barrierOf va f).mem = true := by
  unfold State.barrierOf
  split
  · exact hf _ _ h
  split
  · simp [h]
  split
  · exact hf _ _ (wf_of_ite h (markAccess_wf h))
  · simp [h]

@[simp] theorem entryFree_wf {f : State → State} (hf : ∀ t, Memory.wf t.mem = true → Memory.wf (f t).mem = true) :
    Memory.wf (s.entryFree f).mem = true := by simp [State.entryFree, h, hf]

@[simp] theorem markRows_wf {rs : List RowPlan} : Memory.wf (s.markRows rs).mem = true := by simp +contextual [State.markRows, h]

@[simp] theorem sendStrip_wf {k : CpKind} {place : Option ETy} {bar : Option Place} {len : Nat} {rs : List RowPlan} :
    Memory.wf (s.sendStrip k place bar len rs).mem = true := by simp [State.sendStrip, h]

@[simp] theorem endTransfer_wf {x0 : Option (Nat × Look)} : Memory.wf (s.endTransfer x0).mem = true := by
  unfold State.endTransfer
  split <;> simp +contextual [h]

@[simp] theorem sendGather_wf {es : Nat} {unit : DieId} {bar : Option Place} {rs : List RowPlan} :
    Memory.wf (s.sendGather es unit bar rs).mem = true := by simp [State.sendGather, h]

@[simp] theorem landBytes_wf {loc : Nat} {bs : List Byte} {who : Requester} : Memory.wf (s.landBytes loc bs who).mem = true := by
  simp +contextual [State.landBytes, h]

@[simp] theorem moveRow_wf {st : Strip} {m : Move} : Memory.wf (s.moveRow st m).1.mem = true := by
  unfold State.moveRow
  dsimp only
  split
  · simp [h]
  · exact landBytes_wf (foldl_wf _ (fun t e ht => landBytes_wf ht) _ (by simp [h]))

@[simp] theorem land_wf {st : Strip} : Memory.wf (s.land st).mem = true := by
  unfold State.land
  split <;> simp +contextual [h]

@[simp] theorem endGather_wf {g : Strip} : Memory.wf (s.endGather g).mem = true := by simp +contextual [State.endGather, h]

@[simp] theorem batchDone_wf {id : Nat} {d : DieId} {data : List (Nat × Option Byte)} {status : Nat} :
    Memory.wf (s.batchDone id d data status).mem = true := by
  unfold State.batchDone
  split <;> simp +contextual [h]

@[simp] theorem podTimeout_wf {id : Nat} {d : DieId} {slot : SlotNo} {strand : Word} {load : Bool} :
    Memory.wf (s.podTimeout id d slot strand load).mem = true := by simp [State.podTimeout, h]

theorem timeoutOf_wf {p : Packet} {u : DieId × State} (hu : s.timeoutOf p = some u) : Memory.wf u.2.mem = true := by
  unfold State.timeoutOf at hu
  split at hu <;> try split at hu
  all_goals cases hu
  all_goals simp [h]

@[simp] theorem loseSectors_wf {loc n : Nat} : Memory.wf (s.loseSectors loc n).mem = true := by simp [State.loseSectors, h]

@[simp] theorem loseDirty_wf {d : DieId} {loc : Nat} {x0 : DirtyAt} : Memory.wf (s.loseDirty d loc x0).mem = true := by
  unfold State.loseDirty
  split <;> simp +contextual [h]

@[simp] theorem loseState_wf {loc n : Nat} : Memory.wf (s.loseState loc n).mem = true := by simp [State.loseState, h]

@[simp] theorem uncorrectable_wf {p : ErrPlace} : Memory.wf (s.uncorrectable p).mem = true := by
  unfold State.uncorrectable
  split <;> try split
  all_goals simp [squash_mem, h]

@[simp] theorem abortOp_wf {o : CollOp} : Memory.wf (s.abortOp o).mem = true := by simp [State.abortOp, h]

@[simp] theorem applyAbort_wf {d : DieId} {g : Group} {cause : BitVec 8} : Memory.wf (s.applyAbort d g cause).mem = true := by
  simp +contextual [State.applyAbort, h]

@[simp] theorem detectAbort_wf {d : DieId} {g : Group} {cause : BitVec 8} : Memory.wf (s.detectAbort d g cause).mem = true := by
  simp [State.detectAbort, h]

@[simp] theorem form_wf {d : SReg} {ws : List Word} {par : Word} : Memory.wf (s.form d ws par).mem = true := by
  unfold State.form
  dsimp only
  (repeat' split) <;> simp +contextual [h]

@[simp] theorem loadDwords_wf {va : Word} {f : State → List Word → State} {n : Nat}
    (hf : ∀ t l, Memory.wf t.mem = true → Memory.wf (f t l).mem = true) : Memory.wf (s.loadDwords va f n).mem = true := by
  induction n generalizing s va f with
  | zero => exact hf _ _ h
  | succ n ih => exact load_wf h fun t x ht => ih ht fun u xs hu => hf _ _ hu

@[simp] theorem finishColl_wf {d : DieId} {g : Group} {o : CollOp} : Memory.wf (s.finishColl d g o).mem = true := by
  unfold State.finishColl
  refine wf_of_ite h ?_
  dsimp only
  simp only [send_mem, putGroup_mem]
  refine foldl_fst_wf _ (fun a p ha => ?_) _ ?_
  · exact landBytes_wf ha
  · exact h

@[simp] theorem takePart_wf {d : DieId} {g : Group} {p : CollPkt} : Memory.wf (s.takePart d g p).mem = true := by
  unfold State.takePart
  split <;> simp +contextual [h]

@[simp] theorem joinColl_wf {d : DieId} {g : Group} {o : CollOp} {data : List Byte} : Memory.wf (s.joinColl d g o data).mem = true := by
  unfold State.joinColl
  refine foldl_wf _ (fun t p ht => ?_) _ (by simp [h])
  split
  · exact wf_of_ite (takePart_wf ht) ht
  · exact ht

@[simp] theorem postColl_wf {g : Option Group} {fields : BitVec 48} {n : Nat} {sa sd sb : Word} {src dst : List (Place × Nat)} {at_ : Place} :
    Memory.wf (s.postColl g fields n sa sd sb src dst at_).mem = true := by
  have hp (op : HomeOp) : Memory.wf ((s.noteBarrier (some at_)).performHome s.asker at_.loc op).1.mem = true := by simp [h]
  unfold State.postColl
  dsimp only
  split
  next heq => simp [wf_fst heq (hp _)]
  next heq =>
    have hm := foldl_wf (fun (s : State) (p : (Place × Nat) × Bool) => (s.markAccess p.1.1 p.2).noteMig p.1.1)
      (fun t p ht => by simp [ht]) ((src.map fun p => (p, false)) ++ (dst.map fun p => (p, true))) (wf_fst heq (hp _))
    split
    · simp only [done4_mem, landAt_wf, hm]
    split
    · simp only [done4_mem, landAt_wf, hm]
    · simp only [done4_mem]
      exact joinColl_wf (by simpa using hm)

omit h in
@[simp] theorem forMember_wf {s t : State} (d : DieId) (gid : Gid) (gen : BitVec 32) (old now : Group → State) (h : Memory.wf s.mem = true)
    (ht : Memory.wf t.mem = true) (hold : ∀ g, Memory.wf (old g).mem = true) (hnow : ∀ g, Memory.wf (now g).mem = true) :
    Memory.wf (s.forMember t d gid gen old now).mem = true := by
  unfold State.forMember
  split
  · exact wf_of_ite h ht
  · exact wf_of_ite (hold _) (wf_of_ite (hnow _) (wf_of_ite h ht))

@[simp] theorem serveHost_wf {req : HostReq} {f : HostDo} (hf : ∀ t, Memory.wf t.mem = true → Memory.wf (f t).1.mem = true) :
    Memory.wf (s.serveHost req f).mem = true := by
  have hr (r : HRes) : Memory.wf (s.respond req r).mem = true := by simpa using h
  unfold State.serveHost
  split
  · exact h
  refine wf_of_ite h (wf_of_ite h ?_)
  split
  · split <;> exact h
  · refine wf_of_ite (hr _) (wf_of_ite (hr _) (wf_of_ite (hr _) ?_))
    simpa using hf s h

@[simp] theorem hostWrite_wf {pa : Nat} {bs : List Byte} : Memory.wf (s.hostWrite pa bs).mem = true := by simp [State.hostWrite, h]

@[simp] theorem submit_wf {req : HostReq} {obj : Nat} : Memory.wf (s.submit req obj).1.mem = true := by
  unfold State.submit
  dsimp only
  split
  · exact h
  split
  · refine doWork_wf (runGraph_wf ?_)
    exact wr_wf h
  · refine doWork_wf (nextPhase_wf ?_)
    exact wr_wf (wr_wf h)

@[simp] theorem rdma_wf {d : DieId} {key : Word} {addr n : Nat} {write : Bool} {f : State → State}
    (hf : ∀ t, Memory.wf t.mem = true → Memory.wf (f t).mem = true) : Memory.wf (s.rdma d key addr n write f).mem = true := by
  unfold State.rdma
  split
  · exact h
  split
  · simpa using h
  · exact wf_of_ite (hf s h) (by simpa using h)

@[simp] theorem dbgPut_wf {l : List (Nat × Nat)} {bs : List Byte} : Memory.wf (s.dbgPut l bs).mem = true := by
  induction l generalizing s bs with
  | nil => exact h
  | cons p l ih => exact ih (hostWrite_wf h)

@[simp] theorem resumeHalted_wf {d : DieId} {w : Waiting} : Memory.wf (s.resumeHalted d w).mem = true := by
  unfold State.resumeHalted
  dsimp only
  (repeat' split) <;> simp +contextual [h]

@[simp] theorem eachThen_wf {size : Nat} {f : State → Nat → Elt} {fin : State → State} {l : List Nat}
    (hf : ∀ t i, Memory.wf t.mem = true → (f t i).Wf) (hfin : ∀ t, Memory.wf t.mem = true → Memory.wf (fin t).mem = true) :
    Memory.wf (s.eachThen size f fin l).mem = true := by
  induction l generalizing s with
  | nil => exact hfin _ h
  | cons i is ih =>
    have he := hf (s.enterElem size i) i (by simpa using h)
    unfold State.eachThen
    split
    next heq => rw [heq] at he; exact ih (by simpa using he)
    next heq => rw [heq] at he; exact he
    next heq => rw [heq] at he; exact trap_wf (by simpa using he)
    next heq => rw [heq] at he; exact migrateTo_wf (by simpa using he)

@[simp] theorem eachElem_wf {size : Nat} {f : State → Nat → Elt} {l : List Nat} (hf : ∀ t i, Memory.wf t.mem = true → (f t i).Wf) :
    Memory.wf (s.eachElem size f l).mem = true := eachThen_wf h hf fun t ht => by simpa using ht

@[simp] theorem putHalf_wf {p : Place} {hi : Bool} {x : BitVec 4} : Memory.wf (s.putHalf p hi x).mem = true := by
  unfold State.putHalf
  dsimp only
  (repeat' split) <;> simp +contextual [h]

@[simp] theorem matrix_wf {rows : Bool} {f : State → State} (hf : ∀ t, Memory.wf t.mem = true → Memory.wf (f t).mem = true) :
    Memory.wf (s.matrix rows f).mem = true := by simp [State.matrix, h, hf]

theorem refuseElem_wf {l : Look} : (s.refuseElem l).Wf := by
  unfold State.refuseElem
  split <;> simp [h]

theorem loadElem_wf {ea : Word} {n : Nat} {f : State → Nat → Elt} (hf : ∀ t x, Memory.wf t.mem = true → (f t x).Wf) : (s.loadElem ea n f).Wf := by
  unfold State.loadElem
  split
  · split
    · simpa using h
    · have hn (p : Place) (bs : List (Option Byte)) : Memory.wf ((s.noteLoad p bs).noteLostElem bs).1.mem = true := by simp [h]
      dsimp only
      split
      · exact hn _ _
      · exact hf _ _ (hn _ _)
  · exact refuseElem_wf h

theorem storeElem_wf {ea : Word} {bs : List Byte} : (s.storeElem ea bs).Wf := by
  unfold State.storeElem
  split
  · split <;> simp [h]
  · exact refuseElem_wf h

theorem storeHalf_wf {ea : Word} {hi : Bool} {x : Nat} : (s.storeHalf ea hi x).Wf := by
  unfold State.storeHalf
  split
  · split
    · split <;> simp [h]
    · split
      · simpa using h
      · exact storeElem_wf (by simpa using h)
  · exact refuseElem_wf h

theorem vloadAt_wf {base : Word} {bank : Option (ETy × Nat)} {m : VMode} {bit : Int} {f : State → FRes → Elt}
    (hf : ∀ t r, Memory.wf t.mem = true → (f t r).Wf) : (s.vloadAt base bank m bit f).Wf := by
  unfold State.vloadAt
  refine loadElem_wf h fun t x ht => ?_
  dsimp only
  split
  · exact hf _ _ ht
  · split
    · exact loadElem_wf ht fun u e hu => hf _ _ hu
    · exact hf _ _ ht

theorem vstoreAt_wf {m : VMode} {bit : Int} {x : Nat} : (s.vstoreAt m bit x).Wf := by
  unfold State.vstoreAt
  dsimp only
  have he (y : Nat) : (if m.width = 4 then s.storeHalf (bitAddr bit) (bit % 8 ≥ 4) y
      else s.storeElem (bitAddr bit) (bytesOf (m.width / 8) y)).Wf := by
    split
    · exact storeHalf_wf h
    · exact storeElem_wf h
  split
  next heq => exact (congrArg Elt.Wf heq).mp (he _)
  · exact he _

theorem vloadElt_wf {d : VReg} {form : VForm} {oi : Bool} {base : Word} {i : Nat} : (s.vloadElt d form oi base i).Wf := by
  unfold State.vloadElt
  split
  next heq => exact vloadAt_wf (wf_fst heq (by simpa using h)) fun _ _ ht => wf_of_ite ht ht

theorem vstoreElt_wf {d : VReg} {form : VForm} {oi : Bool} {base : Word} {i : Nat} : (s.vstoreElt d form oi base i).Wf := by
  unfold State.vstoreElt
  split
  · exact h
  · split
    next heq =>
    have ht := wf_fst heq (by simpa using h)
    exact vstoreAt_wf (wf_of_ite (by simpa using ht) ht)

theorem appendElt_wf {d : VReg} {m : MReg} {base : Word} {i : Nat} : (s.appendElt d m base i).Wf := by
  unfold State.appendElt
  split
  next heq => exact vstoreAt_wf (wf_fst heq (by simpa using h))

theorem readPieces_wf {l : List (Nat × List Byte)} {acc : List (Option Byte)} : (s.readPieces l acc).Wf := by
  induction l generalizing s acc with
  | nil => exact h
  | cons p ps ih =>
    unfold State.readPieces
    split
    · split
      · trivial
      · have hn (p : Place) (bs : List (Option Byte)) : Memory.wf ((s.noteLoad p bs).noteLost bs).1.mem = true := by simp [h]
        dsimp only
        split
        · exact hn _ _
        · exact ih (hn _ _)
    · exact h
    · trivial

theorem readRow_wf {va : Word} {n : Nat} : (s.readRow va n).Wf := readPieces_wf h

theorem dxBlocks_wf {t : ETy} {va : Word} {n x fuel b : Nat} {acc : List FV} : (s.dxBlocks t va n x fuel b acc).Wf := by
  induction fuel generalizing s b acc with
  | zero => exact h
  | succ fuel ih =>
    unfold State.dxBlocks
    split
    · exact h
    dsimp only
    split <;> (try trivial)
    next heq => exact ih ((congrArg Row.Wf heq).mp (readRow_wf h))
    next heq => exact (congrArg Row.Wf heq).mp (readRow_wf h)

theorem operandRow_wf {t : ETy} {va : Word} {n : Nat} : (s.operandRow t va n).Wf := by
  unfold State.operandRow
  dsimp only
  split
  · exact h
  split <;> (try trivial)
  next heq =>
    have hr := (congrArg Row.Wf heq).mp (readRow_wf h)
    split
    · exact dxBlocks_wf hr
    · exact hr
  next heq => exact (congrArg Row.Wf heq).mp (readRow_wf h)

theorem readTile_wf {t : ETy} {base stride : Word} {n rows k : Nat} {acc : List (List FV)} : (s.readTile t base stride n rows k acc).Wf := by
  induction rows generalizing s k acc with
  | zero => exact h
  | succ rows ih =>
    unfold State.readTile
    split <;> (try trivial)
    next heq => exact ih ((congrArg Vals.Wf heq).mp (operandRow_wf h))
    next heq => exact (congrArg Vals.Wf heq).mp (operandRow_wf h)

theorem mldRow_wf {d : AccReg} {sa sb : Word} {i : Nat} : (s.mldRow d sa sb i).Wf := by
  unfold State.mldRow
  split
  next heq => exact (congrArg Row.Wf heq).mp (readRow_wf h)
  next heq => exact (congrArg Row.Wf heq).mp (readRow_wf h)
  · simpa using h
  · exact refuseElem_wf h

theorem storeRow_wf {va : Word} {size j : Nat} {l : List Nat} : (s.storeRow va size j l).Wf := by
  induction l generalizing s j with
  | nil => exact h
  | cons x xs ih =>
    unfold State.storeRow
    split
    next t heq =>
      have ht : Memory.wf t.mem = true := (congrArg Elt.Wf heq).mp (storeElem_wf h)
      exact ih (by simpa using ht)
    · exact storeElem_wf h

theorem mstRow_wf {d : AccReg} {sa stride : Word} {n : Nat} {t : ETy} {ts : FV} {i : Nat} : (s.mstRow d sa stride n t ts i).Wf := by
  unfold State.mstRow
  dsimp only
  split
  · exact refuseElem_wf h
  · split
    next heq => exact (congrArg Elt.Wf heq).mp (storeRow_wf h)
    · exact storeRow_wf h

@[simp] theorem mmaRows_wf {s0 : State} {d : AccReg} {q : MatRec} {sa : Word} {cols : List (List FV)} {l : List Nat} {rows : List (Nat × List FV)}
    (h0 : Memory.wf s0.mem = true) : Memory.wf (State.mmaRows s0 d q sa cols s l rows).mem = true := by
  induction l generalizing s rows with
  | nil => exact h
  | cons i is ih =>
    unfold State.mmaRows
    split
    next heq => exact ih ((congrArg Vals.Wf heq).mp (operandRow_wf h))
    next heq => exact trap_wf (by simpa using (congrArg Vals.Wf heq).mp (operandRow_wf h))
    · simpa using h0
    next heq => exact migrateTo_wf (by simpa using h)
    · exact refuse_wf h0

@[simp] theorem mmaRun_wf {d : AccReg} {q : MatRec} {sa sb : Word} : Memory.wf (s.mmaRun d q sa sb).mem = true := by
  unfold State.mmaRun
  refine wf_of_ite (by simpa using h) ?_
  split
  next heq => exact mmaRows_wf ((congrArg Tile.Wf heq).mp (readTile_wf h)) h
  next heq => exact trap_wf ((congrArg Tile.Wf heq).mp (readTile_wf h))
  · simpa using h
  · exact migrateTo_wf h
  · exact refuse_wf h

@[simp] theorem podServe_wf {d : DieId} {addr : Word} {n : Nat} {op : PodOp} : Memory.wf (s.podServe d addr n op).1.mem = true := by
  unfold State.podServe
  dsimp only
  (repeat' split) <;> simp [h]

@[simp] theorem podIssue_wf {a b : SReg} {n : Nat} {load : Bool} {x : Word} {f : State → Nat → State}
    (hf : ∀ t id, Memory.wf t.mem = true → Memory.wf (f t id).mem = true) : Memory.wf (s.podIssue a b n load x f).mem = true := by
  unfold State.podIssue
  refine checks_wf h fun t ht => held_wf ht fun u hu => wf_of_ite hu (hf _ _ ?_)
  split
  · exact hu
  · exact wf_of_ite hu hu

@[simp] theorem podEnd_wf {id : Nat} {die : DieId} {slot : SlotNo} {strand : Word} {load : Bool} {a : Option Word} :
    Memory.wf (s.podEnd id die slot strand load a).mem = true := by
  unfold State.podEnd
  dsimp only
  (repeat' split) <;> simp +contextual [h]

@[simp] theorem queueOp_wf {a : SReg} {k : AccessKind} {op : HomeOp} {before : Before} {f : State → Answer → State}
    (hf : ∀ t x, Memory.wf t.mem = true → Memory.wf (f t x).mem = true) (hbefore : BeforeKeeps before) :
    Memory.wf (s.queueOp a k op before f).mem = true := by simp +contextual [State.queueOp, h, hbefore, hf]

@[simp] theorem enqueue_wf {a : SReg} {bs : List Byte} {nb : Bool} {f : State → Word → State}
    (hf : ∀ t x, Memory.wf t.mem = true → Memory.wf (f t x).mem = true) : Memory.wf (s.enqueue a bs nb f).mem = true := by
  unfold State.enqueue
  refine queueOp_wf h (fun t x ht => ?_) maskRelease_keeps
  split <;> exact hf _ _ ht

@[simp] theorem dequeue_wf {a : SReg} {n : Nat} {nb : Bool} {f : State → List Byte → Word → State}
    (hf : ∀ t bs x, Memory.wf t.mem = true → Memory.wf (f t bs x).mem = true) : Memory.wf (s.dequeue a n nb f).mem = true := by
  unfold State.dequeue
  refine queueOp_wf h (fun t x ht => ?_) noWait_keeps
  split
  · refine wf_of_ite (wf_of_ite (by simp [ht]) (hf _ _ _ (by simp [ht]))) (hf _ _ _ (by simp [ht]))
  · exact hf _ _ _ (by simp [ht])

@[simp] theorem rillHop_wf {k : Nat} {mine : RillMsg → Bool} {act : Rill → State → State}
    (hact : ∀ m t, Memory.wf t.mem = true → Memory.wf (act m t).mem = true) : Memory.wf (s.rillHop k mine act).mem = true := by
  unfold State.rillHop
  dsimp only
  (repeat' split) <;> simp +contextual [h, hact]

@[simp] theorem noteFetchAt_wf {va : Word} : Memory.wf (s.noteFetchAt va).mem = true := by
  unfold State.noteFetchAt
  split <;> simp +contextual [h]

@[simp] theorem noteFetch_wf : Memory.wf s.noteFetch.mem = true := by simp [State.noteFetch, h]

end Sys2Proof.Machine
end

section
/-! SUPPORT. What an instruction answers: a next state whose memory is canonical (log 3), a fault or a refusal. -/

namespace Sys2Proof.Machine

/-- Every next state that an outcome gives has a canonical memory. -/
def NextOk (r : Res) : Prop := ∀ t, r = .next t → t.MemOk

@[simp] theorem nextOk_next (t : State) : NextOk (.next t) ↔ Memory.wf t.mem = true :=
  ⟨fun h => h t rfl, fun h u e => by cases e; exact h⟩

@[simp] theorem nextOk_fault (f : Fault) : NextOk (.fault f) := fun _ e => by cases e

@[simp] theorem nextOk_refused (r : Refusal) : NextOk (.refused r) := fun _ e => by cases e

@[simp] theorem ite_nextOk {p : Prop} {_ : Decidable p} (a b : Res) : NextOk (if p then a else b) ↔ (p → NextOk a) ∧ (¬p → NextOk b) := by
  split <;> simp [*]

variable {s : State} (h : Memory.wf s.mem = true)
include h

@[simp] theorem op2_nextOk {d a b : SReg} {f : Word → Word → Word} : NextOk (s.op2 d a b f) := by simp [State.op2, h]

@[simp] theorem op1_nextOk {d a : SReg} {f : Word → Word} : NextOk (s.op1 d a f) := by simp [State.op1, h]

theorem execLui_nextOk {d : SReg} {i : BitVec 19} : NextOk (execLui d i s) := by simp [execLui, h]

theorem execPcadd_nextOk {d : SReg} {i : BitVec 19} : NextOk (execPcadd d i s) := by simp [execPcadd, h]

theorem execCMov_nextOk {d a : SReg} : NextOk (execCMov d a s) := by simp [execCMov, h]

theorem execCAdd_nextOk {d a : SReg} : NextOk (execCAdd d a s) := by simp [execCAdd, h]

theorem execCAddi_nextOk {d : SReg} {i : BitVec 5} : NextOk (execCAddi d i s) := by simp [execCAddi, h]

theorem execCLd_nextOk {d a : SReg} : NextOk (execCLd d a s) := by simp +contextual [execCLd, h]

theorem execCSt_nextOk {a b : SReg} : NextOk (execCSt a b s) := by simp +contextual [execCSt, h]

@[simp] theorem branch_nextOk {taken : Bool} {off : Word} {n : Nat} : NextOk (s.branch taken off n) := by simp [State.branch, h]

theorem execCJ_nextOk {o : BitVec 12} : NextOk (execCJ o s) := by simp [execCJ, h]

@[simp] theorem ldOp_nextOk {d a : SReg} {i : BitVec 11} {n : Nat} {signed : Bool} : NextOk (s.ldOp d a i n signed) := by
  simp +contextual [State.ldOp, h]

@[simp] theorem stOp_nextOk {a b : SReg} {i : BitVec 11} {n : Nat} : NextOk (s.stOp a b i n) := by simp +contextual [State.stOp, h]

theorem execLdAcq_nextOk {d a : SReg} {i : BitVec 11} {z : Scope} : NextOk (execLdAcq d a i z s) :=
  (nextOk_next _).mpr <| heldAt_wf h fun _ ht => load_wf ht fun u x hu => by simpa using hu

theorem execStRel_nextOk {a b : SReg} {i : BitVec 11} {z : Scope} : NextOk (execStRel a b i z s) :=
  (nextOk_next _).mpr <| heldAt_wf h fun _ ht => release_wf ht fun _ hu => store_wf hu fun v hv => by simpa using hv

theorem execFence_nextOk {z : Scope} : NextOk (execFence z s) := by simp +contextual [execFence, h]

theorem execWres_nextOk : NextOk (execWres s) := by simp [execWres, h]

@[simp] theorem feOp_nextOk {a : SReg} {op : HomeOp} {before : Before} {f : State → Answer → State}
    (hf : ∀ t x, Memory.wf t.mem = true → Memory.wf (f t x).mem = true) (hbefore : BeforeKeeps before) : NextOk (s.feOp a op before f) := by
  simp +contextual [State.feOp, h, hbefore, hf]

@[simp] theorem feRead_nextOk {d a : SReg} {op : HomeOp} : NextOk (s.feRead d a op) := by simp +contextual [State.feRead, h]

theorem execStFe_nextOk {a b : SReg} : NextOk (execStFe a b s) := by simp +contextual [execStFe, h]

theorem execFeSet_nextOk {a : SReg} : NextOk (execFeSet a s) := by simp +contextual [execFeSet, h]

theorem execFeClr_nextOk {a : SReg} : NextOk (execFeClr a s) := by simp [execFeClr, h]

@[simp] theorem atomic_nextOk {d a : SReg} {wid : Wid} {op : HomeOp} : NextOk (s.atomic d a wid op) := by simp +contextual [State.atomic, h]

@[simp] theorem amo_nextOk {o : AmoOp} {d a b : SReg} {wid : Wid} : NextOk (s.amo o d a b wid) := by simp [State.amo, h]

theorem execAmoFadd_nextOk {d a b : SReg} {wid : Wid} : NextOk (execAmoFadd d a b wid s) := by simp [execAmoFadd, h]

@[simp] theorem rred_nextOk {o : AmoOp} {a b : SReg} {wid : Wid} : NextOk (s.rred o a b wid) := by
  unfold State.rred
  dsimp only
  (repeat' split) <;> simp +contextual [h]

theorem execRredFadd_nextOk {a b : SReg} {wid : Wid} : NextOk (execRredFadd a b wid s) := by simp [execRredFadd, h]

@[simp] theorem barOp_nextOk {a : SReg} {k : AccessKind} {op : HomeOp} {t0 lim : Nat} {before : Before} {f : State → Answer → State}
    (hf : ∀ t x, Memory.wf t.mem = true → Memory.wf (f t x).mem = true) (hbefore : BeforeKeeps before) :
    NextOk (s.barOp a k op t0 lim before f) := by simp +contextual [State.barOp, h, hbefore, hf]

theorem execBinit_nextOk {a b : SReg} : NextOk (execBinit a b s) := by simp +contextual [execBinit, h]

theorem execBpost_nextOk {a b : SReg} : NextOk (execBpost a b s) := by simp +contextual [execBpost, h]

theorem execBarr_nextOk {a : SReg} : NextOk (execBarr a s) := by simp +contextual [execBarr, h]

theorem execBwait_nextOk {d a b : SReg} : NextOk (execBwait d a b s) := by simp +contextual [execBwait, h]

theorem execCncl_nextOk {a : SReg} {l : Level5} : NextOk (execCncl a l s) := by
  unfold execCncl
  rw [nextOk_next]
  split
  · exact trap_wf h
  · refine held_wf h fun t ht => ?_
    split
    · exact ht
    next heq => simpa using cnclEffect_wf ht heq
    next heq =>
      refine releaseAll_wf (by simpa using cnclEffect_wf ht heq) fun u hu => ?_
      exact wf_of_ite (retire_wf (saveLast_wf (quiesce_wf hu))) hu

theorem execCancelStop_nextOk {strand : Word} : NextOk (execCancelStop strand s) := by simp [execCancelStop, h]

@[simp] theorem degree_nextOk {a : SReg} {f : State → Nat → State} (hf : ∀ t x, Memory.wf t.mem = true → Memory.wf (f t x).mem = true) :
    NextOk (s.degree a f) := by
  unfold State.degree
  dsimp only
  (repeat' split) <;> simp +contextual [h, hf]

theorem execRdegPin_nextOk {a : SReg} {g : BitVec 2} : NextOk (execRdegPin a g s) := by
  refine degree_nextOk h fun t loc ht => ?_
  dsimp only
  refine wf_of_ite (wf_of_ite ?_ ?_) ?_ <;> simpa using ht

theorem execRdegAuto_nextOk {a : SReg} {g : BitVec 2} : NextOk (execRdegAuto a g s) := degree_nextOk h fun t loc ht => by simpa using ht

theorem execRpref_nextOk {a b : SReg} : NextOk (execRpref a b s) := by simp [execRpref, h]

theorem execRemoteReadRequest_nextOk {k : Nat} : NextOk (execRemoteReadRequest k s) := by
  unfold execRemoteReadRequest
  split <;> simp +contextual [h, touch_mem]

theorem execReplicaFill_nextOk {k : Nat} : NextOk (execReplicaFill k s) := by
  unfold execReplicaFill
  split <;> simp +contextual [h, install_mem]

theorem execCollapse_nextOk {k : Nat} : NextOk (execCollapse k s) := by
  unfold execCollapse
  split <;> simp +contextual [h, dropReplica_mem]

theorem execEvictionNotice_nextOk {d : DieId} {line : Nat} : NextOk (execEvictionNotice d line s) := by
  unfold execEvictionNotice
  split <;> simp +contextual [h, evict_mem]

theorem execPendingStoreArrival_nextOk {k : Nat} : NextOk (execPendingStoreArrival k s) := by
  unfold execPendingStoreArrival
  dsimp only
  (repeat' split) <;> simp +contextual [h, collapseLine_mem]

theorem execPerf_nextOk {k : Nat} : NextOk (execPerf k s) := by
  unfold execPerf
  split <;> simp +contextual [h]

theorem execCack_nextOk {k : Nat} : NextOk (execCack k s) := by
  unfold execCack
  dsimp only
  (repeat' split) <;> simp +contextual [h]

theorem execEpochEnd_nextOk {d : DieId} : NextOk (execEpochEnd d s) := by simp [execEpochEnd, h]

theorem execHomeAtomic_nextOk {k : Nat} : NextOk (execHomeAtomic k s) := by simp [execHomeAtomic, h]

theorem execHomeFeRequest_nextOk {k : Nat} : NextOk (execHomeFeRequest k s) := by simp [execHomeFeRequest, h]

theorem execHomeQueueRequest_nextOk {k : Nat} : NextOk (execHomeQueueRequest k s) := by simp [execHomeQueueRequest, h]

theorem execHomeBarrierRequest_nextOk {k : Nat} : NextOk (execHomeBarrierRequest k s) := by simp [execHomeBarrierRequest, h]

theorem execHomeReply_nextOk {k : Nat} : NextOk (execHomeReply k s) := by
  unfold execHomeReply
  split <;> simp +contextual [h]

theorem execPageWalk_nextOk {who : Walker} {root va : Word} : NextOk (execPageWalk who root va s) := by
  unfold execPageWalk
  dsimp only
  (repeat' split) <;> simp +contextual [h]

theorem execNodeHandoff_nextOk {n : Nat} : NextOk (execNodeHandoff n s) := by
  unfold execNodeHandoff
  dsimp only
  (repeat' split) <;> simp +contextual [h]

theorem execDispatch_nextOk {d : DieId} : NextOk (execDispatch d s) := by
  unfold execDispatch
  dsimp only
  (repeat' split) <;> simp +contextual [h]

theorem execPreemption_nextOk {d : DieId} {k : SlotNo} : NextOk (execPreemption d k s) := by
  unfold execPreemption
  split <;> simp +contextual [h, inSlot_mem]

theorem execQuantumExpiry_nextOk {d : DieId} {k : SlotNo} : NextOk (execQuantumExpiry d k s) := by
  unfold execQuantumExpiry
  split <;> simp +contextual [h, inSlot_mem]

theorem execPark_nextOk {d : DieId} {k : SlotNo} : NextOk (execPark d k s) := by
  unfold execPark
  split
  · simpa using h
  split
  · simpa using h
  · have hp (w : Wait) : Memory.wf (s.inSlot d k fun s => s.parkMe w).mem = true := by
      rw [inSlot_mem]; exact parkMe_wf (by simpa using h)
    split
    · simpa using h
    · simpa using hp _

theorem execDeepPark_nextOk {strand : Word} : NextOk (execDeepPark strand s) := by
  unfold execDeepPark
  split <;> simp +contextual [h]

theorem execDeepRetry_nextOk {strand : Word} : NextOk (execDeepRetry strand s) := by
  unfold execDeepRetry
  split <;> simp +contextual [h]

theorem execWakeUp_nextOk {k : Nat} : NextOk (execWakeUp k s) := by
  unfold execWakeUp
  dsimp only
  (repeat' split) <;> simp +contextual [h]

theorem execNackRetry_nextOk {d : DieId} {k : SlotNo} : NextOk (execNackRetry d k s) := by simp [execNackRetry, h]

theorem execBwaitPoll_nextOk {d : DieId} {k : SlotNo} : NextOk (execBwaitPoll d k s) := by simp [execBwaitPoll, h]

theorem execBwaitTimeout_nextOk {strand : Word} : NextOk (execBwaitTimeout strand s) := by
  unfold execBwaitTimeout
  dsimp only
  (repeat' split) <;> simp +contextual [h]

theorem execLateMark_nextOk {d : DieId} {packet : LateAt} : NextOk (execLateMark d packet s) := by
  unfold execLateMark
  dsimp only
  (repeat' split) <;> simp +contextual [h]

theorem execLateTrap_nextOk {d : DieId} {k : SlotNo} : NextOk (execLateTrap d k s) := by
  unfold execLateTrap
  split <;> simp +contextual [h, inSlot_mem]

theorem execMigrationArrival_nextOk {k : Nat} : NextOk (execMigrationArrival k s) := by
  unfold execMigrationArrival
  split <;> simp +contextual [h]

theorem execBatchOffer_nextOk {hdr : Nat} {d : DieId} : NextOk (execBatchOffer hdr d s) := by
  unfold execBatchOffer
  dsimp only
  split
  next heq =>
    split at heq
    · cases heq
    · split at heq <;> cases heq
      simpa using h
  · split
    · simpa using h
    · split <;> simpa using h

theorem execCtlr_nextOk {d : SReg} {n : BitVec 11} : NextOk (execCtlr d n s) := by simp [execCtlr, h]

theorem execCtlw_nextOk {a : SReg} {n : BitVec 11} : NextOk (execCtlw a n s) := by simp [execCtlw, h]

theorem execCtlx_nextOk {d a : SReg} {n : BitVec 11} : NextOk (execCtlx d a n s) := by simp [execCtlx, h]

theorem execPredctlClr_nextOk : NextOk (execPredctlClr s) := by simp [execPredctlClr, h]

theorem execSvc_nextOk {i : BitVec 11} : NextOk (execSvc i s) := by simp [execSvc, h]

theorem execBrk_nextOk {i : BitVec 11} : NextOk (execBrk i s) := by simp [execBrk, h]

theorem execEret_nextOk : NextOk (execEret s) := by simp [execEret, h]

theorem execIfence_nextOk : NextOk (execIfence s) := by simp [execIfence, h]

theorem execDone_nextOk : NextOk (execDone s) :=
  (nextOk_next _).mpr <| held_wf h fun _ ht => releaseAll_wf (by simpa using ht) fun _ hu =>
    wf_of_ite (retire_wf (quiesce_wf hu)) hu

theorem execYield_nextOk : NextOk (execYield s) := by simp +contextual [execYield, h]

theorem execHop_nextOk {a : SReg} : NextOk (execHop a s) := by simp +contextual [execHop, h]

theorem execTlbinv_nextOk {a b : SReg} : NextOk (execTlbinv a b s) := by simp +contextual [execTlbinv, h]

theorem execTlbinvAck_nextOk {k : Nat} : NextOk (execTlbinvAck k s) := by
  unfold execTlbinvAck
  split <;> simp +contextual [h]

theorem execBootVerify_nextOk {d : DieId} {r : BootReport} : NextOk (execBootVerify d r s) := by simp [execBootVerify, h]

theorem execLinkAuth_nextOk {d : DieId} {dir : Dir} {r : LinkAuth} : NextOk (execLinkAuth d dir r s) := by simp [execLinkAuth, h]

theorem execLinkAuthTimeout_nextOk {d : DieId} {dir : Dir} : NextOk (execLinkAuthTimeout d dir s) := by simp [execLinkAuthTimeout, h]

omit h in
theorem blowFuses_mem (s : State) : (allDies.foldl (fun s d => s.mapDie d Die.blow) s).mem = s.mem := foldl_mem _ (fun t d => by rw [mapDie_mem]) _ _

theorem execInclusionTimeout_nextOk : NextOk (execInclusionTimeout s) := by
  unfold execInclusionTimeout
  refine (ite_nextOk _ _).mpr ⟨fun _ => by simpa using h, fun _ => ?_⟩
  extract_lets inc u
  have hu : Memory.wf u.mem = true := by
    refine foldl_wf _ (fun t d ht => ?_) _ h
    exact wf_of_ite ht ht
  clear_value u
  rw [nextOk_next, post_mem]
  refine wf_of_ite hu ?_
  rw [blowFuses_mem]
  exact hu

theorem execModuleReset_nextOk : NextOk (execModuleReset s) := by simp [execModuleReset, h]

theorem execAgeSample_nextOk {d : DieId} {ring : Fin 9} {slack : Nat} : NextOk (execAgeSample d ring slack s) := by
  have hd (f : Die → Die) : Memory.wf (s.mapDie d f).mem = true := h
  unfold execAgeSample
  dsimp only
  split
  · exact (nextOk_next _).mpr (wf_of_ite (hd _) h)
  split
  · exact (nextOk_next _).mpr h
  generalize hu : s.mapDie d _ = u
  have hu : Memory.wf u.mem = true := hu ▸ h
  refine (ite_nextOk _ _).mpr ⟨fun _ => by simpa using hu, fun _ => (ite_nextOk _ _).mpr ⟨fun _ => by simpa using hu, fun _ => ?_⟩⟩
  split
  · exact (nextOk_next _).mpr (wf_of_ite hu (retireRing_wf hu))
  · simpa using hu

theorem execThermalAlert_nextOk {d : DieId} {temp : Nat} : NextOk (execThermalAlert d temp s) := by simp [execThermalAlert, h]

theorem execThermalClear_nextOk {d : DieId} {temps : List Nat} : NextOk (execThermalClear d temps s) := by simp [execThermalClear, h]

theorem execThermtrip_nextOk {q : DieId} {temp : Nat} : NextOk (execThermtrip q temp s) := by simp [execThermtrip, h]

theorem execFreeze_nextOk : NextOk (execFreeze s) := by simp [execFreeze, h]

theorem execTapIdcode_nextOk : NextOk (execTapIdcode s) := by simp [execTapIdcode, h]

theorem execTapBypass_nextOk : NextOk (execTapBypass s) := by simp [execTapBypass, h]

theorem execScanAccess_nextOk {a : ScanAcc} : NextOk (execScanAccess a s) := by simp [execScanAccess, h]

theorem execJl_nextOk {d : SReg} {i : BitVec 19} : NextOk (execJl d i s) := by simp [execJl, h]

theorem execJlr_nextOk {d a : SReg} {i : BitVec 11} : NextOk (execJlr d a i s) := by simp [execJlr, h]

theorem execFork_nextOk {a : SReg} {o : BitVec 11} : NextOk (execFork a o s) := by simp [execFork, h]

theorem execFloop_nextOk {a b : SReg} {o : BitVec 11} : NextOk (execFloop a b o s) := by
  unfold execFloop
  split <;> simp +contextual [h]

theorem execFhold_nextOk : NextOk (execFhold s) := by simp +contextual [execFhold, h]

theorem execFexit_nextOk {o : BitVec 11} : NextOk (execFexit o s) := by simp [execFexit, h]

theorem execReservedEncoding_nextOk {w : Word} : NextOk (execReservedEncoding w s) := by simp [execReservedEncoding, h]

theorem execInstructionFetchFault_nextOk {code : BitVec 8} {addr : Word} : NextOk (execInstructionFetchFault code addr s) := by
  simp [execInstructionFetchFault, h]

@[simp] theorem copy_nextOk {k : CpKind} {d a b : SReg} {x : OxReg} : NextOk (s.copy k d a b x) := by
  unfold State.copy
  rw [nextOk_next]
  refine ox_wf h fun rec => checks_wf h fun t ht => barrierOf_wf ht fun u bar hu => held_wf hu fun v hv => entryFree_wf hv fun w hw => ?_
  dsimp only
  split
  · exact refuse_wf hw
  · exact endTransfer_wf (sendStrip_wf hw)

theorem execGx_nextOk {d : VReg} {a b : SReg} {wid : Wid} {z : Sz} {x : OxReg} : NextOk (execGx d a b wid z x s) := by
  unfold execGx
  rw [nextOk_next]
  refine wf_of_ite (trap_wf h) (ox_wf h fun bar => checks_wf h fun t ht => ?_)
  dsimp only
  split
  · exact trap_wf ht
  refine wf_of_ite (trap_wf ht) (barrierOf_wf ht fun u bar hu => held_wf hu fun v hv => entryFree_wf hv fun r hr => ?_)
  split
  · exact refuse_wf hr
  · exact endTransfer_wf (sendGather_wf hr)

theorem execStripAccept_nextOk {k : Nat} : NextOk (execStripAccept k s) := by
  unfold execStripAccept
  split <;> simp +contextual [h]

theorem execStripLand_nextOk {k : Nat} : NextOk (execStripLand k s) := by
  unfold execStripLand
  split
  · split
    · simpa using h
    · rw [nextOk_next]
      dsimp only
      simp only [send_mem, count_mem]
      refine foldl_fst_wf _ (fun a m ha => ?_) _ ?_
      · exact moveRow_wf ha
      · exact h
  · simpa using h

theorem execLanding_nextOk {k : Nat} : NextOk (execLanding k s) := by
  unfold execLanding
  split <;> simp +contextual [h]

theorem execGatherRequest_nextOk {k : Nat} : NextOk (execGatherRequest k s) := by
  unfold execGatherRequest
  split <;> simp +contextual [h]

theorem execForeignBatch_nextOk {k : Nat} : NextOk (execForeignBatch k s) := by
  unfold execForeignBatch
  split <;> simp +contextual [h]

theorem execFabricTimeout_nextOk {k : Nat} : NextOk (execFabricTimeout k s) := by
  unfold execFabricTimeout
  split
  · split
    next heq => exact (nextOk_next _).mpr (wf_of_ite (by simpa using timeoutOf_wf (by exact h) heq) h)
    · simpa using h
  · simpa using h

theorem execFlitReplay_nextOk {d : DieId} {dir : Dir} {good : Bool} : NextOk (execFlitReplay d dir good s) := by simp [execFlitReplay, h]

theorem execLinkDown_nextOk {d : DieId} {dir : Dir} : NextOk (execLinkDown d dir s) := by simp [execLinkDown, h]

theorem execLinkUp_nextOk {d : DieId} {dir : Dir} : NextOk (execLinkUp d dir s) := by simp [execLinkUp, h]

theorem execRowActivation_nextOk {bank : RowBank} {row : Nat} {served : Bool} : NextOk (execRowActivation bank row served s) := by
  simp [execRowActivation, h]

theorem execHotRowWindow_nextOk {d : DieId} : NextOk (execHotRowWindow d s) := by simp [execHotRowWindow, h]

theorem execHotRowHoldExpiry_nextOk {d : DieId} {row : Nat} : NextOk (execHotRowHoldExpiry d row s) := by simp [execHotRowHoldExpiry, h]

theorem execScrub_nextOk {d : DieId} : NextOk (execScrub d s) := by simp [execScrub, h]

theorem execUncorrectableError_nextOk {p : ErrPlace} : NextOk (execUncorrectableError p s) := by simp [execUncorrectableError, h]

@[simp] theorem fresult_nextOk {d : SReg} {r : FRes} : NextOk (s.fresult d r) := by simp [State.fresult, h]

@[simp] theorem fop2_nextOk {d a b : SReg} {f : Mode → Nat → Nat → FRes} : NextOk (s.fop2 d a b f) := by simp [State.fop2, h]

@[simp] theorem fop3_nextOk {d a b : SReg} {f : Mode → Nat → Nat → Nat → FRes} : NextOk (s.fop3 d a b f) := by simp [State.fop3, h]

@[simp] theorem fcmp_nextOk {d a b : SReg} {t : Fmt} {f : FV → FV → Bool × BitVec 6} : NextOk (s.fcmp d a b t f) := by simp [State.fcmp, h]

theorem execFclass_nextOk {d a : SReg} {t : Fmt} : NextOk (execFclass d a t s) := by simp [execFclass, h]

theorem execFcvt_nextOk {d a : SReg} {x y : CvtTy} {r : Rnd} : NextOk (execFcvt d a x y r s) := by simp [execFcvt, h]

@[simp] theorem geometry_nextOk {g : Geo} {d a : VReg} {wide : Bool} {z m : MReg} {x : OxReg} : NextOk (s.geometry g d a wide z m x) := by
  unfold State.geometry
  rw [nextOk_next]
  refine wf_of_ite (trap_wf h) (span_wf h fun t ht => ox_wf ht fun r => wf_of_ite (trap_wf ht) ?_)
  have hc (l : List (Nat × Option GeoRes)) (u : State) (hu : Memory.wf u.mem = true) : Memory.wf (l.foldl (fun s p => s.geoCount p.2) u).mem = true :=
    foldl_wf _ (fun v p hv => by simpa using hv) _ hu
  dsimp only
  split
  · refine trap_wf ?_
    rw [mapMe_mem, countNonfin_mem]; exact hc _ _ ht
  · rw [doneElems_mem]; exact hc _ _ ht

@[simp] theorem vint2_nextOk {ok : ETy → Bool} {d a : VReg} {b : OpB} {m : MReg} {f : ETy → Nat → Nat → Nat} : NextOk (s.vint2 ok d a b m f) := by
  simp +contextual [State.vint2, h]

@[simp] theorem vint1_nextOk {ok : ETy → Bool} {d a : VReg} {m : MReg} {f : ETy → Nat → Nat} : NextOk (s.vint1 ok d a m f) := by
  simp +contextual [State.vint1, h]

@[simp] theorem vicmp_nextOk {d : MReg} {a : VReg} {b : OpB} {m : MReg} {f : ETy → Nat → Nat → Bool} : NextOk (s.vicmp d a b m f) := by
  simp +contextual [State.vicmp, h]

@[simp] theorem vselect_nextOk {d a : VReg} {b : OpB} {m : MReg} : NextOk (s.vselect d a b m) := by simp +contextual [State.vselect, h]

@[simp] theorem vred_nextOk {o : RedOp} {d a : VReg} {m : MReg} : NextOk (s.vred o d a m) := by simp [State.vred, h]

@[simp] theorem vscan_nextOk {o : RedOp} {d a : VReg} {m : MReg} {bound : Nat → Nat → Bool} : NextOk (s.vscan o d a m bound) := by
  simp +contextual [State.vscan, h]

theorem execVredbs_nextOk {d a b : VReg} {m : MReg} : NextOk (execVredbs d a b m s) := by simp [execVredbs, h]

theorem execGform_nextOk {d a b : SReg} : NextOk (execGform d a b s) := by
  unfold execGform
  rw [nextOk_next]
  refine heldAt_wf h fun t ht => ?_
  dsimp only
  split
  · simpa using ht
  split
  · simpa using ht
  · exact wf_of_ite (trap_wf ht) <| release_wf ht fun u hu => load_wf hu fun v w hv =>
      loadDwords_wf hv fun q ws hq => form_wf hq

theorem execGstat_nextOk {d a : SReg} : NextOk (execGstat d a s) := by simp +contextual [execGstat, h]

theorem execCabort_nextOk {a : SReg} : NextOk (execCabort a s) := by
  refine (nextOk_next _).mpr (held_wf h fun t ht => ?_)
  rw [done4_mem]
  split
  · exact detectAbort_wf ht
  · exact ht

theorem execColl_nextOk {d a b : SReg} {x : OxReg} : NextOk (execColl d a b x s) := by
  unfold execColl
  rw [nextOk_next]
  refine ox_wf h fun rec => wf_of_ite (trap_wf h) (wf_of_ite (trap_wf h) (checks_wf h fun t ht => barrierOf_wf ht
    fun u bar hu => held_wf hu fun v hv => entryFree_wf hv fun r hr => ?_))
  split
  · exact refuse_wf hr
  split
  · exact refuse_wf hr
  · exact release_wf hr fun q hq => postColl_wf hq

theorem execGroupRegistration_nextOk {r : GroupReg} : NextOk (execGroupRegistration r s) := by
  unfold execGroupRegistration
  dsimp only
  split
  · simpa using h
  next t o heq =>
  have ht : Memory.wf t.mem = true := by
    split at heq
    · cases heq
    split at heq
    · obtain ⟨q, hq, e⟩ := Option.map_eq_some_iff.mp heq
      cases e
      rw [takeReg_mem hq]; exact h
    · cases heq; exact h
  split
  · simpa using ht
  split
  · simpa using h
  next g _ =>
  have ha : Memory.wf (if r.reform then t.applyAbort r.die g gREMOTE else t).mem = true := wf_of_ite (applyAbort_wf ht) ht
  split
  · exact (nextOk_next _).mpr ha
  split
  · exact (nextOk_next _).mpr (wf_of_ite (by rw [collect_mem]; exact ha) ha)
  · exact (nextOk_next _).mpr ha

theorem execGroupConfirm_nextOk {d : DieId} {entry : EntryGen} {ok : Bool} : NextOk (execGroupConfirm d entry ok s) := by
  unfold execGroupConfirm
  dsimp only
  split
  · simpa using h
  split
  · simpa using h
  split
  · simpa using h
  split
  · simpa using h
  split
  · split <;> simpa using h
  · exact (nextOk_next _).mpr (wf_of_ite (by simpa using h) (by simpa using h))

theorem execCollectivePacket_nextOk {p : CollPkt} : NextOk (execCollectivePacket p s) := by
  unfold execCollectivePacket
  dsimp only
  split
  · simpa using h
  next t heq =>
  have ht : Memory.wf t.mem = true := by
    split at heq
    · cases heq; exact h
    · rw [takePacket_mem heq]; exact h
  exact (nextOk_next _).mpr <| forMember_wf _ _ _ _ _ h ht (fun _ => by simpa using ht) fun g => wf_of_ite ht (takePart_wf ht)

theorem execAbort_nextOk {d : DieId} {gid : Gid} {gen : BitVec 32} : NextOk (execAbort d gid gen s) := by
  unfold execAbort
  dsimp only
  split
  · simpa using h
  next t heq =>
  have ht : Memory.wf t.mem = true := by
    split at heq
    next hp => cases heq; rw [takePacket_mem hp]; exact h
    · split at heq <;> cases heq; exact h
  exact (nextOk_next _).mpr <| forMember_wf _ _ _ _ _ h ht (fun _ => by simpa using ht) fun g => applyAbort_wf ht

theorem execGroupTimeout_nextOk {d : DieId} {k : BitVec 8} : NextOk (execGroupTimeout d k s) := by
  unfold execGroupTimeout
  split <;> simp +contextual [h]

theorem execMemberLost_nextOk {d : DieId} {k : BitVec 8} : NextOk (execMemberLost d k s) := by
  unfold execMemberLost
  split <;> simp +contextual [h]

theorem execGformTimeout_nextOk {strand : Word} : NextOk (execGformTimeout strand s) := by
  unfold execGformTimeout
  split <;> simp +contextual [h]

theorem execCmReq_nextOk {service : Word} : NextOk (execCmReq service s) := by
  unfold execCmReq
  split <;> simp +contextual [h]

theorem execCmRtu_nextOk {ep : Endpoint} : NextOk (execCmRtu ep s) := by
  unfold execCmRtu
  split <;> simp +contextual [h]

theorem execCmDreq_nextOk {ep : Endpoint} : NextOk (execCmDreq ep s) := by simp [execCmDreq, h]

theorem execConnectionBroken_nextOk {ep : Endpoint} : NextOk (execConnectionBroken ep s) := by simp [execConnectionBroken, h]

theorem execEcnNotification_nextOk {q : Endpoint} : NextOk (execEcnNotification q s) := by simp [execEcnNotification, h]

theorem execArpRequest_nextOk {ip : BitVec 32} : NextOk (execArpRequest ip s) := by simp [execArpRequest, h]

theorem execNeighbourSolicitation_nextOk {ip : BitVec 128} : NextOk (execNeighbourSolicitation ip s) := by simp [execNeighbourSolicitation, h]

theorem execDhcpRenewal_nextOk : NextOk (execDhcpRenewal s) := by simp [execDhcpRenewal, h]

theorem execDhcpMessage_nextOk {ip : BitVec 32} : NextOk (execDhcpMessage ip s) := by simp [execDhcpMessage, h]

theorem execRouterAdvertisement_nextOk {ip : BitVec 128} : NextOk (execRouterAdvertisement ip s) := by simp [execRouterAdvertisement, h]

theorem execPtpMessage_nextOk {offset : PtpMsg} : NextOk (execPtpMessage offset s) := by simp [execPtpMessage, h]

theorem execPtpDelayRequest_nextOk : NextOk (execPtpDelayRequest s) := by simp [execPtpDelayRequest, h]

theorem serveHost_nextOk {req : HostReq} {f : HostDo} (hf : ∀ t, Memory.wf t.mem = true → Memory.wf (f t).1.mem = true) :
    NextOk (.next (s.serveHost req f)) := (nextOk_next _).mpr (serveHost_wf h hf)

theorem execJobSubmit_nextOk {req : HostReq} : NextOk (execJobSubmit req s) := by
  refine serveHost_nextOk h fun t ht => wf_fst_of_ite ht ?_
  split
  · exact ht
  · exact submit_wf ht

theorem execJobCancel_nextOk {req : HostReq} : NextOk (execJobCancel req s) := by
  refine serveHost_nextOk h fun t ht => wf_fst_of_ite ht (wf_fst_of_ite ?_ ?_)
  · split
    · exact ht
    · exact cancelStrand_wf ht
  · split
    · exact ht
    split
    next heq => exact cancelObject_wf ht heq
    · exact ht

theorem execJobRelease_nextOk {req : HostReq} : NextOk (execJobRelease req s) := by
  refine serveHost_nextOk h fun t ht => ?_
  split
  · exact ht
  split
  · exact ht
  · exact doWork_wf (nextPhase_wf ht)

theorem execMemOpen_nextOk {req : HostReq} : NextOk (execMemOpen req s) :=
  serveHost_nextOk h fun _ ht => wf_fst_of_ite ht (wf_fst_of_ite ht (wf_fst_of_ite ht ht))

theorem execMemClose_nextOk {req : HostReq} : NextOk (execMemClose req s) := serveHost_nextOk h fun _ ht => wf_fst_of_ite ht ht

theorem execMemRead_nextOk {req : HostReq} : NextOk (execMemRead req s) := serveHost_nextOk h fun _ ht => wf_fst_of_ite ht ht

theorem execMemWrite_nextOk {req : HostReq} : NextOk (execMemWrite req s) :=
  serveHost_nextOk h fun _ ht => wf_fst_of_ite ht (wf_fst_of_ite (hostWrite_wf ht) ht)

theorem execRdmaRead_nextOk {d : DieId} {key : Word} {addr len : Nat} : NextOk (execRdmaRead d key addr len s) := by
  simp +contextual [execRdmaRead, h]

theorem execRdmaWrite_nextOk {d : DieId} {key : Word} {addr : Nat} {data : List Byte} : NextOk (execRdmaWrite d key addr data s) := by
  simp +contextual [execRdmaWrite, h]

theorem execCtlRdreg_nextOk {req : HostReq} : NextOk (execCtlRdreg req s) := by
  refine serveHost_nextOk h fun t ht => ?_
  split <;> exact ht

theorem execCtlWrreg_nextOk {req : HostReq} : NextOk (execCtlWrreg req s) := by
  refine serveHost_nextOk h fun t ht => ?_
  split
  · exact wf_fst_of_ite ht (by simpa using ht)
  · exact ht

theorem execPtpctlWrite_nextOk {req : HostReq} : NextOk (execPtpctlWrite req s) :=
  serveHost_nextOk h fun _ ht => wf_fst_of_ite ht (wf_fst_of_ite ht (by simpa using ht))

theorem execCtlTlbinv_nextOk {req : HostReq} : NextOk (execCtlTlbinv req s) := by
  unfold execCtlTlbinv
  dsimp only
  (repeat' split) <;> simp +contextual [h]

theorem execCtlGfree_nextOk {req : HostReq} : NextOk (execCtlGfree req s) := by
  refine serveHost_nextOk h fun t ht => wf_fst_of_ite ht ?_
  split
  · exact ht
  · split
    · exact ht
    · exact ht
    · exact wf_fst_of_ite ht ht

theorem execCtlFreeze_nextOk {req : HostReq} : NextOk (execCtlFreeze req s) := by simp [execCtlFreeze, h]

theorem execTelRead_nextOk {req : HostReq} : NextOk (execTelRead req s) := by
  unfold execTelRead
  dsimp only
  split <;> simp +contextual [h]

theorem execTelSubscribe_nextOk {req : HostReq} : NextOk (execTelSubscribe req s) := by
  unfold execTelSubscribe
  dsimp only
  (repeat' split) <;> simp +contextual [h]

theorem execTelSample_nextOk {d : DieId} : NextOk (execTelSample d s) := by
  unfold execTelSample
  split <;> simp +contextual [h]

theorem execDbgRead_nextOk {req : HostReq} : NextOk (execDbgRead req s) := by
  refine serveHost_nextOk h fun t ht => ?_
  split <;> exact ht

theorem execDbgWrite_nextOk {req : HostReq} : NextOk (execDbgWrite req s) := by
  refine serveHost_nextOk h fun t ht => wf_fst_of_ite ht ?_
  split
  · exact ht
  split
  · exact ht
  split <;> exact dbgPut_wf ht

theorem execDbgHalt_nextOk {req : HostReq} : NextOk (execDbgHalt req s) := by
  refine serveHost_nextOk h fun t ht => ?_
  split
  · rw [inSlot_mem]
    exact stopMe_wf (by simpa using ht) fun u hu => stopNow_wf hu
  · exact wf_fst_of_ite ht ht

theorem execDbgResume_nextOk {req : HostReq} : NextOk (execDbgResume req s) := by
  refine serveHost_nextOk h fun t ht => ?_
  split
  · exact resumeHalted_wf ht
  · exact ht

theorem execDbgRddir_nextOk {req : HostReq} : NextOk (execDbgRddir req s) := serveHost_nextOk h fun _ ht => wf_fst_of_ite ht ht

theorem execDbgRdbfmt_nextOk {req : HostReq} : NextOk (execDbgRdbfmt req s) := by
  unfold execDbgRdbfmt
  split <;> simp +contextual [h]

theorem execAgeRead_nextOk {req : HostReq} : NextOk (execAgeRead req s) := by
  unfold execAgeRead
  split <;> simp +contextual [h]

theorem execAgeRetire_nextOk {req : HostReq} : NextOk (execAgeRetire req s) :=
  serveHost_nextOk h fun _ ht => wf_fst_of_ite ht (wf_fst_of_ite ht (retireRing_wf ht))

theorem execReservedOpRequest_nextOk {req : HostReq} : NextOk (execReservedOpRequest req s) := by simp [execReservedOpRequest, h]

theorem vmem_nextOk {d : VReg} {a : SReg} {form : VForm} {m : MReg} {f : State → Word → Nat → Elt}
    (hf : ∀ t base i, Memory.wf t.mem = true → (f t base i).Wf) : NextOk (s.vmem d a form m f) := by
  unfold State.vmem
  refine (nextOk_next _).mpr (span_wf h fun t ht => wf_of_ite (trap_wf ht) ?_)
  split
  · exact trap_wf ht
  · exact eachElem_wf ht fun u i hu => hf _ _ _ hu

@[simp] theorem vload_nextOk {d : VReg} {a : SReg} {form : VForm} {m : MReg} {oi : Bool} : NextOk (s.vload d a form m oi) :=
  vmem_nextOk h fun _ _ _ ht => vloadElt_wf ht

@[simp] theorem vstore_nextOk {d : VReg} {a : SReg} {form : VForm} {m : MReg} {oi : Bool} : NextOk (s.vstore d a form m oi) :=
  vmem_nextOk h fun _ _ _ ht => vstoreElt_wf ht

theorem execVappend_nextOk {d : VReg} {a : SReg} {m : MReg} : NextOk (execVappend d a m s) := by
  refine (nextOk_next _).mpr (span_wf h fun t ht => wf_of_ite (trap_wf ht) (wf_of_ite (by simpa using ht) ?_))
  exact eachThen_wf ht (fun u i hu => appendElt_wf hu) fun u hu => by simpa using hu

theorem execMma_nextOk {d : AccReg} {a b : SReg} {x : OxReg} : NextOk (execMma d a b x s) := by
  refine (nextOk_next _).mpr (matrix_wf h fun t ht => ox_wf ht fun r => wf_of_ite (trap_wf ht) (wf_of_ite (trap_wf ht) ?_))
  split
  · exact trap_wf ht
  · exact mmaRun_wf ht

theorem execMmaRetirement_nextOk {die : DieId} {slot : SlotNo} {acc : AccReg} : NextOk (execMmaRetirement die slot acc s) := by
  simp [execMmaRetirement, h]

theorem execMzero_nextOk {d : AccReg} {t : AccTy} {a : SReg} : NextOk (execMzero d t a s) := by simp +contextual [execMzero, h]

theorem execMld_nextOk {d : AccReg} {a b : SReg} {t : AccTy} : NextOk (execMld d a b t s) := by
  refine (nextOk_next _).mpr (matrix_wf h fun u hu => wf_of_ite (trap_wf hu) ?_)
  split
  · exact trap_wf hu
  · exact eachElem_wf (by simpa using hu) fun v i hv => mldRow_wf hv

theorem execMst_nextOk {d : AccReg} {a : SReg} {x : OxReg} : NextOk (execMst d a x s) := by
  refine (nextOk_next _).mpr (matrix_wf h fun u hu => ox_wf hu fun r => wf_of_ite (trap_wf hu) ?_)
  split
  · exact trap_wf hu
  · exact eachElem_wf hu fun v i hv => mstRow_wf hv

theorem execMacc_nextOk {d a : AccReg} : NextOk (execMacc d a s) := by simp +contextual [execMacc, h]

theorem execMrowR_nextOk {d : VReg} {a : AccReg} {b : SReg} : NextOk (execMrowR d a b s) := by simp +contextual [execMrowR, h]

theorem execMrowW_nextOk {d : AccReg} {a : VReg} {b : SReg} : NextOk (execMrowW d a b s) := by simp +contextual [execMrowW, h]

theorem execPodRequest_nextOk {r : PodReq} : NextOk (execPodRequest r s) := by simp [execPodRequest, h]

theorem execLdPod_nextOk {d a b : SReg} {z : Sz} : NextOk (execLdPod d a b z s) := by
  unfold execLdPod
  split <;> simp +contextual [h]

theorem execStPod_nextOk {d a b : SReg} {z : Sz} : NextOk (execStPod d a b z s) := by simp +contextual [execStPod, h]

theorem execPodReply_nextOk {k : Nat} {data : Option Word} : NextOk (execPodReply k data s) := by
  unfold execPodReply
  dsimp only
  (repeat' split) <;> simp +contextual [h]

theorem execUalinkPortDown_nextOk {p : Fin 8} : NextOk (execUalinkPortDown p s) := by
  refine (nextOk_next _).mpr (wf_of_ite ((congrArg (Memory.wf · = true) (flushAway_mem _)).mpr h) ?_)
  exact foldl_wf _ (fun t d ht => foldl_wf _ (fun u g hu => detectAbort_wf hu) _ ht) _ h

theorem execUalinkPortUp_nextOk {p : Fin 8} : NextOk (execUalinkPortUp p s) := by simp [execUalinkPortUp, h]

theorem execQput_nextOk {a b : SReg} : NextOk (execQput a b s) := by simp +contextual [execQput, h]

theorem execQputNb_nextOk {d a b : SReg} : NextOk (execQputNb d a b s) := by simp +contextual [execQputNb, h]

theorem execQget_nextOk {d a : SReg} : NextOk (execQget d a s) := by simp +contextual [execQget, h]

theorem execQgetNb_nextOk {d a b : SReg} : NextOk (execQgetNb d a b s) := by simp [execQgetNb, h]

theorem execQputv_nextOk {d : VReg} {a : SReg} : NextOk (execQputv d a s) := by simp +contextual [execQputv, h]

theorem execQputvNb_nextOk {d : VReg} {a b : SReg} : NextOk (execQputvNb d a b s) := by simp +contextual [execQputvNb, h]

theorem execQgetv_nextOk {d : VReg} {a : SReg} : NextOk (execQgetv d a s) := by simp +contextual [execQgetv, h]

theorem execQgetvNb_nextOk {d : VReg} {a b : SReg} : NextOk (execQgetvNb d a b s) := by simp +contextual [execQgetvNb, h]

theorem execQstat_nextOk {d a : SReg} : NextOk (execQstat d a s) := by
  refine (nextOk_next _).mpr (queueOp_wf h (fun t x ht => ?_) noWait_keeps)
  split <;> simpa using ht

theorem execQinit_nextOk {a b : SReg} {x : OxReg} : NextOk (execQinit a b x s) := by
  have hq (op : HomeOp) : Memory.wf (s.queueOp a .rw op maskRelease fun s _ => s.done4).mem = true :=
    queueOp_wf h (fun t x ht => by simpa using ht) maskRelease_keeps
  refine (nextOk_next _).mpr (ox_wf h fun r => wf_of_ite (hq _) (wf_of_ite (trap_wf h) (wf_of_ite (trap_wf h) ?_)))
  split
  · split
    · exact trap_wf h
    · exact hq _
  · exact refuse_wf h

theorem execRillClaim_nextOk {k : Nat} : NextOk (execRillClaim k s) := by
  refine (nextOk_next _).mpr (rillHop_wf h fun m t ht => ?_)
  split <;> simpa using ht

theorem execChunkStart_nextOk {d : DieId} {slot : SlotNo} : NextOk (execChunkStart d slot s) := by
  unfold execChunkStart
  dsimp only
  (repeat' split) <;> simp +contextual [h]

theorem execChunkRestart_nextOk {d : DieId} {slot : SlotNo} : NextOk (execChunkRestart d slot s) := by
  unfold execChunkRestart
  split
  · simpa using h
  split
  · exact (nextOk_next _).mpr (wf_of_ite (by simpa using h) h)
  · simpa using h

theorem execLiveout_nextOk {k : Nat} : NextOk (execLiveout k s) := by
  refine (nextOk_next _).mpr (rillHop_wf h fun m t ht => ?_)
  split <;> simpa using ht

theorem execOxw_nextOk {k : Nat} : NextOk (execOxw k s) := by
  refine (nextOk_next _).mpr (rillHop_wf h fun m t ht => ?_)
  split <;> simpa using ht

theorem execStore_nextOk {k : Nat} : NextOk (execStore k s) := by
  refine (nextOk_next _).mpr (rillHop_wf h fun m t ht => ?_)
  split <;> simpa using ht

theorem execSquash_nextOk {k : Nat} : NextOk (execSquash k s) := by
  refine (nextOk_next _).mpr (rillHop_wf h fun m t ht => ?_)
  split <;> simpa using ht

theorem execCommit_nextOk {k : Nat} : NextOk (execCommit k s) := by simp [execCommit, h]

theorem execCommitListDrain_nextOk {d : DieId} {slot : SlotNo} : NextOk (execCommitListDrain d slot s) := by
  unfold execCommitListDrain
  split <;> simp +contextual [h]

theorem execRillRelease_nextOk {k : Nat} : NextOk (execRillRelease k s) := by simp [execRillRelease, h]

theorem execOlderVersionLookup_nextOk {d : DieId} {slot : SlotNo} {loc : Nat} : NextOk (execOlderVersionLookup d slot loc s) := by
  unfold execOlderVersionLookup
  dsimp only
  (repeat' split) <;> simp +contextual [h]

@[simp] theorem vf2_nextOk {d a : VReg} {b : OpB} {m : MReg} {f : FF → Mode → Nat → Nat → FRes} : NextOk (s.vf2 d a b m f) := by
  simp +contextual [State.vf2, h]

@[simp] theorem vf3_nextOk {d a : VReg} {b : OpB} {m : MReg} {f : FF → Mode → Nat → Nat → Nat → FRes} : NextOk (s.vf3 d a b m f) := by
  simp +contextual [State.vf3, h]

@[simp] theorem vf1_nextOk {d a : VReg} {m : MReg} {f : FF → Mode → Nat → FRes} : NextOk (s.vf1 d a m f) := by simp +contextual [State.vf1, h]

@[simp] theorem vfcmp_nextOk {d : MReg} {a : VReg} {b : OpB} {m : MReg} {f : FV → FV → Bool × BitVec 6} : NextOk (s.vfcmp d a b m f) := by
  simp +contextual [State.vfcmp, h]

theorem execSetvl_nextOk {d a : SReg} : NextOk (execSetvl d a s) := by simp [execSetvl, h]

theorem execSetspanImm_nextOk {g : BitVec 2} {t : ETy} : NextOk (execSetspanImm g t s) := by simp [execSetspanImm, h]

theorem execSetspanReg_nextOk {a : SReg} : NextOk (execSetspanReg a s) := by simp [execSetspanReg, h]

theorem execOxl_nextOk {a : SReg} {k : OxKind} {x : OxReg} : NextOk (execOxl a k x s) := by simp [execOxl, h]

theorem execOxs_nextOk {a : SReg} {x : OxReg} : NextOk (execOxs a x s) := by simp +contextual [execOxs, h]

theorem execOxr_nextOk {a : SReg} {k : OxKind} {x : OxReg} : NextOk (execOxr a k x s) := by simp [execOxr, h]

theorem execVcvt_nextOk {d a : VReg} {t : ETy} {m : MReg} {r : Rnd} : NextOk (execVcvt d a t m r s) := by simp +contextual [execVcvt, h]

theorem execVpack_nextOk {d a b : VReg} {m : MReg} {x : OxReg} : NextOk (execVpack d a b m x s) := by simp +contextual [execVpack, h]

theorem execVunpack_nextOk {d a b : VReg} {m : MReg} {x : OxReg} : NextOk (execVunpack d a b m x s) := by simp +contextual [execVunpack, h]

@[simp] theorem permute_nextOk {regs : List VReg} {d a : VReg} {m : MReg} {f : Ctx → Nat → Option Nat} : NextOk (s.permute regs d a m f) := by
  simp +contextual [State.permute, h]

theorem execVbcast_nextOk {d : VReg} {a : SReg} {m : MReg} : NextOk (execVbcast d a m s) := by simp +contextual [execVbcast, h]

theorem execVcompress_nextOk {d a : VReg} {m : MReg} : NextOk (execVcompress d a m s) := by simp +contextual [execVcompress, h]

theorem execVexpand_nextOk {d a : VReg} {m : MReg} : NextOk (execVexpand d a m s) := by simp +contextual [execVexpand, h]

@[simp] theorem maskOp_nextOk {d : MReg} {f : Ctx → Nat → Bool} : NextOk (s.maskOp d f) := by simp [State.maskOp, h]

theorem execMpop_nextOk {d : SReg} {a : MReg} : NextOk (execMpop d a s) := by simp [execMpop, h]

theorem execMfirst_nextOk {d : SReg} {a : MReg} : NextOk (execMfirst d a s) := by simp [execMfirst, h]

@[simp] theorem vtrans_nextOk {t : Trans} {d a : VReg} {m : MReg} : NextOk (s.vtrans t d a m) := by simp +contextual [State.vtrans, h]

theorem execVrng_nextOk {d : VReg} {a b : SReg} {m : MReg} : NextOk (execVrng d a b m s) := by simp +contextual [execVrng, h]

end Sys2Proof.Machine
end

section
/-! SUPPORT. Every instruction keeps the canonical form of memory: the dispatch. Instructions of one shared form are one case. -/

namespace Sys2Proof.Machine

theorem exec_nextOk {s : State} (i : Instr) (h : Memory.wf s.mem = true) : NextOk (exec i s) := by
  cases i with (unfold exec; dsimp only)
  | add | sub | and | or | xor | shl | shr | sra | slt | sltn | min | max | minn | maxn | mul | mulh | mulhn | mulhin | div | divn | rem |
    remn =>
    exact op2_nextOk h
  | clz | ctz | popc | bswap | sext | zext | addi | andi | ori | xori | slti | sltni | shli | shri | srai =>
    exact op1_nextOk h
  | cBeqz | cBnez | beq | bne | blt | bge | bltn | bgen =>
    exact branch_nextOk h
  | fadd | fsub | fmul | fdiv | fmin | fmax =>
    exact fop2_nextOk h
  | fsqrt =>
    exact fresult_nextOk h
  | fma | fms =>
    exact fop3_nextOk h
  | feq | flt | fle =>
    exact fcmp_nextOk h
  | ldB | ldH | ldW | ldD | ldBn | ldHn | ldWn =>
    exact ldOp_nextOk h
  | stB | stH | stW | stD =>
    exact stOp_nextOk h
  | ldFe | ldFf =>
    exact feRead_nextOk h
  | lr | sc | cas =>
    exact atomic_nextOk h
  | amoAdd | amoAnd | amoOr | amoXor | amoMin | amoMax | amoMinn | amoMaxn | amoSwap =>
    exact amo_nextOk h
  | rredAdd | rredAnd | rredOr | rredXor | rredMin | rredMax | rredMinn | rredMaxn =>
    exact rred_nextOk h
  | cpIn | cpOut | cpTt =>
    exact copy_nextOk h
  | vld | vlds | vldx | vldxOi =>
    exact vload_nextOk h
  | vst | vsts | vstx | vstxOi =>
    exact vstore_nextOk h
  | vadd | vsub | vmul | vmulh | vmin | vmax | vand | vor | vxor | vshl | vshr | vsra | vaddVs | vsubVs | vmulVs | vmulhVs | vminVs | vmaxVs
    | vandVs | vorVs | vxorVs | vshlVs | vshrVs | vsraVs =>
    exact vint2_nextOk h
  | vsel | vselVs =>
    exact vselect_nextOk h
  | vabs | vneg =>
    exact vint1_nextOk h
  | vcmpEq | vcmpNe | vcmpLt | vcmpLe | vcmpGt | vcmpGe | vcmpEqVs | vcmpNeVs | vcmpLtVs | vcmpLeVs | vcmpGtVs | vcmpGeVs =>
    exact vicmp_nextOk h
  | vfadd | vfsub | vfmul | vfdiv | vfmin | vfmax | vfaddVs | vfsubVs | vfmulVs | vfdivVs | vfminVs | vfmaxVs =>
    exact vf2_nextOk h
  | vfma | vfms | vfmaVs | vfmsVs =>
    exact vf3_nextOk h
  | vfsqrt | vfabs | vfneg | vfclass =>
    exact vf1_nextOk h
  | vfcmpEq | vfcmpNe | vfcmpLt | vfcmpLe | vfcmpEqVs | vfcmpNeVs | vfcmpLtVs | vfcmpLeVs =>
    exact vfcmp_nextOk h
  | vredAdd | vredMin | vredMax | vredAnd | vredOr | vredXor =>
    exact vred_nextOk h
  | vscanIncAdd | vscanIncMin | vscanIncMax | vscanIncAnd | vscanIncOr | vscanIncXor | vscanExcAdd | vscanExcMin | vscanExcMax | vscanExcAnd
    | vscanExcOr | vscanExcXor =>
    exact vscan_nextOk h
  | vxchg | vrot | vperm | vslideUp | vslideDn =>
    exact permute_nextOk h
  | mand | mor | mxor | mnot | mset =>
    exact maskOp_nextOk h
  | vexp2 | vlog2 | vrcp | vrsqrt | vsinpi | vcospi | vtanh | vsigm =>
    exact vtrans_nextOk h
  | gor2 | gor3 | ginc | gins | gsegx =>
    exact geometry_nextOk h
  | lui => exact execLui_nextOk h
  | pcadd => exact execPcadd_nextOk h
  | cMov => exact execCMov_nextOk h
  | cAdd => exact execCAdd_nextOk h
  | cAddi => exact execCAddi_nextOk h
  | cLd => exact execCLd_nextOk h
  | cSt => exact execCSt_nextOk h
  | cJ => exact execCJ_nextOk h
  | fclass => exact execFclass_nextOk h
  | fcvt => exact execFcvt_nextOk h
  | jl => exact execJl_nextOk h
  | jlr => exact execJlr_nextOk h
  | fork => exact execFork_nextOk h
  | floop => exact execFloop_nextOk h
  | fhold => exact execFhold_nextOk h
  | fexit => exact execFexit_nextOk h
  | ldAcq => exact execLdAcq_nextOk h
  | stRel => exact execStRel_nextOk h
  | stFe => exact execStFe_nextOk h
  | feSet => exact execFeSet_nextOk h
  | feClr => exact execFeClr_nextOk h
  | ldPod => exact execLdPod_nextOk h
  | stPod => exact execStPod_nextOk h
  | amoFadd => exact execAmoFadd_nextOk h
  | rredFadd => exact execRredFadd_nextOk h
  | fence => exact execFence_nextOk h
  | wres => exact execWres_nextOk h
  | binit => exact execBinit_nextOk h
  | bpost => exact execBpost_nextOk h
  | barr => exact execBarr_nextOk h
  | bwait => exact execBwait_nextOk h
  | qput => exact execQput_nextOk h
  | qputNb => exact execQputNb_nextOk h
  | qget => exact execQget_nextOk h
  | qgetNb => exact execQgetNb_nextOk h
  | qputv => exact execQputv_nextOk h
  | qputvNb => exact execQputvNb_nextOk h
  | qgetv => exact execQgetv_nextOk h
  | qgetvNb => exact execQgetvNb_nextOk h
  | qstat => exact execQstat_nextOk h
  | qinit => exact execQinit_nextOk h
  | gx => exact execGx_nextOk h
  | rdegPin => exact execRdegPin_nextOk h
  | rdegAuto => exact execRdegAuto_nextOk h
  | rpref => exact execRpref_nextOk h
  | gform => exact execGform_nextOk h
  | gstat => exact execGstat_nextOk h
  | coll => exact execColl_nextOk h
  | cabort => exact execCabort_nextOk h
  | setvl => exact execSetvl_nextOk h
  | setspanImm => exact execSetspanImm_nextOk h
  | setspanReg => exact execSetspanReg_nextOk h
  | oxl => exact execOxl_nextOk h
  | oxs => exact execOxs_nextOk h
  | oxr => exact execOxr_nextOk h
  | vappend => exact execVappend_nextOk h
  | vcvt => exact execVcvt_nextOk h
  | vpack => exact execVpack_nextOk h
  | vunpack => exact execVunpack_nextOk h
  | vredbs => exact execVredbs_nextOk h
  | vbcast => exact execVbcast_nextOk h
  | vcompress => exact execVcompress_nextOk h
  | vexpand => exact execVexpand_nextOk h
  | mpop => exact execMpop_nextOk h
  | mfirst => exact execMfirst_nextOk h
  | vrng => exact execVrng_nextOk h
  | mma => exact execMma_nextOk h
  | mzero => exact execMzero_nextOk h
  | mld => exact execMld_nextOk h
  | mst => exact execMst_nextOk h
  | macc => exact execMacc_nextOk h
  | mrowR => exact execMrowR_nextOk h
  | mrowW => exact execMrowW_nextOk h
  | svc => exact execSvc_nextOk h
  | brk => exact execBrk_nextOk h
  | eret => exact execEret_nextOk h
  | ifence => exact execIfence_nextOk h
  | done => exact execDone_nextOk h
  | yield => exact execYield_nextOk h
  | hop => exact execHop_nextOk h
  | cncl => exact execCncl_nextOk h
  | ctlr => exact execCtlr_nextOk h
  | ctlw => exact execCtlw_nextOk h
  | ctlx => exact execCtlx_nextOk h
  | tlbinv => exact execTlbinv_nextOk h
  | predctlClr => exact execPredctlClr_nextOk h
  | dispatch => exact execDispatch_nextOk h
  | preemption => exact execPreemption_nextOk h
  | quantumExpiry => exact execQuantumExpiry_nextOk h
  | park => exact execPark_nextOk h
  | deepPark => exact execDeepPark_nextOk h
  | deepRetry => exact execDeepRetry_nextOk h
  | wakeUp => exact execWakeUp_nextOk h
  | nackRetry => exact execNackRetry_nextOk h
  | bwaitPoll => exact execBwaitPoll_nextOk h
  | bwaitTimeout => exact execBwaitTimeout_nextOk h
  | gformTimeout => exact execGformTimeout_nextOk h
  | cancelStop => exact execCancelStop_nextOk h
  | lateMark => exact execLateMark_nextOk h
  | lateTrap => exact execLateTrap_nextOk h
  | migrationArrival => exact execMigrationArrival_nextOk h
  | rillClaim => exact execRillClaim_nextOk h
  | chunkStart => exact execChunkStart_nextOk h
  | liveout => exact execLiveout_nextOk h
  | oxw => exact execOxw_nextOk h
  | store => exact execStore_nextOk h
  | squash => exact execSquash_nextOk h
  | chunkRestart => exact execChunkRestart_nextOk h
  | commit => exact execCommit_nextOk h
  | commitListDrain => exact execCommitListDrain_nextOk h
  | rillRelease => exact execRillRelease_nextOk h
  | olderVersionLookup => exact execOlderVersionLookup_nextOk h
  | homeAtomic => exact execHomeAtomic_nextOk h
  | homeFeRequest => exact execHomeFeRequest_nextOk h
  | homeQueueRequest => exact execHomeQueueRequest_nextOk h
  | homeBarrierRequest => exact execHomeBarrierRequest_nextOk h
  | homeReply => exact execHomeReply_nextOk h
  | pendingStoreArrival => exact execPendingStoreArrival_nextOk h
  | collapse => exact execCollapse_nextOk h
  | perf => exact execPerf_nextOk h
  | cack => exact execCack_nextOk h
  | remoteReadRequest => exact execRemoteReadRequest_nextOk h
  | replicaFill => exact execReplicaFill_nextOk h
  | evictionNotice => exact execEvictionNotice_nextOk h
  | epochEnd => exact execEpochEnd_nextOk h
  | pageWalk => exact execPageWalk_nextOk h
  | tlbinvAck => exact execTlbinvAck_nextOk h
  | stripAccept => exact execStripAccept_nextOk h
  | stripLand => exact execStripLand_nextOk h
  | landing => exact execLanding_nextOk h
  | gatherRequest => exact execGatherRequest_nextOk h
  | foreignBatch => exact execForeignBatch_nextOk h
  | rowActivation => exact execRowActivation_nextOk h
  | hotRowWindow => exact execHotRowWindow_nextOk h
  | hotRowHoldExpiry => exact execHotRowHoldExpiry_nextOk h
  | scrub => exact execScrub_nextOk h
  | uncorrectableError => exact execUncorrectableError_nextOk h
  | nodeHandoff => exact execNodeHandoff_nextOk h
  | batchOffer => exact execBatchOffer_nextOk h
  | jobSubmit => exact execJobSubmit_nextOk h
  | jobCancel => exact execJobCancel_nextOk h
  | jobRelease => exact execJobRelease_nextOk h
  | memOpen => exact execMemOpen_nextOk h
  | memClose => exact execMemClose_nextOk h
  | memRead => exact execMemRead_nextOk h
  | memWrite => exact execMemWrite_nextOk h
  | rdmaRead => exact execRdmaRead_nextOk h
  | rdmaWrite => exact execRdmaWrite_nextOk h
  | ctlRdreg => exact execCtlRdreg_nextOk h
  | ctlWrreg => exact execCtlWrreg_nextOk h
  | ptpctlWrite => exact execPtpctlWrite_nextOk h
  | ctlTlbinv => exact execCtlTlbinv_nextOk h
  | ctlGfree => exact execCtlGfree_nextOk h
  | ctlFreeze => exact execCtlFreeze_nextOk h
  | telRead => exact execTelRead_nextOk h
  | telSubscribe => exact execTelSubscribe_nextOk h
  | telSample => exact execTelSample_nextOk h
  | dbgRead => exact execDbgRead_nextOk h
  | dbgWrite => exact execDbgWrite_nextOk h
  | dbgHalt => exact execDbgHalt_nextOk h
  | dbgResume => exact execDbgResume_nextOk h
  | dbgRddir => exact execDbgRddir_nextOk h
  | dbgRdbfmt => exact execDbgRdbfmt_nextOk h
  | ageRead => exact execAgeRead_nextOk h
  | ageRetire => exact execAgeRetire_nextOk h
  | cmReq => exact execCmReq_nextOk h
  | cmRtu => exact execCmRtu_nextOk h
  | cmDreq => exact execCmDreq_nextOk h
  | connectionBroken => exact execConnectionBroken_nextOk h
  | ecnNotification => exact execEcnNotification_nextOk h
  | arpRequest => exact execArpRequest_nextOk h
  | neighbourSolicitation => exact execNeighbourSolicitation_nextOk h
  | dhcpRenewal => exact execDhcpRenewal_nextOk h
  | ptpMessage => exact execPtpMessage_nextOk h
  | flitReplay => exact execFlitReplay_nextOk h
  | linkDown => exact execLinkDown_nextOk h
  | linkUp => exact execLinkUp_nextOk h
  | fabricTimeout => exact execFabricTimeout_nextOk h
  | ualinkPortDown => exact execUalinkPortDown_nextOk h
  | ualinkPortUp => exact execUalinkPortUp_nextOk h
  | podRequest => exact execPodRequest_nextOk h
  | podReply => exact execPodReply_nextOk h
  | groupRegistration => exact execGroupRegistration_nextOk h
  | groupConfirm => exact execGroupConfirm_nextOk h
  | collectivePacket => exact execCollectivePacket_nextOk h
  | abort => exact execAbort_nextOk h
  | groupTimeout => exact execGroupTimeout_nextOk h
  | memberLost => exact execMemberLost_nextOk h
  | moduleReset => exact execModuleReset_nextOk h
  | bootVerify => exact execBootVerify_nextOk h
  | linkAuth => exact execLinkAuth_nextOk h
  | linkAuthTimeout => exact execLinkAuthTimeout_nextOk h
  | inclusionTimeout => exact execInclusionTimeout_nextOk h
  | ageSample => exact execAgeSample_nextOk h
  | thermalAlert => exact execThermalAlert_nextOk h
  | thermalClear => exact execThermalClear_nextOk h
  | thermtrip => exact execThermtrip_nextOk h
  | freeze => exact execFreeze_nextOk h
  | tapIdcode => exact execTapIdcode_nextOk h
  | tapBypass => exact execTapBypass_nextOk h
  | scanAccess => exact execScanAccess_nextOk h
  | mmaRetirement => exact execMmaRetirement_nextOk h
  | reservedEncoding => exact execReservedEncoding_nextOk h
  | instructionFetchFault => exact execInstructionFetchFault_nextOk h
  | reservedOpRequest => exact execReservedOpRequest_nextOk h
  | dhcpMessage => exact execDhcpMessage_nextOk h
  | routerAdvertisement => exact execRouterAdvertisement_nextOk h
  | ptpDelayRequest => exact execPtpDelayRequest_nextOk h

end Sys2Proof.Machine
end

section
/-! SUPPORT. One step keeps the canonical form of memory (log 3, a choice of the model). -/

namespace Sys2Proof.Machine

theorem issued_nextOk {s : State} (i : Instr) (h : Memory.wf s.mem = true) : NextOk (s.issued i) := by
  unfold State.issued
  split
  next u go heq =>
    have hu : Memory.wf u.mem = true := by
      rw [show u = (s.grant i).1 from (congrArg Prod.fst heq).symm, grant_mem]; exact h
    have hx : NextOk (exec i u) := exec_nextOk i hu
    split
    · exact (nextOk_next u).2 hu
    · split
      next t ht => rw [nextOk_next, charged_mem]; exact hx t ht
      next => exact hx

theorem issueWord_nextOk {s : State} (h : Memory.wf s.mem = true) : NextOk s.issueWord := by
  unfold State.issueWord
  split
  · simpa using h
  · simpa using h
  · exact exec_nextOk _ h
  · dsimp only
    split
    · exact exec_nextOk _ (by simpa using h)
    · split
      next u hu =>
        have hu : Memory.wf u.mem = true := by rw [readLiveIns_mem hu]; simpa using h
        exact issued_nextOk _ (wf_of_ite hu (noteFetch_wf hu))
      next => simpa using h

theorem boundary_nextOk {s : State} (h : Memory.wf s.mem = true) : NextOk s.boundary := by
  simp [State.boundary, h, issueWord_nextOk h]

theorem issue_nextOk {s : State} (h : Memory.wf s.mem = true) : NextOk s.issue := by
  unfold State.issue
  have hu : Memory.wf (if s.me.state = .running then s.imageStep else s).mem = true := wf_of_ite (imageStep_wf h) h
  generalize (if s.me.state = .running then s.imageStep else s) = u at hu
  have hl : Memory.wf (if u.me.lateDue then u.takeLate else u).mem = true := wf_of_ite (takeLate_wf hu) hu
  dsimp only
  split
  · simpa using hu
  split
  · simpa using hu
  split
  · simpa using hu
  split
  · simpa using stopNow_wf hu
  split
  · exact (nextOk_next _).2 hl
  split
  · exact boundary_nextOk hu
  split
  next => exact (nextOk_next _).2 (wf_of_ite (wf_of_ite (takeLate_wf hu) (takeTrap_wf hu)) hu)
  next =>
    split
    · exact (nextOk_next _).2 (wf_of_ite (weirPass_wf hu) (by simpa using hu))
    · exact boundary_nextOk hu

theorem partWay_wf {s : State} (n : Nat) (h : Memory.wf s.mem = true) : Memory.wf (s.partWay n).mem = true := by
  unfold State.partWay
  dsimp only
  split
  · split
    · refine wf_of_ite ?_ h
      split
      next t ht => exact wf_of_ite (issue_nextOk (s := s.upTo _) h t ht) h
      next => exact h
    · exact h
  · exact h

theorem turn_nextOk {s : State} (t : Turn) (h : Memory.wf s.mem = true) : NextOk (s.turn t) := by
  cases t with
  | slot d k => simp [State.turn, h]
  | pass n => simp [State.turn, h]
  | fetchLine d k => simp [State.turn, h]
  | groups n => simp [State.turn, partWay_wf n h]
  | event i =>
    have hx : NextOk (exec i s) := exec_nextOk i h
    simp only [State.turn, ite_nextOk, nextOk_refused, nextOk_fault, implies_true, true_and]
    intro _ _
    split
    next u hu => rw [nextOk_next, countFlits_mem]; exact hx u hu
    next => exact hx

theorem takeStep_nextOk {s : State} (h : Memory.wf s.mem = true) : NextOk s.takeStep := by
  unfold State.takeStep
  split
  · exact turn_nextOk _ h
  · simp [issue_nextOk h]

/-- Settles O59. The canonical form is the model's own choice (log 3). Memory is written by `State.writeBytes`, module reset and the scan
chain alone, each of which keeps the form; every other operation leaves memory as it is or is composed of these, so every instruction
keeps the form (`exec_nextOk`), and with it every turn and every issue. -/
theorem everyStepKeepsMemoryCanonical : Obligations.EveryStepKeepsMemoryCanonical := by
  unfold Obligations.EveryStepKeepsMemoryCanonical
  intro s t h
  exact takeStep_nextOk h t

end Sys2Proof.Machine
end

section
/-! SUPPORT. Versioned stores (R22, R314, R315): what a chunk's list of written bytes reads after a store, and what a store of a
speculative chunk changes. -/

namespace Sys2Proof.Machine

/-- A cell put is read back, and no other changes, in any list of cells. -/
theorem cellGet_cellPut (a x : Nat) (b : Byte) (m : List Host.Cell) : cellGet (cellPut a b m) x = if x = a then some b else cellGet m x := by
  induction m with
  | nil => simp only [cellPut, cellGet]; split <;> simp
  | cons c m ih =>
    obtain ⟨k, v⟩ := c
    unfold cellPut
    split
    · grind [cellGet]
    split
    · grind [cellGet]
    · rw [cellGet, cellGet, ih]; grind

/-- Bytes put from `loc` on are read back, and every other cell reads as before. -/
theorem cellGet_cellsPut (bs : List Byte) (loc x : Nat) (m : List Host.Cell) :
    cellGet (cellsPut loc bs m) x = if loc ≤ x ∧ x < loc + bs.length then bs[x - loc]? else cellGet m x := by
  induction bs generalizing loc m with
  | nil => rw [if_neg (by simp only [List.length_nil]; omega)]; rfl
  | cons b bs ih =>
    rw [cellsPut, ih, cellGet_cellPut, List.length_cons]
    by_cases hx : x = loc
    · subst hx; simp
    · by_cases hin : loc + 1 ≤ x ∧ x < loc + 1 + bs.length
      · rw [if_pos hin, if_pos (by omega), show x - loc = x - (loc + 1) + 1 by omega, List.getElem?_cons_succ]
      · rw [if_neg hin, if_neg hx, if_neg (by omega)]

theorem cellGet_noteWrite (k : Chunk) (loc n w x : Nat) :
    cellGet (k.noteWrite loc (bytesOf n w)).wr x
      = if loc ≤ x ∧ x < loc + n then some (BitVec.ofNat 8 (w / 256 ^ (x - loc))) else cellGet k.wr x := by
  rw [Chunk.noteWrite, cellGet_cellsPut, bytesOf_length]
  split
  · exact bytesOf_get _ _ _ (by omega)
  · rfl

/-- An address of a load or a store: base and displacement are added as signed numbers (R170). -/
theorem add_imm11 (x : Word) (i : BitVec 11) : x + imm11 i = BitVec.ofInt 64 (x.toInt + i.toInt) := by
  rw [BitVec.ofInt_add, BitVec.ofInt_toInt]; rfl

@[simp] theorem announce_me (s : State) (c : Ctx) (k : Chunk) (loc n : Nat) : (s.announce c k loc n).me = s.me := by
  unfold State.announce; split <;> rfl

@[simp] theorem noteMig_me (s : State) (p : Place) : (s.noteMig p).me = s.me := by unfold State.noteMig; split <;> simp

/-- A packet past the deadline is noted in the slot, and nowhere else (R400). -/
theorem noteDue_me (s : State) (p : Place) : ∃ n, (s.noteDue p).me = { s.me with overdue := n } := by
  unfold State.noteDue
  dsimp only
  split
  · exact ⟨_, rfl⟩
  · exact ⟨s.me.overdue, rfl⟩

/-- The bytes of a store of a speculative chunk go into its version; nothing else of the slot changes but the count of late packets. -/
theorem putBytes_versioned {s : State} {p : Place} {k : Chunk} (bs : List Byte) (hc : s.me.chunk = some k) (hs : k.spec = true)
    (hd : isDevice p.loc = false) :
    ∃ n, (s.putBytes p bs).me = { s.me with overdue := n, chunk := some (k.noteWrite p.loc bs) } := by
  obtain ⟨n, hn⟩ := noteDue_me s p
  refine ⟨n, ?_⟩
  simp [State.putBytes, hd, hc, hs, hn]

theorem putBytes_versioned_mem {s : State} {p : Place} {k : Chunk} (bs : List Byte) (hc : s.me.chunk = some k) (hs : k.spec = true)
    (hd : isDevice p.loc = false) : (s.putBytes p bs).mem = s.mem := by
  simp [State.putBytes, hd, hc, hs]

/-- A store that passes its checks in a speculative chunk needs no room: it is performed, and its translation has nothing to mark. -/
theorem store_versioned {s : State} {va : Word} {n : Nat} {p : Place} {k : Chunk} (x : Nat) (f : State → State)
    (hc : s.me.chunk = some k) (hs : k.spec = true) (hr : s.Reaches .w 2 va n p) :
    s.store va n 2 x f = f ((s.noteMig p).putBytes p (bytesOf n x)) := by
  obtain ⟨ha, hl, hm⟩ := hr
  have hready : s.storeReady p n = true := by simp [State.storeReady, Ctx.versioned, hc, hs]
  unfold State.store
  rw [if_neg (by simpa using ha), hl]
  simp only [hready, if_true]
  rw [show s.markAccess p true = s from markAccess_marked _ _ _ hm]

/-- Going on to the next word changes no byte that the slot's chunk has written. -/
theorem advance_wr {s : State} {k : Chunk} (n : Nat) (hc : s.me.chunk = some k) : ∃ q, (s.advance n).me.chunk = some q ∧ q.wr = k.wr := by
  have hcore : (s.advance n).me.chunk.map Chunk.core = s.me.chunk.map Chunk.core := congrArg Ctx.chunk (advance_keeps s n id).2.slot
  rw [hc] at hcore
  cases hq : (s.advance n).me.chunk with
  | none => simp [hq] at hcore
  | some q =>
    rw [hq, Option.map_some, Option.map_some, Option.some_inj] at hcore
    have hwr : q.core.wr = k.core.wr := by rw [hcore]
    exact ⟨q, rfl, hwr⟩

/-- Everything a store of a speculative chunk does. -/
theorem versioned_store_effect {s : State} {va : Word} {n : Nat} {p : Place} {k : Chunk} (x len : Nat) (hc : s.me.chunk = some k)
    (hs : k.spec = true) (hr : s.Reaches .w 2 va n p) (hd : isDevice p.loc = false) :
    let t := s.store va n 2 x fun s => s.advance len
    t.mem = s.mem ∧ Passed s t len ∧ SlotKept s t Ctx.noNotes ∧ ∃ q, t.me.chunk = some q
      ∧ ∀ a, cellGet q.wr a = if p.loc ≤ a ∧ a < p.loc + n then some (BitVec.ofNat 8 (x / 256 ^ (a - p.loc))) else cellGet k.wr a := by
  have hcm : (s.noteMig p).me.chunk = some k := by rw [noteMig_me, hc]
  obtain ⟨m, hme⟩ := putBytes_versioned (bytesOf n x) hcm hs hd
  have hmem := putBytes_versioned_mem (bytesOf n x) hcm hs hd
  rw [noteMig_me] at hme
  rw [store_versioned x _ hc hs hr]
  generalize (s.noteMig p).putBytes p (bytesOf n x) = u at hme hmem
  have huc : u.me.chunk = some (k.noteWrite p.loc (bytesOf n x)) := by rw [hme]
  obtain ⟨hpc, hkeep⟩ := advance_keeps u len id
  obtain ⟨q, hq, hwr⟩ := advance_wr len huc
  refine ⟨by rw [advance_mem, hmem, noteMig_mem], ?_, ?_, q, hq, fun a => by rw [hwr, cellGet_noteWrite]⟩
  · rw [Passed, hpc, hme]
  · have hstill : (u.advance len).me.still = u.me.still := hkeep.slot
    rw [SlotKept, hstill, hme]
    simp [Ctx.noNotes, Ctx.still, Ctx.noCounts, Chunk.core, Chunk.noteWrite, hc]

/-- Settles O10: every form is one store, whose bytes go into the chunk's version (`versioned_store_effect`). -/
theorem speculativeStoresAreVersioned : Obligations.SpeculativeStoresAreVersioned := by
  unfold Obligations.SpeculativeStoresAreVersioned
  intro a b i s p k
  dsimp only
  rw [← add_imm11]
  have hstore (n : Nat) (hc : s.me.chunk = some k) (hs : k.spec = true) (hr : s.Reaches .w 2 (s.getS a + imm11 i) n p)
      (hd : isDevice p.loc = false) := versioned_store_effect (s.getS b).toNat 4 hc hs hr hd
  exact ⟨fun hc hs hr hd => ⟨_, rfl, hstore 1 hc hs hr hd⟩, fun hc hs hr hd => ⟨_, rfl, hstore 2 hc hs hr hd⟩,
    fun hc hs hr hd => ⟨_, rfl, hstore 4 hc hs hr hd⟩, fun hc hs hr hd => ⟨_, rfl, hstore 8 hc hs hr hd⟩,
    fun hc hs hr hd => ⟨_, rfl, versioned_store_effect _ 2 hc hs hr hd⟩⟩

end Sys2Proof.Machine
end

section
/-! SUPPORT. A trap that is taken at once, and the wait that it gives up (R27, R167). -/

namespace Sys2Proof.Machine

theorem exec_svc (i : BitVec 11) (s : State) : exec (.svc i) s = .next (s.trap ⟨cSVC, i.setWidth 64, false, 4⟩) := rfl

/-- Outside a forked region a trap is taken at once (R27). -/
theorem trap_of_serial (s : State) (t : Trap) (h : s.me.chunk = none) : s.trap t = s.takeTrap t false := by
  simp [State.trap, Ctx.speculative, h]

/-- Outside a region there is no speculation to end and nothing to drain. -/
theorem endSpeculation_serial (s : State) (h : s.me.chunk = none) : s.endSpeculation s.me = s := by simp [State.endSpeculation, h]

theorem drainStep_serial (s : State) (h : s.me.chunk = none) : s.drainStep s.me = s := by simp [State.drainStep, h]

theorem drained_serial (s : State) (h : s.me.chunk = none) : s.me.drained = true := by simp [Ctx.drained, h]

/-- What a trap that is entered leaves of memory: what giving up the wait leaves (R167). -/
theorem takeTrap_enter_mem (s : State) (t : Trap) (held : Bool) (hstop : s.stopFirst = false) (hlevel : s.me.level = .strand)
    (hhalt : s.haltsOn t = false) (hchunk : s.me.chunk = none) : (s.takeTrap t held).mem = s.leaveWait.mem := by
  simp [State.takeTrap, hstop, hlevel, hhalt, State.afterDrain, endSpeculation_serial, drainStep_serial, drained_serial, hchunk]

/-- A strand that stands as a waiter for elements of the queue at 0x1000, whose QCB counts that one waiter (R193, R198). -/
def queueWaiter : State :=
  { State.reset with
    me := { Ctx.reset 0 0 with state := .running, strand := 0x123, wait := some ⟨.queue, 0x1000, 0, 0, 0, true, 0, 0, false⟩ }
    mem := [(0x1026, 1)]
    dies := State.reset.dies.set 0 { Die.reset with present := true, waiters := [⟨.queue, false, 0x1000, 0, 0x123⟩] } }

theorem queueWaiter_serial : queueWaiter.me.chunk = none := rfl

theorem queueWaiter_leaveWait_mem : queueWaiter.leaveWait.mem = [] := by decide +kernel

/-- Refutes O46: the trap of an instruction gives up the wait of the slot (R167), and giving up the wait of a strand that waits for
elements of a queue writes the waiter count of the queue's control block, so the memory of `EnteredTrap` is not the memory before. -/
theorem not_trapEntryAndReturn : ¬ Obligations.TrapEntryAndReturn := by
  unfold Obligations.TrapEntryAndReturn
  intro h
  obtain ⟨hentry, -⟩ := h 0 0 0 0 0 0 queueWaiter (Chunk.start 0 true)
  obtain ⟨t, ht, hentered⟩ := hentry (.svc 0, cSVC, 4, 0) (by simp) (by decide) ⟨rfl, by decide⟩ rfl (.inl rfl) (by decide) (by decide +kernel)
  obtain ⟨-, -, -, -, -, hmem, -⟩ := hentered
  rw [Host.Outcome.next.inj (ht.symm.trans (exec_svc 0 queueWaiter)), trap_of_serial _ _ queueWaiter_serial,
    takeTrap_enter_mem _ _ _ rfl rfl (by decide +kernel) queueWaiter_serial, queueWaiter_leaveWait_mem] at hmem
  exact absurd hmem (by decide +kernel)

end Sys2Proof.Machine
end

section
/-! SUPPORT. The control registers (R41, R42, R158): who may read and write each, what a write changes and what it leaves. -/

namespace Sys2Proof.Machine

theorem die_mapDie (s : State) (d e : DieId) (f : Die → Die) : (s.mapDie d f).die e = if e = d then f (s.die d) else s.die e := by
  simp only [State.die, mapDie_dies, Fin.getElem_fin, Vector.getElem_set, Fin.val_inj, eq_comm]

/-! ### Access and reserved values (R41) -/

theorem ctlAccess_ne_none (n : Nat) (sys : Bool) : ctlAccess n sys ≠ .none ↔ n ≤ 0x00F ∨ (sys = true ∧ n ≤ 0x015) := by
  by_cases h : n ≤ 0x015
  · interval_cases n <;> cases sys <;> decide
  · unfold ctlAccess
    grind

theorem ctlAccess_eq_rw (n : Nat) (sys : Bool) : ctlAccess n sys = .rw ↔
    n ≤ 5 ∨ n = 7 ∨ n = 8 ∨ (sys = true ∧ (n = 9 ∨ (0x00D ≤ n ∧ n ≤ 0x014))) := by
  by_cases h : n ≤ 0x015
  · interval_cases n <;> cases sys <;> decide
  · unfold ctlAccess
    grind

theorem ctlReserved_iff (n : Nat) (x : Word) : ctlReserved n x = true ↔ (n = 4 ∧ 5 ≤ x.toNat % 8) ∨ (n = 0x012 ∧ 0x15 ≤ x.toNat % 256) := by
  unfold ctlReserved
  split
  · simp [bits]
  · simp [bits]
  · simp_all

/-! ### Fields of a word -/

theorem getLsbD_fld (x : Word) (lo n i : Nat) : (fld x lo n).getLsbD i = (decide (i < n) && x.getLsbD (lo + i)) := by
  unfold fld bits
  rw [BitVec.getLsbD_ofNat, Nat.testBit_mod_two_pow, Nat.testBit_div_two_pow, ← BitVec.testBit_toNat, Nat.add_comm i lo]
  cases decide (i < n) <;> simp

/-- A field with zeros below it, read as a word, is the value under the field's mask. -/
theorem setWidth_fld_append (x : Word) (lo n : Nat) :
    (fld x lo n ++ (0 : BitVec lo)).setWidth 64 = x &&& (BitVec.ofNat 64 (2 ^ n - 1) <<< lo) := by
  refine BitVec.eq_of_getLsbD_eq fun i hi => ?_
  rw [BitVec.getLsbD_setWidth, BitVec.getLsbD_append, getLsbD_fld, BitVec.getLsbD_and, BitVec.getLsbD_shiftLeft, BitVec.getLsbD_ofNat,
    Nat.testBit_two_pow_sub_one]
  by_cases h : i < lo
  · simp [h]
  · simp [h, hi, show lo + (i - lo) = i by omega, show i - lo < 64 by omega, Bool.and_comm]

theorem setWidth_fld (x : Word) (n : Nat) : (fld x 0 n).setWidth 64 = x &&& BitVec.ofNat 64 (2 ^ n - 1) := by
  refine BitVec.eq_of_getLsbD_eq fun i hi => ?_
  rw [BitVec.getLsbD_setWidth, getLsbD_fld, BitVec.getLsbD_and, BitVec.getLsbD_ofNat, Nat.testBit_two_pow_sub_one]
  simp [hi, Bool.and_comm]

/-! ### What a write changes of the slot (R42) -/

/-- A write of SPAN changes SPAN and VL. -/
theorem setSpan_eq (c : Ctx) (g : Nat) (t : ETy) :
    c.setSpan g t = { c with img := { c.img with vl := (c.setSpan g t).img.vl, span := (c.setSpan g t).img.span } } := by
  unfold Ctx.setSpan
  dsimp only
  generalize BitVec.ofNat 9 _ = span
  split <;> rfl

/-- Every field of the slot that a control register is, after a write of `x` to register `n`: that of the register holds the value's
defined fields, the others are as before. -/
theorem ctlPut_eq (c : Ctx) (n : Nat) (x : Word) : ∃ dirty, c.ctlPut n x =
    { c with
      img := { c.img with
        vl := if n = 0 then (c.setVl (bits x 0 9)).img.vl else if n = 1 then (c.setSpan (bits x 4 2) (ETy.ofCode (bits x 0 4))).img.vl else c.img.vl
        span := if n = 1 then (c.setSpan (bits x 4 2) (ETy.ofCode (bits x 0 4))).img.span else c.img.span
        ridx := if n = 2 then fld x 0 9 else c.img.ridx
        flags := if n = 3 then fld x 0 6 else c.img.flags }
      rmode := if n = 4 then fld x 0 3 else c.rmode
      dmask := if n = 5 then fld x 0 16 else c.dmask
      ctl :=
        { forkctl := if n = 7 then fld x 0 4 else c.ctl.forkctl
          predctl := if n = 8 then fld x 0 32 else c.ctl.predctl
          detctl := if n = 9 then fld x 0 2 else c.ctl.detctl
          privbase := if n = 0x00F then fld x 0 55 else c.ctl.privbase
          tvec := if n = 0x010 then fld x 1 55 ++ (0 : BitVec 1) else c.ctl.tvec
          ptroot := if n = 0x014 then fld x 16 39 ++ (0 : BitVec 16) else c.ctl.ptroot }
      dirty
      deadline := if n = 0x00D then x else c.deadline
      prio := if n = 0x00E then fld x 0 3 else c.prio
      epc := if n = 0x011 then fld x 1 55 ++ (0 : BitVec 1) else c.epc
      cause := if n = 0x012 then fld x 0 11 else c.cause
      tval := if n = 0x013 then x else c.tval } := by
  unfold Ctx.ctlPut
  split
  case h_2 => exact ⟨c.dirty, setSpan_eq ..⟩
  case h_18 => exact ⟨c.dirty, by simp_all⟩
  all_goals exact ⟨_, rfl⟩

/-- The greatest VL of a SPAN. -/
theorem vlmax_le (c : Ctx) : c.vlmax ≤ 256 := by
  unfold Ctx.vlmax vlmaxOf
  split
  · exact le_rfl
  · exact min_le_right _ _

theorem setVl_vl (c : Ctx) (n : Nat) : (c.setVl n).vl = min n c.vlmax := by
  have := vlmax_le c
  have : min n c.vlmax < 2 ^ 9 := by omega
  rw [Ctx.vl, Ctx.setVl, BitVec.toNat_ofNat, Nat.mod_eq_of_lt this]

/-- A write of SPAN lowers VL to the new VLMAX (R102). -/
theorem setSpan_vl (c : Ctx) (g : Nat) (t : ETy) : (c.setSpan g t).vl = min c.vl (c.setSpan g t).vlmax := by
  unfold Ctx.setSpan
  dsimp only
  generalize hd : ({ c with img := { c.img with span := BitVec.ofNat 9 _ } } : Ctx) = d
  have hvl : c.vl = d.vl := hd ▸ rfl
  rw [hvl]
  split
  next h =>
    have hmax : (d.setVl d.vlmax).vlmax = d.vlmax := rfl
    rw [setVl_vl, hmax]; omega
  next h => omega

/-! ### A write by a slot that runs no chunk -/

variable {s : State}

theorem squashYounger_serial (hc : s.me.chunk = none) (cause : SquashCause) : s.squashYounger cause = s := by
  simp [State.squashYounger, hc]

/-- A register written in the slot, and the predictor table cleared where the value says so (R319). -/
def State.ctlStored (s : State) (n : Nat) (x : Word) : State :=
  if n = 8 ∧ bitAt x 32 = true then (s.mapMe fun c => c.ctlPut n x).clearPred else s.mapMe fun c => c.ctlPut n x

theorem ctlStored_me (s : State) (n : Nat) (x : Word) : (s.ctlStored n x).me = s.me.ctlPut n x := by
  unfold State.ctlStored; split <;> rfl

theorem ctlStored_tick (s : State) (n : Nat) (x : Word) : (s.ctlStored n x).tick = s.tick := by
  unfold State.ctlStored; split <;> rfl

theorem ctlStored_regs (s : State) (n : Nat) (x : Word) (d : DieId) : ((s.ctlStored n x).die d).regs = (s.die d).regs := by
  unfold State.ctlStored
  split
  · rw [State.clearPred, die_mapDie]
    split
    next h => subst h; rfl
    next => rfl
  · rfl

/-- Outside a region a write squashes nothing: it stores the register and tells the slots of the strand. -/
theorem ctlWrite_serial (hc : s.me.chunk = none) (n : Nat) (x : Word) :
    s.ctlWrite n x = if squashesYounger n = true then (s.ctlStored n x).shareCtl else s.ctlStored n x := by
  have hstored : (s.ctlStored n x).me.chunk = none := by
    obtain ⟨dirty, heq⟩ := ctlPut_eq s.me n x
    rw [ctlStored_me, heq]; exact hc
  have hsquash := squashYounger_serial hstored .value
  have hunfold : s.ctlWrite n x = if squashesYounger n = true then
      (if (s.ctlStored n x).ctlValue n = s.ctlValue n then s.ctlStored n x else (s.ctlStored n x).squashYounger .value).shareCtl
      else s.ctlStored n x := rfl
  rw [hunfold, hsquash, ite_self]

theorem ctlWrite_me (hc : s.me.chunk = none) (n : Nat) (x : Word) : (s.ctlWrite n x).me = s.me.ctlPut n x := by
  rw [ctlWrite_serial hc, ← ctlStored_me]; split <;> rfl

theorem ctlWrite_tick (hc : s.me.chunk = none) (n : Nat) (x : Word) : (s.ctlWrite n x).tick = s.tick := by
  rw [ctlWrite_serial hc, ← ctlStored_tick s n x]; split <;> rfl

theorem ctlWrite_die (hc : s.me.chunk = none) (n : Nat) (x : Word) (d : DieId) : (s.ctlWrite n x).die d = (s.ctlStored n x).die d := by
  rw [ctlWrite_serial hc]; split <;> rfl

/-- The register written reads as `ctlPut` has left it in the slot, every other register as before. -/
theorem ctlWrite_ctlValue_of_ne (hc : s.me.chunk = none) {n j : Nat} (x : Word) (hj : j ≤ 0x015) (hne : j ≠ n) (hspan : ¬ (n = 1 ∧ j = 0)) :
    (s.ctlWrite n x).ctlValue j = s.ctlValue j := by
  obtain ⟨dirty, heq⟩ := ctlPut_eq s.me n x
  have htick := ctlWrite_tick hc n x
  have hregs := (congrArg Die.regs (ctlWrite_die hc n x s.me.die)).trans (ctlStored_regs s n x s.me.die)
  have hme := (ctlWrite_me hc n x).trans heq
  generalize s.ctlWrite n x = w at hme htick hregs
  interval_cases j <;> simp_all [State.ctlValue, Ctx.detReg, Ctx.exw, Ctx.chunkReg, Ne.symm hne]

/-! ### Reads and writes as instructions -/

/-- The control registers are those of the slot and of the state outside it without what an instruction in progress keeps. -/
theorem ctlValue_stripped (hc : s.me.chunk = none) (j : Nat) :
    s.ctlValue j = ({ s.outside with me := Ctx.noS s.me.still } : State).ctlValue j := by
  have hreg : s.me.chunkReg = (Ctx.noS s.me.still).chunkReg := by
    simp [Ctx.chunkReg, Ctx.noS, Ctx.still, hc]
  unfold State.ctlValue
  dsimp only
  rw [hreg]
  rfl

theorem keeps_chunk {t : State} (hc : s.me.chunk = none) (h : Keeps s t Ctx.noS) : t.me.chunk = none := by
  have hcore : (Ctx.noS t.me.still).chunk = (Ctx.noS s.me.still).chunk := by rw [h.slot]
  simpa [Ctx.noS, Ctx.still, hc] using hcore

/-- Moving on and writing a scalar register change no control register. -/
theorem ctlValue_of_keeps {t : State} (hc : s.me.chunk = none) (h : Keeps s t Ctx.noS) (j : Nat) : t.ctlValue j = s.ctlValue j := by
  rw [ctlValue_stripped (keeps_chunk hc h), ctlValue_stripped hc, h.outside, h.slot]

/-- With no `mma` in flight RIDX and FLAGS are settled (R266). -/
theorem flagsSettled_of_quiet (hq : s.me.mmaAcc = none) (n : Nat) : s.flagsSettled n = s := by
  have hretire : (s.mapMe fun c => c.retireMma) = s := by
    rw [State.mapMe, Ctx.retireMma, hq]
  rw [State.flagsSettled, hretire, ite_self]

theorem ctlAccess_ctx (c : Ctx) (n : BitVec 11) : c.ctlAccess n = ctlAccess n.toNat (c.level == .system) := rfl

theorem ctlBad_iff (c : Ctx) (n : BitVec 11) (x : Word) : c.ctlBad n x = true ↔
    ¬ (n.toNat ≤ 5 ∨ n.toNat = 7 ∨ n.toNat = 8 ∨ (c.level = .system ∧ (n.toNat = 9 ∨ (0x00D ≤ n.toNat ∧ n.toNat ≤ 0x014))))
      ∨ (n.toNat = 4 ∧ 5 ≤ x.toNat % 8) ∨ (n.toNat = 0x012 ∧ 0x15 ≤ x.toNat % 256) := by
  rw [Ctx.ctlBad, Bool.or_eq_true, decide_eq_true_iff, ctlReserved_iff, ctlAccess_ctx, ne_eq, ctlAccess_eq_rw, beq_iff_eq]

variable {a d : SReg} {n : BitVec 11}

theorem exec_ctlr : exec (.ctlr d n) s = .next (if s.me.ctlAccess n = .none then s.trap s.me.illegal
    else (s.flagsSettled n.toNat).result d ((s.flagsSettled n.toNat).ctlValue n.toNat)) := rfl

theorem exec_ctlw_bad (h : s.me.ctlBad n (s.getS a) = true) : exec (.ctlw a n) s = .next (s.trap s.me.illegal) :=
  congrArg Host.Outcome.next (if_pos h)

theorem exec_ctlx_bad (h : s.me.ctlBad n (s.getS a) = true) : exec (.ctlx d a n) s = .next (s.trap s.me.illegal) :=
  congrArg Host.Outcome.next (if_pos h)

/-- A chunk that is not the oldest holds an exchange, and a write of a register that is not the chunk's own (R25, R158). -/
theorem held_of_younger {k : Chunk} (hc : s.me.chunk = some k) (hk : k.oldest = false) (f : State → State) : s.held f = s := by
  simp [State.held, hc, hk]

theorem exec_ctlw_younger {k : Chunk} (h : s.me.ctlBad n (s.getS a) = false) (hc : s.me.chunk = some k) (hk : k.oldest = false)
    (hn : 3 < n.toNat) : exec (.ctlw a n) s = .next s := by
  refine congrArg Host.Outcome.next ?_
  rw [if_neg (by simp [h]), if_neg (by omega), held_of_younger hc hk]

theorem exec_ctlx_younger {k : Chunk} (h : s.me.ctlBad n (s.getS a) = false) (hc : s.me.chunk = some k) (hk : k.oldest = false) :
    exec (.ctlx d a n) s = .next s := by
  refine congrArg Host.Outcome.next ?_
  rw [if_neg (by simp [h]), held_of_younger hc hk]

theorem exec_ctlw_serial (h : s.me.ctlBad n (s.getS a) = false) (hc : s.me.chunk = none) (hq : n.toNat = 2 ∨ n.toNat = 3 → s.me.mmaAcc = none) :
    exec (.ctlw a n) s = .next ((s.ctlWrite n.toNat (s.getS a)).advance 4) := by
  have hsettled : s.flagsSettled n.toNat = s := by
    by_cases hn : n.toNat = 2 ∨ n.toNat = 3
    · exact flagsSettled_of_quiet (hq hn) _
    · exact if_neg hn
  refine congrArg Host.Outcome.next ?_
  rw [if_neg (by simp [h]), held_serial _ _ hc, hsettled, ite_self, State.done4]

theorem exec_ctlx_serial (h : s.me.ctlBad n (s.getS a) = false) (hc : s.me.chunk = none) (hq : s.me.mmaAcc = none) :
    exec (.ctlx d a n) s = .next (((s.ctlWrite n.toNat (s.getS a)).setS d (s.ctlValue n.toNat)).advance 4) := by
  refine congrArg Host.Outcome.next ?_
  rw [if_neg (by simp [h]), held_serial _ _ hc, flagsSettled_of_quiet hq]; rfl

/-- What a write of register `n` leaves as it is (R158): everything but that register and the program counter, which goes on. -/
def CtlKept (s u : State) (n : Nat) : Prop :=
  Passed s u 4 ∧ u.mem = s.mem ∧ u.me.ox = s.me.ox ∧ u.me.img.v = s.me.img.v ∧ u.me.img.m = s.me.img.m
    ∧ u.me.img.acc = s.me.img.acc ∧ u.me.level = s.me.level ∧ ∀ j, j ≤ 0x015 → j ≠ n → ¬ (n = 1 ∧ j = 0) → u.ctlValue j = s.ctlValue j

theorem ctlKept_of_keeps {u : State} {n : Nat} {x : Word} (hc : s.me.chunk = none) (h : Keeps (s.ctlWrite n x) u Ctx.noS)
    (hp : Passed (s.ctlWrite n x) u 4) : CtlKept s u n := by
  obtain ⟨dirty, heq⟩ := ctlPut_eq s.me n x
  have hme := (ctlWrite_me hc n x).trans heq
  have hslot : Ctx.noS u.me.still = Ctx.noS (s.ctlWrite n x).me.still := h.slot
  have hwc : (s.ctlWrite n x).me.chunk = none := by rw [hme]; exact hc
  have hmem : u.outside.mem = (s.ctlWrite n x).outside.mem := by rw [h.outside]
  have hpart {α : Type} (f : Ctx → α) (hf : f (Ctx.noS u.me.still) = f u.me) (hw : f (Ctx.noS (s.ctlWrite n x).me.still) = f s.me) :
      f u.me = f s.me := by rw [← hf, hslot, hw]
  rw [hme] at hpart
  refine ⟨by rw [Passed, hp, hme], hmem.trans (ctlWrite_mem ..), hpart (·.ox) rfl rfl, hpart (·.img.v) rfl rfl, hpart (·.img.m) rfl rfl,
    hpart (·.img.acc) rfl rfl, hpart (·.level) rfl rfl, fun j hj hne hspan => ?_⟩
  rw [ctlValue_of_keeps hwc h, ctlWrite_ctlValue_of_ne hc x hj hne hspan]

theorem advance_s (t : State) (n : Nat) : (t.advance n).me.s = t.me.s := by
  have hslot : (t.advance n).me.still = t.me.still := (advance_keeps t n id).2.slot
  have hs : (t.advance n).me.still.s = t.me.still.s := by rw [hslot]
  exact hs

/-- A write and an exchange outside a region leave what `ctlWrite` leaves, and the exchange the old value in its register. -/
theorem ctl_completes {P : State → Prop} (hbad : s.me.ctlBad n (s.getS a) = false) (hc : s.me.chunk = none) (hq : s.me.mmaAcc = none)
    (hP : ∀ u, Keeps (s.ctlWrite n.toNat (s.getS a)) u Ctx.noS → P u) :
    (Completes (.ctlw a n) s fun u => P u ∧ CtlKept s u n.toNat ∧ u.me.s = s.me.s)
      ∧ Completes (.ctlx d a n) s fun u => P u ∧ CtlKept s u n.toNat ∧ WroteS s u d (s.ctlValue n.toNat) := by
  have hs : (s.ctlWrite n.toNat (s.getS a)).me.s = s.me.s := by
    obtain ⟨dirty, heq⟩ := ctlPut_eq s.me n.toNat (s.getS a)
    rw [ctlWrite_me hc, heq]
  constructor
  · obtain ⟨hp, hk⟩ := advance_keeps (s.ctlWrite n.toNat (s.getS a)) 4 Ctx.noS
    exact ⟨_, exec_ctlw_serial hbad hc fun _ => hq, hP _ hk, ctlKept_of_keeps hc hk hp, (advance_s _ 4).trans hs⟩
  · obtain ⟨hw, hp, hk⟩ := setS_advance (s.ctlWrite n.toNat (s.getS a)) d (s.ctlValue n.toNat) 4
    refine ⟨_, exec_ctlx_serial hbad hc hq, hP _ hk, ctlKept_of_keeps hc hk hp, fun r => ?_⟩
    rw [hw, State.getS, Ctx.getS, hs]; rfl

/-- The registers whose value after a write is the value written under a mask (R42). -/
def ctlMasks : List (Nat × Word) :=
  [(0x002, 0x1FF), (0x003, 0x3F), (0x004, 7), (0x005, 0xFFFF), (0x007, 0xF), (0x008, 0xFFFFFFFF), (0x00D, BitVec.allOnes 64), (0x00E, 7),
    (0x00F, 0x007FFFFFFFFFFFFF), (0x010, 0x00FFFFFFFFFFFFFE), (0x011, 0x00FFFFFFFFFFFFFE), (0x012, 0x7FF), (0x013, BitVec.allOnes 64), (0x014, 0x007FFFFFFFFF0000)]

theorem ctlWrite_ctlValue {n : Nat} {mask : Word} (hc : s.me.chunk = none) (x : Word) (h : (n, mask) ∈ ctlMasks) :
    (s.ctlWrite n x).ctlValue n = x &&& mask := by
  obtain ⟨dirty, heq⟩ := ctlPut_eq s.me n x
  have hme := (ctlWrite_me hc n x).trans heq
  have field {k : Nat} (f : Ctx → BitVec k) {v : Word} (hv : (f (s.me.ctlPut n x)).setWidth 64 = v) :
      (f (s.ctlWrite n x).me).setWidth 64 = v := by rw [ctlWrite_me hc, hv]
  rw [heq] at field
  simp only [ctlMasks, List.mem_cons, Prod.mk.injEq, List.not_mem_nil, or_false] at h
  rcases h with ⟨rfl, rfl⟩ | ⟨rfl, rfl⟩ | ⟨rfl, rfl⟩ | ⟨rfl, rfl⟩ | ⟨rfl, rfl⟩ | ⟨rfl, rfl⟩ | ⟨rfl, rfl⟩ | ⟨rfl, rfl⟩ | ⟨rfl, rfl⟩ | ⟨rfl, rfl⟩ | ⟨rfl, rfl⟩
    | ⟨rfl, rfl⟩ | ⟨rfl, rfl⟩ | ⟨rfl, rfl⟩
  · exact field (·.img.ridx) (setWidth_fld x 9)
  · exact field (·.img.flags) (setWidth_fld x 6)
  · exact field (·.rmode) (setWidth_fld x 3)
  · exact field (·.dmask) (setWidth_fld x 16)
  · exact field (·.ctl.forkctl) (setWidth_fld x 4)
  · exact field (·.ctl.predctl) (setWidth_fld x 32)
  · exact (congrArg Ctx.deadline hme).trans (BitVec.and_allOnes ..).symm
  · exact field (·.prio) (setWidth_fld x 3)
  · exact field (·.ctl.privbase) (setWidth_fld x 55)
  · exact field (·.ctl.tvec) (setWidth_fld_append x 1 55)
  · exact field (·.epc) (setWidth_fld_append x 1 55)
  · exact field (·.cause) (setWidth_fld x 11)
  · exact (congrArg Ctx.tval hme).trans (BitVec.and_allOnes ..).symm
  · exact field (·.ctl.ptroot) (setWidth_fld_append x 16 39)

/-- DETCTL shows POL and DET, and EXW where both are set (R42). -/
theorem ctlWrite_detctl (hc : s.me.chunk = none) (x : Word) : (s.ctlWrite 9 x).ctlValue 9 = (x &&& 3) ||| (if x &&& 3 = 3 then 4 else 0) := by
  obtain ⟨dirty, heq⟩ := ctlPut_eq s.me 9 x
  have hdet : (s.ctlWrite 9 x).me.ctl.detctl = fld x 0 2 := by rw [ctlWrite_me hc, heq]; rfl
  have hfld : (fld x 0 2).setWidth 64 = x &&& 3 := setWidth_fld x 2
  have hexw : fld x 0 2 = 3 ↔ x &&& 3 = 3 := by
    rw [← hfld, ← BitVec.toNat_inj, ← BitVec.toNat_inj, BitVec.toNat_setWidth, Nat.mod_eq_of_lt (by omega)]; rfl
  change (s.ctlWrite 9 x).me.detReg = _
  rw [Ctx.detReg, Ctx.exw, hdet, hfld]
  simp only [decide_eq_true_eq, hexw]

theorem ctlWrite_vl (hc : s.me.chunk = none) (x : Word) : (s.ctlWrite 0 x).me.vl = min (x.toNat % 512) s.me.vlmax := by
  rw [ctlWrite_me hc]
  exact (setVl_vl ..).trans (by simp [bits])

theorem ctlWrite_span (hc : s.me.chunk = none) (x : Word) :
    (s.ctlWrite 1 x).me.img.span = (s.me.setSpan (x.toNat / 16 % 4) (ETy.ofCode (x.toNat % 16))).img.span
      ∧ (s.ctlWrite 1 x).me.vl = min s.me.vl (s.ctlWrite 1 x).me.vlmax := by
  rw [ctlWrite_me hc]
  exact ⟨by simp [Ctx.ctlPut, bits], setSpan_vl ..⟩

theorem keeps_img {u w : State} (h : Keeps w u Ctx.noS) : u.me.img = w.me.img := by
  have himg : (Ctx.noS u.me.still).img = (Ctx.noS w.me.still).img := by rw [h.slot]
  exact himg

/-- The predictor tables of the slot's ring and strand after a write of 1 to PREDCTL.CLR (R319). -/
theorem clearPred_preds (s : State) : (s.clearPred.die s.me.die).preds = (s.die s.me.die).preds.map fun t =>
    if t.ring = ringOf s.me.slot ∧ t.strand = s.me.strand then PredTable.clear t.ring t.strand s.me.s else t := by
  rw [State.clearPred, die_mapDie, if_pos rfl]
  simp [mapIf]

theorem ctlWrite_chunk (hc : s.me.chunk = none) (n : Nat) (x : Word) : (s.ctlWrite n x).me.chunk = none := by
  obtain ⟨dirty, heq⟩ := ctlPut_eq s.me n x
  rw [ctlWrite_me hc, heq]; exact hc

/-- The tables of the slot are in the clear state when a write of PREDCTL has CLR set. -/
theorem ctlWrite_clr_preds (hc : s.me.chunk = none) {x : Word} (hx : x.getLsbD 32 = true) :
    ∀ t ∈ ((s.ctlWrite 8 x).die s.me.die).preds, t.ring = ringOf s.me.slot → t.strand = s.me.strand → t = PredTable.clear t.ring t.strand s.me.s := by
  have hstored : s.ctlStored 8 x = (s.mapMe fun c => c.ctlPut 8 x).clearPred := if_pos ⟨rfl, hx⟩
  rw [ctlWrite_die hc, hstored]
  have hpreds : ((s.mapMe fun c => c.ctlPut 8 x).clearPred.die s.me.die).preds = _ := clearPred_preds (s.mapMe fun c => c.ctlPut 8 x)
  rw [hpreds]
  intro t ht hring hstrand
  obtain ⟨t', -, rfl⟩ := List.mem_map.1 ht
  split at hring
  case isTrue h => rw [if_pos h]; rfl
  case isFalse h => exact absurd ⟨hring, by rwa [if_neg h] at hstrand⟩ h

/-- Settles O47. What a write does is what `ctlPut` does to the slot (`ctlPut_eq`); the rest of the state is moved on and kept
(`ctl_completes`). The width of each field comes from `setWidth_fld`. -/
theorem controlRegisters : Obligations.ControlRegisters := by
  unfold Obligations.ControlRegisters
  intro d a n s k mask
  dsimp only
  have hgood (hw : n.toNat ≤ 5 ∨ n.toNat = 7 ∨ n.toNat = 8 ∨ (s.me.level = .system ∧ (n.toNat = 9 ∨ (0x00D ≤ n.toNat ∧ n.toNat ≤ 0x014))))
      (hr : ¬ ((n.toNat = 4 ∧ 5 ≤ (s.getS a).toNat % 8) ∨ (n.toNat = 0x012 ∧ 0x15 ≤ (s.getS a).toNat % 256))) :
      s.me.ctlBad n (s.getS a) = false := by
    rw [← Bool.not_eq_true, ctlBad_iff]; tauto
  refine ⟨?read, ?unreadable, ?bad, ?masked, ?detctl, ?vl, ?span, ?younger, ?clr, ?clear⟩
  case read =>
    intro hread hq
    refine ⟨_, exec_ctlr, ?_⟩
    have haccess : s.me.ctlAccess n ≠ .none := by
      rw [ctlAccess_ctx, ctlAccess_ne_none, beq_iff_eq]; exact hread
    rw [if_neg haccess, flagsSettled_of_quiet hq]
    exact result_effect ..
  case unreadable =>
    intro hread
    have haccess : s.me.ctlAccess n = .none := by
      rw [ctlAccess_ctx, ← not_not (a := _ = _), ← ne_eq, ctlAccess_ne_none, beq_iff_eq]; exact hread
    rw [exec_ctlr, if_pos haccess]
  case bad =>
    intro h
    have hbad := (ctlBad_iff s.me n (s.getS a)).2 h
    exact ⟨exec_ctlw_bad hbad, exec_ctlx_bad hbad⟩
  case masked =>
    intro hw hr hc hq hmask
    refine ctl_completes (hgood hw hr) hc hq fun u hk => ?_
    rw [ctlValue_of_keeps (ctlWrite_chunk hc ..) hk, ctlWrite_ctlValue hc _ hmask]
  case detctl =>
    intro hsys hn hc hq
    refine ctl_completes (hgood (by tauto) (by omega)) hc hq fun u hk => ?_
    rw [ctlValue_of_keeps (ctlWrite_chunk hc ..) hk, hn, ctlWrite_detctl hc]
  case vl =>
    intro hn hc hq
    refine ctl_completes (hgood (by omega) (by omega)) hc hq fun u hk => ?_
    rw [Ctx.vl, keeps_img hk, hn]
    exact ctlWrite_vl hc _
  case span =>
    intro hn hc hq
    refine ctl_completes (hgood (by omega) (by omega)) hc hq fun u hk => ?_
    rw [hn] at hk
    have hvl : u.me.vl = (s.ctlWrite 1 (s.getS a)).me.vl := by rw [Ctx.vl, keeps_img hk]; rfl
    have hmax : u.me.vlmax = (s.ctlWrite 1 (s.getS a)).me.vlmax :=
      congrArg (fun i => ({ u.me with img := i } : Ctx).vlmax) (keeps_img hk)
    rw [keeps_img hk, hvl, hmax]
    exact ctlWrite_span hc _
  case younger =>
    intro hc hk hw hr
    exact ⟨exec_ctlx_younger (hgood hw hr) hc hk, exec_ctlw_younger (hgood hw hr) hc hk⟩
  case clr =>
    intro hn hc hx
    refine ⟨_, exec_ctlw_serial (hgood (by omega) (by omega)) hc (by omega), ?_⟩
    rw [hn]
    exact ctlWrite_clr_preds hc hx
  case clear => exact ⟨s.clearPred, rfl, rfl, rfl, rfl, clearPred_preds s⟩

end Sys2Proof.Machine
end

section
/-! SUPPORT. The order of a reservoir's queue (R391, R154, logs 56, 103): the keys of `Waiting.before` one after another, the first of a queue,
and the slot that takes it. -/

namespace Sys2Proof.Machine

/-! ### The keys of the order -/

variable {x y : Waiting}

/-- `x` goes before `y`, and `y` not before `x`. -/
def Waiting.First (x y : Waiting) : Prop := x.before y = true ∧ y.before x = false

theorem first_of_prio (h : y.prio.toNat < x.prio.toNat) : x.First y := by
  have hne : x.prio ≠ y.prio := fun he => by rw [he] at h; omega
  simp [Waiting.First, Waiting.before, hne, hne.symm, h]; omega

theorem first_of_sliced (hp : x.prio = y.prio) (hx : x.sliced = false) (hy : y.sliced = true) : x.First y := by
  simp [Waiting.First, Waiting.before, hp, hx, hy]

/-- The keys that order strands of one priority which the marks of a quantum and of a `yield` leave equal. -/
def Waiting.keyed (x y : Waiting) (fx fy : Bool) : Bool :=
  if fx != fy then !fx
  else if x.deadline ≠ y.deadline then decide (x.deadline.toNat < y.deadline.toNat)
  else if x.since ≠ y.since then decide (x.since < y.since)
  else decide (x.strand.toNat < y.strand.toNat)

/-- What R391 says of the keys: resumed strands first, then deadline, readiness and number. -/
def Waiting.Keys (x y : Waiting) (fx fy : Bool) : Prop :=
  (fx = false → fy = true → x.First y)
    ∧ (fx = fy → (x.deadline.toNat < y.deadline.toNat → x.First y) ∧ (x.deadline = y.deadline → x.since < y.since → x.First y)
      ∧ (x.deadline = y.deadline → x.since = y.since → x.strand.toNat < y.strand.toNat → x.First y))

theorem keys_of_keyed {fx fy : Bool} (hxy : x.before y = x.keyed y fx fy) (hyx : y.before x = y.keyed x fy fx) : x.Keys y fx fy := by
  rw [Waiting.Keys, Waiting.First, hxy, hyx]
  refine ⟨?fresh, fun hf => ⟨?deadline, ?since, ?strand⟩⟩
  case fresh => intro hx hy; simp [Waiting.keyed, hx, hy]
  case deadline =>
    intro h
    have hne : x.deadline ≠ y.deadline := fun he => by rw [he] at h; omega
    simp [Waiting.keyed, hf, hne, hne.symm, h]; omega
  case since =>
    intro hd h
    have hne : x.since ≠ y.since := by omega
    simp [Waiting.keyed, hf, hd, hne, hne.symm, h]; omega
  case strand => intro hd hs h; simp [Waiting.keyed, hf, hd, hs, h]; omega

section peers
variable (hp : x.prio = y.prio) (hs : x.sliced = y.sliced)
include hp hs

theorem before_of_resumed (hx : x.yielded = false) (hy : y.yielded = false) : x.before y = x.keyed y x.isNew y.isNew := by
  simp [Waiting.before, Waiting.keyed, hp, hs, hx, hy]

theorem first_of_yielded (hx : x.yielded = false) (hy : y.yielded = true) (h : x.since ≤ y.since) : x.First y := by
  simp [Waiting.First, Waiting.before, hp, hs, hx, hy, h]

theorem before_yielded (hx : x.yielded = false) (hy : y.yielded = true) (h : y.since < x.since) :
    x.before y = x.keyed y x.isNew true ∧ y.before x = y.keyed x true x.isNew := by
  simp [Waiting.before, Waiting.keyed, hp, hs, hx, hy, h]

theorem first_of_both_yielded (hx : x.yielded = true) (hy : y.yielded = true) (h : x.since < y.since) : x.First y := by
  have hne : x.since ≠ y.since := by omega
  simp [Waiting.First, Waiting.before, hp, hs, hx, hy, h, hne, hne.symm]; omega

end peers

/-! ### The first of a queue -/

theorem bestOf_eq_none_iff (q : List Waiting) : bestOf q = none ↔ q = [] := by
  cases q with
  | nil => simp [bestOf]
  | cons w ws =>
    cases hb : bestOf ws with
    | none => simp [bestOf, hb]
    | some b => simp only [bestOf, hb]; split <;> simp

theorem bestOf_mem {q : List Waiting} (h : bestOf q = some x) : x ∈ q := by
  induction q with
  | nil => simp [bestOf] at h
  | cons w ws ih =>
    cases hb : bestOf ws with
    | none => simp_all [bestOf]
    | some b =>
      simp only [bestOf, hb] at h
      split at h
      · exact .tail _ (ih (hb.trans h))
      · rw [Option.some.inj h]; exact .head _

/-- Strands that have not yielded go in the order of one list of numbers. -/
theorem before_eq_true_iff_of_resumed (hx : x.yielded = false) (hy : y.yielded = false) : x.before y = true ↔
    y.prio.toNat < x.prio.toNat ∨ (y.prio.toNat = x.prio.toNat ∧ (x.sliced.toNat < y.sliced.toNat ∨ (x.sliced.toNat = y.sliced.toNat
      ∧ (x.isNew.toNat < y.isNew.toNat ∨ (x.isNew.toNat = y.isNew.toNat ∧ (x.deadline.toNat < y.deadline.toNat ∨ (x.deadline.toNat = y.deadline.toNat
        ∧ (x.since < y.since ∨ (x.since = y.since ∧ x.strand.toNat < y.strand.toNat))))))))) := by
  by_cases hp : x.prio = y.prio
  case neg =>
    have hne : y.prio.toNat ≠ x.prio.toNat := fun h => hp (BitVec.eq_of_toNat_eq h.symm)
    simp [Waiting.before, hp, hne]
  by_cases hs : x.sliced = y.sliced
  case neg => cases hxs : x.sliced <;> cases hys : y.sliced <;> simp_all [Waiting.before]
  rw [before_of_resumed hp hs hx hy, Waiting.keyed]
  by_cases hn : x.isNew = y.isNew
  case neg => cases hxs : x.isNew <;> cases hys : y.isNew <;> simp_all
  by_cases hd : x.deadline = y.deadline
  case neg =>
    have hne : x.deadline.toNat ≠ y.deadline.toNat := fun h => hd (BitVec.eq_of_toNat_eq h)
    simp [hp, hs, hn, hd, hne]
  by_cases ht : x.since = y.since
  · simp [hp, hs, hn, hd, ht]
  · simp [hp, hs, hn, hd, ht]

/-- No strand that has not yielded goes before the first of a queue of such strands. -/
theorem bestOf_least {q : List Waiting} (hq : ∀ w ∈ q, w.yielded = false) (h : bestOf q = some x) : ∀ w ∈ q, w.before x = false := by
  induction q generalizing x with
  | nil => simp [bestOf] at h
  | cons w ws ih =>
    have hw := hq w (.head _)
    have hself (v : Waiting) (hv : v.yielded = false) : v.before v = false := by
      rw [← Bool.not_eq_true, before_eq_true_iff_of_resumed hv hv]; omega
    cases hb : bestOf ws with
    | none =>
      rw [(bestOf_eq_none_iff ws).1 hb] at h ⊢
      obtain rfl : w = x := by simpa [bestOf] using h
      simpa using hself w hw
    | some b =>
      have hbmem := hq b (.tail _ (bestOf_mem hb))
      have hrest := ih (fun v hv => hq v (.tail _ hv)) hb
      simp only [bestOf, hb] at h
      split at h
      next hlt =>
        obtain rfl := Option.some.inj h
        intro v hv
        rcases List.mem_cons.1 hv with rfl | hv
        · rw [before_eq_true_iff_of_resumed hbmem hw] at hlt
          rw [← Bool.not_eq_true, before_eq_true_iff_of_resumed hw hbmem]; omega
        · exact hrest v hv
      next hle =>
        obtain rfl := Option.some.inj h
        intro v hv
        rcases List.mem_cons.1 hv with rfl | hv
        · exact hself v hw
        · have hvb := hrest v hv
          have hvy := hq v (.tail _ hv)
          rw [before_eq_true_iff_of_resumed hbmem hw] at hle
          rw [← Bool.not_eq_true, before_eq_true_iff_of_resumed hvy hbmem] at hvb
          rw [← Bool.not_eq_true, before_eq_true_iff_of_resumed hvy hw]; omega

/-! ### The slot that takes a strand (R391) -/

theorem upFrom_eq_range' (a n : Nat) : upFrom a n = List.range' a n := by
  induction n generalizing a with
  | zero => rfl
  | succ n ih => rw [upFrom, ih, List.range'_succ]

theorem mem_allSlots (k : SlotNo) : k ∈ allSlots := by
  rw [allSlots, List.mem_map]
  refine ⟨k.val, ?_, Fin.ofNat_val_eq_self k⟩
  rw [upFrom_eq_range', List.mem_range'_1]; omega

theorem allSlots_sorted : allSlots.Pairwise (· < ·) := by
  rw [allSlots, upFrom_eq_range', List.pairwise_map]
  refine (List.pairwise_lt_range' (s := 0) (n := 256)).imp_of_mem fun ha hb h => ?_
  rw [List.mem_range'_1] at ha hb
  rw [Fin.lt_def]
  simp only [Fin.val_ofNat]
  rwa [Nat.mod_eq_of_lt (by omega), Nat.mod_eq_of_lt (by omega)]

/-- The lighter of the slot found so far and the next one. -/
def lighterSlot (load : SlotNo → Nat) (b : Option SlotNo) (k : SlotNo) : Option SlotNo :=
  match b with
  | none => some k
  | some o => if load k < load o then some k else some o

theorem foldl_lighterSlot_eq_none {load : SlotNo → Nat} {l : List SlotNo} (h : l.foldl (lighterSlot load) none = none) : l = [] := by
  induction l using List.reverseRecOn with
  | nil => rfl
  | append_singleton l k _ =>
    rw [List.foldl_append] at h
    change lighterSlot load _ k = none at h
    unfold lighterSlot at h
    split at h
    · cases h
    · split at h <;> cases h

/-- Over a rising list the slot of the least load remains, the lowest of equals. -/
theorem foldl_lighterSlot {load : SlotNo → Nat} {l : List SlotNo} (hl : l.Pairwise (· < ·)) {k : SlotNo} (h : l.foldl (lighterSlot load) none = some k) :
    k ∈ l ∧ ∀ o ∈ l, load k < load o ∨ load k = load o ∧ k ≤ o := by
  induction l using List.reverseRecOn generalizing k with
  | nil => cases h
  | append_singleton l j ih =>
    obtain ⟨hl, -, hj⟩ := List.pairwise_append.1 hl
    rw [List.foldl_append] at h
    change lighterSlot load _ j = some k at h
    cases hb : l.foldl (lighterSlot load) none with
    | none =>
      rw [hb] at h
      rw [foldl_lighterSlot_eq_none hb, ← Option.some.inj h]; simp
    | some b =>
      obtain ⟨hmem, hleast⟩ := ih hl hb
      rw [hb] at h
      have hbj : b < j := hj b hmem j (by simp)
      simp only [lighterSlot] at h
      simp only [List.mem_append, List.mem_singleton, or_imp, forall_and, forall_eq]
      split at h
      next hlt =>
        rw [← Option.some.inj h]
        exact ⟨.inr rfl, fun o ho => by have := hleast o ho; omega, .inr ⟨rfl, le_rfl⟩⟩
      next hge =>
        rw [← Option.some.inj h]
        exact ⟨.inl hmem, hleast, (Nat.lt_or_eq_of_le (Nat.not_lt.1 hge)).imp_right fun he => ⟨he, hbj.le⟩⟩

/-- The slots that may take a strand: free, of a ring in use, and of no core that a claim reaches. -/
def State.Takes (s : State) (d : DieId) (k : SlotNo) : Prop :=
  s.isFree d k = true ∧ (s.die d).ringUsable (ringOf k) = true ∧ s.claimed? d k = false

theorem mem_takers (s : State) (d : DieId) (k : SlotNo) : k ∈ (s.freeSlots d).filter (fun k => !s.claimed? d k) ↔ s.Takes d k := by
  simp only [State.freeSlots, List.mem_filter, mem_allSlots, State.Takes, Bool.and_eq_true, Bool.not_eq_true']
  tauto

theorem pickSlot_eq_foldl (s : State) (d : DieId) :
    s.pickSlot d = ((s.freeSlots d).filter fun k => !s.claimed? d k).foldl (lighterSlot (s.coreLoad d)) none := rfl

theorem pickSlot_least {s : State} {d : DieId} {k : SlotNo} (h : s.pickSlot d = some k) :
    s.Takes d k ∧ ∀ o, s.Takes d o → s.coreLoad d k < s.coreLoad d o ∨ s.coreLoad d k = s.coreLoad d o ∧ k.val ≤ o.val := by
  have hsorted : ((s.freeSlots d).filter fun k => !s.claimed? d k).Pairwise (· < ·) := (allSlots_sorted.filter _).filter _
  obtain ⟨hmem, hleast⟩ := foldl_lighterSlot hsorted ((pickSlot_eq_foldl s d).symm.trans h)
  exact ⟨(mem_takers s d k).1 hmem, fun o ho => hleast o ((mem_takers s d o).2 ho)⟩

theorem not_takes_of_pickSlot {s : State} {d : DieId} (h : s.pickSlot d = none) (k : SlotNo) : ¬ s.Takes d k := by
  rw [← mem_takers, foldl_lighterSlot_eq_none ((pickSlot_eq_foldl s d).symm.trans h)]
  exact List.not_mem_nil

end Sys2Proof.Machine
end

section
/-! SUPPORT. What a stop of a slot leaves in place (R413): each slot's strand, its launch and where it stands, the tick, and the waiter entries
of the homes. Saving a slot writes memory, and a write squashes chunks, drops lines and reservations and sends packets; none of that moves
a slot. -/

namespace Sys2Proof.Machine

/-- Where a slot stands, whether it is in use, which strand of which launch it holds, and what its record says of its suspension. -/
abbrev SlotKey : Type := DieId × SlotNo × SlotState × Word × Nat × BitVec 4
def Ctx.key (c : Ctx) : SlotKey := (c.die, c.slot, c.state, c.strand, c.header, c.susp)

/-- The slots' keys, the tick and the waiter entries. -/
def State.anchor (s : State) : SlotKey × List SlotKey × Nat × Vector (List Waiter) 16 :=
  (s.me.key, s.others.map Ctx.key, s.tick, s.dies.map Die.waiters)

/-! ### Changes of one part of the state -/

theorem foldl_anchor {α : Type} {f : State → α → State} (h : ∀ t x, (f t x).anchor = t.anchor) (l : List α) (s : State) :
    (l.foldl f s).anchor = s.anchor := foldl_keeps State.anchor f h l s

theorem anchor_of_ite {p : Prop} [Decidable p] {a b s : State} (ha : a.anchor = s.anchor) (hb : b.anchor = s.anchor) :
    (if p then a else b).anchor = s.anchor := by split <;> assumption

variable (s : State)

theorem mapMe_anchor {f : Ctx → Ctx} (h : (f s.me).key = s.me.key) : (s.mapMe f).anchor = s.anchor := by
  rw [State.anchor, State.anchor, State.mapMe, h]

theorem map_key {f : Ctx → Ctx} (h : ∀ c, (f c).key = c.key) (l : List Ctx) : (l.map f).map Ctx.key = l.map Ctx.key := by
  rw [List.map_map]; exact List.map_congr_left fun c _ => h c

theorem mapIf_key {p : Ctx → Bool} {f : Ctx → Ctx} (h : ∀ c, (f c).key = c.key) (l : List Ctx) : (mapIf p f l).map Ctx.key = l.map Ctx.key :=
  map_key (fun c => by split; exacts [h c, rfl]) l

theorem anchor_of_keys {t : State} (hme : t.me.key = s.me.key) (hothers : t.others.map Ctx.key = s.others.map Ctx.key)
    (htick : t.tick = s.tick) (hdies : t.dies = s.dies) : t.anchor = s.anchor := by
  rw [State.anchor, State.anchor, hme, hothers, htick, hdies]

theorem mapCtx_anchor {f : Ctx → Ctx} (h : ∀ c, (f c).key = c.key) (d : DieId) (k : SlotNo) : (s.mapCtx d k f).anchor = s.anchor := by
  refine anchor_of_ite (mapMe_anchor s (h s.me)) ?_
  rw [State.anchor, State.anchor, mapIf_key h]

theorem mapDie_anchor {f : Die → Die} (d : DieId) (h : ∀ x, (f x).waiters = x.waiters) : (s.mapDie d f).anchor = s.anchor := by
  have hdies : (s.mapDie d f).dies.map Die.waiters = s.dies.map Die.waiters := by
    refine Vector.ext fun i hi => ?_
    have hget := congrArg Die.waiters (die_mapDie s d ⟨i, hi⟩ f)
    rw [Vector.getElem_map, Vector.getElem_map]
    refine hget.trans ?_
    split
    next he => subst he; exact h _
    next => rfl
  simp only [State.anchor, hdies]; rfl

@[simp] theorem count_anchor (d : DieId) (kind inst ix n : Nat) : (s.count d kind inst ix n).anchor = s.anchor := anchor_of_ite rfl rfl

theorem net_anchor (n : List Packet) : ({ s with net := n } : State).anchor = s.anchor := rfl

theorem send_anchor (p : Packet) : (s.send p).anchor = s.anchor := rfl

/-! ### Squashes and readers -/

theorem mapChunk_anchor (c : Ctx) (f : Chunk → Chunk) : (s.mapChunk c f).anchor = s.anchor := mapCtx_anchor s (by intro _; rfl) _ _

theorem squashSlot_anchor (c : Ctx) (origin : Nat) (cause : SquashCause) (here : Bool) : (s.squashSlot c origin cause here).anchor = s.anchor := by
  unfold State.squashSlot
  split
  · rfl
  · refine (mapCtx_anchor _ (by intro _; rfl) _ _).trans ?_
    exact (count_anchor (State.count _ _ _ _ _ _) ..).trans (count_anchor ..)

theorem outrank_anchor (c : Ctx) (k : Chunk) (origin : Nat) (cause : SquashCause) (here : Bool) : (s.outrank c k origin cause here).anchor = s.anchor := by
  unfold State.outrank
  split
  · rfl
  · refine anchor_of_ite ((mapCtx_anchor _ (by intro _; rfl) _ _).trans ?_) rfl
    have hdrop (p : Prop) [Decidable p] (t : State) (h : t.anchor = s.anchor) : (if p then t.squashEvent c cause else t).anchor = s.anchor :=
      anchor_of_ite ((count_anchor ..).trans h) h
    exact hdrop _ _ (anchor_of_ite rfl rfl)

theorem squash_anchor (c : Ctx) (cause : SquashCause) : (s.squash c cause).anchor = s.anchor := by
  unfold State.squash
  split
  · rfl
  next k _ =>
    have hslot : ((s.squashEvent c cause).squashSlot c k.j cause true).anchor = s.anchor := (squashSlot_anchor ..).trans (count_anchor ..)
    have hsend (t : State) (h : t.anchor = s.anchor) : (if t.ringed c.strand then t.send (c.rill k.j (.squash cause)) else t).anchor = s.anchor :=
      anchor_of_ite h h
    refine anchor_of_ite rfl (anchor_of_ite (outrank_anchor ..) (hsend _ (anchor_of_ite ?_ hslot)))
    exact (mapCtx_anchor _ (by intro _; rfl) _ _).trans ((count_anchor ..).trans hslot)

theorem invalidate_anchor (on : Ctx → Bool) (loc n : Nat) (but : Option Word) : (s.invalidate on loc n but).anchor = s.anchor := by
  refine (foldl_anchor (fun t c => squash_anchor t c .memory) _ _).trans (anchor_of_ite (anchor_of_keys s ?_ (map_key (fun c => ?_) _) rfl rfl) rfl)
  · dsimp only; split <;> rfl
  · split <;> rfl

theorem invalidateER_anchor (d : DieId) (loc n : Nat) (but : Option Word) : (s.invalidateER d loc n but).anchor = s.anchor := invalidate_anchor ..

theorem invalidateTile_anchor (loc n : Nat) (but : Option Word) : (s.invalidateTile loc n but).anchor = s.anchor := by
  refine (foldl_anchor (fun _ _ => anchor_of_ite ?_ rfl) _ _).trans (invalidate_anchor ..)
  exact (invalidate_anchor ..).trans (mapDie_anchor _ _ (by intro _; rfl))

theorem squashReaders_anchor (loc n : Nat) (own : List Word) (but : Option Word) : (s.squashReaders loc n own but).anchor = s.anchor := by
  have hread : (if isTile loc then s.invalidateTile loc n but
      else (allDies.filter fun d => !((s.die d).replicas.any fun l => [lineOf loc, lineOf (loc + n - 1)].contains l.line)).foldl
        (fun s d => s.invalidateER d loc n but) s).anchor = s.anchor :=
    anchor_of_ite (invalidateTile_anchor ..) (foldl_anchor (fun t d => invalidateER_anchor ..) _ _)
  unfold State.squashReaders
  dsimp only
  generalize (if isTile loc then s.invalidateTile loc n but else _) = r at hread ⊢
  rw [← hread]
  refine anchor_of_ite rfl (anchor_of_keys r ?_ (map_key (fun c => ?_) _) rfl rfl)
  · dsimp only; split <;> rfl
  · split <;> rfl

/-! ### A write performed at home -/

theorem dropResv_anchor (rs : List Resv) : (s.dropResv rs).anchor = s.anchor := by
  refine foldl_anchor (fun t r => ?_) _ _
  dsimp only
  split
  · exact (send_anchor ..).trans (mapDie_anchor _ _ (by intro _; rfl))
  · exact mapDie_anchor _ _ (by intro _; rfl)

theorem dropReplica_anchor (d : DieId) (line : Nat) : (s.dropReplica d line).anchor = s.anchor :=
  (invalidateER_anchor ..).trans (mapDie_anchor _ _ (by intro _; rfl))

theorem memTouch_anchor (d : DieId) (line : Nat) (dirty : BitVec 8) : (s.memTouch d line dirty).anchor = s.anchor := mapDie_anchor _ _ (by intro _; rfl)

theorem evict_anchor (d : DieId) (l : SharedLine) : (s.evict d l).anchor = s.anchor := by
  have hshared : (s.mapDie d fun y => { y with shared := y.shared.filter fun o => o.line != l.line }).anchor = s.anchor := mapDie_anchor _ _ (by intro _; rfl)
  refine anchor_of_ite ((invalidateER_anchor ..).trans (anchor_of_ite hshared ((memTouch_anchor ..).trans hshared))) ?_
  exact (anchor_of_ite rfl (mapDie_anchor _ _ (by intro _; rfl))).trans ((dropReplica_anchor ..).trans hshared)

theorem touch_anchor (d : DieId) (line : Nat) (dirty : BitVec 8) (core : Option Nat) : (s.touch d line dirty core).anchor = s.anchor := by
  have hevict (ws : List SharedLine) :
      (if ws.length < Config.sliceWays then s else match victim ws with | some v => s.evict d v | none => s).anchor = s.anchor := by
    refine anchor_of_ite rfl ?_
    split
    · exact evict_anchor ..
    · rfl
  refine (mapDie_anchor _ _ (by intro _; rfl)).trans (anchor_of_ite rfl (anchor_of_ite ?_ (hevict _)))
  exact (memTouch_anchor ..).trans (hevict _)

theorem dirtied_anchor (loc n : Nat) : (s.dirtied loc n).anchor = s.anchor :=
  anchor_of_ite rfl (foldl_anchor (fun _ _ => touch_anchor ..) _ _)

theorem writeBytes_anchor (loc : Nat) (bs : List Byte) (who : Requester) (but : Option Word) : (s.writeBytes loc bs who but).anchor = s.anchor :=
  (dirtied_anchor ..).trans ((squashReaders_anchor ..).trans (dropResv_anchor ..))

theorem collapseLine_anchor (line : Nat) (who : Requester) : (s.collapseLine line who).1.anchor = s.anchor := by
  refine (foldl_anchor (f := fun (t : State) (d : DieId) =>
    { t with net := mapFirst (fun p => p.collapsing line d) (fun p => p.join who.each) t.net }) (fun _ _ => rfl) _ _).trans ?_
  exact anchor_of_ite rfl ((count_anchor ..).trans (mapDie_anchor _ _ (by intro _; rfl)))

theorem performWrite_anchor (loc : Nat) (bs : List Byte) (who : Requester) (but : Option Word) : (s.performWrite loc bs who but).1.anchor = s.anchor := by
  have hwrite := writeBytes_anchor s loc bs who but
  unfold State.performWrite
  dsimp only
  split
  · exact hwrite
  · split
    · exact (collapseLine_anchor ..).trans hwrite
    · exact (collapseLine_anchor ..).trans ((collapseLine_anchor ..).trans hwrite)

/-! ### Stores of a chunk that drains, and writes of a record -/

theorem dropEntry_anchor (d : DieId) (e : TlbEntry) : (s.dropEntry d e).anchor = s.anchor := mapDie_anchor _ _ (by intro _; rfl)

theorem setAD_anchor (d : DieId) (pteLoc : Nat) (dd : Bool) : (s.setAD d pteLoc dd).anchor = s.anchor := by
  have hwrite : (if pteSet (s.pteAt pteLoc) dd = s.pteAt pteLoc then s
      else (s.performWrite pteLoc (bytesOf 8 (pteSet (s.pteAt pteLoc) dd).toNat) .none).1).anchor = s.anchor :=
    anchor_of_ite rfl (performWrite_anchor ..)
  unfold State.setAD
  dsimp only
  generalize (if pteSet (s.pteAt pteLoc) dd = s.pteAt pteLoc then s else _) = r at hwrite ⊢
  exact (mapDie_anchor r d (by intro _; rfl)).trans hwrite

theorem markAD_anchor (d : DieId) (p : Place) (write : Bool) : (s.markAD d p write).anchor = s.anchor := by
  unfold State.markAD
  split
  · rfl
  · exact anchor_of_ite (setAD_anchor ..) rfl

theorem settleWrite_anchor (loc : Nat) (bs : List Byte) : (s.settleWrite loc bs).anchor = s.anchor := by
  refine (performWrite_anchor ..).trans ((net_anchor _ _).trans (foldl_anchor (fun t d => ?_) _ s))
  exact (invalidateER_anchor ..).trans (mapDie_anchor _ _ (by intro _; rfl))

theorem savePlace_anchor (c : Ctx) (va : Nat) : (s.savePlace c va).1.anchor = s.anchor := by
  unfold State.savePlace
  dsimp only
  split
  · exact dropEntry_anchor ..
  · rfl

theorem vwrite_anchor (c : Ctx) (va : Nat) (bs : List Byte) : (s.vwrite c va bs).1.anchor = s.anchor := by
  refine List.foldlRecOn (motive := fun a : State × Bool => a.1.anchor = s.anchor) (pieces va bs) _ rfl fun a ha p _ => ?_
  have hplace := (savePlace_anchor a.1 c p.1).trans ha
  split
  · exact ha
  · split
    next hp => rwa [hp] at hplace
    next hp =>
      rw [hp] at hplace
      exact (settleWrite_anchor ..).trans ((markAD_anchor ..).trans hplace)

theorem vwrites_anchor (c : Ctx) (l : List (Nat × List Byte)) : (s.vwrites c l).1.anchor = s.anchor := by
  refine List.foldlRecOn (motive := fun a : State × Bool => a.1.anchor = s.anchor) l _ rfl fun a ha w _ => ?_
  split
  · exact (vwrite_anchor ..).trans ha
  · exact ha

theorem saveArea_anchor (c : Ctx) (halted : Bool) (halt : HaltRegs) : (s.saveArea c halted halt).1.anchor = s.anchor := by
  unfold State.saveArea
  dsimp only
  split
  · rfl
  · refine (anchor_of_ite ?_ rfl).trans (vwrites_anchor s c _)
    exact mapCtx_anchor _ (by intro _; rfl) _ _

theorem writeRecord_anchor (c : Ctx) (st susp hcode : Nat) : (s.writeRecord c st susp hcode).1.anchor = s.anchor := by
  refine (vwrite_anchor ..).trans ?_
  unfold State.notePreemax
  split
  · exact anchor_of_ite rfl rfl
  · rfl

theorem editRecord_anchor (d : DieId) (root record k : Nat) (f : Nat → Nat) : (s.editRecord d root record k f).1.anchor = s.anchor := by
  unfold State.editRecord
  dsimp only
  split
  · rfl
  · split
    · exact settleWrite_anchor ..
    · rfl

theorem recordTo_anchor (d : DieId) (w : Waiting) (st : Nat) : (s.recordTo d w st).anchor = s.anchor := editRecord_anchor ..

theorem pendStore_anchor (d : DieId) (loc : Nat) (x : Datum) (dev : Bool) (who : Requester) (but : Option Word) :
    (s.pendStore d loc x dev who but).anchor = s.anchor := by
  have hmerge : (s.take.2.mapDie d fun y => { y with
      replicas := y.replicas.filter fun l => l.line != lineOf loc
      pend := pendMerge s.take.1 (sectorOf loc) loc x dev who y.pend }).anchor = s.anchor := mapDie_anchor _ _ (by intro _; rfl)
  have hsend (p q : Prop) [Decidable p] [Decidable q] (t : State) (h : t.anchor = s.anchor) (x : Packet) :
      (if q then (if p then t.invalidateER d (lineOf loc) 256 but else t) else (if p then t.invalidateER d (lineOf loc) 256 but else t).send x).anchor
        = s.anchor := anchor_of_ite (anchor_of_ite ((invalidateER_anchor ..).trans h) h) (anchor_of_ite ((invalidateER_anchor ..).trans h) h)
  unfold State.pendStore
  dsimp only
  split
  · exact (mapCtx_anchor _ (by intro _; rfl) _ _).trans (hsend _ _ _ hmerge _)
  · exact hsend _ _ _ hmerge _

theorem enterStore_anchor (d : DieId) (loc : Nat) (bs : List Byte) (who : Requester) (but : Option Word) (dev : Bool) :
    (s.enterStore d loc bs who but dev).anchor = s.anchor := by
  refine anchor_of_ite ?_ ((foldl_anchor (fun _ _ => pendStore_anchor ..) _ _).trans (invalidateER_anchor ..))
  have hwrite := performWrite_anchor s loc bs who but
  unfold State.writeHome State.creditPerf
  dsimp only
  split
  · exact (mapCtx_anchor _ (by intro _; rfl) _ _).trans hwrite
  · exact hwrite

/-! ### The end of speculation and of a drain -/

theorem squashExit_anchor (c : Ctx) (j : Nat) : (s.squashExit c j).anchor = s.anchor :=
  anchor_of_ite rfl (anchor_of_ite (count_anchor ..) rfl : _)

theorem endSpeculation_anchor (c : Ctx) : (s.endSpeculation c).anchor = s.anchor := by
  unfold State.endSpeculation
  split
  · exact anchor_of_ite rfl (squashExit_anchor ..)
  · rfl

theorem weirBegin_anchor (c : Ctx) (k : Chunk) : (s.weirBegin c k).anchor = s.anchor := by
  unfold State.weirBegin
  dsimp only
  split
  · split
    · exact (mapChunk_anchor ..).trans (dropEntry_anchor ..)
    · exact (squash_anchor ..).trans (dropEntry_anchor ..)
  · exact (mapChunk_anchor ..).trans ((count_anchor ..).trans (foldl_anchor (fun _ _ => setAD_anchor ..) _ _))

theorem drainSector_anchor (c : Ctx) (wr : List Host.Cell) (q : Nat) : (s.drainSector c wr q).anchor = s.anchor :=
  foldl_anchor (fun _ _ => enterStore_anchor ..) _ _

theorem drainNext_anchor (c : Ctx) (k : Chunk) : (s.drainNext c k).anchor = s.anchor := by
  unfold State.drainNext
  dsimp only
  split
  · exact mapChunk_anchor ..
  next q qs _ =>
    have hsector := (count_anchor (s.drainSector c k.wr q) c.die 1 (ringOf c.slot) 10 1).trans (drainSector_anchor ..)
    exact anchor_of_ite rfl (anchor_of_ite ((mapChunk_anchor ..).trans ((mapChunk_anchor ..).trans hsector)) ((mapChunk_anchor ..).trans hsector))

theorem drainStep_anchor (c : Ctx) : (s.drainStep c).anchor = s.anchor := by
  unfold State.drainStep
  dsimp only
  split
  · rfl
  next k _ =>
    have hweir : (if k.weir then s else s.weirBegin c k).anchor = s.anchor := anchor_of_ite rfl (weirBegin_anchor ..)
    refine anchor_of_ite rfl ?_
    split
    · exact anchor_of_ite ((drainNext_anchor ..).trans hweir) hweir
    · exact hweir

theorem clearResv_anchor (c : Ctx) : (s.clearResv c).anchor = s.anchor :=
  foldl_anchor (fun _ _ => anchor_of_ite (mapDie_anchor _ _ (by intro _; rfl)) rfl) _ _

/-! ### A stop: waits given up -/

/-- The slots' keys and the tick. -/
def State.place (s : State) : SlotKey × List SlotKey × Nat :=
  (s.me.key, s.others.map Ctx.key, s.tick)

theorem place_of_anchor {s t : State} (h : t.anchor = s.anchor) : t.place = s.place := congrArg (fun a => (a.1, a.2.1, a.2.2.1)) h

theorem waiters_of_anchor {s t : State} (h : t.anchor = s.anchor) (d : DieId) : (t.die d).waiters = (s.die d).waiters := by
  have hdies : t.dies.map Die.waiters = s.dies.map Die.waiters := congrArg (fun a => a.2.2.2) h
  have hget := congrArg (·[d]) hdies
  simpa [State.die] using hget

theorem qcount_anchor (qcb : Nat) (put up : Bool) : (s.qcount qcb put up).anchor = s.anchor := performWrite_anchor ..

theorem dropWaiter_place (strand : Word) (home : DieId) : (s.dropWaiter strand home).place = s.place :=
  (foldl_keeps State.place _ (fun _ _ => place_of_anchor (anchor_of_ite (qcount_anchor ..) rfl)) _ _).trans rfl

theorem mapDie_place (d : DieId) (f : Die → Die) : (s.mapDie d f).place = s.place := rfl

theorem withdraw_place (c : Ctx) : (s.withdraw c).place = s.place := by
  unfold State.withdraw
  split
  · rfl
  · exact (mapDie_place ..).trans (foldl_keeps State.place _ (fun _ _ => mapDie_place ..) _ _)

theorem leaveWait_place : s.leaveWait.place = s.place := by
  unfold State.leaveWait
  dsimp only
  split
  next w _ =>
    have hentry : (if w.entry then s.dropWaiter s.me.strand (homeOf w.loc) else s).place = s.place := by
      split
      · exact dropWaiter_place ..
      · rfl
    refine Eq.trans ?_ hentry
    generalize (if w.entry then s.dropWaiter s.me.strand (homeOf w.loc) else s) = r
    change (if w.what = WaitFor.group then r.withdraw r.me else r).place = r.place
    split
    · exact withdraw_place ..
    · rfl
  next => rfl

theorem flushPart_retireMma_key (c : Ctx) : c.flushPart.retireMma.key = c.key := by
  unfold Ctx.flushPart Ctx.retireMma
  split <;> split <;> rfl

theorem quiesce_place (keep : Bool) : (s.quiesce keep).place = s.place := by
  have hwait : (if keep then s else s.leaveWait).place = s.place := by
    split
    · rfl
    · exact leaveWait_place s
  unfold State.quiesce
  dsimp only
  generalize (if keep then s else s.leaveWait) = r at hwait ⊢
  refine (place_of_anchor ((mapMe_anchor _ (flushPart_retireMma_key _)).trans ?_)).trans hwait
  exact (clearResv_anchor ..).trans ((drainStep_anchor ..).trans (endSpeculation_anchor ..))

/-- Where the slots stand, and which strands of which launches they hold. -/
def State.spots (s : State) : (DieId × SlotNo × Word × Nat) × List (DieId × SlotNo) :=
  ((s.me.die, s.me.slot, s.me.strand, s.me.header), s.others.map fun c => (c.die, c.slot))

theorem spots_of_place {s t : State} (h : t.place = s.place) : t.spots = s.spots := by
  have hspots (u : State) : u.spots = ((u.place.1.1, u.place.1.2.1, u.place.1.2.2.2.1, u.place.1.2.2.2.2.1), u.place.2.1.map fun k => (k.1, k.2.1)) := by
    simp [State.spots, State.place, Ctx.key, Function.comp_def]
  rw [hspots, hspots, h]

theorem regionFlags_key (c : Ctx) : (c.regionFlags s).key = c.key := by
  unfold Ctx.regionFlags
  split <;> rfl

theorem mapMe_susp_spots (x : BitVec 4) : (s.mapMe fun c => { c with susp := x }).spots = s.spots := rfl

theorem saveStrand_spots (st susp hcode : Nat) (halt : HaltRegs) : (s.saveStrand st susp hcode halt).1.spots = s.spots := by
  have hflags : (s.mapMe fun c => c.regionFlags s).anchor = s.anchor := mapMe_anchor s (regionFlags_key s _)
  unfold State.saveStrand
  dsimp only
  generalize (s.mapMe fun c => c.regionFlags s) = r at hflags ⊢
  have harea := spots_of_place (place_of_anchor ((saveArea_anchor r r.me (decide (st = rsHALTED)) halt).trans hflags))
  generalize r.saveArea r.me (decide (st = rsHALTED)) halt = a at harea ⊢
  split
  · exact harea
  · exact (spots_of_place (place_of_anchor (writeRecord_anchor ..))).trans ((mapMe_susp_spots ..).trans harea)

end Sys2Proof.Machine
end

section
/-! SUPPORT. The slot whose turn it is (R17, R413): a slot taken up, changed and put back, a slot that a strand leaves, and the strand that left
it among those of its die. -/

namespace Sys2Proof.Machine
variable {s : State} {d : DieId} {k : SlotNo}

/-! ### A slot taken up and put back -/

theorem at_iff (c : Ctx) (d : DieId) (k : SlotNo) : c.at d k = true ↔ c.die = d ∧ c.slot = k := by simp [Ctx.at]

/-- Where the slots stand. -/
def State.seats (s : State) : (DieId × SlotNo) × List (DieId × SlotNo) := ((s.me.die, s.me.slot), s.others.map fun c => (c.die, c.slot))

theorem seats_of_spots {t : State} (h : t.spots = s.spots) : t.seats = s.seats := congrArg (fun a => ((a.1.1, a.1.2.1), a.2)) h

theorem ctx?_at {c : Ctx} (h : s.ctx? d k = some c) : c.at d k = true := by
  unfold State.ctx? at h
  split at h
  next hme =>
    split at h
    · cases h
    · rwa [← Option.some.inj h]
  next => exact List.find?_some (p := fun c => Ctx.at c d k) h

theorem ctx_at (s : State) (d : DieId) (k : SlotNo) : (s.ctx d k).at d k = true := by
  unfold State.ctx
  cases h : s.ctx? d k with
  | none => simp [Ctx.at, Ctx.reset]
  | some c => exact ctx?_at h

theorem focus_me_at (s : State) (d : DieId) (k : SlotNo) : (s.focus d k).me.at d k = true := by
  unfold State.focus
  split
  next h => exact h
  next => exact ctx_at s d k

theorem focus_me {c : Ctx} (h : s.ctx? d k = some c) : (s.focus d k).me = c := by
  unfold State.focus
  split
  next hme =>
    rw [State.ctx?, if_pos hme] at h
    split at h
    · cases h
    · exact Option.some.inj h
  next => rw [State.ctx, h]; rfl

theorem focus_of_at (h : s.me.at d k = true) : s.focus d k = s := if_pos h

@[simp] theorem focus_dies (s : State) (d : DieId) (k : SlotNo) : (s.focus d k).dies = s.dies := by unfold State.focus; split <;> rfl
theorem focus_die (s : State) (d e : DieId) (k : SlotNo) : (s.focus d k).die e = s.die e := by rw [State.die, focus_dies]; rfl
theorem inSlot_die (s : State) (d e : DieId) (k : SlotNo) (f : State → State) : (s.inSlot d k f).die e = (f (s.focus d k)).die e := focus_die ..

/-- The slot whose turn it is, where no other stands. -/
theorem ctx?_of_me_at (h : s.me.at d k = true) : s.ctx? d k = if s.me.state = .free then none else some s.me := if_pos h

/-- A slot that has its turn and gives it back is found again, unless it is free now. -/
theorem focus_ctx? {d0 : DieId} {k0 : SlotNo} (hme : s.me.at d k = true) (hothers : (d0, k0) ≠ (d, k) → ∀ o ∈ s.others, o.at d k = false) :
    (s.focus d0 k0).ctx? d k = if s.me.state = .free then none else some s.me := by
  by_cases hat : s.me.at d0 k0 = true
  · rw [focus_of_at hat, ctx?_of_me_at hme]
  · have hne : (d0, k0) ≠ (d, k) := fun he => by cases he; exact hat hme
    have hrest : (s.others.filter fun o => !o.at d0 k0).find? (fun c => c.at d k) = none := by
      rw [List.find?_eq_none]
      intro o ho
      simp [hothers hne o (List.mem_of_mem_filter ho)]
    have hc : (s.ctx d0 k0).at d k = false := by
      rw [← Bool.not_eq_true]
      intro hd
      obtain ⟨hdie, hslot⟩ := (at_iff _ _ _).1 hd
      obtain ⟨hdie0, hslot0⟩ := (at_iff _ _ _).1 (ctx_at s d0 k0)
      exact hne (Prod.ext (hdie0.symm.trans hdie) (hslot0.symm.trans hslot))
    rw [State.focus, if_neg hat, State.ctx?]
    simp only [hc, Bool.false_eq_true, if_false]
    split
    · exact hrest
    · simp [hme]

theorem focus_others (s : State) (h : s.me.at d k = false) : ∀ o ∈ (s.focus d k).others, o.at d k = false := by
  intro o ho
  rw [State.focus, if_neg (by simp [h])] at ho
  dsimp only at ho
  split at ho
  · simpa using (List.mem_filter.1 ho).2
  · rcases List.mem_cons.1 ho with rfl | ho
    · exact h
    · simpa using (List.mem_filter.1 ho).2

theorem others_of_seats {t : State} (h : t.seats = s.seats) (hs : ∀ o ∈ s.others, o.at d k = false) : ∀ o ∈ t.others, o.at d k = false := by
  have hlist : t.others.map (fun c => (c.die, c.slot)) = s.others.map fun c => (c.die, c.slot) := congrArg Prod.snd h
  intro o ho
  have hmem : (o.die, o.slot) ∈ s.others.map fun c => (c.die, c.slot) := hlist ▸ List.mem_map_of_mem ho
  obtain ⟨p, hp, heq⟩ := List.mem_map.1 hmem
  have hfar := hs p hp
  rw [← Bool.not_eq_true, at_iff] at hfar ⊢
  rw [Prod.mk.injEq] at heq
  rwa [heq.1, heq.2] at hfar

theorem me_at_of_seats {t : State} (h : t.seats = s.seats) (hs : s.me.at d k = true) : t.me.at d k = true := by
  have hseat : (t.me.die, t.me.slot) = (s.me.die, s.me.slot) := congrArg Prod.fst h
  rw [Prod.mk.injEq] at hseat
  rw [at_iff] at hs ⊢
  rwa [hseat.1, hseat.2]

/-- What a slot holds after its turn, where no slot has moved. -/
theorem inSlot_ctx? {f : State → State} (h : (f (s.focus d k)).seats = (s.focus d k).seats) :
    (s.inSlot d k f).ctx? d k = if (f (s.focus d k)).me.state = .free then none else some (f (s.focus d k)).me := by
  refine focus_ctx? (me_at_of_seats h (focus_me_at s d k)) fun hne => others_of_seats h (focus_others s ?_)
  rw [← Bool.not_eq_true, at_iff]
  rintro ⟨rfl, rfl⟩
  exact hne rfl

/-! ### A slot that its strand leaves -/

theorem ringEmptied_me (s : State) (d : DieId) : (s.ringEmptied d).me = s.me := by
  unfold State.ringEmptied State.post
  dsimp only
  repeat' split
  all_goals rfl

theorem ringEmptied_others (s : State) (d : DieId) : (s.ringEmptied d).others = s.others := by
  unfold State.ringEmptied State.post
  dsimp only
  repeat' split
  all_goals rfl

theorem free_me (s : State) : (s.free s.me.die s.me.slot).me = { Ctx.reset s.me.die s.me.slot with iword := 0 } := by
  simp [State.free, State.putCtx, Ctx.at, Ctx.reset]

theorem free_others (s : State) : (s.free s.me.die s.me.slot).others = s.others := by
  simp [State.free, State.putCtx, Ctx.at, Ctx.reset]

theorem vacate_me (s : State) : s.vacate.me = { Ctx.reset s.me.die s.me.slot with iword := 0 } := by
  unfold State.vacate
  rw [ringEmptied_me]
  exact free_me _

theorem vacate_others (s : State) : s.vacate.others = s.others := by
  unfold State.vacate
  rw [ringEmptied_others]
  exact free_others _

theorem vacate_seats (s : State) : s.vacate.seats = s.seats := by rw [State.seats, vacate_me, vacate_others]; rfl

theorem vacate_me_state (s : State) : s.vacate.me.state = .free := by rw [vacate_me]; rfl

/-- A strand that can leave its slot leaves it: the slot is free, and the strand is handed over as it waits. -/
theorem suspend_of_canLeave {keep yielded : Bool} {retry : Option (BitVec 4)} {prep : Ctx → Ctx} {st susp : Nat} {f : Waiting → State → State}
    (hprep : ∀ c, (prep c).key = c.key) (hst : st ≠ rsHALTED) (h : s.CanLeave keep prep st susp) :
    ∃ v : State, v.spots = s.spots ∧ s.suspend keep retry prep st susp 0 none yielded f = f (v.me.waiting v yielded) v.vacate := by
  obtain ⟨hdrained, hlanded, halone, hsettled, hok⟩ := h
  have hspots := (saveStrand_spots ((s.quiesce keep).mapMe prep) st susp 0 none).trans
    (spots_of_place ((place_of_anchor (mapMe_anchor _ (hprep _))).trans (quiesce_place s keep)))
  refine ⟨_, hspots, ?_⟩
  unfold State.suspend
  simp only [hst, if_false, hdrained, hlanded, halone, hsettled, Bool.and_self, if_true, hok]

theorem spots_strand {t : State} (h : t.spots = s.spots) : t.me.strand = s.me.strand := congrArg (fun a => a.1.2.2.1) h

/-- A stop in its slot is taken at once where none stands against it and the slot may stop. -/
theorem stopMe_of_none (hlater : s.me.stopLater = false) (hreq : s.me.stopReq = none) (code : Nat) (f : State → State) :
    s.stopMe code f = f s.markStop := by
  have hmark : s.markStop.me.stopLater = s.me.stopLater := rfl
  unfold State.stopMe
  simp [hmark, hlater, hreq]

end Sys2Proof.Machine
end

section
/-! SUPPORT. Strands that leave their slots (R392, R394, R413): pre-emption, the end of a quantum and the end of a spin. -/

namespace Sys2Proof.Machine
variable {s : State} {d : DieId} {k : SlotNo} {c : Ctx} {w : Wait}

theorem count_ctx? (s : State) (e : DieId) (kind inst ix n : Nat) : (s.count e kind inst ix n).ctx? d k = s.ctx? d k := by
  rw [State.ctx?, count_me, count_others]; rfl

theorem makeReady_ready (s : State) (d : DieId) (w : Waiting) : ((s.makeReady d w).die d).ready = (s.die d).ready ++ [w] := by
  rw [State.makeReady, die_mapDie, if_pos rfl]

/-- A slot left behind is free after its turn. -/
theorem inSlot_ctx?_none {f : State → State} (hseats : (f (s.focus d k)).seats = (s.focus d k).seats) (hfree : (f (s.focus d k)).me.state = .free) :
    (s.inSlot d k f).ctx? d k = none := by rw [inSlot_ctx? hseats, if_pos hfree]

/-- A strand that is pre-empted, or whose quantum has run out, is ready again, and its slot free. -/
theorem stopNow_ready {code : Nat} (hcode : code = 1 ∨ code = 2) (hctx : s.ctx? d k = some c) (hlater : c.stopLater = false) (hreq : c.stopReq = none)
    (hleave : (s.focus d k).markStop.CanLeave false (fun c => { c with wend := none }) rsREADY 2) :
    (s.inSlot d k fun s => s.stopMe code fun s => s.stopNow code).ctx? d k = none
      ∧ ∃ w ∈ ((s.inSlot d k fun s => s.stopMe code fun s => s.stopNow code).die d).ready, w.strand = c.strand ∧ w.isNew = false ∧ w.sliced = (code == 1) := by
  have hme := focus_me hctx
  have hdie : (s.focus d k).markStop.me.die = d := ((at_iff _ _ _).1 (focus_me_at s d k)).1
  obtain ⟨v, hspots, hsuspend⟩ := suspend_of_canLeave (yielded := false) (retry := some (BitVec.ofNat 4 code))
    (f := fun w s => s.makeReady d { w with sliced := code == 1 }) (by intro _; rfl) (by decide) hleave
  have hstop : (s.focus d k).stopMe code (fun s => s.stopNow code)
      = v.vacate.makeReady d { v.me.waiting v false with sliced := code == 1 } := by
    rw [stopMe_of_none (by rw [hme]; exact hlater) (by rw [hme]; exact hreq), State.stopNow, if_neg (by omega), if_neg (by omega), hdie]
    exact hsuspend
  refine ⟨inSlot_ctx?_none ?_ ?_, { v.me.waiting v false with sliced := code == 1 }, ?_, ?_, rfl, rfl⟩
  · rw [hstop]
    exact (vacate_seats v).trans (seats_of_spots hspots)
  · rw [hstop]
    exact vacate_me_state v
  · rw [inSlot_die, hstop, makeReady_ready]
    exact List.mem_append_right _ (.head _)
  · exact (spots_strand hspots).trans (by rw [← hme]; rfl)

theorem exec_preemption (hctx : s.ctx? d k = some c) (hrun : c.state = .running) (hreq : c.stopReq = none) :
    exec (.preemption d k) s = .next ((s.count d 6 0 2 (if s.isVictim c then 1 else 0)).inSlot d k fun s => s.stopMe 2 fun s => s.stopNow 2) := by
  change execPreemption d k s = _
  simp [execPreemption, hctx, hrun, hreq, State.preempt]

theorem exec_quantumExpiry (hctx : s.ctx? d k = some c) (hrun : c.state = .running) (hreq : c.stopReq = none) (hq : bits (s.die d).regs.rsvctl 32 16 ≠ 0)
    (hdue : c.dispatched + bits (s.die d).regs.rsvctl 32 16 * 1024 ≤ s.tick) (hpress : (s.pressing d).any (fun w => w.prio == c.prio) = true) :
    exec (.quantumExpiry d k) s = .next ((s.count d 6 0 2 1).inSlot d k fun s => s.stopMe 1 fun s => s.stopNow 1) := by
  change execQuantumExpiry d k s = _
  have hnot : ¬ s.tick < c.dispatched + bits (s.die d).regs.rsvctl 32 16 * 1024 := by omega
  simp [execQuantumExpiry, hctx, hrun, hreq, hq, hnot, hpress]

/-- A slot at system level keeps its stop request. -/
theorem stopMe_system (hlevel : s.me.level = .system) (hreq : s.me.stopReq = none) (f : State → State) :
    s.stopMe 2 f = s.mapMe fun c => { c with stopReq := some 2, stopTick := none } := by
  have hmark : s.markStop = s.mapMe fun c => { c with stopTick := none } := by simp [State.markStop, State.mapMe, hlevel]
  have hlater : s.markStop.me.stopLater = true := by rw [hmark]; simp [Ctx.stopLater, hlevel]
  have hstop : s.stopMe 2 f = s.markStop.mapMe fun c => { c with stopReq := some 2 } := by
    unfold State.stopMe
    simp [hlater, hreq]
  rw [hstop, hmark]; rfl

theorem preemption_system_stop (hctx : s.ctx? d k = some c) (hreq : c.stopReq = none) (hlevel : c.level = .system) (n : Nat) :
    ((s.count d 6 0 2 n).focus d k).stopMe 2 (fun s => s.stopNow 2)
      = ((s.count d 6 0 2 n).focus d k).mapMe fun c => { c with stopReq := some 2, stopTick := none } := by
  have hme := focus_me ((count_ctx? s d 6 0 2 n).trans hctx)
  exact stopMe_system (by rw [hme]; exact hlevel) (by rw [hme]; exact hreq) _

theorem preemption_system (hctx : s.ctx? d k = some c) (hrun : c.state = .running) (hreq : c.stopReq = none) (hlevel : c.level = .system) (n : Nat) :
    ((s.count d 6 0 2 n).inSlot d k fun s => s.stopMe 2 fun s => s.stopNow 2).ctx? d k = some { c with stopReq := some 2, stopTick := none } := by
  have hstop := preemption_system_stop hctx hreq hlevel n
  rw [inSlot_ctx? (by rw [hstop]; rfl), hstop, mapMe_me, focus_me ((count_ctx? s d 6 0 2 n).trans hctx)]
  exact if_neg (by simp [hrun])

theorem preemption_system_mem (hctx : s.ctx? d k = some c) (hreq : c.stopReq = none) (hlevel : c.level = .system) (n : Nat) :
    ((s.count d 6 0 2 n).inSlot d k fun s => s.stopMe 2 fun s => s.stopNow 2).mem = s.mem := by
  rw [State.inSlot, focus_mem, preemption_system_stop hctx hreq hlevel n, mapMe_mem, focus_mem, count_mem]

theorem exec_park (hctx : s.ctx? d k = some c) (hwait : c.wait = some w) (hwoken : w.woken = false) (hdue : w.since + 4096 ≤ s.tick)
    (hlevel : c.level = .strand) (hsent : c.sent = none) (hreq : c.stopReq = none) :
    exec (.park d k) s = .next (s.inSlot d k fun s => s.parkMe w) := by
  change execPark d k s = _
  have hnot : ¬ s.tick < w.since + Config.spinTicks := by simp [Config.spinTicks]; omega
  simp [execPark, hctx, hwait, hwoken, hnot, hlevel, hsent, hreq]

/-- Where a strand that parks is found: ready after a reservation that it has lost, else among the parked, in DEEP without a waiter entry. -/
theorem parkMe_eq (hleave : s.CanLeave true (fun c => { c with wend := w.wend })
      (if w.what = .reservation then rsREADY else if w.parks then rsPARKED else rsDEEP) 1) :
    ∃ v : State, v.spots = s.spots ∧ s.parkMe w = (if w.what = .reservation
      then (v.vacate.count s.me.die 6 0 (if w.parks then 3 else 4) 1).makeReady s.me.die (v.me.waiting v false)
      else (v.vacate.count s.me.die 6 0 (if w.parks then 3 else 4) 1).mapDie s.me.die fun q => { q with parked := q.parked ++ [⟨v.me.waiting v false, !w.parks, w⟩] }) := by
  have hst : (if w.what = .reservation then rsREADY else if w.parks then rsPARKED else rsDEEP) ≠ rsHALTED := by
    split
    · decide
    · split <;> decide
  obtain ⟨v, hspots, hsuspend⟩ := suspend_of_canLeave (yielded := false) (retry := none)
    (f := fun x t => if w.what = .reservation then (t.count s.me.die 6 0 (if w.parks then 3 else 4) 1).makeReady s.me.die x
      else (t.count s.me.die 6 0 (if w.parks then 3 else 4) 1).mapDie s.me.die fun q => { q with parked := q.parked ++ [⟨x, !w.parks, w⟩] })
    (by intro _; rfl) hst hleave
  exact ⟨v, hspots, hsuspend⟩

theorem parkMe_seats_free (hleave : s.CanLeave true (fun c => { c with wend := w.wend })
      (if w.what = .reservation then rsREADY else if w.parks then rsPARKED else rsDEEP) 1) :
    (s.parkMe w).seats = s.seats ∧ (s.parkMe w).me.state = .free := by
  obtain ⟨v, hspots, hpark⟩ := parkMe_eq hleave
  have hseats : (v.vacate.count s.me.die 6 0 (if w.parks then 3 else 4) 1).seats = s.seats := by
    rw [State.seats, count_me, count_others]
    exact (vacate_seats v).trans (seats_of_spots hspots)
  have hfree : (v.vacate.count s.me.die 6 0 (if w.parks then 3 else 4) 1).me.state = .free := by
    rw [count_me]; exact vacate_me_state v
  rw [hpark]
  split
  · exact ⟨hseats, hfree⟩
  · exact ⟨hseats, hfree⟩

theorem park_completes (hctx : s.ctx? d k = some c) (hleave : (s.focus d k).CanLeave true (fun c => { c with wend := w.wend })
      (if w.what = .reservation then rsREADY else if w.parks then rsPARKED else rsDEEP) 1) :
    (s.inSlot d k fun s => s.parkMe w).ctx? d k = none
      ∧ (w.what ≠ .reservation → ∃ q ∈ ((s.inSlot d k fun s => s.parkMe w).die d).parked, q.w.strand = c.strand ∧ q.wait = w
        ∧ (w.entry = true ∨ w.what = .group → q.deep = false) ∧ (w.entry = false → w.what ≠ .group → q.deep = true))
      ∧ (w.what = .reservation → ∃ q ∈ ((s.inSlot d k fun s => s.parkMe w).die d).ready, q.strand = c.strand) := by
  obtain ⟨hseats, hfree⟩ := parkMe_seats_free hleave
  obtain ⟨v, hspots, hpark⟩ := parkMe_eq hleave
  have hdie : (s.focus d k).me.die = d := ((at_iff _ _ _).1 (focus_me_at s d k)).1
  have hstrand : v.me.strand = c.strand := (spots_strand hspots).trans (congrArg Ctx.strand (focus_me hctx))
  refine ⟨inSlot_ctx?_none hseats hfree, fun hres => ⟨⟨v.me.waiting v false, !w.parks, w⟩, ?_, hstrand, rfl, ?_, ?_⟩,
    fun hres => ⟨v.me.waiting v false, ?_, hstrand⟩⟩
  · rw [inSlot_die, hpark, if_neg hres, hdie, die_mapDie, if_pos rfl]
    exact List.mem_append_right _ (.head _)
  · rintro (he | hg)
    · simp [Wait.parks, he]
    · simp [Wait.parks, hg]
  · intro he hg
    simp [Wait.parks, he, hg, hres]
  · rw [inSlot_die, hpark, if_pos hres, hdie, makeReady_ready]
    exact List.mem_append_right _ (.head _)

end Sys2Proof.Machine
end

section
/-! SUPPORT. A cancelled strand that ends in its slot (R384): its record retired, its slot free, its launch counting it. -/

namespace Sys2Proof.Machine
variable {s : State} {d : DieId} {k : SlotNo} {c : Ctx}

theorem wr_anchor (s : State) (loc : Nat) (x : Word) : (s.wr loc x).anchor = s.anchor := performWrite_anchor ..

theorem wr_mem (s : State) (loc : Nat) (x : Word) : (s.wr loc x).mem = memWrite s.mem loc (w64 x) := performWrite_mem ..

theorem w64_length (x : Word) : (w64 x).length = 8 := bytesOf_length ..

theorem memBytes_eq_of_memGet {m m' : List Host.Cell} {a n : Nat} (h : ∀ x, a ≤ x → x < a + n → memGet m x = memGet m' x) :
    memBytes m a n = memBytes m' a n := by
  induction n generalizing a with
  | zero => rfl
  | succ n ih => rw [memBytes, memBytes, h a le_rfl (by omega), ih fun x hx hlt => h x (by omega) (by omega)]

theorem memBytes_eq_of_get {m : List Host.Cell} {a : Nat} {bs : List Byte} (h : ∀ i, i < bs.length → memGet m (a + i) = (bs[i]?).getD 0) :
    memBytes m a bs.length = bs := by
  induction bs generalizing a with
  | nil => rfl
  | cons b bs ih =>
    rw [List.length_cons, memBytes, ih fun i hi => ?_]
    · have hhead := h 0 (by simp)
      rw [Nat.add_zero] at hhead
      rw [hhead]; rfl
    · rw [show a + 1 + i = a + (i + 1) by omega, h (i + 1) (by simpa using hi)]; rfl

/-- A doubleword written is read back. -/
theorem wr_rd (s : State) (hm : s.MemOk) (loc : Nat) (x : Word) : (s.wr loc x).rd loc = x := by
  have hbytes : memBytes (memWrite s.mem loc (w64 x)) loc (w64 x).length = w64 x := memBytes_eq_of_get fun i hi => by
    rw [memGet_memWrite _ _ _ hm, if_pos (by omega), Nat.add_sub_cancel_left]
  rw [w64_length] at hbytes
  have hx : x.toNat % 256 ^ 8 = x.toNat := Nat.mod_eq_of_lt (by have := x.isLt; omega)
  rw [State.rd, wr_mem, hbytes, w64, ofBytes_bytesOf, hx]
  exact BitVec.ofNat_toNat ..

/-- A doubleword written leaves those apart from it. -/
theorem wr_rd_of_apart (s : State) (hm : s.MemOk) {loc a : Nat} (h : a + 8 ≤ loc) (x : Word) : (s.wr loc x).rd a = s.rd a := by
  have hbytes : memBytes (memWrite s.mem loc (w64 x)) a 8 = memBytes s.mem a 8 := memBytes_eq_of_memGet fun y _ hlt => by
    rw [memGet_memWrite _ _ _ hm, if_neg (by omega)]
  rw [State.rd, State.rd, wr_mem, hbytes]

theorem wr_memOk {s : State} (hm : s.MemOk) (loc : Nat) (x : Word) : (s.wr loc x).MemOk := by
  rw [State.MemOk, wr_mem]; exact memWrite_wf _ _ hm

theorem rd_of_mem {s t : State} (h : t.mem = s.mem) (a : Nat) : t.rd a = s.rd a := by rw [State.rd, h]; rfl

/-- A strand that ends counts with its launch. -/
theorem strandEnded_counts (s : State) (hm : s.MemOk) {header : Nat} (hmore : s.rd header + 1 ≠ s.rd (header + 8)) (cancelled : Bool) :
    (s.strandEnded header cancelled).rd header = s.rd header + 1 ∧ (s.strandEnded header cancelled).place = s.place := by
  have hfull : (s.rd header + 1 == s.rd (header + 8)) = false := beq_false_of_ne hmore
  obtain ⟨w, hchild⟩ : ∃ w, s.childDone header cancelled = ((s.wr header (s.rd header + 1)).wr (header + 16) w, false) := by
    unfold State.childDone
    simp only [hfull]
    exact ⟨_, rfl⟩
  have hw : s.strandEnded header cancelled = (s.wr header (s.rd header + 1)).wr (header + 16) w := by
    unfold State.strandEnded
    simp only [hchild]
    rfl
  rw [hw]
  constructor
  · rw [wr_rd_of_apart _ (wr_memOk hm ..) (by omega), wr_rd s hm]
  · exact place_of_anchor ((wr_anchor ..).trans (wr_anchor ..))

theorem susp_of_place {t : State} (h : t.place = s.place) : t.me.susp = s.me.susp := congrArg (fun a => a.1.2.2.2.2.2) h
theorem state_of_place {t : State} (h : t.place = s.place) : t.me.state = s.me.state := congrArg (fun a => a.1.2.2.1) h
theorem header_of_spots {t : State} (h : t.spots = s.spots) : t.me.header = s.me.header := congrArg (fun a => a.1.2.2.2) h

theorem count_spots (s : State) (e : DieId) (kind inst ix n : Nat) : (s.count e kind inst ix n).spots = s.spots := by
  rw [State.spots, count_me, count_others]; rfl

/-- A cancelled strand's slot is left, and its launch counts it, once its record is written. -/
theorem retire_cancelled (v : State) : ∃ w : State, w.spots = v.spots
    ∧ w.mem = ((v.mapMe fun c => { c with susp := 7 }).writeRecord (v.mapMe fun c => { c with susp := 7 }).me rsRETIRED 7 0).1.mem
    ∧ v.retire 7 true = w.vacate.strandEnded v.me.header true := by
  have hm := mapMe_susp_spots v 7
  have hretire : v.retire 7 true = (fun (p : State × Bool) => ((p.1.count v.me.die 0 0 3 (if p.2 then 0 else 1)).count v.me.die 6 0 5 1).vacate.strandEnded v.me.header true)
      ((v.mapMe fun c => { c with susp := 7 }).writeRecord (v.mapMe fun c => { c with susp := 7 }).me rsRETIRED 7 0) := rfl
  rw [hretire]
  generalize v.mapMe (fun c => { c with susp := 7 }) = m at hm
  have hrecord := spots_of_place (place_of_anchor (writeRecord_anchor m m.me rsRETIRED 7 0))
  generalize m.writeRecord m.me rsRETIRED 7 0 = p at hrecord
  exact ⟨_, (count_spots ..).trans ((count_spots ..).trans (hrecord.trans hm)), (count_mem ..).trans (count_mem ..), rfl⟩

theorem stopCancelled_eq {u : State} (h : s.CanEnd u) : ∃ v w : State, v.spots = s.spots ∧ w.spots = s.spots ∧ w.mem = u.mem
    ∧ s.stopCancelled = w.vacate.strandEnded v.me.header true := by
  obtain ⟨hdrained, hilk, halone, hsettled, hsusp, hok, hilk', halone', hsettled', hu, -, -⟩ := h
  have hplace := quiesce_place s false
  have hsusp' : (s.quiesce false).me.susp ≠ 7 := by
    rwa [susp_of_place hplace]
  generalize hr : s.quiesce false = r at hplace hdrained hilk halone hsettled hok hsusp' hilk' halone' hsettled' hu
  have harea := spots_of_place ((place_of_anchor (saveArea_anchor r r.me false none)).trans hplace)
  have hsaved : r.saveArea r.me false none = ((r.saveArea r.me false none).1, true) := Prod.ext rfl hok
  generalize (r.saveArea r.me false none).1 = v at harea hsaved hilk' halone' hsettled' hu
  have hretire : s.stopCancelled = v.retire 7 true := by
    unfold State.stopCancelled State.retireCancelled
    simp only [hr, hdrained, hilk, halone, hsettled, hsusp', hsaved, hilk', halone', hsettled', List.isEmpty_nil, Bool.and_self, if_true, if_false]
  obtain ⟨w, hw, hmem, hend⟩ := retire_cancelled v
  exact ⟨v, w, harea, hw.trans harea, hmem.trans (congrArg State.mem hu), hretire.trans hend⟩

theorem exec_cancelStop (hcancelled : s.isCancelled c.strand = true) (hslot : s.slotOfStrand c.strand = some c) : exec (.cancelStop c.strand) s
    = .next (s.inSlot c.die c.slot fun s => if s.atDone then s else s.stopMe 7 fun s => s.stopCancelled) := by
  change execCancelStop c.strand s = _
  simp only [execCancelStop, State.cancelStop, hcancelled, hslot, if_true]

/-- A cancelled strand that can end leaves its slot free and counts with its launch. -/
theorem cancelStop_ends {u : State} (hctx : s.ctx? d k = some c) (hlater : c.stopLater = false) (hreq : c.stopReq = none)
    (hend : (s.focus d k).markStop.CanEnd u) :
    let t := s.inSlot d k fun s => if s.atDone then s else s.stopMe 7 fun s => s.stopCancelled
    t.ctx? d k = none ∧ t.rd c.header = u.rd c.header + 1 := by
  have hme := focus_me hctx
  obtain ⟨v, w, hv, hw, hmem, hstop⟩ := stopCancelled_eq hend
  obtain ⟨-, -, -, -, -, -, -, -, -, -, hok, hmore⟩ := hend
  have hheader : v.me.header = c.header := (header_of_spots hv).trans (by rw [← hme]; rfl)
  have hrd (a : Nat) : w.vacate.rd a = u.rd a := rd_of_mem ((vacate_mem w).trans hmem) a
  have hmore' : w.vacate.rd v.me.header + 1 ≠ w.vacate.rd (v.me.header + 8) := by
    rw [hheader, hrd, hrd, ← hme]; exact hmore
  have hwok : w.vacate.MemOk := by rw [State.MemOk, vacate_mem, hmem]; exact hok
  obtain ⟨hcount, hplace⟩ := strandEnded_counts w.vacate hwok hmore' true
  have hdone : (if (s.focus d k).atDone then s.focus d k else (s.focus d k).stopMe 7 fun s => s.stopCancelled)
      = w.vacate.strandEnded v.me.header true := by
    have hnot : (s.focus d k).atDone = false := by
      simp only [Ctx.stopLater, Bool.or_eq_false_iff] at hlater
      rw [State.atDone, hme]; exact hlater.1.1.2
    refine (if_neg (by simp [hnot])).trans ((stopMe_of_none ?_ ?_ 7 _).trans hstop)
    · rw [hme]; exact hlater
    · rw [hme]; exact hreq
  refine ⟨inSlot_ctx?_none ?_ ?_, ?_⟩
  · rw [hdone]
    exact (seats_of_spots (spots_of_place hplace)).trans ((vacate_seats w).trans (seats_of_spots hw))
  · rw [hdone]
    exact (state_of_place hplace).trans (vacate_me_state w)
  · rw [State.inSlot, rd_of_mem (focus_mem ..), hdone, ← hheader, hcount, hrd]

end Sys2Proof.Machine
end

section
/-! SUPPORT. Strands that take a slot (R389, R391), resumed ones and new ones. -/

namespace Sys2Proof.Machine
variable {s : State} {d e : DieId} {k : SlotNo} {c : Ctx} {x : Waiting} {l : Live}

theorem putCtx_ctx? (s : State) (hc : c.at d k = true) (hstate : c.state ≠ .free) : (s.putCtx c).ctx? d k = some c := by
  obtain ⟨rfl, rfl⟩ := (at_iff c d k).1 hc
  unfold State.putCtx
  split
  · rw [ctx?_of_me_at hc]
    exact if_neg hstate
  next hme =>
    rw [State.ctx?, if_neg hme]
    simp [hc]

@[simp] theorem putCtx_dies (s : State) (c : Ctx) : (s.putCtx c).dies = s.dies := by unfold State.putCtx; split <;> rfl

theorem freshFetch_ctx? (s : State) (e : DieId) (o : SlotNo) : (s.freshFetch e o).ctx? d k = s.ctx? d k := by
  unfold State.freshFetch
  split <;> rfl

/-- The queues of a die's reservoir. -/
def Die.queues (x : Die) : List Waiting × List Live := (x.ready, x.lives)

theorem mapDie_queues (s : State) {f : Die → Die} (hf : ∀ x, (f x).queues = x.queues) (d e : DieId) : ((s.mapDie d f).die e).queues = (s.die e).queues := by
  rw [die_mapDie]
  split
  next h => subst h; exact hf _
  next => rfl

theorem placeStrand_queues (s : State) (c : Ctx) (e : DieId) : ((s.placeStrand c none).die e).queues = (s.die e).queues := by
  have hput : ((s.putCtx c).die e).queues = (s.die e).queues := by rw [State.die, putCtx_dies]; rfl
  change (((s.putCtx c).freshFetch c.die c.slot).die e).queues = _
  unfold State.freshFetch
  split
  · exact hput
  · exact (mapDie_queues _ (by intro _; rfl) ..).trans hput

theorem placeStrand_ctx? (s : State) (hc : c.at d k = true) (hstate : c.state ≠ .free) : (s.placeStrand c none).ctx? d k = some c :=
  (freshFetch_ctx? ..).trans (putCtx_ctx? s hc hstate)

/-- What a slot that a strand takes up holds from the start: its place, its strand, its state, its level and no chunk. -/
def Ctx.taken (c : Ctx) : DieId × SlotNo × SlotState × Word × Level × Option Chunk := (c.die, c.slot, c.state, c.strand, c.level, c.chunk)

theorem loadClasses_taken {c' : Ctx} {root area : Nat} {r : Record} {resume : Bool} (h : s.loadClasses c root area r resume = some c') : c'.taken = c.taken := by
  unfold State.loadClasses at h
  dsimp only at h
  split at h
  · rw [← Option.some.inj h]; rfl
  · cases h

theorem resumeStrand_taken (h : s.resumeStrand d k x = some (c, none)) : c.taken = (d, k, .running, x.strand, .strand, none) := by
  unfold State.resumeStrand at h
  split at h
  · cases h
  · split at h
    · cases h
    · dsimp only at h
      split at h
      · cases h
      next c' hload =>
        have htaken := loadClasses_taken hload
        have hfinal (c₁ : Ctx) (hc₁ : c₁.taken = c'.taken) : c₁.taken = (d, k, .running, x.strand, .strand, none) := hc₁.trans htaken
        split at h
        · rw [Option.map_eq_some_iff] at h
          obtain ⟨p, -, hp⟩ := h
          cases hp
        · refine hfinal c ?_
          rw [← (Prod.mk.inj (Option.some.inj h)).1]
          split <;> rfl

theorem startStrand_taken {i : Nat} (h : s.startStrand d k l i = some c) :
    c.taken = (d, k, .running, l.strand i, .strand, none) ∧ c.getS 1 = word i ∧ c.deadline = l.deadline := by
  unfold State.startStrand at h
  split at h
  · cases h
  · split at h
    · cases h
    · dsimp only at h
      split at h
      · cases h
      next c' hload =>
        have htaken := loadClasses_taken hload
        rw [← Option.some.inj h]
        refine ⟨?_, ?_, rfl⟩
        · exact htaken
        · simp [Ctx.getS]

/-- A slot that was free is not refilled by the slice that it leaves: the strand that takes it stays, and its quantum mark goes. -/
theorem mapFirst_strand {p : Waiting → Bool} {q : List Waiting} {y : Waiting} (h : y ∈ mapFirst p (fun w => { w with sliced := false }) q) :
    ∃ o ∈ q, o.strand = y.strand := by
  induction q with
  | nil => exact absurd h List.not_mem_nil
  | cons w ws ih =>
    unfold mapFirst at h
    split at h
    · rcases List.mem_cons.1 h with rfl | h
      · exact ⟨w, .head _, rfl⟩
      · exact ⟨y, .tail _ h, rfl⟩
    · rcases List.mem_cons.1 h with rfl | h
      · exact ⟨y, .head _, rfl⟩
      · obtain ⟨o, ho, hstrand⟩ := ih h
        exact ⟨o, .tail _ ho, hstrand⟩

theorem sliceOver_lives (s : State) (prio : BitVec 3) : ((s.sliceOver d prio).die e).lives = (s.die e).lives := by
  rw [State.sliceOver, die_mapDie]
  split
  next h => subst h; rfl
  next => rfl

theorem sliceOver_ready (s : State) (prio : BitVec 3) {y : Waiting} (h : y ∈ ((s.sliceOver d prio).die d).ready) : ∃ o ∈ (s.die d).ready, o.strand = y.strand := by
  rw [State.sliceOver, die_mapDie, if_pos rfl] at h
  exact mapFirst_strand h

theorem not_isFree (h : s.ctx? d k = some c) : s.isFree d k = false := by rw [State.isFree, h]; rfl

/-- The strands that a die may take: its ready ones, and, unless it is hot, new ones. -/
def State.contenders (s : State) (d : DieId) : List Waiting :=
  ((s.die d).ready.filter fun w => classAllows w.cls d && !s.isCancelled w.strand) ++ (if (s.die d).hot then [] else (s.fresh? d).map fun q => q.1)

theorem contenders_eq (s : State) (d : DieId) : s.contenders d = ((s.die d).ready.filter fun w => classAllows w.cls d && !s.isCancelled w.strand)
    ++ (if (s.die d).hot then [] else s.fresh? d).map fun q => q.1 := by
  unfold State.contenders
  split <;> rfl

theorem dispatch_resumed (hslot : s.pickSlot d = some k) (hbest : bestOf (s.contenders d) = some x) (hnew : x.isNew = false)
    (hresume : (s.mapDie d fun y => { y with ready := y.ready.filter fun o => o.strand != x.strand }).resumeStrand d k x = some (c, none)) :
    Completes (.dispatch d) s fun t => t.ctx? d k = some c ∧ c.state = .running ∧ c.strand = x.strand ∧ ∀ o ∈ (t.die d).ready, o.strand ≠ x.strand := by
  obtain ⟨hdie, hslot', hstate, hstrand, -, -⟩ : c.die = d ∧ c.slot = k ∧ c.state = .running ∧ c.strand = x.strand ∧ c.level = .strand ∧ c.chunk = none := by
    simpa [Ctx.taken] using resumeStrand_taken hresume
  have hat : c.at d k = true := (at_iff c d k).2 ⟨hdie, hslot'⟩
  have hbusy : c.state ≠ .free := by rw [hstate]; decide
  rw [contenders_eq] at hbest
  generalize hwithout : s.mapDie d (fun y => { y with ready := y.ready.filter fun o => o.strand != x.strand }) = without at hresume
  have hready : (without.die d).ready = (s.die d).ready.filter fun o => o.strand != x.strand := by
    rw [← hwithout, die_mapDie, if_pos rfl]
  have hdispatch : s.dispatchResumed d k x = (without.count d 6 0 1 (if x.yielded then 0 else 1)).placeStrand c none := by
    unfold State.dispatchResumed
    simp only [hwithout, hresume]
  have hctx : (s.dispatchResumed d k x).ctx? d k = some c := by rw [hdispatch]; exact placeStrand_ctx? _ hat hbusy
  have hexec : exec (.dispatch d) s = .next ((s.dispatchResumed d k x).sliceOver d x.prio) := by
    change execDispatch d s = _
    unfold execDispatch
    simp only [hslot, hbest, hnew, Bool.false_eq_true, if_false, not_isFree hctx]
  refine ⟨_, hexec, hctx, hstate, hstrand, fun o ho => ?_⟩
  obtain ⟨y, hy, hys⟩ := sliceOver_ready _ _ ho
  have hqueue : ((s.dispatchResumed d k x).die d).ready = (without.die d).ready := by
    rw [hdispatch]
    refine (congrArg Prod.fst (placeStrand_queues _ c d)).trans ?_
    rw [Die.queues, State.die, count_dies]; rfl
  rw [hqueue, hready] at hy
  rw [← hys]
  simpa using (List.mem_filter.1 hy).2

theorem dispatch_new {i : Nat} (hi : s.nextIndex l = i) (hslot : s.pickSlot d = some k) (hbest : bestOf (s.contenders d) = some x)
    (hnew : x.isNew = true) (hcool : (s.die d).hot = false)
    (hfind : (s.fresh? d).find? (fun q => q.1.strand == x.strand) = some (x, e, l)) (hstaged : l.staged.contains (d, 8) = true)
    (hstage : s.hasStage l = false) (hstaging : s.staging d (ringOf k) l.node = false)
    (hstart : ((s.mapLive e l.header fun l => l.took i).count d 6 0 0 1).startStrand d k l i = some c) :
    Completes (.dispatch d) s fun t => t.ctx? d k = some c ∧ c.state = .running ∧ c.level = .strand ∧ c.strand = l.strand i ∧ c.getS 1 = word i
      ∧ c.deadline = l.deadline ∧ c.chunk = none ∧ ∀ y ∈ (t.die e).lives, y.header = l.header → y.next = i + 1 := by
  obtain ⟨htaken, hs1, hdeadline⟩ := startStrand_taken hstart
  obtain ⟨hdie, hslot', hstate, hstrand, hlevel, hchunk⟩ : c.die = d ∧ c.slot = k ∧ c.state = .running ∧ c.strand = l.strand i ∧ c.level = .strand ∧ c.chunk = none := by
    simpa [Ctx.taken] using htaken
  have hat : c.at d k = true := (at_iff c d k).2 ⟨hdie, hslot'⟩
  have hbusy : c.state ≠ .free := by rw [hstate]; decide
  rw [contenders_eq] at hbest
  simp only [hcool, Bool.false_eq_true, if_false] at hbest
  have hdispatch : s.dispatchNew d k e l = ((s.mapLive e l.header fun l => l.took i).count d 6 0 0 1).placeStrand c none := by
    unfold State.dispatchNew
    simp only [hstaged, hstage, hstaging, hi, hstart, if_true, Bool.false_and, Bool.false_eq_true, if_false]
  have hctx : (s.dispatchNew d k e l).ctx? d k = some c := by rw [hdispatch]; exact placeStrand_ctx? _ hat hbusy
  have hexec : exec (.dispatch d) s = .next ((s.dispatchNew d k e l).sliceOver d x.prio) := by
    change execDispatch d s = _
    unfold execDispatch
    simp only [hslot, hbest, hnew, hcool, hfind, Bool.false_eq_true, if_false, if_true, not_isFree hctx]
  refine ⟨_, hexec, hctx, hstate, hlevel, hstrand, hs1, hdeadline, hchunk, fun y hy hheader => ?_⟩
  have hlives : ((s.dispatchNew d k e l).die e).lives = mapIf (fun o => o.header == l.header) (fun o => o.took i) (s.die e).lives := by
    rw [hdispatch]
    refine (congrArg Prod.snd (placeStrand_queues _ c e)).trans ?_
    rw [Die.queues, State.die, count_dies]
    exact congrArg Die.lives ((die_mapDie s e e _).trans (if_pos rfl))
  rw [sliceOver_lives, hlives] at hy
  obtain ⟨o, -, rfl⟩ := List.mem_map.1 hy
  split at hheader
  next h => rw [if_pos h]; rfl
  next h => exact absurd (by simpa using hheader) h

end Sys2Proof.Machine
end

section
/-! SUPPORT. Waits that try again (R175, R191, R394): parked strands, wakes, retries and limits. -/

namespace Sys2Proof.Machine
variable {s : State} {d : DieId} {k : SlotNo} {c : Ctx} {w : Wait} {p : Parked} {n a : Nat} {rest : List Packet}

/-! ### Parked strands (R175, R191, R394) -/

/-- A parked strand that is ready again. -/
theorem unpark_ready (s : State) (d : DieId) (p : Parked) :
    (∀ q ∈ ((s.unpark d p).die d).parked, q.w.strand ≠ p.w.strand) ∧ { p.w with since := s.tick } ∈ ((s.unpark d p).die d).ready := by
  constructor
  · rw [State.unpark, State.makeReady, die_mapDie, if_pos rfl, State.dropReady, die_mapDie, if_pos rfl]
    intro q hq
    simpa using (List.mem_filter.1 hq).2
  · rw [State.unpark, makeReady_ready]
    exact List.mem_append_right _ (.head _)

/-- A parked strand that goes deep: its waiter entry is dropped first. -/
theorem deepPark_effect (s : State) (d : DieId) (p : Parked) :
    let t := ((s.recordTo d p.w rsDEEP).mapParked d p.w.strand fun p => { p with deep := true, w := { p.w with since := s.tick } }).count d 6 0 4 1
    (∀ q ∈ (t.die d).parked, q.w.strand = p.w.strand → q.deep = true ∧ q.w.since = s.tick) ∧ ∀ e, (t.die e).waiters = (s.die e).waiters := by
  intro t
  have hdie (e : DieId) : t.die e = ((s.recordTo d p.w rsDEEP).mapParked d p.w.strand fun p => { p with deep := true, w := { p.w with since := s.tick } }).die e := by
    rw [State.die, count_dies]; rfl
  constructor
  · rw [hdie, State.mapParked, die_mapDie, if_pos rfl]
    intro q hq hstrand
    obtain ⟨o, -, rfl⟩ := List.mem_map.1 hq
    split at hstrand
    next h => rw [if_pos h]; exact ⟨rfl, rfl⟩
    next h => exact absurd (by simpa using hstrand) h
  · intro e
    rw [hdie]
    refine Eq.trans ?_ (waiters_of_anchor (recordTo_anchor s d p.w rsDEEP) e)
    rw [State.mapParked, die_mapDie]
    split
    next h => subst h; rfl
    next => rfl

theorem dropWaiter_tick (s : State) (strand : Word) (home : DieId) : (s.dropWaiter strand home).tick = s.tick :=
  congrArg (fun a => a.2.2) (dropWaiter_place s strand home)

/-- No waiter entry of the strand is left at the home. -/
theorem dropWaiter_waiters (s : State) (strand : Word) (home : DieId) : ∀ q ∈ ((s.dropWaiter strand home).die home).waiters, q.strand ≠ strand := by
  have hfold (t : State) (gone : List Waiter) : (gone.foldl (fun s w => if w.what = .queue then s.qcount w.loc w.put false else s) t).anchor = t.anchor :=
    foldl_anchor (fun _ _ => anchor_of_ite (qcount_anchor ..) rfl) gone t
  unfold State.dropWaiter
  dsimp only
  rw [waiters_of_anchor (hfold _ _), die_mapDie, if_pos rfl]
  intro q hq
  simpa using (List.mem_filter.1 hq).2

theorem deepPark_completes (hparked : s.parkedOf p.w.strand = some (d, p)) (hdeep : p.deep = false) (hdue : p.w.since + 4096 ≤ s.tick) :
    Completes (.deepPark p.w.strand) s fun t => (∀ q ∈ (t.die d).parked, q.w.strand = p.w.strand → q.deep = true ∧ q.w.since = s.tick)
      ∧ (p.wait.what ≠ .group → ∀ q ∈ (t.die (homeOf p.wait.loc)).waiters, q.strand ≠ p.w.strand) := by
  have hnot : ¬ s.tick < p.w.since + Config.spinTicks := by simp [Config.spinTicks]; omega
  have hexec : exec (.deepPark p.w.strand) s = execDeepPark p.w.strand s := rfl
  rw [Completes, hexec]
  unfold execDeepPark
  simp only [hparked, hdeep, hnot, Bool.false_eq_true, or_self, if_false]
  by_cases hgroup : p.wait.what = .group
  · obtain ⟨hdeep, -⟩ := deepPark_effect s d p
    rw [if_pos hgroup]
    exact ⟨_, rfl, hdeep, fun h => absurd hgroup h⟩
  · obtain ⟨hdeep, hwaiters⟩ := deepPark_effect (s.dropWaiter p.w.strand (homeOf p.wait.loc)) d p
    rw [if_neg hgroup]
    refine ⟨_, rfl, fun q hq hstrand => ?_, fun _ => ?_⟩
    · obtain ⟨hq, hsince⟩ := hdeep q hq hstrand
      exact ⟨hq, hsince.trans (dropWaiter_tick ..)⟩
    · rw [hwaiters]
      exact dropWaiter_waiters _ _ _

theorem exec_deepRetry (hparked : s.parkedOf p.w.strand = some (d, p)) (hdeep : p.deep = true)
    (hdue : p.w.since + max 1 (bits (s.die d).regs.rsvctl 16 16) * 1024 ≤ s.tick) : exec (.deepRetry p.w.strand) s = .next (s.unpark d p) := by
  change execDeepRetry p.w.strand s = _
  unfold execDeepRetry
  simp only [hparked]
  rw [if_pos ⟨hdeep, hdue⟩]

/-! ### Waits of slots that try again -/

/-- A slot whose wait is over. -/
def Ctx.awoken (c : Ctx) : Ctx := { c with wait := c.wait.map fun w => { w with woken := true, entry := false } }

theorem at_of_key {f : Ctx → Ctx} (hf : ∀ o, (f o).key = o.key) (d : DieId) (k : SlotNo) (o : Ctx) : (f o).at d k = o.at d k := by
  have hkey := hf o
  rw [Ctx.key, Ctx.key, Prod.mk.injEq, Prod.mk.injEq] at hkey
  rw [Ctx.at, hkey.1, hkey.2.1]; rfl

theorem at_unique {e : DieId} {o : SlotNo} {c : Ctx} (h : c.at e o = true) : c.at d k = true ↔ e = d ∧ o = k := by
  obtain ⟨rfl, rfl⟩ := (at_iff c e o).1 h
  exact at_iff c d k

/-- A slot after a change of one slot that leaves it where it is. -/
theorem mapCtx_ctx? {f : Ctx → Ctx} (hf : ∀ o, (f o).key = o.key) (d : DieId) (k : SlotNo) {e : DieId} {o : SlotNo} (hctx : s.ctx? e o = some c) :
    (s.mapCtx d k f).ctx? e o = some (if e = d ∧ o = k then f c else c) := by
  have hstate : (f s.me).state = s.me.state := congrArg (fun a => a.2.2.1) (hf s.me)
  have hc := ctx?_at hctx
  unfold State.ctx? at hctx
  unfold State.mapCtx
  split at hctx
  next hme =>
    split at hctx
    · cases hctx
    next hfree =>
      obtain rfl := Option.some.inj hctx
      split
      next hat => rw [State.ctx?, at_of_key hf, if_pos hme, hstate, if_neg hfree, if_pos ((at_unique hme).1 hat)]
      next hat => rw [State.ctx?, if_pos hme, if_neg hfree, if_neg fun h => hat ((at_unique hme).2 h)]
  next hme =>
    split
    next hat =>
      have hne : ¬ (e = d ∧ o = k) := by rintro ⟨rfl, rfl⟩; exact hme hat
      rw [State.ctx?, at_of_key hf, if_neg hme, hctx, if_neg hne]
    next =>
      have hpred : (fun c : Ctx => (if c.at d k = true then f c else c).at e o) = fun c => c.at e o := by
        funext c
        split
        · exact at_of_key hf e o c
        · rfl
      rw [State.ctx?, if_neg hme]
      simp only [mapIf, List.find?_map, Function.comp_def, hpred, hctx, Option.map_some, at_unique hc]

theorem wakeCtx_ctx? (hctx : s.ctx? d k = some c) : (s.wakeCtx d k).ctx? d k = some c.awoken :=
  (mapCtx_ctx? (by intro _; rfl) d k hctx).trans (congrArg some (if_pos ⟨rfl, rfl⟩))

/-- A wait that is there is over. -/
theorem awoken_wait {f : Wait → Bool} (h : c.wait.any f = true) : c.awoken.wait.any (fun w => w.woken) = true := by
  unfold Ctx.awoken
  cases hw : c.wait with
  | none => rw [hw] at h; cases h
  | some w => rfl

theorem mapCtx_net (s : State) (f : Ctx → Ctx) : (s.mapCtx d k f).net = s.net := by
  unfold State.mapCtx; split <;> rfl

theorem wakeUp_slot (harrive : s.arrive n = some (.wake d p.w.strand a, rest))
    (hfind : s.busy.find? (fun o => o.strand == p.w.strand && o.wait.any fun w => w.hears a) = some c) (hctx : s.ctx? c.die c.slot = some c)
    (hsent : c.sent = none) (hanswer : c.answer = none) :
    Completes (.wakeUp n) s fun t => (∃ o, t.ctx? c.die c.slot = some o ∧ o.wait.any (fun w => w.woken) = true) ∧ t.net = rest := by
  have hexec : exec (.wakeUp n) s = .next (({ s with net := rest } : State).wakeCtx c.die c.slot) := by
    change execWakeUp n s = _
    unfold execWakeUp
    simp [harrive, hfind, hsent, hanswer]
  have hhears := (Bool.and_eq_true_iff.1 (List.find?_some (p := fun o : Ctx => o.strand == p.w.strand && o.wait.any fun w => w.hears a) hfind)).2
  exact ⟨_, hexec, ⟨c.awoken, wakeCtx_ctx? hctx, awoken_wait hhears⟩, mapCtx_net ..⟩

theorem wakeUp_waits (harrive : s.arrive n = some (.wake d p.w.strand a, rest))
    (hfind : s.busy.find? (fun o => o.strand == p.w.strand && o.wait.any fun w => w.hears a) = some c) (hsent : c.sent.isSome = true) :
    exec (.wakeUp n) s = .next s := by
  change execWakeUp n s = _
  unfold execWakeUp
  simp [harrive, hfind, hsent]

theorem wakeUp_parked (harrive : s.arrive n = some (.wake d p.w.strand a, rest)) (haway : ∀ o ∈ s.busy, o.strand ≠ p.w.strand)
    (hfind : (s.die d).parked.find? (fun q => q.w.strand == p.w.strand && q.wait.hears a && (!q.deep || q.wait.what == .group)) = some p) :
    exec (.wakeUp n) s = .next (({ s with net := rest } : State).unpark d p) := by
  have hnone (f : Ctx → Bool) : s.busy.find? (fun o => o.strand == p.w.strand && f o) = none := by
    rw [List.find?_eq_none]
    intro o ho
    simp [haway o ho]
  have hany : (s.busy.any fun o => o.strand == p.w.strand && (o.sent.isSome || o.answer.isSome)) = false := by
    rw [List.any_eq_false]
    intro o ho
    simp [haway o ho]
  change execWakeUp n s = _
  unfold execWakeUp
  simp only [harrive, hnone, hany, hfind, Bool.false_eq_true, if_false]

/-- A request without a waiter entry that is due tries again. -/
theorem retry_ctx? (hctx : s.ctx? d k = some c) (hwait : c.wait = some w) :
    (s.wakeCtx d k).ctx? d k = some { c with wait := some { w with woken := true, entry := false } } ∧ (s.wakeCtx d k).mem = s.mem := by
  constructor
  · rw [wakeCtx_ctx? hctx, Ctx.awoken, hwait]; rfl
  · exact mapCtx_mem ..

theorem retryDue_of_due (hwait : c.wait = some w) (hwoken : w.woken = false) (hentry : w.entry = false) (hdue : w.retryAt ≤ s.tick) (barrier : Bool)
    (hwhat : (w.what == .barrier) = barrier) (hkind : (w.what == .fullEmpty || w.what == .queue || w.what == .barrier) = true) :
    c.retryDue s.tick barrier = true := by
  simpa [Ctx.retryDue, hwait, hwoken, hentry, hdue, hwhat] using hkind

theorem exec_nackRetry (hctx : s.ctx? d k = some c) (hdue : c.retryDue s.tick false = true) : exec (.nackRetry d k) s = .next (s.wakeCtx d k) := by
  change execNackRetry d k s = _
  simp [execNackRetry, hctx, hdue]

theorem exec_bwaitPoll (hctx : s.ctx? d k = some c) (hdue : c.retryDue s.tick true = true) : exec (.bwaitPoll d k) s = .next (s.wakeCtx d k) := by
  change execBwaitPoll d k s = _
  simp [execBwaitPoll, hctx, hdue]

/-! ### The limit of a wait at a barrier (R191) -/

/-- A strand that waits for elements of no queue gives its entries up without touching a slot. -/
theorem dropWaiter_ctx? (strand : Word) (home : DieId) (h : ∀ q ∈ (s.die home).waiters, q.strand = strand → q.what ≠ .queue) (e : DieId) (o : SlotNo) :
    (s.dropWaiter strand home).ctx? e o = s.ctx? e o := by
  have hgone : ∀ q ∈ (s.die home).waiters.filter (fun w => w.strand == strand), q.what ≠ .queue := fun q hq =>
    h q (List.mem_of_mem_filter hq) (by simpa using (List.mem_filter.1 hq).2)
  have hfold (l : List Waiter) (hl : ∀ q ∈ l, q.what ≠ .queue) (t : State) :
      l.foldl (fun s w => if w.what = .queue then s.qcount w.loc w.put false else s) t = t := by
    induction l with
    | nil => rfl
    | cons q l ih =>
      rw [List.foldl_cons, if_neg (hl q (.head _))]
      exact ih fun q hq => hl q (.tail _ hq)
  exact (congrArg (fun t => t.ctx? e o) (hfold _ hgone _)).trans rfl

theorem bwaitTimeout_slot (hfind : s.busy.find? (fun o => o.strand == c.strand && o.wait.any fun w => w.what == .barrier && decide (w.t0 + w.lim ≤ s.tick)) = some c)
    (hctx : s.ctx? c.die c.slot = some c) (hqueue : ∀ q ∈ (s.die (homeOf w.loc)).waiters, q.strand = c.strand → q.what ≠ .queue) (hwait : c.wait = some w) :
    Completes (.bwaitTimeout c.strand) s fun t => ∃ o, t.ctx? c.die c.slot = some o ∧ o.wait.any (fun w => w.woken) = true := by
  have hexec : exec (.bwaitTimeout c.strand) s = .next ((s.dropWaiter c.strand (homeOf w.loc)).wakeCtx c.die c.slot) := by
    change execBwaitTimeout c.strand s = _
    unfold execBwaitTimeout
    simp only [hfind, hwait]
  refine ⟨_, hexec, c.awoken, wakeCtx_ctx? ((dropWaiter_ctx? _ _ hqueue ..).trans hctx), ?_⟩
  simp [Ctx.awoken, hwait]

theorem bwaitTimeout_parked (hparked : s.parkedOf p.w.strand = some (d, p)) (haway : ∀ o ∈ s.busy, o.strand ≠ p.w.strand)
    (hwhat : p.wait.what = .barrier) (hlim : p.wait.t0 + p.wait.lim ≤ s.tick) :
    exec (.bwaitTimeout p.w.strand) s = .next ((s.dropWaiter p.w.strand (homeOf p.wait.loc)).unpark d p) := by
  have hnone (f : Ctx → Bool) : s.busy.find? (fun o => o.strand == p.w.strand && f o) = none := by
    rw [List.find?_eq_none]
    intro o ho
    simp [haway o ho]
  change execBwaitTimeout p.w.strand s = _
  unfold execBwaitTimeout
  simp [hnone, hparked, hwhat, hlim]

end Sys2Proof.Machine
end

section
/-! SUPPORT. Formations and packets that take too long, and strands that migrate (R33, R215, R400, R401). -/

namespace Sys2Proof.Machine
variable {s : State} {d e : DieId} {k : SlotNo} {c : Ctx} {g : Group} {f : Forming}

/-! ### A formation that takes too long (R215, R448) -/

theorem mem_allDies (d : DieId) : d ∈ allDies := by
  rw [allDies, List.mem_map]
  exact ⟨d.val, List.mem_range.2 d.isLt, Fin.ofNat_val_eq_self d⟩

/-- The formation of a strand that has run out of time, in one die's groups. -/
def State.overdueForm (s : State) (strand : Word) (d : DieId) : Option (DieId × Group) :=
  (s.die d).groups.findSome? fun g => g.forming.bind fun f => if f.strand = strand ∧ f.since + f.tmo ≤ s.tick then some (d, g) else none

theorem exec_gformTimeout (s : State) (strand : Word) : exec (.gformTimeout strand) s = match allDies.findSome? (s.overdueForm strand) with
    | none => .next s
    | some (d, g) => .next (s.formFail d g gTIMEOUT) := rfl

theorem overdueForm_eq_some {strand : Word} {p : DieId × Group} (h : s.overdueForm strand d = some p) :
    p.1 = d ∧ p.2 ∈ (s.die d).groups ∧ p.2.forming.any (fun q => q.strand == strand) = true := by
  obtain ⟨o, ho, hsome⟩ := List.exists_of_findSome?_eq_some h
  obtain ⟨q, hforming, hif⟩ := Option.bind_eq_some_iff.1 hsome
  split at hif
  next hq =>
    rw [← Option.some.inj hif]
    exact ⟨rfl, ho, by simp [hforming, hq.1]⟩
  next => cases hif

theorem find_overdueForm (hg : g ∈ (s.die d).groups) (hforming : g.forming = some f) (hdue : f.since + f.tmo ≤ s.tick)
    (honly : ∀ e, ∀ o ∈ (s.die e).groups, o.forming.any (fun q => q.strand == f.strand) = true → e = d ∧ o = g) :
    allDies.findSome? (s.overdueForm f.strand) = some (d, g) := by
  cases hfind : allDies.findSome? (s.overdueForm f.strand) with
  | none =>
    have hdie := List.findSome?_eq_none_iff.1 hfind d (mem_allDies d)
    have hnone := List.findSome?_eq_none_iff.1 hdie g hg
    simp [hforming, hdue] at hnone
  | some p =>
    obtain ⟨e, -, he⟩ := List.exists_of_findSome?_eq_some hfind
    obtain ⟨hp, hmem, hany⟩ := overdueForm_eq_some he
    obtain ⟨hed, hpg⟩ := honly e p.2 hmem hany
    exact congrArg some (Prod.ext (hp.trans hed) hpg)

/-- A die whose waiting `gform` has its outcome. -/
def Die.formDone (x : Die) (g : Group) (strand : Word) (status : BitVec 8) : Die :=
  { x with
    groups := (if g.state = .free then [] else [{ g with forming := none, regs := [] }]) ++ x.groups.filter fun o => o.handle != g.handle
    formed := x.formed ++ [⟨strand, g.handle, status, g.gen⟩] }

theorem formDone_effect (s : State) (d : DieId) (g : Group) (strand : Word) (status : BitVec 8) :
    let t := s.formDone d g strand status
    t.group? d g.handle = (if g.state = .free then none else some { g with forming := none, regs := [] })
      ∧ (⟨strand, g.handle, status, g.gen⟩ : FormDone) ∈ (t.die d).formed ∧ .wake d strand g.handle.toNat ∈ t.net := by
  intro t
  have hdie : t.die d = (s.die d).formDone g strand status := (die_mapDie s d d fun x => x.formDone g strand status).trans (if_pos rfl)
  have hothers : ((s.die d).groups.filter fun o => o.handle != g.handle).find? (fun o => o.handle == g.handle) = none := by
    rw [List.find?_eq_none]
    intro o ho
    simpa using (List.mem_filter.1 ho).2
  refine ⟨?_, ?_, List.mem_append_right _ (.head _)⟩
  · rw [State.group?, hdie, Die.formDone]
    split
    · exact hothers
    · simp
  · rw [hdie]
    exact List.mem_append_right _ (.head _)

theorem gformTimeout_completes (hg : g ∈ (s.die d).groups) (hforming : g.forming = some f) (hdue : f.since + f.tmo ≤ s.tick)
    (honly : ∀ e, ∀ o ∈ (s.die e).groups, o.forming.any (fun q => q.strand == f.strand) = true → e = d ∧ o = g) :
    Completes (.gformTimeout f.strand) s fun t =>
      t.group? d g.handle = (if g.prior = .free then none else some { g with state := g.prior, forming := none, regs := [] })
      ∧ (⟨f.strand, g.handle, gTIMEOUT, g.gen⟩ : FormDone) ∈ (t.die d).formed ∧ .wake d f.strand g.handle.toNat ∈ t.net := by
  refine ⟨_, by rw [exec_gformTimeout, find_overdueForm hg hforming hdue honly], ?_⟩
  rw [State.formFail, hforming]
  exact formDone_effect s d { g with state := g.prior } f.strand gTIMEOUT

/-! ### Late packets (R400, R402) -/

theorem ctrGet_ctrSet (a : Nat) (x : Word) (m : List (Nat × Word)) : ctrGet (ctrSet a x m) a = x := by
  unfold ctrSet
  split
  next h =>
    subst h
    induction m with
    | nil => rfl
    | cons p m ih =>
      by_cases hp : p.1 = a
      · simpa [hp] using ih
      · simp only [List.filter_cons, bne_iff_ne, ne_eq, hp, not_false_iff, if_true, ctrGet, Ne.symm hp, if_false, ih]
        exact ite_self _
  next =>
    induction m with
    | nil => simp [ctrPut, ctrGet]
    | cons p m ih =>
      unfold ctrPut
      split
      · simp [ctrGet]
      next hne =>
        split
        · simp [ctrGet]
        next hge => simp only [ctrGet, hne, hge, if_false, ih]

theorem count_counter (s : State) (e : DieId) (kind inst ix : Nat) : (s.count e kind inst ix 1).counter e kind inst ix = s.counter e kind inst ix + 1 := by
  rw [State.count, if_neg (by decide)]
  exact ctrGet_ctrSet ..

theorem mapCtx_ctr (s : State) (d : DieId) (k : SlotNo) (f : Ctx → Ctx) : (s.mapCtx d k f).ctr = s.ctr := by
  unfold State.mapCtx; split <;> rfl

/-- The words that a die reads as an agent stand in memory, in the lines of the dies and on their way between them. -/
theorem lateen_congr {t : State} {o : Ctx} (hmem : t.mem = s.mem) (hlost : t.lost = s.lost) (hdies : t.dies = s.dies) (hnet : t.net = s.net)
    (hdie : o.die = c.die) (hheader : o.header = c.header) : t.lateen o = s.lateen c := by
  have hhome (a : Nat) : t.homeByte a = s.homeByte a := by rw [State.homeByte, State.homeByte, hmem, hlost]
  have hat (d : DieId) : t.die d = s.die d := by rw [State.die, hdies]; rfl
  have hcoming (d : DieId) (a : Nat) : t.comingByte d a = s.comingByte d a := by rw [State.comingByte, State.comingByte, hat, hnet]
  have hseen (d : DieId) (a : Nat) : t.dieByte d none [] a = s.dieByte d none [] a := by
    unfold State.dieByte
    rw [hat, hhome]
  have hbyte (d : DieId) (a : Nat) : t.agentByte d a = s.agentByte d a := by
    unfold State.agentByte
    rw [hseen, hcoming, hhome]
  have hread : t.agentByte c.die = s.agentByte c.die := funext (hbyte c.die)
  rw [State.lateen, State.lateen, State.launchFlags, State.launchFlags, hdie, hheader, State.walkRead, State.walkRead, hread]

/-- The strands of the slots in use are those of their keys. -/
theorem busy_strands_of_place {t : State} (h : t.place = s.place) : t.busy.map Ctx.strand = s.busy.map Ctx.strand := by
  have hbusy (u : State) : u.busy.map Ctx.strand = (if u.place.1.2.2.1 = .free then [] else [u.place.1.2.2.2.1]) ++ u.place.2.1.map fun a => a.2.2.2.1 := by
    by_cases hfree : u.me.state = .free <;> simp [State.busy, State.place, Ctx.key, hfree, Function.comp_def]
  rw [hbusy, hbusy, h]

/-- A slot after a change of every slot that leaves each where it is. -/
theorem mapSlots_ctx? {t : State} {f : Ctx → Ctx} (hf : ∀ o, (f o).key = o.key) (hme : t.me = f s.me) (hothers : t.others = s.others.map f)
    (hctx : s.ctx? d k = some c) : t.ctx? d k = some (f c) := by
  have hstate : (f s.me).state = s.me.state := congrArg (fun a => a.2.2.1) (hf s.me)
  unfold State.ctx? at hctx ⊢
  rw [hme, hothers, at_of_key hf, hstate]
  split at hctx
  next hat =>
    rw [if_pos hat]
    split at hctx
    · cases hctx
    next hfree => rw [if_neg hfree, Option.some.inj hctx]
  next hnot =>
    rw [if_neg hnot, List.find?_map]
    simp only [Function.comp_def, at_of_key hf, hctx, Option.map_some]

/-- The mark of a late packet on a slot of its strand. -/
def State.marked (s : State) (strand : Word) (c : Ctx) : Ctx :=
  if c.strand = strand ∧ c.state ≠ .free ∧ !c.latet ∧ s.lateen c then { c with latem := true } else c

theorem marked_key (s : State) (strand : Word) (c : Ctx) : (s.marked strand c).key = c.key := by
  unfold State.marked; split <;> rfl

theorem markLate_of_busy {strand : Word} (h : ∃ o ∈ s.busy, o.strand = strand) :
    s.markLate strand = { s with me := s.marked strand s.me, others := s.others.map (s.marked strand) } := by
  obtain ⟨o, ho, hstrand⟩ := h
  have hany : (s.busy.any fun c => c.strand == strand) = true := List.any_eq_true.2 ⟨o, ho, by simp [hstrand]⟩
  unfold State.markLate
  rw [if_pos hany]; rfl

theorem marked_latem {strand : Word} (hstate : c.state ≠ .free) (hstrand : c.strand = strand) : (s.marked strand c).latem = (c.latem || (s.lateen c && !c.latet)) := by
  unfold State.marked
  cases hl : c.latet <;> cases he : s.lateen c <;> simp [hstate, hstrand]

/-- A packet late at a die, counted there. -/
def State.lateCounted (s : State) (d : DieId) (late : LateAt) : State :=
  match late with
  | .access k => (s.count d 6 0 10 1).mapCtx d k fun c => { c with overdue := c.overdue - 1 }
  | _ => s.count d 6 0 10 1

theorem lateCounted_kept (s : State) (d : DieId) (late : LateAt) : (s.lateCounted d late).mem = s.mem ∧ (s.lateCounted d late).lost = s.lost
    ∧ (s.lateCounted d late).dies = s.dies ∧ (s.lateCounted d late).net = s.net ∧ (s.lateCounted d late).anchor = s.anchor
    ∧ (s.lateCounted d late).counter d 6 0 10 = s.counter d 6 0 10 + 1 := by
  have hcount := count_counter s d 6 0 10
  unfold State.lateCounted
  split
  next k =>
    refine ⟨?_, ?_, ?_, ?_, (mapCtx_anchor _ (by intro _; rfl) _ _).trans (count_anchor ..), ?_⟩
    · rw [mapCtx_mem, count_mem]
    · exact Eq.trans (by unfold State.mapCtx; split <;> rfl) (count_lost s d 6 0 10 1)
    · exact Eq.trans (by unfold State.mapCtx; split <;> rfl) (count_dies s d 6 0 10 1)
    · exact Eq.trans (by unfold State.mapCtx; split <;> rfl) (count_net s d 6 0 10 1)
    · rw [State.counter, mapCtx_ctr]
      exact hcount
  next => exact ⟨count_mem .., count_lost .., count_dies .., count_net .., count_anchor .., hcount⟩

/-- Counting a late packet changes in a slot how many of its accesses are overdue. -/
theorem lateCounted_ctx? (d : DieId) (late : LateAt) (hctx : s.ctx? e k = some c) : ∃ n, (s.lateCounted d late).ctx? e k = some { c with overdue := n } := by
  have hcount := (count_ctx? s d 6 0 10 1).trans hctx
  unfold State.lateCounted
  split
  next o =>
    rw [mapCtx_ctx? (by intro _; rfl) d o hcount]
    split
    · exact ⟨_, rfl⟩
    · exact ⟨c.overdue, rfl⟩
  next => exact ⟨c.overdue, hcount⟩

theorem exec_lateMark {late : LateAt} {due : Word} {st : Option Word} (hdue : s.lateDue d late = some (due, st)) (hlate : due.toNat < s.tick) :
    exec (.lateMark d late) s = .next (st.elim (s.lateCounted d late) (s.lateCounted d late).markLate) := by
  change execLateMark d late s = _
  unfold execLateMark State.lateCounted
  simp only [hdue, if_neg (Nat.not_le.2 hlate)]
  cases st with
  | none => cases late <;> rfl
  | some x => cases late <;> rfl

theorem lateMark_completes {late : LateAt} {due : Word} {st : Option Word} (hdue : s.lateDue d late = some (due, st)) (hlate : due.toNat < s.tick)
    (hhere : ∀ x, st = some x → ∃ o ∈ s.busy, o.strand = x) : Completes (.lateMark d late) s fun t =>
      t.mem = s.mem ∧ t.counter d 6 0 10 = s.counter d 6 0 10 + 1
      ∧ ∀ c, s.ctx? e k = some c → c.state ≠ .free → st = some c.strand → ∃ o, t.ctx? e k = some o ∧ o.latem = (c.latem || (s.lateen c && !c.latet)) := by
  obtain ⟨hmem, hlost, hdies, hnet, hanchor, hcounter⟩ := lateCounted_kept s d late
  refine ⟨_, exec_lateMark hdue hlate, ?_⟩
  cases st with
  | none => exact ⟨hmem, hcounter, fun c _ _ h => by cases h⟩
  | some x =>
    have hbusy : ∃ o ∈ (s.lateCounted d late).busy, o.strand = x := by
      obtain ⟨o, ho, hstrand⟩ := hhere x rfl
      rw [← List.mem_map, busy_strands_of_place (place_of_anchor hanchor), List.mem_map]
      exact ⟨o, ho, hstrand⟩
    rw [Option.elim_some, markLate_of_busy hbusy]
    refine ⟨hmem, hcounter, fun c hctx hstate hst => ?_⟩
    obtain ⟨n, hctx'⟩ := lateCounted_ctx? d late hctx
    refine ⟨_, mapSlots_ctx? (marked_key _ x) rfl rfl hctx', ?_⟩
    have hlateen : (s.lateCounted d late).lateen { c with overdue := n } = s.lateen c := lateen_congr hmem hlost hdies hnet rfl rfl
    refine (marked_latem (c := { c with overdue := n }) hstate (Option.some.inj hst).symm).trans ?_
    rw [hlateen]

theorem lateMark_early {late : LateAt} {due : Word} {st : Option Word} (hdue : s.lateDue d late = some (due, st)) (hlate : s.tick ≤ due.toNat) :
    exec (.lateMark d late) s = .next s := by
  change execLateMark d late s = _
  unfold execLateMark
  simp only [hdue, if_pos hlate]

/-! ### A marked strand traps (R401) -/

theorem clearResv_me (s : State) (c : Ctx) : (s.clearResv c).me = s.me :=
  foldl_keeps State.me _ (fun t d => by split <;> rfl) _ _

theorem clearResv_others (s : State) (c : Ctx) : (s.clearResv c).others = s.others :=
  foldl_keeps State.others _ (fun t d => by split <;> rfl) _ _

/-- The trap of a late strand that runs outside a region and waits for nothing. -/
theorem takeLate_eq (hchunk : s.me.chunk = none) (hlevel : s.me.level = .strand) (hreq : s.me.stopReq = none) (hwait : s.me.wait = none) :
    s.takeLate = ((s.clearResv s.me).count s.me.die 6 0 11 1).mapMe fun c => c.enter (.of cLATE s.me.deadline) false := by
  have hstop : s.stopFirst = false := by rw [State.stopFirst, hreq]; rfl
  have hhalt : s.haltsOn (.of cLATE s.me.deadline) = false := by simp [State.haltsOn, Trap.of, cLATE, cBRK, cWATCH]
  have hleave : s.leaveWait = s := by simp [State.leaveWait, hwait]
  have hcode : (Trap.of cLATE s.me.deadline).code = cLATE := rfl
  unfold State.takeLate State.takeTrap
  simp [hstop, hlevel, hhalt, State.afterDrain, endSpeculation_serial, drainStep_serial, drained_serial, hchunk, hleave, hcode]

/-- With no chunk and no vector instruction under way, the trap LATE is entered from the slot as it stands. -/
theorem flushPart_handles (hchunk : c.chunk = none) (hpart : c.part = none) : ({ c with chunk := c.chunk.map Chunk.handles } : Ctx).flushPart = c := by
  have hmap : ({ c with chunk := c.chunk.map Chunk.handles } : Ctx) = c := by cases c; simp_all
  rw [hmap, Ctx.flushPart, hpart]

theorem enter_late_keeps (hchunk : c.chunk = none) (hpart : c.part = none) (tval : Word) :
    Ctx.noTrap (c.enter (.of cLATE tval) false).still.noCounts = Ctx.noTrap ({ c with latem := false, latet := true } : Ctx).still.noCounts := by
  unfold Ctx.enter
  simp only [flushPart_handles hchunk hpart, Trap.of, beq_self_eq_true, Bool.not_true, Bool.and_false, Bool.or_true]
  rfl

theorem enter_key (t : Trap) (held : Bool) : (c.enter t held).key = c.key := by
  unfold Ctx.enter Ctx.flushPart
  dsimp only
  split <;> rfl

/-- LATE is taken from a slot that runs outside a region, waits for nothing and stands under no stop. -/
theorem lateTrap_enters (hctx : s.ctx? d k = some s.me) (hrun : s.me.state = .running) (hlevel : s.me.level = .strand) (hlatem : s.me.latem = true)
    (hlatet : s.me.latet = false) (hchunk : s.me.chunk = none) (hsent : s.me.sent = none) (hanswer : s.me.answer = none) (hwait : s.me.wait = none)
    (hpart : s.me.part = none) (hreq : s.me.stopReq = none) (hstep : s.me.stepDue = false) (hending : s.me.ending = false) :
    Completes (.lateTrap d k) s fun t => EnteredTrap (s.mapMe fun c => { c with latem := false, latet := true }) t cLATE s.me.pc s.me.deadline := by
  have hat := ctx?_at hctx
  have htake := takeLate_eq hchunk hlevel hreq hwait
  have hme : s.takeLate.me = s.me.enter (.of cLATE s.me.deadline) false := by rw [htake, mapMe_me, count_me, clearResv_me]
  have hslot : s.inSlot d k (fun s => s.takeLate) = s.takeLate := by
    rw [State.inSlot, focus_of_at hat]
    refine focus_of_at ?_
    rw [hme, at_of_key (f := fun c => c.enter (.of cLATE s.me.deadline) false) (fun _ => enter_key _ _)]
    exact (at_iff _ _ _).2 ⟨rfl, rfl⟩
  have hexec : exec (.lateTrap d k) s = .next s.takeLate := by
    rw [← hslot]
    change execLateTrap d k s = _
    unfold execLateTrap
    simp [hctx, hrun, Ctx.lateDue, hlatem, hlatet, hlevel, Ctx.speculative, hchunk, hsent, hanswer, hpart, hreq, hstep, hending]
  obtain ⟨hepc, hcause, htval, hsystem, hpc⟩ := enter_writes s.me (.of cLATE s.me.deadline) false
  rw [flushPart_handles hchunk hpart] at hepc hcause hpc
  refine ⟨_, hexec, ?_, ?_, ?_, ?_, ?_, ?_, ?_, ?_⟩
  · rw [hme, hepc, Ctx.epcOf]
    simp [Trap.of, word]
  · rw [hme, hcause, Ctx.causeOf, mapMe_me]
    simp [hlevel, Trap.of, cLATE]
  · rw [hme, htval]; rfl
  · rw [hme, hsystem]
  · rw [hme, hpc]; rfl
  · rw [htake, mapMe_mem, count_mem, clearResv_mem]; rfl
  · rw [htake, mapMe_others, count_others, clearResv_others]; rfl
  · rw [SlotKept, hme]
    exact enter_late_keeps hchunk hpart _

/-! ### Migration (R33) -/

theorem migrationArrival_completes {n : Nat} {rest : List Packet} {x : Waiting} (harrive : s.arrive n = some (.migrate x e d, rest)) :
    Completes (.migrationArrival n) s fun t =>
      t.net = rest ∧ (t.die d).ready = (s.die d).ready ++ [{ x with since := s.tick }] ∧ t.mem = s.mem ∧ t.busy = s.busy := by
  have hexec : exec (.migrationArrival n) s = .next (({ s with net := rest } : State).makeReady d { x with since := s.tick }) := by
    change execMigrationArrival n s = _
    unfold execMigrationArrival
    simp only [harrive]
  exact ⟨_, hexec, rfl, makeReady_ready .., rfl, rfl⟩

end Sys2Proof.Machine
end

section
/-! SUPPORT. The events of the reservoirs together (R33, R384 to R413). -/

namespace Sys2Proof.Machine

/-- Settles O49. Each event's effect is a lemma of its own above: the order of the queue and the slot picked (`keys_of_keyed`,
`bestOf_least`, `pickSlot_least`), strands that take a slot (`dispatch_resumed`, `dispatch_new`) and that leave one, where the slots stay
in place while the leaving one is saved (`inSlot_ctx?`, `quiesce_place`, `saveStrand_spots`), waits that try again (`wakeCtx_ctx?`,
`unpark_ready`) and lateness (`lateMark_completes`, `lateTrap_enters`). -/
theorem schedulingEvents : Obligations.SchedulingEvents := by
  unfold Obligations.SchedulingEvents
  intro d e k n a s u c w p x l g f late due st rest y queue o
  dsimp only
  refine ⟨first_of_prio, first_of_sliced, ?resumed, ?yielded, ?bothYielded, bestOf_eq_none_iff queue, ?best, ?picked, ?unpicked, ?dispatch, ?stops, ?park,
    ?parked, ?wake, ?retry, ?bwait, ?gform, ?cancel, lateMark_completes, lateMark_early, ?lateTrap, migrationArrival_completes⟩
  case resumed =>
    rintro ⟨hp, hs⟩ hx hy
    exact keys_of_keyed (before_of_resumed hp hs hx hy) (before_of_resumed hp.symm hs.symm hy hx)
  case yielded =>
    rintro ⟨hp, hs⟩ hx hy
    refine ⟨first_of_yielded hp hs hx hy, fun hsince => ?_⟩
    obtain ⟨hxy, hyx⟩ := before_yielded hp hs hx hy hsince
    exact ⟨keys_of_keyed hxy hyx, keys_of_keyed hyx hxy⟩
  case bothYielded =>
    rintro ⟨hp, hs⟩
    exact first_of_both_yielded hp hs
  case best => exact fun h => ⟨bestOf_mem h, fun hq => bestOf_least hq h⟩
  case picked =>
    intro h
    obtain ⟨htakes, hleast⟩ := pickSlot_least h
    exact ⟨htakes, hleast o⟩
  case unpicked => exact fun h => not_takes_of_pickSlot h k
  case dispatch =>
    intro hslot hbest
    exact ⟨fun hnew hresume => dispatch_resumed hslot hbest hnew hresume,
      fun hnew hcool hfind hstaged hstage hstaging hstart => dispatch_new rfl hslot hbest hnew hcool hfind hstaged hstage hstaging hstart⟩
  case stops =>
    rintro ⟨hctx, -, -⟩ hrun hreq
    refine ⟨fun hlater hleave => ?preempted, fun hlevel => ?system, fun hlater hq hdue hpress hleave => ?quantum⟩
    case preempted =>
      obtain ⟨hfree, w, hw, hstrand, hnew, -⟩ := stopNow_ready (.inr rfl) ((count_ctx? ..).trans hctx) hlater hreq hleave
      exact ⟨_, exec_preemption hctx hrun hreq, hfree, w, hw, hstrand, hnew⟩
    case system =>
      exact ⟨_, exec_preemption hctx hrun hreq, preemption_system hctx hrun hreq hlevel _, preemption_system_mem hctx hreq hlevel _⟩
    case quantum =>
      obtain ⟨hfree, w, hw, hstrand, hnew, hsliced⟩ := stopNow_ready (.inl rfl) ((count_ctx? ..).trans hctx) hlater hreq hleave
      exact ⟨_, exec_quantumExpiry hctx hrun hreq hq hdue hpress, ⟨hfree, w, hw, hstrand, hnew⟩, w, hw, hstrand, hsliced⟩
  case park =>
    rintro ⟨hctx, -, -⟩ hwait hwoken hdue hlevel hsent hreq hleave
    exact ⟨_, exec_park hctx hwait hwoken hdue hlevel hsent hreq, park_completes hctx hleave⟩
  case parked =>
    intro hparked
    refine ⟨deepPark_completes hparked, fun hdeep hdue => ⟨_, exec_deepRetry hparked hdeep hdue, unpark_ready ..⟩, ?_⟩
    rintro haway ⟨hwhat, hlim⟩
    have hready := unpark_ready (s.dropWaiter p.w.strand (homeOf p.wait.loc)) d p
    rw [dropWaiter_tick] at hready
    exact ⟨_, bwaitTimeout_parked hparked haway hwhat hlim, hready⟩
  case wake =>
    intro harrive
    refine ⟨fun hfind hctx => ⟨wakeUp_slot harrive hfind hctx, wakeUp_waits harrive hfind⟩, fun haway hfind => ?_⟩
    exact ⟨_, wakeUp_parked harrive haway hfind, unpark_ready ..⟩
  case retry =>
    rintro ⟨hctx, -, -⟩ hwait hwoken hentry hdue
    have htries := retry_ctx? hctx hwait
    refine ⟨fun hwhat => ⟨_, exec_nackRetry hctx (retryDue_of_due hwait hwoken hentry hdue false ?_ ?_), htries⟩,
      fun hwhat => ⟨_, exec_bwaitPoll hctx (retryDue_of_due hwait hwoken hentry hdue true ?_ ?_), htries⟩⟩
    · rcases hwhat with h | h <;> rw [h] <;> rfl
    · rcases hwhat with h | h <;> rw [h] <;> rfl
    · rw [hwhat]; rfl
    · rw [hwhat]; rfl
  case bwait => exact bwaitTimeout_slot
  case gform => exact gformTimeout_completes
  case cancel =>
    intro hcancelled hslot hctx hlater hreq hend
    exact ⟨_, exec_cancelStop hcancelled hslot, cancelStop_ends hctx hlater hreq hend⟩
  case lateTrap =>
    rintro hctx hrun hlevel hlatem hlatet ⟨hchunk, -⟩ hsent hanswer hwait hpart hreq hstep hending
    exact lateTrap_enters hctx hrun hlevel hlatem hlatet hchunk hsent hanswer hwait hpart hreq hstep hending

end Sys2Proof.Machine
end

section
/-! SUPPORT. Rounding a non-negative real to a natural number (R53), and the model's rounding to a multiple as that. -/

namespace Sys2Proof.Machine

/-! ### Modes -/

theorem inward_or_outward_or_toNearest {mode : Mode} (neg : Bool) (h : mode < 5) :
    inward mode neg ∨ outward mode neg ∨ toNearest mode := by
  unfold inward outward toNearest
  interval_cases mode <;> cases neg <;> simp

theorem inward.not_outward {mode : Mode} {neg : Bool} (h : inward mode neg) : ¬ outward mode neg := by
  unfold inward at h; unfold outward; grind

theorem toNearest.not_inward {mode : Mode} (neg : Bool) (h : toNearest mode) : ¬ inward mode neg := by
  unfold toNearest at h; unfold inward; grind

theorem toNearest.not_outward {mode : Mode} (neg : Bool) (h : toNearest mode) : ¬ outward mode neg := by
  unfold toNearest at h; unfold outward; grind

/-! ### Rounding a real number -/

/-- A number `n + t` with `t` below 1 rounds up to `n + 1` under a mode, rather than down to `n` (R53). -/
def GoesUp (mode : Mode) (neg : Bool) (n : Nat) (t : ℝ) : Prop :=
  (outward mode neg ∧ 0 < t) ∨ (toNearest mode ∧ (1 / 2 < t ∨ t = 1 / 2 ∧ (mode = 0 → n % 2 = 1)))

open Classical in
/-- A non-negative number, the magnitude of one with that sign, rounded to a natural number under a mode (R53). -/
noncomputable def roundNat (mode : Mode) (neg : Bool) (x : ℝ) : Nat :=
  if GoesUp mode neg ⌊x⌋₊ (x - ⌊x⌋₊) then ⌊x⌋₊ + 1 else ⌊x⌋₊

theorem floor_natCast_add (n : Nat) {t : ℝ} (h0 : 0 ≤ t) (h1 : t < 1) : ⌊(n : ℝ) + t⌋₊ = n := by
  rw [Nat.floor_eq_iff (by positivity)]; constructor <;> linarith

theorem roundNat_of_goesUp {mode : Mode} {neg : Bool} {n : Nat} {t : ℝ} (h0 : 0 ≤ t) (h1 : t < 1) (h : GoesUp mode neg n t) :
    roundNat mode neg (n + t) = n + 1 := by
  unfold roundNat
  rw [floor_natCast_add n h0 h1, add_sub_cancel_left, if_pos h]

theorem roundNat_of_not_goesUp {mode : Mode} {neg : Bool} {n : Nat} {t : ℝ} (h0 : 0 ≤ t) (h1 : t < 1) (h : ¬ GoesUp mode neg n t) :
    roundNat mode neg (n + t) = n := by
  unfold roundNat
  rw [floor_natCast_add n h0 h1, add_sub_cancel_left, if_neg h]

theorem roundNat_natCast (mode : Mode) (neg : Bool) (n : Nat) : roundNat mode neg n = n := by
  simpa using roundNat_of_not_goesUp (mode := mode) (neg := neg) (n := n) le_rfl one_pos (by unfold GoesUp; norm_num)

/-- A non-negative real is a natural number and a fraction. -/
theorem exists_natCast_add {x : ℝ} (h : 0 ≤ x) : ∃ (n : Nat) (t : ℝ), 0 ≤ t ∧ t < 1 ∧ x = n + t :=
  ⟨⌊x⌋₊, x - ⌊x⌋₊, sub_nonneg.2 (Nat.floor_le h), by linarith [Nat.lt_floor_add_one x], by ring⟩

theorem roundNat_inward {mode : Mode} {neg : Bool} (hm : inward mode neg) (x : ℝ) : roundNat mode neg x = ⌊x⌋₊ :=
  if_neg fun h => h.elim (fun h => hm.not_outward h.1) fun h => h.1.not_inward neg hm

theorem roundNat_outward {mode : Mode} {neg : Bool} (hm : outward mode neg) {x : ℝ} (h : 0 ≤ x) : roundNat mode neg x = ⌈x⌉₊ := by
  obtain ⟨n, t, h0, h1, rfl⟩ := exists_natCast_add h
  rcases h0.eq_or_lt with rfl | hpos
  · rw [add_zero, roundNat_natCast, Nat.ceil_natCast]
  · rw [roundNat_of_goesUp h0 h1 (.inl ⟨hm, hpos⟩), eq_comm, Nat.ceil_eq_iff n.succ_ne_zero]
    push_cast
    constructor <;> simp <;> linarith

/-- Rounding to the nearest: no further than one half, ties to even or away from zero. -/
theorem roundNat_toNearest {mode : Mode} {neg : Bool} (hm : toNearest mode) {x : ℝ} (h : 0 ≤ x) :
    |(roundNat mode neg x : ℝ) - x| ≤ 1 / 2 ∧ (|(roundNat mode neg x : ℝ) - x| = 1 / 2 →
      (mode = 0 → roundNat mode neg x % 2 = 0) ∧ (mode = 4 → x < roundNat mode neg x)) := by
  obtain ⟨n, t, h0, h1, rfl⟩ := exists_natCast_add h
  by_cases hg : GoesUp mode neg n t
  · have hhalf : 1 / 2 ≤ t ∧ (t = 1 / 2 → mode = 0 → n % 2 = 1) := by
      obtain ⟨ho, -⟩ | ⟨-, ht | ⟨ht, hodd⟩⟩ := hg
      · exact absurd ho (hm.not_outward neg)
      · exact ⟨ht.le, fun h => absurd h ht.ne'⟩
      · exact ⟨ht.ge, fun _ => hodd⟩
    have hdist : |((n + 1 : Nat) : ℝ) - (n + t)| = 1 - t := by
      rw [abs_of_nonneg (by push_cast; linarith)]; push_cast; ring
    rw [roundNat_of_goesUp h0 h1 hg, hdist]
    refine ⟨by linarith, fun htie => ⟨fun h => ?_, fun _ => by push_cast; linarith⟩⟩
    have := hhalf.2 (by linarith) h
    omega
  · have hhalf : t ≤ 1 / 2 ∧ (t = 1 / 2 → mode = 0 ∧ n % 2 = 0) := by
      unfold GoesUp at hg
      push Not at hg
      obtain ⟨hle, htie⟩ := hg.2 hm
      exact ⟨hle, fun h => ⟨(htie h).1, by have := (htie h).2; omega⟩⟩
    have hdist : |(n : ℝ) - (n + t)| = t := by rw [sub_add_cancel_left, abs_neg, abs_of_nonneg h0]
    rw [roundNat_of_not_goesUp h0 h1 hg, hdist]
    exact ⟨hhalf.1, fun htie => ⟨fun _ => (hhalf.2 htie).2, fun h => absurd ((hhalf.2 htie).1.symm.trans h) (by decide)⟩⟩

theorem floor_le_roundNat (mode : Mode) (neg : Bool) (x : ℝ) : ⌊x⌋₊ ≤ roundNat mode neg x := by
  unfold roundNat; split <;> omega

theorem roundNat_le_floor_add_one (mode : Mode) (neg : Bool) (x : ℝ) : roundNat mode neg x ≤ ⌊x⌋₊ + 1 := by
  unfold roundNat; split <;> omega

theorem le_roundNat {mode : Mode} {neg : Bool} {x : ℝ} {k : Nat} (h : (k : ℝ) ≤ x) : k ≤ roundNat mode neg x :=
  (Nat.le_floor h).trans (floor_le_roundNat mode neg x)

theorem roundNat_le {mode : Mode} {neg : Bool} {x : ℝ} (h0 : 0 ≤ x) {k : Nat} (h : x ≤ k) : roundNat mode neg x ≤ k := by
  rcases h.eq_or_lt with rfl | hlt
  · rw [roundNat_natCast]
  · exact (roundNat_le_floor_add_one mode neg x).trans ((Nat.floor_lt h0).2 hlt)

/-- From where on a number rounds to at least `B`, an even multiple of `u`, when it is rounded to multiples of `u` (R55). -/
def Reaches (mode : Mode) (neg : Bool) (B u v : ℝ) : Prop :=
  (outward mode neg ∧ B - u < v) ∨ (toNearest mode ∧ B - u / 2 ≤ v) ∨ (inward mode neg ∧ B ≤ v)

theorem reaches_inward {mode : Mode} {neg : Bool} (h : inward mode neg) (B u v : ℝ) : Reaches mode neg B u v ↔ B ≤ v := by
  have hnear : ¬ toNearest mode := fun hn => hn.not_inward neg h
  simp only [Reaches, h, h.not_outward, hnear, true_and, false_and, false_or]

theorem reaches_outward {mode : Mode} {neg : Bool} (h : outward mode neg) (B u v : ℝ) : Reaches mode neg B u v ↔ B - u < v := by
  have hin : ¬ inward mode neg := fun hin => hin.not_outward h
  have hnear : ¬ toNearest mode := fun hn => hn.not_outward neg h
  simp only [Reaches, h, hin, hnear, true_and, false_and, or_false]

theorem reaches_toNearest {mode : Mode} (neg : Bool) (h : toNearest mode) (B u v : ℝ) : Reaches mode neg B u v ↔ B - u / 2 ≤ v := by
  simp only [Reaches, h, h.not_inward neg, h.not_outward neg, true_and, false_and, or_false, false_or]

theorem le_roundNat_iff {mode : Mode} {neg : Bool} (hm : mode < 5) {x : ℝ} (h : 0 ≤ x) {k : Nat} (hk : k % 2 = 0) (hpos : 0 < k) :
    k ≤ roundNat mode neg x ↔ Reaches mode neg k 1 x := by
  rcases inward_or_outward_or_toNearest neg hm with hin | hout | hnear
  · rw [reaches_inward hin, roundNat_inward hin, Nat.le_floor_iff h]
  · rw [reaches_outward hout, roundNat_outward hout h, ← Nat.sub_add_cancel hpos, Nat.succ_le_iff, Nat.lt_ceil]
    simp
  · obtain ⟨hdist, htie⟩ := roundNat_toNearest (neg := neg) hnear h
    obtain ⟨hlo, hhi⟩ := abs_le.1 hdist
    rw [reaches_toNearest neg hnear]
    constructor
    · intro hle
      have : (k : ℝ) ≤ roundNat mode neg x := by exact_mod_cast hle
      linarith
    · intro hx
      by_contra hlt
      have hnext : (roundNat mode neg x : ℝ) + 1 ≤ k := by exact_mod_cast Nat.lt_of_not_le hlt
      have hr : roundNat mode neg x + 1 = k := by
        have : (k : ℝ) ≤ (roundNat mode neg x : ℝ) + 1 := by linarith
        exact_mod_cast le_antisymm hnext this
      obtain ⟨heven, haway⟩ := htie (by rw [abs_of_nonpos] <;> linarith)
      rcases hnear with h0 | h4
      · have := heven h0; omega
      · have := haway h4; linarith

/-! ### The model's rounding to a multiple -/

/-- The model's choice between `n` and `n + 1` by the remainder `r` of a division by `2 * half`; `sticky` tells that more lies below it. -/
def remainderUp (mode : Mode) (neg : Bool) (n r half : Nat) (sticky : Bool) : Bool :=
  match mode with
  | 0 => decide (half < r) || (r == half && (sticky || n % 2 == 1))
  | 4 => decide (half ≤ r)
  | 2 => decide (r ≠ 0 ∨ sticky) && !neg
  | 3 => decide (r ≠ 0 ∨ sticky) && neg
  | _ => false

theorem roundAt_of_lt (mode : Mode) (neg : Bool) (m : Nat) {e q : Int} (sticky : Bool) (h : e < q) :
    let k := (q - e).toNat
    roundAt mode neg m e sticky q = (if remainderUp mode neg (m / 2 ^ k) (m % 2 ^ k) (2 ^ (k - 1)) sticky then m / 2 ^ k + 1 else m / 2 ^ k,
      decide (m % 2 ^ k ≠ 0 ∨ sticky)) := by
  unfold roundAt
  rw [if_neg (by omega)]
  rfl

/-- The remainder with what lies below it, as a fraction `t` of the divisor. -/
theorem remainderUp_iff {mode : Mode} (neg : Bool) (hm : mode < 5) (n : Nat) {r half : Nat} {sticky : Bool} {δ t : ℝ} (hhalf : 0 < half)
    (h0 : 0 ≤ δ) (h1 : δ < 1) (hs : sticky = true ↔ δ ≠ 0) (ht : t * (2 * half) = r + δ) :
    remainderUp mode neg n r half sticky = true ↔ GoesUp mode neg n t := by
  have hc : (0 : ℝ) < 2 * half := by positivity
  have hpos : 0 < t ↔ r ≠ 0 ∨ sticky = true := by
    rw [← mul_pos_iff_of_pos_right hc, ht, hs, ← Nat.cast_ne_zero (R := ℝ)]
    have := r.cast_nonneg (α := ℝ)
    constructor
    · intro h; by_contra hn; push Not at hn; linarith
    · rintro (h | h) <;> positivity
  have hlt : 1 / 2 < t ↔ (half : ℝ) < r + δ := by
    rw [← ht, ← mul_lt_mul_iff_of_pos_right hc]; ring_nf
  have heq : t = 1 / 2 ↔ (r : ℝ) + δ = half := by
    rw [← ht]
    exact ⟨fun h => by rw [h]; ring, fun h => mul_right_cancel₀ hc.ne' (by rw [h]; ring)⟩
  have hcases : (1 / 2 < t ↔ half < r ∨ r = half ∧ sticky = true) ∧ (t = 1 / 2 ↔ r = half ∧ ¬ sticky = true) := by
    rw [hlt, heq, hs]
    rcases lt_trichotomy r half with h | rfl | h
    · have : (r : ℝ) + 1 ≤ half := by exact_mod_cast h
      simp only [h.ne, h.not_gt, false_and, or_false, iff_false]
      constructor <;> intro <;> linarith
    · simp [h0.lt_iff_ne']
    · have : (half : ℝ) + 1 ≤ r := by exact_mod_cast h
      simp only [h.ne', h, false_and, true_or, iff_true, iff_false]
      constructor <;> [skip; intro] <;> linarith
  unfold remainderUp GoesUp outward toNearest
  rw [hpos, hcases.1, hcases.2]
  interval_cases mode
  · simp; grind
  · simp
  · simp [and_comm]
  · simp [and_comm]
  · simp; grind

theorem roundNat_ne_iff {mode : Mode} {neg : Bool} (n : Nat) {t : ℝ} (h0 : 0 ≤ t) (h1 : t < 1) :
    (roundNat mode neg (n + t) : ℝ) ≠ n + t ↔ t ≠ 0 := by
  by_cases hg : GoesUp mode neg n t
  · have ht : t ≠ 0 := fun h => by subst h; revert hg; unfold GoesUp; norm_num
    rw [roundNat_of_goesUp h0 h1 hg]
    simp only [ht, ne_eq, not_false_eq_true, iff_true]
    push_cast
    intro h; linarith
  · rw [roundNat_of_not_goesUp h0 h1 hg]; simp

/-- The model's rounding of `(m + δ) · 2^e` to a multiple of `2^q`, where `sticky` tells that `δ` is not 0. -/
theorem roundAt_eq_roundNat {mode : Mode} (neg : Bool) (hm : mode < 5) (m : Nat) {e q : Int} {sticky : Bool} {δ x : ℝ} (h0 : 0 ≤ δ) (h1 : δ < 1)
    (hs : sticky = true ↔ δ ≠ 0) (hq : sticky = true → e < q) (hx : x * 2 ^ q = (m + δ) * 2 ^ e) :
    (roundAt mode neg m e sticky q).1 = roundNat mode neg x
      ∧ ((roundAt mode neg m e sticky q).2 = true ↔ (roundNat mode neg x : ℝ) ≠ x) := by
  rcases le_or_gt q e with hle | hlt
  · have hf : sticky = false := by
      cases sticky
      · rfl
      · exact absurd (hq rfl) (by omega)
    have hδ : δ = 0 := by by_contra h; simp [hs.2 h] at hf
    obtain ⟨k, rfl⟩ := Int.le.dest hle
    have hxn : x = ((m * 2 ^ k : Nat) : ℝ) := by
      rw [zpow_add₀ two_ne_zero, hδ, add_zero, zpow_natCast, mul_left_comm, ← mul_comm (2 ^ q : ℝ), mul_right_inj' (by positivity)] at hx
      push_cast; rw [hx]
    have hkk : (q + k - q).toNat = k := by omega
    unfold roundAt
    rw [if_pos hle, hxn, roundNat_natCast, hf, hkk]
    simp
  · obtain ⟨k, rfl⟩ : ∃ k : Nat, q = e + (k + 1 : Nat) := ⟨(q - e).toNat - 1, by omega⟩
    rw [zpow_add₀ two_ne_zero, zpow_natCast, mul_left_comm, mul_comm, mul_left_inj' (by positivity)] at hx
    have hk : (e + (k + 1 : Nat) - e).toNat = k + 1 := by omega
    rw [roundAt_of_lt mode neg m sticky hlt, hk, Nat.add_sub_cancel]
    set n := m / 2 ^ (k + 1)
    set r := m % 2 ^ (k + 1)
    have hm2 : (m : ℝ) = 2 ^ (k + 1) * n + r := by exact_mod_cast (Nat.div_add_mod m (2 ^ (k + 1))).symm
    have hr : (r : ℝ) + 1 ≤ 2 ^ (k + 1) := by exact_mod_cast Nat.mod_lt m (by positivity : 0 < 2 ^ (k + 1))
    obtain ⟨t, ht⟩ : ∃ t : ℝ, t * 2 ^ (k + 1) = r + δ := ⟨(r + δ) / 2 ^ (k + 1), by field_simp⟩
    have hpow : (0 : ℝ) < 2 ^ (k + 1) := by positivity
    have hxt : x = n + t := mul_right_cancel₀ hpow.ne' (by linarith)
    have ht0 : 0 ≤ t := nonneg_of_mul_nonneg_left (by rw [ht]; positivity) hpow
    have ht1 : t < 1 := lt_of_mul_lt_mul_right (by linarith) hpow.le
    have hup := remainderUp_iff neg hm n (half := 2 ^ k) (by positivity) h0 h1 hs (t := t) (by push_cast; rw [← pow_succ', ht])
    rw [hxt, roundNat_ne_iff n ht0 ht1]
    constructor
    · by_cases hg : GoesUp mode neg n t
      · rw [roundNat_of_goesUp ht0 ht1 hg, if_pos (hup.2 hg)]
      · rw [roundNat_of_not_goesUp ht0 ht1 hg, if_neg fun h => hg (hup.1 h)]
    · have hzero : t = 0 ↔ (r : ℝ) = 0 ∧ δ = 0 := by
        rw [← add_eq_zero_iff_of_nonneg r.cast_nonneg h0, ← ht, mul_eq_zero, or_iff_left hpow.ne']
      simp [hzero, hs, -not_and, not_and_or]

end Sys2Proof.Machine
end

section
/-! SUPPORT. The magnitudes of a format in the order of their encodings (R52). -/

namespace Sys2Proof.Machine

/-- A format with normal numbers of more than one exponent and with a fraction. -/
def FF.Wide (f : FF) : Prop := 2 ≤ f.eb ∧ 1 ≤ f.mb

theorem wide_of_mem {f : FF} (h : f ∈ floatFormats) : f.Wide := by
  simp only [floatFormats, List.mem_cons, List.not_mem_nil, or_false] at h
  rcases h with rfl | rfl | rfl | rfl <;> constructor <;> decide

/-- The magnitude of an encoding, as if there were no greatest exponent. -/
noncomputable def FF.grid (f : FF) (b : Nat) : ℝ :=
  if b / 2 ^ f.mb = 0 then (b % 2 ^ f.mb : Nat) * 2 ^ f.qmin
  else (b % 2 ^ f.mb + 2 ^ f.mb : Nat) * 2 ^ (f.qmin + (b / 2 ^ f.mb - 1 : Nat))

theorem inf_lt_sgn (f : FF) : f.inf < f.sgn := by
  unfold FF.inf FF.sgn
  rw [pow_add]
  exact Nat.mul_lt_mul_of_pos_right (Nat.sub_lt (by positivity) one_pos) (by positivity)

theorem sgn_lt_width (f : FF) : 2 ^ f.width = 2 * f.sgn := by
  unfold FF.width FF.sgn; rw [add_assoc, pow_add, pow_one]

theorem mag_eq_grid {f : FF} {b : Nat} (h : b < f.inf) : f.mag b = f.grid b := by
  have hs := inf_lt_sgn f
  have hw := sgn_lt_width f
  have he : b / 2 ^ f.mb ≠ 2 ^ f.eb - 1 := ((Nat.div_lt_iff_lt_mul (by positivity)).2 h).ne
  unfold FF.mag FF.grid FF.dec
  simp only [Nat.mod_eq_of_lt (show b < 2 ^ f.width by omega), Nat.mod_eq_of_lt (h.trans hs), he, if_false, (h.trans hs).not_ge]
  split <;> simp [FV.val]

/-- The magnitudes in steps of `2 ^ (qmin + j)`. -/
theorem grid_steps (f : FF) {j n : Nat} (hj : j = 0 ∨ 2 ^ f.mb ≤ n) (hn : n ≤ 2 * 2 ^ f.mb) :
    f.grid (j * 2 ^ f.mb + n) = n * 2 ^ (f.qmin + j) := by
  have hpos : 0 < 2 ^ f.mb := by positivity
  unfold FF.grid
  rcases lt_or_ge n (2 ^ f.mb) with hlt | hge
  · obtain rfl : j = 0 := hj.resolve_right hlt.not_ge
    simp [Nat.div_eq_of_lt hlt, Nat.mod_eq_of_lt hlt]
  rcases hn.lt_or_eq with hlt | rfl
  · obtain ⟨r, rfl⟩ := Nat.exists_eq_add_of_le hge
    have hr : r < 2 ^ f.mb := by omega
    have hb : j * 2 ^ f.mb + (2 ^ f.mb + r) = r + 2 ^ f.mb * (j + 1) := by ring
    rw [hb, Nat.add_mul_div_left _ _ hpos, Nat.add_mul_mod_self_left, Nat.div_eq_of_lt hr, Nat.mod_eq_of_lt hr, if_neg (by omega)]
    simp [add_comm]
  · have hb : j * 2 ^ f.mb + 2 * 2 ^ f.mb = 2 ^ f.mb * (j + 2) := by ring
    rw [hb, Nat.mul_div_cancel_left _ hpos, Nat.mul_mod_right, if_neg (by omega), Nat.add_sub_assoc (by omega)]
    push_cast
    rw [← add_assoc, zpow_add₀ two_ne_zero, zpow_add₀ two_ne_zero]
    ring

theorem exists_steps (f : FF) (b : Nat) : ∃ j n, b = j * 2 ^ f.mb + n ∧ (j = 0 ∨ 2 ^ f.mb ≤ n) ∧ n < 2 * 2 ^ f.mb := by
  have hpos : 0 < 2 ^ f.mb := by positivity
  have hmod := Nat.mod_lt b hpos
  have hdiv := Nat.div_add_mod' b (2 ^ f.mb)
  cases hq : b / 2 ^ f.mb with
  | zero => exact ⟨0, b % 2 ^ f.mb, by rw [hq] at hdiv; exact hdiv.symm, .inl rfl, by omega⟩
  | succ j =>
    refine ⟨j, 2 ^ f.mb + b % 2 ^ f.mb, ?_, .inr (by omega), by omega⟩
    rw [hq, Nat.succ_mul] at hdiv
    omega

theorem grid_strictMono (f : FF) : StrictMono f.grid := by
  refine strictMono_nat_of_lt_succ fun b => ?_
  obtain ⟨j, n, rfl, hj, hn⟩ := exists_steps f b
  rw [add_assoc, grid_steps f hj hn.le, grid_steps f (hj.imp_right fun h => h.trans n.le_succ) hn]
  push_cast
  have : (0 : ℝ) < 2 ^ (f.qmin + j) := by positivity
  linarith

/-! ### The step at the greatest magnitude, and the least normal number -/

/-- The greatest exponent, counted from the least. -/
def FF.top (f : FF) : Nat := 2 ^ f.eb - 3

theorem inf_eq {f : FF} (h : f.Wide) : f.inf = f.top * 2 ^ f.mb + 2 * 2 ^ f.mb := by
  have : 2 ^ 2 ≤ 2 ^ f.eb := Nat.pow_le_pow_right (by decide) h.1
  unfold FF.inf FF.top
  rw [← Nat.add_mul]
  congr 1
  omega

theorem two_le_pow_mb {f : FF} (h : f.Wide) : 2 ≤ 2 ^ f.mb := by simpa using Nat.pow_le_pow_right (n := 2) (by decide) h.2

theorem mag_max {f : FF} (h : f.Wide) : f.mag f.max = (2 * 2 ^ f.mb - 1) * 2 ^ (f.qmin + f.top) := by
  have h2 := two_le_pow_mb h
  have hm : f.max = f.top * 2 ^ f.mb + (2 * 2 ^ f.mb - 1) := by
    unfold FF.max; rw [inf_eq h]; omega
  rw [mag_eq_grid (by unfold FF.max; have := inf_eq h; omega), hm, grid_steps f (.inr (by omega)) (by omega)]
  push_cast [show 1 ≤ 2 * 2 ^ f.mb by omega]
  rfl

theorem mag_max_sub_one {f : FF} (h : f.Wide) : f.mag (f.max - 1) = (2 * 2 ^ f.mb - 2) * 2 ^ (f.qmin + f.top) := by
  have h2 := two_le_pow_mb h
  have hm : f.max - 1 = f.top * 2 ^ f.mb + (2 * 2 ^ f.mb - 2) := by
    unfold FF.max; rw [inf_eq h]; omega
  rw [mag_eq_grid (by unfold FF.max; have := inf_eq h; omega), hm, grid_steps f (.inr (by omega)) (by omega)]
  push_cast [show 2 ≤ 2 * 2 ^ f.mb by omega]
  rfl

end Sys2Proof.Machine
end

section
/-! SUPPORT. The encoding that a positive number is rounded to, and from where on it is that of infinity or no longer tiny (R53, R55, R59). -/

namespace Sys2Proof.Machine

/-! ### The encodings next to a real number -/

/-- `x · 2 ^ (qmin + j)` is a magnitude at the format's precision, or below it at the least exponent. -/
structure FF.Scaled (f : FF) (j : Nat) (x : ℝ) : Prop where
  pos : 0 < x
  lt : x < (2 * 2 ^ f.mb : Nat)
  normal : j = 0 ∨ ((2 ^ f.mb : Nat) : ℝ) ≤ x

/-- The encoding that such a magnitude is rounded to, as if there were no greatest exponent. -/
noncomputable def FF.rounded (f : FF) (mode : Mode) (neg : Bool) (j : Nat) (x : ℝ) : Nat := j * 2 ^ f.mb + roundNat mode neg x

section neighbours
variable {f : FF} {mode : Mode} {neg : Bool} {j : Nat} {x : ℝ}

theorem grid_rounded (h : f.Scaled j x) : f.grid (f.rounded mode neg j x) = roundNat mode neg x * 2 ^ (f.qmin + j) :=
  grid_steps f (h.normal.imp_right le_roundNat) (roundNat_le h.pos.le h.lt.le)

theorem grid_floor (h : f.Scaled j x) : f.grid (j * 2 ^ f.mb + ⌊x⌋₊) = ⌊x⌋₊ * 2 ^ (f.qmin + j) :=
  grid_steps f (h.normal.imp_right Nat.le_floor) ((Nat.floor_lt h.pos.le).2 h.lt).le

theorem grid_floor_add_one (h : f.Scaled j x) : f.grid (j * 2 ^ f.mb + ⌊x⌋₊ + 1) = (⌊x⌋₊ + 1) * 2 ^ (f.qmin + j) := by
  rw [add_assoc, grid_steps f (h.normal.imp_right fun hn => (Nat.le_floor hn).trans (Nat.le_succ _)) ((Nat.floor_lt h.pos.le).2 h.lt)]
  push_cast; rfl

/-- An encoding is at most the one below the number, or at least the one above it. -/
theorem grid_le_floor_or_ge (h : f.Scaled j x) (c : Nat) :
    (c ≤ j * 2 ^ f.mb + ⌊x⌋₊ ∧ f.grid c ≤ ⌊x⌋₊ * 2 ^ (f.qmin + j))
      ∨ (j * 2 ^ f.mb + ⌊x⌋₊ < c ∧ (⌊x⌋₊ + 1) * 2 ^ (f.qmin + j) ≤ f.grid c) := by
  rcases le_or_gt c (j * 2 ^ f.mb + ⌊x⌋₊) with hle | hgt
  · exact .inl ⟨hle, grid_floor h ▸ (grid_strictMono f).monotone hle⟩
  · exact .inr ⟨hgt, grid_floor_add_one h ▸ (grid_strictMono f).monotone hgt⟩

theorem grid_rounded_inward (h : f.Scaled j x) (hm : inward mode neg) :
    f.grid (f.rounded mode neg j x) ≤ x * 2 ^ (f.qmin + j)
      ∧ ∀ c, f.grid c ≤ x * 2 ^ (f.qmin + j) → f.grid c ≤ f.grid (f.rounded mode neg j x) := by
  have hd : (0 : ℝ) < 2 ^ (f.qmin + j) := by positivity
  rw [grid_rounded h, roundNat_inward hm]
  refine ⟨mul_le_mul_of_nonneg_right (Nat.floor_le h.pos.le) hd.le, fun c hc => ?_⟩
  rcases grid_le_floor_or_ge h c with hle | hge
  · exact hle.2
  · exact absurd (le_of_mul_le_mul_right (hge.2.trans hc) hd) (Nat.lt_floor_add_one x).not_ge

theorem grid_rounded_outward (h : f.Scaled j x) (hm : outward mode neg) :
    x * 2 ^ (f.qmin + j) ≤ f.grid (f.rounded mode neg j x)
      ∧ ∀ c, x * 2 ^ (f.qmin + j) ≤ f.grid c → f.grid (f.rounded mode neg j x) ≤ f.grid c := by
  have hd : (0 : ℝ) < 2 ^ (f.qmin + j) := by positivity
  rw [grid_rounded h, roundNat_outward hm h.pos.le]
  refine ⟨mul_le_mul_of_nonneg_right (Nat.le_ceil x) hd.le, fun c hc => ?_⟩
  rcases grid_le_floor_or_ge h c with hle | hge
  · have hx : x ≤ ⌊x⌋₊ := le_of_mul_le_mul_right (hc.trans hle.2) hd
    exact le_trans (mul_le_mul_of_nonneg_right (by exact_mod_cast Nat.ceil_le.2 hx) hd.le)
      ((mul_le_mul_of_nonneg_right (Nat.floor_le h.pos.le) hd.le).trans hc)
  · exact le_trans (mul_le_mul_of_nonneg_right (by exact_mod_cast Nat.ceil_le_floor_add_one x) hd.le) hge.2

/-- A multiple `r` of `d` within half of `d` is nearer to a number than what lies at least `d` away from `r`, or it is as near and half of `d` away. -/
theorem abs_sub_lt_or_tie {r x d g : ℝ} (hd : 0 < d) (hr : |r - x| ≤ 1 / 2) (hg : g + d ≤ r * d ∨ r * d + d ≤ g) :
    |r * d - x * d| < |g - x * d| ∨ |r * d - x * d| = |g - x * d| ∧ |r - x| = 1 / 2 := by
  have hdist : |r * d - x * d| = |r - x| * d := by rw [← sub_mul, abs_mul, abs_of_pos hd]
  have hhalf : |r - x| * d ≤ 1 / 2 * d := mul_le_mul_of_nonneg_right hr hd.le
  obtain ⟨hlo, hhi⟩ := abs_le.1 (hdist.le.trans hhalf)
  have hfar : 1 / 2 * d ≤ |g - x * d| := by
    rcases hg with hg | hg
    · rw [abs_of_nonpos] <;> linarith
    · rw [abs_of_nonneg] <;> linarith
  rw [hdist]
  rcases (hhalf.trans hfar).lt_or_eq with hlt | heq
  · exact .inl hlt
  · exact .inr ⟨heq, mul_right_cancel₀ hd.ne' (le_antisymm hhalf (hfar.trans heq.ge))⟩

/-- What lies beyond a multiple that is not above the number is further away. -/
theorem abs_sub_lt_of_beyond {a g v : ℝ} (h : g < a ∧ a ≤ v ∨ v ≤ a ∧ a < g) : |a - v| < |g - v| := by
  rcases h with ⟨h1, h2⟩ | ⟨h1, h2⟩
  · rw [abs_of_nonpos (by linarith), abs_of_nonpos (by linarith)]; linarith
  · rw [abs_of_nonneg (by linarith), abs_of_nonneg (by linarith)]; linarith

theorem grid_rounded_toNearest (hw : f.Wide) (h : f.Scaled j x) (hm : toNearest mode) (c : Nat) (hc : c ≠ f.rounded mode neg j x) :
    |f.grid (f.rounded mode neg j x) - x * 2 ^ (f.qmin + j)| < |f.grid c - x * 2 ^ (f.qmin + j)|
      ∨ |f.grid (f.rounded mode neg j x) - x * 2 ^ (f.qmin + j)| = |f.grid c - x * 2 ^ (f.qmin + j)|
        ∧ (mode = 0 → f.rounded mode neg j x % 2 = 0) ∧ (mode = 4 → f.grid c < f.grid (f.rounded mode neg j x)) := by
  have hd : (0 : ℝ) < 2 ^ (f.qmin + j) := by positivity
  obtain ⟨hdist, htie⟩ := roundNat_toNearest (neg := neg) hm h.pos.le
  have hparity : f.rounded mode neg j x % 2 = roundNat mode neg x % 2 := by
    obtain ⟨k, hk⟩ := Nat.exists_eq_add_of_le hw.2
    unfold FF.rounded
    rw [hk, Nat.pow_add, pow_one, Nat.mul_left_comm, Nat.mul_add_mod]
  have hfloor : (⌊x⌋₊ : ℝ) ≤ x := Nat.floor_le h.pos.le
  have hcases : roundNat mode neg x = ⌊x⌋₊ ∨ roundNat mode neg x = ⌊x⌋₊ + 1 := by
    have := floor_le_roundNat mode neg x
    have := roundNat_le_floor_add_one mode neg x
    omega
  rcases lt_or_gt_of_ne hc with hlt | hgt
  · have hgrid := grid_strictMono f hlt
    rcases hcases with hr | hr
    · refine .inl (abs_sub_lt_of_beyond (.inl ⟨hgrid, ?_⟩))
      rw [grid_rounded h, hr]
      exact mul_le_mul_of_nonneg_right hfloor hd.le
    · have hle : f.grid c ≤ ⌊x⌋₊ * 2 ^ (f.qmin + j) :=
        grid_floor h ▸ (grid_strictMono f).monotone (by unfold FF.rounded at hlt; omega)
      rw [grid_rounded h] at hgrid ⊢
      refine (abs_sub_lt_or_tie hd hdist (.inl ?_)).imp_right fun ⟨heq, hhalf⟩ =>
        ⟨heq, fun h0 => hparity ▸ (htie hhalf).1 h0, fun _ => hgrid⟩
      rw [hr]; push_cast; linarith
  · have hgrid := grid_strictMono f hgt
    rcases hcases with hr | hr
    · have hge : (⌊x⌋₊ + 1) * 2 ^ (f.qmin + j) ≤ f.grid c :=
        grid_floor_add_one h ▸ (grid_strictMono f).monotone (by unfold FF.rounded at hgt; omega)
      rw [grid_rounded h]
      refine (abs_sub_lt_or_tie hd hdist (.inr ?_)).imp_right fun ⟨heq, hhalf⟩ =>
        ⟨heq, fun h0 => hparity ▸ (htie hhalf).1 h0, fun h4 => absurd ((htie hhalf).2 h4) (by rw [hr]; exact hfloor.not_gt)⟩
      rw [hr]; linarith
    · refine .inl (abs_sub_lt_of_beyond (.inr ⟨?_, hgrid⟩))
      rw [grid_rounded h, hr]
      push_cast
      exact mul_le_mul_of_nonneg_right (Nat.lt_floor_add_one x).le hd.le

end neighbours

/-! ### From where on a number rounds to a power of two -/

theorem reaches_scale (mode : Mode) (neg : Bool) (B u v : ℝ) {d : ℝ} (hd : 0 < d) : Reaches mode neg (B * d) (u * d) (v * d) ↔ Reaches mode neg B u v := by
  have h1 : B * d - u * d < v * d ↔ B - u < v := by rw [← sub_mul, mul_lt_mul_iff_of_pos_right hd]
  have h2 : B * d - u * d / 2 ≤ v * d ↔ B - u / 2 ≤ v := by
    rw [← mul_le_mul_iff_of_pos_right hd (b := B - u / 2)]; ring_nf
  unfold Reaches
  rw [h1, h2, mul_le_mul_iff_of_pos_right hd]

theorem reaches_of_le {mode : Mode} (neg : Bool) (hm : mode < 5) {B u v : ℝ} (hu : 0 < u) (h : B ≤ v) : Reaches mode neg B u v := by
  rcases inward_or_outward_or_toNearest neg hm with hin | hout | hnear
  · exact (reaches_inward hin B u v).2 h
  · exact (reaches_outward hout B u v).2 (by linarith)
  · exact (reaches_toNearest neg hnear B u v).2 (by linarith)

theorem not_reaches_of_lt {mode : Mode} {neg : Bool} {B u v : ℝ} (hu : 0 < u) (h : v < B - u) : ¬ Reaches mode neg B u v := by
  rintro (⟨-, h'⟩ | ⟨-, h'⟩ | ⟨-, h'⟩) <;> linarith

/-- A number whose leading bit stands `mb` places above `q` rounds to at least `2 * 2 ^ mb` multiples of `2 ^ p`. -/
theorem reaches_iff (f : FF) {mode : Mode} {neg : Bool} (hm : mode < 5) {x : ℝ} {q p : Int} (h0 : 0 ≤ x) (hlt : x < (2 * 2 ^ f.mb : Nat))
    (hge : p < q → ((2 ^ f.mb : Nat) : ℝ) ≤ x) :
    Reaches mode neg (2 * 2 ^ f.mb * 2 ^ p) (2 ^ p) (x * 2 ^ q) ↔ p < q ∨ p = q ∧ 2 * 2 ^ f.mb ≤ roundNat mode neg x := by
  have hp : (0 : ℝ) < 2 ^ p := by positivity
  have hmb : (1 : ℝ) ≤ 2 ^ f.mb := one_le_pow₀ one_le_two
  push_cast at hlt hge
  rcases lt_trichotomy p q with h | rfl | h
  · have hpow : (2 : ℝ) ^ (p + 1) ≤ 2 ^ q := zpow_le_zpow_right₀ one_le_two h
    rw [zpow_add_one₀ two_ne_zero] at hpow
    refine iff_of_true (reaches_of_le neg hm hp ?_) (.inl h)
    calc 2 * 2 ^ f.mb * (2 : ℝ) ^ p = 2 ^ f.mb * (2 ^ p * 2) := by ring
      _ ≤ x * 2 ^ q := mul_le_mul (hge h) hpow (by positivity) h0
  · have hk := le_roundNat_iff hm h0 (neg := neg) (k := 2 * 2 ^ f.mb) (by omega) (by positivity)
    have hscale := reaches_scale mode neg (2 * 2 ^ f.mb) 1 x hp
    rw [one_mul] at hscale
    push_cast at hk
    simp [hscale, hk]
  · have hpow : (2 : ℝ) ^ (q + 1) ≤ 2 ^ p := zpow_le_zpow_right₀ one_le_two h
    rw [zpow_add_one₀ two_ne_zero] at hpow
    refine iff_of_false (not_reaches_of_lt hp ?_) (by omega)
    calc x * 2 ^ q < 2 * 2 ^ f.mb * 2 ^ q := mul_lt_mul_of_pos_right hlt (by positivity)
      _ = 2 ^ f.mb * (2 ^ q * 2) := by ring
      _ ≤ 2 ^ f.mb * 2 ^ p := mul_le_mul_of_nonneg_left hpow (by positivity)
      _ ≤ 2 * 2 ^ f.mb * 2 ^ p - 2 ^ p := by nlinarith

/-- The rounded encoding is that of infinity or beyond from the threshold of R55 on. -/
theorem inf_le_rounded_iff {f : FF} (hw : f.Wide) {mode : Mode} {neg : Bool} (hm : mode < 5) {j : Nat} {x : ℝ} (h : f.Scaled j x) :
    f.inf ≤ f.rounded mode neg j x
      ↔ Reaches mode neg (2 * 2 ^ f.mb * 2 ^ (f.qmin + f.top)) (2 ^ (f.qmin + f.top)) (x * 2 ^ (f.qmin + j)) := by
  have hle : roundNat mode neg x ≤ 2 * 2 ^ f.mb := roundNat_le h.pos.le h.lt.le
  rw [reaches_iff f hm h.pos.le h.lt fun hlt => h.normal.resolve_left (by omega), inf_eq hw, FF.rounded]
  rcases lt_trichotomy j f.top with hj | rfl | hj
  · have : (j + 1) * 2 ^ f.mb ≤ f.top * 2 ^ f.mb := Nat.mul_le_mul_right _ hj
    have := two_le_pow_mb hw
    rw [Nat.succ_mul] at *
    omega
  · simp
  · have hn : 2 ^ f.mb ≤ roundNat mode neg x := le_roundNat (h.normal.resolve_left (by omega))
    have : (f.top + 1) * 2 ^ f.mb ≤ j * 2 ^ f.mb := Nat.mul_le_mul_right _ hj
    rw [Nat.succ_mul] at *
    omega

end Sys2Proof.Machine
end

section
/-! SUPPORT. Rounding once, with its flags (R53, R55, R59). -/
namespace Sys2Proof.Machine

/-- The value, rounded to the format's precision alone, is below the least normal number (R59): it stays below `2 * 2 ^ mb` multiples of
the step that is one place below the least exponent's. -/
def FF.Tiny (f : FF) (mode : Mode) (neg : Bool) (v : ℝ) : Prop :=
  ¬ Reaches mode neg (2 * 2 ^ f.mb * 2 ^ (f.qmin - 1)) (2 ^ (f.qmin - 1)) v

/-- The model's test of tininess after rounding to the format's precision alone. -/
theorem tiny_iff (f : FF) {mode : Mode} {neg : Bool} (hm : mode < 5) {x : ℝ} {q : Int} (hlt : x < (2 * 2 ^ f.mb : Nat))
    (hge : ((2 ^ f.mb : Nat) : ℝ) ≤ x) :
    f.Tiny mode neg (x * 2 ^ q) ↔ q < f.qmin ∧ (topBit (roundNat mode neg x) : Int) + q < f.qmin + f.mb := by
  have hx : 0 ≤ x := (Nat.cast_nonneg _).trans hge
  have hlo : 2 ^ f.mb ≤ roundNat mode neg x := le_roundNat hge
  have hhi : roundNat mode neg x ≤ 2 * 2 ^ f.mb := roundNat_le hx hlt.le
  have hne : roundNat mode neg x ≠ 0 := (lt_of_lt_of_le (by positivity) hlo).ne'
  have h1 : f.mb ≤ topBit (roundNat mode neg x) := (Nat.le_log2 hne).2 hlo
  have h2 : topBit (roundNat mode neg x) < f.mb + 2 := (Nat.log2_lt hne).2 (by rw [pow_succ, pow_succ]; omega)
  have h3 : f.mb + 1 ≤ topBit (roundNat mode neg x) ↔ 2 * 2 ^ f.mb ≤ roundNat mode neg x := by
    rw [← pow_succ']; exact Nat.le_log2 hne
  rw [FF.Tiny, reaches_iff f hm hx hlt fun _ => hge, ← h3]
  omega

/-- A positive number, scaled to the format's precision, and to the multiples that the format holds. -/
structure FF.Split (f : FF) (v : ℝ) (j : Nat) (x : ℝ) (q : Int) (y : ℝ) : Prop where
  scaled : f.Scaled j x
  eq : x * 2 ^ (f.qmin + j) = v
  lt : y < (2 * 2 ^ f.mb : Nat)
  le : ((2 ^ f.mb : Nat) : ℝ) ≤ y
  eq' : y * 2 ^ q = v

theorem split_of_leading (f : FF) {v : ℝ} {t : Int} (h : (2 : ℝ) ^ t ≤ v) (h' : v < 2 ^ (t + 1)) {j : Nat}
    (hj : j = (t - f.mb - f.qmin).toNat) : f.Split v j (v / 2 ^ (f.qmin + j)) (t - f.mb) (v / 2 ^ (t - f.mb)) := by
  have hpos : 0 < v := lt_of_lt_of_le (by positivity) h
  have hmb : ((2 ^ f.mb : Nat) : ℝ) * 2 ^ (t - f.mb) = 2 ^ t := by
    push_cast; rw [← zpow_natCast, ← zpow_add₀ two_ne_zero]; congr 1; omega
  have hmb2 : ((2 * 2 ^ f.mb : Nat) : ℝ) * 2 ^ (t - f.mb) = 2 ^ (t + 1) := by
    rw [Nat.cast_mul, mul_assoc, hmb, zpow_add_one₀ two_ne_zero, mul_comm]; rfl
  have hle : t - f.mb ≤ f.qmin + j := by omega
  refine ⟨⟨by positivity, ?_, ?_⟩, div_mul_cancel₀ _ (by positivity), ?_, ?_, div_mul_cancel₀ _ (by positivity)⟩
  · rw [div_lt_iff₀ (by positivity)]
    exact h'.trans_le (hmb2 ▸ mul_le_mul_of_nonneg_left (zpow_le_zpow_right₀ one_le_two hle) (Nat.cast_nonneg _))
  · rcases Nat.eq_zero_or_pos j with h0 | hpos
    · exact .inl h0
    · have hq : f.qmin + j = t - f.mb := by omega
      rw [hq, le_div_iff₀ (by positivity), hmb]
      exact .inr h
  · rwa [div_lt_iff₀ (by positivity), hmb2]
  · rwa [le_div_iff₀ (by positivity), hmb]

/-- The leading bit of a natural number with a fraction. -/
theorem leading_add {m : Nat} (hm : m ≠ 0) {δ : ℝ} (h0 : 0 ≤ δ) (h1 : δ < 1) (e : Int) :
    (2 : ℝ) ^ (e + topBit m) ≤ (m + δ) * 2 ^ e ∧ (m + δ) * 2 ^ e < 2 ^ (e + topBit m + 1) := by
  have hlo : ((2 ^ topBit m : Nat) : ℝ) ≤ m := by exact_mod_cast Nat.log2_self_le hm
  have hhi : ((m + 1 : Nat) : ℝ) ≤ (2 ^ (topBit m + 1) : Nat) := by exact_mod_cast Nat.lt_log2_self (n := m)
  have he : (0 : ℝ) < 2 ^ e := by positivity
  push_cast at hlo hhi
  rw [add_assoc, zpow_add₀ two_ne_zero, zpow_add₀ two_ne_zero e, mul_comm _ ((2 : ℝ) ^ e)]
  constructor
  · rw [zpow_natCast]
    exact mul_le_mul_of_nonneg_left (by linarith) he.le
  · rw [show ((topBit m : Int) + 1) = ((topBit m + 1 : Nat) : Int) by push_cast; rfl, zpow_natCast]
    exact mul_lt_mul_of_pos_left (by linarith) he

theorem round_eq {f : FF} {mode : Mode} (neg : Bool) (hm : mode < 5) {m : Nat} (hpos : m ≠ 0) (e : Int) {sticky : Bool} {δ : ℝ} (h0 : 0 ≤ δ) (h1 : δ < 1)
    (hs : sticky = true ↔ δ ≠ 0) (hbits : sticky = true → f.mb < topBit m) :
    ∃ (j : Nat) (x : ℝ) (q : Int) (y : ℝ) (tiny inexact : Bool), f.Split ((m + δ) * 2 ^ e) j x q y ∧ (tiny = true ↔ f.Tiny mode neg ((m + δ) * 2 ^ e))
      ∧ (inexact = true ↔ (roundNat mode neg x : ℝ) ≠ x)
      ∧ f.round mode neg m e sticky = if f.inf ≤ f.rounded mode neg j x then (f.overflow mode neg, fOF ||| fNX)
        else ((if neg then f.sgn else 0) + f.rounded mode neg j x, (if inexact then fNX else 0) ||| (if tiny = true ∧ inexact = true then fUF else 0)) := by
  obtain ⟨hlo, hhi⟩ := leading_add hpos h0 h1 e
  have hsplit := split_of_leading f hlo hhi rfl
  set v := (m + δ) * 2 ^ e
  set q := e + topBit m - f.mb with hq
  set j := (q - f.qmin).toNat with hj
  set x := v / 2 ^ (f.qmin + j)
  set y := v / 2 ^ q
  have hqj : (if q < f.qmin then f.qmin else q) = f.qmin + j := by split <;> omega
  obtain ⟨hn, hinexact⟩ := roundAt_eq_roundNat neg hm m h0 h1 hs (fun h => by have := hbits h; omega) hsplit.eq
  obtain ⟨hnu, -⟩ := roundAt_eq_roundNat neg hm m h0 h1 hs (fun h => by have := hbits h; omega) hsplit.eq'
  refine ⟨j, x, q, y, decide (q < f.qmin ∧ (m = 0 ∨ (topBit (roundNat mode neg y) : Int) + q < f.qmin + f.mb)),
    (roundAt mode neg m e sticky (f.qmin + j)).2, hsplit, ?_, hinexact, ?_⟩
  · rw [← hsplit.eq', tiny_iff f hm hsplit.lt hsplit.le]
    simp [hpos]
  · unfold FF.round
    simp only [hpos, false_and, if_false]
    rw [← hq, hqj, hnu, hn, add_sub_cancel_left, Int.toNat_natCast]
    simp [FF.rounded, x]

theorem overflow_eq (f : FF) {mode : Mode} (neg : Bool) (hm : mode < 5) :
    ∃ b, b ≤ f.inf ∧ f.overflow mode neg = (if neg then f.sgn else 0) + b ∧ (inward mode neg → b = f.max) ∧ (¬ inward mode neg → b = f.inf) := by
  have hmax : f.max ≤ f.inf := Nat.sub_le _ _
  unfold FF.overflow inward
  interval_cases mode <;> cases neg <;> simp [hmax]

theorem least_eq (f : FF) : (2 : ℝ) ^ (f.qmin + f.mb) = 2 * 2 ^ f.mb * 2 ^ (f.qmin - 1) := by
  rw [zpow_add₀ two_ne_zero, zpow_sub_one₀ two_ne_zero, zpow_natCast]; ring

theorem le_of_reaches {mode : Mode} {neg : Bool} {B u v : ℝ} (hu : 0 < u) (h : Reaches mode neg B u v) : B - u ≤ v := by
  by_contra hlt
  exact not_reaches_of_lt hu (not_le.1 hlt) h

theorem not_reaches_iff {mode : Mode} {neg : Bool} (hm : mode < 5) {B u v : ℝ} :
    ¬ Reaches mode neg B u v ↔ (inward mode neg ∧ v < B) ∨ (outward mode neg ∧ v ≤ B - u) ∨ (toNearest mode ∧ v < B - u / 2) := by
  rcases inward_or_outward_or_toNearest neg hm with hin | hout | hnear
  · have hnear : ¬ toNearest mode := fun hn => hn.not_inward neg hin
    simp only [reaches_inward hin, hin, hin.not_outward, hnear, not_le, true_and, false_and, or_false]
  · have hin : ¬ inward mode neg := fun hin => hin.not_outward hout
    have hnear : ¬ toNearest mode := fun hn => hn.not_outward neg hout
    simp only [reaches_outward hout, hout, hin, hnear, not_lt, true_and, false_and, or_false, false_or]
  · simp only [reaches_toNearest neg hnear, hnear, hnear.not_inward neg, hnear.not_outward neg, not_le, true_and, false_and, false_or]

/-- UF's threshold in the words of `FF.RoundsTo`. -/
theorem tiny_thresholds (f : FF) {mode : Mode} {neg : Bool} (hm : mode < 5) (v : ℝ) {least : ℝ} (hleast : least = 2 ^ (f.qmin + f.mb)) :
    f.Tiny mode neg v ↔ (inward mode neg ∧ v < least) ∨ (outward mode neg ∧ v ≤ least - least / (2 : ℝ) ^ (f.mb + 1))
      ∨ (toNearest mode ∧ v < least - least / (2 : ℝ) ^ (f.mb + 2)) := by
  rw [least_eq] at hleast
  have h1 : least / 2 ^ (f.mb + 1) = 2 ^ (f.qmin - 1) := by rw [hleast]; field_simp; ring
  have h2 : least / 2 ^ (f.mb + 2) = 2 ^ (f.qmin - 1) / 2 := by rw [hleast]; field_simp; ring
  rw [FF.Tiny, not_reaches_iff hm, h1, h2, hleast]

/-- OF's threshold in the words of `FF.RoundsTo`. -/
theorem overflow_thresholds {f : FF} (hw : f.Wide) (mode : Mode) (neg : Bool) (v : ℝ) {big ulp : ℝ} (hbig : big = f.mag f.max)
    (hulp : ulp = big - f.mag (f.max - 1)) :
    Reaches mode neg (2 * 2 ^ f.mb * 2 ^ (f.qmin + f.top)) (2 ^ (f.qmin + f.top)) v
      ↔ (outward mode neg ∧ big < v) ∨ (toNearest mode ∧ big + ulp / 2 ≤ v) ∨ (inward mode neg ∧ big + ulp ≤ v) := by
  rw [mag_max hw] at hbig
  rw [hbig, mag_max_sub_one hw] at hulp
  have hulp' : ulp = 2 ^ (f.qmin + f.top) := by rw [hulp]; ring
  have hsum : 2 * 2 ^ f.mb * 2 ^ (f.qmin + f.top) = big + ulp := by rw [hbig, hulp']; ring
  rw [hsum, ← hulp', Reaches]
  have e1 : big + ulp - ulp = big := by ring
  have e2 : big + ulp - ulp / 2 = big + ulp / 2 := by ring
  rw [e1, e2]

/-- What overflows is not tiny. -/
theorem not_tiny_of_reaches (f : FF) {mode : Mode} {neg : Bool} (hm : mode < 5) {v : ℝ}
    (h : Reaches mode neg (2 * 2 ^ f.mb * 2 ^ (f.qmin + f.top)) (2 ^ (f.qmin + f.top)) v) : ¬ f.Tiny mode neg v := by
  have hle := le_of_reaches (by positivity) h
  have hmb : (1 : ℝ) ≤ 2 ^ f.mb := one_le_pow₀ one_le_two
  refine not_not.2 (reaches_of_le neg hm (by positivity) ?_)
  have hpow : (2 : ℝ) ^ f.qmin ≤ 2 ^ (f.qmin + f.top) := zpow_le_zpow_right₀ one_le_two (by omega)
  rw [← least_eq, zpow_add₀ two_ne_zero, zpow_natCast]
  nlinarith [mul_le_mul_of_nonneg_left hpow (show (0 : ℝ) ≤ 2 ^ f.mb by positivity), zpow_pos (two_pos : (0 : ℝ) < 2) (f.qmin + f.top)]

theorem flags_of_finite (tiny inexact : Bool) :
    let fl := (if inexact then fNX else 0) ||| (if tiny = true ∧ inexact = true then fUF else 0)
    fl.toNat < 8 ∧ (fl.getLsbD 0 = true ↔ inexact = true) ∧ (fl.getLsbD 1 = true ↔ inexact = true ∧ tiny = true) ∧ ¬ fl.getLsbD 2 = true := by
  revert tiny inexact; decide

theorem round_roundsTo {f : FF} (hw : f.Wide) {mode : Mode} (neg : Bool) (hm : mode < 5) {m : Nat} (hpos : m ≠ 0) (e : Int) {sticky : Bool} {δ : ℝ}
    (h0 : 0 ≤ δ) (h1 : δ < 1) (hs : sticky = true ↔ δ ≠ 0) (hbits : sticky = true → f.mb < topBit m) :
    f.RoundsTo mode neg ((m + δ) * 2 ^ e) (f.round mode neg m e sticky) := by
  obtain ⟨j, x, q, y, tiny, inexact, hsplit, htiny, hinexact, hround⟩ := round_eq neg hm hpos e h0 h1 hs hbits
  have hinf := inf_le_rounded_iff hw hm (neg := neg) hsplit.scaled
  have hv := hsplit.eq
  generalize (m + δ) * 2 ^ e = v at *
  rw [hv] at hinf
  simp only [FF.RoundsTo]
  rw [hround, ← overflow_thresholds hw mode neg v rfl rfl, ← tiny_thresholds f hm v rfl, ← hinf]
  by_cases hov : f.inf ≤ f.rounded mode neg j x
  · obtain ⟨b, hb, hoverflow, hin, hnotin⟩ := overflow_eq f neg hm
    rw [if_pos hov]
    dsimp only
    refine ⟨b, hb, hoverflow, by decide, iff_of_true (by decide) hov, fun _ => ⟨by decide, hin, hnotin⟩, fun h => absurd (by decide) h,
      iff_of_false (by decide) fun h => not_tiny_of_reaches f hm (hinf.1 hov) h.2⟩
  · have hlt : f.rounded mode neg j x < f.inf := not_le.1 hov
    obtain ⟨hsmall, hnx, huf, hof⟩ := flags_of_finite tiny inexact
    have hne : inexact = true ↔ f.mag (f.rounded mode neg j x) ≠ v := by
      rw [hinexact, mag_eq_grid hlt, grid_rounded hsplit.scaled, ← hv, Ne, Ne, mul_left_inj' (by positivity)]
    have hmag : ∀ c, c < f.inf → f.mag c = f.grid c := fun c => mag_eq_grid
    rw [if_neg hov]
    dsimp only
    refine ⟨_, hlt.le, rfl, hsmall, iff_of_false hof hov, fun h => absurd h hof,
      fun _ => ⟨hlt, hnx.trans hne, ?_, ?_, ?_⟩, by rw [huf, hnx, htiny]⟩ <;> rw [hmag _ hlt, ← hv]
    · intro hin
      obtain ⟨hle, hmax⟩ := grid_rounded_inward hsplit.scaled hin
      exact ⟨hle, fun c hc => by rw [hmag c hc]; exact hmax c⟩
    · intro hout
      obtain ⟨hle, hmin⟩ := grid_rounded_outward hsplit.scaled hout
      exact ⟨hle, fun c hc => by rw [hmag c hc]; exact hmin c⟩
    · intro hnear c hc hcb
      rw [hmag c hc]
      exact grid_rounded_toNearest hw hsplit.scaled hnear c hcb

end Sys2Proof.Machine
end

section
/-! SUPPORT. Arithmetic of finite values (R54, R55): the exact result, and its one rounding. -/
namespace Sys2Proof.Machine

/-! ### Exact values -/

@[simp] theorem FV.val_fin (n : Bool) (m : Nat) (e : Int) : (FV.fin n m e).val = (if n then -1 else 1) * (m : ℝ) * 2 ^ e := rfl

theorem FV.finite.exists_fin {a : FV} (h : a.finite) : ∃ n m e, a = .fin n m e := by
  cases a with
  | fin n m e => exact ⟨n, m, e, rfl⟩
  | nan _ => exact h.elim
  | inf _ => exact h.elim

theorem FV.val_fin_eq_zero {n : Bool} {m : Nat} {e : Int} : (FV.fin n m e).val = 0 ↔ m = 0 := by
  have : (2 : ℝ) ^ e ≠ 0 := by positivity
  cases n <;> simp [this]

theorem FV.val_neg (a : FV) : a.neg.val = -a.val := by
  cases a with
  | fin n m e => cases n <;> simp [FV.neg]
  | nan _ => simp [FV.neg, FV.val]
  | inf _ => simp [FV.neg, FV.val]

theorem signedOf_cast (n : Bool) (m : Nat) : ((signedOf n m : Int) : ℝ) = (if n then -1 else 1) * m := by
  cases n <;> simp [signedOf]

theorem addExact_val (n1 : Bool) (m1 : Nat) (e1 : Int) (n2 : Bool) (m2 : Nat) (e2 : Int) :
    ((addExact n1 m1 e1 n2 m2 e2).1 : ℝ) * 2 ^ (addExact n1 m1 e1 n2 m2 e2).2 = (FV.fin n1 m1 e1).val + (FV.fin n2 m2 e2).val := by
  have hscale (n : Bool) (m : Nat) {e e' : Int} (h : e' ≤ e) : ((signedOf n (m * 2 ^ (e - e').toNat) : Int) : ℝ) * 2 ^ e' = (FV.fin n m e).val := by
    obtain ⟨k, rfl⟩ := Int.le.dest h
    rw [signedOf_cast, FV.val_fin, show (e' + k - e').toNat = k by omega, zpow_add₀ two_ne_zero, zpow_natCast]
    push_cast; ring
  unfold addExact
  simp only [Int.cast_add, add_mul]
  congr 1 <;> exact hscale _ _ (by split <;> omega)

/-! ### One rounding -/

/-- `r` is a non-zero real number rounded once, when `neg` is its sign. -/
def FF.RoundsReal (f : FF) (mode : Mode) (neg : Bool) (v : ℝ) (r : FRes) : Prop := v ≠ 0 → (neg = true ↔ v < 0) → f.RoundsTo mode neg |v| r

section arithmetic
variable {f : FF} {mode : Mode} {neg : Bool}

theorem roundsReal_of_sign {n : Bool} {w : ℝ} {r : FRes} (h0 : 0 ≤ w) (h : w ≠ 0 → f.RoundsTo mode n w r) :
    f.RoundsReal mode neg ((if n then -1 else 1) * w) r := by
  intro hv hneg
  have hw : w ≠ 0 := right_ne_zero_of_mul hv
  have hpos : 0 < w := h0.lt_of_ne' hw
  cases n
  · have hn : neg = false := by simpa [h0.not_gt] using hneg
    simpa [hn, abs_of_nonneg h0] using h hw
  · have hn : neg = true := by simpa [hpos] using hneg
    simpa [hn, abs_of_nonneg h0] using h hw

theorem round_fin_real (hw : f.Wide) (hm : mode < 5) (n : Bool) (m : Nat) (e : Int) :
    f.RoundsReal mode neg (FV.fin n m e).val (f.round mode n m e false) := by
  rw [FV.val_fin, mul_assoc]
  refine roundsReal_of_sign (by positivity) fun h => ?_
  have hpos : m ≠ 0 := by rintro rfl; simp at h
  simpa using round_roundsTo hw n hm hpos e (sticky := false) le_rfl one_pos (by simp) (by simp)

theorem round_fin_zero (n : Bool) (e : Int) : f.round mode n 0 e false = (if n then f.sgn else 0, 0) := rfl

theorem fin_of_int (s e : Int) : (FV.fin (decide (s < 0)) s.natAbs e).val = s * 2 ^ e := by
  rw [FV.val_fin, Nat.cast_natAbs]
  congr 1
  rcases lt_or_ge s 0 with h | h
  · simp [h, abs_of_neg h]
  · simp [h.not_gt, abs_of_nonneg h]

theorem round_int_real (hw : f.Wide) (hm : mode < 5) (s e : Int) :
    f.RoundsReal mode neg (s * 2 ^ e) (f.round mode (decide (s < 0)) s.natAbs e false) :=
  fin_of_int s e ▸ round_fin_real hw hm _ _ e

/-- The sign of an exact zero sum (R54). -/
theorem roundSum_spec (hw : f.Wide) (hm : mode < 5) (n1 : Bool) (m1 : Nat) (e1 : Int) (n2 : Bool) (m2 : Nat) (e2 : Int) :
    f.RoundsReal mode neg ((FV.fin n1 m1 e1).val + (FV.fin n2 m2 e2).val) (f.roundSum mode n1 m1 e1 n2 m2 e2)
      ∧ ((FV.fin n1 m1 e1).val + (FV.fin n2 m2 e2).val = 0 →
        f.roundSum mode n1 m1 e1 n2 m2 e2 = (if zeroSign mode n1 n2 then f.sgn else 0, 0)) := by
  have hval := addExact_val n1 m1 e1 n2 m2 e2
  unfold FF.roundSum
  rw [← hval]
  generalize addExact n1 m1 e1 n2 m2 e2 = q
  obtain ⟨s, e⟩ := q
  have hzero : (s : ℝ) * 2 ^ e = 0 ↔ s = 0 := by
    rw [mul_eq_zero, or_iff_left (by positivity : (2 : ℝ) ^ e ≠ 0), Int.cast_eq_zero]
  by_cases hs : s = 0
  · refine ⟨fun hv => absurd (hzero.2 hs) hv, fun _ => if_pos hs⟩
  · refine ⟨?_, fun hv => absurd (hzero.1 hv) hs⟩
    simp only [hs, if_false]
    exact round_int_real hw hm s e

end arithmetic

/-! ### Operations on decoded values -/

section operations
variable (f : FF) (mode : Mode) (n1 n2 n3 : Bool) (m1 m2 m3 : Nat) (e1 e2 e3 : Int)

theorem fmaV_fin : f.fmaV mode (.fin n1 m1 e1) (.fin n2 m2 e2) (.fin n3 m3 e3)
    = f.roundSum mode (n1 != n2) (m1 * m2) (e1 + e2) n3 m3 e3 := by
  cases m1 <;> rfl

theorem val_mul : (FV.fin n1 m1 e1).val * (FV.fin n2 m2 e2).val = (FV.fin (n1 != n2) (m1 * m2) (e1 + e2)).val := by
  simp only [FV.val_fin, zpow_add₀ (two_ne_zero (α := ℝ))]
  cases n1 <;> cases n2 <;> push_cast <;> simp <;> ring

end operations

/-! ### Quotients -/

theorem val_div (n1 n2 : Bool) (m1 m2 : Nat) (e1 e2 : Int) : (FV.fin n1 m1 e1).val / (FV.fin n2 m2 e2).val
    = (if n1 != n2 then -1 else 1) * (m1 / m2 * 2 ^ (e1 - e2)) := by
  simp only [FV.val_fin, zpow_sub₀ (two_ne_zero (α := ℝ))]
  cases n1 <;> cases n2 <;> simp <;> ring

/-- The model's quotient has more bits than the format holds. -/
theorem two_pow_le_quotient (b : Nat) {m1 m2 : Nat} (h1 : m1 ≠ 0) (h2 : m2 ≠ 0) : 2 ^ (b + 1) ≤ m1 * 2 ^ (b + 3 + topBit m2) / m2 := by
  rw [Nat.le_div_iff_mul_le (Nat.pos_of_ne_zero h2)]
  calc 2 ^ (b + 1) * m2 ≤ 2 ^ (b + 1) * 2 ^ (topBit m2 + 1) := Nat.mul_le_mul_left _ Nat.lt_log2_self.le
    _ ≤ 1 * 2 ^ (b + 3 + topBit m2) := by rw [← pow_add, one_mul]; exact Nat.pow_le_pow_right (by decide) (by omega)
    _ ≤ m1 * 2 ^ (b + 3 + topBit m2) := Nat.mul_le_mul_right _ (Nat.pos_of_ne_zero h1)

theorem lt_topBit {b m : Nat} (h : 2 ^ (b + 1) ≤ m) : b < topBit m :=
  (Nat.le_log2 (lt_of_lt_of_le (by positivity) h).ne').2 h

theorem divV_fin_real {f : FF} (hw : f.Wide) {mode : Mode} (hm : mode < 5) {neg : Bool} (n1 n2 : Bool) (m1 : Nat) {m2 : Nat} (e1 e2 : Int) (h2 : m2 ≠ 0) :
    f.RoundsReal mode neg ((FV.fin n1 m1 e1).val / (FV.fin n2 m2 e2).val) (f.divV mode (.fin n1 m1 e1) (.fin n2 m2 e2)) := by
  rw [val_div]
  refine roundsReal_of_sign (by positivity) fun h => ?_
  have h1 : m1 ≠ 0 := by rintro rfl; simp at h
  have hquot := two_pow_le_quotient f.mb h1 h2
  set k := f.mb + 3 + topBit m2 with hk
  have hdiv : f.divV mode (.fin n1 m1 e1) (.fin n2 m2 e2)
      = f.round mode (n1 != n2) (m1 * 2 ^ k / m2) (e1 - e2 - k) (m1 * 2 ^ k % m2 != 0) := by
    simp [FF.divV, h1, h2, hk]
  have hpos : (0 : ℝ) < m2 := by positivity
  have hδ : ((m1 * 2 ^ k % m2 : Nat) : ℝ) / m2 < 1 := (div_lt_one hpos).2 (by exact_mod_cast Nat.mod_lt _ (Nat.pos_of_ne_zero h2))
  have hsplit : (m2 : ℝ) * (m1 * 2 ^ k / m2 : Nat) + (m1 * 2 ^ k % m2 : Nat) = m1 * 2 ^ k := by exact_mod_cast Nat.div_add_mod (m1 * 2 ^ k) m2
  have hval : (m1 : ℝ) / m2 * 2 ^ (e1 - e2) = ((m1 * 2 ^ k / m2 : Nat) + ((m1 * 2 ^ k % m2 : Nat) : ℝ) / m2) * 2 ^ (e1 - e2 - k) := by
    rw [zpow_sub₀ two_ne_zero _ (k : Int), zpow_natCast]
    field_simp
    linarith
  rw [hval, hdiv]
  refine round_roundsTo hw _ hm ?_ _ (by positivity) hδ ?_ fun _ => lt_topBit hquot
  · exact (lt_of_lt_of_le (by positivity) hquot).ne'
  · simp [hpos.ne']

/-! ### Square roots -/

theorem isqrtFrom_eq_sqrt (n b r : Nat) (h0 : r * r ≤ n) (h1 : n < (r + 2 ^ (b + 1)) * (r + 2 ^ (b + 1))) : isqrtFrom n b r = Nat.sqrt n := by
  induction b generalizing r with
  | zero =>
    unfold isqrtFrom
    split
    · next h => exact Nat.eq_sqrt.2 ⟨h, h1⟩
    · next h => exact Nat.eq_sqrt.2 ⟨h0, not_le.1 h⟩
  | succ b ih =>
    unfold isqrtFrom
    split
    · next h => exact ih _ h (by rwa [add_assoc, ← two_mul, ← pow_succ'])
    · next h => exact ih _ h0 (not_le.1 h)

theorem isqrt_eq_sqrt (n : Nat) : isqrt n = Nat.sqrt n := by
  refine isqrtFrom_eq_sqrt n _ 0 (Nat.zero_le _) ?_
  rw [zero_add, ← pow_add]
  exact Nat.lt_log2_self.trans_le (Nat.pow_le_pow_right (by decide) (by unfold topBit; omega))

theorem sqrtV_fin_roundsTo {f : FF} (hw : f.Wide) {mode : Mode} (hm : mode < 5) {m : Nat} (h : m ≠ 0) (e : Int) :
    f.RoundsTo mode false (Real.sqrt (m * 2 ^ e)) (f.sqrtV mode (.fin false m e)) := by
  set k := 2 * f.mb + 8 + (if e % 2 = 0 then 0 else 1) with hk
  set n := m * 2 ^ k with hn
  have hsqrt : f.sqrtV mode (.fin false m e) = f.round mode false (Nat.sqrt n) ((e - k) / 2) (Nat.sqrt n * Nat.sqrt n != n) := by
    rw [← isqrt_eq_sqrt]
    simp [FF.sqrtV, h, hk, hn]
  have hroot : 2 ^ (f.mb + 1) ≤ Nat.sqrt n := by
    rw [Nat.le_sqrt, ← pow_add]
    calc 2 ^ (f.mb + 1 + (f.mb + 1)) ≤ 1 * 2 ^ k := by rw [one_mul]; exact Nat.pow_le_pow_right (by decide) (by omega)
      _ ≤ m * 2 ^ k := Nat.mul_le_mul_right _ (Nat.pos_of_ne_zero h)
  have hval : Real.sqrt (m * 2 ^ e) = (Nat.sqrt n + (Real.sqrt n - Nat.sqrt n)) * 2 ^ ((e - k) / 2) := by
    obtain ⟨q, hq⟩ : ∃ q, e = k + 2 * q := ⟨(e - k) / 2, by rw [hk]; split <;> omega⟩
    rw [add_sub_cancel, show (e - k) / 2 = q by omega, hq, Real.sqrt_eq_iff_mul_self_eq (by positivity) (by positivity), mul_mul_mul_comm,
      Real.mul_self_sqrt n.cast_nonneg, hn, two_mul, zpow_add₀ two_ne_zero, zpow_add₀ two_ne_zero, zpow_natCast]
    push_cast
    ring
  rw [hval, hsqrt]
  refine round_roundsTo hw _ hm ?_ _ (sub_nonneg.2 Real.nat_sqrt_le_real_sqrt) ?_ ?_ fun _ => lt_topBit hroot
  · exact (lt_of_lt_of_le (by positivity) hroot).ne'
  · linarith [Real.real_sqrt_lt_nat_sqrt_succ (a := n)]
  · rw [bne_iff_ne, not_iff_not, sub_eq_zero, Real.sqrt_eq_iff_mul_self_eq (by positivity) (by positivity)]
    exact_mod_cast eq_comm

/-! ### Finite operands -/

theorem FV.neg_finite {a : FV} (h : a.finite) : a.neg.finite := by
  obtain ⟨n, m, e, rfl⟩ := h.exists_fin; trivial

theorem FV.signBit_neg {a : FV} (h : a.finite) : a.neg.signBit = !a.signBit := by
  obtain ⟨n, m, e, rfl⟩ := h.exists_fin; rfl

section finite
variable {f : FF} {mode : Mode} {neg : Bool} {a b c : FV}

theorem addV_finite (hw : f.Wide) (hm : mode < 5) (ha : a.finite) (hb : b.finite) :
    f.RoundsReal mode neg (a.val + b.val) (f.addV mode a b)
      ∧ (a.val + b.val = 0 → f.addV mode a b = (if zeroSign mode a.signBit b.signBit then f.sgn else 0, 0)) := by
  obtain ⟨n1, m1, e1, rfl⟩ := ha.exists_fin
  obtain ⟨n2, m2, e2, rfl⟩ := hb.exists_fin
  exact roundSum_spec hw hm n1 m1 e1 n2 m2 e2

theorem mulV_finite (hw : f.Wide) (hm : mode < 5) (ha : a.finite) (hb : b.finite) :
    f.RoundsReal mode neg (a.val * b.val) (f.mulV mode a b)
      ∧ (a.val * b.val = 0 → f.mulV mode a b = (if a.signBit != b.signBit then f.sgn else 0, 0)) := by
  obtain ⟨n1, m1, e1, rfl⟩ := ha.exists_fin
  obtain ⟨n2, m2, e2, rfl⟩ := hb.exists_fin
  rw [val_mul]
  refine ⟨round_fin_real hw hm _ _ _, fun h => ?_⟩
  show f.round mode (n1 != n2) (m1 * m2) (e1 + e2) false = _
  rw [FV.val_fin_eq_zero.1 h]
  exact round_fin_zero _ _

theorem fmaV_finite (hw : f.Wide) (hm : mode < 5) (ha : a.finite) (hb : b.finite) (hc : c.finite) :
    f.RoundsReal mode neg (a.val * b.val + c.val) (f.fmaV mode a b c)
      ∧ (a.val * b.val + c.val = 0 → f.fmaV mode a b c = (if zeroSign mode (a.signBit != b.signBit) c.signBit then f.sgn else 0, 0)) := by
  obtain ⟨n1, m1, e1, rfl⟩ := ha.exists_fin
  obtain ⟨n2, m2, e2, rfl⟩ := hb.exists_fin
  obtain ⟨n3, m3, e3, rfl⟩ := hc.exists_fin
  rw [val_mul, fmaV_fin]
  exact roundSum_spec hw hm _ _ _ n3 m3 e3

theorem divV_finite (hw : f.Wide) (hm : mode < 5) (ha : a.finite) (hb : b.finite) (h : b.val ≠ 0) :
    f.RoundsReal mode neg (a.val / b.val) (f.divV mode a b)
      ∧ (a.val = 0 → f.divV mode a b = (if a.signBit != b.signBit then f.sgn else 0, 0)) := by
  obtain ⟨n1, m1, e1, rfl⟩ := ha.exists_fin
  obtain ⟨n2, m2, e2, rfl⟩ := hb.exists_fin
  rw [Ne, FV.val_fin_eq_zero] at h
  refine ⟨divV_fin_real hw hm n1 n2 m1 e1 e2 h, fun h0 => ?_⟩
  rw [FV.val_fin_eq_zero] at h0
  simp [FF.divV, h, h0, FV.signBit]

theorem divV_by_zero (ha : a.finite) (hb : b.finite) (h : b.val = 0) (h0 : a.val ≠ 0) :
    f.divV mode a b = ((if a.signBit != b.signBit then f.sgn else 0) + f.inf, fDZ) := by
  obtain ⟨n1, m1, e1, rfl⟩ := ha.exists_fin
  obtain ⟨n2, m2, e2, rfl⟩ := hb.exists_fin
  rw [FV.val_fin_eq_zero] at h
  rw [Ne, FV.val_fin_eq_zero] at h0
  simp [FF.divV, h, h0, FV.signBit, FF.infRes]

theorem sqrtV_finite (hw : f.Wide) (hm : mode < 5) (ha : a.finite) :
    (0 < a.val → f.RoundsTo mode false (Real.sqrt a.val) (f.sqrtV mode a)) ∧ (a.val = 0 → f.sqrtV mode a = (if a.signBit then f.sgn else 0, 0)) := by
  obtain ⟨n, m, e, rfl⟩ := ha.exists_fin
  constructor
  · intro hpos
    cases n
    · have hm0 : m ≠ 0 := fun h => hpos.ne' (FV.val_fin_eq_zero.2 h)
      simpa using sqrtV_fin_roundsTo hw hm hm0 e
    · have : 0 ≤ (m : ℝ) * 2 ^ e := by positivity
      simp only [FV.val_fin, if_true] at hpos
      linarith
  · intro h
    rw [FV.val_fin_eq_zero] at h
    cases n <;> simp [FF.sqrtV, h, FV.signBit]

theorem ofV_finite (hw : f.Wide) (hm : mode < 5) (ha : a.finite) :
    f.RoundsReal mode neg a.val (f.ofV mode a) ∧ (a.val = 0 → f.ofV mode a = (if a.signBit then f.sgn else 0, 0)) := by
  obtain ⟨n, m, e, rfl⟩ := ha.exists_fin
  refine ⟨round_fin_real hw hm n m e, fun h => ?_⟩
  rw [FV.val_fin_eq_zero] at h
  rw [h]
  exact round_fin_zero n e

end finite

/-- Settles O32: the exact result of each operation is rounded once (`round_roundsTo`). -/
theorem floatArithmeticRoundsOnce : Obligations.FloatArithmeticRoundsOnce := by
  unfold Obligations.FloatArithmeticRoundsOnce
  intro f mode x y z neg i hf hm a b c rounds zero ha hb hc
  have hw := wide_of_mem hf
  have hint := round_int_real (f := f) (neg := neg) hw hm i 0
  rw [zpow_zero, mul_one] at hint
  have hzero (n1 n2 : Bool) : ((if zeroSign mode n1 n2 then f.sgn else 0, 0) : FRes) = zero (if n1 = n2 then n1 else mode = 3) := by
    simp [zeroSign, zero]
  have hadd := addV_finite (neg := neg) hw hm ha hb
  have hsub := addV_finite (neg := neg) hw hm ha (FV.neg_finite hb)
  have hmul := mulV_finite (neg := neg) hw hm ha hb
  have hfma := fmaV_finite (neg := neg) hw hm ha hb hc
  have hfms := fmaV_finite (neg := neg) hw hm ha hb (FV.neg_finite hc)
  rw [FV.val_neg, ← sub_eq_add_neg, FV.signBit_neg hb, hzero] at hsub
  rw [FV.val_neg, ← sub_eq_add_neg, FV.signBit_neg hc, hzero] at hfms
  rw [hzero] at hadd hfma
  have hsame (n1 n2 : Bool) : (if n1 = n2 then n1 else mode = 3 : Bool) = (if n1 = n2 then n2 else mode = 3) := by
    split <;> simp_all
  refine ⟨hadd.1, hsub.1, hadd.2, hsub.2, hmul.1, hmul.2, divV_finite hw hm ha hb, divV_by_zero ha hb, hfma.1, hfms.1,
    fun h => hsame _ _ ▸ hfma.2 h, fun h => hsame _ _ ▸ hfms.2 h,
    (sqrtV_finite hw hm ha).1, (sqrtV_finite hw hm ha).2, fun g _ hg => ofV_finite hw hm hg, hint, rfl⟩

end Sys2Proof.Machine
end

section
/-! SUPPORT. NaNs, infinities, minimum and maximum, comparisons and the class word (R52, R56 to R58, R135). -/

namespace Sys2Proof.Machine

/-! ### NaN operands (R56) -/

theorem FV.exists_nan {a : FV} (h : a.isNan = true) : ∃ s, a = .nan s := by
  cases a with
  | nan s => exact ⟨s, rfl⟩
  | inf _ => exact absurd h Bool.false_ne_true
  | fin _ _ _ => exact absurd h Bool.false_ne_true

@[simp] theorem FV.snan_nan (s : Bool) : (FV.nan s).snan = s := by cases s <;> rfl

theorem FV.snan_of_not_nan {a : FV} (h : a.isNan = false) : a.snan = false := by
  cases a with
  | nan s => exact absurd h.symm Bool.false_ne_true
  | inf _ => rfl
  | fin _ _ _ => rfl

theorem FV.isNan_neg (a : FV) : a.neg.isNan = a.isNan := by cases a <;> rfl

theorem FV.snan_neg (a : FV) : a.neg.snan = a.snan := by
  cases a with
  | nan s => rfl
  | inf _ => rfl
  | fin _ _ _ => rfl

theorem FV.finite.isNan {a : FV} (h : a.finite) : a.isNan = false := by obtain ⟨n, m, e, rfl⟩ := h.exists_fin; rfl

/-- An operation that answers the default NaN for a NaN on either side. -/
theorem nan_of_operand {f : FF} {op : FV → FV → FRes} (hl : ∀ s b, op (.nan s) b = f.nanRes (s || b.snan))
    (hi : ∀ n s, op (.inf n) (.nan s) = f.nanRes (s || false)) (hf : ∀ n m e s, op (.fin n m e) (.nan s) = f.nanRes (s || false))
    {a b : FV} (h : a.isNan = true ∨ b.isNan = true) : op a b = (f.nan, if a.snan || b.snan then fNV else 0) := by
  cases a with
  | nan s => rw [hl, FV.snan_nan]; rfl
  | inf n =>
    obtain ⟨s, rfl⟩ := FV.exists_nan (h.resolve_left Bool.false_ne_true)
    rw [hi, FV.snan_nan, Bool.or_comm]; rfl
  | fin n m e =>
    obtain ⟨s, rfl⟩ := FV.exists_nan (h.resolve_left Bool.false_ne_true)
    rw [hf, FV.snan_nan, Bool.or_comm]; rfl

section nan
variable (f : FF) (mode : Mode) {a b c : FV}

theorem addV_nan (h : a.isNan = true ∨ b.isNan = true) : f.addV mode a b = (f.nan, if a.snan || b.snan then fNV else 0) :=
  nan_of_operand (fun _ _ => rfl) (fun _ _ => rfl) (fun _ _ _ _ => rfl) h

theorem mulV_nan (h : a.isNan = true ∨ b.isNan = true) : f.mulV mode a b = (f.nan, if a.snan || b.snan then fNV else 0) :=
  nan_of_operand (fun _ _ => rfl) (fun _ _ => rfl) (fun _ _ _ _ => rfl) h

theorem divV_nan (h : a.isNan = true ∨ b.isNan = true) : f.divV mode a b = (f.nan, if a.snan || b.snan then fNV else 0) :=
  nan_of_operand (fun _ _ => rfl) (fun _ _ => rfl) (fun _ _ _ _ => rfl) h

theorem fmaV_nan (h : (a.isNan || b.isNan || c.isNan) = true) :
    (f.fmaV mode a b c).1 = f.nan ∧ ((a.snan || b.snan || c.snan) = true → (f.fmaV mode a b c).2 = fNV) := by
  unfold FF.fmaV
  simp only [h, if_true]
  refine ⟨rfl, fun hs => ?_⟩
  simp [FF.nanRes, hs]

theorem sqrtV_nan (h : a.isNan = true) : f.sqrtV mode a = (f.nan, if a.snan then fNV else 0) := by
  obtain ⟨s, rfl⟩ := FV.exists_nan h
  rw [FV.snan_nan]; rfl

theorem ofV_nan (h : a.isNan = true) : f.ofV mode a = (f.nan, if a.snan then fNV else 0) := by
  obtain ⟨s, rfl⟩ := FV.exists_nan h
  rw [FV.snan_nan]; rfl

theorem sqrtV_negative (h : a.val < 0 ∨ a = .inf true) : f.sqrtV mode a = (f.nan, fNV) := by
  rcases h with h | rfl
  · cases a with
    | nan _ => exact absurd h (lt_irrefl 0)
    | inf _ => exact absurd h (lt_irrefl 0)
    | fin n m e =>
      have hm : m ≠ 0 := fun h0 => h.ne (FV.val_fin_eq_zero.2 h0)
      cases n
      · exact absurd h (not_lt.2 (by simp only [FV.val_fin]; simp; positivity))
      · simp [FF.sqrtV, hm, FF.nanRes]
  · rfl

end nan

/-! ### Infinities (R54, R56) -/

section infinities
variable (f : FF) (mode : Mode) {p q : Bool} {e : Int} {a b : FV}

theorem addV_inf_opposite (ha : a = .inf p) (hb : b = .inf !p) : f.addV mode a b = (f.nan, fNV) := by
  subst ha hb; cases p <;> rfl

theorem addV_inf_finite (ha : a = .inf p) (hb : b.finite) : f.addV mode a b = ((if p then f.sgn else 0) + f.inf, 0) := by
  obtain ⟨n, m, e, rfl⟩ := hb.exists_fin
  subst ha; rfl

theorem mulV_inf_zero (ha : a = .inf p) (hb : b = .fin q 0 e) : f.mulV mode a b = (f.nan, fNV) ∧ f.mulV mode b a = (f.nan, fNV) := by
  subst ha hb; exact ⟨rfl, rfl⟩

theorem mulV_inf_inf (ha : a = .inf p) (hb : b = .inf q) : f.mulV mode a b = ((if p != q then f.sgn else 0) + f.inf, 0) := by
  subst ha hb; rfl

theorem divV_inf_inf (ha : a = .inf p) (hb : b = .inf q) : f.divV mode a b = (f.nan, fNV) := by
  subst ha hb; rfl

theorem divV_zero_zero {e' : Int} (ha : a = .fin p 0 e) (hb : b = .fin q 0 e') : f.divV mode a b = (f.nan, fNV) := by
  subst ha hb; rfl

theorem neg_eq_inf (hb : b = .inf q) : b.neg = .inf !q := by subst hb; rfl

end infinities

/-! ### Order (R57, R58) -/

section order
variable {a b : FV}

theorem FV.exact_difference (n1 n2 : Bool) (m1 m2 : Nat) (e1 e2 : Int) :
    ((addExact n1 m1 e1 (!n2) m2 e2).1 < 0 ↔ (FV.fin n1 m1 e1).val < (FV.fin n2 m2 e2).val)
      ∧ ((addExact n1 m1 e1 (!n2) m2 e2).1 = 0 ↔ (FV.fin n1 m1 e1).val = (FV.fin n2 m2 e2).val) := by
  have hval := addExact_val n1 m1 e1 (!n2) m2 e2
  have hneg : (FV.fin (!n2) m2 e2).val = -(FV.fin n2 m2 e2).val := FV.val_neg (.fin n2 m2 e2)
  have hpos : (0 : ℝ) < 2 ^ (addExact n1 m1 e1 (!n2) m2 e2).2 := by positivity
  rw [hneg, ← sub_eq_add_neg] at hval
  rw [← sub_neg (a := (FV.fin n1 m1 e1).val), ← sub_eq_zero (a := (FV.fin n1 m1 e1).val), ← hval, mul_eq_zero, or_iff_left hpos.ne', Int.cast_eq_zero,
    ← Int.cast_lt_zero (R := ℝ)]
  exact ⟨⟨fun h => mul_neg_of_neg_of_pos h hpos, fun h => lt_of_mul_lt_mul_right (h.trans_eq (zero_mul _).symm) hpos.le⟩, Iff.rfl⟩

theorem FV.lt_finite (ha : a.finite) (hb : b.finite) : a.lt b = true ↔ a.val < b.val := by
  obtain ⟨n1, m1, e1, rfl⟩ := ha.exists_fin
  obtain ⟨n2, m2, e2, rfl⟩ := hb.exists_fin
  exact decide_eq_true_iff.trans (FV.exact_difference n1 n2 m1 m2 e1 e2).1

theorem FV.eq_finite (ha : a.finite) (hb : b.finite) : a.eq b = true ↔ a.val = b.val := by
  obtain ⟨n1, m1, e1, rfl⟩ := ha.exists_fin
  obtain ⟨n2, m2, e2, rfl⟩ := hb.exists_fin
  exact decide_eq_true_iff.trans (FV.exact_difference n1 n2 m1 m2 e1 e2).2

/-- An infinity and a finite value or the other infinity. -/
theorem FV.order_inf {p : Bool} (ha : a = .inf p) (hb : b.finite ∨ b = .inf (!p)) :
    a.isNan = false ∧ b.isNan = false ∧ a.lt b = p ∧ b.lt a = !p ∧ a.eq b = false ∧ b.eq a = false := by
  subst ha
  rcases hb with hb | rfl
  · obtain ⟨n, m, e, rfl⟩ := hb.exists_fin
    exact ⟨rfl, rfl, rfl, rfl, rfl, rfl⟩
  · cases p <;> decide

theorem FV.order_self (ha : a.isNan = false) : a.lt a = false ∧ a.eq a = true := by
  cases a with
  | nan _ => exact absurd ha.symm Bool.false_ne_true
  | inf p => cases p <;> decide
  | fin n m e =>
    have hfin : (FV.fin n m e).finite := trivial
    exact ⟨Bool.eq_false_iff.2 fun h => lt_irrefl _ ((FV.lt_finite hfin hfin).1 h), (FV.eq_finite hfin hfin).2 rfl⟩

/-- The order of minimum and maximum: −0 below +0. -/
def FV.below (a b : FV) : Bool := a.lt b || (a.eq b && a.signBit && !b.signBit)

theorem FV.below_finite (ha : a.finite) (hb : b.finite) :
    a.below b = true ↔ a.val < b.val ∨ a.val = b.val ∧ a.signBit = true ∧ b.signBit = false := by
  simp only [FV.below, Bool.or_eq_true, Bool.and_eq_true, FV.lt_finite ha hb, FV.eq_finite ha hb, Bool.not_eq_true', and_assoc]

end order

/-! ### Minimum and maximum (R57) -/

section minmax
variable {f : FF} {x y : Nat} (isMax : Bool)

theorem minmax_of_numbers (hx : (f.dec x).isNan = false) (hy : (f.dec y).isNan = false) :
    f.minmax isMax x y = (if (f.dec x).below (f.dec y) != isMax then x else y, 0) := by
  simp [FF.minmax, hx, hy, FV.snan_of_not_nan hx, FV.snan_of_not_nan hy, FV.below]

theorem minmax_one_nan (hx : (f.dec x).isNan = true) (hy : (f.dec y).isNan = false) :
    f.minmax isMax x y = (y, if (f.dec x).snan || (f.dec y).snan then fNV else 0)
      ∧ f.minmax isMax y x = (y, if (f.dec x).snan || (f.dec y).snan then fNV else 0) := by
  simp [FF.minmax, hx, hy, or_comm]

theorem minmax_two_nans (hx : (f.dec x).isNan = true) (hy : (f.dec y).isNan = true) :
    f.minmax isMax x y = (f.nan, if (f.dec x).snan || (f.dec y).snan then fNV else 0) := by
  simp [FF.minmax, hx, hy]

/-- The minimum and the maximum of two finite values, the first of which is below the second. -/
theorem minmax_finite (hx : (f.dec x).finite) (hy : (f.dec y).finite) (h : (f.dec x).val < (f.dec y).val
      ∨ (f.dec x).val = (f.dec y).val ∧ (f.dec x).signBit = true ∧ (f.dec y).signBit = false) :
    f.minmax isMax x y = (if isMax then y else x, 0) ∧ f.minmax isMax y x = (if isMax then y else x, 0) := by
  have hbelow : (f.dec x).below (f.dec y) = true := (FV.below_finite hx hy).2 h
  have hnot : (f.dec y).below (f.dec x) = false := by
    rw [Bool.eq_false_iff, Ne, FV.below_finite hy hx]
    rintro (h' | ⟨h', hsy, -⟩)
    · rcases h with h | h <;> linarith
    · rcases h with h | ⟨-, -, hsy'⟩
      · linarith
      · simp [hsy] at hsy'
  rw [minmax_of_numbers isMax hx.isNan hy.isNan, minmax_of_numbers isMax hy.isNan hx.isNan, hbelow, hnot]
  cases isMax <;> exact ⟨rfl, rfl⟩

theorem minmax_inf {p : Bool} (hx : f.dec x = .inf p) (hy : (f.dec y).finite ∨ f.dec y = .inf (!p)) :
    f.minmax isMax x y = (if p = isMax then y else x, 0) ∧ f.minmax isMax y x = (if p = isMax then y else x, 0) := by
  obtain ⟨hnx, hny, hlt, hgt, heq, heq'⟩ := FV.order_inf hx hy
  rw [minmax_of_numbers isMax hnx hny, minmax_of_numbers isMax hny hnx, FV.below, FV.below, hlt, hgt, heq, heq']
  cases p <;> cases isMax <;> exact ⟨rfl, rfl⟩

end minmax

/-! ### Comparisons (R58) -/

section compare
variable {a b : FV}

theorem fcmp_of_numbers (ha : a.isNan = false) (hb : b.isNan = false) :
    fcmpEq a b = (a.eq b, 0) ∧ fcmpLt a b = (a.lt b, 0) ∧ fcmpLe a b = (a.lt b || a.eq b, 0) := by
  simp [fcmpEq, fcmpLt, fcmpLe, ha, hb, FV.snan_of_not_nan ha, FV.snan_of_not_nan hb]

theorem fcmp_nan (h : (a.isNan || b.isNan) = true) :
    fcmpEq a b = (false, if a.snan || b.snan then fNV else 0) ∧ fcmpLt a b = (false, fNV) ∧ fcmpLe a b = (false, fNV) := by
  have hnot : (!a.isNan && !b.isNan) = false := by rw [← Bool.not_or, h]; rfl
  simp only [fcmpEq, fcmpLt, fcmpLe, h, hnot, Bool.false_and, if_true, and_self]

theorem fcmp_finite (ha : a.finite) (hb : b.finite) :
    (fcmpEq a b).2 = 0 ∧ (fcmpLt a b).2 = 0 ∧ (fcmpLe a b).2 = 0 ∧ ((fcmpEq a b).1 = true ↔ a.val = b.val)
      ∧ ((fcmpLt a b).1 = true ↔ a.val < b.val) ∧ ((fcmpLe a b).1 = true ↔ a.val ≤ b.val) := by
  obtain ⟨heq, hlt, hle⟩ := fcmp_of_numbers ha.isNan hb.isNan
  rw [heq, hlt, hle]
  refine ⟨rfl, rfl, rfl, FV.eq_finite ha hb, FV.lt_finite ha hb, ?_⟩
  rw [Bool.or_eq_true, FV.lt_finite ha hb, FV.eq_finite ha hb, le_iff_lt_or_eq]

end compare

/-! ### The class word (R135) -/

theorem dec_of_lt {f : FF} {x : Nat} (h : x < 2 ^ f.width) : f.dec x =
    if x / 2 ^ f.mb % 2 ^ f.eb = 2 ^ f.eb - 1 then
      (if x % 2 ^ f.mb = 0 then .inf (decide (f.sgn ≤ x)) else .nan (decide (x % 2 ^ f.mb < 2 ^ (f.mb - 1))))
    else if x / 2 ^ f.mb % 2 ^ f.eb = 0 then .fin (decide (f.sgn ≤ x)) (x % 2 ^ f.mb) f.qmin
    else .fin (decide (f.sgn ≤ x)) (x % 2 ^ f.mb + 2 ^ f.mb) (f.qmin + (x / 2 ^ f.mb % 2 ^ f.eb - 1 : Nat)) := by
  have hsgn : f.sgn = 2 ^ f.mb * 2 ^ f.eb := by unfold FF.sgn; rw [pow_add, mul_comm]
  have hexp : x % f.sgn / 2 ^ f.mb = x / 2 ^ f.mb % 2 ^ f.eb := by rw [hsgn, Nat.mod_mul_right_div_self]
  have hfrac : x % f.sgn % 2 ^ f.mb = x % 2 ^ f.mb := by rw [hsgn, Nat.mod_mul_right_mod]
  simp only [FF.dec, Nat.mod_eq_of_lt h, hexp, hfrac]

theorem classOf_of_lt {f : FF} (hw : f.Wide) {x : Nat} (h : x < 2 ^ f.width) : f.classOf x =
    if x / 2 ^ f.mb % 2 ^ f.eb = 0 then (if x % 2 ^ f.mb = 0 then (if f.sgn ≤ x then 8 else 16) else if f.sgn ≤ x then 4 else 32)
    else if x / 2 ^ f.mb % 2 ^ f.eb < 2 ^ f.eb - 1 then (if f.sgn ≤ x then 2 else 64)
    else if x % 2 ^ f.mb = 0 then (if f.sgn ≤ x then 1 else 128) else if x % 2 ^ f.mb < 2 ^ (f.mb - 1) then 256 else 512 := by
  have hfour : 2 ^ 2 ≤ 2 ^ f.eb := Nat.pow_le_pow_right (by decide) hw.1
  have hexp : x / 2 ^ f.mb % 2 ^ f.eb < 2 ^ f.eb := Nat.mod_lt _ (by positivity)
  have hfrac : x % 2 ^ f.mb < 2 ^ f.mb := Nat.mod_lt _ (by positivity)
  unfold FF.classOf
  rw [dec_of_lt h]
  generalize x / 2 ^ f.mb % 2 ^ f.eb = exp at *
  generalize x % 2 ^ f.mb = frac at *
  have hcases : exp = 0 ∧ exp ≠ 2 ^ f.eb - 1 ∨ exp ≠ 0 ∧ exp ≠ 2 ^ f.eb - 1 ∧ exp < 2 ^ f.eb - 1
      ∨ exp ≠ 0 ∧ exp = 2 ^ f.eb - 1 ∧ ¬ exp < 2 ^ f.eb - 1 := by omega
  rcases hcases with ⟨h0, htop⟩ | ⟨h0, htop, hlt⟩ | ⟨h0, htop, hlt⟩
  · rw [if_neg htop, if_pos h0, if_pos h0]
    by_cases hn : f.sgn ≤ x <;> simp [hn, hfrac]
  · rw [if_neg htop, if_neg h0, if_neg h0, if_pos hlt]
    by_cases hn : f.sgn ≤ x <;> simp [hn]
  · rw [if_pos htop, if_neg h0, if_neg hlt]
    by_cases hz : frac = 0
    · by_cases hn : f.sgn ≤ x <;> simp [hz, hn]
    · by_cases hq : frac < 2 ^ (f.mb - 1) <;> simp [hz, hq]

/-! ### Conversion to an integer (R53, R61) -/

theorem roundsInt_of_nonneg {mode : Mode} {x : ℝ} (h : 0 ≤ x) : RoundsInt mode x (roundNat mode false x) := by
  have hfloor (hin : inward mode false) : ((roundNat mode false x : Nat) : Int) = ⌊x⌋ := by rw [roundNat_inward hin, Int.natCast_floor_eq_floor h]
  refine ⟨fun h1 => ⟨fun _ => hfloor (.inl h1), fun hneg => absurd hneg h.not_gt⟩, fun h2 => ?_, fun h3 => hfloor (.inr (.inr ⟨h3, rfl⟩)), fun hm => ?_⟩
  · rw [roundNat_outward (.inl ⟨h2, rfl⟩) h, Int.natCast_ceil_eq_ceil h]
  · obtain ⟨hdist, htie⟩ := roundNat_toNearest (neg := false) hm h
    rw [Int.cast_natCast, abs_of_nonneg h, Nat.abs_cast]
    exact ⟨hdist, fun hhalf => ⟨fun h0 => by exact_mod_cast (htie hhalf).1 h0, (htie hhalf).2⟩⟩

theorem roundsInt_of_nonpos {mode : Mode} {x : ℝ} (h : 0 ≤ x) : RoundsInt mode (-x) (-(roundNat mode true x : Int)) := by
  have hceil (hin : inward mode true) : -((roundNat mode true x : Nat) : Int) = ⌈-x⌉ := by
    rw [roundNat_inward hin, Int.natCast_floor_eq_floor h, Int.ceil_neg]
  refine ⟨fun h1 => ⟨fun hx => ?_, fun _ => hceil (.inl h1)⟩, fun h2 => hceil (.inr (.inl ⟨h2, rfl⟩)), fun h3 => ?_, fun hm => ?_⟩
  · obtain rfl : x = 0 := by linarith
    simpa using hceil (.inl h1)
  · rw [roundNat_outward (.inr ⟨h3, rfl⟩) h, Int.natCast_ceil_eq_ceil h, Int.floor_neg]
  · obtain ⟨hdist, htie⟩ := roundNat_toNearest (neg := true) hm h
    rw [Int.cast_neg, Int.cast_natCast, neg_sub_neg, abs_sub_comm, abs_neg, abs_neg, abs_of_nonneg h, Nat.abs_cast]
    exact ⟨hdist, fun hhalf => ⟨fun h0 => by have := (htie hhalf).1 h0; omega, (htie hhalf).2⟩⟩

theorem toInt_finite {mode : Mode} (hm : mode < 5) (lo hi : Int) {a : FV} (ha : a.finite) : ∃ (n : Int) (inexact : Bool), RoundsInt mode a.val n
    ∧ (inexact = true ↔ (n : ℝ) ≠ a.val)
    ∧ toInt mode lo hi a = if n < lo then (lo, fNV) else if hi < n then (hi, fNV) else (n, if inexact then fNX else 0) := by
  obtain ⟨neg, m, e, rfl⟩ := ha.exists_fin
  have hx : (0 : ℝ) ≤ m * 2 ^ e := by positivity
  obtain ⟨hn, hinexact⟩ := roundAt_eq_roundNat neg hm m (e := e) (q := 0) (sticky := false) le_rfl one_pos (by simp) (by simp)
    (x := m * 2 ^ e) (by simp)
  refine ⟨signedOf neg (roundNat mode neg (m * 2 ^ e)), (roundAt mode neg m e false 0).2, ?_, ?_, ?_⟩
  · rw [FV.val_fin, mul_assoc]
    cases neg
    · simpa [signedOf] using roundsInt_of_nonneg hx
    · simpa [signedOf] using roundsInt_of_nonpos hx
  · rw [hinexact, signedOf_cast, FV.val_fin, mul_assoc]
    cases neg <;> simp
  · simp only [toInt, hn]

/-- Settles O33, operation by operation: NaN operands, infinities, the order of values, the class word and the conversion to an integer. -/
theorem floatSpecialValues : Obligations.FloatSpecialValues := by
  unfold Obligations.FloatSpecialValues
  intro f mode x y z lo hi hf hm hx hy a b c nv two exp frac minus
  refine ⟨fun hn => ?nan, fun hn => ?fused, sqrtV_nan f mode, fun p ha => ⟨fun hb => addV_inf_opposite f mode ha hb, fun hb => ?difference, fun hb => ?addInf⟩,
    fun p q e ha hb => mulV_inf_zero f mode ha hb, fun p q ha hb => ⟨divV_inf_inf f mode ha hb, mulV_inf_inf f mode ha hb⟩,
    fun p q e e' ha hb => divV_zero_zero f mode ha hb, sqrtV_negative f mode, fun g _ ha => ofV_nan g mode ha,
    fun ha hb => ?oneNan, fun ha hb => ⟨minmax_two_nans false ha hb, minmax_two_nans true ha hb⟩, fun ha hb h => ?order, fun p ha hb => ?orderInf,
    fun ha => ?self, fcmp_nan, fcmp_finite, classOf_of_lt (wide_of_mem hf) hx, fun ha => ?intNan, fun p ha => ?intInf, fun ha hle => ?int⟩
  case nan =>
    have hneg : a.isNan = true ∨ b.neg.isNan = true := by rwa [FV.isNan_neg]
    have hsub : f.sub mode x y = (f.nan, nv two) := (addV_nan f mode hneg).trans (by rw [FV.snan_neg])
    simp only [List.forall_mem_cons]
    exact ⟨addV_nan f mode hn, hsub, mulV_nan f mode hn, divV_nan f mode hn, fun _ h => absurd h List.not_mem_nil⟩
  case fused =>
    have hneg : (a.isNan || b.isNan || c.neg.isNan) = true := by rwa [FV.isNan_neg]
    obtain ⟨hres, hfl⟩ := fmaV_nan f mode hn
    obtain ⟨hres', hfl'⟩ := fmaV_nan f mode hneg
    exact ⟨hres, hres', fun hs => ⟨hfl hs, hfl' (by rwa [FV.snan_neg])⟩⟩
  case difference => exact addV_inf_opposite f mode ha (neg_eq_inf hb)
  case addInf => exact ⟨addV_inf_finite f mode ha hb, addV_inf_finite f mode ha (FV.neg_finite hb)⟩
  case oneNan =>
    obtain ⟨hmin, hmin'⟩ := minmax_one_nan false ha hb
    obtain ⟨hmax, hmax'⟩ := minmax_one_nan true ha hb
    exact ⟨hmin, hmax, hmin', hmax'⟩
  case order =>
    obtain ⟨hmin, hmin'⟩ := minmax_finite false ha hb h
    obtain ⟨hmax, hmax'⟩ := minmax_finite true ha hb h
    exact ⟨hmin, hmin', hmax, hmax'⟩
  case orderInf =>
    obtain ⟨hna, hnb, hlt, hgt, heq, heq'⟩ := FV.order_inf ha hb
    simp only [fcmp_of_numbers hna hnb, fcmp_of_numbers hnb hna, hlt, hgt, heq, heq', Bool.or_false, and_self, and_true]
    exact fun l => minmax_inf l ha hb
  case self =>
    obtain ⟨hlt, heq⟩ := FV.order_self ha
    simp only [fcmp_of_numbers ha ha, hlt, heq, Bool.false_or, and_self, and_true]
    exact fun l => (minmax_of_numbers l ha ha).trans (by rw [ite_self])
  case intNan =>
    obtain ⟨s, hs⟩ := FV.exists_nan ha
    rw [hs]; rfl
  case intInf => rw [ha]; rfl
  case int =>
    obtain ⟨n, inexact, hround, hne, hint⟩ := toInt_finite hm lo hi ha
    refine ⟨n, hround, fun h => ?_, fun h => ?_, fun h h' => ⟨fun heq => ?_, fun hneq => ?_⟩⟩
    · rw [hint, if_pos h]
    · rw [hint, if_neg (by omega), if_pos h]
    · rw [hint, if_neg (by omega), if_neg (by omega), if_neg fun hi => hne.1 hi heq]
    · rw [hint, if_neg (by omega), if_neg (by omega), if_pos (hne.2 hneq)]

end Sys2Proof.Machine
end

section
/-! SUPPORT. The canonical tree (R81): its halves, its flags, and the list it is filled up to. -/

namespace Sys2Proof.Machine

theorem zero_or_flags (x : BitVec 6) : 0 ||| x = x := BitVec.zero_or

theorem treeSteps_succ (f : Nat → Nat → FRes) (k : Nat) (l : List Nat) (fl : BitVec 6) :
    let rs := List.zipWith f (l.take (2 ^ k)) (l.drop (2 ^ k))
    treeSteps f (k + 1) l fl = treeSteps f k (rs.map Prod.fst) (fl ||| orAll (rs.map Prod.snd)) := rfl

/-- The flags so far are ORed into those of the steps to come. -/
theorem treeSteps_flags (f : Nat → Nat → FRes) (k : Nat) (l : List Nat) (fl : BitVec 6) :
    treeSteps f k l fl = ((treeSteps f k l 0).1, fl ||| (treeSteps f k l 0).2) := by
  induction k generalizing l fl with
  | zero => simp [treeSteps]
  | succ k ih => rw [treeSteps_succ, treeSteps_succ, ih, ih (fl := 0 ||| _), zero_or_flags, BitVec.or_assoc]

theorem ceilLog_of_le {m n : Nat} (h : 2 ^ n < m) (h' : m ≤ 2 ^ (n + 1)) : ceilLog m = n + 1 := by
  have hpos : 0 < 2 ^ n := by positivity
  have hlog : topBit (m - 1) = n := (Nat.log2_eq_iff (by omega)).2 ⟨by omega, by omega⟩
  unfold ceilLog
  rw [if_neg (by omega), hlog]

theorem ceilLog_two_pow (n : Nat) : ceilLog (2 ^ n) = n := by
  cases n with
  | zero => rfl
  | succ n => exact ceilLog_of_le (Nat.pow_lt_pow_right (by decide) n.lt_succ_self) le_rfl

section canonical
variable (o : RedOp) (t : ETy)

theorem canonical_of_length {l : List Nat} {n : Nat} (h : l.length = 2 ^ n) : canonical o t l = treeSteps (o.apply t) n l 0 := by
  simp [canonical, h, ceilLog_two_pow]

theorem canonical_singleton (x : Nat) : canonical o t [x] = (x, 0) := canonical_of_length o t (n := 0) rfl

theorem canonical_nil : canonical o t [] = (o.identity t, 0) := rfl

/-- The first step combines each value with the one half the length on. -/
theorem canonical_append {l r : List Nat} {n : Nat} (hl : l.length = 2 ^ n) (hr : r.length = 2 ^ n) :
    let q := List.zipWith (o.apply t) l r
    canonical o t (l ++ r) = ((canonical o t (q.map Prod.fst)).1, orAll (q.map Prod.snd) ||| (canonical o t (q.map Prod.fst)).2) := by
  intro q
  have hq : (q.map Prod.fst).length = 2 ^ n := by simp [q, hl, hr]
  rw [canonical_of_length o t (n := n + 1) (by rw [List.length_append, hl, hr, pow_succ, mul_two]), canonical_of_length o t hq]
  rw [treeSteps_succ, List.take_left' hl, List.drop_left' hl, treeSteps_flags, zero_or_flags]

/-- The tree is that of the list filled up with the identity. -/
theorem canonical_fill {l : List Nat} {n : Nat} (h : 2 ^ n < l.length) (h' : l.length ≤ 2 ^ (n + 1)) :
    canonical o t l = canonical o t (l ++ List.replicate (2 ^ (n + 1) - l.length) (o.identity t)) := by
  have hlen : (l ++ List.replicate (2 ^ (n + 1) - l.length) (o.identity t)).length = 2 ^ (n + 1) := by
    rw [List.length_append, List.length_replicate]; omega
  rw [canonical_of_length o t hlen, canonical, ceilLog_of_le h h']

end canonical

end Sys2Proof.Machine
end

section
/-! SUPPORT. Elements of vector registers (R39): what is read after a write, and an instruction that writes some elements of a group. -/

namespace Sys2Proof.Machine

/-! ### Bits of a number -/

theorem mod_div_mod_two_pow (x : Nat) {k m w : Nat} (h : k + m ≤ w) : x % 2 ^ w / 2 ^ k % 2 ^ m = x / 2 ^ k % 2 ^ m := by
  obtain ⟨j, rfl⟩ := Nat.exists_eq_add_of_le h
  rw [add_assoc, pow_add, Nat.mod_mul_right_div_self, pow_add, Nat.mod_mul_right_mod]

theorem ofNat_bits (x : Nat) {k m w : Nat} (h : k + m ≤ w) : (BitVec.ofNat w x).toNat / 2 ^ k % 2 ^ m = x / 2 ^ k % 2 ^ m := by
  rw [BitVec.toNat_ofNat, mod_div_mod_two_pow x h]

section putBits
variable (old k n new : Nat)

theorem putBits_eq : putBits old k n new = old % 2 ^ k + 2 ^ k * (new % 2 ^ n + 2 ^ n * (old / 2 ^ k / 2 ^ n)) := by
  have h1 := Nat.div_add_mod old (2 ^ k)
  have h2 := Nat.div_add_mod (old / 2 ^ k) (2 ^ n)
  unfold putBits
  generalize old / 2 ^ k = q at *
  have h3 : 2 ^ k * q = 2 ^ k * (2 ^ n * (q / 2 ^ n)) + 2 ^ k * (q % 2 ^ n) := by rw [← Nat.mul_add, h2]
  rw [Nat.mul_add, Nat.mul_comm _ (2 ^ k), Nat.mul_comm _ (2 ^ k)]
  omega

theorem putBits_same : putBits old k n new / 2 ^ k % 2 ^ n = new % 2 ^ n := by
  rw [putBits_eq, Nat.add_mul_div_left _ _ (by positivity), Nat.div_eq_of_lt (Nat.mod_lt _ (by positivity)), Nat.zero_add, Nat.add_mul_mod_self_left,
    Nat.mod_mod]

theorem putBits_above {k' m : Nat} (h : k + n ≤ k') : putBits old k n new / 2 ^ k' % 2 ^ m = old / 2 ^ k' % 2 ^ m := by
  obtain ⟨j, rfl⟩ := Nat.exists_eq_add_of_le h
  congr 1
  simp only [pow_add, ← Nat.div_div_eq_div_mul]
  rw [putBits_eq, Nat.add_mul_div_left _ _ (by positivity), Nat.div_eq_of_lt (Nat.mod_lt _ (by positivity)), Nat.zero_add,
    Nat.add_mul_div_left _ _ (by positivity), Nat.div_eq_of_lt (Nat.mod_lt _ (by positivity)), Nat.zero_add]

theorem putBits_below {k' m : Nat} (h : k' + m ≤ k) : putBits old k n new / 2 ^ k' % 2 ^ m = old / 2 ^ k' % 2 ^ m := by
  rw [← mod_div_mod_two_pow _ h, putBits_eq, Nat.add_mul_mod_self_left, Nat.mod_mod, mod_div_mod_two_pow _ h]

end putBits

/-! ### One element -/

/-- `n` bits of register `r` of a file replaced. -/
def bitsSet (v : Vector VReg2048 32) (r k n x : Nat) : Vector VReg2048 32 :=
  let q := Fin.ofNat 32 r
  v.set q (BitVec.ofNat 2048 (putBits v[q].toNat k n x))

theorem vget_bitsSet (v : Vector VReg2048 32) {r r' : Nat} (h : r < 32) (h' : r' < 32) (k n x : Nat) :
    vget (bitsSet v r k n x) r' = if r' = r then BitVec.ofNat 2048 (putBits (vget v r').toNat k n x) else vget v r' := by
  have hne : (Fin.ofNat 32 r).val = r := Nat.mod_eq_of_lt h
  have hne' : (Fin.ofNat 32 r').val = r' := Nat.mod_eq_of_lt h'
  simp only [vget, bitsSet, Fin.getElem_fin, Vector.getElem_set, hne, hne', eq_comm (a := r)]
  split
  · next he => simp only [he]
  · rfl

/-- Widths divide a register. -/
theorem ew_mul (t : ETy) : 2048 / t.ew * t.ew = 2048 := by cases t <;> rfl

theorem ew_pos (t : ETy) : 0 < t.ew := by cases t <;> decide

theorem perReg_pos (t : ETy) : 0 < 2048 / t.ew := by cases t <;> decide

theorem perFile (t : ETy) : 65536 / t.ew = 32 * (2048 / t.ew) := by cases t <;> rfl

section element
variable (v : Vector VReg2048 32) (t : ETy)

/-- The register of an element, and its place there. -/
theorem elem_place (r i : Nat) : r + i * t.ew / 2048 = (r * (2048 / t.ew) + i) / (2048 / t.ew)
    ∧ i * t.ew % 2048 = (r * (2048 / t.ew) + i) % (2048 / t.ew) * t.ew := by
  have hdiv : i * t.ew / 2048 = i / (2048 / t.ew) := by
    conv_lhs => rw [← ew_mul t]
    exact Nat.mul_div_mul_right _ _ (ew_pos t)
  have hmod : i * t.ew % 2048 = i % (2048 / t.ew) * t.ew := by
    conv_lhs => rw [← ew_mul t]
    exact Nat.mul_mod_mul_right _ _ _
  rw [hdiv, hmod, Nat.add_comm (r * _), Nat.add_mul_div_right _ _ (perReg_pos t), Nat.add_mul_mod_self_right, Nat.add_comm r]
  exact ⟨rfl, rfl⟩

theorem elemGet_eq (r i : Nat) : elemGet v r t.ew i = (vget v ((r * (2048 / t.ew) + i) / (2048 / t.ew))).toNat
    / 2 ^ ((r * (2048 / t.ew) + i) % (2048 / t.ew) * t.ew) % 2 ^ t.ew := by
  rw [elemGet, (elem_place t r i).1, (elem_place t r i).2]

theorem elemSet_eq (r i x : Nat) : elemSet v r t.ew i x =
    bitsSet v ((r * (2048 / t.ew) + i) / (2048 / t.ew)) ((r * (2048 / t.ew) + i) % (2048 / t.ew) * t.ew) t.ew x := by
  rw [← (elem_place t r i).1, ← (elem_place t r i).2]
  rfl

/-- An element of the file after a write to a group. -/
theorem elemGet_elemSet {r i j : Nat} (hi : r * (2048 / t.ew) + i < 65536 / t.ew) (hj : j < 65536 / t.ew) (x : Nat) :
    elemGet (elemSet v r t.ew i x) 0 t.ew j = if j = r * (2048 / t.ew) + i then x % 2 ^ t.ew else elemGet v 0 t.ew j := by
  rw [elemGet_eq, elemGet_eq, elemSet_eq, Nat.zero_mul, Nat.zero_add]
  rw [perFile] at hi hj
  generalize r * (2048 / t.ew) + i = i at *
  have hn := perReg_pos t
  have hfit : j % (2048 / t.ew) * t.ew + t.ew ≤ 2048 := by
    conv_rhs => rw [← ew_mul t]
    rw [← Nat.succ_mul]
    exact Nat.mul_le_mul_right _ (Nat.mod_lt _ hn)
  rw [vget_bitsSet v (Nat.div_lt_of_lt_mul (by rwa [Nat.mul_comm])) (Nat.div_lt_of_lt_mul (by rwa [Nat.mul_comm]))]
  rcases eq_or_ne j i with rfl | hne
  · rw [if_pos rfl, if_pos rfl, ofNat_bits _ hfit, putBits_same]
  rw [if_neg hne]
  split
  · next hreg =>
    rw [ofNat_bits _ hfit]
    have hplace : j % (2048 / t.ew) ≠ i % (2048 / t.ew) := fun h => hne (by
      rw [← Nat.div_add_mod j (2048 / t.ew), hreg, h, Nat.div_add_mod])
    rcases Nat.lt_or_gt_of_ne hplace with hlt | hgt
    · exact putBits_below _ _ _ _ (by rw [← Nat.succ_mul]; exact Nat.mul_le_mul_right _ hlt)
    · exact putBits_above _ _ _ _ (by rw [← Nat.succ_mul]; exact Nat.mul_le_mul_right _ hgt)
  · rfl

/-- An element of the file after the writes of some elements of a group. -/
theorem elemGet_elemsSet (g : Nat → Nat) (r : Nat) {is : List Nat} (his : ∀ i ∈ is, r * (2048 / t.ew) + i < 65536 / t.ew)
    {j : Nat} (hj : j < 65536 / t.ew) :
    elemGet (elemsSet v r t.ew (is.map fun i => (i, g i))) 0 t.ew j
      = if r * (2048 / t.ew) ≤ j ∧ j - r * (2048 / t.ew) ∈ is then g (j - r * (2048 / t.ew)) % 2 ^ t.ew else elemGet v 0 t.ew j := by
  induction is generalizing v with
  | nil => simp [elemsSet]
  | cons i is ih =>
    rw [List.map_cons, elemsSet, ih _ fun k hk => his k (.tail _ hk)]
    rw [elemGet_elemSet v t (his i (.head _)) hj]
    by_cases hi : j = r * (2048 / t.ew) + i
    · subst hi
      simp
    · have hne : r * (2048 / t.ew) ≤ j → j - r * (2048 / t.ew) ≠ i := by omega
      rw [if_neg hi]
      refine if_congr (and_congr_right fun hle => ?_) rfl rfl
      simp [hne hle]

end element

/-! ### Instructions that write some elements (R228) -/

theorem putElems_v (c : Ctx) (r ew : Nat) (l : List (Nat × Nat)) : (c.putElems r ew l).img.v = elemsSet c.img.v r ew l := by
  cases l <;> rfl

theorem advance_img (s : State) (n : Nat) : (s.advance n).me.img = s.me.img := by
  have h : (s.advance n).me.still = s.me.still := (advance_keeps s n id).2.slot
  show (s.advance n).me.still.img = s.me.still.img
  rw [h]

section whole
variable (s : State) (d : VReg) (fl : BitVec 6)

theorem whole_passed_keeps (l : List (Nat × Nat)) : (s.whole d l fl).me.img.flags = s.me.img.flags ||| fl
    ∧ Passed s (s.whole d l fl) 4 ∧ Keeps s (s.whole d l fl) (Ctx.noV ∘ Ctx.noFlags) := by
  obtain ⟨hpc, hkeep⟩ := advance_keeps ((s.mapMe fun c => c.putElems d.val c.et.ew l).orFlags fl) 4 (Ctx.noV ∘ Ctx.noFlags)
  have hwrite : Keeps s ((s.mapMe fun c => c.putElems d.val c.et.ew l).orFlags fl) (Ctx.noV ∘ Ctx.noFlags) := .of_still rfl (by cases l <;> rfl)
  refine ⟨?_, hpc.trans ?_, hwrite.trans hkeep⟩
  · rw [State.whole, State.done4, advance_img]
    cases l <;> rfl
  · cases l <;> rfl

theorem whole_v (l : List (Nat × Nat)) : (s.whole d l fl).me.img.v = elemsSet s.me.img.v d.val s.me.et.ew l := by
  rw [State.whole, State.done4, advance_img]
  exact putElems_v s.me d.val s.me.et.ew l

theorem whole_wroteV (g : Nat → Nat) {is : List Nat} (his : ∀ i ∈ is, d.val * (2048 / s.me.et.ew) + i < 65536 / s.me.et.ew) :
    WroteV s (s.whole d (is.map fun i => (i, g i)) fl) d s.me.et.ew fun k => if k ∈ is then some (g k) else none := by
  intro j hj
  rw [whole_v, elemGet_elemsSet s.me.img.v s.me.et g d.val his hj]
  by_cases hle : d.val * (2048 / s.me.et.ew) ≤ j
  · by_cases hmem : j - d.val * (2048 / s.me.et.ew) ∈ is
    · simp [hle, hmem]
    · simp [hle, hmem]
  · simp [hle]

end whole

/-! ### The checks of SPAN -/

theorem span_of_ok {s : State} {regs : List VReg} {ok : ETy → Bool} (h : s.SpanOk regs) (hok : ok s.me.et = true) (f : State → State) :
    s.span regs ok f = f s := by
  obtain ⟨hif, -, hgroup, hmma⟩ := h
  have hretire : (s.mapMe fun c => c.retireMma) = s := by rw [State.mapMe, Ctx.retireMma, hmma]
  rw [State.span, hgroup, hif, hok, hretire]
  rfl

/-- The elements below VL of a group lie in the file. -/
theorem elem_in_file {s : State} {regs : List VReg} (h : s.SpanOk regs) {d : VReg} (hd : d ∈ regs) {i : Nat} (hi : i < s.me.vl) :
    d.val * (2048 / s.me.et.ew) + i < 65536 / s.me.et.ew := by
  obtain ⟨hif, hvl, hgroup, -⟩ := h
  have hg : d.val % gOf (s.me.img.span.toNat / 16 % 4) = 0 := by
    have := List.all_eq_true.1 hgroup d hd
    simpa [Ctx.groupOk, Ctx.g, hif] using this
  have hmax : i < gOf (s.me.img.span.toNat / 16 % 4) * (2048 / s.me.et.ew) := by
    have hle : s.me.vl ≤ 2048 * gOf (s.me.img.span.toNat / 16 % 4) / s.me.et.ew := by
      refine hvl.trans ?_
      rw [Ctx.vlmax, hif]
      exact Nat.min_le_left _ _
    have hdiv : 2048 * gOf (s.me.img.span.toNat / 16 % 4) / s.me.et.ew = gOf (s.me.img.span.toNat / 16 % 4) * (2048 / s.me.et.ew) := by
      rw [Nat.mul_comm]
      exact Nat.mul_div_assoc _ ⟨_, ((Nat.mul_comm _ _).trans (ew_mul s.me.et)).symm⟩
    omega
  have hroom : d.val + gOf (s.me.img.span.toNat / 16 % 4) ≤ 32 := by
    have hcases : gOf (s.me.img.span.toNat / 16 % 4) = 1 ∨ gOf (s.me.img.span.toNat / 16 % 4) = 2 ∨ gOf (s.me.img.span.toNat / 16 % 4) = 4 := by
      unfold gOf; split <;> [simp; split <;> simp]
    have := d.isLt
    rcases hcases with h | h | h <;> rw [h] at hg ⊢ <;> omega
  rw [perFile]
  calc d.val * (2048 / s.me.et.ew) + i < (d.val + gOf (s.me.img.span.toNat / 16 % 4)) * (2048 / s.me.et.ew) := by rw [Nat.add_mul]; omega
    _ ≤ 32 * (2048 / s.me.et.ew) := Nat.mul_le_mul_right _ hroom

end Sys2Proof.Machine
end

section
/-! SUPPORT. Reductions and scans as instructions (R82, R83, R248, R249). -/

namespace Sys2Proof.Machine

theorem upFrom_zero (n : Nat) : upFrom 0 n = List.range n := by rw [upFrom_eq_range', List.range_eq_range']

theorem mem_activeFrom_zero (c : Ctx) (m : MReg) (i : Nat) : i ∈ c.activeFrom m 0 ↔ i < c.vl ∧ c.active m i = true := by
  rw [Ctx.activeFrom, upFrom_zero, List.mem_filter, List.mem_range, Nat.sub_zero]

theorem orFlags_zero (s : State) : s.orFlags 0 = s := by
  have h : s.me.orFlags 0 = s.me := by unfold Ctx.orFlags; rw [show s.me.img.flags ||| 0 = s.me.img.flags from BitVec.or_zero]
  unfold State.orFlags; rw [h]

theorem whole_nil (s : State) (d : VReg) : s.whole d [] 0 = s.done4 := congrArg State.done4 (orFlags_zero s)

theorem wroteV_congr {s t : State} {d : VReg} {ew : Nat} {f g : Nat → Option Nat} (h : WroteV s t d ew f) (hfg : ∀ k, f k = g k) : WroteV s t d ew g :=
  funext hfg ▸ h

/-- An instruction that writes element 0, or nothing when VL is 0. -/
theorem element_zero_effect {s : State} {regs : List VReg} (h : s.SpanOk regs) {d : VReg} (hd : d ∈ regs) (x : Nat) (fl : BitVec 6) :
    let u := if s.me.vl = 0 then s.done4 else s.whole d [(0, x)] fl
    WroteV s u d s.me.et.ew (fun k => if k = 0 ∧ s.me.vl ≠ 0 then some x else none)
      ∧ u.me.img.flags = s.me.img.flags ||| (if s.me.vl = 0 then 0 else fl) ∧ Passed s u 4 ∧ Keeps s u (Ctx.noV ∘ Ctx.noFlags) := by
  intro u
  by_cases h0 : s.me.vl = 0
  · have hu : u = s.whole d [] 0 := (if_pos h0).trans (whole_nil s d).symm
    rw [hu, if_pos h0]
    exact ⟨wroteV_congr (whole_wroteV s d 0 id (is := []) (by simp)) (by simp [h0]), whole_passed_keeps s d 0 []⟩
  · have hu : u = s.whole d [(0, x)] fl := if_neg h0
    rw [hu, if_neg h0]
    refine ⟨wroteV_congr (whole_wroteV s d fl (fun _ => x) (is := [0]) ?_) (by simp [h0]), whole_passed_keeps s d fl _⟩
    simpa using elem_in_file h hd (Nat.pos_of_ne_zero h0)

/-- The elements of the group that are active and kept, the others replaced by the identity. -/
theorem operand_eq (c : Ctx) (o : RedOp) (a : VReg) (m : MReg) (keep : Nat → Bool) :
    c.operand o a m keep = (List.range c.vl).map fun i => if c.active m i && keep i then c.elem a i else o.identity c.et := by
  rw [Ctx.operand, upFrom_zero]

section instructions
variable {s : State} {d a : VReg} {m : MReg} {o : RedOp} {i : Instr}

theorem vred_completes (hi : exec i s = s.vred o d a m) (h : s.SpanOk [d, a]) (ho : o.ok s.me.et = true) :
    let r := canonical o s.me.et (s.me.operand o a m fun _ => true)
    Completes i s fun u => WroteV s u d s.me.et.ew (fun k => if k = 0 ∧ s.me.vl ≠ 0 then some r.1 else none)
      ∧ u.me.img.flags = s.me.img.flags ||| (if s.me.vl = 0 then 0 else r.2) ∧ Passed s u 4 ∧ Keeps s u (Ctx.noV ∘ Ctx.noFlags) :=
  ⟨_, hi.trans (congrArg Host.Outcome.next (span_of_ok h ho _)), element_zero_effect h (.head _) _ _⟩

theorem vscan_completes {bound : Nat → Nat → Bool} (hi : exec i s = s.vscan o d a m bound) (h : s.SpanOk [d, a]) (ho : o.ok s.me.et = true) :
    let r := fun k => canonical o s.me.et (s.me.operand o a m (bound k))
    Completes i s fun u => WroteV s u d s.me.et.ew (fun k => if k < s.me.vl ∧ s.me.active m k then some (r k).1 else none)
      ∧ u.me.img.flags = s.me.img.flags ||| orAll ((s.me.activeFrom m 0).map fun k => (r k).2) ∧ Passed s u 4 ∧ Keeps s u (Ctx.noV ∘ Ctx.noFlags) := by
  intro r
  refine ⟨_, hi.trans (congrArg Host.Outcome.next (span_of_ok h ho _)), ?_⟩
  simp only [List.map_map, Function.comp_def]
  refine ⟨wroteV_congr (whole_wroteV s d _ (fun k => (r k).1) fun k hk => ?_) fun k => ?_, whole_passed_keeps s d _ _⟩
  · exact elem_in_file h (.head _) ((mem_activeFrom_zero s.me m k).1 hk).1
  · simp only [mem_activeFrom_zero]

end instructions

/-! ### Block-scaled reductions (R83) -/

theorem upFrom_eq_map (a n : Nat) : upFrom a n = (List.range n).map (a + ·) := by rw [upFrom_eq_range', List.range'_eq_map_range]

/-- A block has no active element below VL. -/
def Ctx.BlockIdle (c : Ctx) (m : MReg) (k : Nat) : Prop := ∀ i, i < 32 → 32 * k + i < c.vl → c.active m (32 * k + i) = false

theorem block_any_iff (c : Ctx) (m : MReg) (k : Nat) :
    ((upFrom (32 * k) 32).any fun i => i < c.vl && c.active m i) = true ↔ ¬ c.BlockIdle m k := by
  simp [upFrom_eq_map, Ctx.BlockIdle]

/-- The elements of a block, those at or past VL and the inactive ones replaced by the identity −0. -/
def Ctx.blockElems (c : Ctx) (a : VReg) (m : MReg) (k : Nat) : List Nat :=
  (List.range 32).map fun i => if 32 * k + i < c.vl ∧ c.active m (32 * k + i) then c.elem a (32 * k + i) else 2 ^ 31

theorem block_list (c : Ctx) (a : VReg) (m : MReg) (k : Nat) :
    ((upFrom (32 * k) 32).map fun i => if i < c.vl ∧ c.active m i then c.elem a i else ff32.sgn) = c.blockElems a m k := by
  rw [upFrom_eq_map, List.map_map]; rfl

theorem blockSum_idle {c : Ctx} (a b : VReg) {m : MReg} {k : Nat} (h : c.BlockIdle m k) : c.blockSum a b m k = (2 ^ 31, 0) := by
  have hany := Bool.eq_false_iff.2 fun hany => (block_any_iff c m k).1 hany h
  simp only [Ctx.blockSum, hany, Bool.not_false, if_true]
  rfl

section busy
variable {c : Ctx} (a b : VReg) {m : MReg} {k : Nat} (h : ¬ c.BlockIdle m k)
include h

theorem blockSum_fin {n : Bool} {x : Nat} {y : Int} (hdec : ff32.dec (canonical .add .f32 (c.blockElems a m k)).1 = .fin n x y) :
    c.blockSum a b m k = ((ff32.round 0 n x (y + sread 8 (c.elemAt b.val 8 k)) false).1,
      (canonical .add .f32 (c.blockElems a m k)).2 ||| (ff32.round 0 n x (y + sread 8 (c.elemAt b.val 8 k)) false).2) := by
  simp only [Ctx.blockSum, (block_any_iff c m k).2 h, block_list, hdec, Bool.not_true, Bool.false_eq_true, if_false]

theorem blockSum_special {v : FV} (hv : ¬ v.finite) (hdec : ff32.dec (canonical .add .f32 (c.blockElems a m k)).1 = v) :
    c.blockSum a b m k = canonical .add .f32 (c.blockElems a m k) := by
  have hzero (r : FRes) : (r.1, r.2 ||| 0) = r := Prod.ext rfl BitVec.or_zero
  simp only [Ctx.blockSum, (block_any_iff c m k).2 h, block_list, hdec, Bool.not_true, Bool.false_eq_true, if_false]
  cases v with
  | fin n x y => exact absurd trivial hv
  | nan q => exact hzero (canonical .add .f32 (c.blockElems a m k))
  | inf p => exact hzero (canonical .add .f32 (c.blockElems a m k))

end busy

/-- Settles O41, by the equations of the tree and the shared form of an instruction that writes some elements. -/
theorem vectorReductions : Obligations.VectorReductions := by
  unfold Obligations.VectorReductions
  intro d a b m s o t vl idn list red scan upto before sum scaled sums total
  have hlist : ∀ keep, s.me.operand o a m keep = list keep := operand_eq s.me o a m
  have hred : ∀ i, exec i s = s.vred o d a m → red i := fun i hi h ho => hlist _ ▸ vred_completes hi h ho
  have hscan : ∀ i keep, exec i s = s.vscan o d a m keep → scan i keep := fun i keep hi h ho => by
    have := vscan_completes hi h ho
    simp only [hlist] at this
    exact this
  have hreds : ∀ p ∈ [(Instr.vredAdd d a m, RedOp.add), (.vredMin d a m, .min), (.vredMax d a m, .max), (.vredAnd d a m, .and), (.vredOr d a m, .or),
      (.vredXor d a m, .xor)], exec p.1 s = s.vred p.2 d a m := by
    simp only [List.forall_mem_cons]
    exact ⟨rfl, rfl, rfl, rfl, rfl, rfl, fun _ h => absurd h List.not_mem_nil⟩
  have hincs : ∀ p ∈ [(Instr.vscanIncAdd d a m, RedOp.add), (.vscanIncMin d a m, .min), (.vscanIncMax d a m, .max), (.vscanIncAnd d a m, .and),
      (.vscanIncOr d a m, .or), (.vscanIncXor d a m, .xor)], exec p.1 s = s.vscan p.2 d a m upto := by
    simp only [List.forall_mem_cons]
    exact ⟨rfl, rfl, rfl, rfl, rfl, rfl, fun _ h => absurd h List.not_mem_nil⟩
  have hexcs : ∀ p ∈ [(Instr.vscanExcAdd d a m, RedOp.add), (.vscanExcMin d a m, .min), (.vscanExcMax d a m, .max), (.vscanExcAnd d a m, .and),
      (.vscanExcOr d a m, .or), (.vscanExcXor d a m, .xor)], exec p.1 s = s.vscan p.2 d a m before := by
    simp only [List.forall_mem_cons]
    exact ⟨rfl, rfl, rfl, rfl, rfl, rfl, fun _ h => absurd h List.not_mem_nil⟩
  refine ⟨fun p hp ho => hred _ (ho ▸ hreds p hp), fun p hp ho => hscan _ _ (ho ▸ hincs p hp), fun p hp ho => hscan _ _ (ho ▸ hexcs p hp),
    canonical_singleton o t, canonical_nil o t, fun l r n => canonical_append o t, fun l n => canonical_fill o t, fun h ht => ?_⟩
  have hsums : ∀ k, s.me.blockSum a b m k = scaled k := by
    intro k
    by_cases hk : s.me.BlockIdle m k
    · exact (blockSum_idle a b hk).trans (if_pos hk).symm
    · refine Eq.trans ?_ (if_neg hk).symm
      cases hd : ff32.dec (sum k).1 with
      | fin n x y => exact blockSum_fin a b hk hd
      | nan q => exact blockSum_special a b hk id hd
      | inf p => exact blockSum_special a b hk id hd
  have hew : s.me.et.ew = 32 := congrArg ETy.ew ht
  have hrs : ((upFrom 0 ((s.me.vl + 31) / 32)).map fun k => s.me.blockSum a b m k) = sums := by
    rw [upFrom_zero]; exact List.map_congr_left fun k _ => hsums k
  have hfirst := element_zero_effect h (.head _) total.1 (orAll (sums.map Prod.snd) ||| total.2)
  rw [hew] at hfirst
  refine ⟨_, congrArg Host.Outcome.next ((span_of_ok h (by rw [show s.me.et = .f32 from ht]; rfl) _).trans ?_), hfirst⟩
  simp only [hrs]
  rfl

end Sys2Proof.Machine
end

section
/-! SUPPORT. The codes of the operand kinds and the fields of a 32-bit word (R88, R94 to R100, R109): what is read back from a word, a field
or a code that an operand has been written to. -/

namespace Sys2Proof

/-! ### The codes of the operand kinds (R94 to R100, R109) -/

@[simp] theorem Sz.ofCode_code (s : Sz) : Sz.ofCode s.code = s := by cases s <;> rfl
@[simp] theorem Wid.ofCode_code (v : Wid) : Wid.ofCode v.code = v := by cases v <;> rfl
@[simp] theorem Fmt.ofCode_code (t : Fmt) : Fmt.ofCode t.code = t := by cases t <;> rfl
@[simp] theorem CvtTy.ofCode_code (t : CvtTy) : CvtTy.ofCode t.code = t := by cases t <;> rfl
@[simp] theorem ETy.ofCode_code (t : ETy) : ETy.ofCode t.code = t := by cases t <;> rfl
@[simp] theorem AccTy.ofCode_code (t : AccTy) : AccTy.ofCode t.code = t := by cases t <;> rfl
@[simp] theorem OxKind.ofCode_code (k : OxKind) : OxKind.ofCode k.code = k := by cases k <;> rfl
@[simp] theorem Scope.ofCode?_code (s : Scope) : Scope.ofCode? s.code = some s := by cases s <;> rfl
@[simp] theorem Rnd.ofCode?_code (r : Rnd) : Rnd.ofCode? r.code = some r := by cases r <;> rfl
@[simp] theorem Level5.ofCode?_code (l : Level5) : Level5.ofCode? l.code = some l := by cases l <;> rfl

@[simp] theorem Sz.code_lt (s : Sz) : s.code < 4 := by cases s <;> decide
@[simp] theorem Wid.code_le (v : Wid) : v.code ≤ 1 := by cases v <;> decide
@[simp] theorem Fmt.code_lt (t : Fmt) : t.code < 4 := by cases t <;> decide
@[simp] theorem CvtTy.code_lt (t : CvtTy) : t.code < 8 := by cases t <;> decide
@[simp] theorem ETy.code_lt (t : ETy) : t.code < 16 := by cases t <;> decide
@[simp] theorem AccTy.code_lt (t : AccTy) : t.code < 4 := by cases t <;> decide
@[simp] theorem OxKind.code_lt (k : OxKind) : k.code < 8 := by cases k <;> decide
@[simp] theorem Scope.code_lt (s : Scope) : s.code < 8 := by cases s <;> decide
@[simp] theorem Rnd.code_lt (r : Rnd) : r.code < 8 := by cases r <;> decide
@[simp] theorem Level5.code_lt (l : Level5) : l.code < 8 := by cases l <;> decide

@[simp] theorem Sz.code_eq_three (s : Sz) : s.code = 3 ↔ s = .d := by cases s <;> decide
@[simp] theorem AccTy.code_eq_three (t : AccTy) : t.code = 3 ↔ t = .x := by cases t <;> decide
@[simp] theorem ETy.code_eq_fourteen (t : ETy) : t.code = 14 ↔ t = .dxb8 := by cases t <;> decide
@[simp] theorem ETy.code_eq_fifteen (t : ETy) : t.code = 15 ↔ t = .dxb4 := by cases t <;> decide

/-! ### Operands that share a field, and immediates that take several -/

theorem packed_div {n k m : Nat} (h : k < m) : (n * m + k) / m = n := by
  rw [Nat.add_comm, Nat.add_mul_div_right _ _ (Nat.zero_lt_of_lt h), Nat.div_eq_of_lt h, Nat.zero_add]

theorem wid_field_lt (v : Wid) {k : Nat} (h : k < 16) : k + v.code * 16 < 32 := by have := v.code_le; omega

theorem wid_field_lt_of_zero (v : Wid) : v.code * 16 < 32 := by have := v.code_le; omega

theorem geom_field_lt (t : Bool) (z : OxReg) : t.toNat * 8 + z.val < 16 := by have := t.toNat_lt; omega

theorem bool_of_bit (t : Bool) : (t.toNat % 2 == 1) = t := by cases t <;> rfl

/-- The 19 bits of `lui`, `pcadd` and `jl` lie in A, B, [21:16] and F3 (R89). -/
theorem imm19_of_fields (n : Nat) : ((n / 16384 * 32 + n / 512 % 32) * 64 + n / 8 % 64) * 8 + n % 8 = n := by omega

/-! ### Fields -/

/-- Each field is within its bits (R88) and MAJOR is not reserved (R92). -/
structure Fields.Fits (f : Fields) : Prop where
  a : f.a < 32
  b : f.b < 32
  f6 : f.f6 < 64
  maj : f.maj < 64
  d : f.d < 32
  f3 : f.f3 < 8
  live : majorReserved f.maj = false

theorem fieldsOf_word {f : Fields} (h : f.Fits) : fieldsOf f.word = f := by
  obtain ⟨ha, hb, hx, hm, hd, hy, -⟩ := h
  simp only [fieldsOf, Fields.word]
  congr 1 <;> omega

theorem word_lt {f : Fields} (h : f.Fits) : f.word < 2 ^ 32 := by
  obtain ⟨ha, hb, hx, hm, hd, hy, -⟩ := h
  simp only [Fields.word]
  omega

/-- Bits [15:14] of a 32-bit word are 0b11 (R86, R88). -/
theorem isLong_word {f : Fields} (h : f.Fits) : isLong (f.word % 65536) = true := by
  obtain ⟨ha, hb, hx, hm, hd, hy, -⟩ := h
  simp only [isLong, Fields.word, beq_iff_eq]
  omega

/-- The all-ones word has the reserved MAJOR 0x3F (R92). -/
theorem word_ne_allOnes {f : Fields} (h : f.Fits) : f.word ≠ 4294967295 := by
  intro hw
  have hmaj : f.maj = 63 := by rw [← fieldsOf_word h, hw]; rfl
  exact absurd h.live (by rw [hmaj]; decide)

theorem decode32_word {f : Fields} {i : Instr} (h : f.Fits) (hi : decFields f = some i) : decode32 f.word = .ok i := by
  simp only [decode32, word_ne_allOnes h, fieldsOf_word h, h.live, hi, if_false, Bool.false_eq_true]

end Sys2Proof
end

section
/-! SUPPORT. The rows of the encoding tables (R89, R92 to R100): what the decoder of a MAJOR reads from the fields that the encoder writes. -/

namespace Sys2Proof

theorem fits_of {a b x m d y : Nat} (hm : m < 64) (hl : majorReserved m = false) (h : a < 32 ∧ b < 32 ∧ x < 64 ∧ d < 32 ∧ y < 8) :
    Fields.Fits ⟨a, b, x, m, d, y⟩ := by
  obtain ⟨ha, hb, hx, hd, hy⟩ := h
  exact ⟨ha, hb, hx, hm, hd, hy, hl⟩

theorem encFields_fits {i : Instr} {f : Fields} (h : encFields i = some f) : f.Fits := by
  cases i
  all_goals cases h
  case sext _ _ s | zext _ _ s | ldPod _ _ _ s | stPod _ _ _ s =>
    have := s.code_lt
    exact fits_of (by decide) rfl (by omega)
  case fadd _ _ _ t | fsub _ _ _ t | fmul _ _ _ t | fdiv _ _ _ t | fmin _ _ _ t | fmax _ _ _ t | fsqrt _ _ t | fma _ _ _ t |
      fms _ _ _ t | feq _ _ _ t | flt _ _ _ t | fle _ _ _ t | fclass _ _ t =>
    have := t.code_lt
    exact fits_of (by decide) rfl (by omega)
  case fcvt _ _ x y r =>
    have := x.code_lt
    have := y.code_lt
    have := r.code_lt
    exact fits_of (by decide) rfl (by omega)
  case ldAcq _ _ _ s | stRel _ _ _ s | fence s =>
    have := s.code_lt
    exact fits_of (by decide) rfl (by omega)
  case lr _ _ v | sc _ _ _ v | cas _ _ _ v | amoAdd _ _ _ v | amoAnd _ _ _ v | amoOr _ _ _ v | amoXor _ _ _ v | amoMin _ _ _ v |
      amoMax _ _ _ v | amoMinn _ _ _ v | amoMaxn _ _ _ v | amoSwap _ _ _ v | amoFadd _ _ _ v | rredAdd _ _ v | rredAnd _ _ v |
      rredOr _ _ v | rredXor _ _ v | rredMin _ _ v | rredMax _ _ v | rredMinn _ _ v | rredMaxn _ _ v | rredFadd _ _ v =>
    have := v.code_le
    exact fits_of (by decide) rfl (by omega)
  case gx _ _ _ v s _ =>
    have := v.code_le
    have := s.code_lt
    exact fits_of (by decide) rfl (by omega)
  case setspanImm _ t =>
    have := t.code_lt
    exact fits_of (by decide) rfl (by omega)
  case oxl _ k _ | oxr _ k _ =>
    have := k.code_lt
    exact fits_of (by decide) rfl (by omega)
  case vcvt _ _ s _ r =>
    have := s.code_lt
    have := r.code_lt
    exact fits_of (by decide) rfl (by omega)
  case mzero _ t _ | mld _ _ _ t =>
    have := t.code_lt
    exact fits_of (by decide) rfl (by omega)
  case cncl _ l =>
    have := l.code_lt
    exact fits_of (by decide) rfl (by omega)
  case gor2 _ _ t _ _ _ | gor3 _ _ t _ _ _ | ginc _ _ t _ _ _ | gins _ _ t _ _ _ | gsegx _ _ t _ _ _ =>
    have := t.toNat_lt
    exact fits_of (by decide) rfl (by omega)
  all_goals exact fits_of (by decide) rfl (by omega)

/-- The opcode map (R92). -/
theorem decFields_maj (a b x d y : Nat) :
    decFields ⟨a, b, x, 0x00, d, y⟩ = decMaj00 ⟨a, b, x, 0x00, d, y⟩
    ∧ decFields ⟨a, b, x, 0x01, d, y⟩ = decMaj01 ⟨a, b, x, 0x01, d, y⟩
    ∧ decFields ⟨a, b, x, 0x02, d, y⟩ = decMaj02 ⟨a, b, x, 0x02, d, y⟩
    ∧ decFields ⟨a, b, x, 0x03, d, y⟩ = decMaj03 ⟨a, b, x, 0x03, d, y⟩
    ∧ decFields ⟨a, b, x, 0x04, d, y⟩ = decMaj04 ⟨a, b, x, 0x04, d, y⟩
    ∧ decFields ⟨a, b, x, 0x05, d, y⟩ = decMaj05 ⟨a, b, x, 0x05, d, y⟩
    ∧ decFields ⟨a, b, x, 0x06, d, y⟩ = decMaj06 ⟨a, b, x, 0x06, d, y⟩
    ∧ decFields ⟨a, b, x, 0x07, d, y⟩ = decMaj07 ⟨a, b, x, 0x07, d, y⟩
    ∧ decFields ⟨a, b, x, 0x08, d, y⟩ = decMaj08 ⟨a, b, x, 0x08, d, y⟩
    ∧ decFields ⟨a, b, x, 0x09, d, y⟩ = decMaj09 ⟨a, b, x, 0x09, d, y⟩
    ∧ decFields ⟨a, b, x, 0x0A, d, y⟩ = decMaj0A ⟨a, b, x, 0x0A, d, y⟩
    ∧ decFields ⟨a, b, x, 0x0C, d, y⟩ = decMaj0C ⟨a, b, x, 0x0C, d, y⟩
    ∧ decFields ⟨a, b, x, 0x0D, d, y⟩ = decMaj0D ⟨a, b, x, 0x0D, d, y⟩
    ∧ decFields ⟨a, b, x, 0x0E, d, y⟩ = decMaj0E ⟨a, b, x, 0x0E, d, y⟩
    ∧ decFields ⟨a, b, x, 0x0F, d, y⟩ = decMaj0F ⟨a, b, x, 0x0F, d, y⟩
    ∧ decFields ⟨a, b, x, 0x10, d, y⟩ = decMaj10 ⟨a, b, x, 0x10, d, y⟩
    ∧ decFields ⟨a, b, x, 0x11, d, y⟩ = decMaj11 ⟨a, b, x, 0x11, d, y⟩
    ∧ decFields ⟨a, b, x, 0x12, d, y⟩ = decMaj12 ⟨a, b, x, 0x12, d, y⟩
    ∧ decFields ⟨a, b, x, 0x13, d, y⟩ = decMaj13 ⟨a, b, x, 0x13, d, y⟩
    ∧ decFields ⟨a, b, x, 0x14, d, y⟩ = decMaj14 ⟨a, b, x, 0x14, d, y⟩
    ∧ decFields ⟨a, b, x, 0x15, d, y⟩ = decMaj15 ⟨a, b, x, 0x15, d, y⟩
    ∧ decFields ⟨a, b, x, 0x18, d, y⟩ = decMaj18 ⟨a, b, x, 0x18, d, y⟩
    ∧ decFields ⟨a, b, x, 0x19, d, y⟩ = decMaj19 ⟨a, b, x, 0x19, d, y⟩
    ∧ decFields ⟨a, b, x, 0x1A, d, y⟩ = decMaj1A ⟨a, b, x, 0x1A, d, y⟩
    ∧ decFields ⟨a, b, x, 0x1B, d, y⟩ = decMaj1B ⟨a, b, x, 0x1B, d, y⟩
    ∧ decFields ⟨a, b, x, 0x1C, d, y⟩ = decMaj1C ⟨a, b, x, 0x1C, d, y⟩
    ∧ decFields ⟨a, b, x, 0x1D, d, y⟩ = decMaj1D ⟨a, b, x, 0x1D, d, y⟩
    ∧ decFields ⟨a, b, x, 0x1E, d, y⟩ = decMaj1E ⟨a, b, x, 0x1E, d, y⟩
    ∧ decFields ⟨a, b, x, 0x1F, d, y⟩ = decMaj1F ⟨a, b, x, 0x1F, d, y⟩
    ∧ decFields ⟨a, b, x, 0x20, d, y⟩ = decMaj20 ⟨a, b, x, 0x20, d, y⟩
    ∧ decFields ⟨a, b, x, 0x21, d, y⟩ = decMaj21 ⟨a, b, x, 0x21, d, y⟩
    ∧ decFields ⟨a, b, x, 0x22, d, y⟩ = decMaj22 ⟨a, b, x, 0x22, d, y⟩
    ∧ decFields ⟨a, b, x, 0x23, d, y⟩ = decMaj23 ⟨a, b, x, 0x23, d, y⟩
    ∧ decFields ⟨a, b, x, 0x24, d, y⟩ = decMaj24 ⟨a, b, x, 0x24, d, y⟩
    ∧ decFields ⟨a, b, x, 0x25, d, y⟩ = decMaj25 ⟨a, b, x, 0x25, d, y⟩
    ∧ decFields ⟨a, b, x, 0x26, d, y⟩ = decMaj26 ⟨a, b, x, 0x26, d, y⟩
    ∧ decFields ⟨a, b, x, 0x27, d, y⟩ = decMaj27 ⟨a, b, x, 0x27, d, y⟩
    ∧ decFields ⟨a, b, x, 0x28, d, y⟩ = decMaj28 ⟨a, b, x, 0x28, d, y⟩
    ∧ decFields ⟨a, b, x, 0x29, d, y⟩ = decMaj29 ⟨a, b, x, 0x29, d, y⟩
    ∧ decFields ⟨a, b, x, 0x2A, d, y⟩ = decMaj2A ⟨a, b, x, 0x2A, d, y⟩
    ∧ decFields ⟨a, b, x, 0x2B, d, y⟩ = decMaj2B ⟨a, b, x, 0x2B, d, y⟩
    ∧ decFields ⟨a, b, x, 0x30, d, y⟩ = decMaj30 ⟨a, b, x, 0x30, d, y⟩
    ∧ decFields ⟨a, b, x, 0x38, d, y⟩ = decMaj38 ⟨a, b, x, 0x38, d, y⟩
    ∧ decFields ⟨a, b, x, 0x3C, d, y⟩ = decMaj3C ⟨a, b, x, 0x3C, d, y⟩
    ∧ decFields ⟨a, b, x, 0x3D, d, y⟩ = decMaj3D ⟨a, b, x, 0x3D, d, y⟩ :=
  ⟨rfl, rfl, rfl, rfl, rfl, rfl, rfl, rfl, rfl, rfl, rfl, rfl, rfl, rfl, rfl, rfl, rfl, rfl, rfl, rfl, rfl, rfl, rfl, rfl, rfl, rfl, rfl,
   rfl, rfl, rfl, rfl, rfl, rfl, rfl, rfl, rfl, rfl, rfl, rfl, rfl, rfl, rfl, rfl, rfl, rfl⟩

/-- Row by row, the decoder of the MAJOR passes the rows before and reads the operands that the encoder has written (R93 to R100). The named
rows are those in which three operands share a field, a guard of an earlier row reads an operand, or an operand is restricted. -/
theorem decFields_encFields {i : Instr} {f : Fields} (h : encFields i = some f) (hw : i.WF) : decFields f = some i := by
  cases i
  all_goals cases h
  case gx d a b v s x =>
    have hs := s.code_lt
    have h32 : (v.code * 32 + s.code * 8 + x.val) / 32 = v.code := by omega
    have h8 : (v.code * 32 + s.code * 8 + x.val) / 8 % 4 = s.code := by omega
    have h1 : (v.code * 32 + s.code * 8 + x.val) % 8 = x.val := by omega
    simp [decFields_maj, decMaj1D, h32, h8, h1]
  case rdegPin a g =>
    have h4 : (4 + g.toNat) / 4 = 1 := by omega
    have h1 : (4 + g.toNat) % 4 = g.toNat := by omega
    simp [decFields_maj, decMaj1E, h4, h1]
  case rdegAuto a g =>
    have h4 : g.toNat / 4 = 0 := by omega
    have h1 : g.toNat % 4 = g.toNat := by omega
    simp [decFields_maj, decMaj1E, h4, h1]
  case sext d a s => simpa [decFields_maj, decMaj03, Nat.mod_eq_of_lt, Instr.WF] using hw
  case zext d a s => simpa [decFields_maj, decMaj03, Nat.mod_eq_of_lt, Instr.WF] using hw
  case fcvt d a x y r => simpa [decFields_maj, decMaj0A, packed_div, Nat.mod_eq_of_lt, Instr.WF] using hw
  case vcvt d a s m r => simpa [decFields_maj, decMaj26, Nat.mod_eq_of_lt, Instr.WF] using hw
  case mzero d t a => simpa [decFields_maj, decMaj30, Nat.mod_eq_of_lt, Instr.WF, or_iff_not_imp_left] using hw
  all_goals
    simp [decFields_maj, decMaj00, decMaj01, decMaj02, decMaj03, decMaj04, decMaj05, decMaj06, decMaj07, decMaj08, decMaj09, decMaj0C, decMaj0D,
      decMaj0E, decMaj0F, decMaj10, decMaj11, decMaj12, decMaj13, decMaj14, decMaj15, decMaj18, decMaj19, decMaj1A, decMaj1B, decMaj1C,
      decMaj1D, decMaj1E, decMaj1F, decMaj20, decMaj21, decMaj22, decMaj23, decMaj24, decMaj25, decMaj26, decMaj27, decMaj28, decMaj29,
      decMaj2A, decMaj2B, decMaj30, decMaj38, decMaj3C, decMaj3D, Nat.mod_eq_of_lt, Nat.add_mul_div_right, Nat.div_add_mod', packed_div,
      wid_field_lt, wid_field_lt_of_zero, geom_field_lt, bool_of_bit, imm19_of_fields]

end Sys2Proof
end

section
/-! SUPPORT. The 16-bit forms (R90), and words as bytes (R7, R86, R87): decoding the encoding of an instruction. -/

namespace Sys2Proof

/-- The op4, the two operands and the function of a halfword (R90). -/
theorem half_fields {h g y : Nat} (d a : Fin 32) (hy : y < 4) (hh : h = g * 4096 + d.val * 128 + a.val * 4 + y) :
    h / 4096 = g ∧ h / 128 % 32 = d.val ∧ h / 4 % 32 = a.val ∧ h % 4 = y := by omega

theorem half_offset {h g : Nat} (a : Fin 32) (o : BitVec 7) (hh : h = g * 4096 + a.val * 128 + o.toNat) :
    h / 4096 = g ∧ h / 128 % 32 = a.val ∧ h % 128 = o.toNat := by omega

theorem isLong_eq_false {h : Nat} (hh : h < 49152) : isLong h = false := by
  simp only [isLong, beq_eq_false_iff_ne]
  omega

/-- Row by row, the decoder reads the operands that the encoder has written; `c.mov` of s0 to s0 would be the all-zero halfword. -/
theorem decode16_encHalf {i : Instr} {h : Nat} (hi : encHalf i = some h) (hw : i.WF) : h < 49152 ∧ h ≠ 0 ∧ decode16 h = some i := by
  cases i
  all_goals cases hi
  case cMov d a =>
    have hv : d.val ≠ 0 ∨ a.val ≠ 0 := by simpa [Instr.WF] using hw
    obtain ⟨hg, hd, ha, hy⟩ := half_fields (g := 0) (y := 0) d a (by decide) (by omega : d.val * 128 + a.val * 4 = _)
    have h0 : d.val * 128 + a.val * 4 ≠ 0 := by omega
    refine ⟨by omega, h0, ?_⟩
    simp only [decode16, h0, hg, hd, ha, hy, ne_eq, not_false_eq_true, true_and, if_true, Fin.ofNat_val_eq_self]
  case cAdd d a =>
    obtain ⟨hg, hd, ha, hy⟩ := half_fields (g := 0) (y := 1) d a (by decide) (by omega : 1 + d.val * 128 + a.val * 4 = _)
    exact ⟨by omega, by omega, by simp [decode16, hg, hd, ha, hy]⟩
  case cAddi d i =>
    obtain ⟨hg, hd, ha, hy⟩ := half_fields (g := 0) (y := 2) d i.toFin (by decide) (by simp; omega : 2 + d.val * 128 + i.toNat * 4 = _)
    exact ⟨by omega, by omega, by simp [decode16, hg, hd, ha, hy]⟩
  case cLd d a =>
    obtain ⟨hg, hd, ha, hy⟩ := half_fields (g := 1) (y := 0) d a (by decide) (by omega : 4096 + d.val * 128 + a.val * 4 = _)
    exact ⟨by omega, by omega, by simp [decode16, hg, hd, ha, hy]⟩
  case cSt a b =>
    obtain ⟨hg, hb, ha, hy⟩ := half_fields (g := 1) (y := 1) b a (by decide) (by omega : 4097 + a.val * 4 + b.val * 128 = _)
    exact ⟨by omega, by omega, by simp [decode16, hg, hb, ha, hy]⟩
  case cBeqz a o =>
    obtain ⟨hg, ha, ho⟩ := half_offset (g := 2) a o (by omega : 8192 + a.val * 128 + o.toNat = _)
    exact ⟨by omega, by omega, by simp [decode16, hg, ha, ho]⟩
  case cBnez a o =>
    obtain ⟨hg, ha, ho⟩ := half_offset (g := 3) a o (by omega : 12288 + a.val * 128 + o.toNat = _)
    exact ⟨by omega, by omega, by simp [decode16, hg, ha, ho]⟩
  case cJ o =>
    have hg : (16384 + o.toNat) / 4096 = 4 := by omega
    have ho : (16384 + o.toNat) % 4096 = o.toNat := by omega
    exact ⟨by omega, by omega, by simp [decode16, hg, ho]⟩

/-! ### Bytes -/

/-- The first halfword of a word's bytes (R7, R86). -/
theorem halfOf_bytes (w : Nat) : halfOf (BitVec.ofNat 8 w) (BitVec.ofNat 8 (w / 256)) = w % 65536 := by
  simp only [halfOf, BitVec.toNat_ofNat]
  omega

theorem decode_short {h : Nat} {i : Instr} (hlt : h < 65536) (hl : isLong h = false) (h0 : h ≠ 0) (hi : decode16 h = some i) (rest : List Byte) :
    decode (bytesOf 2 h ++ rest) = .ok (i, 2) := by
  simp only [bytesOf, List.cons_append, List.nil_append, decode, halfOf_bytes, Nat.mod_eq_of_lt hlt, hl, decodeShort, h0, hi, if_false,
    Bool.false_eq_true]

theorem decode_long {w : Nat} {i : Instr} (hlt : w < 2 ^ 32) (hl : isLong (w % 65536) = true) (hi : decode32 w = .ok i) (rest : List Byte) :
    decode (bytesOf 4 w ++ rest) = .ok (i, 4) := by
  have hhi : halfOf (BitVec.ofNat 8 (w / 256 / 256)) (BitVec.ofNat 8 (w / 256 / 256 / 256)) = w / 65536 := by
    rw [halfOf_bytes]; omega
  have hw : w % 65536 + 65536 * (w / 65536) = w := Nat.mod_add_div w 65536
  simp only [bytesOf, List.cons_append, List.nil_append, decode, halfOf_bytes, hl, hhi, hw, hi, if_true]

end Sys2Proof

namespace Sys2Proof.Machine

/-- Settles O57: a 32-bit row by its fields (`decFields_encFields`), a 16-bit row by its halfword (`decode16_encHalf`). -/
theorem decodeOfEncodeIsTheInstruction : Obligations.DecodeOfEncodeIsTheInstruction := by
  unfold Obligations.DecodeOfEncodeIsTheInstruction
  intro i len w rest hw he
  unfold encode at he
  split at he
  case h_1 f hf =>
    cases he
    have hfit := encFields_fits hf
    have hl := isLong_word hfit
    exact ⟨.inr rfl, word_lt hfit, decode_long (word_lt hfit) hl (decode32_word hfit (decFields_encFields hf hw)) rest, fun _ => hl, fun _ => rfl⟩
  case h_2 hf =>
    obtain ⟨h, hh, heq⟩ := Option.map_eq_some_iff.1 he
    cases heq
    obtain ⟨hlong, h0, hi⟩ := decode16_encHalf hh hw
    have hl := isLong_eq_false hlong
    have hlt : _ < 65536 := Nat.lt_trans hlong (by decide)
    refine ⟨.inl rfl, hlt, decode_short hlt hl h0 hi rest, fun h => absurd h (by decide), fun h => ?_⟩
    rw [Nat.mod_eq_of_lt hlt, hl] at h
    exact absurd h (by decide)

/-- An instruction's own word decodes to it. -/
theorem decode_bytesOf_encode {i : Instr} {len w : Nat} (hw : i.WF) (he : encode i = some (len, w)) : decode (bytesOf len w) = .ok (i, len) := by
  have h := (decodeOfEncodeIsTheInstruction i len w [] hw he).2.2.1
  rwa [List.append_nil] at h

/-- Settles O58: each word is the one that its instruction is encoded as (`decode_bytesOf_encode`); the decoder rejects the others. -/
theorem wordsOfTheTablesDecode : Obligations.WordsOfTheTablesDecode := by
  unfold Obligations.WordsOfTheTablesDecode
  refine ⟨?_, decode_bytesOf_encode trivial rfl, rfl, rfl, rfl⟩
  simp only [List.forall_mem_cons]
  refine ⟨?_, ?_, ?_, ?_, ?_, ?_, ?_, ?_, ?_, ?_, ?_, ?_, fun _ h => absurd h List.not_mem_nil⟩
  case refine_12 => exact decode_bytesOf_encode (.inr rfl) rfl
  all_goals exact decode_bytesOf_encode trivial rfl

end Sys2Proof.Machine
end

section
/-! SUPPORT. The short forms of the scalar arithmetic (R90, R128, R130). -/

namespace Sys2Proof.Machine

theorem ofInt_toInt_add (x y : Word) : BitVec.ofInt 64 (x.toInt + y.toInt) = x + y := by
  rw [BitVec.ofInt_add, BitVec.ofInt_toInt, BitVec.ofInt_toInt]

/-- A sign-extended immediate counts as its own signed value (R89). -/
theorem ofInt_add_signed {n : Nat} (x : Word) (i : BitVec n) (hn : n ≤ 64) : BitVec.ofInt 64 (x.toInt + i.toInt) = x + i.signExtend 64 := by
  rw [← BitVec.toInt_signExtend_of_le (x := i) hn, ofInt_toInt_add]

/-- Settles O7: each form is one write of a scalar register, two bytes on (`setS_advance`). -/
theorem compressedArithmetic : Obligations.CompressedArithmetic := by
  unfold Obligations.CompressedArithmetic
  intro d a i s
  rw [ofInt_toInt_add, ofInt_add_signed _ i (by decide)]
  exact ⟨⟨_, rfl, setS_advance s d _ 2⟩, ⟨_, rfl, setS_advance s d _ 2⟩, ⟨_, rfl, setS_advance s d _ 2⟩⟩

end Sys2Proof.Machine
end

section
/-! SUPPORT. A write performed at its home leaves each slot's program counter and instruction word where they are: it squashes chunks, drops
lines and reservations and sends packets. -/

namespace Sys2Proof.Machine

/-- Where the slot whose turn it is stands: its program counter and the instruction word at hand. -/
def State.standing (s : State) : Word × BitVec 32 := (s.me.pc, s.me.iword)

theorem standing_of_ite {p : Prop} [Decidable p] {a b s : State} (ha : a.standing = s.standing) (hb : b.standing = s.standing) :
    (if p then a else b).standing = s.standing := by split <;> assumption

theorem foldl_standing {α : Type} {f : State → α → State} (h : ∀ t x, (f t x).standing = t.standing) (l : List α) (s : State) :
    (l.foldl f s).standing = s.standing := foldl_keeps State.standing f h l s

variable (s : State)

theorem mapDie_standing (d : DieId) (f : Die → Die) : (s.mapDie d f).standing = s.standing := rfl

theorem send_standing (p : Packet) : (s.send p).standing = s.standing := rfl

theorem count_standing (d : DieId) (kind inst ix n : Nat) : (s.count d kind inst ix n).standing = s.standing := standing_of_ite rfl rfl

theorem mapCtx_standing {f : Ctx → Ctx} (h : ∀ c, ((f c).pc, (f c).iword) = (c.pc, c.iword)) (d : DieId) (k : SlotNo) :
    (s.mapCtx d k f).standing = s.standing :=
  standing_of_ite (h s.me) rfl

/-! ### Squashes -/

theorem squashSlot_standing (c : Ctx) (origin : Nat) (cause : SquashCause) (here : Bool) :
    (s.squashSlot c origin cause here).standing = s.standing := by
  unfold State.squashSlot
  split
  · rfl
  · exact (mapCtx_standing _ (by intro _; rfl) _ _).trans ((count_standing (State.count _ _ _ _ _ _) ..).trans (count_standing ..))

theorem outrank_standing (c : Ctx) (k : Chunk) (origin : Nat) (cause : SquashCause) (here : Bool) :
    (s.outrank c k origin cause here).standing = s.standing := by
  have hevent (p : Prop) [Decidable p] (t : State) (h : t.standing = s.standing) : (if p then t.squashEvent c cause else t).standing = s.standing :=
    standing_of_ite ((count_standing ..).trans h) h
  unfold State.outrank
  split
  · rfl
  · exact standing_of_ite ((mapCtx_standing _ (by intro _; rfl) _ _).trans (hevent _ _ (standing_of_ite rfl rfl))) rfl

theorem squash_standing (c : Ctx) (cause : SquashCause) : (s.squash c cause).standing = s.standing := by
  unfold State.squash
  split
  · rfl
  next k _ =>
    have hslot : ((s.squashEvent c cause).squashSlot c k.j cause true).standing = s.standing := (squashSlot_standing ..).trans (count_standing ..)
    have hsend (t : State) (h : t.standing = s.standing) :
        (if t.ringed c.strand then t.send (c.rill k.j (.squash cause)) else t).standing = s.standing :=
      standing_of_ite h h
    refine standing_of_ite rfl (standing_of_ite (outrank_standing ..) (hsend _ (standing_of_ite ?_ hslot)))
    exact (mapCtx_standing _ (by intro _; rfl) _ _).trans ((count_standing ..).trans hslot)

theorem invalidate_standing (on : Ctx → Bool) (loc n : Nat) (but : Option Word) : (s.invalidate on loc n but).standing = s.standing := by
  refine (foldl_standing (fun t c => squash_standing t c .memory) _ _).trans (standing_of_ite ?_ rfl)
  simp only [State.standing]
  split <;> rfl

theorem invalidateTile_standing (loc n : Nat) (but : Option Word) : (s.invalidateTile loc n but).standing = s.standing :=
  (foldl_standing (fun _ _ => standing_of_ite ((invalidate_standing ..).trans (mapDie_standing ..)) rfl) _ _).trans (invalidate_standing ..)

theorem squashReaders_standing (loc n : Nat) (own : List Word) (but : Option Word) : (s.squashReaders loc n own but).standing = s.standing := by
  have hread : (if isTile loc then s.invalidateTile loc n but
      else (allDies.filter fun d => !((s.die d).replicas.any fun l => [lineOf loc, lineOf (loc + n - 1)].contains l.line)).foldl
        (fun s d => s.invalidateER d loc n but) s).standing = s.standing :=
    standing_of_ite (invalidateTile_standing ..) (foldl_standing (fun t d => invalidate_standing ..) _ _)
  unfold State.squashReaders
  dsimp only
  generalize (if isTile loc then s.invalidateTile loc n but else _) = r at hread ⊢
  rw [← hread]
  refine standing_of_ite rfl ?_
  simp only [State.standing]
  split <;> rfl

/-! ### The slices -/

theorem dropResv_standing (rs : List Resv) : (s.dropResv rs).standing = s.standing := by
  refine foldl_standing (fun t r => ?_) _ _
  dsimp only
  split <;> rfl

theorem dropReplica_standing (d : DieId) (line : Nat) : (s.dropReplica d line).standing = s.standing := (invalidate_standing ..).trans (mapDie_standing ..)

theorem evict_standing (d : DieId) (l : SharedLine) : (s.evict d l).standing = s.standing :=
  standing_of_ite ((invalidate_standing ..).trans (standing_of_ite rfl (mapDie_standing ..))) ((standing_of_ite rfl (mapDie_standing ..)).trans (dropReplica_standing ..))

theorem touch_standing (d : DieId) (line : Nat) (dirty : BitVec 8) (core : Option Nat) : (s.touch d line dirty core).standing = s.standing := by
  have hevict (ws : List SharedLine) :
      (if ws.length < Config.sliceWays then s else match victim ws with | some v => s.evict d v | none => s).standing = s.standing := by
    refine standing_of_ite rfl ?_
    split
    · exact evict_standing ..
    · rfl
  exact (mapDie_standing ..).trans (standing_of_ite rfl (standing_of_ite ((mapDie_standing ..).trans (hevict _)) (hevict _)))

theorem dirtied_standing (loc n : Nat) :
    (s.dirtied loc n).standing = s.standing := standing_of_ite rfl (foldl_standing (fun _ _ => touch_standing ..) _ _)

/-! ### A write performed at home -/

theorem writeBytes_standing (loc : Nat) (bs : List Byte) (who : Requester) (but : Option Word) : (s.writeBytes loc bs who but).standing = s.standing :=
  (dirtied_standing ..).trans ((squashReaders_standing ..).trans (dropResv_standing ..))

theorem collapseLine_standing (line : Nat) (who : Requester) : (s.collapseLine line who).1.standing = s.standing := by
  refine (foldl_standing (f := fun (t : State) (d : DieId) =>
    { t with net := mapFirst (fun p => p.collapsing line d) (fun p => p.join who.each) t.net }) (fun _ _ => rfl) _ _).trans ?_
  exact standing_of_ite rfl ((count_standing ..).trans (mapDie_standing ..))

theorem performWrite_standing (loc : Nat) (bs : List Byte) (who : Requester) (but : Option Word) : (s.performWrite loc bs who but).1.standing = s.standing := by
  have hwrite := writeBytes_standing s loc bs who but
  unfold State.performWrite
  dsimp only
  split
  · exact hwrite
  · split
    · exact (collapseLine_standing ..).trans hwrite
    · exact (collapseLine_standing ..).trans ((collapseLine_standing ..).trans hwrite)

end Sys2Proof.Machine
end

section
/-! SUPPORT. What a slot does at an instruction boundary (R86, R87, R409), and what the fetch of a word finds and leaves (R86, R156, R368). -/

namespace Sys2Proof.Machine

/-! ### A boundary at which nothing else is due -/

/-- The slot whose turn it is stands at an instruction boundary, and nothing comes before its next instruction. -/
structure State.AtBoundary (s : State) : Prop where
  agenda : s.agenda = []
  thawed : s.pins.frozen = false
  booted : s.phase ≠ .bootFailed
  running : s.me.state = .running
  unsent : s.me.sent = none
  awake : ∀ w, s.me.wait = some w → w.woken = true
  going : s.me.stopReq = none
  entered : ∀ r ∈ s.regions, r.strand = s.me.strand → r.todo = []
  undue : s.me.answer.isSome = true ∨ s.me.part.isSome = true ∨ s.me.ending = true
    ∨ (s.me.stepDue = true → s.me.step = true → s.me.level = .system)
      ∧ (s.me.latem = true → s.me.latet = false → s.me.level = .system) ∧ s.watch s.me 1 s.me.pc.toNat 2 = false
  chunk : ∀ k, s.me.chunk = some k → k.oldest = true ∧ k.restart = false ∧ k.held = none ∧ k.ended = false

section boundary
variable {s : State}

theorem imageStep_of_entered (h : ∀ r ∈ s.regions, r.strand = s.me.strand → r.todo = []) : s.imageStep = s := by
  have hnone : (s.regions.find? fun r => r.strand == s.me.strand && !r.todo.isEmpty) = none := by
    rw [List.find?_eq_none]
    intro r hr hc
    simp only [Bool.and_eq_true, beq_iff_eq, Bool.not_eq_true'] at hc
    rw [h r hr hc.1] at hc
    exact absurd hc.2 (by decide)
  rw [State.imageStep, hnone]

/-- At such a boundary the slot issues the word at its PC. -/
theorem boundary_eq_issueWord (h : s.AtBoundary) : s.boundary = s.issueWord := by
  unfold State.boundary
  dsimp only
  split
  · rfl
  next hb =>
    obtain ⟨hstep, hlate, hwatch⟩ : (s.me.stepDue = true → s.me.step = true → s.me.level = .system)
        ∧ (s.me.latem = true → s.me.latet = false → s.me.level = .system) ∧ s.watch s.me 1 s.me.pc.toNat 2 = false := by
      have := h.undue
      tauto
    have hnostep : ¬(s.me.stepDue = true ∧ s.me.step = true ∧ s.me.level = .strand) := fun ⟨hd, hs, hl⟩ => by
      rw [hstep hd hs] at hl; cases hl
    have hnolate : s.me.lateDue = false := by
      by_contra hc
      simp only [Ctx.lateDue, Bool.not_eq_false, Bool.and_eq_true, Bool.not_eq_true', beq_iff_eq] at hc
      obtain ⟨⟨⟨⟨⟨⟨hm, ht⟩, hl⟩, -⟩, -⟩, -⟩, -⟩ := hc
      rw [hlate hm ht] at hl; cases hl
    rw [if_neg hnostep, hnolate, hwatch]
    rfl

theorem issue_eq_issueWord (h : s.AtBoundary) : s.issue = s.issueWord := by
  have hrestart : (s.me.chunk.any fun k => k.restart) = false := by
    cases hc : s.me.chunk with
    | none => rfl
    | some k => exact (h.chunk k hc).2.1
  have hwait : (s.me.wait.any fun w => !w.woken) = false := by
    cases hw : s.me.wait with
    | none => rfl
    | some w => simp [h.awake w hw]
  have hstop : s.me.stopDue = none := by rw [Ctx.stopDue, h.going]
  rw [← boundary_eq_issueWord h]
  unfold State.issue
  rw [if_pos h.running, imageStep_of_entered h.entered]
  simp only [h.running, h.unsent, hrestart, hstop, hwait]
  cases hc : s.me.chunk with
  | none => rfl
  | some k =>
    obtain ⟨-, -, hheld, hended⟩ := h.chunk k hc
    simp only [hheld, hended]
    rfl

theorem step_eq_issueWord (h : s.AtBoundary) : step s = s.issueWord := by
  rw [step, State.takeStep, h.agenda]
  simp only [h.thawed, h.booted, Bool.false_eq_true, if_false]
  exact issue_eq_issueWord h

theorem not_speculative (h : s.AtBoundary) : s.me.speculative = false := by
  unfold Ctx.speculative
  split
  next k hk => rw [(h.chunk k hk).1]; rfl
  next => rfl

/-- The state with a word at hand. -/
abbrev State.withWord (s : State) (b : List Byte) : State := s.mapMe fun c => { c with iword := BitVec.ofNat 32 (ofBytes b) }

theorem issueWord_of_decoded (hs : s.me.speculative = false) {b : List Byte} {i : Instr} {n : Nat} (hf : s.fetch = .bytes b)
    (hd : decode b = .ok (i, n)) : s.issueWord = (if s.me.part.isSome ∨ s.me.wait.isSome ∨ s.me.answer.isSome ∨ s.me.stalled then s.withWord b
      else (s.withWord b).noteFetch).issued i := by
  have hlive : (s.withWord b).readLiveIns i = some (s.withWord b) := if_neg (by rw [show (s.withWord b).me.speculative = false from hs]; decide)
  rw [State.issueWord, hf]
  dsimp only
  rw [hd]
  dsimp only
  rw [hlive]
  rfl

theorem issueWord_of_rejected {b : List Byte} {r : Reject} (hf : s.fetch = .bytes b) (hd : decode b = .error r) :
    s.issueWord = exec (.reservedEncoding (word (ofBytes b))) (s.withWord b) := by
  rw [State.issueWord, hf]
  dsimp only
  rw [hd]

theorem issueWord_of_fault {code : BitVec 8} {addr : Word} (hf : s.fetch = .fault code addr) :
    s.issueWord = exec (.instructionFetchFault code addr) s := by rw [State.issueWord, hf]

theorem issueWord_of_rewalk {e : TlbEntry} (hf : s.fetch = .rewalk e) : s.issueWord = .next (s.dropEntry s.me.die e) := by
  rw [State.issueWord, hf]

theorem mem_tlb_dropEntry (d : DieId) (e x : TlbEntry) :
    x ∈ ((s.dropEntry d e).die d).tlb ↔ x ∈ (s.die d).tlb ∧ x.pteLoc ≠ e.pteLoc := by
  rw [State.dropEntry, die_mapDie, if_pos rfl]
  simp

end boundary

/-! ### What a fetch finds -/

section fetch
variable {s : State}

theorem fetch_of_fault {f : BitVec 8} (h : s.fetchPlace s.me s.me.pc.toNat = .error f) : s.fetch = .fault f s.me.pc := by
  have hhalf : s.fetchHalf s.me.pc = .fault f s.me.pc := by rw [State.fetchHalf, h]
  rw [State.fetch, hhalf]

/-- The halfword at an address stands on the slot's own die, sound, in no copy of the slot's, under a translation that has not changed. -/
structure State.HalfAt (s : State) (va : Word) (p : Place) (b : List Byte) : Prop where
  place : s.fetchPlace s.me va.toNat = .ok p
  even : p.loc % 2 = 0
  near : s.Near p.loc
  sound : s.Sound p.loc 2
  bytes : b = memBytes s.mem p.loc 2
  uncopied : ∀ i ∈ (s.die s.me.die).icopies, i.of s.me.slot = true → i.line.line ≠ lineOf p.loc
  current : ∀ e, p.pte = some e → s.pteStale e false = false

theorem lineOf_succ {loc : Nat} (h : loc % 2 = 0) : lineOf (loc + 1) = lineOf loc := by
  unfold lineOf; omega

theorem homeOf_succ {loc : Nat} (h : loc % 2 = 0) : homeOf (loc + 1) = homeOf loc := by
  have hbase : tileBase = 281474976710656 := rfl
  have htile : isTile (loc + 1) = isTile loc := decide_eq_decide.2 (by omega)
  unfold homeOf
  rw [htile]
  split
  next ht =>
    have hle : tileBase ≤ loc := of_decide_eq_true ht
    rw [show (loc + 1 - tileBase) / 2 ^ 24 = (loc - tileBase) / 2 ^ 24 by omega]
  next => rw [show (loc + 1) / 2 ^ 36 = loc / 2 ^ 36 by omega]

theorem homeByte_of_sound {loc : Nat} (h : loc ∉ s.lost) : s.homeByte loc = some (memGet s.mem loc) := by
  rw [State.homeByte, if_neg (by simpa using h)]

/-- A byte of the own die that no copy of the slot's holds is fetched from its home (R293). -/
theorem fetchByte_of_near {loc : Nat} (hc : s.me.chunk = none) (hh : homeOf loc = s.me.die) (hl : loc ∉ s.lost)
    (hi : ∀ i ∈ (s.die s.me.die).icopies, i.of s.me.slot = true → i.line.line ≠ lineOf loc) :
    s.fetchByte s.me loc = .byte (some (memGet s.mem loc)) := by
  have hnone : ((s.die s.me.die).icopies.find? fun i => i.of s.me.slot && i.line.line == lineOf loc) = none := by
    rw [List.find?_eq_none]
    intro i hmem ht
    simp only [Bool.and_eq_true, beq_iff_eq] at ht
    exact hi i hmem ht.1 ht.2
  rw [State.fetchByte, hnone, State.seenByte, hc, State.dieByte, if_pos hh, homeByte_of_sound hl]

theorem fetchHalf_of_halfAt {va : Word} {p : Place} {b : List Byte} (hc : s.me.chunk = none) (h : s.HalfAt va p b) : s.fetchHalf va = .bytes b := by
  obtain ⟨hdev, hhome⟩ := h.near
  have h0 : p.loc ∉ s.lost := h.sound _ (Nat.le_refl _) (by omega)
  have h1 : p.loc + 1 ∉ s.lost := h.sound _ (by omega) (by omega)
  have hpte : (p.pte.filter fun e => s.pteStale e false) = none := by
    rw [Option.filter_eq_none_iff]
    exact fun e he => by rw [h.current e he]; decide
  have hgather : gatherBytes (s.fetchByte s.me) p.loc 2 = .data [some (memGet s.mem p.loc), some (memGet s.mem (p.loc + 1))] := by
    have hb0 := fetchByte_of_near hc hhome h0 h.uncopied
    have hb1 := fetchByte_of_near (loc := p.loc + 1) hc ((homeOf_succ h.even).trans hhome) h1 (by rw [lineOf_succ h.even]; exact h.uncopied)
    simp only [gatherBytes, hb0, hb1]
  rw [State.fetchHalf, h.place, h.bytes]
  dsimp only
  rw [hpte]
  dsimp only
  rw [hdev, if_neg Bool.false_ne_true]
  split
  · simp only [upFrom, List.map_cons, List.map_nil, homeByte_of_sound h0, homeByte_of_sound h1, memBytes]; rfl
  · rw [hgather]; rfl

theorem fetch_of_short {p : Place} {b : List Byte} (hc : s.me.chunk = none) (h : s.HalfAt s.me.pc p b) (hl : isLong (ofBytes b) = false) :
    s.fetch = .bytes b := by
  rw [State.fetch, fetchHalf_of_halfAt hc h]
  dsimp only
  rw [hl, if_neg Bool.false_ne_true]

theorem fetch_of_long {p p' : Place} {b b' : List Byte} (hc : s.me.chunk = none) (h : s.HalfAt s.me.pc p b) (hl : isLong (ofBytes b) = true)
    (h' : s.HalfAt (s.me.pc + 2) p' b') : s.fetch = .bytes (b ++ b') := by
  rw [State.fetch, fetchHalf_of_halfAt hc h]
  dsimp only
  rw [hl, if_pos rfl, fetchHalf_of_halfAt hc h']

end fetch

/-! ### What a fetch leaves -/

section noted
variable {s : State}

theorem setAD_standing (s : State) (d : DieId) (loc : Nat) (dd : Bool) : (s.setAD d loc dd).standing = s.standing :=
  (mapDie_standing ..).trans (standing_of_ite rfl (performWrite_standing ..))

theorem markAccess_standing (s : State) (p : Place) (write : Bool) : (s.markAccess p write).standing = s.standing := by
  have hmark : (s.markAD s.me.die p write).standing = s.standing := by
    unfold State.markAD
    split
    · rfl
    · exact standing_of_ite (setAD_standing ..) rfl
  unfold State.markAccess
  split
  · rfl
  · refine standing_of_ite rfl ?_
    split
    · exact standing_of_ite rfl hmark
    · exact hmark

/-- A fetch notes its packet in the count of those that may be late, and nothing else of it. -/
theorem noteDue_eq (s : State) (p : Place) : ∃ m, s.noteDue p = s.mapMe fun c => { c with overdue := m } := by
  unfold State.noteDue
  dsimp only
  split
  · exact ⟨_, rfl⟩
  · exact ⟨s.me.overdue, rfl⟩

theorem noteFetchAt_eq {va : Word} {p : Place} (h : s.fetchPlace s.me va.toNat = .ok p) :
    ∃ m, s.noteFetchAt va = (s.mapMe fun c => { c with overdue := m }).markAccess p false := by
  rw [State.noteFetchAt, h]
  dsimp only
  split
  · exact ⟨s.me.overdue, rfl⟩
  · obtain ⟨m, hm⟩ := noteDue_eq s p
    exact ⟨m, by rw [hm]⟩

/-- A word whose second half lies in the same page, or that has none, is fetched through one translation. -/
theorem noteFetch_eq {p : Place} (h : s.fetchPlace s.me s.me.pc.toNat = .ok p)
    (hone : s.me.iword.toNat / 2 ^ 14 % 4 ≠ 3 ∨ (s.me.pc.toNat + 2) % 65536 ≠ 0) :
    ∃ m, s.noteFetch = (s.mapMe fun c => { c with overdue := m }).markAccess p false := by
  obtain ⟨m, hm⟩ := noteFetchAt_eq h
  refine ⟨m, ?_⟩
  have hstand := markAccess_standing (s.mapMe fun c => { c with overdue := m }) p false
  rw [← hm] at hstand ⊢
  obtain ⟨hpc, hword⟩ := Prod.ext_iff.1 hstand
  refine if_neg fun hcross => ?_
  rw [show (s.noteFetchAt s.me.pc).me.pc = s.me.pc from hpc, show (s.noteFetchAt s.me.pc).me.iword = s.me.iword from hword] at hcross
  tauto

theorem markAccess_of_marked {p : Place} {write : Bool} (h : p.Marked write) : s.markAccess p write = s := by
  unfold State.markAccess
  split
  · rfl
  next e he =>
    obtain ⟨ha, hd⟩ := h e he
    have hu : e.unmarked write = false := by
      cases write
      · simp [TlbEntry.unmarked, ha]
      · simp [TlbEntry.unmarked, ha, hd rfl]
    rw [hu]
    rfl

theorem markAccess_of_unmarked {p : Place} {e : TlbEntry} (he : p.pte = some e) (ha : pteA e.pte = false) (hc : s.me.chunk = none) :
    s.markAccess p false = s.setAD s.me.die e.pteLoc false := by
  have hu : e.unmarked false = true := by simp [TlbEntry.unmarked, ha]
  simp only [State.markAccess, State.markAD, he, hu, hc, Bool.not_true, Bool.false_eq_true, if_false, if_true]

theorem ofBytes_lt (bs : List Byte) : ofBytes bs < 256 ^ bs.length := by
  induction bs with
  | nil => exact Nat.one_pos
  | cons b bs ih =>
    rw [ofBytes, List.length_cons, Nat.pow_succ]
    have := b.isLt
    omega

/-- R368: the PTE at its home with A set. -/
theorem numAt_setAD (d : DieId) (loc : Nat) (h : s.MemOk) :
    numAt (s.setAD d loc false).mem loc 8 = (word (numAt s.mem loc 8) ||| 0x800).toNat := by
  have hset : pteSet (s.pteAt loc) false = word (numAt s.mem loc 8) ||| 0x800 := rfl
  have hlt : numAt s.mem loc 8 < 2 ^ 64 := by
    have := ofBytes_lt (memBytes s.mem loc 8)
    rwa [memBytes_length] at this
  unfold State.setAD
  dsimp only
  split
  next heq =>
    rw [hset] at heq
    rw [heq, show s.pteAt loc = word (numAt s.mem loc 8) from rfl, BitVec.toNat_ofNat, Nat.mod_eq_of_lt hlt]
    rfl
  next =>
    rw [mapDie_mem, performWrite_mem, hset]
    have hread : memBytes (memWrite s.mem loc (bytesOf 8 (word (numAt s.mem loc 8) ||| 0x800).toNat)) loc 8
        = bytesOf 8 (word (numAt s.mem loc 8) ||| 0x800).toNat := by
      refine memBytes_eq_of_get (bs := bytesOf 8 _) fun i hi => ?_
      rw [memGet_memWrite _ _ _ h, if_pos (by omega), Nat.add_sub_cancel_left]
    rw [numAt, hread, ofBytes_bytesOf]
    exact Nat.mod_eq_of_lt (BitVec.isLt _)

theorem numAt_noteFetch {p : Place} {e : TlbEntry} (h : s.fetchPlace s.me s.me.pc.toNat = .ok p)
    (hone : s.me.iword.toNat / 2 ^ 14 % 4 ≠ 3 ∨ (s.me.pc.toNat + 2) % 65536 ≠ 0) (he : p.pte = some e) (ha : pteA e.pte = false)
    (hc : s.me.chunk = none) (hmem : s.MemOk) : numAt s.noteFetch.mem e.pteLoc 8 = (word (numAt s.mem e.pteLoc 8) ||| 0x800).toNat := by
  obtain ⟨m, hnote⟩ := noteFetch_eq h hone
  have hmark := markAccess_of_unmarked (s := s.mapMe fun c => { c with overdue := m }) he ha hc
  rw [hnote, hmark]
  exact numAt_setAD (s := s.mapMe fun c => { c with overdue := m }) s.me.die e.pteLoc hmem

end noted

end Sys2Proof.Machine
end

section
/-! SUPPORT. The turn at the vector sequencer (R396, log 84): which slot is served, and what the round leaves. -/

namespace Sys2Proof.Machine

/-! ### Going round the slots -/

section round
variable {ready : Fin 4 → Bool} {quantum : Fin 4 → Int}

theorem serveSlots_of_served {cur : Fin 4} {v : Vector Int 4} (hr : ready cur = true) (hv : 0 < v[cur]) (fuel : Nat) :
    serveSlots ready quantum fuel cur v = (cur, v) := by
  cases fuel with
  | zero => rfl
  | succ fuel => rw [serveSlots, if_pos (by rw [hr, decide_eq_true hv]; rfl)]

/-- The sequencer stands at a slot that is ready with a counter above 0. -/
def Served (ready : Fin 4 → Bool) (r : Fin 4 × Vector Int 4) : Prop := ready r.1 = true ∧ 0 < r.2[r.1]

theorem turns_to (cur j : Fin 4) (h : cur ≠ j) : (j - (cur + 1)).val + 1 = (j - cur).val := by
  revert cur j; decide

theorem turns_since (cur j : Fin 4) (h : cur + 1 ≠ j) : (cur + 1 - j).val = (cur - j).val + 1 := by
  revert cur j; decide

theorem turns_since_last (cur j : Fin 4) (h : cur + 1 = j) : (cur - j).val = 3 := by
  revert cur j; decide

/-- A ready slot gains at least 64 in each round of four turns: while the turns that are left reach it and suffice for its debt, the
round ends at a slot that is ready with a counter above 0. -/
theorem serveSlots_serves (hq : ∀ k, 64 ≤ quantum k) {j : Fin 4} (hj : ready j = true) (fuel : Nat) (cur : Fin 4) (v : Vector Int 4)
    (hreach : (j - cur).val ≤ fuel) (hdebt : 48 < v[j] + 16 * ((fuel : Int) + (cur - j).val)) :
    Served ready (serveSlots ready quantum fuel cur v) := by
  induction fuel generalizing cur v with
  | zero =>
    obtain rfl : j = cur := sub_eq_zero.1 (Fin.ext (Nat.le_zero.1 hreach))
    rw [sub_self] at hdebt
    exact ⟨hj, by simpa [serveSlots] using lt_trans (by decide) hdebt⟩
  | succ fuel ih =>
    unfold serveSlots
    split
    next hs =>
      rw [Bool.and_eq_true, decide_eq_true_eq] at hs
      exact hs
    next hs =>
      have hadd : v[j] + 64 ≤ (if ready j then v[j] + quantum j else 0) := by rw [if_pos hj]; have := hq j; omega
      refine ih (cur + 1) _ ?_ ?_
      · by_cases hc : cur = j
        · subst hc
          have hv : ¬ 0 < v[cur] := fun hv => hs (by rw [hj, decide_eq_true hv]; rfl)
          have hz : (cur - cur).val = 0 := congrArg Fin.val (sub_self cur)
          have := (cur - (cur + 1)).isLt
          omega
        · have := turns_to cur j hc
          omega
      · by_cases hn : cur + 1 = j
        · have hlast := turns_since_last cur j hn
          subst hn
          have hz : (cur + 1 - (cur + 1)).val = 0 := congrArg Fin.val (sub_self _)
          simp only [Fin.getElem_fin, Vector.getElem_set_self] at hadd hdebt ⊢
          omega
        · have hsince := turns_since cur j hn
          have hne : (cur + 1).val ≠ j.val := fun h => hn (Fin.ext h)
          simp only [Fin.getElem_fin, Vector.getElem_set_ne _ _ hne] at hdebt ⊢
          omega

end round

/-! ### The core's round -/

/-- A slot with its counter taken out. -/
def Ctx.uncharged (c : Ctx) : Ctx := { c with deficit := 0 }

/-- What the round of a core keeps: every slot but for its counter, memory and the net. -/
def State.uncharged (s : State) : Ctx × List Ctx × List Host.Cell × List Packet := (s.me.uncharged, s.others.map Ctx.uncharged, s.mem, s.net)

section core
variable (s : State)

theorem mapCtx_uncharged {f : Ctx → Ctx} (h : ∀ c, (f c).uncharged = c.uncharged) (d : DieId) (k : SlotNo) :
    (s.mapCtx d k f).uncharged = s.uncharged := by
  unfold State.mapCtx
  split
  · simp only [State.uncharged, h]
  · have hmap : (mapIf (fun c => c.at d k) f s.others).map Ctx.uncharged = s.others.map Ctx.uncharged := by
      rw [mapIf, List.map_map]
      refine List.map_congr_left fun c _ => ?_
      simp only [Function.comp]
      split
      · exact h c
      · rfl
    simp only [State.uncharged, hmap]

theorem serveCore_uncharged : s.serveCore.1.uncharged = s.uncharged :=
  (foldl_keeps State.uncharged _ (fun t k => mapCtx_uncharged t (by intro _; rfl) _ _) _ _).trans rfl

theorem neighbour_seqIx (c : Ctx) : c.neighbour c.seqIx = c.slot := by
  refine Fin.ext ?_
  simp only [Ctx.neighbour, Ctx.seqIx, Fin.val_ofNat]
  omega

theorem at_own (c : Ctx) : c.at c.die c.slot = true := by simp [Ctx.at]

theorem ctx?_of_at {d : DieId} {k : SlotNo} (ha : s.me.at d k = true) (hb : s.me.state ≠ .free) : s.ctx? d k = some s.me := by
  rw [State.ctx?, if_pos ha, if_neg hb]

/-- The counters of the core's four slots, 0 for a free one. -/
def State.coreDeficits (s : State) : Vector Int 4 :=
  Vector.ofFn fun k => ((s.ctx? s.me.die (s.me.neighbour k)).map fun o => o.deficit).getD 0

/-- A counter given back as it was leaves the slot whose turn it is as it was. -/
theorem mapCtx_deficit_me (t : State) (hme : t.me = s.me) (hb : s.me.state ≠ .free) (k : Fin 4) :
    (t.mapCtx s.me.die (s.me.neighbour k) fun o => { o with deficit := s.coreDeficits[k] }).me = s.me := by
  unfold State.mapCtx
  split
  next ha =>
    rw [hme] at ha ⊢
    simp only [State.coreDeficits, Fin.getElem_fin, Vector.getElem_ofFn, Fin.eta, ctx?_of_at s ha hb, Option.map_some, Option.getD_some]
  next => exact hme

/-- The slot at which the round of the core ends, and the counters then. -/
noncomputable def State.coreRound : Fin 4 × Vector Int 4 :=
  serveSlots (fun k => k == s.me.seqIx || (s.ctx? s.me.die (s.me.neighbour k)).any s.seqReady)
    (fun k => ((s.ctx? s.me.die (s.me.neighbour k)).map Ctx.quantum).getD 0) serveFuel (s.die s.me.die).turns[s.me.coreIx] s.coreDeficits

theorem serveCore_eq : s.serveCore = ((upFrom 0 4).foldl
    (fun t k => t.mapCtx s.me.die (s.me.neighbour (Fin.ofNat 4 k)) fun o => { o with deficit := s.coreRound.2[Fin.ofNat 4 k] })
    (s.mapDie s.me.die fun d => { d with turns := d.turns.set s.me.coreIx s.coreRound.1 }), s.coreRound.1 == s.me.seqIx) := rfl

/-- A slot whose turn it is and whose counter is above 0 is served at once, and its counter stays. -/
theorem serveCore_of_turn (hb : s.me.state ≠ .free) (ht : (s.die s.me.die).turns[s.me.coreIx] = s.me.seqIx) (hd : 0 < s.me.deficit) :
    s.serveCore.2 = true ∧ s.serveCore.1.me = s.me := by
  have hown : s.coreDeficits[s.me.seqIx] = s.me.deficit := by
    simp only [State.coreDeficits, Fin.getElem_fin, Vector.getElem_ofFn, Fin.eta, neighbour_seqIx, ctx?_of_at s (at_own s.me) hb, Option.map_some,
      Option.getD_some]
  have hround : s.coreRound = (s.me.seqIx, s.coreDeficits) := by
    rw [State.coreRound, ht]
    exact serveSlots_of_served (by simp) (by rw [hown]; exact hd) serveFuel
  rw [serveCore_eq, hround]
  refine ⟨beq_self_eq_true _, ?_⟩
  have hfold (l : List Nat) (t : State) (hme : t.me = s.me) : (l.foldl
      (fun t k => t.mapCtx s.me.die (s.me.neighbour (Fin.ofNat 4 k)) fun o => { o with deficit := s.coreDeficits[Fin.ofNat 4 k] }) t).me = s.me := by
    induction l generalizing t with
    | nil => exact hme
    | cons k l ih => exact ih _ (mapCtx_deficit_me s t hme hb _)
  exact hfold _ _ rfl

end core

/-! ### An instruction issued -/

section issued
variable {s u : State} {i : Instr}

theorem issued_of_held (h : s.grant i = (u, false)) : s.issued i = .next u := by
  rw [State.issued, h]; rfl

/-- What an instruction is charged for (R396) is kept in its slot. -/
theorem charged_eq (i : Instr) (t : State) :
    ∃ x g h, s.charged i t = t.mapMe fun c => { c with deficit := x, granted := g, stalled := h } := by
  refine ⟨(s.charged i t).me.deficit, (s.charged i t).me.granted, (s.charged i t).me.stalled, ?_⟩
  unfold State.charged
  dsimp only
  split
  · rfl
  · split
    · split <;> rfl
    · rfl

theorem issued_of_granted (h : s.grant i = (u, true)) :
    s.issued i = match exec i u with | .next t => .next (u.charged i t) | x => x := by
  rw [State.issued, h]; rfl

theorem grant_of_free (h : sequenced s.me.iword i = false ∨ s.me.granted = true) : s.grant i = (s, true) := by
  rw [State.grant, if_neg]
  rcases h with h | h <;> simp [h]

theorem grant_of_sequenced (h : sequenced s.me.iword i = true) (hg : s.me.granted = false) : s.grant i = s.serveCore := by
  rw [State.grant, if_pos (by rw [h, hg]; rfl)]

end issued

/-! ### A turn of the agenda -/

/-- A state without the count of the free values taken and the counters (R433). -/
def State.unflitted (s : State) : State := { s with fresh := 0, ctr := [] }

theorem count_unflitted (s : State) (d : DieId) (kind inst ix n : Nat) : (s.count d kind inst ix n).unflitted = s.unflitted := by
  unfold State.count
  split <;> rfl

/-- Counting flits (R442) moves the counters and the free values taken, and nothing else. -/
theorem countFlits_eq (s t : State) : ∃ m x, s.countFlits t = { t with fresh := m, ctr := x } := by
  have h : (s.countFlits t).unflitted = t.unflitted := by
    refine foldl_keeps State.unflitted _ (fun u p => ?_) _ _
    split
    · refine foldl_keeps State.unflitted _ (fun u l => ?_) _ _
      exact (count_unflitted ..).trans (count_unflitted ..)
    · rfl
  refine ⟨(s.countFlits t).fresh, (s.countFlits t).ctr, ?_⟩
  exact congrArg (fun u : State => { u with fresh := (s.countFlits t).fresh, ctr := (s.countFlits t).ctr }) h

theorem step_of_event {s : State} {i : Instr} {rest : List Turn} (ha : s.agenda = .event i :: rest) (he : i.isEvent = true) (hw : i.wf = true)
    (hf : s.pins.frozen = false) :
    step s = match exec i { s with agenda := rest } with | .next t => .next (({ s with agenda := rest } : State).countFlits t) | x => x := by
  rw [step, State.takeStep, ha]
  simp only [State.turn, he, hw, hf]
  rfl

/-! ### The step at a boundary -/

/-- Settles O56. At a boundary the step is the issue of the word at the PC (`step_eq_issueWord`); what the fetch finds and leaves, the turn
at the sequencer and a turn of the agenda each have their lemmas above. -/
theorem stepRunsTheDecodedInstruction : Obligations.StepRunsTheDecodedInstruction := by
  unfold Obligations.StepRunsTheDecodedInstruction
  intro s b b' p p' i n r code addr rest u t ok e ready quantum v j k c half boundary at_ noted counted onePage
  have hboundary : boundary → s.AtBoundary := fun ⟨h1, h2, h3, h4, h5, h6, h7, h8, h9, h10⟩ => ⟨h1, h2, h3, h4, h5, h6, h7, h8, h9, h10⟩
  have hhalf (va : Word) (p : Place) (b : List Byte) : half va p b → s.HalfAt va p b :=
    fun ⟨h1, h2, h3, h4, h5, h6, h7⟩ => ⟨h1, h2, h3, h4, h5, h6, h7⟩
  refine ⟨fun hb hf => ⟨fun hd => ?_, fun hd => ?_⟩, fun hone hm => ?_, fun hone he ha hc hmem => ?_, fun hg => ⟨fun hok => ?_, fun hok => ?_⟩,
    grant_of_free, grant_of_sequenced, fun hs => ?_, rfl, fun hq hj hv => ?_, fun hb hf => ?_, fun hb hf => ?_, fun hc h hl => ?_, fun hc h hl h' => ?_,
    fun f hf => fetch_of_fault hf, fun ha he hw hf => ⟨fun hx => ?_, fun f hx => ?_, fun f hx => ?_⟩⟩
  · rw [step_eq_issueWord (hboundary hb), issueWord_of_decoded (not_speculative (hboundary hb)) hf hd]
  · rw [step_eq_issueWord (hboundary hb), issueWord_of_rejected hf hd]
  · obtain ⟨m, hnote⟩ := noteFetch_eq hone.1 hone.2
    exact ⟨m, hnote.trans (markAccess_of_marked hm)⟩
  · exact numAt_noteFetch hone.1 hone.2 he ha hc hmem
  · subst hok
    exact issued_of_held hg
  · subst hok
    rw [issued_of_granted hg]
    refine ⟨fun hx => ?_, fun f hx => by rw [hx], fun f hx => by rw [hx]⟩
    obtain ⟨x, g, h, hch⟩ := charged_eq (s := u) i t
    exact ⟨x, g, h, by rw [hx, ← hch]⟩
  · have hkeep := serveCore_uncharged s
    have hturn := serveCore_of_turn s
    rw [hs] at hkeep hturn
    obtain ⟨hme, hothers, hmem, hnet⟩ : u.me.uncharged = s.me.uncharged ∧ u.others.map Ctx.uncharged = s.others.map Ctx.uncharged
        ∧ u.mem = s.mem ∧ u.net = s.net := by simpa [State.uncharged] using hkeep
    exact ⟨hme, hothers, hmem, hnet, hturn⟩
  · have hfuel : serveFuel = 268435456 := rfl
    exact serveSlots_serves hq hj serveFuel k v (by omega) (by omega)
  · refine ⟨_, (step_eq_issueWord (hboundary hb)).trans (issueWord_of_rewalk hf), rfl, rfl, fun x => mem_tlb_dropEntry _ _ _⟩
  · rw [step_eq_issueWord (hboundary hb), issueWord_of_fault hf]
  · exact fetch_of_short hc (hhalf _ _ _ h) hl
  · exact fetch_of_long hc (hhalf _ _ _ h) hl (hhalf _ _ _ h')
  · obtain ⟨m, x, hcount⟩ := countFlits_eq { s with agenda := rest } t
    exact ⟨m, x, by rw [step_of_event ha he hw hf, hx, ← hcount]⟩
  · rw [step_of_event ha he hw hf, hx]
  · rw [step_of_event ha he hw hf, hx]

end Sys2Proof.Machine
end

section
/-! SUPPORT. Scalar integer instructions (R128 to R131): one result in sd, and the value of each. -/

namespace Sys2Proof.Machine

/-- An instruction that answers one result in sd has that as its whole effect. -/
theorem completes_result {i : Instr} {s : State} {d : SReg} {x v : Word} (hi : exec i s = .next (s.result d x)) (hx : x = v) :
    Completes i s fun t => ScalarResult s t d v 4 := ⟨_, hi, hx ▸ result_effect s d x⟩

/-! ### Values of two operands (R128) -/

theorem shiftLeft_eq_ofNat (x : Word) (n : Nat) : x <<< n = BitVec.ofNat 64 (x.toNat * 2 ^ n) :=
  BitVec.eq_of_toNat_eq (by simp [BitVec.toNat_shiftLeft, Nat.shiftLeft_eq])

theorem ushiftRight_eq_ofNat (x : Word) (n : Nat) : x >>> n = BitVec.ofNat 64 (x.toNat / 2 ^ n) := by
  refine BitVec.eq_of_toNat_eq ?_
  have hlt : x.toNat / 2 ^ n < 2 ^ 64 := (Nat.div_le_self ..).trans_lt x.isLt
  rw [BitVec.toNat_ushiftRight, Nat.shiftRight_eq_div_pow, BitVec.toNat_ofNat, Nat.mod_eq_of_lt hlt]

theorem sshiftRight_eq_ofInt (x : Word) (n : Nat) : x.sshiftRight n = BitVec.ofInt 64 (x.toInt / ((2 ^ n : Nat) : Int)) := by
  rw [BitVec.sshiftRight_eq, Int.shiftRight_eq_div_pow]

theorem flag_decide (p : Prop) [Decidable p] : flag (decide p) = if p then 1 else 0 := by simp [flag]

theorem ofInt_toInt_sub (x y : Word) : BitVec.ofInt 64 (x.toInt - y.toInt) = x - y := by
  rw [Int.sub_eq_add_neg, BitVec.ofInt_add, BitVec.ofInt_neg, BitVec.ofInt_toInt, BitVec.ofInt_toInt, BitVec.sub_eq_add_neg]

theorem ofInt_toInt_mul (x y : Word) : BitVec.ofInt 64 (x.toInt * y.toInt) = x * y := by
  rw [BitVec.ofInt_mul, BitVec.ofInt_toInt, BitVec.ofInt_toInt]

theorem ofInt_min (x y : Word) : (if x.toInt ≤ y.toInt then x else y) = BitVec.ofInt 64 (Min.min x.toInt y.toInt) := by
  rw [Int.min_def]
  split <;> exact BitVec.ofInt_toInt.symm

theorem ofInt_max (x y : Word) : (if x.toInt ≤ y.toInt then y else x) = BitVec.ofInt 64 (Max.max x.toInt y.toInt) := by
  rw [Int.max_def]
  split <;> exact BitVec.ofInt_toInt.symm

theorem ofNat_min (x y : Word) : (if x.toNat ≤ y.toNat then x else y) = BitVec.ofNat 64 (Min.min x.toNat y.toNat) := by
  rw [Nat.min_def]
  split <;> exact (BitVec.ofNat_toNat 64 _).symm ▸ (BitVec.setWidth_eq _).symm

theorem ofNat_max (x y : Word) : (if x.toNat ≤ y.toNat then y else x) = BitVec.ofNat 64 (Max.max x.toNat y.toNat) := by
  rw [Nat.max_def]
  split <;> exact (BitVec.ofNat_toNat 64 _).symm ▸ (BitVec.setWidth_eq _).symm

/-- Settles O1: each instruction is one result in sd (`completes_result`), of the value given. -/
theorem integerArithmeticResults : Obligations.IntegerArithmeticResults := by
  unfold Obligations.IntegerArithmeticResults
  intro d a b s
  exact ⟨completes_result rfl (BitVec.add_def ..), completes_result rfl (ofInt_toInt_sub ..).symm, completes_result rfl rfl, completes_result rfl rfl,
    completes_result rfl rfl, completes_result rfl (shiftLeft_eq_ofNat ..), completes_result rfl (ushiftRight_eq_ofNat ..),
    completes_result rfl (sshiftRight_eq_ofInt ..), completes_result rfl (flag_decide _), completes_result rfl (flag_decide _),
    completes_result rfl (ofInt_min ..), completes_result rfl (ofInt_max ..), completes_result rfl (ofNat_min ..), completes_result rfl (ofNat_max ..),
    completes_result rfl (ofInt_toInt_mul ..).symm, completes_result rfl rfl, completes_result rfl rfl, completes_result rfl rfl⟩

/-! ### Division (R129) -/

/-- Truncating division is the only quotient whose remainder is below the divisor and of the dividend's sign. -/
theorem tdiv_eq_of_remainder {x y q r : Int} (hy : y ≠ 0) (h : x = q * y + r) (hr : r.natAbs < y.natAbs) (hsign : 0 ≤ r * x) : x.tdiv y = q := by
  have hsum : r + y * q = x := by rw [h]; ring
  rcases lt_trichotomy x 0 with hx | hx | hx
  · have hr0 : r ≤ 0 := by by_contra hpos; nlinarith
    exact ((Int.tdiv_tmod_unique' hx.le hy).2 ⟨hsum, by omega, hr0⟩).1
  · have hr0 : r = 0 := by
      have hdvd : y ∣ r := ⟨-q, by rw [hx] at hsum; linarith⟩
      exact Int.eq_zero_of_dvd_of_natAbs_lt_natAbs hdvd hr
    exact ((Int.tdiv_tmod_unique hx.ge hy).2 ⟨hsum, by omega, by omega⟩).1
  · have hr0 : 0 ≤ r := by by_contra hneg; nlinarith
    exact ((Int.tdiv_tmod_unique hx.le hy).2 ⟨hsum, hr0, by omega⟩).1

theorem divq_of_remainder {x y : Word} {q r : Int} (hy : y ≠ 0) (h : x.toInt = q * y.toInt + r) (hr : r.natAbs < y.toInt.natAbs)
    (hsign : 0 ≤ r * x.toInt) : divq x y = BitVec.ofInt 64 q := by
  have hy0 : y.toInt ≠ 0 := fun h0 => hy (BitVec.eq_of_toInt_eq (by rw [h0]; rfl))
  rw [divq, if_neg hy, tdiv_eq_of_remainder hy0 h hr hsign]

theorem divr_of_remainder {x y : Word} {q r : Int} (hy : y ≠ 0) (h : x.toInt = q * y.toInt + r) (hr : r.natAbs < y.toInt.natAbs)
    (hsign : 0 ≤ r * x.toInt) : divr x y = BitVec.ofInt 64 r := by
  have hy0 : y.toInt ≠ 0 := fun h0 => hy (BitVec.eq_of_toInt_eq (by rw [h0]; rfl))
  rw [divr, if_neg hy, tdiv_eq_of_remainder hy0 h hr hsign, h]
  congr 1
  ring

theorem divqn_of_remainder {x y : Word} {q r : Nat} (hy : y ≠ 0) (h : x.toNat = q * y.toNat + r) (hr : r < y.toNat) : divqn x y = BitVec.ofNat 64 q := by
  rw [divqn, if_neg hy, h, Nat.add_comm, Nat.add_mul_div_right _ _ (by omega), Nat.div_eq_of_lt hr, Nat.zero_add]

theorem divrn_of_remainder {x y : Word} {q r : Nat} (hy : y ≠ 0) (h : x.toNat = q * y.toNat + r) (hr : r < y.toNat) : divrn x y = BitVec.ofNat 64 r := by
  rw [divrn, if_neg hy, h, Nat.add_comm, Nat.add_mul_mod_self_right, Nat.mod_eq_of_lt hr]

/-- Settles O2: a quotient with its remainder is determined by the conditions (`tdiv_eq_of_remainder`); the corner cases are those of the definitions. -/
theorem divisionResults : Obligations.DivisionResults := by
  unfold Obligations.DivisionResults
  intro d a b s
  refine ⟨fun hy => ?_, fun hx hy => ?_, fun hy q r h hr hsign => ?_, fun hy q r h hr => ?_⟩
  · exact ⟨completes_result rfl (if_pos hy), completes_result rfl (if_pos hy), completes_result rfl (if_pos hy), completes_result rfl (if_pos hy)⟩
  · refine ⟨completes_result rfl ?_, completes_result rfl ?_⟩
    · rw [hx, hy]; decide
    · rw [hx, hy]; decide
  · exact ⟨completes_result rfl (divq_of_remainder hy h hr hsign), completes_result rfl (divr_of_remainder hy h hr hsign)⟩
  · exact ⟨completes_result rfl (divqn_of_remainder hy h hr), completes_result rfl (divrn_of_remainder hy h hr)⟩

/-! ### Counts, byte reversal and extensions (R128) -/

/-- Leading zeros: the bits above the topmost one. -/
theorem clz64_spec (x : Word) : clz64 x ≤ 64 ∧ (∀ i, i < clz64 x → x.getLsbD (63 - i) = false) ∧ (clz64 x < 64 → x.getLsbD (63 - clz64 x) = true) := by
  by_cases hx : x = 0
  · simp [clz64, hx]
  · have hne : x.toNat ≠ 0 := fun h => hx (BitVec.eq_of_toNat_eq h)
    have hlt : x.toNat.log2 < 64 := (Nat.log2_lt hne).2 x.isLt
    rw [clz64, if_neg hx, topBit]
    refine ⟨by omega, fun i hi => ?_, fun _ => ?_⟩
    · rw [← BitVec.testBit_toNat]
      exact Nat.testBit_lt_two_pow (Nat.lt_log2_self.trans_le (Nat.pow_le_pow_right (by omega) (by omega)))
    · rw [← BitVec.testBit_toNat, show 63 - (63 - x.toNat.log2) = x.toNat.log2 by omega]
      exact Nat.testBit_log2 hne

theorem ctzFrom_spec (n : Nat) : ∀ x : Nat, ctzFrom x n ≤ n ∧ (∀ i, i < ctzFrom x n → x.testBit i = false) ∧ (ctzFrom x n < n → x.testBit (ctzFrom x n) = true) := by
  induction n with
  | zero => intro x; simp [ctzFrom]
  | succ n ih =>
    intro x
    obtain ⟨hle, hlow, htop⟩ := ih (x / 2)
    rw [ctzFrom]
    split
    next hodd => simpa [Nat.testBit_zero] using hodd
    next heven =>
      refine ⟨by omega, fun i hi => ?_, fun hn => ?_⟩
      · cases i with
        | zero => simpa [Nat.testBit_zero] using heven
        | succ i => rw [Nat.testBit_succ]; exact hlow i (by omega)
      · rw [Nat.testBit_succ]; exact htop (by omega)

/-- The one bits counted are those of the list of the indices whose bit is one. -/
theorem popFrom_eq (n : Nat) : ∀ x : Nat, popFrom x n = ((List.range n).filter fun i => x.testBit i).length := by
  induction n with
  | zero => intro x; rfl
  | succ n ih =>
    intro x
    have hshift : ((List.map Nat.succ (List.range n)).filter fun i => x.testBit i).length = ((List.range n).filter fun i => (x / 2).testBit i).length := by
      simp [List.filter_map, Function.comp_def, Nat.testBit_succ]
    rw [popFrom, ih, List.range_succ_eq_map, List.filter_cons]
    rcases Nat.mod_two_eq_zero_or_one x with h | h <;> simp [Nat.testBit_zero, h, hshift, Nat.add_comm]

/-- A byte of a number given by its bytes. -/
theorem ofNat_ofBytes_div (bs : List Byte) : ∀ i, BitVec.ofNat 8 (ofBytes bs / 256 ^ i) = (bs[i]?).getD 0 := by
  induction bs with
  | nil => intro i; simp [ofBytes]
  | cons b bs ih =>
    intro i
    cases i with
    | zero => refine BitVec.eq_of_toNat_eq ?_; simp [ofBytes]; omega
    | succ i =>
      have hb := b.isLt
      rw [ofBytes, Nat.pow_succ', ← Nat.div_div_eq_div_mul, show (b.toNat + 256 * ofBytes bs) / 256 = ofBytes bs by omega, ih]
      rfl

theorem bswap64_byte (x : Word) {i : Nat} (hi : i < 8) : (bswap64 x).extractLsb' (8 * i) 8 = x.extractLsb' (56 - 8 * i) 8 := by
  have hlen : (bytesOf 8 x.toNat).reverse.length = 8 := by rw [List.length_reverse, bytesOf_length]
  have hlt : ofBytes (bytesOf 8 x.toNat).reverse < 2 ^ 64 := by
    have h := ofBytes_lt (bytesOf 8 x.toNat).reverse
    rw [hlen] at h
    exact h
  have hbyte : (bytesOf 8 x.toNat).reverse[i]? = some (BitVec.ofNat 8 (x.toNat / 256 ^ (7 - i))) := by
    rw [List.getElem?_reverse (by rw [bytesOf_length]; exact hi), bytesOf_length, bytesOf_get _ _ _ (by omega)]
  have hpow (k : Nat) : 2 ^ (8 * k) = 256 ^ k := by rw [Nat.pow_mul]
  calc (bswap64 x).extractLsb' (8 * i) 8
      = BitVec.ofNat 8 (ofBytes (bytesOf 8 x.toNat).reverse / 256 ^ i) := by
        rw [BitVec.extractLsb', bswap64, BitVec.toNat_ofNat, Nat.mod_eq_of_lt hlt, Nat.shiftRight_eq_div_pow, hpow]
    _ = BitVec.ofNat 8 (x.toNat / 256 ^ (7 - i)) := by rw [ofNat_ofBytes_div, hbyte]; rfl
    _ = x.extractLsb' (56 - 8 * i) 8 := by
        rw [BitVec.extractLsb', Nat.shiftRight_eq_div_pow, show 56 - 8 * i = 8 * (7 - i) by omega, hpow]

theorem sextN_eq_signExtend (x : Word) {w : Nat} (hw : 0 < w) (hw' : w ≤ 64) : sextN w x.toNat = (x.setWidth w).signExtend 64 := by
  have hmsb : (x.setWidth w).msb = decide (2 ^ w ≤ 2 * (x.toNat % 2 ^ w)) := by
    rw [BitVec.msb_eq_decide, BitVec.toNat_setWidth]
    have hpow : 2 ^ w = 2 * 2 ^ (w - 1) := by rw [← Nat.pow_succ']; congr 1; omega
    simp only [decide_eq_decide]; omega
  have hlt : x.toNat % 2 ^ w < 2 ^ w := Nat.mod_lt _ (Nat.two_pow_pos w)
  have hle : 2 ^ w ≤ 2 ^ 64 := Nat.pow_le_pow_right (by omega) hw'
  have hy : (x.setWidth w).toNat = x.toNat % 2 ^ w := BitVec.toNat_setWidth ..
  refine BitVec.eq_of_toNat_eq ?_
  rw [BitVec.toNat_signExtend, hmsb, BitVec.toNat_setWidth, hy, Nat.mod_eq_of_lt (hlt.trans_le hle), sextN]
  by_cases h : 2 ^ w ≤ 2 * (x.toNat % 2 ^ w)
  · rw [if_pos h, if_pos (by simpa using h), BitVec.toNat_ofNat]
    omega
  · rw [if_neg h, if_neg (by simpa using h), BitVec.toNat_ofNat]
    omega

theorem word_mod_eq_setWidth (x : Word) (w : Nat) : word (x.toNat % 2 ^ w) = (x.setWidth w).setWidth 64 :=
  BitVec.eq_of_toNat_eq (by simp [BitVec.toNat_setWidth])

/-- Settles O3: the counts, the bytes and the extensions by their lemmas above. -/
theorem bitCountAndExtendResults : Obligations.BitCountAndExtendResults := by
  unfold Obligations.BitCountAndExtendResults
  intro d a s
  obtain ⟨hle, hlow, htop⟩ := clz64_spec (s.getS a)
  obtain ⟨hle', hlow', htop'⟩ := ctzFrom_spec 64 (s.getS a).toNat
  refine ⟨⟨_, hle, hlow, htop, completes_result rfl rfl⟩, ⟨_, hle', fun i hi => ?_, fun hn => ?_, completes_result rfl rfl⟩,
    completes_result rfl ?_, ⟨_, fun i hi => bswap64_byte _ hi, completes_result rfl rfl⟩, fun z _ => ?_⟩
  · rw [← BitVec.testBit_toNat]; exact hlow' i hi
  · rw [← BitVec.testBit_toNat]; exact htop' hn
  · simp only [pop64, popFrom_eq, BitVec.testBit_toNat]
  · have hz : 0 < 8 * z.bytes ∧ 8 * z.bytes ≤ 64 := by cases z <;> decide
    exact ⟨completes_result rfl (sextN_eq_signExtend _ hz.1 hz.2), completes_result rfl (word_mod_eq_setWidth ..)⟩

/-! ### Immediates (R130, R131) -/

theorem toInt_imm11 (i : BitVec 11) : (imm11 i).toInt = i.toInt := BitVec.toInt_signExtend_of_le (by decide)

theorem ofInt_shifted_imm19 (u : BitVec 19) : BitVec.ofInt 64 (u.toInt * 2048) = imm19 u <<< (11 : Nat) := by
  rw [BitVec.shiftLeft_eq_mul_twoPow, BitVec.ofInt_mul]; rfl

/-- Settles O4: the immediates are the operands of the instructions of O1, sign-extended. -/
theorem immediateResults : Obligations.ImmediateResults := by
  unfold Obligations.ImmediateResults
  intro d a s i n u
  refine ⟨completes_result rfl (ofInt_add_signed _ i (by decide)).symm, completes_result rfl rfl, completes_result rfl rfl, completes_result rfl rfl,
    completes_result rfl ?_, completes_result rfl (flag_decide _), completes_result rfl (shiftLeft_eq_ofNat ..),
    completes_result rfl (ushiftRight_eq_ofNat ..), completes_result rfl (sshiftRight_eq_ofInt ..), completes_result rfl (ofInt_shifted_imm19 u).symm,
    completes_result rfl ?_⟩
  · exact (flag_decide _).trans (by rw [toInt_imm11])
  · rw [BitVec.ofInt_add, BitVec.ofInt_toInt, ofInt_shifted_imm19]

end Sys2Proof.Machine
end

section
/-! SUPPORT. Branches and jumps (R137 to R139): targets, links, and what a transfer leaves. -/

namespace Sys2Proof.Machine

/-- The target of a branch or jump: twice the sign-extended offset from the program counter (R89). -/
theorem target_eq_ofInt {n : Nat} (pc : Word) (o : BitVec n) : pc + (o.signExtend 64 <<< (1 : Nat)) = BitVec.ofInt 64 (pc.toInt + 2 * o.toInt) := by
  rw [BitVec.ofInt_add, BitVec.ofInt_toInt, BitVec.ofInt_mul, BitVec.shiftLeft_eq_mul_twoPow, BitVec.mul_comm]; rfl

/-- A branch whose condition is `p`. -/
theorem branch_goes {i : Instr} {s : State} {taken : Bool} {p : Prop} {k n : Nat} {o : BitVec k} (hi : exec i s = s.branch taken (o.signExtend 64) n)
    (hp : taken = true ↔ p) : (p → Completes i s fun t => t.me.pc = BitVec.ofInt 64 (s.me.pc.toInt + 2 * o.toInt) ∧ Keeps s t id)
      ∧ (¬ p → Completes i s fun t => Passed s t n ∧ Keeps s t id) := by
  obtain ⟨t, ht, hpc, hkeeps⟩ := branch_effect s taken (o.signExtend 64) n
  refine ⟨fun h => ⟨t, hi.trans ht, ?_, hkeeps⟩, fun h => ⟨t, hi.trans ht, ?_, hkeeps⟩⟩
  · rw [hpc, if_pos (hp.2 h), target_eq_ofInt]
  · rw [Passed, hpc, if_neg (mt hp.1 h)]

/-- Settles O5: each conditional branch is `State.branch` under its condition. -/
theorem conditionalBranches : Obligations.ConditionalBranches := by
  unfold Obligations.ConditionalBranches
  intro a b o h s
  exact ⟨branch_goes rfl beq_iff_eq, branch_goes rfl bne_iff_ne, branch_goes rfl decide_eq_true_iff, branch_goes rfl decide_eq_true_iff,
    branch_goes rfl decide_eq_true_iff, branch_goes rfl decide_eq_true_iff, branch_goes rfl beq_iff_eq, branch_goes rfl bne_iff_ne⟩

/-- A call that writes its link and goes to a target. -/
theorem setS_callTo_effect (s : State) (d : SReg) (x : Word) (link isReg : Bool) (pc : Word) :
    let t := (s.setS d x).callTo link isReg pc
    WroteS s t d x ∧ t.me.pc = pc ∧ Keeps s t Ctx.noS := by
  obtain ⟨hpc, hkeeps, hregs⟩ := callTo_keeps (s.setS d x) link isReg pc Ctx.noS
  exact ⟨fun r => (hregs r).trans (setS_wrote s d x r), hpc, (setS_keeps s d x).trans hkeeps⟩

theorem exec_jlr (d a : SReg) (i : BitVec 11) (s : State) : exec (.jlr d a i) s = .next (if (s.getS a + imm11 i).getLsbD 0
    then s.trap (.of cMISALIGN (s.getS a + imm11 i)) else (s.setS d (s.me.pc + 4)).callTo (d != 0) true (s.getS a + imm11 i)) := rfl

/-- Settles O6: a link and a target (`setS_callTo_effect`); the base of `jlr` is read in the state before the write. -/
theorem jumpsAndLinks : Obligations.JumpsAndLinks := by
  unfold Obligations.JumpsAndLinks
  intro d a u i o s
  have htarget : BitVec.ofInt 64 ((s.getS a).toInt + i.toInt) = s.getS a + imm11 i := ofInt_add_signed _ i (by decide)
  rw [htarget]
  refine ⟨⟨_, rfl, ?_⟩, ⟨_, rfl, ?_⟩, fun heven => ⟨_, (exec_jlr ..).trans (by rw [heven]; rfl), setS_callTo_effect ..⟩,
    fun hodd => (exec_jlr ..).trans (by rw [if_pos hodd])⟩
  · rw [← target_eq_ofInt]
    exact setS_callTo_effect ..
  · rw [← target_eq_ofInt]
    obtain ⟨hpc, hkeeps, -⟩ := callTo_keeps s false false (s.me.pc + (o.signExtend 64 <<< (1 : Nat))) id
    exact ⟨hpc, hkeeps⟩

end Sys2Proof.Machine
end

section
/-! SUPPORT. Scalar floating-point instructions (R133 to R136): one result in sd with its flags. -/

namespace Sys2Proof.Machine

/-- A result in sd, and its flags ORed into FLAGS. -/
def FlaggedResult (s t : State) (d : SReg) (v : Word) (fl : BitVec 6) : Prop :=
  WroteS s t d v ∧ t.me.img.flags = s.me.img.flags ||| fl ∧ Passed s t 4 ∧ Keeps s t (Ctx.noS ∘ Ctx.noFlags)

theorem flagged_result (s : State) (d : SReg) (v : Word) (fl : BitVec 6) : FlaggedResult s ((s.orFlags fl).result d v) d v fl := by
  obtain ⟨hwrote, hpassed, houtside, hslot, hmem⟩ := result_effect (s.orFlags fl) d v
  exact ⟨hwrote, congrArg (fun c => c.img.flags) hslot, hpassed, houtside, congrArg Ctx.noFlags hslot, hmem⟩

/-- An instruction that answers a result with flags has that as its whole effect. -/
theorem completes_flagged {i : Instr} {s : State} {d : SReg} {x v : Word} {f fl : BitVec 6} (hi : exec i s = .next ((s.orFlags f).result d x))
    (h : (x, f) = (v, fl)) : Completes i s fun t => FlaggedResult s t d v fl := by
  cases h
  exact ⟨_, hi, flagged_result ..⟩

/-- R52: decoding reads the low bits of its operand. -/
@[simp] theorem dec_mod (f : FF) (x : Nat) : f.dec (x % 2 ^ f.width) = f.dec x := by simp only [FF.dec, Nat.mod_mod]

@[simp] theorem classOf_mod (f : FF) (x : Nat) : f.classOf (x % 2 ^ f.width) = f.classOf x := by rw [FF.classOf, dec_mod]; rfl

/-- The signed reading of the low bits of a register (R136). -/
theorem sread_eq_toInt (x : Word) : sread 32 x.toNat = (x.setWidth 32).toInt := by
  rw [sread, BitVec.toInt_eq_toNat_cond, BitVec.toNat_setWidth]
  split <;> split <;> omega

/-- R136: the value of a source, as the statement reads it. -/
theorem cvtValue_eq (src : CvtTy) (x : Word) : cvtValue src x = match src with
    | .f64 => .inl (ff64.dec x.toNat) | .f32 => .inl (ff32.dec x.toNat) | .f16 => .inl (ff16.dec x.toNat) | .bf16 => .inl (ffbf.dec x.toNat)
    | .i64 => .inr x.toInt | .n64 => .inr x.toNat | .i32 => .inr (x.setWidth 32).toInt | .n32 => .inr ((x.setWidth 32).toNat : Int) := by
  cases src with
  | i32 => exact congrArg Sum.inr (sread_eq_toInt x)
  | n32 => exact congrArg Sum.inr (congrArg Int.ofNat (BitVec.toNat_setWidth ..).symm)
  | _ => rfl

theorem rndMode_eq (c : Ctx) (r : Rnd) : c.rndMode r = if r = .dyn then c.rmode.toNat else r.code := by cases r <;> rfl

/-- A conversion into a floating format is one rounding of the source's value. -/
theorem convertTo_float {dst : CvtTy} {g : FF} (h : (dst, g) ∈ [(CvtTy.f64, ff64), (.f32, ff32), (.f16, ff16), (.bf16, ffbf)]) (m : Mode) (v : Sum FV Int) :
    convertTo dst m v = (word (match v with | .inl v => g.ofV m v | .inr i => g.ofInt m i).1, (match v with | .inl v => g.ofV m v | .inr i => g.ofInt m i).2) := by
  simp only [List.mem_cons, Prod.mk.injEq, List.not_mem_nil, or_false] at h
  rcases h with ⟨rfl, rfl⟩ | ⟨rfl, rfl⟩ | ⟨rfl, rfl⟩ | ⟨rfl, rfl⟩ <;> rfl

/-- A conversion of a floating value into an integer saturates at the type's range. -/
theorem convertTo_int {dst : CvtTy} {lo hi : Int} (h : (dst, lo, hi) ∈ [(CvtTy.i64, -(2 ^ 63 : Int), (2 ^ 63 : Int) - 1), (.n64, 0, 2 ^ 64 - 1),
      (.i32, -(2 ^ 31 : Int), 2 ^ 31 - 1), (.n32, 0, 2 ^ 32 - 1)]) (m : Mode) (v : FV) :
    convertTo dst m (.inl v) = (BitVec.ofInt 64 (toInt m lo hi v).1, (toInt m lo hi v).2) := by
  simp only [List.mem_cons, Prod.mk.injEq, List.not_mem_nil, or_false] at h
  rcases h with ⟨rfl, rfl, rfl⟩ | ⟨rfl, rfl, rfl⟩ | ⟨rfl, rfl, rfl⟩ | ⟨rfl, rfl, rfl⟩ <;> rfl

theorem completes_fcvt {s : State} {d a : SReg} {dst src : CvtTy} {r : Rnd} {v : Word} {fl : BitVec 6}
    (h : convertTo dst (s.me.rndMode r) (cvtValue src (s.getS a)) = (v, fl)) : Completes (.fcvt d a dst src r) s fun t => FlaggedResult s t d v fl :=
  completes_flagged rfl h

/-- Settles O34: each instruction is a result with flags (`flagged_result`) of the operation on the decoded operands. -/
theorem scalarFloatResults : Obligations.ScalarFloatResults := by
  unfold Obligations.ScalarFloatResults
  intro d a b t src dst r s
  refine ⟨completes_flagged rfl ?_, completes_flagged rfl ?_, completes_flagged rfl ?_, completes_flagged rfl ?_, completes_flagged rfl rfl,
    completes_flagged rfl rfl, completes_flagged rfl ?_, completes_flagged rfl ?_, completes_flagged rfl ?_, completes_flagged rfl ?_,
    completes_flagged rfl ?_, completes_flagged rfl ?_, completes_result rfl ?_, fun g hg => completes_fcvt ?_, fun v hv lo hi h => completes_fcvt ?_⟩
  · simp only [FF.add, dec_mod]; rfl
  · simp only [FF.sub, dec_mod]; rfl
  · simp only [FF.mul, dec_mod]; rfl
  · simp only [FF.div, dec_mod]; rfl
  · simp only [FF.sqrt, dec_mod]; rfl
  · simp only [FF.fma, dec_mod]; rfl
  · simp only [FF.fms, dec_mod]; rfl
  · simp only [dec_mod]; rfl
  · simp only [dec_mod]; rfl
  · simp only [dec_mod]; rfl
  · simp only [classOf_mod]
  · exact (congrArg₂ (convertTo dst) (rndMode_eq ..) (cvtValue_eq ..)).trans (convertTo_float hg _ _)
  · exact (congrArg₂ (convertTo dst) (rndMode_eq ..) ((cvtValue_eq ..).trans hv)).trans (convertTo_int h _ _)

end Sys2Proof.Machine
end

section
/-! SUPPORT. A write of a slot into its save area leaves its program in place (R326): the program counter, s and ox registers and strand of the slot
whose turn it is, and every region. Such a write squashes chunks, drops lines and reservations, sends packets and counts what is not settled. -/

namespace Sys2Proof.Machine

/-- The program of the slot whose turn it is, and the regions. -/
def Ctx.program (c : Ctx) : Word × Vector Word 32 × Vector Ox 8 × Word := (c.pc, c.s, c.ox, c.strand)
def State.program (s : State) : (Word × Vector Word 32 × Vector Ox 8 × Word) × List Region := (s.me.program, s.regions)

theorem program_of_ite {p : Prop} [Decidable p] {a b s : State} (ha : a.program = s.program) (hb : b.program = s.program) :
    (if p then a else b).program = s.program := by split <;> assumption

theorem foldl_program {α : Type} {f : State → α → State} (h : ∀ t x, (f t x).program = t.program) (l : List α) (s : State) :
    (l.foldl f s).program = s.program := foldl_keeps State.program f h l s

variable (s : State)

theorem count_program (d : DieId) (kind inst ix n : Nat) : (s.count d kind inst ix n).program = s.program := program_of_ite rfl rfl

theorem mapDie_program (d : DieId) (f : Die → Die) : (s.mapDie d f).program = s.program := rfl

theorem mapCtx_program {f : Ctx → Ctx} (h : ∀ c, (f c).program = c.program) (d : DieId) (k : SlotNo) : (s.mapCtx d k f).program = s.program :=
  program_of_ite (congrArg (fun q => (q, s.regions)) (h s.me)) rfl

/-! ### Squashes -/

theorem squashSlot_program (c : Ctx) (origin : Nat) (cause : SquashCause) (here : Bool) : (s.squashSlot c origin cause here).program = s.program := by
  unfold State.squashSlot
  split
  · rfl
  · exact (mapCtx_program _ (by intro _; rfl) _ _).trans ((count_program (State.count _ _ _ _ _ _) ..).trans (count_program ..))

theorem outrank_program (c : Ctx) (k : Chunk) (origin : Nat) (cause : SquashCause) (here : Bool) : (s.outrank c k origin cause here).program = s.program := by
  have hevent (p : Prop) [Decidable p] (t : State) (h : t.program = s.program) : (if p then t.squashEvent c cause else t).program = s.program :=
    program_of_ite ((count_program ..).trans h) h
  unfold State.outrank
  split
  · rfl
  · exact program_of_ite ((mapCtx_program _ (by intro _; rfl) _ _).trans (hevent _ _ (program_of_ite rfl rfl))) rfl

theorem squash_program (c : Ctx) (cause : SquashCause) : (s.squash c cause).program = s.program := by
  unfold State.squash
  split
  · rfl
  next k _ =>
    have hslot : ((s.squashEvent c cause).squashSlot c k.j cause true).program = s.program := (squashSlot_program ..).trans (count_program ..)
    have hsend (t : State) (h : t.program = s.program) : (if t.ringed c.strand then t.send (c.rill k.j (.squash cause)) else t).program = s.program :=
      program_of_ite h h
    refine program_of_ite rfl (program_of_ite (outrank_program ..) (hsend _ (program_of_ite ?_ hslot)))
    exact (mapCtx_program _ (by intro _; rfl) _ _).trans ((count_program ..).trans hslot)

theorem invalidate_program (on : Ctx → Bool) (loc n : Nat) (but : Option Word) : (s.invalidate on loc n but).program = s.program := by
  refine (foldl_program (fun t c => squash_program t c .memory) _ _).trans (program_of_ite ?_ rfl)
  simp only [State.program]
  split <;> rfl

theorem invalidateTile_program (loc n : Nat) (but : Option Word) : (s.invalidateTile loc n but).program = s.program :=
  (foldl_program (fun _ _ => program_of_ite ((invalidate_program ..).trans (mapDie_program ..)) rfl) _ _).trans (invalidate_program ..)

theorem squashReaders_program (loc n : Nat) (own : List Word) (but : Option Word) : (s.squashReaders loc n own but).program = s.program := by
  have hread : (if isTile loc then s.invalidateTile loc n but
      else (allDies.filter fun d => !((s.die d).replicas.any fun l => [lineOf loc, lineOf (loc + n - 1)].contains l.line)).foldl
        (fun s d => s.invalidateER d loc n but) s).program = s.program :=
    program_of_ite (invalidateTile_program ..) (foldl_program (fun t d => invalidate_program ..) _ _)
  unfold State.squashReaders
  dsimp only
  generalize (if isTile loc then s.invalidateTile loc n but else _) = r at hread ⊢
  rw [← hread]
  refine program_of_ite rfl ?_
  simp only [State.program]
  split <;> rfl

/-! ### The slices -/

theorem dropResv_program (rs : List Resv) : (s.dropResv rs).program = s.program := by
  refine foldl_program (fun t r => ?_) _ _
  dsimp only
  split <;> rfl

theorem evict_program (d : DieId) (l : SharedLine) : (s.evict d l).program = s.program :=
  program_of_ite ((invalidate_program ..).trans (program_of_ite rfl rfl)) (program_of_ite (invalidate_program ..) (invalidate_program ..))

theorem touch_program (d : DieId) (line : Nat) (dirty : BitVec 8) (core : Option Nat) : (s.touch d line dirty core).program = s.program := by
  have hevict (ws : List SharedLine) :
      (if ws.length < Config.sliceWays then s else match victim ws with | some v => s.evict d v | none => s).program = s.program := by
    refine program_of_ite rfl ?_
    split
    · exact evict_program ..
    · rfl
  exact program_of_ite rfl (program_of_ite (hevict _) (hevict _))

theorem dirtied_program (loc n : Nat) : (s.dirtied loc n).program = s.program :=
  program_of_ite rfl (foldl_program (fun _ _ => touch_program ..) _ _)

/-! ### A write performed at home, or pending -/

theorem writeBytes_program (loc : Nat) (bs : List Byte) (who : Requester) (but : Option Word) : (s.writeBytes loc bs who but).program = s.program :=
  (dirtied_program ..).trans ((squashReaders_program ..).trans (dropResv_program ..))

theorem collapseLine_program (line : Nat) (who : Requester) : (s.collapseLine line who).1.program = s.program := by
  refine (foldl_program (f := fun (t : State) (d : DieId) =>
    { t with net := mapFirst (fun p => p.collapsing line d) (fun p => p.join who.each) t.net }) (fun _ _ => rfl) _ _).trans ?_
  exact program_of_ite rfl (count_program ..)

theorem performWrite_program (loc : Nat) (bs : List Byte) (who : Requester) (but : Option Word) : (s.performWrite loc bs who but).1.program = s.program := by
  have hwrite := writeBytes_program s loc bs who but
  unfold State.performWrite
  dsimp only
  split
  · exact hwrite
  · split
    · exact (collapseLine_program ..).trans hwrite
    · exact (collapseLine_program ..).trans ((collapseLine_program ..).trans hwrite)

theorem markAD_program (d : DieId) (p : Place) (write : Bool) : (s.markAD d p write).program = s.program := by
  unfold State.markAD
  split
  · rfl
  · exact program_of_ite (program_of_ite rfl (performWrite_program ..)) rfl

theorem pendStore_program (d : DieId) (loc : Nat) (x : Datum) (dev : Bool) (who : Requester) (but : Option Word) :
    (s.pendStore d loc x dev who but).program = s.program := by
  have hmerge (f : Die → Die) : (s.take.2.mapDie d f).program = s.program := mapDie_program ..
  have hsend (p q : Prop) [Decidable p] [Decidable q] (t : State) (h : t.program = s.program) (x : Packet) :
      (if q then (if p then t.invalidateER d (lineOf loc) 256 but else t) else (if p then t.invalidateER d (lineOf loc) 256 but else t).send x).program
        = s.program := program_of_ite (program_of_ite ((invalidate_program ..).trans h) h) (program_of_ite ((invalidate_program ..).trans h) h)
  unfold State.pendStore
  dsimp only
  split
  · exact (mapCtx_program _ (by intro _; rfl) _ _).trans (hsend _ _ _ (hmerge _) _)
  · exact hsend _ _ _ (hmerge _) _

theorem enterStore_program (d : DieId) (loc : Nat) (bs : List Byte) (who : Requester) (but : Option Word) (dev : Bool) :
    (s.enterStore d loc bs who but dev).program = s.program := by
  refine program_of_ite ?_ ((foldl_program (fun _ _ => pendStore_program ..) _ _).trans (invalidate_program ..))
  have hwrite := performWrite_program s loc bs who but
  unfold State.writeHome State.creditPerf
  dsimp only
  split
  · exact (mapCtx_program _ (by intro _; rfl) _ _).trans hwrite
  · exact hwrite

/-! ### The fork image (R326) -/

theorem savePlace_program (c : Ctx) (va : Nat) : (s.savePlace c va).1.program = s.program := by
  unfold State.savePlace
  dsimp only
  split <;> rfl

theorem enterImage_program (c : Ctx) (l : List (Nat × List Byte)) : (s.enterImage c l).1.program = s.program := by
  induction l generalizing s with
  | nil => rfl
  | cons p ps ih =>
    have hplace := savePlace_program s c p.1
    unfold State.enterImage
    split
    next u hu => rwa [hu] at hplace
    next u q hu =>
      rw [hu] at hplace
      split
      · exact (ih _).trans ((count_program ..).trans ((enterStore_program ..).trans ((markAD_program ..).trans hplace)))
      · exact hplace

/-- The image of a region goes on entering: of the region only what is still to be written changes. -/
theorem imageStep_program {r : Region} {rest : List Region} (hregions : s.regions = r :: rest) (hstrand : r.strand = s.me.strand) :
    s.imageStep.me.program = s.me.program ∧ ∃ l rest', s.imageStep.regions = { r with todo := l } :: rest' := by
  unfold State.imageStep
  split
  next => exact ⟨rfl, r.todo, rest, hregions⟩
  next q hq =>
    have hprogram := enterImage_program s s.me q.todo
    have hq' : q.strand = s.me.strand := by simpa using (Bool.and_eq_true_iff.1 (List.find?_some (p := fun r : Region => r.strand == s.me.strand && !r.todo.isEmpty) hq)).1
    have hhead : (r.strand == q.strand) = true := by rw [hstrand, hq', beq_self_eq_true]
    refine ⟨congrArg Prod.fst hprogram, (s.enterImage s.me q.todo).2,
      mapIf (fun r => r.strand == q.strand) (fun r => { r with todo := (s.enterImage s.me q.todo).2 }) rest, ?_⟩
    have hkept : (s.enterImage s.me q.todo).1.regions = s.regions := congrArg Prod.snd hprogram
    rw [mapRegion_regions, hkept, hregions, mapIf, List.map_cons, if_pos hhead]
    rfl

theorem imageStep_of_written (h : ∀ r ∈ s.regions, r.strand = s.me.strand → r.todo = []) : s.imageStep = s := by
  have hnone : (s.regions.find? fun r => r.strand == s.me.strand && !r.todo.isEmpty) = none := by
    rw [List.find?_eq_none]
    intro r hr
    by_cases hstrand : r.strand = s.me.strand
    · simp [h r hr hstrand]
    · simp [hstrand]
  rw [State.imageStep, hnone]

end Sys2Proof.Machine
end

section
/-! SUPPORT. Forked regions at the instruction level (R141 to R147): what a transfer, a loop and a call leave of a chunk, and the region that `fork`
begins. -/

namespace Sys2Proof.Machine

/-! ### Transfers in a region (R142) -/

/-- A chunk after a transfer: final and ended where that leaves the body at depth 0 outside the handler of a trap. -/
def Chunk.transferred (k : Chunk) (r : Region) (pc : Word) (depth : BitVec 16) : Chunk :=
  if k.traps = 0 ∧ depth = 0 ∧ ¬ (r.head.toNat ≤ pc.toNat ∧ pc.toNat < r.exit.toNat) then { k with depth, final := true, ended := true } else { k with depth }

theorem transferred_of_left {k : Chunk} {r : Region} {pc : Word} {depth : BitVec 16} (ht : k.traps = 0) (hd : depth = 0)
    (hout : ¬ (r.head.toNat ≤ pc.toNat ∧ pc.toNat < r.exit.toNat)) : k.transferred r pc depth = { k with depth, final := true, ended := true } :=
  if_pos ⟨ht, hd, hout⟩

theorem transferred_of_within {k : Chunk} {r : Region} {pc : Word} (hin : r.head.toNat ≤ pc.toNat ∧ pc.toNat < r.exit.toNat) :
    k.transferred r pc k.depth = k := if_neg fun h => h.2.2 hin

theorem transferred_of_depth {k : Chunk} {r : Region} {pc : Word} {depth : BitVec 16} (hd : depth ≠ 0) :
    k.transferred r pc depth = { k with depth } := if_neg fun h => hd h.2.1

section inRegion
variable {s : State} {k : Chunk} {r : Region} (hc : s.me.chunk = some k) (hr : s.me.regionOf s = some r)
include hc hr

theorem transfer_inRegion (pc : Word) (depth : BitVec 16) :
    s.transfer pc depth = s.mapMe fun c => { c with pc, chunk := some (k.transferred r pc depth) } := by
  unfold State.transfer Chunk.transferred State.mapMe
  simp only [hc, hr]
  split <;> rfl

theorem transfer_chunk (pc : Word) (depth : BitVec 16) : (s.transfer pc depth).me.chunk = some (k.transferred r pc depth) := by
  rw [transfer_inRegion hc hr]; rfl

theorem jump_chunk (pc : Word) (depth : BitVec 16) : (s.jump pc depth).me.chunk = some (k.transferred r pc depth) :=
  transfer_chunk (s := s.mapMe fun c => { c with nowatch := false, granted := false, stepDue := c.step && c.level == .strand }) hc hr pc depth

theorem advance_chunk (n : Nat) : (s.advance n).me.chunk = some (k.transferred r (s.me.pc + word n) k.depth) := by
  have hdepth : s.me.depth = k.depth := by rw [Ctx.depth, hc]
  rw [← hdepth]
  exact transfer_chunk (s := s.mapMe fun c => { c with wait := none, sent := none, answer := none, lines := [], wend := none, nowatch := false, granted := false, stood := none, stepDue := c.step && c.level == .strand }) hc hr _ _

theorem advance_regionOf (n : Nat) : (s.advance n).me.regionOf (s.advance n) = some r := by
  have hkept := (advance_keeps s n id).2
  have hstrand : (s.advance n).me.strand = s.me.strand := (congrArg Ctx.strand hkept.slot :)
  have hregions : (s.advance n).regions = s.regions := (congrArg State.regions hkept.outside :)
  rw [Ctx.regionOf, advance_chunk hc hr, hstrand, hregions, ← hr, Ctx.regionOf, hc]
  rfl

end inRegion

/-! ### Loops and exits (R144, R146) -/

theorem iterate_keeps (s : State) : Keeps s s.iterate Ctx.noChunk := keeps_mapMe _ _ _ rfl

theorem endChunk_keeps (s : State) (final : Bool) (e : Ctx → Ctx) : Keeps s (s.endChunk final) e :=
  keeps_mapMe _ _ _ (by simp only [Ctx.still, Option.map_map]; rfl)

theorem iterate_chunk {s : State} {k : Chunk} (hc : s.me.chunk = some k) : s.iterate.me.chunk = some { k with iter := k.iter + 1 } :=
  congrArg (Option.map _) hc

theorem iterate_regionOf (s : State) : s.iterate.me.regionOf s.iterate = s.me.regionOf s := by
  have hsome : s.iterate.me.chunk.isSome = s.me.chunk.isSome := Option.isSome_map ..
  rw [Ctx.regionOf, hsome]; rfl

theorem endChunk_chunk {s : State} {k : Chunk} (final : Bool) (hc : s.me.chunk = some k) :
    (s.endChunk final).me.chunk = some { k with ended := true, final := k.final || final } := congrArg (Option.map _) hc

/-- `floop` that is no loop of its chunk is a branch. -/
theorem exec_floop_branch {a b : SReg} {o : BitVec 11} {s : State}
    (h : ∀ k r, s.me.chunk = some k → s.me.regionOf s = some r → s.me.pc + (imm11 o <<< (1 : Nat)) ≠ r.head ∨ k.depth ≠ 0 ∨ k.traps ≠ 0) :
    exec (.floop a b o) s = s.branch (decide ((s.getS a).toInt < (s.getS b).toInt)) (imm11 o) 4 := by
  change execFloop a b o s = _
  unfold execFloop
  dsimp only
  split
  next k r hk hr =>
    refine if_pos ?_
    rcases h k r hk hr with htarget | hdepth | htraps
    · exact .inr (.inl htarget)
    · exact .inr (.inr hdepth)
    · exact .inl (by simp [Ctx.inHandler, hk, htraps])
  next => rfl

/-- `floop` at the head of its chunk's body counts an iteration, and then goes on, loops, or loops and ends the chunk. -/
theorem exec_floop_loop {a b : SReg} {o : BitVec 11} {s : State} {k : Chunk} {r : Region} (hc : s.me.chunk = some k) (hr : s.me.regionOf s = some r)
    (ht : k.traps = 0) (htarget : s.me.pc + (imm11 o <<< (1 : Nat)) = r.head) (hd : k.depth = 0) : exec (.floop a b o) s = .next
      (if ¬ (s.getS a).toInt < (s.getS b).toInt then s.iterate.done4
       else if r.c = 0 ∨ k.iter + 1 < r.c then s.iterate.jump r.head k.depth else (s.iterate.jump r.head k.depth).endChunk false) := by
  change execFloop a b o s = _
  have hhandler : s.me.inHandler = false := by simp [Ctx.inHandler, hc, ht]
  unfold execFloop
  simp only [hc, hr, hhandler, htarget, hd]
  by_cases hless : (s.getS a).toInt < (s.getS b).toInt
  · by_cases hmore : r.c = 0 ∨ k.iter + 1 < r.c <;> simp [hless, hmore]
  · simp [hless]

/-- The target of a branch in `imm11` (R89). -/
theorem target_imm11 (pc : Word) (o : BitVec 11) : pc + (imm11 o <<< (1 : Nat)) = BitVec.ofInt 64 (pc.toInt + 2 * o.toInt) := target_eq_ofInt pc o

/-! ### Calls and returns (R142) -/

theorem setS_regionOf (s : State) (d : SReg) (x : Word) : (s.setS d x).me.regionOf (s.setS d x) = s.me.regionOf s := by
  rw [setS_me, Ctx.setS]
  split
  · rfl
  · simp only [Ctx.regionOf, Option.isSome_map]; rfl

theorem setS_chunk {s : State} {d : SReg} {k : Chunk} (hc : s.me.chunk = some k) (hd : d ≠ 0) (x : Word) :
    (s.setS d x).me.chunk = some { k with wrote := k.wrote ||| bit32 d } := by rw [setS_me, Ctx.setS, if_neg hd, hc]; rfl

section calls
variable {s : State} {k : Chunk} (hc : s.me.chunk = some k) (ht : k.traps = 0)
include hc ht

/-- A call or a return in a chunk outside the handler of a trap. -/
theorem callTo_inRegion (link isReg : Bool) (pc : Word) : s.callTo link isReg pc =
    if link then
      if k.depth.toNat = 65535 then (s.jump pc k.depth).mapMe fun c => { c with chunk := c.chunk.map fun k => { k with final := true, ended := true } }
      else s.jump pc (k.depth + 1)
    else if isReg ∧ k.depth ≠ 0 then s.jump pc (k.depth - 1) else s.jump pc k.depth := by
  have hhandler : s.me.inHandler = false := by simp [Ctx.inHandler, hc, ht]
  have hdepth : s.me.depth = k.depth := by rw [Ctx.depth, hc]
  unfold State.callTo
  simp only [hc, hhandler, hdepth, Option.isNone_some, Bool.or_self, Bool.false_eq_true, if_false]

variable {r : Region} (hr : s.me.regionOf s = some r)
include hr

theorem callTo_link_chunk (hd : k.depth.toNat < 65535) (isReg : Bool) (pc : Word) :
    (s.callTo true isReg pc).me.chunk = some { k with depth := k.depth + 1 } := by
  have hne : k.depth + 1 ≠ 0 := fun h => by
    have hlast : k.depth.toNat = 65535 := by bv_omega
    omega
  rw [callTo_inRegion hc ht, if_pos rfl, if_neg (by omega), jump_chunk hc hr, transferred_of_depth hne]

theorem callTo_overflow_chunk (hd : k.depth.toNat = 65535) (isReg : Bool) (pc : Word) :
    ∃ q, (s.callTo true isReg pc).me.chunk = some q ∧ q.final = true ∧ q.ended = true := by
  rw [callTo_inRegion hc ht, if_pos rfl, if_pos hd]
  exact ⟨_, congrArg (Option.map _) (jump_chunk hc hr pc k.depth), rfl, rfl⟩

theorem callTo_return_chunk (hd : k.depth ≠ 0) (pc : Word) : (s.callTo false true pc).me.chunk = some (k.transferred r pc (k.depth - 1)) := by
  rw [callTo_inRegion hc ht, if_neg (by decide), if_pos ⟨rfl, hd⟩, jump_chunk hc hr]

end calls

/-! ### `fork` (R141) -/

theorem alone_of_Alone {s : State} (h : s.Alone) : s.alone = true := by
  simpa [State.alone] using h.2

theorem exec_fork {a : SReg} {o : BitVec 11} {s : State} (ho : 3 ≤ o.toInt) (halone : s.Alone) (hmma : s.me.mmaAcc = none) :
    exec (.fork a o) s = .next (s.enterRegion (s.me.newRegion (s.getS a).toNat (imm11 o))) := by
  change execFork a o s = _
  have hretire : (s.mapMe fun c => c.retireMma) = s := by simp only [State.mapMe, Ctx.retireMma, hmma]
  simp [execFork, show ¬ o.toInt < 3 by omega, halone.1, alone_of_Alone halone, hretire]

/-- The chunk that `fork` starts in its own slot. -/
def firstChunk : Chunk := { Chunk.start 0 true with fin := BitVec.allOnes 32 }

/-- The state in which a region and its claim stand, before its image is written. -/
def State.regionClaimed (s : State) (r : Region) : State :=
  ({ s with regions := r :: s.regions.filter fun x => x.strand != s.me.strand } : State).mapDie s.me.die
    (fun d => { d with preds := bindPred d.preds (ringOf s.me.slot) s.me.strand s.me.s true }) |>.claim { r with todo := s.me.imageTodo r }

theorem enterRegion_eq (s : State) (r : Region) : s.enterRegion r
    = ((s.regionClaimed r).imageStep.mapMe fun c => { c with img := r.image, chunk := some firstChunk }).done4 := rfl

theorem claim_effect (s : State) (r : Region) : (s.claim r).me = s.me ∧ (s.claim r).mem = s.mem ∧ (s.claim r).others = s.others
    ∧ ∃ b, (s.claim r).regions = mapIf (fun x => x.strand == r.strand) (fun _ => { r with slots := [s.me.slot], claimed := b }) s.regions := by
  unfold State.claim
  dsimp only
  split
  · exact ⟨rfl, rfl, rfl, _, rfl⟩
  · exact ⟨rfl, rfl, rfl, _, rfl⟩

/-- The claim leaves the slot, the other slots and memory alone, and the region stands first, alone of its strand. -/
theorem regionClaimed_effect (s : State) {r : Region} (hstrand : r.strand = s.me.strand) (hslots : r.slots = [s.me.slot]) :
    (s.regionClaimed r).me = s.me ∧ (s.regionClaimed r).mem = s.mem ∧ (s.regionClaimed r).others = s.others
      ∧ ∃ b, (s.regionClaimed r).regions = { r with todo := s.me.imageTodo r, claimed := b } :: s.regions.filter fun x => x.strand != s.me.strand := by
  have hrest (f : Region → Region) : mapIf (fun x => x.strand == r.strand) f (r :: s.regions.filter fun x => x.strand != s.me.strand)
      = f r :: s.regions.filter fun x => x.strand != s.me.strand := by
    rw [mapIf, List.map_cons, if_pos (beq_self_eq_true _)]
    refine congrArg _ ((List.map_congr_left fun x hx => if_neg ?_).trans (List.map_id' _))
    simpa [hstrand] using (List.mem_filter.1 hx).2
  obtain ⟨hme, hmem, hothers, b, hregions⟩ := claim_effect (({ s with regions := r :: s.regions.filter fun x => x.strand != s.me.strand } : State).mapDie
    s.me.die fun d => { d with preds := bindPred d.preds (ringOf s.me.slot) s.me.strand s.me.s true }) { r with todo := s.me.imageTodo r }
  exact ⟨hme, hmem, hothers, b, hregions.trans ((hrest _).trans
    (congrArg (fun l => { r with todo := s.me.imageTodo r, slots := l, claimed := b } :: _) hslots.symm))⟩

/-- The region that `fork` enters: its own chunk stands at the head, and the region is as it was formed, but for what is still to be written of its
image and for its claim. -/
theorem enterRegion_effect (s : State) {r : Region} (hstrand : r.strand = s.me.strand) (hslots : r.slots = [s.me.slot]) (hhead : r.head = s.me.pc + 4)
    (hbody : r.head.toNat < r.exit.toNat) :
    let t := s.enterRegion r
    Passed s t 4 ∧ t.me.s = s.me.s ∧ t.me.ox = s.me.ox ∧ t.me.img = r.image ∧ t.me.chunk = some firstChunk
      ∧ ∃ l b, t.me.regionOf t = some { r with todo := l, claimed := b } := by
  intro t
  obtain ⟨hme, -, -, b, hregions⟩ := regionClaimed_effect s hstrand hslots
  obtain ⟨hprogram, l, rest, hregions'⟩ := imageStep_program _ hregions (by rw [hme]; exact hstrand)
  rw [hme] at hprogram
  obtain ⟨hpc, hs, hox, hst⟩ : (s.regionClaimed r).imageStep.me.pc = s.me.pc ∧ (s.regionClaimed r).imageStep.me.s = s.me.s
      ∧ (s.regionClaimed r).imageStep.me.ox = s.me.ox ∧ (s.regionClaimed r).imageStep.me.strand = s.me.strand := by
    simpa [Ctx.program] using hprogram
  generalize hu : ((s.regionClaimed r).imageStep.mapMe fun c => { c with img := r.image, chunk := some firstChunk }) = u
  have hchunk : u.me.chunk = some firstChunk := by rw [← hu]; rfl
  have hregion : u.me.regionOf u = some { r with todo := l, claimed := b } := by
    rw [← hu]
    change (s.regionClaimed r).imageStep.regions.find? (fun x => x.strand == (s.regionClaimed r).imageStep.me.strand) = _
    rw [hregions', List.find?_cons_of_pos]
    simp [hstrand, hst]
  have hupc : u.me.pc + word 4 = r.head := by rw [← hu, hhead]; exact congrArg (· + 4) hpc
  have ht : t = u.advance 4 := by rw [← hu]; exact enterRegion_eq s r
  obtain ⟨hpassed, hadvance⟩ := advance_keeps u 4 id
  have hstart : firstChunk.transferred { r with todo := l, claimed := b } (u.me.pc + word 4) 0 = firstChunk := by
    rw [hupc]
    exact transferred_of_within ⟨le_rfl, hbody⟩
  rw [ht]
  refine ⟨hpassed.trans ?_, ?_, ?_, ?_, (advance_chunk hchunk hregion 4).trans (congrArg some hstart), l, b, advance_regionOf hchunk hregion 4⟩
  · rw [← hu]; exact congrArg (· + 4) hpc
  · exact (congrArg Ctx.s hadvance.slot :).trans (by rw [← hu]; exact hs)
  · exact (congrArg Ctx.ox hadvance.slot :).trans (by rw [← hu]; exact hox)
  · exact (congrArg Ctx.img hadvance.slot :).trans (by rw [← hu]; rfl)

/-- Where no save area stands at PRIVBASE, the region writes no image. -/
theorem enterRegion_untouched (s : State) {r : Region} (hstrand : r.strand = s.me.strand) (hslots : r.slots = [s.me.slot])
    (hfits : saveFits s.me.ctl.privbase = false) : (s.enterRegion r).mem = s.mem ∧ (s.enterRegion r).others = s.others := by
  obtain ⟨hme, hmem, hothers, b, hregions⟩ := regionClaimed_effect s hstrand hslots
  have hwritten : (s.regionClaimed r).imageStep = s.regionClaimed r := by
    refine imageStep_of_written _ fun x hx hxs => ?_
    rw [hme] at hxs
    rw [hregions, List.mem_cons] at hx
    rcases hx with rfl | hx
    · exact if_neg (by simp [hfits])
    · simp [hxs] at hx
  have hadvance := (advance_keeps ((s.regionClaimed r).mapMe fun c => { c with img := r.image, chunk := some firstChunk }) 4 id).2.outside
  rw [enterRegion_eq, hwritten]
  exact ⟨(congrArg State.mem hadvance :).trans hmem, (congrArg State.others hadvance :).trans hothers⟩

/-! ### The clauses of O31 -/

section clauses
variable {s : State} {k : Chunk} {r : Region}

theorem fork_begins {a : SReg} {o : BitVec 11} (ho : 3 ≤ o.toInt) (hroom : s.me.pc.toNat + 2048 < 2 ^ 64) :
    let t := s.enterRegion (s.me.newRegion (s.getS a).toNat (imm11 o))
    let n := (s.getS a).toNat
    Passed s t 4 ∧ t.me.s = s.me.s ∧ t.me.ox = s.me.ox ∧ t.me.img = s.me.img.trim ∧ t.me.chunk = some firstChunk
      ∧ ∃ q, t.me.regionOf t = some q ∧ q.head = s.me.pc + 4 ∧ q.exit = BitVec.ofInt 64 (s.me.pc.toInt + 2 * o.toInt)
        ∧ q.c = (if 2 ^ 16 ≤ n then 0 else n) ∧ q.image = s.me.img.trim ∧ q.slots = [s.me.slot] ∧ q.flags = s.me.img.flags := by
  have hbody : (s.me.pc + 4).toNat < (s.me.pc + (imm11 o <<< (1 : Nat))).toNat := by
    have hmsb : o.msb = false := by rw [BitVec.msb_eq_toInt]; simpa using by omega
    have hoff : (imm11 o).toNat = o.toNat := by
      rw [imm11, BitVec.signExtend_eq_setWidth_of_msb_false hmsb, BitVec.toNat_setWidth_of_le (by decide)]
    have hnat : o.toInt = o.toNat := BitVec.toInt_eq_toNat_of_msb hmsb
    have hsmall : 2 * o.toNat < 2 ^ 11 := BitVec.msb_eq_false_iff_two_mul_lt.1 hmsb
    bv_omega
  obtain ⟨hpassed, hs, hox, himg, hchunk, l, b, hregion⟩ :=
    enterRegion_effect s (r := s.me.newRegion (s.getS a).toNat (imm11 o)) rfl rfl rfl hbody
  exact ⟨hpassed, hs, hox, himg, hchunk, _, hregion, rfl, target_imm11 _ o, rfl, rfl, rfl, rfl⟩

theorem floop_loops {a b : SReg} {o : BitVec 11} (hc : s.me.chunk = some k) (hr : s.me.regionOf s = some r) (ht : k.traps = 0)
    (htarget : BitVec.ofInt 64 (s.me.pc.toInt + 2 * o.toInt) = r.head) (hd : k.depth = 0) (hbody : r.head.toNat < r.exit.toNat) :
    let next := { k with iter := k.iter + 1 }
    let less := (s.getS a).toInt < (s.getS b).toInt
    let out := ¬ (r.head.toNat ≤ (s.me.pc + 4).toNat ∧ (s.me.pc + 4).toNat < r.exit.toNat)
    (less → r.c = 0 ∨ k.iter + 1 < r.c → Completes (.floop a b o) s fun t => t.me.pc = r.head ∧ t.me.chunk = some next ∧ Keeps s t Ctx.noChunk)
    ∧ (less → r.c ≠ 0 → k.iter + 1 = r.c → Completes (.floop a b o) s fun t =>
      t.me.pc = r.head ∧ t.me.chunk = some { next with ended := true } ∧ Keeps s t Ctx.noChunk)
    ∧ (¬ less → out → Completes (.floop a b o) s fun t =>
      Passed s t 4 ∧ t.me.chunk = some { next with final := true, ended := true } ∧ Keeps s t Ctx.noChunk)
    ∧ (¬ less → ¬ out → Completes (.floop a b o) s fun t => Passed s t 4 ∧ t.me.chunk = some next ∧ Keeps s t Ctx.noChunk) := by
  intro next less out
  have hchunk : s.iterate.me.chunk = some next := iterate_chunk hc
  have hregion : s.iterate.me.regionOf s.iterate = some r := (iterate_regionOf s).trans hr
  have hexec := exec_floop_loop (a := a) (b := b) (o := o) hc hr ht ((target_imm11 _ o).trans htarget) hd
  obtain ⟨hpc, hjump⟩ := jump_keeps s.iterate r.head k.depth Ctx.noChunk
  obtain ⟨hpassed, hadvance⟩ := advance_keeps s.iterate 4 Ctx.noChunk
  have hhead : (s.iterate.jump r.head k.depth).me.chunk = some next :=
    (jump_chunk hchunk hregion r.head k.depth).trans (congrArg some (transferred_of_within (k := next) ⟨le_rfl, hbody⟩))
  refine ⟨fun hless hmore => ⟨_, hexec.trans (by rw [if_neg (not_not.2 hless), if_pos hmore]), hpc, hhead, (iterate_keeps s).trans hjump⟩,
    fun hless hc0 hlast => ⟨(s.iterate.jump r.head k.depth).endChunk false, hexec.trans (by rw [if_neg (not_not.2 hless), if_neg (by omega)]), hpc, ?_, ?_⟩,
    fun hless hout => ⟨s.iterate.done4, hexec.trans (by rw [if_pos hless]), hpassed, ?_, (iterate_keeps s).trans hadvance⟩,
    fun hless hin => ⟨s.iterate.done4, hexec.trans (by rw [if_pos hless]), hpassed, ?_, (iterate_keeps s).trans hadvance⟩⟩
  · rw [endChunk_chunk false hhead, Bool.or_false]
  · exact ((iterate_keeps s).trans hjump).trans (endChunk_keeps _ false _)
  · exact (advance_chunk hchunk hregion 4).trans (congrArg some (transferred_of_left (k := next) ht hd hout))
  · exact (advance_chunk hchunk hregion 4).trans (congrArg some (transferred_of_within (k := next) (not_not.1 hin)))

/-- `fexit` jumps and ends its chunk, final. -/
theorem fexit_ends (s : State) (o : BitVec 11) : Completes (.fexit o) s fun t => t.me.pc = BitVec.ofInt 64 (s.me.pc.toInt + 2 * o.toInt) ∧ Keeps s t id
    ∧ t.me.chunk = (s.jump (s.me.pc + (imm11 o <<< (1 : Nat))) s.me.depth).me.chunk.map fun k => { k with ended := true, final := k.final || true } := by
  obtain ⟨hpc, hjump⟩ := jump_keeps s (s.me.pc + (imm11 o <<< (1 : Nat))) s.me.depth id
  exact ⟨_, rfl, hpc.trans (target_imm11 _ o), hjump.trans (endChunk_keeps _ true _), rfl⟩

theorem blt_leaves {a b : SReg} {o : BitVec 11} (hc : s.me.chunk = some k) (hr : s.me.regionOf s = some r) (ht : k.traps = 0) (hd : k.depth = 0)
    (hless : (s.getS a).toInt < (s.getS b).toInt)
    (hout : ¬ (r.head.toNat ≤ (BitVec.ofInt 64 (s.me.pc.toInt + 2 * o.toInt)).toNat ∧ (BitVec.ofInt 64 (s.me.pc.toInt + 2 * o.toInt)).toNat < r.exit.toNat)) :
    Completes (.blt a b o) s fun t => t.me.pc = BitVec.ofInt 64 (s.me.pc.toInt + 2 * o.toInt)
      ∧ ∃ q, t.me.chunk = some q ∧ q.final = true ∧ q.ended = true := by
  have hdepth : s.me.depth = k.depth := by rw [Ctx.depth, hc]
  rw [← target_imm11] at hout ⊢
  have htaken : exec (.blt a b o) s = .next (s.jump (s.me.pc + (imm11 o <<< (1 : Nat))) k.depth) := by
    rw [← hdepth]
    exact congrArg Host.Outcome.next (if_pos (decide_eq_true hless))
  exact ⟨_, htaken, (jump_keeps s _ _ id).1, _, jump_chunk hc hr _ _, by rw [transferred_of_left ht hd hout]; exact ⟨rfl, rfl⟩⟩

/-- A chunk stays a chunk through a jump. -/
theorem jump_chunk_of_some (hc : s.me.chunk = some k) (pc : Word) (depth : BitVec 16) : ∃ q, (s.jump pc depth).me.chunk = some q := by
  have hcore : (s.jump pc depth).me.chunk.map Chunk.core = s.me.chunk.map Chunk.core := (congrArg Ctx.chunk (jump_keeps s pc depth id).2.slot :)
  obtain ⟨q, hq, -⟩ := Option.map_eq_some_iff.1 (hcore.trans (by rw [hc]; rfl))
  exact ⟨q, hq⟩

/-- The oldest chunk that has committed what it holds need not wait. -/
theorem held_of_committed (hc : s.me.chunk = some k) (hold : k.oldest = true) (hspec : k.spec = false) (f : State → State) : s.held f = f s := by
  have hstep : s.drainStep s.me = s := by simp [State.drainStep, hc, hspec]
  simp [State.held, State.afterDrain, hstep, Ctx.drained, hc, hold, hspec]

theorem jl_links {d : SReg} (u : BitVec 19) (hc : s.me.chunk = some k) (hr : s.me.regionOf s = some r) (hne : d ≠ 0) {P : Chunk → Prop}
    (hP : ∀ t : State, t.me.chunk = some { k with wrote := k.wrote ||| bit32 d } → t.me.regionOf t = some r → ∀ pc, ∃ q, (t.callTo true false pc).me.chunk = some q ∧ P q) :
    Completes (.jl d u) s fun t => t.me.pc = BitVec.ofInt 64 (s.me.pc.toInt + 2 * u.toInt) ∧ ∃ q, t.me.chunk = some q ∧ P q := by
  refine ⟨(s.setS d (s.me.pc + 4)).callTo true false (s.me.pc + (u.signExtend 64 <<< (1 : Nat))), ?_, ?_,
    hP _ (setS_chunk hc hne _) ((setS_regionOf ..).trans hr) _⟩
  · rw [← bne_iff_ne.2 hne]; rfl
  · exact (setS_callTo_effect s d (s.me.pc + 4) true false _).2.1.trans (target_eq_ofInt _ u)

theorem jlr_returns {a : SReg} (hc : s.me.chunk = some k) (hr : s.me.regionOf s = some r) (ht : k.traps = 0) (hd : k.depth ≠ 0)
    (heven : (s.getS a).getLsbD 0 = false) :
    Completes (.jlr 0 a 0) s fun t => t.me.pc = s.getS a ∧ t.me.chunk = some (k.transferred r (s.getS a) (k.depth - 1)) := by
  have hx : s.getS a + imm11 0 = s.getS a := BitVec.add_zero _
  refine ⟨s.callTo false true (s.getS a), ?_, (callTo_keeps s false true _ id).1, callTo_return_chunk hc ht hr hd _⟩
  rw [exec_jlr, hx, heven]; rfl

end clauses

/-- Settles O31: a region and its first chunk (`enterRegion_effect`), an iteration (`exec_floop_loop`), and transfers and calls in a chunk
(`jump_chunk`, `callTo_inRegion`). -/
theorem forkedRegionInstructions : Obligations.ForkedRegionInstructions := by
  unfold Obligations.ForkedRegionInstructions
  intro a b d o u s k r
  refine ⟨fun ho => ?_, fun ho hc => ?_, fun ho halone hmma hroom => ?_, fun h => ?_, fun ⟨hc, hr, ht⟩ htarget hd hbody => ?_, fun hc => ?_, fun hc => ?_,
    fun ⟨hc, hr, ht⟩ hd hless hout => ?_, fun ⟨hc, hr, ht⟩ hne hd => ?_, fun ⟨hc, hr, ht⟩ hne hd => ?_, fun ⟨hc, hr, ht⟩ hd heven => ?_,
    fun ⟨hc, hr, ht⟩ hd heven hout => ?_, fun hc => ?_, fun hc hold => ?_, fun hc hold hspec => ?_⟩
  · exact congrArg Host.Outcome.next (if_pos ho)
  · obtain ⟨hpassed, hkeeps⟩ := advance_keeps s 4 id
    have hchunk : s.me.chunk.isSome = true := by rw [hc]; rfl
    have hlong : ¬ o.toInt < 3 := by omega
    exact ⟨s.done4, congrArg Host.Outcome.next ((if_neg hlong).trans (if_pos hchunk)), hpassed, hkeeps⟩
  · have hbegins := fork_begins (a := a) ho hroom
    have hexec := exec_fork (a := a) ho halone hmma
    exact ⟨fun hfits => ⟨_, hexec, hbegins, enterRegion_untouched s rfl rfl hfits⟩, fun _ _ => ⟨_, hexec, hbegins⟩⟩
  · refine branch_goes (exec_floop_branch fun k' r' hk hr => ?_) decide_eq_true_iff
    rw [target_imm11]
    exact h k' r' hk hr
  · exact floop_loops hc hr ht htarget hd hbody
  · obtain ⟨t, hexec, hpc, hkeeps, -⟩ := fexit_ends s o
    exact ⟨t, hexec, hpc, hkeeps⟩
  · obtain ⟨t, hexec, hpc, hkeeps, hchunk⟩ := fexit_ends s o
    obtain ⟨q, hq⟩ := jump_chunk_of_some hc (s.me.pc + (imm11 o <<< (1 : Nat))) s.me.depth
    rw [hq] at hchunk
    exact ⟨t, hexec, hpc, hkeeps, _, hchunk, Bool.or_true _, rfl⟩
  · exact blt_leaves hc hr ht hd hless hout
  · exact jl_links u hc hr hne fun t htc htr pc => ⟨_, callTo_link_chunk htc ht htr hd false pc, rfl, rfl⟩
  · exact jl_links u hc hr hne fun t htc htr pc => callTo_overflow_chunk htc ht htr hd false pc
  · have hne : k.depth ≠ 0 := by rintro h; rw [h] at hd; exact absurd hd (by decide)
    have hne1 : k.depth - 1 ≠ 0 := by bv_omega
    obtain ⟨t, hexec, hpc, hchunk⟩ := jlr_returns hc hr ht hne heven
    exact ⟨t, hexec, hpc, _, hchunk, by rw [transferred_of_depth hne1]; exact ⟨rfl, rfl⟩⟩
  · have hne : k.depth ≠ 0 := by rw [hd]; decide
    obtain ⟨t, hexec, hpc, hchunk⟩ := jlr_returns hc hr ht hne heven
    have hlast : k.depth - 1 = 0 := by rw [hd]; rfl
    exact ⟨t, hexec, hpc, _, hchunk, by rw [transferred_of_left ht hlast hout]; exact ⟨hlast, rfl⟩⟩
  · obtain ⟨hpassed, hkeeps⟩ := advance_keeps s 4 id
    exact ⟨s.done4, congrArg Host.Outcome.next (held_serial s _ hc), hpassed, hkeeps⟩
  · exact congrArg Host.Outcome.next (held_of_younger hc hold _)
  · obtain ⟨hpassed, hkeeps⟩ := advance_keeps s 4 id
    exact ⟨s.done4, congrArg Host.Outcome.next (held_of_committed hc hold hspec _), hpassed, hkeeps⟩

end Sys2Proof.Machine
end

section
/-! SUPPORT. Why `done` need not leave its slot as reset has it: a state may list another context for the slot whose turn it is. -/

namespace Sys2Proof.Machine

/-- A strand at `done`, and a second context that the list of the other slots holds for the same slot: a chunk that has read the sector of the
launch header. -/
def slotListedTwice : State :=
  { State.reset with
    me := { Ctx.reset 0 0 with state := .running, strand := 1 }
    others := [{ Ctx.reset 0 0 with state := .running, strand := 2, chunk := some { Chunk.start 0 true with er := [0] } }] }

/-- The slot has been retired up to its record: what the launch counts comes after. -/
def slotListedTwice.last : State :=
  (((slotListedTwice.mapMe fun c => { c with ending := true }).quiesce false).mapMe fun c => { c with susp := 4 }).saveLast

theorem slotListedTwice_alone : slotListedTwice.Alone := by
  refine ⟨rfl, fun c hc => ?_⟩
  rw [List.mem_singleton.1 hc]
  decide

theorem slotListedTwice_record_mem : (slotListedTwice.last.writeRecord slotListedTwice.last.me rsRETIRED 4 0).1.mem = [] := by decide +kernel

/-- The count in the launch header squashes the chunk (R298), and the squash reaches the slot that is free by then. -/
theorem slotListedTwice_done : (match exec .done slotListedTwice with | .next t => t.me.chunk.isSome | _ => false) = true := by decide +kernel

/-- Refutes O48: the slot that `done` frees is `Ctx.reset` only where no other context is listed for it, which no hypothesis says. -/
theorem not_systemInstructions : ¬ Obligations.SystemInstructions := by
  unfold Obligations.SystemInstructions
  intro h
  obtain ⟨hdone, -⟩ := h 0 0 .strand slotListedTwice (slotListedTwice.last.writeRecord slotListedTwice.last.me rsRETIRED 4 0).1
    ⟨0, 0, 0, 0, 0, 0, 0, 0, 0, 0, 0, 0, 0, 0, none, [], 0, 0⟩ (slotListedTwice.last.writeRecord slotListedTwice.last.me rsRETIRED 4 0).2
    ⟨0, 0, 0, 0, 0, 0, 0, 0, 0, 0, false, false, false, false, 0⟩ 0
  obtain ⟨t, ht, ⟨hme, -⟩, -⟩ := hdone ⟨slotListedTwice_alone, rfl, rfl, rfl, by decide +kernel⟩ Prod.mk.eta.symm
    (by rw [State.MemOk, slotListedTwice_record_mem]; rfl) (by decide +kernel)
  have hchunk := slotListedTwice_done
  rw [ht] at hchunk
  change t.me.chunk.isSome = true at hchunk
  rw [hme] at hchunk
  exact absurd hchunk (by decide)

end Sys2Proof.Machine
end

section
/-! SUPPORT. Why the drain of a commit list need not go on: a state may list two contexts for one slot. -/

namespace Sys2Proof.Machine

/-- The oldest chunk of a region of one slot, ended and past the weir, with two sectors to commit and 2,048 stores that are not settled. -/
def drainingChunk : Chunk := { Chunk.start 0 true with ended := true, weir := true, commit := [0, 32] }
def drainingSlot : Ctx := { Ctx.reset 0 1 with state := .running, strand := 1, perfPend := 2048, chunk := some drainingChunk }

/-- The list of the other slots holds a second context for the same slot. Putting the first one back writes it over the second too, so that
the strand counts its stores twice and has no room left (R346). -/
def drainingSlotListedTwice : State :=
  { State.reset with others := [drainingSlot, { Ctx.reset 0 1 with state := .running }], regions := [drainingSlot.newRegion 0 0] }

theorem drainingSlotListedTwice_drain : (match exec (.commitListDrain 0 1) drainingSlotListedTwice with
    | .next t => (t.ctx? 0 1).bind fun o => o.chunk.map fun b => b.commit | _ => none) = some [0, 32] := by decide +kernel

/-- Refutes O50: a sector of the commit list whose store has room stays in the list where a second context is listed for the slot, which no
hypothesis excludes. -/
theorem not_rillEvents : ¬ Obligations.RillEvents := by
  unfold Obligations.RillEvents
  intro h
  obtain ⟨-, -, -, -, -, -, -, -, -, -, hdrain, -⟩ := h ⟨0, 0, 0, 0, 0, 0, .commit⟩ 0 0 0 0 drainingSlotListedTwice drainingSlot drainingSlot drainingChunk
    (drainingSlot.newRegion 0 0) 0 0 0 ⟨0, 0, false⟩ 0 .exit [32] 0 0 [] 0 0
  obtain ⟨t, ht, -, o, b, ho, hb, hcommit, -⟩ := hdrain ⟨⟨by decide +kernel, by decide +kernel⟩, rfl, rfl, rfl, rfl, rfl⟩ rfl rfl rfl (by decide) rfl rfl
    (by decide) (by decide +kernel) (.inl rfl)
  have hkept := drainingSlotListedTwice_drain
  change exec (.commitListDrain 0 1) drainingSlotListedTwice = .next t at ht
  change t.ctx? 0 1 = some o at ho
  rw [ht] at hkept
  simp [ho, hb, hcommit] at hkept

end Sys2Proof.Machine
end

section
/-! SUPPORT. Translations (R160, R369, R370): what a page walk leaves in the TLBs that serve it, and what an invalidation or an error takes out. -/

namespace Sys2Proof.Machine

theorem die_mapDie_self (s : State) (d : DieId) (f : Die → Die) : (s.mapDie d f).die d = f (s.die d) := (die_mapDie ..).trans (if_pos rfl)

/-! ### The entry of a walk -/

/-- An entry lies under its root, at the start of the page that holds the address. -/
def TlbEntry.Maps (t : TlbEntry) (root va : Nat) : Prop := t.root = root ∧ t.va ≤ va ∧ va < t.va + 2 ^ leafLog t.level

theorem walkFrom_maps {s : State} {d : DieId} {k : AccessKind} {root va level node : Nat} {t : TlbEntry}
    (h : s.walkFrom d k root va level node = .ok t) : t.Maps root va := by
  induction level generalizing node with
  | zero => cases h
  | succ level ih =>
    unfold State.walkFrom at h
    dsimp only at h
    split at h
    · cases h
    · split at h
      · exact ih h
      · cases h
        exact ⟨rfl, Nat.div_mul_le_self .., Nat.lt_div_mul_add (Nat.two_pow_pos _)⟩

/-! ### Filling the TLBs -/

theorem mem_fillTlb_of_ne {l : List TlbEntry} {e o : TlbEntry} (ho : o ∈ l) (hne : o.held ≠ e.held) : o ∈ fillTlb l e := by
  have hrest : o ∈ l.filter fun t => !(t.held == e.held && t.root == e.root && t.va == e.va && t.level == e.level) :=
    List.mem_filter.2 ⟨ho, by simp [hne]⟩
  unfold fillTlb
  refine List.mem_cons_of_mem _ ?_
  split
  · exact hrest
  · split
    next oldest hold =>
      have hheld : oldest.held = e.held := by simpa using (List.mem_filter.1 (List.mem_of_getLast? hold)).2
      exact (List.mem_erase_of_ne (by rintro rfl; exact hne hheld)).2 hrest
    next => exact hrest

theorem mem_foldl_fillTlb_of_notMem {e o : TlbEntry} (places : List TlbAt) {l : List TlbEntry} (ho : o ∈ l) (hne : o.held ∉ places) :
    o ∈ places.foldl (fun l t => fillTlb l { e with held := t }) l := by
  induction places generalizing l with
  | nil => exact ho
  | cons x xs ih =>
    rw [List.mem_cons, not_or] at hne
    exact ih (mem_fillTlb_of_ne ho hne.1) hne.2

/-- Filling some TLBs, each once, leaves the entry in each of them. -/
theorem mem_foldl_fillTlb (e : TlbEntry) {places : List TlbAt} (hnodup : places.Nodup) (l : List TlbEntry) {x : TlbAt} (hx : x ∈ places) :
    { e with held := x } ∈ places.foldl (fun l t => fillTlb l { e with held := t }) l := by
  induction places generalizing l with
  | nil => cases hx
  | cons y ys ih =>
    obtain ⟨hy, hys⟩ := List.nodup_cons.1 hnodup
    rcases List.mem_cons.1 hx with rfl | hx
    · exact mem_foldl_fillTlb_of_notMem ys List.mem_cons_self hy
    · exact ih hys _ hx

theorem tlbsOf_nodup (slot : Option SlotNo) : (tlbsOf slot).Nodup := by
  cases slot with
  | none => exact List.nodup_singleton _
  | some k => simp [tlbsOf]

theorem serves_of_mem_tlbsOf {slot : Option SlotNo} {x : TlbAt} (hx : x ∈ tlbsOf slot) : x.serves slot = true := by
  cases slot with
  | none =>
    obtain rfl := List.mem_singleton.1 hx
    rfl
  | some k =>
    simp only [tlbsOf, List.mem_cons, List.not_mem_nil, or_false] at hx
    rcases hx with rfl | rfl | rfl
    · simp [TlbAt.serves]
    · simp [TlbAt.serves]
    · rfl

/-- A translation that no TLB of a slot holds is lacking in each of them. -/
theorem lacks_of_tlbFind_none {l : List TlbEntry} {slot : Option SlotNo} {root va : Nat} (h : tlbFind l slot root va = none) {x : TlbAt}
    (hx : x ∈ tlbsOf slot) : (l.any fun o => o.held == x && o.covers root va) = false := by
  rw [List.any_eq_false]
  intro o ho hheld
  obtain ⟨heq, hcovers⟩ := Bool.and_eq_true_iff.1 hheld
  have hrank : o.held.rank ∈ upFrom 0 3 := by cases o.held <;> simp [TlbAt.rank, upFrom]
  have hnone := List.find?_eq_none.1 (List.findSome?_eq_none_iff.1 h o.held.rank hrank) o ho
  rw [beq_iff_eq.1 heq] at hnone
  exact hnone (by rw [serves_of_mem_tlbsOf hx, hcovers, beq_self_eq_true]; rfl)

theorem pageWalk_fills {s : State} {d : DieId} {slot : Option SlotNo} {root va : Word} {t : TlbEntry} (hpresent : (s.die d).present = true)
    (hva : va.toNat < 2 ^ 55) (hnone : tlbFind (s.die d).tlb slot root.toNat va.toNat = none) (hwalk : s.walk d .r root.toNat va.toNat = .ok t) :
    Completes (.pageWalk ⟨d, slot⟩ root va) s fun u => (∀ x ∈ tlbsOf slot, { t with held := x } ∈ (u.die d).tlb)
      ∧ t.root = root.toNat ∧ t.va ≤ va.toNat ∧ va.toNat < t.va + 2 ^ leafLog t.level ∧ u.mem = s.mem ∧ u.busy = s.busy ∧ u.net = s.net := by
  obtain ⟨hroot, hlow, hhigh⟩ := walkFrom_maps hwalk
  have hleaf : s.leafOf d slot .r root.toNat va.toNat = .ok t := by rw [State.leafOf, hnone]; exact hwalk
  have hlacks : ((tlbsOf slot).filter fun x => !(s.die d).tlb.any fun o => o.held == x && o.covers root.toNat va.toNat) = tlbsOf slot :=
    List.filter_eq_self.2 fun x hx => by rw [lacks_of_tlbFind_none hnone hx]; rfl
  have hexec : exec (.pageWalk ⟨d, slot⟩ root va) s = .next (s.mapDie d fun x =>
      { x with tlb := (tlbsOf slot).foldl (fun l x => fillTlb l { t with held := x }) x.tlb,
               walks := fillWalks x.walks (s.nodesFrom d root.toNat va.toNat 3 root.toNat) }) := by
    change execPageWalk ⟨d, slot⟩ root va s = _
    unfold execPageWalk
    dsimp only
    rw [if_neg (by simp [hpresent]; exact hva), hleaf]
    simp only [hlacks, hnone, Option.isSome_none, Bool.false_eq_true, if_false]
  refine ⟨_, hexec, fun x hx => ?_, hroot, hlow, hhigh, rfl, rfl, rfl⟩
  rw [die_mapDie_self]
  exact mem_foldl_fillTlb t (tlbsOf_nodup slot) _ hx

/-! ### Invalidation (R160) -/

theorem dropTlb_die (s : State) (e : DieId) (lo n : Nat) : (s.dropTlb e lo n).die e
    = { s.die e with tlb := (s.die e).tlb.filter fun x => !(x.va < lo + n && lo < x.va + 2 ^ leafLog x.level), walks := [] } := by
  rw [State.dropTlb, die_mapDie_self]

theorem tlbinvAck_drops {s : State} {n id lo len : Nat} {d e : DieId} {k : SlotNo} {rest : List Packet}
    (h : s.arrive n = some (.tlbinv id d e k 0 lo len, rest)) : Completes (.tlbinvAck n) s fun u =>
      (∀ x, x ∈ (u.die e).tlb ↔ x ∈ (s.die e).tlb ∧ ¬ (x.va < lo + len ∧ lo < x.va + 2 ^ leafLog x.level)) ∧ (u.die e).walks = []
        ∧ u.net = rest ++ [.tlback id e d k] ∧ u.mem = s.mem := by
  have hexec : exec (.tlbinvAck n) s = .next ((({ s with net := rest } : State).dropTlb e lo len).send (.tlback id e d k)) := by
    change execTlbinvAck n s = _
    rw [execTlbinvAck, h]
  have hdie := dropTlb_die { s with net := rest } e lo len
  refine ⟨_, hexec, fun x => ?_, (congrArg Die.walks hdie :), rfl, rfl⟩
  change x ∈ ((({ s with net := rest } : State).dropTlb e lo len).die e).tlb ↔ _
  rw [hdie, List.mem_filter, Bool.not_eq_true', ← Bool.not_eq_true, Bool.and_eq_true_iff, decide_eq_true_iff, decide_eq_true_iff]
  rfl

theorem tlbinvAck_answers {s : State} {n id : Nat} {d e : DieId} {k : SlotNo} {c : Ctx} {rest : List Packet}
    (h : s.arrive n = some (.tlback id e d k, rest)) (hctx : s.ctx? d k = some c) (hsent : c.sent = some id)
    (hlast : ∀ q ∈ rest, (∀ i a b j m l h, q = .tlbinv i a b j m l h → i ≠ id) ∧ ∀ i a b j, q = .tlback i a b j → i ≠ id) :
    Completes (.tlbinvAck n) s fun u => u.ctx? d k = some { c with sent := none, answer := some (.value 0 0 none) } ∧ u.net = rest ∧ u.mem = s.mem := by
  have hleft : (rest.any fun p => match p with | .tlbinv i _ _ _ _ _ _ => i == id | .tlback i _ _ _ => i == id | _ => false) = false := by
    rw [List.any_eq_false]
    intro q hq hmatch
    obtain ⟨hinv, hback⟩ := hlast q hq
    split at hmatch
    · exact hinv _ _ _ _ _ _ _ rfl (beq_iff_eq.1 hmatch)
    · exact hback _ _ _ _ rfl (beq_iff_eq.1 hmatch)
    · cases hmatch
  have hexec : exec (.tlbinvAck n) s = .next (({ s with net := rest } : State).mapCtx d k fun c =>
      if c.sent = some id then { c with sent := none, answer := some (.value 0 0 none) } else c) := by
    change execTlbinvAck n s = _
    rw [execTlbinvAck, h]
    exact congrArg Host.Outcome.next (if_neg (Bool.eq_false_iff.1 hleft))
  have hkeyed (o : Ctx) : (if o.sent = some id then { o with sent := none, answer := some (.value 0 0 none) } else o : Ctx).key = o.key := by
    split <;> rfl
  refine ⟨_, hexec, ?_, ?_, mapCtx_mem ..⟩
  · rw [mapCtx_ctx? hkeyed d k (s := { s with net := rest }) (c := c) hctx, if_pos ⟨rfl, rfl⟩, if_pos hsent]
  · unfold State.mapCtx
    split <;> rfl

/-! ### An error in a translation (R466) -/

theorem takeAt_of_lt {α : Type} {n : Nat} {l : List α} (h : n < l.length) : takeAt n l = some (l[n], l.eraseIdx n) := by
  induction l generalizing n with
  | nil => cases h
  | cons x xs ih =>
    cases n with
    | zero => rfl
    | succ n => simp only [takeAt, ih (Nat.lt_of_succ_lt_succ h), List.getElem_cons_succ, List.eraseIdx_cons_succ]

theorem takeAt_of_le {α : Type} {n : Nat} {l : List α} (h : l.length ≤ n) : takeAt n l = none := by
  induction l generalizing n with
  | nil => simp [takeAt]
  | cons x xs ih =>
    cases n with
    | zero => cases h
    | succ n => simp only [takeAt, ih (Nat.le_of_succ_le_succ h)]

theorem tlbError_drops (s : State) (d : DieId) (n : Nat) : Completes (.uncorrectableError (.tlb d n)) s fun u => (u.mem = s.mem ∧ u.busy = s.busy ∧ u.net = s.net)
    ∧ (n < (s.die d).tlb.length → (u.die d).tlb = (s.die d).tlb.eraseIdx n ∧ (u.die d).walks = (s.die d).walks)
    ∧ ((s.die d).tlb.length ≤ n → (u.die d).tlb = (s.die d).tlb ∧ (u.die d).walks = (s.die d).walks.eraseIdx (n - (s.die d).tlb.length)) := by
  refine ⟨s.uncorrectable (.tlb d n), rfl, ⟨rfl, rfl, rfl⟩, ?_⟩
  rw [State.uncorrectable, die_mapDie_self]
  refine ⟨fun hlt => ?_, fun hle => ?_⟩
  · simp only [takeAt_of_lt hlt, and_self]
  · simp only [takeAt_of_le hle, true_and]
    by_cases hwalks : n - (s.die d).tlb.length < (s.die d).walks.length
    · simp only [takeAt_of_lt hwalks]
    · simp only [takeAt_of_le (Nat.le_of_not_lt hwalks), List.eraseIdx_of_length_le (Nat.le_of_not_lt hwalks)]

end Sys2Proof.Machine
end

section
/-! SUPPORT. Hot rows (R359 to R361): activations, captures, windows and holds. -/

namespace Sys2Proof.Machine

theorem count_uncounted (s : State) (d : DieId) (kind inst ix n : Nat) : (s.count d kind inst ix n).uncounted = s.uncounted := by
  unfold State.count
  split <;> rfl

theorem count_die (s : State) (d : DieId) (kind inst ix n : Nat) (e : DieId) : (s.count d kind inst ix n).die e = s.die e := by
  rw [State.die, count_dies]; rfl

theorem count_busy (s : State) (d : DieId) (kind inst ix n : Nat) : (s.count d kind inst ix n).busy = s.busy := by
  rw [State.busy, count_me, count_others]; rfl

/-! ### Activations (R359) -/

theorem exec_rowActivation {s : State} {d : DieId} {loc : Nat} (bank row : Nat) (served : Bool) (hdram : isDram loc = true) (hhome : homeOf loc = d)
    (hpresent : (s.die d).present = true) : exec (.rowActivation ⟨loc, bank⟩ row served) s = .next (if served then
      s.count d 5 0 2 (if (s.die d).pins.any fun p => p.is (channelOf loc) (rowKey ⟨loc, bank⟩) row then 1 else 0)
      else s.activated d (channelOf loc) (rowKey ⟨loc, bank⟩) row) := by
  change execRowActivation ⟨loc, bank⟩ row served s = _
  subst hhome
  exact if_neg (by simp [hdram, hpresent])

/-- A die whose only tracker is a new one. -/
def Die.tracking (x : Die) (ch bank : Nat) (rows : List (Nat × Nat)) : Die := { x with trackers := [⟨ch, bank, rows⟩] }

section activations
variable {s : State} {d : DieId} {ch bank row : Nat} (hon : bitAt (s.die d).regs.hotctl 12 = true) (hempty : (s.die d).trackers = [])
include hon hempty

theorem activated_of_untracked : s.activated d ch bank row = if max 1 (bits (s.die d).regs.hotctl 0 12) ≤ 1
    then (s.mapDie d fun x => x.tracking ch bank [(0, 0)]).capture d ch bank row else s.mapDie d fun x => x.tracking ch bank [(row, 1)] := by
  have hmap (rows : List (Nat × Nat)) : (s.mapDie d fun x => { x with trackers := ⟨ch, bank, rows⟩ :: x.trackers.filter fun o => !(o.channel == ch && o.bank == bank) })
      = s.mapDie d fun x => x.tracking ch bank rows := by
    have htrackers : s.dies[d].trackers = [] := hempty
    simp only [State.mapDie, htrackers, List.filter_nil]
    rfl
  unfold State.activated
  simp only [hon, hempty, hmap, Bool.not_true, Bool.false_eq_true, if_false, List.find?_nil, Option.getD_none, activate, minCount]
  split
  · simp
  · rfl

end activations

/-! ### Captures (R360) -/

/-- A row of a bank none of whose rows is held is captured, unless its lines would pin too many ways. -/
theorem capture_of_unpinned {s : State} {d : DieId} (ch bank row : Nat) (hpins : (s.die d).pins = []) : s.capture d ch bank row =
    if s.pinsFull d ch bank row then s.count d 5 0 1 1
    else (s.mapDie d fun x => { x with pins := ⟨ch, bank, row, s.tick + max 1 (bits (s.die d).regs.hotctl 48 16) * 1024⟩ :: x.pins }).count d 5 0 0 1 := by
  unfold State.capture
  simp only [hpins, List.any_nil, Bool.false_eq_true, if_false]

theorem pinsFull_congr {s t : State} {d : DieId} (h : (t.die d).pins = (s.die d).pins) (ch bank row : Nat) : t.pinsFull d ch bank row = s.pinsFull d ch bank row := by
  rw [State.pinsFull, h]; rfl

/-! ### The clauses of O52 -/

section clauses
variable {s : State} {d : DieId}

theorem rowActivation_counts {loc bank row : Nat} (hdram : isDram loc = true) (hhome : homeOf loc = d) (hon : bitAt (s.die d).regs.hotctl 12 = true)
    (hpresent : (s.die d).present = true) (hempty : (s.die d).trackers = []) (hmore : 2 ≤ bits (s.die d).regs.hotctl 0 12) :
    Completes (.rowActivation ⟨loc, bank⟩ row false) s fun u => (u.die d).trackers = [⟨channelOf loc, rowKey ⟨loc, bank⟩, [(row, 1)]⟩]
      ∧ (u.die d).pins = (s.die d).pins ∧ u.mem = s.mem ∧ u.busy = s.busy ∧ u.net = s.net := by
  refine ⟨_, (exec_rowActivation bank row false hdram hhome hpresent).trans (congrArg Host.Outcome.next
    ((activated_of_untracked hon hempty).trans (if_neg (by omega)))), ?_⟩
  dsimp only
  rw [die_mapDie_self]
  exact ⟨rfl, rfl, rfl, rfl, rfl⟩

theorem rowActivation_captures {loc bank row : Nat} (hdram : isDram loc = true) (hhome : homeOf loc = d) (hon : bitAt (s.die d).regs.hotctl 12 = true)
    (hpresent : (s.die d).present = true) (hempty : (s.die d).trackers = []) (hfirst : bits (s.die d).regs.hotctl 0 12 ≤ 1) (hpins : (s.die d).pins = []) :
    Completes (.rowActivation ⟨loc, bank⟩ row false) s fun u => (u.die d).trackers = [⟨channelOf loc, rowKey ⟨loc, bank⟩, [(0, 0)]⟩]
      ∧ (u.die d).pins = (if s.pinsFull d (channelOf loc) (rowKey ⟨loc, bank⟩) row then []
        else [⟨channelOf loc, rowKey ⟨loc, bank⟩, row, s.tick + max 1 (bits (s.die d).regs.hotctl 48 16) * 1024⟩])
      ∧ u.mem = s.mem ∧ u.busy = s.busy ∧ u.net = s.net := by
  generalize hch : channelOf loc = ch
  generalize hkey : rowKey ⟨loc, bank⟩ = key
  have hdie : (s.mapDie d fun x => x.tracking ch key [(0, 0)]).die d = (s.die d).tracking ch key [(0, 0)] := by rw [die_mapDie_self]
  have hexec : exec (.rowActivation ⟨loc, bank⟩ row false) s = .next ((s.mapDie d fun x => x.tracking ch key [(0, 0)]).capture d ch key row) := by
    rw [exec_rowActivation bank row false hdram hhome hpresent, if_neg (by decide), hch, hkey, activated_of_untracked hon hempty, if_pos (by omega)]
  have hfull := pinsFull_congr (s := s) (d := d) (t := s.mapDie d fun x => x.tracking ch key [(0, 0)]) (by rw [hdie]; rfl) ch key row
  rw [capture_of_unpinned ch key row (by rw [hdie]; exact hpins), hfull, hdie] at hexec
  refine ⟨_, hexec, ?_⟩
  split
  · rw [count_die, hdie, count_mem, count_busy, count_net]
    exact ⟨rfl, hpins, rfl, rfl, rfl⟩
  · rw [count_die, count_mem, count_busy, count_net, die_mapDie_self, hdie]
    exact ⟨rfl, congrArg (_ :: ·) hpins, rfl, rfl, rfl⟩

theorem rowActivation_served {loc bank row : Nat} (hdram : isDram loc = true) (hhome : homeOf loc = d) (hpresent : (s.die d).present = true) :
    Completes (.rowActivation ⟨loc, bank⟩ row true) s fun u => u.uncounted = s.uncounted :=
  ⟨_, exec_rowActivation bank row true hdram hhome hpresent, count_uncounted ..⟩

theorem hotRowWindow_clears (hdue : s.tick % (max 1 (bits (s.die d).regs.hotctl 32 16) * 1024) = 0) : Completes (.hotRowWindow d) s fun u =>
    (u.die d).trackers = [] ∧ (u.die d).pins = (s.die d).pins ∧ u.mem = s.mem ∧ u.busy = s.busy ∧ u.net = s.net := by
  refine ⟨s.mapDie d fun x => { x with trackers := [] }, congrArg Host.Outcome.next (if_pos hdue), ?_⟩
  dsimp only
  rw [die_mapDie_self]
  exact ⟨rfl, rfl, rfl, rfl, rfl⟩

theorem hotRowHoldExpiry_releases (s : State) (d : DieId) (row : Nat) : Completes (.hotRowHoldExpiry d row) s fun u =>
    (∀ p, p ∈ (u.die d).pins ↔ p ∈ (s.die d).pins ∧ ¬ (p.row = row ∧ p.holdEnd ≤ s.tick)) ∧ u.mem = s.mem ∧ u.busy = s.busy ∧ u.net = s.net := by
  refine ⟨s.mapDie d fun x => { x with pins := x.pins.filter fun p => !(p.row == row && decide (p.holdEnd ≤ s.tick)) }, rfl, fun p => ?_, rfl, rfl, rfl⟩
  rw [die_mapDie_self, List.mem_filter, Bool.not_eq_true', ← Bool.not_eq_true, Bool.and_eq_true_iff, beq_iff_eq, decide_eq_true_iff]

end clauses

end Sys2Proof.Machine
end

section
/-! SUPPORT. Memory errors (R466, R467): a scrub, what an error that is corrected counts, and what one that is not takes with it. -/

namespace Sys2Proof.Machine

/-! ### Clean lines -/

/-- A squash touches slots, the net and counters, and no die. -/
theorem squash_dies (s : State) (c : Ctx) (cause : SquashCause) : (s.squash c cause).dies = s.dies := by
  have hmap (t : State) (d : DieId) (k : SlotNo) (f : Ctx → Ctx) : (t.mapCtx d k f).dies = t.dies := by unfold State.mapCtx; split <;> rfl
  unfold State.squash
  split
  · rfl
  next k _ =>
    have hslot : ((s.squashEvent c cause).squashSlot c k.j cause true).dies = s.dies := by
      unfold State.squashSlot
      split
      · exact count_dies ..
      · exact (hmap ..).trans ((count_dies (State.count _ _ _ _ _ _) ..).trans ((count_dies ..).trans (count_dies ..)))
    have hrank : (s.outrank c k k.j cause true).dies = s.dies := by
      unfold State.outrank
      split
      · rfl
      · simp only [apply_ite State.dies, hmap, State.squashEvent, count_dies, State.setCounter, ite_self]
    simp only [apply_ite State.dies, State.send, hrank, hmap, count_dies, hslot, ite_self]

theorem invalidateER_dies (s : State) (d : DieId) (loc n : Nat) (but : Option Word) : (s.invalidateER d loc n but).dies = s.dies := by
  unfold State.invalidateER State.invalidate
  dsimp only
  rw [foldl_keeps State.dies _ (fun t c => squash_dies t c .memory)]
  split <;> rfl

theorem dropReplica_die (s : State) (d : DieId) (line : Nat) :
    (s.dropReplica d line).die d = { s.die d with replicas := (s.die d).replicas.filter fun l => l.line != line } := by
  rw [State.dropReplica, State.die, invalidateER_dies]
  exact die_mapDie_self ..

theorem mem_mapIf {α : Type} {p : α → Bool} {f : α → α} {l : List α} {y : α} (h : y ∈ mapIf p f l) : ∃ x ∈ l, y = if p x then f x else x := by
  obtain ⟨x, hx, rfl⟩ := List.mem_map.1 h
  exact ⟨x, hx, rfl⟩

section clean
variable (s : State) (d : DieId) (line : Nat)

theorem dropClean_l1d (core : Fin 64) : Completes (.uncorrectableError (.clean d (.l1d core) line)) s fun u =>
    (u.mem = s.mem ∧ u.busy = s.busy ∧ u.net = s.net) ∧ ∀ l ∈ (u.die d).shared, l.line = line → core.val ∉ l.cores := by
  refine ⟨s.dropClean d line (.l1d core), rfl, ⟨count_mem .., count_busy .., count_net ..⟩, fun l hl hline => ?_⟩
  rw [State.dropClean, die_mapDie_self] at hl
  obtain ⟨o, -, rfl⟩ := mem_mapIf hl
  split at hline
  next h => simp [h]
  next h => exact absurd (beq_iff_eq.2 hline) h

theorem dropClean_l1i (core : Fin 64) : Completes (.uncorrectableError (.clean d (.l1i core) line)) s fun u => (u.mem = s.mem ∧ u.busy = s.busy ∧ u.net = s.net)
    ∧ ∀ i, i ∈ (u.die d).icopies ↔ i ∈ (s.die d).icopies ∧ ¬ (i.slot = none ∧ i.ring * 8 + i.core = core.val ∧ i.line.line = line) := by
  refine ⟨s.dropClean d line (.l1i core), rfl, ⟨count_mem .., count_busy .., count_net ..⟩, fun i => ?_⟩
  rw [State.dropClean, die_mapDie_self, State.countUE, count_die, List.mem_filter, Bool.not_eq_true', ← Bool.not_eq_true, Bool.and_eq_true_iff, Bool.and_eq_true_iff,
    Option.isNone_iff_eq_none, beq_iff_eq, beq_iff_eq, and_assoc]

theorem dropClean_slice : ((∃ l ∈ (s.die d).shared, l.line = line ∧ l.dirty ≠ 0) → exec (.uncorrectableError (.clean d .slice line)) s = .next s)
    ∧ ((¬ ∃ l ∈ (s.die d).shared, l.line = line ∧ l.dirty ≠ 0) → Completes (.uncorrectableError (.clean d .slice line)) s fun u =>
      u.mem = s.mem ∧ (∀ l ∈ (u.die d).shared, l.line ≠ line) ∧ ∀ l ∈ (u.die d).replicas, l.line ≠ line) := by
  have hdirty : (∃ l ∈ (s.die d).shared, l.line = line ∧ l.dirty ≠ 0) ↔ ((s.die d).shared.any fun l => l.line == line && l.dirty != 0) = true := by simp
  rw [hdirty]
  refine ⟨fun h => congrArg Host.Outcome.next (if_pos h), fun h => ⟨_, congrArg Host.Outcome.next (if_neg h), ?_⟩⟩
  dsimp only
  rw [dropReplica_die, die_mapDie_self]
  exact ⟨(dropReplica_mem ..).trans (count_mem ..), fun l hl => by simpa using (List.mem_filter.1 hl).2, fun l hl => by simpa using (List.mem_filter.1 hl).2⟩

theorem dropClean_memside : ((∃ l ∈ (s.die d).memside, l.line = line ∧ l.dirty ≠ 0) → exec (.uncorrectableError (.clean d .memside line)) s = .next s)
    ∧ ((¬ ∃ l ∈ (s.die d).memside, l.line = line ∧ l.dirty ≠ 0) → Completes (.uncorrectableError (.clean d .memside line)) s fun u =>
      u.mem = s.mem ∧ (u.mem = s.mem ∧ u.busy = s.busy ∧ u.net = s.net) ∧ ∀ l ∈ (u.die d).memside, l.line ≠ line) := by
  have hdirty : (∃ l ∈ (s.die d).memside, l.line = line ∧ l.dirty ≠ 0) ↔ ((s.die d).memside.any fun l => l.line == line && l.dirty != 0) = true := by simp
  rw [hdirty]
  refine ⟨fun h => congrArg Host.Outcome.next (if_pos h), fun h => ⟨_, congrArg Host.Outcome.next (if_neg h), ?_⟩⟩
  dsimp only
  rw [die_mapDie_self]
  exact ⟨count_mem .., ⟨count_mem .., count_busy .., count_net ..⟩, fun l hl => by simpa using (List.mem_filter.1 hl).2⟩

end clean

/-! ### Lost data -/

theorem mem_natAdd (a x : Nat) (l : List Nat) : x ∈ natAdd a l ↔ x = a ∨ x ∈ l := by
  induction l with
  | nil => exact List.mem_cons
  | cons k m ih =>
    unfold natAdd
    split
    next h => simp [h]
    next =>
      split
      · exact List.mem_cons
      · rw [List.mem_cons, ih, List.mem_cons]
        exact or_left_comm

theorem mem_natAddAll (x : Nat) (new l : List Nat) : x ∈ natAddAll new l ↔ x ∈ l ∨ x ∈ new := by
  induction new generalizing l with
  | nil => simp [natAddAll]
  | cons a as ih =>
    refine (ih (natAdd a l)).trans ?_
    rw [mem_natAdd, List.mem_cons, or_comm (a := x = a), or_assoc]

theorem storeError_loses {s : State} {loc z : Nat} (hdevice : isDevice loc = false) (hpresent : s.present (homeOf loc).val = true) :
    Completes (.uncorrectableError (.store loc z)) s fun u =>
      (∀ a, a ∈ u.lost ↔ a ∈ s.lost ∨ (loc / 8 * 8 ≤ a ∧ a < loc / 8 * 8 + 8 * z)) ∧ u.mem = s.mem ∧ u.busy = s.busy := by
  refine ⟨_, congrArg Host.Outcome.next (if_neg (by simp [hdevice, hpresent])), fun a => ?_, count_mem .., count_busy ..⟩
  rw [State.countUE, count_lost, State.markLost, mem_natAddAll, upFrom_eq_range', List.mem_range'_1]

/-- Lost bytes read as ones at their home, and every other byte as before. -/
theorem loseSectors_reads {s : State} (hok : s.MemOk) (loc n a : Nat) :
    memGet (s.loseSectors loc n).mem a = if loc ≤ a ∧ a < loc + n then 0xFF else memGet s.mem a := by
  rw [State.loseSectors, performWrite_mem, memGet_memWrite _ _ _ hok, List.length_replicate]
  by_cases h : loc ≤ a ∧ a < loc + n
  · rw [if_pos h, if_pos h, List.getElem?_replicate_of_lt (by omega)]; rfl
  · rw [if_neg h, if_neg h]

/-- Is the sector of a location dirty, in a line or in a pending store of the die? -/
def State.dirtyIn (s : State) (d : DieId) (loc : Nat) : DirtyAt → Prop
  | .slice => ∃ x ∈ (s.die d).shared, homeOf loc = d ∧ x.line = lineOf loc ∧ x.dirty.getLsbD (loc % 256 / 32) = true
  | .memside => ∃ x ∈ (s.die d).memside, x.line = lineOf loc ∧ x.dirty.getLsbD (loc % 256 / 32) = true
  | .pending => ∃ p ∈ (s.die d).pend, p.sector = sectorOf loc ∧ p.sent = false

/-- What an error in a dirty sector leaves, but for its counts. -/
def State.sectorLost (s : State) (d : DieId) (loc : Nat) : DirtyAt → State
  | .slice | .memside => s.loseSectors (sectorOf loc) 32
  | .pending => s.losePending d (sectorOf loc)

/-- The array whose error it is. -/
def arrayOf : DirtyAt → ErrArray
  | .memside => .memside
  | .slice | .pending => .slice

theorem loseDirty_cases (s : State) (d : DieId) (loc : Nat) (l : DirtyAt) : (¬ s.dirtyIn d loc l → s.loseDirty d loc l = s)
    ∧ (s.dirtyIn d loc l → s.loseDirty d loc l = ((s.sectorLost d loc l).countUE d (arrayOf l)).count d 8 0 14 1) := by
  unfold State.loseDirty
  cases l with
  | slice =>
    have hdirty : s.dirtyIn d loc .slice ↔ ((s.die d).shared.any fun l => homeOf loc == d && dirtyAt loc l.line l.dirty) = true := by
      simp [State.dirtyIn, dirtyAt]
    rw [hdirty]
    exact ⟨fun h => if_neg h, fun h => if_pos h⟩
  | memside =>
    have hdirty : s.dirtyIn d loc .memside ↔ ((s.die d).memside.any fun l => dirtyAt loc l.line l.dirty) = true := by simp [State.dirtyIn, dirtyAt]
    rw [hdirty]
    exact ⟨fun h => if_neg h, fun h => if_pos h⟩
  | pending =>
    have hdirty : s.dirtyIn d loc .pending ↔ ((s.die d).pend.any fun p => p.sector == sectorOf loc && !p.sent) = true := by simp [State.dirtyIn]
    rw [hdirty]
    exact ⟨fun h => if_neg h, fun h => if_pos h⟩

section dirty
variable {s : State} {d : DieId} {loc line : Nat}

theorem dirtySectorError_reads {l : DirtyAt} (hdirty : s.dirtyIn d loc l) (hl : l ≠ .pending) (hok : s.MemOk) :
    Completes (.uncorrectableError (.dirtySector d l loc)) s fun u =>
      ∀ a, memGet u.mem a = if sectorOf loc ≤ a ∧ a < sectorOf loc + 32 then 0xFF else memGet s.mem a := by
  refine ⟨_, congrArg Host.Outcome.next ((loseDirty_cases s d loc l).2 hdirty), fun a => ?_⟩
  rw [count_mem, State.countUE, count_mem]
  cases l with
  | slice => exact loseSectors_reads hok ..
  | memside => exact loseSectors_reads hok ..
  | pending => exact absurd rfl hl

theorem pendingError_loses (hdirty : s.dirtyIn d loc .pending) : Completes (.uncorrectableError (.dirtySector d .pending loc)) s fun u =>
    (u.mem = s.mem ∧ u.busy = s.busy ∧ u.net = s.net)
      ∧ ∀ p ∈ (u.die d).pend, p.sector = sectorOf loc → p.sent = false → (∀ b ∈ p.bytes, b.2 = 0xFF) ∧ ∀ h ∈ p.halves, h.2.2 = 15 := by
  refine ⟨_, congrArg Host.Outcome.next ((loseDirty_cases s d loc .pending).2 hdirty), ?_, fun p hp hsector hsent => ?_⟩
  · rw [count_mem, count_busy, count_net, State.countUE, count_mem, count_busy, count_net]
    exact ⟨rfl, rfl, rfl⟩
  · rw [count_die, State.countUE, count_die, State.sectorLost, State.losePending, die_mapDie_self] at hp
    obtain ⟨q, -, hq⟩ := mem_mapIf hp
    by_cases h : (q.sector == sectorOf loc && !q.sent) = true
    · rw [if_pos h] at hq
      rw [hq]
      refine ⟨fun b hb => ?_, fun x hx => ?_⟩
      · obtain ⟨_, -, rfl⟩ := List.mem_map.1 hb
        rfl
      · obtain ⟨_, -, rfl⟩ := List.mem_map.1 hx
        rfl
    · rw [if_neg h] at hq
      exact absurd (by rw [← hq, hsector, hsent, beq_self_eq_true]; rfl) h

theorem exec_stateError {p : ErrPlace} {lo n : Nat} (hp : s.uncorrectable p = s.loseState lo n) (hdram : isDram lo = true)
    (hpresent : s.present (homeOf lo).val = true) (hok : s.MemOk) : Completes (.uncorrectableError p) s fun u =>
      ∀ a, memGet u.mem a = if lo ≤ a ∧ a < lo + n then 0xFF else memGet s.mem a := by
  refine ⟨_, congrArg Host.Outcome.next (hp.trans (if_neg (by simp [hdram, hpresent]))), fun a => ?_⟩
  rw [count_mem, State.countUE, count_mem, loseSectors_reads hok]

theorem isDram_of_le {a b : Nat} (h : b ≤ a) (ha : isDram a = true) : isDram b = true := decide_eq_true (h.trans_lt (of_decide_eq_true ha))

/-- The start of an aligned block of a DRAM location has the same home. -/
theorem homeOf_block (n : Nat) (hn : n ∣ 2 ^ 36) (hdram : isDram loc = true) : homeOf (loc / n * n) = homeOf loc := by
  have hloc : loc < 2 ^ 40 := of_decide_eq_true hdram
  have hle : loc / n * n ≤ loc := Nat.div_mul_le_self ..
  have htile {a : Nat} (ha : a ≤ loc) : isTile a = false := decide_eq_false (by unfold tileBase; omega)
  obtain ⟨m, hm⟩ := hn
  have hdiv : loc / n * n / 2 ^ 36 = loc / 2 ^ 36 := by
    rw [hm, ← Nat.div_div_eq_div_mul, ← Nat.div_div_eq_div_mul]
    rcases Nat.eq_zero_or_pos n with rfl | hpos
    · simp
    · rw [Nat.mul_div_cancel _ hpos]
  rw [homeOf, homeOf, htile hle, htile le_rfl, if_neg Bool.false_ne_true, if_neg Bool.false_ne_true, hdiv]

theorem sliceStateError_reads (hdram : isDram loc = true) (hpresent : s.present (homeOf loc).val = true) (hok : s.MemOk) :
    Completes (.uncorrectableError (.sliceState loc)) s fun u =>
      ∀ a, memGet u.mem a = if sectorOf loc ≤ a ∧ a < sectorOf loc + 32 then 0xFF else memGet s.mem a :=
  exec_stateError rfl (isDram_of_le (Nat.div_mul_le_self ..) hdram) (by rw [sectorOf, homeOf_block 32 (by decide) hdram]; exact hpresent) hok

theorem directoryError_reads (hdram : isDram line = true) (hpresent : s.present (homeOf line).val = true) (hok : s.MemOk) :
    Completes (.uncorrectableError (.directory line)) s fun u =>
      ∀ a, memGet u.mem a = if lineOf line ≤ a ∧ a < lineOf line + 256 then 0xFF else memGet s.mem a :=
  exec_stateError rfl (isDram_of_le (Nat.div_mul_le_self ..) hdram) (by rw [lineOf, homeOf_block 256 (by decide) hdram]; exact hpresent) hok

end dirty

/-! ### Chunks and strands -/

section slots
variable {s : State} {d : DieId} {k : SlotNo} {c : Ctx} {q : Chunk}

/-- A slot that stands in the place of `c` still does, its chunk with `P`. -/
theorem ChunkIn.mapCtx {t : State} {P Q : Ctx → Chunk → Prop} (h : t.ChunkIn c P) {f : Ctx → Ctx} (hf : ∀ o, (f o).key = o.key)
    (hPQ : ∀ o b, o.chunk = some b → P o b → ∃ b', (f o).chunk = some b' ∧ Q (f o) b') : (t.mapCtx c.die c.slot f).ChunkIn c Q := by
  obtain ⟨o, b, hctx, hchunk, hP⟩ := h
  obtain ⟨b', hb', hQ⟩ := hPQ o b hchunk hP
  exact ⟨f o, b', (mapCtx_ctx? hf _ _ hctx).trans (congrArg some (if_pos ⟨rfl, rfl⟩)), hb', hQ⟩

/-- A squash of a chunk that is neither squashed nor past the weir begins it anew. -/
theorem squash_restarts (hctx : s.ctx? c.die c.slot = some c) (hchunk : c.chunk = some q) (hrestart : q.restart = false) (hweir : q.weir = false)
    (cause : SquashCause) : (s.squash c cause).ChunkIn c fun _ b => b.restart = true ∧ b.wr = [] ∧ b.j = q.j := by
  have hslot : ((s.squashEvent c cause).squashSlot c q.j cause true).ChunkIn c fun _ b => b.restart = true ∧ b.wr = [] ∧ b.j = q.j := by
    unfold State.squashSlot
    rw [hchunk]
    dsimp only
    refine ChunkIn.mapCtx (P := fun _ _ => True) ⟨c, q, ?_, hchunk, trivial⟩ (by intro _; rfl) fun o b _ _ => ⟨_, rfl, rfl, rfl, rfl⟩
    exact (count_ctx? (State.count _ _ _ _ _ _) ..).trans ((count_ctx? ..).trans ((count_ctx? ..).trans hctx))
  unfold State.squash
  simp only [hchunk, hweir, hrestart, Bool.false_eq_true, if_false]
  generalize (s.squashEvent c cause).squashSlot c q.j cause true = t at hslot ⊢
  have hagain (n : Nat) : ((t.count c.die 1 (ringOf c.slot) 3 n).mapCtx c.die c.slot fun c =>
      { c with chunk := c.chunk.map fun b => { b with memSq := q.memSq + 1, spec := decide (q.memSq + 1 < 2) } }).ChunkIn c
        fun _ b => b.restart = true ∧ b.wr = [] ∧ b.j = q.j := by
    refine ChunkIn.mapCtx (P := fun _ b => b.restart = true ∧ b.wr = [] ∧ b.j = q.j) ?_ (by intro _; rfl) fun o b hb hP =>
      ⟨{ b with memSq := q.memSq + 1, spec := decide (q.memSq + 1 < 2) }, by dsimp only; rw [hb]; rfl, hP⟩
    rwa [State.ChunkIn, count_ctx?]
  have hsent (u : State) (hu : u.ChunkIn c fun _ b => b.restart = true ∧ b.wr = [] ∧ b.j = q.j) (x : Packet) :
      (if u.ringed c.strand then u.send x else u).ChunkIn c fun _ b => b.restart = true ∧ b.wr = [] ∧ b.j = q.j := by split <;> exact hu
  refine hsent _ ?_ _
  split
  · exact hagain _
  · exact hslot

theorem specLineError_restarts (hctx : s.ctx? d k = some c) (hdie : c.die = d) (hslot : c.slot = k) (hchunk : c.chunk = some q) (hspec : q.spec = true)
    (hrestart : q.restart = false) (hweir : q.weir = false) : Completes (.uncorrectableError (.specLine d k)) s fun u =>
      u.ChunkIn c (fun _ b => b.restart = true ∧ b.wr = [] ∧ b.j = q.j) ∧ u.mem = s.mem := by
  subst hdie hslot
  have hexec : exec (.uncorrectableError (.specLine c.die c.slot)) s = .next ((s.countUE c.die .l1d).squash c .memory) := by
    change Host.Outcome.next (s.uncorrectable (.specLine c.die c.slot)) = _
    simp only [State.uncorrectable, hctx, hchunk, Option.any_some, hspec, if_true]
  exact ⟨_, hexec, squash_restarts ((count_ctx? ..).trans hctx) hchunk hrestart hweir .memory, (squash_mem ..).trans (count_mem ..)⟩

theorem registersError_ends {v : State} (hctx : s.ctx? d k = some c) (hdie : c.die = d) (hslot : c.slot = k) (hfound : s.slotOfStrand c.strand = some c)
    (hlater : c.stopLater = false) (hreq : c.stopReq = none) (hend : ((s.count d 8 0 13 1).focus d k).markStop.CanEnd v) :
    Completes (.uncorrectableError (.registers d k)) s fun u => u.ctx? d k = none ∧ u.rd c.header = v.rd c.header + 1 := by
  have hcounted : (s.countUE d .registers).slotOfStrand c.strand = some c := by rw [State.slotOfStrand, State.countUE, count_busy]; exact hfound
  have hexec : exec (.uncorrectableError (.registers d k)) s
      = .next ((s.count d 8 0 13 1).inSlot d k fun s => if s.atDone then s else s.stopMe 7 fun s => s.stopCancelled) := by
    change Host.Outcome.next (s.uncorrectable (.registers d k)) = _
    simp only [State.uncorrectable, hctx, State.cancelStop, hcounted, hdie, hslot]
    rfl
  exact ⟨_, hexec, cancelStop_ends ((count_ctx? ..).trans hctx) hlater hreq hend⟩

end slots

/-! ### Counted errors -/

theorem scrub_counts {s : State} {d : DieId} (hpresent : (s.die d).present = true) :
    Completes (.scrub d) s fun u => u.uncounted = { s.uncounted with fresh := s.fresh + 1 } :=
  ⟨_, congrArg Host.Outcome.next (if_pos hpresent), (count_uncounted (State.count _ _ _ _ _ _) ..).trans (count_uncounted ..)⟩

theorem correctedError_counts (s : State) (d : DieId) (array : ErrArray) : Completes (.uncorrectableError (.corrected d array)) s fun u =>
    u.uncounted = s.uncounted ∧ u.counter d 8 0 (2 * arrayIx array) = s.counter d 8 0 (2 * arrayIx array) + 1 :=
  ⟨_, rfl, count_uncounted .., count_counter ..⟩

/-- Settles O52: what a walk fills (`pageWalk_fills`) and an invalidation drops, the tracker and the pins of a row (`activated_of_untracked`,
`capture_of_unpinned`), and one lemma for each place of an error. -/
theorem translationAndErrorEvents : Obligations.TranslationAndErrorEvents := by
  unfold Obligations.TranslationAndErrorEvents
  intro n id lo len bank row loc z line d e k root va s v c q t slot rest core array loss
  refine ⟨pageWalk_fills, tlbinvAck_drops, fun h hctx hsent _ _ hlast => tlbinvAck_answers h hctx hsent hlast, fun h => if_pos h,
    fun h => if_neg (Bool.eq_false_iff.1 h), fun hdram hhome hon hpresent hempty => ⟨rowActivation_counts hdram hhome hon hpresent hempty,
      rowActivation_captures hdram hhome hon hpresent hempty, rowActivation_served hdram hhome hpresent⟩,
    hotRowWindow_clears, hotRowHoldExpiry_releases s d row, scrub_counts, correctedError_counts s d array, dropClean_l1d s d line core,
    dropClean_l1i s d line core, dropClean_slice s d line, dropClean_memside s d line, storeError_loses, fun hclean => ?_, fun hdirty hloss hok => ?_,
    pendingError_loses, sliceStateError_reads, directoryError_reads, specLineError_restarts, registersError_ends, tlbError_drops s d n⟩
  · refine congrArg Host.Outcome.next ((loseDirty_cases s d loc loss).1 ?_)
    cases loss <;> exact hclean
  · refine dirtySectorError_reads ?_ hloss hok
    cases loss <;> exact hdirty

end Sys2Proof.Machine
end

section
/-! SUPPORT. What a misaligned address leads to (R162, R170, R177, R186, R194): each shared access traps before any other check. -/

namespace Sys2Proof.Machine

/-- An instruction traps with MISALIGN at an address that is no multiple of `n`. -/
def State.Misaligns (s : State) (va : Word) (q : Instr × Nat) : Prop :=
  va.toNat % q.2 ≠ 0 → exec q.1 s = .next (s.trap (.of cMISALIGN va))

section misaligned
variable {s : State} {va : Word} {n : Nat}

theorem load_misaligned (h : va.toNat % n ≠ 0) (spaces : Nat) (f : State → Nat → State) : s.load va n spaces f = s.trap (.of cMISALIGN va) := if_pos h

theorem store_misaligned (h : va.toNat % n ≠ 0) (spaces x : Nat) (f : State → State) : s.store va n spaces x f = s.trap (.of cMISALIGN va) := if_pos h

theorem heldAt_misaligned (h : va.toNat % n ≠ 0) (k : AccessKind) (m spaces : Nat) (f : State → State) :
    s.heldAt k n m spaces va f = s.trap (.of cMISALIGN va) := if_pos h

theorem viaHome_misaligned (ha : s.me.answer = none) (h : va.toNat % n ≠ 0) (m : Nat) (k : AccessKind) (op : HomeOp) (t0 lim : Nat) (before : Before)
    (f : State → Answer → State) : s.viaHome va n m k op t0 lim before f = s.trap (.of cMISALIGN va) := by
  rw [State.viaHome, ha]
  exact if_pos h

theorem detTrap_misaligned {wd : Wid} (h : va.toNat % wd.bytes ≠ 0) : s.detTrap va wd = s.trap (.of cMISALIGN va) := if_pos h

theorem rred_misaligned {a : SReg} {wd : Wid} (h : (s.getS a).toNat % wd.bytes ≠ 0) (o : AmoOp) (b : SReg) :
    s.rred o a b wd = .next (s.trap (.of cMISALIGN (s.getS a))) := congrArg _ (if_pos h)

end misaligned

/-- Settles O13: every family goes through one shared access, which looks at the alignment first. -/
theorem misalignedAddressesTrap : Obligations.MisalignedAddressesTrap := by
  unfold Obligations.MisalignedAddressesTrap
  intro d a b i z wd s ha
  simp only [← add_imm11]
  have hload {va : Word} {n : Nat} (h : va.toNat % n ≠ 0) (f : State → Nat → State) :
      (.next (s.load va n 2 f) : Res) = .next (s.trap (.of cMISALIGN va)) := congrArg _ (load_misaligned h 2 f)
  have hstore {va : Word} {n : Nat} (h : va.toNat % n ≠ 0) (x : Nat) (f : State → State) :
      (.next (s.store va n 2 x f) : Res) = .next (s.trap (.of cMISALIGN va)) := congrArg _ (store_misaligned h 2 x f)
  have hheld {va : Word} (h : va.toNat % 8 ≠ 0) (k : AccessKind) (f : State → State) :
      (.next (s.heldAt k 8 8 2 va f) : Res) = .next (s.trap (.of cMISALIGN va)) := congrArg _ (heldAt_misaligned h k 8 2 f)
  have hhome {va : Word} {n : Nat} (h : va.toNat % n ≠ 0) (m : Nat) (k : AccessKind) (op : HomeOp) (t0 lim : Nat) (before : Before)
      (f : State → Answer → State) : (.next (s.viaHome va n m k op t0 lim before f) : Res) = .next (s.trap (.of cMISALIGN va)) :=
    congrArg _ (viaHome_misaligned ha h m k op t0 lim before f)
  have hnil {α : Type} {p : α → Prop} : ∀ x ∈ ([] : List α), p x := fun _ h => absurd h List.not_mem_nil
  refine ⟨fun j n hj => ?_, fun h => hheld h _ _, fun h => hheld h _ _, fun j n hj => ?_, ?_⟩
  · revert hj
    refine (?_ : ∀ q ∈ _, s.Misaligns _ q) (j, n)
    simp only [List.forall_mem_cons]
    exact ⟨fun h => hload h _, fun h => hload h _, fun h => hload h _, fun h => hload h _, fun h => hload h _, fun h => hstore h _ _, fun h => hstore h _ _,
      fun h => hstore h _ _, hnil⟩
  · revert hj
    refine (?_ : ∀ q ∈ _, s.Misaligns _ q) (j, n)
    simp only [List.forall_mem_cons]
    refine ⟨fun h => hload h _, fun h => hstore h _ _, ?_, ?_, ?_, ?_, ?_, ?_, ?_, ?_, ?_, ?_, ?_, ?_, ?_, ?_, hnil⟩
    all_goals exact fun h => hhome h _ _ _ _ _ _ _
  · simp only [List.forall_mem_cons]
    refine ⟨?_, ?_, ?_, ?_, ?_, ?_, ?_, ?_, ?_, ?_, ?_, ?_, fun h => ?_, fun h => rred_misaligned h _ b, fun h => rred_misaligned h _ b, fun h => rred_misaligned h _ b,
      fun h => rred_misaligned h _ b, fun h => rred_misaligned h _ b, fun h => rred_misaligned h _ b, fun h => rred_misaligned h _ b,
      fun h => rred_misaligned h _ b, fun h => ?_, hnil⟩
    case refine_13 =>
      exact (ite_congr rfl (fun _ => congrArg _ (detTrap_misaligned h)) fun _ => hhome h _ _ _ _ _ _ _).trans (ite_self _)
    case refine_14 => exact (ite_congr rfl (fun _ => congrArg _ (detTrap_misaligned h)) fun _ => rred_misaligned h _ b).trans (ite_self _)
    all_goals exact fun h => hhome h _ _ _ _ _ _ _

end Sys2Proof.Machine
end

section
/-! SUPPORT. What a write performed at its home leaves as it is. `hull`: everything but the slots, memory, packets, counters and what the slices
and directories hold; `shell`: the same without the reservations, which a write loses. `crew`: where no chunk runs, the slots but for the lines they were brought and their counts of stores. -/

namespace Sys2Proof.Machine

/-! ### The two frames -/

/-- Taking out what the slices and the directory of a die hold. -/
def Die.hull (y : Die) : Die := { y with remote := [], shared := [], memside := [], replicas := [], dir := [], regions := [] }
/-- Taking out the reservations too. -/
def Die.shell (y : Die) : Die := { y.hull with resv := [] }
@[irreducible] def hulls (v : Vector Die 16) : Vector Die 16 := v.map Die.hull
/-- Taking out what a write performed at its home may change outside the slots. -/
def State.hull (s : State) : State :=
  { s with me := Ctx.reset 0 0, others := [], mem := [], lost := [], net := [], ctr := [], dies := hulls s.dies }
@[irreducible] def shells (v : Vector Die 16) : Vector Die 16 := v.map Die.shell
/-- The hull without the reservations. -/
def State.shell (s : State) : State :=
  { s with me := Ctx.reset 0 0, others := [], mem := [], lost := [], net := [], ctr := [], dies := shells s.dies }
/-- Taking out the lines brought to a slot and the counts that a PERF changes. -/
def Ctx.lean (c : Ctx) : Ctx := { c with lines := [], perfPend := 0, colPend := Vector.replicate 16 0 }
/-- The slots, but for those parts. -/
def State.crew (s : State) : Ctx × List Ctx := (s.me.lean, s.others.map Ctx.lean)

theorem set_map_of_eq {f : Die → Die} {v : Vector Die 16} {d : DieId} {y : Die} (h : f y = f v[d]) : (v.set d y).map f = v.map f := by
  ext1 i hi
  simp only [Vector.getElem_map, Vector.getElem_set]
  split
  next e => subst e; exact h
  next => rfl

theorem mapDie_hull {s : State} {d : DieId} {g : Die → Die} (h : ∀ y, (g y).hull = y.hull) : (s.mapDie d g).hull = s.hull := by
  unfold State.hull State.mapDie hulls
  rw [set_map_of_eq (h _)]

theorem mapDie_shell {s : State} {d : DieId} {g : Die → Die} (h : ∀ y, (g y).shell = y.shell) : (s.mapDie d g).shell = s.shell := by
  unfold State.shell State.mapDie shells
  rw [set_map_of_eq (h _)]

theorem shells_eq (v : Vector Die 16) : shells v = (hulls v).map fun y => { y with resv := [] } := by
  unfold shells hulls
  rw [Vector.map_map]
  rfl

/-- What keeps the hull keeps the shell. -/
theorem shell_of_hull {s t : State} (h : t.hull = s.hull) : t.shell = s.shell := by
  have hout (u : State) : u.shell = { u.hull with dies := u.hull.dies.map fun y => { y with resv := [] } } := by
    unfold State.shell
    rw [shells_eq]
    rfl
  rw [hout, hout, h]

theorem hull_of_ite {p : Prop} [Decidable p] {a b s : State} (ha : a.hull = s.hull) (hb : b.hull = s.hull) : (if p then a else b).hull = s.hull := by
  split <;> assumption

theorem foldl_hull {α : Type} {f : State → α → State} (h : ∀ t x, (f t x).hull = t.hull) (l : List α) (s : State) : (l.foldl f s).hull = s.hull :=
  foldl_keeps State.hull f h l s

section hull
variable (s : State)

theorem count_hull (d : DieId) (kind inst ix n : Nat) : (s.count d kind inst ix n).hull = s.hull := hull_of_ite rfl rfl

theorem mapCtx_hull (f : Ctx → Ctx) (d : DieId) (k : SlotNo) : (s.mapCtx d k f).hull = s.hull := hull_of_ite rfl rfl

theorem squashSlot_hull (c : Ctx) (origin : Nat) (cause : SquashCause) (here : Bool) : (s.squashSlot c origin cause here).hull = s.hull := by
  unfold State.squashSlot
  split
  · rfl
  · exact (mapCtx_hull _ _ _ _).trans ((count_hull (State.count _ _ _ _ _ _) ..).trans (count_hull ..))

theorem outrank_hull (c : Ctx) (k : Chunk) (origin : Nat) (cause : SquashCause) (here : Bool) : (s.outrank c k origin cause here).hull = s.hull := by
  have hevent (p : Prop) [Decidable p] (t : State) (h : t.hull = s.hull) : (if p then t.squashEvent c cause else t).hull = s.hull :=
    hull_of_ite ((count_hull ..).trans h) h
  unfold State.outrank
  split
  · rfl
  · exact hull_of_ite ((mapCtx_hull _ _ _ _).trans (hevent _ _ (hull_of_ite rfl rfl))) rfl

theorem squash_hull (c : Ctx) (cause : SquashCause) : (s.squash c cause).hull = s.hull := by
  unfold State.squash
  split
  · rfl
  next k _ =>
    have hslot : ((s.squashEvent c cause).squashSlot c k.j cause true).hull = s.hull := (squashSlot_hull ..).trans (count_hull ..)
    have hsend (t : State) (h : t.hull = s.hull) : (if t.ringed c.strand then t.send (c.rill k.j (.squash cause)) else t).hull = s.hull := hull_of_ite h h
    refine hull_of_ite rfl (hull_of_ite (outrank_hull ..) (hsend _ (hull_of_ite ?_ hslot)))
    exact (mapCtx_hull _ _ _ _).trans ((count_hull ..).trans hslot)

theorem invalidate_hull (on : Ctx → Bool) (loc n : Nat) (but : Option Word) : (s.invalidate on loc n but).hull = s.hull :=
  (foldl_hull (fun t c => squash_hull t c .memory) _ _).trans (hull_of_ite rfl rfl)

theorem invalidateTile_hull (loc n : Nat) (but : Option Word) : (s.invalidateTile loc n but).hull = s.hull :=
  (foldl_hull (fun t _ => hull_of_ite (s := t) ((invalidate_hull ..).trans (mapDie_hull (by intro _; rfl))) rfl) _ _).trans (invalidate_hull ..)

theorem squashReaders_hull (loc n : Nat) (own : List Word) (but : Option Word) : (s.squashReaders loc n own but).hull = s.hull := by
  have hread : (if isTile loc then s.invalidateTile loc n but
      else (allDies.filter fun d => !((s.die d).replicas.any fun l => [lineOf loc, lineOf (loc + n - 1)].contains l.line)).foldl
        (fun s d => s.invalidateER d loc n but) s).hull = s.hull :=
    hull_of_ite (invalidateTile_hull ..) (foldl_hull (fun t d => invalidate_hull ..) _ _)
  unfold State.squashReaders
  dsimp only
  generalize (if isTile loc then s.invalidateTile loc n but else _) = r at hread ⊢
  rw [← hread]
  exact hull_of_ite rfl rfl

theorem dropResv_shell (rs : List Resv) : (s.dropResv rs).shell = s.shell := by
  refine foldl_keeps State.shell _ (fun t r => ?_) _ _
  have hdie : (t.mapDie (homeOf r.sector) fun d => { d with resv := d.resv.filter (· != r) }).shell = t.shell := mapDie_shell (by intro _; rfl)
  dsimp only
  split
  · exact hdie
  · exact hdie

theorem dropReplica_hull (d : DieId) (line : Nat) : (s.dropReplica d line).hull = s.hull := (invalidate_hull ..).trans (mapDie_hull (by intro _; rfl))

theorem memTouch_hull (d : DieId) (line : Nat) (dirty : BitVec 8) : (s.memTouch d line dirty).hull = s.hull := mapDie_hull (by intro _; rfl)

theorem evict_hull (d : DieId) (l : SharedLine) : (s.evict d l).hull = s.hull := by
  have hdie : (s.mapDie d fun y => { y with shared := y.shared.filter fun o => o.line != l.line }).hull = s.hull := mapDie_hull (by intro _; rfl)
  refine hull_of_ite ((invalidate_hull ..).trans (hull_of_ite hdie ((memTouch_hull ..).trans hdie))) ?_
  exact (hull_of_ite rfl (mapDie_hull (by intro _; rfl))).trans ((dropReplica_hull ..).trans hdie)

theorem touch_hull (d : DieId) (line : Nat) (dirty : BitVec 8) (core : Option Nat) : (s.touch d line dirty core).hull = s.hull := by
  have hevict (ws : List SharedLine) :
      (if ws.length < Config.sliceWays then s else match victim ws with | some v => s.evict d v | none => s).hull = s.hull := by
    refine hull_of_ite rfl ?_
    split
    · exact evict_hull ..
    · rfl
  unfold State.touch
  dsimp only
  refine (mapDie_hull (by intro _; rfl)).trans (hull_of_ite rfl (hull_of_ite ((memTouch_hull ..).trans (hevict _)) (hevict _)))

theorem dirtied_hull (loc n : Nat) : (s.dirtied loc n).hull = s.hull := hull_of_ite rfl (foldl_hull (fun _ _ => touch_hull ..) _ _)

theorem writeBytes_shell (loc : Nat) (bs : List Byte) (who : Requester) (but : Option Word) : (s.writeBytes loc bs who but).shell = s.shell :=
  (shell_of_hull ((dirtied_hull ..).trans (squashReaders_hull ..))).trans (dropResv_shell ..)

theorem collapseLine_hull (line : Nat) (who : Requester) : (s.collapseLine line who).1.hull = s.hull := by
  refine (foldl_hull (f := fun (t : State) (d : DieId) =>
    { t with net := mapFirst (fun p => p.collapsing line d) (fun p => p.join who.each) t.net }) (fun _ _ => rfl) _ _).trans ?_
  exact hull_of_ite rfl ((count_hull ..).trans (mapDie_hull (by intro _; rfl)))

theorem performWrite_shell (loc : Nat) (bs : List Byte) (who : Requester) (but : Option Word) : (s.performWrite loc bs who but).1.shell = s.shell := by
  have hwrite := writeBytes_shell s loc bs who but
  unfold State.performWrite
  dsimp only
  split
  · exact hwrite
  · split
    · exact (shell_of_hull (collapseLine_hull ..)).trans hwrite
    · exact (shell_of_hull ((collapseLine_hull ..).trans (collapseLine_hull ..))).trans hwrite

theorem creditPerf_hull (who : Requester) (m : BitVec 16) (remote : Bool) : (s.creditPerf who m remote).hull = s.hull := by
  unfold State.creditPerf
  split
  · exact mapCtx_hull ..
  · rfl

theorem writeHome_shell (loc : Nat) (bs : List Byte) (who : Requester) (but : Option Word) : (s.writeHome loc bs who but).shell = s.shell :=
  (shell_of_hull (creditPerf_hull ..)).trans (performWrite_shell ..)

/-! ### Reservations are lost only -/

theorem die_hull {s t : State} (h : t.hull = s.hull) (d : DieId) : (t.die d).hull = (s.die d).hull := by
  have hd : hulls t.dies = hulls s.dies := congrArg State.dies h
  unfold hulls at hd
  have := congrArg (fun v : Vector Die 16 => v[d]) hd
  simpa [State.die] using this

/-- A die keeps what the shell holds. -/
theorem die_shell {s t : State} (h : t.shell = s.shell) (d : DieId) : (t.die d).shell = (s.die d).shell := by
  have hd : shells t.dies = shells s.dies := congrArg State.dies h
  unfold shells at hd
  have := congrArg (fun v : Vector Die 16 => v[d]) hd
  simpa [State.die] using this

/-- Each reservation of `t` is one of `s`. -/
structure FewerResv (s t : State) : Prop where
  resv : ∀ d, ∀ r ∈ (t.die d).resv, r ∈ (s.die d).resv

theorem fewerResv_of_hull {s t : State} (h : t.hull = s.hull) : FewerResv s t := ⟨fun d r hr => by
  have : (t.die d).resv = (s.die d).resv := (congrArg Die.resv (die_hull h d) : (t.die d).hull.resv = (s.die d).hull.resv)
  rwa [this] at hr⟩

theorem FewerResv.trans {s t u : State} (h : FewerResv s t) (g : FewerResv t u) : FewerResv s u := ⟨fun d r hr => h.resv d r (g.resv d r hr)⟩

theorem dropResv_fewerResv (rs : List Resv) : FewerResv s (s.dropResv rs) := by
  induction rs generalizing s with
  | nil => exact ⟨fun _ _ h => h⟩
  | cons r rs ih =>
    have hone (d : DieId) (x : Resv) (h : x ∈ ((s.mapDie (homeOf r.sector) fun d => { d with resv := d.resv.filter (· != r) }).die d).resv) : x ∈ (s.die d).resv := by
      rw [die_mapDie] at h
      split at h
      next e => subst e; exact List.mem_of_mem_filter h
      next => exact h
    refine FewerResv.trans ⟨fun d x hx => ?_⟩ (ih _)
    dsimp only at hx
    split at hx
    · exact hone d x hx
    · exact hone d x hx

theorem performWrite_fewerResv (loc : Nat) (bs : List Byte) (who : Requester) (but : Option Word) : FewerResv s (s.performWrite loc bs who but).1 := by
  have hresv (u : State) (hu : FewerResv s u) (own : List Word) :
      FewerResv s (((u.loseResv loc bs.length).squashReaders loc bs.length own but).dirtied loc bs.length) :=
    (hu.trans (dropResv_fewerResv ..)).trans (fewerResv_of_hull ((dirtied_hull ..).trans (squashReaders_hull ..)))
  have hwrite : FewerResv s (s.writeBytes loc bs who but) := by
    unfold State.writeBytes
    refine hresv _ ?_ _
    exact ⟨fun _ _ h => h⟩
  unfold State.performWrite
  dsimp only
  split
  · exact hwrite
  · split
    · exact hwrite.trans (fewerResv_of_hull (collapseLine_hull ..))
    · exact hwrite.trans (fewerResv_of_hull ((collapseLine_hull ..).trans (collapseLine_hull ..)))

theorem writeHome_fewerResv (loc : Nat) (bs : List Byte) (who : Requester) (but : Option Word) : FewerResv s (s.writeHome loc bs who but) :=
  (performWrite_fewerResv s loc bs who but).trans (fewerResv_of_hull (creditPerf_hull ..))

end hull

/-! ### No chunk runs -/

theorem crew_of_ite {p : Prop} [Decidable p] {a b s : State} (ha : a.crew = s.crew) (hb : b.crew = s.crew) : (if p then a else b).crew = s.crew := by
  split <;> assumption

theorem serial_of_crew {s t : State} (h : t.crew = s.crew) (hs : s.Serial) : t.Serial := by
  have hme : t.me.lean = s.me.lean := congrArg Prod.fst h
  have hothers : t.others.map Ctx.lean = s.others.map Ctx.lean := congrArg Prod.snd h
  have hchunk {c o : Ctx} (e : c.lean = o.lean) : c.chunk = o.chunk := (congrArg Ctx.chunk e : c.lean.chunk = o.lean.chunk)
  refine ⟨(hchunk hme).trans hs.1, fun c hc => ?_⟩
  have hmem : c.lean ∈ s.others.map Ctx.lean := hothers ▸ List.mem_map_of_mem (f := Ctx.lean) hc
  obtain ⟨o, ho, heq⟩ := List.mem_map.1 hmem
  exact (hchunk heq).symm.trans (hs.2 o ho)

/-- A fold of steps that each keep the slots where no chunk runs. -/
theorem foldl_crew {α : Type} {f : State → α → State} (h : ∀ t x, t.Serial → (f t x).crew = t.crew) (l : List α) {s : State} (hs : s.Serial) :
    (l.foldl f s).crew = s.crew := by
  induction l generalizing s with
  | nil => rfl
  | cons x l ih => exact (ih (serial_of_crew (h s x hs) hs)).trans (h s x hs)

theorem busy_serial {s : State} (hs : s.Serial) : ∀ c ∈ s.busy, c.chunk = none := by
  intro c hc
  rcases List.mem_append.1 hc with h | h
  · split at h
    · exact absurd h List.not_mem_nil
    · rw [List.mem_singleton.1 h]; exact hs.1
  · exact hs.2 c h

/-- Where no chunk runs no copy is invalidated. -/
theorem invalidate_serial {s : State} (hs : s.Serial) (on : Ctx → Bool) (loc n : Nat) (but : Option Word) : s.invalidate on loc n but = s := by
  have hnone {c : Ctx} (h : c.chunk = none) (p q : Chunk → Bool) : (on c && some c.strand != but && c.chunk.any p && c.chunk.any q) = false := by simp [h]
  have hclear : s.others.any (fun c => on c && some c.strand != but && (c.chunk.any fun k => k.spec && !k.weir) && c.chunk.any fun k => !k.valid.isEmpty) = false :=
    List.any_eq_false.2 fun c hc => by simp [hnone (hs.2 c hc)]
  have hbusy : (s.busy.filter fun c => (on c && some c.strand != but && c.chunk.any fun k => k.spec && !k.weir)
      && (c.chunk.any fun k => k.er.any fun q => q < loc + n && loc < q + 32)) = [] :=
    List.filter_eq_nil_iff.2 fun c hc => by simp [hnone (busy_serial hs c hc)]
  unfold State.invalidate
  simp only [hclear, hnone hs.1, hbusy, Bool.or_self, Bool.false_eq_true, if_false, List.foldl_nil]

section crew
variable {s : State}

theorem count_crew (d : DieId) (kind inst ix n : Nat) : (s.count d kind inst ix n).crew = s.crew := crew_of_ite rfl rfl

theorem mapCtx_crew {f : Ctx → Ctx} (h : ∀ c, (f c).lean = c.lean) (d : DieId) (k : SlotNo) : (s.mapCtx d k f).crew = s.crew := by
  refine crew_of_ite ?_ ?_
  · exact Prod.ext (h s.me) rfl
  · refine Prod.ext rfl ?_
    simp only [State.crew, mapIf, List.map_map]
    refine List.map_congr_left fun c _ => ?_
    simp only [Function.comp_apply]
    split
    · exact h c
    · rfl

theorem mapDie_crew (d : DieId) (g : Die → Die) : (s.mapDie d g).crew = s.crew := rfl

theorem serial_mapDie (hs : s.Serial) (d : DieId) (g : Die → Die) : (s.mapDie d g).Serial := hs

theorem invalidate_crew (hs : s.Serial) (on : Ctx → Bool) (loc n : Nat) (but : Option Word) : (s.invalidate on loc n but).crew = s.crew := by
  rw [invalidate_serial hs]

theorem invalidateTile_crew (hs : s.Serial) (loc n : Nat) (but : Option Word) : (s.invalidateTile loc n but).crew = s.crew := by
  unfold State.invalidateTile
  dsimp only
  rw [invalidate_serial hs]
  refine foldl_crew (fun t line ht => crew_of_ite ?_ rfl) _ hs
  exact (invalidate_crew (serial_mapDie ht ..) ..).trans (mapDie_crew ..)

theorem squashReaders_crew (hs : s.Serial) (loc n : Nat) (own : List Word) (but : Option Word) : (s.squashReaders loc n own but).crew = s.crew := by
  have hread : (if isTile loc then s.invalidateTile loc n but
      else (allDies.filter fun d => !((s.die d).replicas.any fun l => [lineOf loc, lineOf (loc + n - 1)].contains l.line)).foldl
        (fun s d => s.invalidateER d loc n but) s).crew = s.crew :=
    crew_of_ite (invalidateTile_crew hs ..) (foldl_crew (fun t d ht => invalidate_crew ht ..) _ hs)
  unfold State.squashReaders
  dsimp only
  generalize (if isTile loc then s.invalidateTile loc n but else _) = r at hread ⊢
  rw [← hread]
  refine crew_of_ite rfl (Prod.ext ?_ ?_)
  · dsimp only [State.crew]
    split <;> rfl
  · simp only [State.crew, List.map_map]
    refine List.map_congr_left fun c _ => ?_
    simp only [Function.comp_apply]
    split <;> rfl

theorem dropResv_crew (rs : List Resv) : (s.dropResv rs).crew = s.crew := by
  refine foldl_keeps State.crew _ (fun t r => ?_) _ _
  dsimp only
  split <;> rfl

theorem dropReplica_crew (hs : s.Serial) (d : DieId) (line : Nat) : (s.dropReplica d line).crew = s.crew :=
  (invalidate_crew (serial_mapDie hs ..) ..).trans (mapDie_crew ..)

theorem evictNotice_crew (d : DieId) (line : Nat) : (s.evictNotice d line).crew = s.crew := crew_of_ite rfl (mapDie_crew ..)

theorem memTouch_crew (d : DieId) (line : Nat) (dirty : BitVec 8) : (s.memTouch d line dirty).crew = s.crew := mapDie_crew ..

theorem evict_crew (hs : s.Serial) (d : DieId) (l : SharedLine) : (s.evict d l).crew = s.crew := by
  unfold State.evict
  extract_lets u
  have hu : u.crew = s.crew := mapDie_crew ..
  have hback : (if l.dirty = 0 then u else u.memTouch d l.line l.dirty).crew = s.crew := crew_of_ite hu ((memTouch_crew ..).trans hu)
  refine crew_of_ite ((invalidate_crew (serial_of_crew hback hs) ..).trans hback) ((evictNotice_crew ..).trans ((dropReplica_crew ?_ ..).trans hu))
  exact serial_of_crew hu hs

theorem touch_crew (hs : s.Serial) (d : DieId) (line : Nat) (dirty : BitVec 8) (core : Option Nat) : (s.touch d line dirty core).crew = s.crew := by
  have hevict (ws : List SharedLine) :
      (if ws.length < Config.sliceWays then s else match victim ws with | some v => s.evict d v | none => s).crew = s.crew := by
    refine crew_of_ite rfl ?_
    split
    · exact evict_crew hs ..
    · rfl
  unfold State.touch
  dsimp only
  exact (mapDie_crew ..).trans (crew_of_ite rfl (crew_of_ite ((memTouch_crew ..).trans (hevict _)) (hevict _)))

theorem dirtied_crew (hs : s.Serial) (loc n : Nat) : (s.dirtied loc n).crew = s.crew :=
  crew_of_ite rfl (foldl_crew (fun _ _ ht => touch_crew ht ..) _ hs)

theorem writeBytes_crew (hs : s.Serial) (loc : Nat) (bs : List Byte) (who : Requester) (but : Option Word) : (s.writeBytes loc bs who but).crew = s.crew := by
  have hresv (u : State) (hu : u.crew = s.crew) (own : List Word) :
      (((u.loseResv loc bs.length).squashReaders loc bs.length own but).dirtied loc bs.length).crew = s.crew := by
    have hlose : (u.loseResv loc bs.length).crew = s.crew := (dropResv_crew _).trans hu
    have hread := (squashReaders_crew (serial_of_crew hlose hs) loc bs.length own but).trans hlose
    exact (dirtied_crew (serial_of_crew hread hs) _ _).trans hread
  unfold State.writeBytes
  refine hresv _ ?_ _
  rfl

theorem collapseLine_crew (line : Nat) (who : Requester) : (s.collapseLine line who).1.crew = s.crew := by
  have hjoin (late : List DieId) (u : State) (hu : u.crew = s.crew) : (late.foldl (fun (t : State) (d : DieId) =>
      { t with net := mapFirst (fun p => p.collapsing line d) (fun p => p.join who.each) t.net }) u).crew = s.crew := by
    rw [← hu]
    exact foldl_keeps State.crew _ (by intro _ _; rfl) late u
  unfold State.collapseLine
  exact hjoin _ _ (crew_of_ite rfl ((count_crew ..).trans (mapDie_crew ..)))

theorem performWrite_crew (hs : s.Serial) (loc : Nat) (bs : List Byte) (who : Requester) (but : Option Word) :
    (s.performWrite loc bs who but).1.crew = s.crew := by
  have hwrite := writeBytes_crew hs loc bs who but
  unfold State.performWrite
  dsimp only
  split
  · exact hwrite
  · split
    · exact (collapseLine_crew ..).trans hwrite
    · exact (collapseLine_crew ..).trans ((collapseLine_crew ..).trans hwrite)

theorem creditPerf_crew (who : Requester) (m : BitVec 16) (remote : Bool) : (s.creditPerf who m remote).crew = s.crew := by
  unfold State.creditPerf
  split
  · exact mapCtx_crew (by intro _; rfl) ..
  · rfl

theorem writeHome_crew (hs : s.Serial) (loc : Nat) (bs : List Byte) (who : Requester) (but : Option Word) : (s.writeHome loc bs who but).crew = s.crew :=
  (creditPerf_crew ..).trans (performWrite_crew hs ..)

end crew

end Sys2Proof.Machine
end

section
/-! SUPPORT. Where an access that passes its checks leads: to the same byte of a 64 KiB block as its address (R45, R46, R365), so that an aligned
operand lies in one page, one line and one home. -/

namespace Sys2Proof.Machine

variable {s : State}

theorem look_place {k : AccessKind} {spaces n : Nat} {va : Word} {p : Place} (h : s.look k spaces va n = .ok p) : s.placeOf s.me k spaces va = .ok p := by
  unfold State.look at h
  dsimp only at h
  split at h
  · cases h
  split at h
  · cases h
  next q hq =>
    split at h
    next l hl =>
      subst h
      unfold State.hold? at hl
      grind
    · split at h
      · cases h
      · cases h; exact hq

/-- A leaf maps whole blocks of 64 KiB. -/
theorem dvd_leaf (level : Nat) : 65536 ∣ 2 ^ leafLog level := by
  unfold leafLog
  split
  · exact ⟨2 ^ 26, by norm_num⟩
  · split
    · exact ⟨2 ^ 13, by norm_num⟩
    · exact ⟨1, by norm_num⟩

theorem place_mod (e : TlbEntry) (va : Nat) : (e.place va).loc % 65536 = va % 65536 := by
  unfold TlbEntry.place ptePa
  rw [Nat.add_comm, Nat.add_mul_mod_self_right, Nat.mod_mod_of_dvd _ (dvd_leaf _)]

theorem translate_mod {d : DieId} {slot : Option SlotNo} {k : AccessKind} {strandLevel : Bool} {root va : Nat} {p : Place}
    (h : s.translate d slot k strandLevel root va = .ok p) : p.loc % 65536 = va % 65536 := by
  unfold State.translate at h
  split at h
  · cases h
  next q hq =>
    have hp : q = p := by grind
    unfold State.pageOf at hq
    split at hq
    · cases hq
    split at hq
    · cases hq
    · cases hq
      rw [← hp]
      exact place_mod ..

theorem tile_mod (die ring a : Nat) : tileLoc die ring (a % 2 ^ 21) % 65536 = a % 65536 := by
  unfold tileLoc tileBase
  omega

theorem nameOf_mod {c : Ctx} {k : AccessKind} {spaces : Nat} {va : Word} {x : Named} (h : s.nameOf c k spaces va = .ok x) :
    (match x with | .global a => a | .tile p => p.loc) % 65536 = va.toNat % 65536 := by
  unfold State.nameOf at h
  dsimp only at h
  have hpriv (b : BitVec 55) : (privBase b + va.toNat % 2 ^ 32) % 65536 = va.toNat % 65536 := by unfold privBase; omega
  split at h
  · cases h
  split at h
  · split at h
    · cases h
    · cases h; rfl
  split at h
  · split at h
    · cases h
    split at h
    · cases h
    split at h <;> split at h <;> cases h <;> exact tile_mod ..
  split at h
  · cases h
  split at h
  · cases h
  split at h
  · cases h
  split at h
  · cases h
  · cases h; exact hpriv _

/-- A place has the address's offset in its block of 64 KiB. -/
theorem placeOf_mod {c : Ctx} {k : AccessKind} {spaces : Nat} {va : Word} {p : Place} (h : s.placeOf c k spaces va = .ok p) :
    p.loc % 65536 = va.toNat % 65536 := by
  unfold State.placeOf at h
  split at h
  · cases h
  next q hq => cases h; exact nameOf_mod hq
  next a ha => exact (translate_mod h).trans (nameOf_mod ha)

/-- An aligned access leads to an aligned location. -/
theorem loc_aligned {k : AccessKind} {spaces n m : Nat} {va : Word} {p : Place} (hl : s.look k spaces va m = .ok p) (hn : n ∣ 65536)
    (ha : va.toNat % n = 0) : p.loc % n = 0 := by
  rw [← Nat.mod_mod_of_dvd _ hn, placeOf_mod (look_place hl), Nat.mod_mod_of_dvd _ hn, ha]

/-! ### An aligned operand does not leave its region -/

section aligned
variable {loc n a : Nat}

theorem dram_of_aligned (hd : isDram loc = true) (hn : n ∣ 65536) (ha : loc % n = 0) (h1 : loc ≤ a) (h2 : a < loc + n) : isDram a = true := by
  obtain ⟨m, hm⟩ := hn
  have hloc : loc < 2 ^ 40 := of_decide_eq_true hd
  have hpos : 0 < n := by omega
  have hlt : loc / n < 2 ^ 40 / n := Nat.div_lt_div_of_lt_of_dvd ⟨m * 2 ^ 24, by rw [← Nat.mul_assoc, ← hm]; norm_num⟩ hloc
  have heq : loc / n * n = loc := Nat.div_mul_cancel (Nat.dvd_of_mod_eq_zero ha)
  have hle : (loc / n + 1) * n ≤ 2 ^ 40 / n * n := Nat.mul_le_mul_right _ hlt
  have htop : 2 ^ 40 / n * n ≤ 2 ^ 40 := Nat.div_mul_le_self ..
  exact decide_eq_true (by rw [Nat.add_one_mul] at hle; omega)

theorem not_device_of_dram (hd : isDram a = true) : isDevice a = false := by
  have : a < 2 ^ 40 := of_decide_eq_true hd
  simp [isDevice]; omega

end aligned

/-! ### Sound bytes as a number -/

theorem upFrom_map_congr {α : Type} {f g : Nat → α} {loc n : Nat} (h : ∀ a, loc ≤ a → a < loc + n → f a = g a) : (upFrom loc n).map f = (upFrom loc n).map g := by
  refine List.map_congr_left fun a ha => ?_
  rw [upFrom_eq_range', List.mem_range'_1] at ha
  exact h a ha.1 ha.2

theorem upFrom_map_memGet (m : List Host.Cell) (loc n : Nat) : (upFrom loc n).map (memGet m) = memBytes m loc n := by
  induction n generalizing loc with
  | zero => rfl
  | succ n ih => rw [upFrom, List.map_cons, ih, memBytes]

theorem homeBytes_of_sound {loc n : Nat} (h : s.Sound loc n) : (upFrom loc n).map s.homeByte = (memBytes s.mem loc n).map some := by
  rw [← upFrom_map_memGet, List.map_map]
  exact upFrom_map_congr fun a h1 h2 => homeByte_of_sound (h a h1 h2)

theorem numOf_some (bs : List Byte) : numOf (bs.map some) = ofBytes bs := by
  rw [numOf, List.map_map]
  exact congrArg ofBytes ((List.map_congr_left fun _ _ => rfl).trans (List.map_id bs))

theorem anyLost_some (bs : List Byte) : anyLost (bs.map some) = false := by simp [anyLost]

/-- A sound word of DRAM read at its home. -/
theorem homeNum_of_sound {loc n : Nat} (hd : ∀ a, loc ≤ a → a < loc + n → isDevice a = false) (h : s.Sound loc n) :
    s.homeNum loc n = (numAt s.mem loc n, none) := by
  have hbytes : ((upFrom loc n).map fun a => if isDevice a then some (s.devByte a) else s.homeByte a) = (memBytes s.mem loc n).map some := by
    rw [← homeBytes_of_sound h]
    exact upFrom_map_congr fun a h1 h2 => by rw [hd a h1 h2]; rfl
  unfold State.homeNum
  simp only [hbytes, numOf_some, anyLost_some]
  rfl

theorem numAt_lt (m : List Host.Cell) (loc n : Nat) : numAt m loc n < 256 ^ n := by
  have := ofBytes_lt (memBytes m loc n)
  rwa [memBytes_length] at this

/-! ### Memory after a write -/

section stored
variable {t : State} {loc n x : Nat}

theorem storedBytes_of_mem {bs : List Byte} (hm : s.MemOk) (h : t.mem = memWrite s.mem loc bs) : StoredBytes s t loc bs := fun a => by
  rw [h, memGet_memWrite _ _ _ hm]

theorem stored_of_mem (hm : s.MemOk) (h : t.mem = memWrite s.mem loc (bytesOf n x)) : Stored s t loc n x := fun a => by
  rw [h, memGet_memWrite _ _ _ hm, bytesOf_length]
  split
  next hin => rw [bytesOf_get _ _ _ (by omega)]; rfl
  next => rfl

theorem sameMemory_of_mem (h : t.mem = s.mem) : SameMemory s t := fun a => by rw [h]

end stored

end Sys2Proof.Machine
end

section
/-! SUPPORT. A request of a slot to its own die's memory (R183, R203), from its checks to its completion. -/

namespace Sys2Proof.Machine

/-! ### The slot goes on as it was -/

/-- The slot is as before but for what an instruction in progress keeps and its counts of stores. -/
structure Like (s v : State) : Prop where
  slot : SlotKept s v id
  pc : v.me.pc = s.me.pc

section like
variable {s v w : State}

theorem Like.refl (s : State) : Like s s := ⟨rfl, rfl⟩

theorem Like.trans (h : Like s v) (g : Like v w) : Like s w := ⟨Eq.trans g.slot h.slot, g.pc.trans h.pc⟩

theorem like_of_lean (h : v.me.lean = s.me.lean) : Like s v :=
  ⟨(congrArg (fun c => c.still.noCounts) h : v.me.lean.still.noCounts = s.me.lean.still.noCounts), (congrArg Ctx.pc h : v.me.lean.pc = s.me.lean.pc)⟩

theorem like_of_crew (h : v.crew = s.crew) : Like s v := like_of_lean (congrArg Prod.fst h)

theorem like_mapMe {f : Ctx → Ctx} (h : (f s.me).still.noCounts = s.me.still.noCounts) (hp : (f s.me).pc = s.me.pc) : Like s (s.mapMe f) := ⟨h, hp⟩

theorem Like.still (h : Like s v) : v.me.still.noCounts = s.me.still.noCounts := h.slot

/-- A part of the slot that the frame holds is as before. -/
theorem Like.field (h : Like s v) {α : Type} (g : Ctx → α) (hg : ∀ c, g c.still.noCounts = g c) : g v.me = g s.me := by rw [← hg, h.still, hg]

theorem Like.chunk (h : Like s v) (hs : s.me.chunk = none) : v.me.chunk = none := by
  have := congrArg Ctx.chunk h.still
  simp only [Ctx.still, Ctx.noCounts, hs, Option.map_none, Option.map_eq_none_iff] at this
  exact this

theorem Like.getS (h : Like s v) (r : SReg) : v.getS r = s.getS r := by
  have hs : v.me.s = s.me.s := h.field Ctx.s fun _ => rfl
  unfold State.getS Ctx.getS
  rw [hs]

theorem Like.die (h : Like s v) : v.me.die = s.me.die := h.field Ctx.die fun _ => rfl
theorem Like.strand (h : Like s v) : v.me.strand = s.me.strand := h.field Ctx.strand fun _ => rfl
theorem Like.img (h : Like s v) : v.me.img = s.me.img := h.field Ctx.img fun _ => rfl

/-- A step that keeps a slot but for the parts `e` takes out keeps it so from a like state. -/
theorem Like.slotKept (h : Like s v) {e : Ctx → Ctx} (he : ∀ c, (e c).noCounts = e c.noCounts) (hk : e w.me.still = e v.me.still) : SlotKept s w e := by
  unfold SlotKept
  rw [← he, hk, he, h.still]

theorem Like.advance (h : Like s v) (n : Nat) : Passed s (v.advance n) n ∧ SlotKept s (v.advance n) id := by
  obtain ⟨hp, hk⟩ := advance_keeps v n id
  exact ⟨Eq.trans hp (by rw [h.pc]), h.slotKept (e := id) (fun _ => rfl) hk.slot⟩

theorem Like.done4 (h : Like s v) : Passed s v.done4 4 ∧ SlotKept s v.done4 id := h.advance 4

theorem Like.result (h : Like s v) (d : SReg) (x : Word) : WroteS s (v.result d x) d x ∧ Passed s (v.result d x) 4 ∧ SlotKept s (v.result d x) Ctx.noS := by
  obtain ⟨hw, hp, hk⟩ := result_effect v d x
  exact ⟨fun r => (hw r).trans (by rw [h.getS]), Eq.trans hp (by rw [h.pc]), h.slotKept (e := Ctx.noS) (fun _ => rfl) hk.slot⟩

end like

/-! ### The request -/

/-- The state with other counts, and another note of late packets. -/
def State.noted (s : State) (c : List (Nat × Word)) (m : Nat) : State := { s with ctr := c, me := { s.me with overdue := m } }

/-- A request performed at its home, and its answer handled. -/
def State.served (s : State) (a : Asker) (va : Word) (loc : Nat) (op : HomeOp) (t0 lim : Nat) (f : State → Answer → State) : State :=
  (s.performHome a loc op).1.answered va loc op t0 lim (s.performHome a loc op).2 f

section request
variable {s : State} {k : AccessKind} {va : Word} {n : Nat} {p : Place}

theorem noted_like (s : State) (c : List (Nat × Word)) (m : Nat) : Like s (s.noted c m) := ⟨rfl, rfl⟩

theorem noteMig_near (h : homeOf p.loc = s.me.die) : s.noteMig p = s := by
  unfold State.noteMig
  rw [if_neg (by simp [h])]

/-- A request leaves a note of late packets only, where the access has no A or D bit to set and its home is the slot's die. -/
theorem noteRequest_near (hm : p.Marked true) (hh : homeOf p.loc = s.me.die) (op : HomeOp) : ∃ m, s.noteRequest p op = s.noted s.ctr m := by
  obtain ⟨m, hdue⟩ := noteDue_eq s p
  refine ⟨m, ?_⟩
  have hop : p.Marked op.writes := fun e he => ⟨(hm e he).1, fun _ => (hm e he).2 rfl⟩
  rw [State.noteRequest, markAccess_marked _ _ _ hop, hdue]
  exact noteMig_near hh

theorem request_near (hm : p.Marked true) (hh : homeOf p.loc = s.me.die) {op : HomeOp} (hr : s.requestRoom op = true) (t0 lim : Nat) (f : State → Answer → State) :
    ∃ m, s.request va p n op t0 lim f = (s.noted s.ctr m).served s.asker va p.loc op t0 lim f := by
  obtain ⟨m, hnote⟩ := noteRequest_near (s := s) hm hh op
  refine ⟨m, ?_⟩
  rw [request_home s va p n op t0 lim f hh hr, hnote]
  rfl

theorem countDropped_eq (s : State) (m : BitVec 16) : ∃ c, s.countDropped m = s.noted c s.me.overdue := by
  unfold State.countDropped State.count
  split
  · exact ⟨s.ctr, rfl⟩
  · exact ⟨_, rfl⟩

theorem viaHome_atHome (h : s.AtHome k va n p) (op : HomeOp) (t0 lim : Nat) (before : Before) (f : State → Answer → State) :
    s.viaHome va n n k op t0 lim before f = before p s fun s => s.request va p n op t0 lim f := by
  obtain ⟨hans, hserial, ⟨halign, hlook, -⟩, -⟩ := h
  unfold State.viaHome
  rw [hans]
  simp only [halign, hlook, ne_eq, not_true_eq_false, if_false]
  exact held_serial s _ hserial.1

theorem marked_of_atHome (h : s.AtHome .rw va n p) : p.Marked true := h.2.2.1.2.2
theorem home_of_atHome (h : s.AtHome k va n p) : homeOf p.loc = s.me.die := h.2.2.2.2.1

/-- A request with at most one write has the room that its access has. -/
theorem requestRoom_of_atHome (h : s.AtHome k va n p) {op : HomeOp} (hop : op.writes = true → op.credits = 1) : s.requestRoom op = true := by
  obtain ⟨-, -, -, -, -, hroom⟩ := h
  unfold State.requestRoom
  cases hw : op.writes with
  | false => rfl
  | true =>
    rw [hop hw, hroom]; rfl

theorem viaHome_noWait (h : s.AtHome .rw va n p) {op : HomeOp} (hr : s.requestRoom op = true) (t0 lim : Nat) (f : State → Answer → State) :
    ∃ m, s.viaHome va n n .rw op t0 lim noWait f = (s.noted s.ctr m).served s.asker va p.loc op t0 lim f := by
  rw [viaHome_atHome h]
  exact request_near (marked_of_atHome h) (home_of_atHome h) hr ..

theorem viaHome_feRelease (h : s.AtHome .rw va n p) {op : HomeOp} (hr : s.requestRoom op = true) (hs : s.settled .die s.me.dmask = true) (t0 lim : Nat)
    (f : State → Answer → State) : ∃ m, s.viaHome va n n .rw op t0 lim feRelease f = (s.noted s.ctr m).served s.asker va p.loc op t0 lim f := by
  rw [viaHome_atHome h]
  unfold feRelease
  rw [if_pos (home_of_atHome h), State.release, if_pos hs]
  exact request_near (marked_of_atHome h) (home_of_atHome h) hr ..

theorem viaHome_maskRelease (h : s.AtHome .rw va n p) {op : HomeOp} (hr : s.requestRoom op = true) (hs : s.settled .mask s.me.dmask = true) (t0 lim : Nat)
    (f : State → Answer → State) : ∃ c m, s.viaHome va n n .rw op t0 lim maskRelease f = (s.noted c m).served s.asker va p.loc op t0 lim f := by
  obtain ⟨c, hc⟩ := countDropped_eq s s.me.dmask
  rw [viaHome_atHome h]
  unfold maskRelease State.release
  rw [if_pos hs, if_pos rfl, hc]
  obtain ⟨m, hm⟩ := request_near (s := s.noted c s.me.overdue) (va := va) (n := n) (marked_of_atHome h) (home_of_atHome h) hr t0 lim f
  exact ⟨c, m, hm⟩

theorem aligned_of_atHome (h : s.AtHome k va n p) (hn : n ∣ 65536) : p.loc % n = 0 := loc_aligned h.2.2.1.2.1 hn h.2.2.1.1

/-- The bytes of an aligned operand lie in DRAM. -/
theorem dram_of_atHome (h : s.AtHome k va n p) (hn : n ∣ 65536) : ∀ a, p.loc ≤ a → a < p.loc + n → isDram a = true :=
  fun _ h1 h2 => dram_of_aligned h.2.2.2.1 hn (aligned_of_atHome h hn) h1 h2

end request

/-! ### The answer -/

section answer
variable {s v : State} {va : Word} {loc : Nat} {op : HomeOp} {t0 lim : Nat} {f : State → Answer → State}

/-- The state in which an answer is handled. -/
def State.answerless (v : State) : State := v.mapMe fun c => { c with answer := none, sent := none }

theorem Like.answerless (h : Like s v) : Like s v.answerless := h.trans (like_mapMe rfl rfl)

theorem serve_value {a : Asker} {x : Word} {fl : BitVec 6} {l : Option Nat} (h : s.performHome a loc op = (v, .value x fl l)) :
    s.served a va loc op t0 lim f = f v.answerless (.value x fl l) := by
  unfold State.served; rw [h]; rfl

theorem serve_bytes {a : Asker} {bs : List Byte} {n : Nat} {l : Bool} (h : s.performHome a loc op = (v, .bytes bs n l)) :
    s.served a va loc op t0 lim f = f v.answerless (.bytes bs n l) := by
  unfold State.served; rw [h]; rfl

theorem serve_trap {a : Asker} {code : BitVec 8} (h : s.performHome a loc op = (v, .trap code)) :
    s.served a va loc op t0 lim f = v.answerless.trap (.of code va) := by
  unfold State.served; rw [h]; rfl

theorem serve_wait {a : Asker} (h : s.performHome a loc op = (v, .wait)) :
    s.served a va loc op t0 lim f = v.answerless.waitAt op.waitFor loc t0 lim true false := by
  unfold State.served; rw [h]; rfl

theorem serve_nack {a : Asker} (h : s.performHome a loc op = (v, .nack)) (hh : homeOf loc = v.me.die) :
    s.served a va loc op t0 lim f = v.answerless.waitAt op.waitFor loc t0 lim false true := by
  unfold State.served; rw [h]
  exact if_neg fun hc => hc.1 hh

/-- An acquire of a slot that runs no chunk changes nothing. -/
theorem acquire_serial (hc : v.me.chunk = none) : v.acquire = v := squashYounger_serial hc _

/-- A wait begins at the instruction. -/
theorem waitAt_fresh (hw : v.me.wait = none) (what : WaitFor) (loc t0 lim : Nat) (entry nack : Bool) :
    v.waitAt what loc t0 lim entry nack =
      v.mapMe fun c => { c with wait := some ⟨what, loc, v.tick, t0, lim, entry, if nack then 1 else 0, v.tick + Config.nackTicks, false⟩, wend := none } := by
  unfold State.waitAt; rw [hw]

end answer

end Sys2Proof.Machine
end

section
/-! SUPPORT. Words at their home: writes, atomics, reservations and full/empty states (R173 to R183). -/

namespace Sys2Proof.Machine

/-! ### Widths -/

theorem wid_dvd (wd : Wid) : wd.bytes ∣ 65536 := by cases wd <;> decide
theorem wid_pos (wd : Wid) : 0 < 8 * wd.bytes := by cases wd <;> decide
theorem wid_le (wd : Wid) : 8 * wd.bytes ≤ 64 := by cases wd <;> decide

/-- Sign extension of the low bits of a number (R49). -/
theorem sextN_eq_ofNat {n : Nat} (x : Nat) (hn : 0 < n) (hn' : n ≤ 64) : sextN n x = (BitVec.ofNat n x).signExtend 64 := by
  have hw := sextN_eq_signExtend (word x) hn hn'
  have hx : (word x).toNat % 2 ^ n = x % 2 ^ n := by
    rw [word, BitVec.toNat_ofNat, Nat.mod_mod_of_dvd _ (pow_dvd_pow 2 hn')]
  have hs : sextN n (word x).toNat = sextN n x := by unfold sextN; simp only [hx]
  rw [← hs, hw, word, BitVec.setWidth_ofNat_of_le hn']

theorem extW_word (wd : Wid) (x : Nat) : extW wd (word x) = (BitVec.ofNat (8 * wd.bytes) x).signExtend 64 := by
  rw [extW, sextN_eq_signExtend _ (wid_pos wd) (wid_le wd), word, BitVec.setWidth_ofNat_of_le (wid_le wd)]

theorem numAt_lt_two (m : List Host.Cell) (loc n : Nat) : numAt m loc n < 2 ^ (8 * n) := by
  have := numAt_lt m loc n
  rwa [show (256 : Nat) = 2 ^ 8 from rfl, ← pow_mul] at this

/-! ### Writes -/

section write
variable {s : State} {a : Asker} {loc : Nat}

theorem homeWrite_dram (hd : isDram loc = true) (n x : Nat) : s.homeWrite a loc n x = s.writeHome loc (bytesOf n x) a.who := by
  unfold State.homeWrite
  rw [not_device_of_dram hd]
  rfl

theorem homeWrite_mem (hd : isDram loc = true) (n x : Nat) : (s.homeWrite a loc n x).mem = memWrite s.mem loc (bytesOf n x) := by
  rw [homeWrite_dram hd, writeHome_mem]

theorem homeWrite_crew (hs : s.Serial) (hd : isDram loc = true) (n x : Nat) : (s.homeWrite a loc n x).crew = s.crew := by
  rw [homeWrite_dram hd, writeHome_crew hs]

theorem homeWrite_shell (hd : isDram loc = true) (n x : Nat) : (s.homeWrite a loc n x).shell = s.shell := by
  rw [homeWrite_dram hd, writeHome_shell]

end write

/-! ### Full/empty states -/

section empties
variable {s : State}

theorem isEmpty_iff (s : State) (x : Nat) : s.isEmpty x = true ↔ x / 8 * 8 ∈ s.empties := List.contains_iff_mem

theorem isEmpty_setEmpty (loc : Nat) (e : Bool) (x : Nat) : (s.setEmpty loc e).isEmpty x = if x / 8 = loc / 8 then e else s.isEmpty x := by
  have hword : x / 8 * 8 = loc / 8 * 8 ↔ x / 8 = loc / 8 := by omega
  rw [Bool.eq_iff_iff, isEmpty_iff]
  unfold State.setEmpty
  cases e with
  | true =>
    rw [show ({ s with empties := if true = true then natAdd (loc / 8 * 8) s.empties else natDel (loc / 8 * 8) s.empties } : State).empties
      = natAdd (loc / 8 * 8) s.empties from rfl, mem_natAdd, hword, ← isEmpty_iff]
    split <;> simp [*]
  | false =>
    rw [show ({ s with empties := if false = true then natAdd (loc / 8 * 8) s.empties else natDel (loc / 8 * 8) s.empties } : State).empties
      = natDel (loc / 8 * 8) s.empties from rfl, natDel, List.mem_filter, ← isEmpty_iff, bne_iff_ne, ne_eq, hword]
    split <;> simp [*]

theorem isEmpty_congr {t : State} (h : t.empties = s.empties) (x : Nat) : t.isEmpty x = s.isEmpty x := by rw [State.isEmpty, h]; rfl

end empties

/-! ### Waiters -/

section waiters
variable {s : State}

theorem qcount_crew (hs : s.Serial) (loc : Nat) (put up : Bool) : (s.qcount loc put up).crew = s.crew := performWrite_crew hs ..
theorem qcount_shell (loc : Nat) (put up : Bool) : (s.qcount loc put up).shell = s.shell := performWrite_shell ..

theorem send_crew (p : Packet) : (s.send p).crew = s.crew := rfl

theorem wake_crew (hs : s.Serial) (loc : Nat) (p : Waiter → Bool) : (s.wake loc p).crew = s.crew := by
  unfold State.wake
  refine (foldl_crew (fun t w ht => ?_) _ (serial_mapDie hs ..)).trans (mapDie_crew ..)
  exact (send_crew _).trans (crew_of_ite (qcount_crew ht ..) rfl)

theorem empties_of_shell {t : State} (h : t.shell = s.shell) : t.empties = s.empties := (congrArg State.empties h : t.shell.empties = s.shell.empties)

theorem wake_empties (loc : Nat) (p : Waiter → Bool) : (s.wake loc p).empties = s.empties := by
  unfold State.wake
  refine (foldl_keeps State.empties _ (fun t w => ?_) _ _).trans rfl
  have hcount : (t.qcount loc w.put false).empties = t.empties := empties_of_shell (qcount_shell ..)
  dsimp only
  split
  · exact hcount
  · rfl

/-- Waking waiters of no queue changes no byte. -/
theorem wake_mem {loc : Nat} {p : Waiter → Bool} (h : ∀ w ∈ (s.die (homeOf loc)).waiters, w.loc = loc → p w = true → w.what ≠ .queue) :
    (s.wake loc p).mem = s.mem := by
  have hfold (ws : List Waiter) (hw : ∀ w ∈ ws, w.what ≠ .queue) (t : State) : (ws.foldl (fun s w =>
      let s := if w.what = .queue then s.qcount loc w.put false else s
      s.send (.wake w.die w.strand loc)) t).mem = t.mem := by
    induction ws generalizing t with
    | nil => rfl
    | cons w ws ih =>
      rw [List.foldl_cons, ih fun x hx => hw x (List.mem_cons_of_mem _ hx)]
      dsimp only
      rw [if_neg (hw w List.mem_cons_self)]
      rfl
  unfold State.wake
  refine hfold _ (fun w hw => ?_) _
  rw [List.mem_filter, Bool.and_eq_true, beq_iff_eq] at hw
  exact h w hw.1 hw.2.1 hw.2.2

end waiters

/-! ### Reservations -/

section reservations
variable {s : State}

theorem foldl_mapDie_die {g : Die → Die} (hg : ∀ y, g (g y) = g y) (l : List DieId) (s : State) (e : DieId) :
    (l.foldl (fun s d => s.mapDie d g) s).die e = if e ∈ l then g (s.die e) else s.die e := by
  induction l generalizing s with
  | nil => rfl
  | cons d l ih =>
    rw [List.foldl_cons, ih, die_mapDie]
    by_cases hd : e = d
    · subst hd
      simp [hg]
    · simp [hd]

/-- The reservations of a slot are taken out on every die. -/
def State.unreserved (s : State) (a : Asker) : State :=
  allDies.foldl (fun s d => s.mapDie d fun q => { q with resv := q.resv.filter fun r => !(r.die == a.die && r.slot == a.slot) }) s

theorem unreserved_die (s : State) (a : Asker) (e : DieId) :
    (s.unreserved a).die e = { s.die e with resv := (s.die e).resv.filter fun r => !(r.die == a.die && r.slot == a.slot) } := by
  unfold State.unreserved
  rw [foldl_mapDie_die (fun y => by simp [List.filter_filter]), if_pos (mem_allDies e)]

theorem unreserved_crew (s : State) (a : Asker) : (s.unreserved a).crew = s.crew := foldl_keeps State.crew _ (fun _ _ => mapDie_crew ..) _ _
theorem unreserved_mem (s : State) (a : Asker) : (s.unreserved a).mem = s.mem := foldl_keeps State.mem _ (by intro _ _; rfl) _ _

/-- The reservations of a slot on a die. -/
def State.resvOf (s : State) (a : Asker) (e : DieId) : List Resv := (s.die e).resv.filter fun r => r.die == a.die && r.slot == a.slot

theorem resvOf_unreserved (s : State) (a : Asker) (e : DieId) : (s.unreserved a).resvOf a e = [] := by
  unfold State.resvOf
  rw [unreserved_die, List.filter_filter, List.filter_eq_nil_iff]
  intro r _
  cases r.die == a.die && r.slot == a.slot <;> simp

theorem resvOf_fewer {t : State} {a : Asker} {e : DieId} (h : FewerResv s t) (hs : s.resvOf a e = []) : t.resvOf a e = [] :=
  List.filter_eq_nil_iff.2 fun r hr => List.filter_eq_nil_iff.1 hs r (h.resv e r hr)

theorem reserve_eq (s : State) (a : Asker) (loc : Nat) : ∃ rs, s.reserve a loc =
    ((s.unreserved a).dropResv rs).mapDie (homeOf loc) fun d => { d with resv := ⟨sectorOf loc, a.die, a.slot⟩ :: d.resv } := by
  unfold State.reserve State.unreserved
  dsimp only
  generalize allDies.foldl _ s = u
  split
  · exact ⟨[], rfl⟩
  · exact ⟨_, rfl⟩

theorem reserve_crew (s : State) (a : Asker) (loc : Nat) : (s.reserve a loc).crew = s.crew := by
  obtain ⟨rs, h⟩ := reserve_eq s a loc
  rw [h, mapDie_crew, dropResv_crew, unreserved_crew]

/-- A slot holds one reservation at most (R178). -/
theorem reserve_resvOf (s : State) (a : Asker) (loc : Nat) (e : DieId) :
    (s.reserve a loc).resvOf a e = if e = homeOf loc then [⟨sectorOf loc, a.die, a.slot⟩] else [] := by
  obtain ⟨rs, h⟩ := reserve_eq s a loc
  have hnone := resvOf_fewer (dropResv_fewerResv (s.unreserved a) rs) (resvOf_unreserved s a e)
  rw [h]
  unfold State.resvOf at hnone ⊢
  rw [die_mapDie]
  split
  next he => subst he; simp [hnone]
  next => exact hnone

end reservations

end Sys2Proof.Machine
end

section
/-! SUPPORT. Atomics, reductions and reservations on a word of the own die (R178 to R184). -/

namespace Sys2Proof.Machine

/-! ### What an operation stores -/

section apply
variable {n : Nat} (old : BitVec (8 * n)) (x : Word)

theorem sread_toNat {w : Nat} (y : BitVec w) : sread w y.toNat = y.toInt := by
  rw [sread, BitVec.toInt_eq_toNat_cond, Nat.mod_eq_of_lt y.isLt]
  split <;> split <;> omega

theorem apply_add : (AmoOp.apply .add n old.toNat x.toNat).1 = (old + x.setWidth (8 * n)).toNat := by
  simp [AmoOp.apply]
theorem apply_and : (AmoOp.apply .and n old.toNat x.toNat).1 = (old &&& x.setWidth (8 * n)).toNat := by simp [AmoOp.apply]
theorem apply_or : (AmoOp.apply .or n old.toNat x.toNat).1 = (old ||| x.setWidth (8 * n)).toNat := by simp [AmoOp.apply]
theorem apply_xor : (AmoOp.apply .xor n old.toNat x.toNat).1 = (old ^^^ x.setWidth (8 * n)).toNat := by simp [AmoOp.apply]
theorem apply_swap : (AmoOp.apply .swap n old.toNat x.toNat).1 = (x.setWidth (8 * n)).toNat := by simp [AmoOp.apply]

theorem apply_min : (AmoOp.apply .min n old.toNat x.toNat).1 = if old.toInt ≤ (x.setWidth (8 * n)).toInt then old.toNat else (x.setWidth (8 * n)).toNat := by
  simp only [AmoOp.apply, ← BitVec.toNat_setWidth, sread_toNat]
theorem apply_max : (AmoOp.apply .max n old.toNat x.toNat).1 = if old.toInt ≤ (x.setWidth (8 * n)).toInt then (x.setWidth (8 * n)).toNat else old.toNat := by
  simp only [AmoOp.apply, ← BitVec.toNat_setWidth, sread_toNat]
theorem apply_minn : (AmoOp.apply .minn n old.toNat x.toNat).1 = Min.min old.toNat (x.setWidth (8 * n)).toNat := by
  simp only [AmoOp.apply, ← BitVec.toNat_setWidth, min_def]
theorem apply_maxn : (AmoOp.apply .maxn n old.toNat x.toNat).1 = Max.max old.toNat (x.setWidth (8 * n)).toNat := by
  simp only [AmoOp.apply, ← BitVec.toNat_setWidth, max_def]

/-- The word at home as a bit vector. -/
theorem old_toNat (m : List Host.Cell) (loc n : Nat) : (BitVec.ofNat (8 * n) (numAt m loc n)).toNat = numAt m loc n := by
  rw [BitVec.toNat_ofNat, Nat.mod_eq_of_lt (numAt_lt_two ..)]

end apply

/-! ### One request of an atomic -/

section atomic
variable {s : State} {a : SReg} {wd : Wid} {p : Place}

theorem serial_noted (h : s.Serial) (c : List (Nat × Word)) (m : Nat) : (s.noted c m).Serial := h

/-- An atomic whose request is answered with a value: it goes sign-extended to sd. -/
theorem atomic_answered (h : s.AtHome .rw (s.getS a) wd.bytes p) {op : HomeOp} (hop : op.writes = true → op.credits = 1) (d : SReg) {x : Nat} {P : State → Prop}
    (hp : ∀ m, ∃ v, (s.noted s.ctr m).performHome s.asker p.loc op = (v, .value (word x) 0 none) ∧ v.crew = (s.noted s.ctr m).crew ∧ P v) :
    ∃ v t, P v ∧ s.atomic d a wd op = .next t ∧ t.outside = v.outside ∧ WroteS s t d ((BitVec.ofNat (8 * wd.bytes) x).signExtend 64)
      ∧ Passed s t 4 ∧ SlotKept s t Ctx.noS := by
  unfold State.atomic
  obtain ⟨m, hm⟩ := viaHome_noWait (t0 := s.tick) (lim := 0) h (requestRoom_of_atHome h hop)
    (fun s y => s.withValue (s.getS a) y (fun s v => s.result d (extW wd v)) op.loads)
  obtain ⟨v, hv, hc, hP⟩ := hp m
  have hlike : Like s v.answerless := ((noted_like ..).trans (like_of_crew hc)).answerless
  obtain ⟨hw, hpass, hkept⟩ := hlike.result d (extW wd (word x))
  refine ⟨v, v.answerless.result d (extW wd (word x)), hP, ?_, (result_effect v.answerless d _).2.2.outside, ?_, hpass, hkept⟩
  · rw [hm, serve_value hv, State.withValue]
    rw [orFlags_zero]
  · rwa [← extW_word]

theorem amo_performed {asker : Asker} {loc n old : Nat} (h : s.homeNum loc n = (old, none)) (o : AmoOp) (x : Word) :
    s.performHome asker loc (.amo o n x) = (s.homeWrite asker loc n (o.apply n old x.toNat).1, .value (word old) (o.apply n old x.toNat).2 none) := by
  unfold State.performHome; simp only [h]

theorem noted_homeNum (h : s.AtHome .rw (s.getS a) wd.bytes p) (hs : s.Sound p.loc wd.bytes) (c : List (Nat × Word)) (m : Nat) :
    (s.noted c m).homeNum p.loc wd.bytes = (numAt s.mem p.loc wd.bytes, none) :=
  homeNum_of_sound (s := s.noted c m) (fun x h1 h2 => not_device_of_dram (dram_of_atHome h (wid_dvd wd) x h1 h2)) hs

theorem mem_of_outside {t v : State} (h : t.outside = v.outside) : t.mem = v.mem := (congrArg State.mem h : t.outside.mem = v.outside.mem)
theorem dies_of_outside {t v : State} (h : t.outside = v.outside) : t.dies = v.dies := (congrArg State.dies h : t.outside.dies = v.outside.dies)

/-- An atomic of no flags stores its result and returns the old word. -/
theorem amo_updates (h : s.AtHome .rw (s.getS a) wd.bytes p) (hs : s.Sound p.loc wd.bytes) (hm : s.MemOk) (d b : SReg) {o : AmoOp}
    (ho : ∀ y z, (o.apply wd.bytes y z).2 = 0) :
    ∃ t, s.amo o d a b wd = .next t ∧ Stored s t p.loc wd.bytes (o.apply wd.bytes (numAt s.mem p.loc wd.bytes) (s.getS b).toNat).1
      ∧ WroteS s t d ((BitVec.ofNat (8 * wd.bytes) (numAt s.mem p.loc wd.bytes)).signExtend 64) ∧ Passed s t 4 ∧ SlotKept s t Ctx.noS := by
  have hd : isDram p.loc = true := h.2.2.2.1
  obtain ⟨v, t, hv, hx, ho', hw, hp, hk⟩ := atomic_answered h (op := .amo o wd.bytes (s.getS b)) (fun _ => rfl) d
    (P := fun v => v.mem = memWrite s.mem p.loc (bytesOf wd.bytes (o.apply wd.bytes (numAt s.mem p.loc wd.bytes) (s.getS b).toNat).1)) fun m =>
    ⟨_, by rw [amo_performed (noted_homeNum h hs s.ctr m), ho], homeWrite_crew (serial_noted h.2.1 ..) hd _ _, homeWrite_mem hd _ _⟩
  exact ⟨t, hx, stored_of_mem hm ((mem_of_outside ho').trans hv), hw, hp, hk⟩

/-- The slot after a result with flags. -/
theorem Like.flaggedResult {v : State} (h : Like s v) (fl : BitVec 6) (d : SReg) (x : Word) :
    let t := (v.orFlags fl).result d x
    WroteS s t d x ∧ t.me.img.flags = s.me.img.flags ||| fl ∧ Passed s t 4 ∧ SlotKept s t (Ctx.noS ∘ Ctx.noFlags) := by
  obtain ⟨hw, hp, hk⟩ := result_effect (v.orFlags fl) d x
  have hflags : ((v.orFlags fl).result d x).me.img.flags = v.me.img.flags ||| fl :=
    (congrArg (fun c => c.img.flags) hk.slot : ((v.orFlags fl).result d x).me.still.noS.img.flags = (v.orFlags fl).me.still.noS.img.flags)
  refine ⟨fun r => (hw r).trans ?_, hflags.trans (by rw [h.img]), Eq.trans hp (congrArg (· + word 4) h.pc), ?_⟩
  · rw [show (v.orFlags fl).getS r = v.getS r from rfl, h.getS]
  · refine h.slotKept (e := Ctx.noS ∘ Ctx.noFlags) (fun _ => rfl) ?_
    exact (congrArg Ctx.noFlags hk.slot : ((v.orFlags fl).result d x).me.still.noS.noFlags = (v.orFlags fl).me.still.noS.noFlags)

theorem fadd_updates (h : s.AtHome .rw (s.getS a) wd.bytes p) (hs : s.Sound p.loc wd.bytes) (hm : s.MemOk) (d b : SReg) :
    let old := numAt s.mem p.loc wd.bytes
    let r := AmoOp.apply .fadd wd.bytes old (s.getS b).toNat
    ∃ t, s.amo .fadd d a b wd = .next t ∧ Stored s t p.loc wd.bytes r.1 ∧ WroteS s t d ((BitVec.ofNat (8 * wd.bytes) old).signExtend 64)
      ∧ t.me.img.flags = s.me.img.flags ||| r.2 ∧ Passed s t 4 ∧ SlotKept s t (Ctx.noS ∘ Ctx.noFlags) := by
  intro old r
  have hd : isDram p.loc = true := h.2.2.2.1
  unfold State.amo State.atomic
  obtain ⟨m, hreq⟩ := viaHome_noWait (t0 := s.tick) (lim := 0) h (op := .amo .fadd wd.bytes (s.getS b)) (requestRoom_of_atHome h fun _ => rfl)
    (fun s y => s.withValue (s.getS a) y (fun s v => s.result d (extW wd v)) (HomeOp.amo .fadd wd.bytes (s.getS b)).loads)
  set v := (s.noted s.ctr m).homeWrite s.asker p.loc wd.bytes r.1 with hv
  have hlike : Like s v.answerless := ((noted_like s s.ctr m).trans (like_of_crew (homeWrite_crew (serial_noted h.2.1 ..) hd _ _))).answerless
  obtain ⟨hw, hfl, hpass, hkept⟩ := hlike.flaggedResult r.2 d (extW wd (word old))
  refine ⟨(v.answerless.orFlags r.2).result d (extW wd (word old)), ?_, ?_, ?_, hfl, hpass, hkept⟩
  · refine congrArg _ (hreq.trans ?_)
    rw [serve_value (amo_performed (noted_homeNum h hs s.ctr m) ..)]
    rfl
  · refine stored_of_mem hm ?_
    exact (mem_of_outside (result_effect (v.answerless.orFlags r.2) d _).2.2.outside).trans (homeWrite_mem hd ..)
  · rwa [← extW_word]

/-- An fadd under DET traps once its address has passed its checks. -/
theorem detTrap_reached {va : Word} (h : s.Reaches .rw 0 va wd.bytes p) : s.detTrap va wd = s.trap (.of cDET_VIOLATION (s.me.iword.setWidth 64)) := by
  obtain ⟨ha, hl, -⟩ := h
  unfold State.detTrap
  simp only [ha, hl, ne_eq, not_true_eq_false, if_false]

end atomic

/-- Settles O17: each form is one `amo` request at home (`amo_updates`), with the value its operation gives. -/
theorem atomicUpdates : Obligations.AtomicUpdates := by
  unfold Obligations.AtomicUpdates
  intro d a b wd s p n old x h hs hm updates
  have hold : old.toNat = numAt s.mem p.loc n := old_toNat ..
  have hupd {i : Instr} {v : BitVec (8 * n)} {o : AmoOp} (hi : exec i s = s.amo o d a b wd) (ho : ∀ y z, (o.apply n y z).2 = 0)
      (hv : (o.apply n old.toNat (s.getS b).toNat).1 = v.toNat) : updates i v := by
    obtain ⟨t, ht, hst, hrest⟩ := amo_updates h hs hm d b ho
    rw [hold] at hv
    exact ⟨t, hi.trans ht, hv ▸ hst, hrest⟩
  have hzero {y : Nat} : (y, (0 : BitVec 6)).2 = 0 := rfl
  refine ⟨hupd rfl (fun _ _ => rfl) (apply_add ..), hupd rfl (fun _ _ => rfl) (apply_and ..), hupd rfl (fun _ _ => rfl) (apply_or ..),
    hupd rfl (fun _ _ => rfl) (apply_xor ..), hupd rfl (fun _ _ => rfl) ?_, hupd rfl (fun _ _ => rfl) ?_, hupd rfl (fun _ _ => rfl) ?_, hupd rfl (fun _ _ => rfl) ?_,
    hupd rfl (fun _ _ => rfl) (apply_swap ..), fun hdet => ?_, fun hdet => ?_⟩
  · rw [apply_min, apply_ite BitVec.toNat]
  · rw [apply_max, apply_ite BitVec.toNat]
  · rw [apply_minn, apply_ite BitVec.toNat, min_def]
  · rw [apply_maxn, apply_ite BitVec.toNat, max_def]
  · obtain ⟨t, ht, hst, hw, hfl, hrest⟩ := fadd_updates h hs hm d b
    have hr : AmoOp.apply .fadd n (numAt s.mem p.loc n) (s.getS b).toNat = (if wd = .w then ff32 else ff64).add 0 old.toNat x.toNat := by
      rw [hold, AmoOp.apply, show x.toNat = (s.getS b).toNat % 2 ^ (8 * n) from BitVec.toNat_setWidth ..]
      cases wd <;> rfl
    refine ⟨t, (if_neg ?_).trans ht, hr ▸ hst, hw, hr ▸ hfl, hrest⟩
    simp [hdet]
  · refine (if_pos ?_).trans (congrArg _ (detTrap_reached h.2.2.1))
    simp [hdet, h.1]

end Sys2Proof.Machine
end

section
/-! SUPPORT. Compare and swap, reservations, reductions and full/empty operations on the own die (R173 to R184). -/

namespace Sys2Proof.Machine

/-! ### Reservations -/

section reservations
variable {s : State} {a : SReg} {wd : Wid} {p : Place}

theorem cas_performed {u : State} {asker : Asker} {loc n old : Nat} (h : u.homeNum loc n = (old, none)) (cmp new : Word) :
    u.performHome asker loc (.cas n cmp new) =
      (if old = cmp.toNat % 2 ^ (8 * n) then u.homeWrite asker loc n new.toNat else u, .value (word old) 0 none) := by
  unfold State.performHome
  simp only [h]
  split <;> rfl

theorem lr_performed {u : State} {asker : Asker} {loc n old : Nat} (h : u.homeNum loc n = (old, none)) :
    u.performHome asker loc (.lr n) = (u.reserve asker loc, .value (word old) 0 none) := by
  unfold State.performHome; simp only [h]

theorem sc_performed {u : State} {asker : Asker} {loc n : Nat} (x : Word) {b : Bool}
    (hb : ((u.die (homeOf loc)).resv.any fun r => r.die == asker.die && r.slot == asker.slot && r.sector == sectorOf loc) = b) :
    u.performHome asker loc (.sc n x) = (if b then (u.unreserved asker).homeWrite asker loc n x.toNat else u.unreserved asker,
      .value (word (if b then 0 else 1)) 0 none) := by
  unfold State.performHome State.unreserved
  simp only [hb]
  cases b <;> rfl

/-- The word equals a value's low bits. -/
theorem ofNat_eq_setWidth {n x : Nat} {y : Word} (hx : x < 2 ^ (8 * n)) : BitVec.ofNat (8 * n) x = y.setWidth (8 * n) ↔ x = y.toNat % 2 ^ (8 * n) := by
  rw [← BitVec.toNat_inj, BitVec.toNat_ofNat, BitVec.toNat_setWidth, Nat.mod_eq_of_lt hx]

theorem resv_any_iff {l : List Resv} {sector : Nat} {d : DieId} {k : SlotNo} :
    (l.any fun r => r.die == d && r.slot == k && r.sector == sector) = true ↔ (⟨sector, d, k⟩ : Resv) ∈ l := by
  rw [List.any_eq_true]
  constructor
  · rintro ⟨r, hr, h⟩
    simp only [Bool.and_eq_true, beq_iff_eq] at h
    obtain ⟨⟨rfl, rfl⟩, rfl⟩ := h
    exact hr
  · exact fun h => ⟨_, h, by simp⟩

theorem resvOf_of_outside {t v : State} (h : t.outside = v.outside) (asker : Asker) (e : DieId) : t.resvOf asker e = v.resvOf asker e := by
  unfold State.resvOf State.die
  rw [dies_of_outside h]

/-- An `sc`: what it stores, its status, and that no reservation of the slot is left. -/
theorem sc_updates (h : s.AtHome .rw (s.getS a) wd.bytes p) (d b : SReg) {held : Bool}
    (hb : ((s.die s.me.die).resv.any fun r => r.die == s.me.die && r.slot == s.me.slot && r.sector == sectorOf p.loc) = held) :
    ∃ t, exec (.sc d a b wd) s = .next t ∧ t.mem = (if held then memWrite s.mem p.loc (bytesOf wd.bytes (s.getS b).toNat) else s.mem)
      ∧ WroteS s t d ((BitVec.ofNat (8 * wd.bytes) (if held then 0 else 1)).signExtend 64) ∧ Passed s t 4 ∧ SlotKept s t Ctx.noS
      ∧ ∀ e, t.resvOf s.asker e = [] := by
  have hd : isDram p.loc = true := h.2.2.2.1
  have hheld : ∀ m, (((s.noted s.ctr m).die (homeOf p.loc)).resv.any fun r => r.die == s.asker.die && r.slot == s.asker.slot && r.sector == sectorOf p.loc) = held := by
    rw [home_of_atHome h]
    exact fun _ => hb
  obtain ⟨v, t, ⟨hmem, hresv⟩, hx, hout, hw, hp, hk⟩ := atomic_answered h (op := .sc wd.bytes (s.getS b)) (fun _ => rfl) d (x := if held then 0 else 1)
    (P := fun v => v.mem = (if held then memWrite s.mem p.loc (bytesOf wd.bytes (s.getS b).toNat) else s.mem) ∧ ∀ e, v.resvOf s.asker e = []) fun m => by
      have hcrew : ((s.noted s.ctr m).unreserved s.asker).crew = (s.noted s.ctr m).crew := unreserved_crew ..
      have hmem : ((s.noted s.ctr m).unreserved s.asker).mem = s.mem := unreserved_mem ..
      refine ⟨_, sc_performed _ (hheld m), ?_, ?_, fun e => ?_⟩
      · cases held
        · exact hcrew
        · exact (homeWrite_crew (serial_of_crew hcrew (serial_noted h.2.1 ..)) hd _ _).trans hcrew
      · cases held
        · exact hmem
        · exact (homeWrite_mem hd _ _).trans (by rw [hmem]; rfl)
      · cases held
        · exact resvOf_unreserved ..
        · refine resvOf_fewer ?_ (resvOf_unreserved (s.noted s.ctr m) s.asker e)
          rw [if_pos rfl, homeWrite_dram hd]
          exact writeHome_fewerResv ..
  exact ⟨t, hx, (mem_of_outside hout).trans hmem, hw, hp, hk, fun e => (resvOf_of_outside hout ..).trans (hresv e)⟩

end reservations

/-- Settles O19: `cas`, `lr` and `sc` are each one request at home (`atomic_answered`). -/
theorem compareSwapAndReservations : Obligations.CompareSwapAndReservations := by
  unfold Obligations.CompareSwapAndReservations
  intro d a b wd s p n old home mine hm
  have hlt : numAt s.mem p.loc n < 2 ^ (8 * n) := numAt_lt_two ..
  have hcas (h : s.AtHome .rw (s.getS a) n p) (hs : s.Sound p.loc n) : ∃ t, exec (.cas d a b wd) s = .next t
      ∧ t.mem = (if old = (s.getS d).setWidth (8 * n) then memWrite s.mem p.loc (bytesOf n (s.getS b).toNat) else s.mem)
      ∧ WroteS s t d (old.signExtend 64) ∧ Passed s t 4 ∧ SlotKept s t Ctx.noS := by
    have hd : isDram p.loc = true := h.2.2.2.1
    obtain ⟨v, t, hmem, hx, hout, hrest⟩ := atomic_answered h (op := .cas n (s.getS d) (s.getS b)) (fun _ => rfl) d
      (P := fun v => v.mem = if old = (s.getS d).setWidth (8 * n) then memWrite s.mem p.loc (bytesOf n (s.getS b).toNat) else s.mem)
      fun m => by
        refine ⟨_, cas_performed (noted_homeNum h hs s.ctr m) .., ?_, ?_⟩
        · split
          · exact homeWrite_crew (serial_noted h.2.1 ..) hd _ _
          · rfl
        · simp only [old, ofNat_eq_setWidth hlt]
          split
          · exact homeWrite_mem hd _ _
          · rfl
    exact ⟨t, hx, (mem_of_outside hout).trans hmem, hrest⟩
  refine ⟨fun h hs => ⟨fun heq => ?_, fun hne => ?_⟩, fun h hs => ?_, fun h => ⟨fun hin => ?_, fun hout => ?_⟩⟩
  · obtain ⟨t, hx, hmem, hrest⟩ := hcas h hs
    rw [if_pos heq] at hmem
    exact ⟨t, hx, stored_of_mem hm hmem, hrest⟩
  · obtain ⟨t, hx, hmem, hrest⟩ := hcas h hs
    rw [if_neg hne] at hmem
    exact ⟨t, hx, sameMemory_of_mem hmem, hrest⟩
  · obtain ⟨v, t, ⟨hmem, hresv⟩, hx, hout, hw, hp, hk⟩ := atomic_answered h (op := .lr n) (fun h => absurd h Bool.false_ne_true) d
      (P := fun v => v.mem = s.mem ∧ ∀ e, v.resvOf s.asker e = if e = homeOf p.loc then [⟨sectorOf p.loc, s.asker.die, s.asker.slot⟩] else [])
      fun m => ⟨_, lr_performed (noted_homeNum h hs s.ctr m), reserve_crew .., reserve_mem .., fun e => reserve_resvOf ..⟩
    refine ⟨t, hx, sameMemory_of_mem ((mem_of_outside hout).trans hmem), hw, hp, hk, fun e => ?_⟩
    rw [home_of_atHome h] at hresv
    exact (resvOf_of_outside hout ..).trans (hresv e)
  · obtain ⟨t, hx, hmem, hw, hp, hk, hresv⟩ := sc_updates h d b (resv_any_iff.2 hin)
    refine ⟨t, hx, stored_of_mem hm hmem, ?_, hp, hk, hresv⟩
    rwa [show (BitVec.ofNat (8 * wd.bytes) (if true = true then 0 else 1)).signExtend 64 = 0 by cases wd <;> decide] at hw
  · obtain ⟨t, hx, hmem, hw, hp, hk, hresv⟩ := sc_updates h d b (Bool.eq_false_iff.2 fun hc => hout (resv_any_iff.1 hc))
    refine ⟨t, hx, sameMemory_of_mem hmem, ?_, hp, hk, hresv⟩
    rwa [show (BitVec.ofNat (8 * wd.bytes) (if false = true then 0 else 1)).signExtend 64 = 1 by cases wd <;> decide] at hw

/-- Settles O20: without a reservation the instruction is over, with one its wait begins. -/
theorem reservationWait : Obligations.ReservationWait := by
  unfold Obligations.ReservationWait
  intro s hc
  have hx : exec .wres s = .next (if s.reserved s.me then s.waitAt .reservation 0 s.tick 0 false false else s.done4) := congrArg _ (held_serial s _ hc)
  refine ⟨fun hr => ?_, fun hr hw => ?_⟩
  · rw [hr] at hx
    exact ⟨_, hx, advance_keeps s 4 id⟩
  · rw [hr, if_pos rfl, waitAt_fresh hw] at hx
    exact ⟨_, hx, rfl, keeps_mapMe s _ id rfl, _, rfl, rfl⟩

end Sys2Proof.Machine
end

section
/-! SUPPORT. Full/empty operations on a word of the own die (R173 to R175). -/

namespace Sys2Proof.Machine

section fullEmpty
variable {s v : State} {loc : Nat} {asker : Asker}

/-- The state of one word is set, those of the others stay. -/
def State.SetsState (s t : State) (loc : Nat) (e : Bool) : Prop := ∀ x, t.isEmpty x = if x / 8 = loc / 8 then e else s.isEmpty x

theorem isEmpty_same {x : Nat} (h : x / 8 = loc / 8) : s.isEmpty x = s.isEmpty loc := by
  unfold State.isEmpty; rw [h]

theorem setsState_self {e : Bool} {t : State} (h : t.empties = s.empties) (he : s.isEmpty loc = e) : s.SetsState t loc e := fun x => by
  rw [isEmpty_congr h]
  split
  next hx => rw [isEmpty_same hx, he]
  next => rfl

theorem setsState_of {e : Bool} {t u : State} (h : t.empties = (u.setEmpty loc e).empties) (hu : u.empties = s.empties) : s.SetsState t loc e := fun x => by
  rw [isEmpty_congr h, isEmpty_setEmpty, isEmpty_congr hu]

/-- Waking those who wait for a word's state. -/
def State.wakeFe (s : State) (loc : Nat) : State := s.wake loc fun w => w.what == .fullEmpty

theorem wakeFe_mem (s : State) (loc : Nat) : (s.wakeFe loc).mem = s.mem := by
  refine wake_mem fun w _ _ hw => ?_
  rw [beq_iff_eq.1 hw]
  decide

theorem ldFe_performed {x : Nat} (h : s.homeNum loc 8 = (x, none)) (he : s.isEmpty loc = false) :
    s.performHome asker loc .ldFe = ((s.setEmpty loc true).wakeFe loc, .value (word x) 0 none) := by
  unfold State.performHome
  simp only [h, he]
  rfl

theorem ldFf_performed {x : Nat} (h : s.homeNum loc 8 = (x, none)) (he : s.isEmpty loc = false) :
    s.performHome asker loc .ldFf = (s, .value (word x) 0 none) := by
  unfold State.performHome
  simp only [h, he]
  rfl

theorem stFe_performed {y : Nat} (h : s.homeNum loc 8 = (y, none)) (he : s.isEmpty loc = true) (x : Word) :
    s.performHome asker loc (.stFe x) = (((s.homeWrite asker loc 8 x.toNat).setEmpty loc false).wakeFe loc, .value 0 0 none) := by
  unfold State.performHome
  simp only [h, he]
  rfl

theorem feSet_performed : s.performHome asker loc .feSet =
    (if s.isEmpty loc then (s.setEmpty loc false).wakeFe loc else s.setEmpty loc false, .value 0 0 none) := rfl

theorem feClr_performed : s.performHome asker loc .feClr =
    (if !s.isEmpty loc then (s.setEmpty loc true).wakeFe loc else s.setEmpty loc true, .value 0 0 none) := rfl

end fullEmpty

/-! ### What the slot sees of an answer -/

section answered
variable {s r : State} {va : Word} {loc : Nat} {op : HomeOp} {t0 lim : Nat} {u v : State} {asker : Asker} {g : State → Answer → State}

/-- A request answered with a value that completes the instruction. -/
theorem served_done4 {x : Word} (hu : Like s u) (hr : r = u.served asker va loc op t0 lim g) (hv : u.performHome asker loc op = (v, .value x 0 none))
    (hc : v.crew = u.crew) (hg : g v.answerless (.value x 0 none) = v.answerless.done4) : r.outside = v.outside ∧ Passed s r 4 ∧ SlotKept s r id := by
  have hlike : Like s v.answerless := (hu.trans (like_of_crew hc)).answerless
  obtain rfl : r = v.answerless.done4 := hr.trans ((serve_value hv).trans hg)
  exact ⟨(advance_keeps v.answerless 4 id).2.outside, hlike.done4⟩

/-- A request answered with a value that goes to sd. -/
theorem served_result {x y : Word} {d : SReg} (hu : Like s u) (hr : r = u.served asker va loc op t0 lim g) (hv : u.performHome asker loc op = (v, .value x 0 none))
    (hc : v.crew = u.crew) (hg : g v.answerless (.value x 0 none) = v.answerless.result d y) :
    r.outside = v.outside ∧ WroteS s r d y ∧ Passed s r 4 ∧ SlotKept s r Ctx.noS := by
  have hlike : Like s v.answerless := (hu.trans (like_of_crew hc)).answerless
  obtain rfl : r = v.answerless.result d y := hr.trans ((serve_value hv).trans hg)
  exact ⟨(result_effect v.answerless d y).2.2.outside, hlike.result d y⟩

theorem withValue_plain (va : Word) (x : Word) (g : State → Word → State) (b : Bool) : s.withValue va (.value x 0 none) g b = g s x := by
  rw [State.withValue, orFlags_zero]

theorem empties_of_outside {t : State} (h : t.outside = v.outside) : t.empties = v.empties := (congrArg State.empties h : t.outside.empties = v.outside.empties)

end answered

/-- Settles O15: each form is one request at home; its answer completes it (`served_result`, `served_done4`). -/
theorem fullEmptyOperations : Obligations.FullEmptyOperations := by
  unfold Obligations.FullEmptyOperations
  intro d a b s p h hs hm states settled
  have hd : isDram p.loc = true := h.2.2.2.1
  have hser : s.Serial := h.2.1
  have hnum (m : Nat) : (s.noted s.ctr m).homeNum p.loc 8 = (numAt s.mem p.loc 8, none) :=
    homeNum_of_sound (s := s.noted s.ctr m) (fun x h1 h2 => not_device_of_dram (dram_of_atHome h (by decide) x h1 h2)) hs
  have hacquire {v : State} {m : Nat} (hc : v.crew = (s.noted s.ctr m).crew) : v.answerless.acquire = v.answerless :=
    acquire_serial (((noted_like s s.ctr m).trans (like_of_crew hc)).answerless.chunk hser.1)
  have hwake {u : State} (hu : u.Serial) (e : Bool) : ((u.setEmpty p.loc e).wakeFe p.loc).crew = u.crew := wake_crew (s := u.setEmpty p.loc e) hu ..
  have hn (m : Nat) : Like s (s.noted s.ctr m) := noted_like ..
  have hsn (m : Nat) : (s.noted s.ctr m).Serial := hser
  have hwoken {u t : State} {c : Prop} [Decidable c] {e : Bool} (hout : t.outside = (if c then (u.setEmpty p.loc e).wakeFe p.loc else u.setEmpty p.loc e).outside)
      (hmem : u.mem = s.mem) (hu : u.empties = s.empties) : states t e ∧ SameMemory s t := by
    split at hout
    · exact ⟨setsState_of ((empties_of_outside hout).trans (wake_empties ..)) hu, sameMemory_of_mem ((mem_of_outside hout).trans ((wakeFe_mem ..).trans hmem))⟩
    · exact ⟨setsState_of (empties_of_outside hout) hu, sameMemory_of_mem ((mem_of_outside hout).trans hmem)⟩
  refine ⟨fun he => ⟨⟨_, rfl, ?_⟩, ⟨_, rfl, ?_⟩⟩, fun he hset => ⟨_, rfl, ?_⟩, fun hset => ⟨_, rfl, ?_⟩, ⟨_, rfl, ?_⟩⟩
  · obtain ⟨m, hreq⟩ := viaHome_noWait (op := .ldFe) (t0 := s.tick) (lim := 0) h (requestRoom_of_atHome h fun _ => rfl)
      (fun s x => s.withValue (s.getS a) x fun s v => s.acquire.result d v)
    have hc := hwake (hsn m) true
    obtain ⟨hout, hw, hp, hk⟩ := served_result (hn m) hreq (ldFe_performed (hnum m) he) hc (by rw [withValue_plain, hacquire hc])
    refine ⟨hw, setsState_of ((empties_of_outside hout).trans (wake_empties ..)) rfl, ?_, hp, hk⟩
    exact sameMemory_of_mem ((mem_of_outside hout).trans (wakeFe_mem ..))
  · obtain ⟨m, hreq⟩ := viaHome_noWait (op := .ldFf) (t0 := s.tick) (lim := 0) h (requestRoom_of_atHome h fun h => absurd h Bool.false_ne_true)
      (fun s x => s.withValue (s.getS a) x fun s v => s.acquire.result d v)
    obtain ⟨hout, hw, hp, hk⟩ := served_result (hn m) hreq (ldFf_performed (hnum m) he) rfl (by rw [withValue_plain, hacquire (m := m) rfl])
    exact ⟨hw, setsState_self (empties_of_outside hout) he, sameMemory_of_mem (mem_of_outside hout), hp, hk⟩
  · obtain ⟨m, hreq⟩ := viaHome_feRelease (op := .stFe (s.getS b)) (t0 := s.tick) (lim := 0) h (requestRoom_of_atHome h fun _ => rfl) hset (fun s _ => s.done4)
    have hwrite := homeWrite_crew (a := s.asker) (hsn m) hd 8 (s.getS b).toNat
    obtain ⟨hout, hp, hk⟩ := served_done4 (hn m) hreq (stFe_performed (hnum m) he _) ((hwake (serial_of_crew hwrite (hsn m)) false).trans hwrite) rfl
    refine ⟨stored_of_mem hm ?_, setsState_of ((empties_of_outside hout).trans (wake_empties ..)) (empties_of_shell (homeWrite_shell hd ..)), hp, hk⟩
    exact (mem_of_outside hout).trans ((wakeFe_mem ..).trans (homeWrite_mem hd ..))
  · obtain ⟨m, hreq⟩ := viaHome_feRelease (op := .feSet) (t0 := s.tick) (lim := 0) h (requestRoom_of_atHome h fun _ => rfl) hset (fun s _ => s.done4)
    obtain ⟨hout, hp, hk⟩ := served_done4 (hn m) hreq feSet_performed (crew_of_ite (hwake (hsn m) false) rfl) rfl
    obtain ⟨hst, hmem⟩ := hwoken hout rfl rfl
    exact ⟨hst, hmem, hp, hk⟩
  · obtain ⟨m, hreq⟩ := viaHome_noWait (op := .feClr) (t0 := s.tick) (lim := 0) h (requestRoom_of_atHome h fun _ => rfl) (fun s _ => s.acquire.done4)
    have hc := crew_of_ite (p := (!(s.noted s.ctr m).isEmpty p.loc) = true) (hwake (hsn m) true) (rfl : ((s.noted s.ctr m).setEmpty p.loc true).crew = _)
    obtain ⟨hout, hp, hk⟩ := served_done4 (hn m) hreq feClr_performed hc (by rw [hacquire hc])
    obtain ⟨hst, hmem⟩ := hwoken hout rfl rfl
    exact ⟨hst, hmem, hp, hk⟩

/-! ### Waiting for a word's state -/

section wait
variable {s : State} {loc : Nat} {asker : Asker} {what : WaitFor} {put : Bool}

/-- A waiter registered at its home. -/
def State.enrolled (s : State) (w : Waiter) : State := s.mapDie (homeOf w.loc) fun d => { d with waiters := d.waiters ++ [w] }

theorem enrolled_waiters (s : State) (w : Waiter) : ((s.enrolled w).die (homeOf w.loc)).waiters = (s.die (homeOf w.loc)).waiters ++ [w] := by
  rw [State.enrolled, die_mapDie_self]

/-- A request that must wait is registered while its slice's table has room, and refused otherwise. -/
theorem mustWait_cases (h : ∀ w ∈ (s.die (homeOf loc)).waiters, ¬ (w.strand = asker.strand ∧ w.loc = loc)) (hw : what ≠ .queue) :
    let mine := (s.die (homeOf loc)).waiters.filter fun w => s.slice w.loc == s.slice loc
    (mine.length < 64 → s.mustWait asker what put loc = (s.enrolled ⟨what, put, loc, asker.die, asker.strand⟩, .wait))
    ∧ (64 ≤ mine.length → s.mustWait asker what put loc = (s, .nack)) := by
  intro mine
  have hany : ((s.die (homeOf loc)).waiters.any fun x => x.strand == asker.strand && x.loc == loc) = false :=
    List.any_eq_false.2 fun w hw' => by simpa using h w hw'
  have hadd : s.addWaiter ⟨what, put, loc, asker.die, asker.strand⟩ = if mine.length < 64 then
      (s.enrolled ⟨what, put, loc, asker.die, asker.strand⟩, true) else (s, false) := by
    unfold State.addWaiter
    dsimp only
    rw [hany, if_neg Bool.false_ne_true, if_neg hw]
    rfl
  refine ⟨fun hlt => ?_, fun hge => ?_⟩
  · rw [State.mustWait, hadd, if_pos hlt]; rfl
  · rw [State.mustWait, hadd, if_neg (by omega)]; rfl

/-- The state of a slot that begins to wait at home, and of one that asks again (R175). -/
def State.waiting (v : State) (what : WaitFor) (loc t0 lim : Nat) (entry : Bool) : State :=
  v.answerless.mapMe fun c =>
    { c with wait := some ⟨what, loc, v.tick, t0, lim, entry, if entry then 0 else 1, v.tick + Config.nackTicks, false⟩, wend := none }

theorem Like.waiting {v : State} (h : Like s v) (what : WaitFor) (loc t0 lim : Nat) (entry : Bool) : Like s (v.waiting what loc t0 lim entry) :=
  h.answerless.trans (like_mapMe rfl rfl)

theorem enrolled_like (s : State) (w : Waiter) : Like s (s.enrolled w) := ⟨rfl, rfl⟩

theorem served_wait {v : State} {va : Word} {op : HomeOp} {t0 lim : Nat} {g : State → Answer → State} (h : s.performHome asker loc op = (v, .wait))
    (hw : v.me.wait = none) : s.served asker va loc op t0 lim g = v.waiting op.waitFor loc t0 lim true :=
  (serve_wait h).trans (waitAt_fresh (v := v.answerless) hw ..)

theorem served_nack {v : State} {va : Word} {op : HomeOp} {t0 lim : Nat} {g : State → Answer → State} (h : s.performHome asker loc op = (v, .nack))
    (hh : homeOf loc = v.me.die) (hw : v.me.wait = none) : s.served asker va loc op t0 lim g = v.waiting op.waitFor loc t0 lim false :=
  (serve_nack h hh).trans (waitAt_fresh (v := v.answerless) hw ..)

end wait

/-- Settles O16: the request must wait at home (`mustWait_cases`), and the wait begins at the instruction. -/
theorem fullEmptyWaits : Obligations.FullEmptyWaits := by
  unfold Obligations.FullEmptyWaits
  intro d a b s p h hw d0 mine waits
  have hh : homeOf p.loc = d0 := home_of_atHome h
  have hwaits (op : HomeOp) (before : Before) (g : State → Answer → State) (i : Instr) (hop : op.waitFor = .fullEmpty)
      (hx : exec i s = .next (s.viaHome (s.getS a) 8 8 .rw op s.tick 0 before g))
      (hreq : ∃ m, s.viaHome (s.getS a) 8 8 .rw op s.tick 0 before g = (s.noted s.ctr m).served s.asker (s.getS a) p.loc op s.tick 0 g)
      (hperf : ∀ m, (s.noted s.ctr m).performHome s.asker p.loc op = (s.noted s.ctr m).mustWait s.asker .fullEmpty false p.loc) : waits i := by
    intro hfree
    obtain ⟨m, hreq⟩ := hreq
    obtain ⟨hwait, hnack⟩ := mustWait_cases (s := s.noted s.ctr m) (loc := p.loc) (asker := s.asker) (what := .fullEmpty) (put := false)
      (fun w hw hc => hfree w (hh ▸ hw) hc.1) (by decide)
    have hten := enrolled_waiters (s.noted s.ctr m) ⟨.fullEmpty, false, p.loc, d0, s.me.strand⟩
    rw [hh] at hwait hnack hten
    by_cases hlen : mine.length < 64
    · have hserved := served_wait (t0 := s.tick) (lim := 0) (va := s.getS a) (g := g) ((hperf m).trans (hwait hlen)) hw
      rw [hop] at hserved
      refine ⟨_, hx.trans (congrArg _ (hreq.trans hserved)), ?_⟩
      have hlike : Like s ((s.noted s.ctr m).enrolled ⟨.fullEmpty, false, p.loc, d0, s.me.strand⟩) := (noted_like ..).trans (enrolled_like ..)
      obtain ⟨hk, hpc⟩ := hlike.waiting .fullEmpty p.loc s.tick 0 true
      exact ⟨hpc, sameMemory_of_mem rfl, hk, _, rfl, rfl, rfl, fun _ => ⟨rfl, hten⟩, fun hge => absurd hlen (Nat.not_lt.2 hge)⟩
    · have hserved := served_nack (t0 := s.tick) (lim := 0) (va := s.getS a) (g := g) ((hperf m).trans (hnack (Nat.le_of_not_lt hlen))) hh hw
      rw [hop] at hserved
      refine ⟨_, hx.trans (congrArg _ (hreq.trans hserved)), ?_⟩
      obtain ⟨hk, hpc⟩ := (noted_like s s.ctr m).waiting .fullEmpty p.loc s.tick 0 false
      exact ⟨hpc, sameMemory_of_mem rfl, hk, _, rfl, rfl, rfl, fun hlt => absurd hlt hlen, fun _ => ⟨rfl, rfl, rfl⟩⟩
  refine ⟨fun he => ⟨?_, ?_⟩, fun he hset => ?_⟩
  · exact hwaits .ldFe noWait _ _ rfl rfl (viaHome_noWait h (requestRoom_of_atHome h fun _ => rfl) ..) fun m => if_pos he
  · exact hwaits .ldFf noWait _ _ rfl rfl (viaHome_noWait (op := .ldFf) h (requestRoom_of_atHome h fun h => absurd h Bool.false_ne_true) ..) fun m => if_pos he
  · exact hwaits (.stFe (s.getS b)) feRelease _ _ rfl rfl (viaHome_feRelease h (requestRoom_of_atHome h fun _ => rfl) hset ..) fun m =>
      if_pos (by rw [show (s.noted s.ctr m).isEmpty p.loc = false from he]; rfl)

end Sys2Proof.Machine
end

section
/-! SUPPORT. Reductions (R182): performed at once on the own die, sent to another. -/

namespace Sys2Proof.Machine

section rred
variable {s : State} {a : SReg} {wd : Wid} {p : Place}

theorem rred_reached (hc : s.me.chunk = none) (h : s.Reaches .rw 0 (s.getS a) wd.bytes p) (o : AmoOp) (b : SReg) :
    s.rred o a b wd = .next (s.sendUpdate p (.rred o wd.bytes (s.getS b)) wd.bytes) := by
  obtain ⟨ha, hl, -⟩ := h
  unfold State.rred
  simp only [ha, hl, ne_eq, not_true_eq_false, if_false]
  exact congrArg _ (held_serial s _ hc)

theorem rred_performed {asker : Asker} {loc n old : Nat} (h : s.homeNum loc n = (old, none)) (o : AmoOp) (x : Word) :
    (s.performHome asker loc (.rred o n x)).1 = (s.homeWrite asker loc n (o.apply n old x.toNat).1).rredFlag loc (o.apply n old x.toNat).2 := by
  unfold State.performHome; simp only [h]

theorem rredFlag_crew (loc : Nat) (f : BitVec 6) : (s.rredFlag loc f).crew = s.crew := crew_of_ite rfl (count_crew ..)

/-- On the own die the word is updated at once, and no register or flag is written. -/
theorem rred_updates (h : s.AtHome .rw (s.getS a) wd.bytes p) (hs : s.Sound p.loc wd.bytes) (hm : s.MemOk) (o : AmoOp) (b : SReg) :
    ∃ t, s.rred o a b wd = .next t ∧ Stored s t p.loc wd.bytes (o.apply wd.bytes (numAt s.mem p.loc wd.bytes) (s.getS b).toNat).1 ∧ Passed s t 4 ∧ SlotKept s t id := by
  have hd : isDram p.loc = true := h.2.2.2.1
  obtain ⟨m, hnote⟩ := noteRequest_near (s := s) (marked_of_atHome h) (home_of_atHome h) (.rred o wd.bytes (s.getS b))
  set r := o.apply wd.bytes (numAt s.mem p.loc wd.bytes) (s.getS b).toNat with hr
  have hx : s.sendUpdate p (.rred o wd.bytes (s.getS b)) wd.bytes = (((s.noted s.ctr m).homeWrite s.asker p.loc wd.bytes r.1).rredFlag p.loc r.2).done4 := by
    unfold State.sendUpdate
    rw [requestRoom_of_atHome h fun _ => rfl, if_neg (by simp), if_pos (home_of_atHome h), hnote, rred_performed (noted_homeNum h hs s.ctr m)]
  have hlike : Like s (((s.noted s.ctr m).homeWrite s.asker p.loc wd.bytes r.1).rredFlag p.loc r.2) :=
    (noted_like s s.ctr m).trans (like_of_crew ((rredFlag_crew ..).trans (homeWrite_crew (serial_noted h.2.1 ..) hd _ _)))
  refine ⟨_, (rred_reached h.2.1.1 h.2.2.1 o b).trans (congrArg _ hx), stored_of_mem hm ?_, hlike.done4⟩
  exact (rredFlag_mem ..).trans (homeWrite_mem hd _ _)

theorem transfer_rredPend (s : State) (pc : Word) (depth : BitVec 16) : (s.transfer pc depth).me.rredPend = s.me.rredPend := by
  obtain ⟨k, h, -⟩ := transfer_eq s pc depth
  rw [h]

theorem advance_rredPend (s : State) (n : Nat) : (s.advance n).me.rredPend = s.me.rredPend := transfer_rredPend ..

/-- To another die goes one update packet, and the instruction is over. -/
theorem rred_sends (hs : s.Serial) (h : s.Reaches .rw 0 (s.getS a) wd.bytes p) (hh : homeOf p.loc ≠ s.me.die) (hp : s.storePending p.loc wd.bytes = false)
    (hroom : s.countRoom s.me.strand 1 = true) (o : AmoOp) (b : SReg) :
    ∃ t, s.rred o a b wd = .next t ∧ t.mem = s.mem
      ∧ t.net = s.net ++ [.request s.serial s.me.die s.me.slot s.me.strand p.loc (.rred o wd.bytes (s.getS b))]
      ∧ t.me.rredPend = s.me.rredPend + 1 ∧ Passed s t 4 ∧ SlotKept s t id := by
  obtain ⟨m, hdue⟩ := noteDue_eq s p
  obtain ⟨c, hmig⟩ : ∃ c, (s.noted s.ctr m).noteMig p = s.noted c m := by
    unfold State.noteMig State.count
    split
    · exact ⟨_, if_neg Nat.one_ne_zero⟩
    · exact ⟨s.ctr, rfl⟩
  have hnote : s.noteRequest p (.rred o wd.bytes (s.getS b)) = s.noted c m := by
    have hm : p.Marked (HomeOp.rred o wd.bytes (s.getS b)).writes := h.2.2
    rw [State.noteRequest, markAccess_marked _ _ _ hm, hdue]
    exact hmig
  have hroom' : s.requestRoom (.rred o wd.bytes (s.getS b)) = true := hroom
  have hx : s.sendUpdate p (.rred o wd.bytes (s.getS b)) wd.bytes =
      ((((({ s.noted c m with serial := s.serial + 1 } : State).mapDie s.me.die fun d => { d with replicas := d.replicas.filter fun l => l.line != lineOf p.loc }).send
        (.request s.serial s.me.die s.me.slot s.me.strand p.loc (.rred o wd.bytes (s.getS b))))).mapMe fun q =>
          { q with rredPend := q.rredPend + 1, rredDev := if p.dev || isDevice p.loc then s.serial :: q.rredDev else q.rredDev }).done4 := by
    unfold State.sendUpdate
    rw [hroom', if_neg (by simp), if_neg hh, hp, if_neg Bool.false_ne_true, hnote]
    dsimp only [State.take]
    rw [State.invalidateER, invalidate_serial]
    · rfl
    · exact hs
  refine ⟨_, (rred_reached hs.1 h o b).trans (congrArg _ hx), rfl, rfl, advance_rredPend _ 4, ?_⟩
  refine Like.done4 (s := s) ?_
  exact ⟨rfl, rfl⟩

end rred

/-- Settles O18: each form is one update (`rred_updates`, `rred_sends`). -/
theorem reductionUpdates : Obligations.ReductionUpdates := by
  unfold Obligations.ReductionUpdates
  intro a b wd s p n old x fsum forms
  refine ⟨fun hdet hr => (if_pos hdet).trans (congrArg _ (detTrap_reached hr)), fun i o v hi hdet => ?_⟩
  have hold : old.toNat = numAt s.mem p.loc n := old_toNat ..
  have hform : exec i s = s.rred o a b wd ∧ (o.apply n old.toNat (s.getS b).toNat).1 = v := by
    simp only [forms, List.mem_cons, Prod.mk.injEq, List.not_mem_nil, or_false] at hi
    rcases hi with ⟨rfl, rfl, rfl⟩ | ⟨rfl, rfl, rfl⟩ | ⟨rfl, rfl, rfl⟩ | ⟨rfl, rfl, rfl⟩ | ⟨rfl, rfl, rfl⟩ | ⟨rfl, rfl, rfl⟩ | ⟨rfl, rfl, rfl⟩ | ⟨rfl, rfl, rfl⟩ |
      ⟨rfl, rfl, rfl⟩
    · exact ⟨rfl, apply_add ..⟩
    · exact ⟨rfl, apply_and ..⟩
    · exact ⟨rfl, apply_or ..⟩
    · exact ⟨rfl, apply_xor ..⟩
    · exact ⟨rfl, apply_min ..⟩
    · exact ⟨rfl, apply_max ..⟩
    · exact ⟨rfl, apply_minn ..⟩
    · exact ⟨rfl, apply_maxn ..⟩
    · refine ⟨if_neg (by simp [hdet rfl]), ?_⟩
      rw [AmoOp.apply, ← BitVec.toNat_setWidth]
      cases wd <;> rfl
  obtain ⟨hx, rfl⟩ := hform
  refine ⟨fun h hs hm => ?_, fun hser hr hh hp hroom => ?_⟩
  · obtain ⟨t, ht, hst, hrest⟩ := rred_updates h hs hm o b
    exact ⟨t, hx.trans ht, by rwa [hold], hrest⟩
  · obtain ⟨t, ht, hrest⟩ := rred_sends hser hr hh hp hroom o b
    exact ⟨t, hx.trans ht, hrest⟩

end Sys2Proof.Machine
end

section
/-! SUPPORT. Barriers of the own die (R186 to R191): their words, and what each operation does to them. -/

namespace Sys2Proof.Machine

/-! ### Little-endian bytes -/

theorem bytesOf_congr {n x y : Nat} (h : x % 256 ^ n = y % 256 ^ n) : bytesOf n x = bytesOf n y := by
  induction n generalizing x y with
  | zero => rfl
  | succ n ih =>
    rw [pow_succ'] at h
    have hlow : x % 256 = y % 256 := by rw [← Nat.mod_mul_right_mod x 256 (256 ^ n), h, Nat.mod_mul_right_mod]
    have hhigh : x / 256 % 256 ^ n = y / 256 % 256 ^ n := by rw [← Nat.mod_mul_right_div_self, h, Nat.mod_mul_right_div_self]
    rw [bytesOf, bytesOf, ih hhigh, ← BitVec.toNat_inj.1 (show (BitVec.ofNat 8 x).toNat = (BitVec.ofNat 8 y).toNat from by simpa using hlow)]

theorem bytesOf_append (m n x y : Nat) (h : x < 256 ^ m) : bytesOf m x ++ bytesOf n y = bytesOf (m + n) (x + y * 256 ^ m) := by
  induction m generalizing x with
  | zero => simp at h; simp [bytesOf, h]
  | succ m ih =>
    have hpow : 256 ^ (m + 1) = 256 * 256 ^ m := pow_succ' ..
    have hdiv : (x + y * 256 ^ (m + 1)) / 256 = x / 256 + y * 256 ^ m := by
      rw [hpow, show y * (256 * 256 ^ m) = 256 * (y * 256 ^ m) by ring, Nat.add_mul_div_left _ _ (by decide)]
    have hbyte : BitVec.ofNat 8 (x + y * 256 ^ (m + 1)) = BitVec.ofNat 8 x := by
      apply BitVec.eq_of_toNat_eq
      rw [BitVec.toNat_ofNat, BitVec.toNat_ofNat, hpow, show y * (256 * 256 ^ m) = y * 256 ^ m * 2 ^ 8 by ring, Nat.add_mul_mod_self_right]
    rw [Nat.add_right_comm, bytesOf, bytesOf, List.cons_append, ih _ (by omega), hdiv, hbyte]

/-- Memory holds the bytes of its own number. -/
theorem bytesOf_ofBytes (bs : List Byte) : bytesOf bs.length (ofBytes bs) = bs := by
  induction bs with
  | nil => rfl
  | cons b bs ih =>
    have hdiv : (b.toNat + 256 * ofBytes bs) / 256 = ofBytes bs := by have := b.isLt; omega
    have hbyte : BitVec.ofNat 8 (b.toNat + 256 * ofBytes bs) = b := by
      apply BitVec.eq_of_toNat_eq
      have := b.isLt
      rw [BitVec.toNat_ofNat]; omega
    rw [List.length_cons, ofBytes, bytesOf, hdiv, hbyte, ih]

theorem memBytes_get (m : List Host.Cell) (loc n i : Nat) (h : i < n) : (memBytes m loc n)[i]? = some (memGet m (loc + i)) := by
  induction n generalizing loc i with
  | zero => omega
  | succ n ih =>
    cases i with
    | zero => rfl
    | succ i => rw [memBytes, List.getElem?_cons_succ, ih _ _ (by omega)]; congr 2; omega

theorem numAt_byte (m : List Host.Cell) (loc n i : Nat) (h : i < n) : BitVec.ofNat 8 (numAt m loc n / 256 ^ i) = memGet m (loc + i) := by
  have hb := bytesOf_ofBytes (memBytes m loc n)
  rw [memBytes_length] at hb
  have hget := bytesOf_get n (numAt m loc n) i h
  rw [numAt, hb, memBytes_get _ _ _ _ h] at hget
  exact (Option.some.inj hget).symm

/-- An unchanged memory holds its own number. -/
theorem stored_self {s t : State} {loc n : Nat} (h : t.mem = s.mem) : Stored s t loc n (numAt s.mem loc n) := fun a => by
  rw [h]
  split
  next hin => rw [numAt_byte _ _ _ _ (by omega), Nat.add_sub_cancel' hin.1]
  next => rfl

theorem rd_toNat (s : State) (loc : Nat) : (s.rd loc).toNat = numAt s.mem loc 8 := by
  rw [State.rd, word, BitVec.toNat_ofNat]
  exact Nat.mod_eq_of_lt (lt_of_lt_of_eq (numAt_lt s.mem loc 8) (by norm_num))

theorem w64_append (x y : Word) : w64 x ++ w64 y = bytesOf 16 (x.toNat + y.toNat * 2 ^ 64) := bytesOf_append 8 8 _ _ x.isLt

/-! ### The word of a barrier -/

section bar

theorem word_toNat {x : Nat} (h : x < 2 ^ 64) : (word x).toNat = x := by rw [word, BitVec.toNat_ofNat, Nat.mod_eq_of_lt h]

theorem bitAt_div (x : Word) (k : Nat) : bitAt x k = decide (x.toNat / 2 ^ k % 2 = 1) := by
  rw [bitAt, BitVec.getLsbD, Nat.testBit_eq_decide_div_mod_eq]

theorem bitAt_top (x : Word) : (if bitAt x 63 then 2 ^ 63 else 0) = x.toNat / 2 ^ 63 * 2 ^ 63 := by
  have := x.isLt
  rw [bitAt_div]
  by_cases h : x.toNat / 2 ^ 63 % 2 = 1
  · rw [if_pos (decide_eq_true h)]; omega
  · rw [if_neg (by simpa only [decide_eq_true_eq] using h)]; omega

/-- The number of a phase bit. -/
def phaseNat (b : Bool) : Nat := if b then 2 ^ 63 else 0

theorem phaseNat_le (b : Bool) : phaseNat b ≤ 2 ^ 63 := by cases b <;> decide

theorem bar_word_toNat (b : Bar) : b.word.toNat = phaseNat b.phase + b.status % 4 * 2 ^ 61 + b.arr % 2 ^ 21 * 2 ^ 40 + b.bytes % 2 ^ 40 := by
  have := phaseNat_le b.phase
  exact word_toNat (by show phaseNat b.phase + _ + _ + _ < _; omega)

variable (x : Word)

theorem ofWord_phase : phaseNat (Bar.ofWord x).phase = x.toNat / 2 ^ 63 * 2 ^ 63 := bitAt_top x
theorem ofWord_status : (Bar.ofWord x).status = x.toNat / 2 ^ 61 % 4 := rfl
theorem ofWord_arr : (Bar.ofWord x).arr = x.toNat / 2 ^ 40 % 2 ^ 21 := rfl
theorem ofWord_bytes : (Bar.ofWord x).bytes = x.toNat % 2 ^ 40 := by
  show x.toNat / 2 ^ 0 % 2 ^ 40 = _
  rw [pow_zero, Nat.div_one]

/-- The phase bit is the one that a word holds. -/
theorem phase_iff {x y : Word} {w : Nat} (hw : x.toNat = w) : (Bar.ofWord x).phase = bitAt y 63 ↔ w / 2 ^ 63 = y.toNat / 2 ^ 63 := by
  have hx := x.isLt
  have hy := y.isLt
  show bitAt x 63 = bitAt y 63 ↔ _
  rw [bitAt_div, bitAt_div, decide_eq_decide, hw]
  omega

theorem phaseNat_not : phaseNat (!(Bar.ofWord x).phase) = (1 - x.toNat / 2 ^ 63) * 2 ^ 63 := by
  have h := ofWord_phase x
  have := x.isLt
  cases hp : (Bar.ofWord x).phase <;> rw [hp] at h <;> simp only [phaseNat] at h ⊢ <;> simp at h ⊢ <;> omega

end bar

/-! ### A barrier's word is written -/

section put
variable {s : State} {loc : Nat} {asker : Asker}

theorem shell_wake_step (t : State) (w : Waiter) (loc : Nat) :
    (let u := if w.what = .queue then t.qcount loc w.put false else t
     u.send (.wake w.die w.strand loc)).shell = t.shell := by
  dsimp only
  split
  · exact qcount_shell ..
  · rfl

/-- Waiters that are woken leave the table. -/
theorem wake_waiters (s : State) (loc : Nat) (p : Waiter → Bool) :
    ((s.wake loc p).die (homeOf loc)).waiters = (s.die (homeOf loc)).waiters.filter fun w => !(w.loc == loc && p w) := by
  have hshell : (s.wake loc p).shell = (s.mapDie (homeOf loc) fun d => { d with waiters := d.waiters.filter fun w => !(w.loc == loc && p w) }).shell :=
    foldl_keeps State.shell _ (fun t w => shell_wake_step t w loc) _ _
  have hdie := die_shell hshell (homeOf loc)
  rw [die_mapDie_self] at hdie
  exact (congrArg Die.waiters hdie : ((s.wake loc p).die (homeOf loc)).shell.waiters = _)

theorem putBar_crew (hs : s.Serial) (b : Bar) (who : Requester) (done : Bool) : (s.putBar loc b who done).1.crew = s.crew := by
  have hw := performWrite_crew hs loc (w64 b.word) who none
  exact crew_of_ite ((wake_crew (serial_of_crew hw hs) ..).trans hw) hw

theorem putBar_mem (b : Bar) (who : Requester) (done : Bool) : (s.putBar loc b who done).1.mem = memWrite s.mem loc (bytesOf 8 b.word.toNat) := by
  have hw := performWrite_mem s loc (w64 b.word) who none
  refine mem_of_ite ((wake_mem fun w _ _ hw => ?_).trans hw) hw
  rw [beq_iff_eq.1 hw]
  decide

theorem putBar_woken (b : Bar) (who : Requester) : ∀ v ∈ ((s.putBar loc b who true).1.die (homeOf loc)).waiters, ¬ (v.loc = loc ∧ v.what = .barrier) := by
  intro v hv hc
  have hw := wake_waiters (s.performWrite loc (w64 b.word) who).1 loc fun w => w.what == .barrier
  have hv' : v ∈ (((s.performWrite loc (w64 b.word) who).1.wake loc fun w => w.what == .barrier).die (homeOf loc)).waiters := hv
  rw [hw, List.mem_filter] at hv'
  simp [hc.1, hc.2] at hv'

end put

/-! ### A wait at home -/

section mustWait
variable {s : State} {loc : Nat} {asker : Asker} {what : WaitFor} {put : Bool}

theorem enrolled_crew (w : Waiter) : (s.enrolled w).crew = s.crew := rfl

theorem addWaiter_crew (hs : s.Serial) (w : Waiter) : (s.addWaiter w).1.crew = s.crew ∧ (w.what ≠ .queue → (s.addWaiter w).1.mem = s.mem) := by
  unfold State.addWaiter
  dsimp only
  split
  · exact ⟨rfl, fun _ => rfl⟩
  split
  · split
    · next hq => exact ⟨(qcount_crew (s := s.enrolled w) hs ..).trans (enrolled_crew w), fun hn => absurd hq hn⟩
    · exact ⟨enrolled_crew w, fun _ => rfl⟩
  · exact ⟨rfl, fun _ => rfl⟩

/-- A request that must wait is told so, registered or not; its slot stays as it is. -/
theorem mustWait_told (hs : s.Serial) (asker : Asker) (what : WaitFor) (put : Bool) (loc : Nat) : ∃ v : State, v.crew = s.crew ∧ (what ≠ .queue → v.mem = s.mem)
    ∧ (s.mustWait asker what put loc = (v, .wait) ∨ s.mustWait asker what put loc = (v, .nack)) := by
  obtain ⟨hc, hm⟩ := addWaiter_crew hs ⟨what, put, loc, asker.die, asker.strand⟩
  refine ⟨_, hc, hm, ?_⟩
  rw [State.mustWait]
  rcases s.addWaiter ⟨what, put, loc, asker.die, asker.strand⟩ with ⟨v, _ | _⟩
  · exact .inr rfl
  · exact .inl rfl

/-- A slot whose request must wait waits at its instruction. -/
theorem served_mustWait {u : State} {va : Word} {op : HomeOp} {t0 lim : Nat} {g : State → Answer → State} (hs : u.Serial) (hh : homeOf loc = u.me.die) (hw : u.me.wait = none)
    (h : u.performHome asker loc op = u.mustWait asker op.waitFor put loc) :
    ∃ (v : State) (entry : Bool), v.crew = u.crew ∧ (op.waitFor ≠ .queue → v.mem = u.mem) ∧ u.served asker va loc op t0 lim g = v.waiting op.waitFor loc t0 lim entry := by
  obtain ⟨v, hc, hm, htold⟩ := mustWait_told hs asker op.waitFor put loc
  have hme : v.me.lean = u.me.lean := congrArg Prod.fst hc
  have hwait : v.me.wait = none := (congrArg Ctx.wait hme : v.me.lean.wait = u.me.lean.wait).trans hw
  have hdie : v.me.die = u.me.die := (congrArg Ctx.die hme : v.me.lean.die = u.me.lean.die)
  rcases htold with ht | ht
  · exact ⟨v, true, hc, hm, served_wait (h.trans ht) hwait⟩
  · exact ⟨v, false, hc, hm, served_nack (h.trans ht) (hh.trans hdie.symm) hwait⟩

end mustWait

/-! ### The operations -/

section barOps
variable {s : State} {loc : Nat} {asker : Asker}

theorem binit_performed (x : Word) : s.performHome asker loc (.binit x) =
    (s.writeHome loc (w64 ({ Bar.ofWord (word (x.toNat % 2 ^ 61)) with phase := (Bar.ofWord (s.rd loc)).phase, status := 0 } : Bar).word ++ w64 (word (x.toNat % 2 ^ 61))) asker.who,
      .value 0 0 none) := rfl

/-- A barrier's word written for a requester. -/
def State.setBar (s : State) (asker : Asker) (loc : Nat) (b : Bar) (done : Bool) : State :=
  (s.putBar loc b asker.who done).1.creditPerf asker.who (s.putBar loc b asker.who done).2 false

theorem setBar_crew (hs : s.Serial) (b : Bar) (done : Bool) : (s.setBar asker loc b done).crew = s.crew := (creditPerf_crew ..).trans (putBar_crew hs ..)

theorem setBar_mem (b : Bar) (done : Bool) : (s.setBar asker loc b done).mem = memWrite s.mem loc (bytesOf 8 b.word.toNat) := (creditPerf_mem ..).trans (putBar_mem ..)

theorem setBar_woken (b : Bar) : ∀ v ∈ ((s.setBar asker loc b true).die (homeOf loc)).waiters, ¬ (v.loc = loc ∧ v.what = .barrier) := by
  intro v hv
  have hd := die_hull (creditPerf_hull (s.putBar loc b asker.who true).1 asker.who (s.putBar loc b asker.who true).2 false) (homeOf loc)
  have hw : ((s.setBar asker loc b true).die (homeOf loc)).waiters = ((s.putBar loc b asker.who true).1.die (homeOf loc)).waiters :=
    (congrArg Die.waiters hd : ((s.setBar asker loc b true).die (homeOf loc)).hull.waiters = _)
  exact putBar_woken b asker.who v (hw ▸ hv)

theorem bpost_performed {x : Word} (hx : ¬ (2 ^ 40 ≤ x.toNat ∨ 2 ^ 40 ≤ (Bar.ofWord (s.rd loc)).bytes + x.toNat)) : s.performHome asker loc (.bpost x) =
    (if x = 0 then s else s.setBar asker loc { Bar.ofWord (s.rd loc) with bytes := (Bar.ofWord (s.rd loc)).bytes + x.toNat } false, .value 0 0 none) := by
  unfold State.performHome
  dsimp only
  rw [if_neg hx]
  split <;> rfl

theorem bpost_over {x : Word} (hx : 2 ^ 40 ≤ x.toNat ∨ 2 ^ 40 ≤ (Bar.ofWord (s.rd loc)).bytes + x.toNat) :
    s.performHome asker loc (.bpost x) = (s, .trap cOVERPOST) := if_pos hx

/-- The barrier after an arrival, and whether its phase is over. -/
def Bar.arrive (b rl : Bar) : Bar × Bool :=
  if b.arr = 0 then ({ b with status := max b.status 1 }, false) else ({ b with arr := b.arr - 1 } : Bar).settle rl

theorem barr_performed : s.performHome asker loc .barr =
    (s.setBar asker loc ((Bar.ofWord (s.rd loc)).arrive (Bar.ofWord (s.rd (loc + 8)))).1 ((Bar.ofWord (s.rd loc)).arrive (Bar.ofWord (s.rd (loc + 8)))).2,
      .value 0 0 none) := rfl

theorem bwait_performed (phase expired : Bool) : s.performHome asker loc (.bwait phase expired) =
    (let b := Bar.ofWord (s.rd loc)
     if b.phase ≠ phase then (s, .value (word (phaseNat b.phase + b.status * 2 ^ 61)) 0 none)
     else if expired then (s, .value (word (phaseNat b.phase + b.status * 2 ^ 61 + 1)) 0 none)
     else s.mustWait asker .barrier false loc) := rfl

theorem bwait_of_limits {d a b : SReg} {t0 lim : Nat} (h : s.limits (min (s.getS b).toNat (2 ^ 36)) = (t0, lim)) :
    exec (.bwait d a b) s = .next (s.viaHome (s.getS a) 16 16 .rw (.bwait (bitAt (s.getS d) 63) (decide (t0 + lim ≤ s.tick))) t0 lim noWait
      fun s' y => s'.withValue (s'.getS a) y fun s' v => s'.acquire.result d v) := by
  have hx : exec (.bwait d a b) s = execBwait d a b s := rfl
  rw [hx, execBwait, h]
  dsimp only
  rw [State.barOp]


end barOps

theorem answerless_of_none {s : State} (ha : s.me.answer = none) (hs : s.me.sent = none) : s.answerless = s := by
  have hme : ({ s.me with answer := none, sent := none } : Ctx) = s.me := by
    cases h : s.me
    rw [h] at ha hs
    subst ha hs
    rfl
  rw [State.answerless, State.mapMe, hme]

/-- Settles O21: each form is one request at home, its word that of the barrier after it (`bar_word_toNat`). -/
theorem barrierOperations : Obligations.BarrierOperations := by
  unfold Obligations.BarrierOperations
  intro d a b s p hm w rl phase status arr bytes x settled
  have hrd (c : List (Nat × Word)) (m : Nat) : (s.noted c m).rd p.loc = s.rd p.loc := rfl
  have hrl (c : List (Nat × Word)) (m : Nat) : (s.noted c m).rd (p.loc + 8) = s.rd (p.loc + 8) := rfl
  have hw : (s.rd p.loc).toNat = w := rd_toNat ..
  have hwl : w < 2 ^ 64 := hw ▸ (s.rd p.loc).isLt
  have hrw : (s.rd (p.loc + 8)).toNat = rl := rd_toNat ..
  refine ⟨fun h => ⟨fun hset => ⟨_, rfl, ?_⟩, fun hx hsum => ⟨_, rfl, ?_⟩, fun hover hsent => ?_, ?_⟩, fun h hwait hwend => ?_⟩
  · obtain ⟨c, m, hreq⟩ := viaHome_maskRelease (op := .binit (s.getS b)) (t0 := s.tick) (lim := 0) h (requestRoom_of_atHome h fun _ => rfl) hset fun s _ => s.done4
    obtain ⟨hout, hp, hk⟩ := served_done4 (noted_like s c m) hreq (binit_performed _) (writeHome_crew (serial_noted h.2.1 ..) ..) rfl
    refine ⟨stored_of_mem hm ((mem_of_outside hout).trans ((writeHome_mem ..).trans ?_)), hp, hk⟩
    refine congrArg (memWrite s.mem p.loc) ?_
    have hlow : (word (x % 2 ^ 61)).toNat = x % 2 ^ 61 := word_toNat (by omega)
    rw [w64_append, bar_word_toNat]
    dsimp only
    rw [ ofWord_phase, ofWord_arr, ofWord_bytes, hrd, hw, hlow]
    refine congrArg (bytesOf 16) ?_
    simp only [phase]
    omega
  · obtain ⟨m, hreq⟩ := viaHome_noWait (op := .bpost (s.getS b)) (t0 := s.tick) (lim := 0) h (requestRoom_of_atHome h fun _ => rfl) fun s _ => s.done4
    have hno : ¬ (2 ^ 40 ≤ (s.getS b).toNat ∨ 2 ^ 40 ≤ (Bar.ofWord ((s.noted s.ctr m).rd p.loc)).bytes + (s.getS b).toNat) := by
      rw [ofWord_bytes, hrd, hw]; omega
    obtain ⟨hout, hp, hk⟩ := served_done4 (noted_like s s.ctr m) hreq (bpost_performed hno) (crew_of_ite rfl (setBar_crew (serial_noted h.2.1 ..) ..)) rfl
    refine ⟨?_, hp, hk⟩
    by_cases hx0 : s.getS b = 0
    · rw [if_pos hx0] at hout
      have hzero : x = 0 := by simp only [x, hx0]; rfl
      rw [hzero, Nat.add_zero]
      exact stored_self (mem_of_outside hout)
    · rw [if_neg hx0] at hout
      refine stored_of_mem hm ((mem_of_outside hout).trans ((setBar_mem ..).trans (congrArg (fun y => memWrite s.mem p.loc (bytesOf 8 y)) ?_)))
      rw [bar_word_toNat]
      dsimp only
      rw [hrd, ofWord_phase, ofWord_status, ofWord_arr, ofWord_bytes, hw]
      omega
  · obtain ⟨m, hreq⟩ := viaHome_noWait (op := .bpost (s.getS b)) (t0 := s.tick) (lim := 0) h (requestRoom_of_atHome h fun _ => rfl) fun s _ => s.done4
    have hyes : 2 ^ 40 ≤ (s.getS b).toNat ∨ 2 ^ 40 ≤ (Bar.ofWord ((s.noted s.ctr m).rd p.loc)).bytes + (s.getS b).toNat := by
      rw [ofWord_bytes, hrd, hw]; exact hover
    refine ⟨m, congrArg Host.Outcome.next (hreq.trans ((serve_trap (bpost_over hyes)).trans ?_))⟩
    rw [answerless_of_none (s := s.noted s.ctr m) h.1 hsent]
    rfl
  · have hbarr (hset : settled) (P : State → Prop) (hP : ∀ c m t, t.outside = ((s.noted c m).setBar s.asker p.loc
        ((Bar.ofWord (s.rd p.loc)).arrive (Bar.ofWord (s.rd (p.loc + 8)))).1 ((Bar.ofWord (s.rd p.loc)).arrive (Bar.ofWord (s.rd (p.loc + 8)))).2).outside → P t) :
        Completes (.barr a) s fun t => P t ∧ Passed s t 4 ∧ SlotKept s t id := by
      obtain ⟨c, m, hreq⟩ := viaHome_maskRelease (op := .barr) (t0 := s.tick) (lim := 0) h (requestRoom_of_atHome h fun _ => rfl) hset fun s _ => s.done4
      obtain ⟨hout, hp, hk⟩ := served_done4 (noted_like s c m) hreq barr_performed (setBar_crew (serial_noted h.2.1 ..) ..) rfl
      exact ⟨_, rfl, hP c m _ hout, hp, hk⟩
    have harr : (Bar.ofWord (s.rd p.loc)).arr = arr := by rw [ofWord_arr, hw]
    have hstored {t : State} {c : List (Nat × Word)} {m y : Nat} {q : Bar} {done : Bool} (ht : t.outside = ((s.noted c m).setBar s.asker p.loc q done).outside)
        (hq : q.word.toNat = y) : Stored s t p.loc 8 y :=
      stored_of_mem hm ((mem_of_outside ht).trans ((setBar_mem ..).trans (by rw [hq]; rfl)))
    refine ⟨fun hset h0 => ?_, fun hset h1 hne => ?_, fun hset h1 h0 => ?_⟩
    · refine hbarr hset _ fun c m t ht => hstored ht ?_
      rw [Bar.arrive, if_pos (harr.trans h0), bar_word_toNat]
      dsimp only
      rw [ofWord_phase, ofWord_status, ofWord_bytes, hw, harr, h0]
      omega
    · refine hbarr hset _ fun c m t ht => hstored ht ?_
      have hsettle : ({ Bar.ofWord (s.rd p.loc) with arr := (Bar.ofWord (s.rd p.loc)).arr - 1 } : Bar).settle (Bar.ofWord (s.rd (p.loc + 8)))
          = ({ Bar.ofWord (s.rd p.loc) with arr := (Bar.ofWord (s.rd p.loc)).arr - 1 }, false) := by
        refine if_neg fun hc => ?_
        have h1' : (Bar.ofWord (s.rd p.loc)).arr - 1 = 0 := hc.1
        have h2' : (Bar.ofWord (s.rd p.loc)).bytes = 0 := hc.2
        rw [harr] at h1'
        rw [ofWord_bytes, hw] at h2'
        omega
      rw [Bar.arrive, harr, if_neg (by omega), ← harr, hsettle, bar_word_toNat]
      dsimp only
      rw [ofWord_phase, ofWord_status, harr, ofWord_bytes, hw]
      omega
    · have hdone : (Bar.ofWord (s.rd p.loc)).arrive (Bar.ofWord (s.rd (p.loc + 8))) =
          ({ Bar.ofWord (s.rd p.loc) with phase := !(Bar.ofWord (s.rd p.loc)).phase, arr := (Bar.ofWord (s.rd (p.loc + 8))).arr,
                                          bytes := (Bar.ofWord (s.rd (p.loc + 8))).bytes }, true) := by
        rw [Bar.arrive, harr, if_neg (by omega), Bar.settle, if_pos ⟨by dsimp only; omega, by rw [ofWord_bytes, hw]; exact h0⟩]
      rw [hdone] at hbarr
      have hres := hbarr hset (fun t => Stored s t p.loc 8 ((1 - phase) * 2 ^ 63 + status * 2 ^ 61 + rl % 2 ^ 61)
        ∧ ∀ v ∈ (t.die s.me.die).waiters, ¬ (v.loc = p.loc ∧ v.what = .barrier)) fun c m t ht => ⟨hstored ht ?_, ?_⟩
      · obtain ⟨t, hx, ⟨hst, hwk⟩, hp, hk⟩ := hres
        exact ⟨t, hx, hst, hp, hk, hwk⟩
      · rw [bar_word_toNat]
        dsimp only
        rw [phaseNat_not, ofWord_status, ofWord_arr, ofWord_bytes, hw, hrw]
        omega
      · rw [State.die, dies_of_outside ht, ← home_of_atHome h]
        exact setBar_woken _
  · intro p0
    have hlim : s.limits (Min.min x (2 ^ 36)) = (s.tick, Min.min x (2 ^ 36)) := by
      rw [State.limits, hwait, hwend, State.issueTick, h.1]; rfl
    have hphase : phaseNat (Bar.ofWord (s.rd p.loc)).phase = phase * 2 ^ 63 := by rw [ofWord_phase, hw]
    have hstat : (Bar.ofWord (s.rd p.loc)).status = status := by rw [ofWord_status, hw]
    have hsame : (Bar.ofWord (s.rd p.loc)).phase = bitAt (s.getS d) 63 ↔ phase = p0 := phase_iff hw
    have hexpired : decide (s.tick + Min.min x (2 ^ 36) ≤ s.tick) = decide (x = 0) := by
      refine decide_eq_decide.2 ⟨fun hle => ?_, fun h0 => ?_⟩ <;> omega
    have hop : exec (.bwait d a b) s = .next (s.viaHome (s.getS a) 16 16 .rw (.bwait (bitAt (s.getS d) 63) (decide (x = 0))) s.tick (Min.min x (2 ^ 36)) noWait
        fun s' y => s'.withValue (s'.getS a) y fun s' v => s'.acquire.result d v) := by
      refine (bwait_of_limits hlim).trans ?_
      rw [hexpired]
    have hhome : homeOf p.loc = s.me.die := home_of_atHome h
    obtain ⟨m, hreq⟩ := viaHome_noWait (op := .bwait (bitAt (s.getS d) 63) (decide (x = 0))) (t0 := s.tick) (lim := Min.min x (2 ^ 36)) h
      (requestRoom_of_atHome h fun h => absurd h Bool.false_ne_true) fun s' y => s'.withValue (s'.getS a) y fun s' v => s'.acquire.result d v
    have hperf := bwait_performed (s := s.noted s.ctr m) (loc := p.loc) (asker := s.asker) (bitAt (s.getS d) 63) (decide (x = 0))
    dsimp only at hperf
    rw [hrd, hphase, hstat] at hperf
    have hval {y : Nat} (hv : (s.noted s.ctr m).performHome s.asker p.loc (.bwait (bitAt (s.getS d) 63) (decide (x = 0))) = (s.noted s.ctr m, .value (word y) 0 none)) :
        Completes (.bwait d a b) s fun t => WroteS s t d (word y) ∧ SameMemory s t ∧ Passed s t 4 ∧ SlotKept s t Ctx.noS := by
      obtain ⟨hout, hwr, hp, hk⟩ := served_result (d := d) (y := word y) (noted_like s s.ctr m) hreq hv rfl
        ((withValue_plain ..).trans (congrArg (fun u : State => u.result d (word y)) (acquire_serial ((noted_like s s.ctr m).answerless.chunk h.2.1.1))))
      exact ⟨_, hop, hwr, sameMemory_of_mem (mem_of_outside hout), hp, hk⟩
    refine ⟨fun hne => hval (hperf.trans (if_pos fun hc => hne (hsame.1 hc))), fun heq h0 => hval (hperf.trans ?_), fun heq h0 => ?_⟩
    · rw [if_neg (not_not.2 (hsame.2 heq)), if_pos (decide_eq_true h0)]
    · rw [if_neg (not_not.2 (hsame.2 heq)), if_neg (by simpa only [decide_eq_true_eq] using h0)] at hperf
      obtain ⟨v, entry, hc, hvm, hserved⟩ := served_mustWait (g := fun s' y => s'.withValue (s'.getS a) y fun s' v => s'.acquire.result d v) (va := s.getS a)
        (t0 := s.tick) (lim := Min.min x (2 ^ 36)) (serial_noted h.2.1 s.ctr m) hhome hwait hperf
      obtain ⟨hk, hpc⟩ := ((noted_like s s.ctr m).trans (like_of_crew hc)).waiting .barrier p.loc s.tick (Min.min x (2 ^ 36)) entry
      exact ⟨_, hop.trans (congrArg _ (hreq.trans hserved)), sameMemory_of_mem (hvm fun hc => nomatch hc), hpc, hk, _, rfl, rfl, rfl⟩

end Sys2Proof.Machine
end

section
/-! SUPPORT. Queues of the own die (R193 to R202). -/

namespace Sys2Proof.Machine

/-! ### The layout of a queue -/

section layout
variable (q : Qcb)

theorem Qcb.es_ge : 8 ≤ q.es := by
  have := Nat.pow_le_pow_right (show 0 < 2 by decide) (show 3 ≤ q.log2es + 3 by omega)
  exact this

theorem Qcb.cap_pos : 0 < q.cap := Nat.two_pow_pos _

/-- A slot lies in the data array. -/
theorem Qcb.slot_range (k : Nat) : q.data ≤ q.slot k ∧ q.slot k + q.es ≤ q.data + q.cap * q.es := by
  have h := Nat.mul_le_mul_right q.es (Nat.succ_le_of_lt (Nat.mod_lt k q.cap_pos))
  rw [Nat.succ_mul] at h
  exact ⟨Nat.le_add_right .., by unfold Qcb.slot; omega⟩

/-- Two slots that are not a whole number of rounds apart share no byte. -/
theorem Qcb.slot_apart {i : Nat} (k : Nat) (h0 : 0 < i) (hi : i < q.cap) : q.slot (k + i) + q.es ≤ q.slot k ∨ q.slot k + q.es ≤ q.slot (k + i) := by
  have hne : (k + i) % q.cap ≠ k % q.cap := by
    intro h
    have hdvd := (Nat.modEq_iff_dvd' (Nat.le_add_right k i)).1 (show k ≡ k + i [MOD q.cap] from h.symm)
    rw [Nat.add_sub_cancel_left] at hdvd
    exact absurd (Nat.le_of_dvd h0 hdvd) (Nat.not_le.2 hi)
  unfold Qcb.slot
  rcases Nat.lt_or_gt_of_ne hne with hlt | hgt
  · have := Nat.mul_le_mul_right q.es (Nat.succ_le_of_lt hlt)
    rw [Nat.succ_mul] at this
    exact .inl (by omega)
  · have := Nat.mul_le_mul_right q.es (Nat.succ_le_of_lt hgt)
    rw [Nat.succ_mul] at this
    exact .inr (by omega)

end layout

/-- The bytes of HEAD, TAIL and FREE (R193). -/
def qheader (head tail free : Nat) : List Byte := bytesOf 8 head ++ bytesOf 8 tail ++ bytesOf 4 free

theorem w64_word (x : Nat) : w64 (word x) = bytesOf 8 x :=
  bytesOf_congr (by rw [word, BitVec.toNat_ofNat, show 256 ^ 8 = 2 ^ 64 by norm_num, Nat.mod_mod])

/-! ### A queue's bytes are written -/

section writes
variable {s t : State} {loc : Nat}

/-- No waiter is registered at a location. -/
def State.Unwatched (s : State) (loc : Nat) : Prop := ∀ w ∈ (s.die (homeOf loc)).waiters, w.loc ≠ loc

theorem waiters_of_shell (h : t.shell = s.shell) (e : DieId) : (t.die e).waiters = (s.die e).waiters :=
  (congrArg Die.waiters (die_shell h e) : ((t.die e).shell).waiters = ((s.die e).shell).waiters)

theorem unwatched_of_shell (h : t.shell = s.shell) (hs : s.Unwatched loc) : t.Unwatched loc := fun w hw => hs w (waiters_of_shell h _ ▸ hw)

/-- Where nobody waits a wake changes no byte. -/
theorem wake_unwatched (h : s.Unwatched loc) (p : Waiter → Bool) : (s.wake loc p).mem = s.mem := wake_mem fun w hw hl _ => absurd hl (h w hw)

theorem qput_eq (q : Qcb) (who : Requester) (head tail free : Nat) : s.qput q who head tail free = s.writeHome (q.loc + 16) (qheader head tail free) who := by
  rw [qheader, ← w64_word head, ← w64_word tail]; rfl

theorem qput_crew (hs : s.Serial) (q : Qcb) (who : Requester) (head tail free : Nat) : (s.qput q who head tail free).crew = s.crew := by
  rw [qput_eq]; exact writeHome_crew hs ..

/-- One element, filled up with zeros (R196, R197). -/
def Qcb.padded (q : Qcb) (bs : List Byte) : List Byte := bs.take q.es ++ List.replicate (q.es - (bs.take q.es).length) 0

theorem padded_length (q : Qcb) (bs : List Byte) : (q.padded bs).length = q.es := by
  rw [Qcb.padded, List.length_append, List.length_replicate, List.length_take]; omega

theorem padded_get (q : Qcb) (bs : List Byte) {j : Nat} (h : j < q.es) : ((q.padded bs)[j]?).getD 0 = (bs[j]?).getD 0 := by
  rw [Qcb.padded, List.getElem?_append]
  split
  next hj => rw [List.getElem?_take, if_pos h]
  next hj =>
    rw [List.length_take] at hj
    rw [List.getElem?_replicate, List.getElem?_eq_none (show bs.length ≤ j by omega)]
    split <;> rfl

theorem qwrite_succ (q : Qcb) (who : Requester) (k n : Nat) (bs : List Byte) :
    s.qwrite q who k (n + 1) bs = (s.writeHome (q.slot k) (q.padded bs) who).qwrite q who (k + 1) n (bs.drop q.es) := rfl

variable {q : Qcb} {who : Requester}

theorem qwrite_crew (hs : s.Serial) (k n : Nat) (bs : List Byte) : (s.qwrite q who k n bs).crew = s.crew := by
  induction n generalizing s k bs with
  | zero => rfl
  | succ n ih =>
    have hw := writeHome_crew hs (q.slot k) (q.padded bs) who none
    rw [qwrite_succ, ih (serial_of_crew hw hs), hw]

theorem qwrite_shell (k n : Nat) (bs : List Byte) : (s.qwrite q who k n bs).shell = s.shell := by
  induction n generalizing s k bs with
  | zero => rfl
  | succ n ih => rw [qwrite_succ, ih, writeHome_shell]

theorem qwrite_memOk (h : s.MemOk) (k n : Nat) (bs : List Byte) : (s.qwrite q who k n bs).MemOk := by
  induction n generalizing s k bs with
  | zero => exact h
  | succ n ih =>
    refine ih (s := s.writeHome ..) ?_ _ _
    show Memory.wf _ = true
    rw [writeHome_mem]
    exact memWrite_wf _ _ h

/-- Outside the slots that they fill, the elements change no byte. -/
theorem qwrite_other (h : s.MemOk) (k n : Nat) (bs : List Byte) {x : Nat} (hx : ∀ i, i < n → ¬ (q.slot (k + i) ≤ x ∧ x < q.slot (k + i) + q.es)) :
    memGet (s.qwrite q who k n bs).mem x = memGet s.mem x := by
  induction n generalizing s k bs with
  | zero => rfl
  | succ n ih =>
    have hmem := writeHome_mem s (q.slot k) (q.padded bs) who none
    have hok : (s.writeHome (q.slot k) (q.padded bs) who).MemOk := (congrArg (Memory.wf · = true) hmem).mpr (memWrite_wf _ _ h)
    have h0 : ¬ (q.slot k ≤ x ∧ x < q.slot k + q.es) := hx 0 (Nat.succ_pos n)
    rw [qwrite_succ, ih hok, hmem, memGet_memWrite _ _ _ h, padded_length, if_neg h0]
    intro i hi
    rw [Nat.add_assoc, Nat.add_comm 1 i]
    exact hx (i + 1) (by omega)

/-- Each slot holds its part of the bytes, filled up with zeros. -/
theorem qwrite_slot (h : s.MemOk) (k n : Nat) (bs : List Byte) (hn : n ≤ q.cap) {i j : Nat} (hi : i < n) (hj : j < q.es) :
    memGet (s.qwrite q who k n bs).mem (q.slot (k + i) + j) = (bs[i * q.es + j]?).getD 0 := by
  induction n generalizing s k bs i with
  | zero => omega
  | succ n ih =>
    have hmem := writeHome_mem s (q.slot k) (q.padded bs) who none
    have hok : (s.writeHome (q.slot k) (q.padded bs) who).MemOk := (congrArg (Memory.wf · = true) hmem).mpr (memWrite_wf _ _ h)
    rw [qwrite_succ]
    cases i with
    | zero =>
      rw [show q.slot (k + 0) = q.slot k from rfl, qwrite_other hok, hmem, memGet_memWrite _ _ _ h, padded_length, if_pos ⟨by omega, by omega⟩, Nat.add_sub_cancel_left,
        padded_get q bs hj, Nat.zero_mul, Nat.zero_add]
      intro i hi hc
      have hapart := q.slot_apart (i := i + 1) k (by omega) (by omega)
      rw [← Nat.add_assoc, Nat.add_right_comm] at hapart
      omega
    | succ i =>
      have hstep := ih (k := k + 1) (bs := bs.drop q.es) hok (by omega) (by omega : i < n)
      rw [show k + 1 + i = k + (i + 1) by omega, List.getElem?_drop] at hstep
      rw [hstep, show q.es + (i * q.es + j) = (i + 1) * q.es + j by rw [Nat.succ_mul]; omega]

/-- The bytes of `n` slots. -/
def slotBytes (m : List Host.Cell) (q : Qcb) (k : Nat) : Nat → List Byte
  | 0 => []
  | n + 1 => memBytes m (q.slot k) q.es ++ slotBytes m q (k + 1) n

theorem slotBytes_length (m : List Host.Cell) (q : Qcb) (k n : Nat) : (slotBytes m q k n).length = n * q.es := by
  induction n generalizing k with
  | zero => rw [slotBytes, Nat.zero_mul]; rfl
  | succ n ih => rw [slotBytes, List.length_append, memBytes_length, ih, Nat.succ_mul, Nat.add_comm]

theorem slotBytes_get (m : List Host.Cell) (q : Qcb) (k n : Nat) {i : Nat} (h : i < n * q.es) :
    (slotBytes m q k n)[i]? = some (memGet m (q.slot (k + i / q.es) + i % q.es)) := by
  have hes : 0 < q.es := lt_of_lt_of_le (by decide) q.es_ge
  induction n generalizing k i with
  | zero => rw [Nat.zero_mul] at h; omega
  | succ n ih =>
    rw [slotBytes, List.getElem?_append, memBytes_length]
    split
    next hlt => rw [memBytes_get _ _ _ _ hlt, Nat.div_eq_of_lt hlt, Nat.mod_eq_of_lt hlt, Nat.add_zero]
    next hge =>
      rw [Nat.succ_mul] at h
      rw [ih (k + 1) (by omega), Nat.mod_eq_sub_mod (Nat.le_of_not_lt hge), Nat.div_eq_sub_div hes (Nat.le_of_not_lt hge)]
      rw [show k + ((i - q.es) / q.es + 1) = k + 1 + (i - q.es) / q.es by omega]

theorem qread_of_sound (k n : Nat) (h : ∀ i, i < n → s.Sound (q.slot (k + i)) q.es) : s.qread q k n = (slotBytes s.mem q k n).map some := by
  induction n generalizing k with
  | zero => rfl
  | succ n ih =>
    have h0 : s.Sound (q.slot k) q.es := h 0 (Nat.succ_pos n)
    rw [State.qread, slotBytes, List.map_append, homeBytes_of_sound h0, ih]
    intro i hi
    rw [Nat.add_assoc, Nat.add_comm 1 i]
    exact h (i + 1) (by omega)

end writes

/-! ### What the home does -/

section performed
variable {s : State} {loc : Nat} {asker : Asker}

/-- The elements that a number of bytes fills. -/
def Qcb.elems (q : Qcb) (len : Nat) : Nat := (len + q.es - 1) / q.es

theorem elems_pos (q : Qcb) {len : Nat} (h : 0 < len) : 0 < q.elems len :=
  Nat.div_pos (by omega) (lt_of_lt_of_le (by decide) q.es_ge)

theorem elems_bound (q : Qcb) (len : Nat) : len ≤ q.elems len * q.es := by
  have := Nat.div_add_mod (len + q.es - 1) q.es
  have hlt := Nat.mod_lt (len + q.es - 1) (lt_of_lt_of_le (by decide : 0 < 8) q.es_ge)
  rw [Qcb.elems, Nat.mul_comm]
  omega

theorem elems_eight (q : Qcb) : q.elems 8 = 1 := by
  have := q.es_ge
  exact Nat.div_eq_of_lt_le (by omega) (by omega)

/-- A queue after an enqueue, and after a dequeue. -/
def State.enqueued (s : State) (asker : Asker) (loc : Nat) (e : List Byte) : State :=
  let q := s.qcb loc
  ((s.qwrite q asker.who q.tail (q.elems e.length) e).qput q asker.who q.head (q.tail + q.elems e.length) (q.free - q.elems e.length)).wake loc
    fun w => w.what == .queue && !w.put
def State.dequeued (s : State) (asker : Asker) (loc len : Nat) : State :=
  let q := s.qcb loc
  (s.qput q asker.who (q.head + q.elems len) q.tail (q.free + q.elems len)).wake loc fun w => w.what == .queue && w.put

theorem put_performed {e : List Byte} (nb : Bool) (hq : (s.qcb loc).ok = true) (h0 : 0 < e.length) (hn : (s.qcb loc).elems e.length ≤ (s.qcb loc).cap - (s.qcb loc).count) :
    s.performHome asker loc (.put e nb) = (s.enqueued asker loc e, .bytes [] ((s.qcb loc).elems e.length) false) := by
  have hpos := elems_pos (s.qcb loc) h0
  unfold Qcb.elems at hn hpos
  show s.homePut asker loc e nb = _
  unfold State.homePut
  dsimp only
  rw [hq, Bool.not_true, if_neg Bool.false_ne_true, if_neg (by omega), if_neg (by omega), if_neg (by omega)]
  rfl

theorem put_full {e : List Byte} (hq : (s.qcb loc).ok = true) (h0 : 0 < e.length) (hc : (s.qcb loc).elems e.length ≤ (s.qcb loc).cap)
    (hn : (s.qcb loc).cap - (s.qcb loc).count < (s.qcb loc).elems e.length) :
    s.performHome asker loc (.put e true) = (s, .bytes [] 0 false) ∧ s.performHome asker loc (.put e false) = s.mustWait asker .queue true loc := by
  have hpos := elems_pos (s.qcb loc) h0
  unfold Qcb.elems at hn hpos hc
  have hput (nb : Bool) : s.homePut asker loc e nb = if nb then (s, .bytes [] 0 false) else s.mustWait asker .queue true loc := by
    unfold State.homePut
    dsimp only
    rw [hq, Bool.not_true, if_neg Bool.false_ne_true, if_neg (by omega), if_neg (by omega), if_pos hn]
  exact ⟨hput true, hput false⟩

theorem put_corrupt {e : List Byte} (nb : Bool) (hq : (s.qcb loc).ok = false) : s.performHome asker loc (.put e nb) = (s, .trap cQCB_CORRUPT) := by
  show s.homePut asker loc e nb = _
  unfold State.homePut
  dsimp only
  rw [hq]; rfl

theorem get_performed {len : Nat} (nb : Bool) (hq : (s.qcb loc).ok = true) (h0 : 0 < len) (hc : (s.qcb loc).elems len ≤ (s.qcb loc).cap)
    (hn : (s.qcb loc).elems len ≤ (s.qcb loc).count) {bs : List Byte} (hread : (s.qread (s.qcb loc) (s.qcb loc).head ((s.qcb loc).elems len)).take len = bs.map some) :
    s.performHome asker loc (.get len nb) = (s.dequeued asker loc len, .bytes bs ((s.qcb loc).elems len) false) := by
  have hpos := elems_pos (s.qcb loc) h0
  have hunlost : (bs.map some).map unlost = bs := by rw [List.map_map]; exact List.map_id _
  unfold Qcb.elems at hn hpos hc hread
  show s.homeGet asker loc len nb = _
  unfold State.homeGet
  dsimp only
  rw [hq, Bool.not_true, if_neg Bool.false_ne_true, if_neg (by omega), if_neg (by omega), if_neg (by omega), hread, hunlost, anyLost_some]
  rfl

theorem get_empty {len : Nat} (hq : (s.qcb loc).ok = true) (h0 : 0 < len) (hc : (s.qcb loc).elems len ≤ (s.qcb loc).cap) (hn : (s.qcb loc).count < (s.qcb loc).elems len) :
    s.performHome asker loc (.get len true) = (s, .bytes [] 0 false) ∧ s.performHome asker loc (.get len false) = s.mustWait asker .queue false loc := by
  have hpos := elems_pos (s.qcb loc) h0
  unfold Qcb.elems at hn hpos hc
  have hget (nb : Bool) : s.homeGet asker loc len nb = if nb then (s, .bytes [] 0 false) else s.mustWait asker .queue false loc := by
    unfold State.homeGet
    dsimp only
    rw [hq, Bool.not_true, if_neg Bool.false_ne_true, if_neg (by omega), if_neg (by omega), if_pos hn]
  exact ⟨hget true, hget false⟩

theorem get_corrupt {len : Nat} (nb : Bool) (hq : (s.qcb loc).ok = false) : s.performHome asker loc (.get len nb) = (s, .trap cQCB_CORRUPT) := by
  show s.homeGet asker loc len nb = _
  unfold State.homeGet
  dsimp only
  rw [hq]; rfl

theorem enqueued_crew (hs : s.Serial) (e : List Byte) : (s.enqueued asker loc e).crew = s.crew := by
  have hw := qwrite_crew (q := s.qcb loc) (who := asker.who) hs (s.qcb loc).tail ((s.qcb loc).elems e.length) e
  have hp := (qput_crew (serial_of_crew hw hs) (s.qcb loc) asker.who (s.qcb loc).head ((s.qcb loc).tail + (s.qcb loc).elems e.length)
    ((s.qcb loc).free - (s.qcb loc).elems e.length)).trans hw
  exact (wake_crew (serial_of_crew hp hs) ..).trans hp

theorem dequeued_crew (hs : s.Serial) (len : Nat) : (s.dequeued asker loc len).crew = s.crew := by
  have hp := qput_crew hs (s.qcb loc) asker.who ((s.qcb loc).head + (s.qcb loc).elems len) (s.qcb loc).tail ((s.qcb loc).free + (s.qcb loc).elems len)
  exact (wake_crew (serial_of_crew hp hs) ..).trans hp

theorem enqueued_mem (h : s.Unwatched loc) (e : List Byte) : (s.enqueued asker loc e).mem =
    memWrite (s.qwrite (s.qcb loc) asker.who (s.qcb loc).tail ((s.qcb loc).elems e.length) e).mem (loc + 16)
      (qheader (s.qcb loc).head ((s.qcb loc).tail + (s.qcb loc).elems e.length) ((s.qcb loc).free - (s.qcb loc).elems e.length)) := by
  unfold State.enqueued
  dsimp only
  rw [qput_eq]
  refine (wake_unwatched (unwatched_of_shell ((writeHome_shell ..).trans (qwrite_shell ..)) h) _).trans (writeHome_mem ..)

theorem dequeued_mem (h : s.Unwatched loc) (len : Nat) : (s.dequeued asker loc len).mem =
    memWrite s.mem (loc + 16) (qheader ((s.qcb loc).head + (s.qcb loc).elems len) (s.qcb loc).tail ((s.qcb loc).free + (s.qcb loc).elems len)) := by
  unfold State.dequeued
  dsimp only
  rw [qput_eq]
  exact (wake_unwatched (unwatched_of_shell (writeHome_shell ..) h) _).trans (writeHome_mem ..)

end performed

end Sys2Proof.Machine
end

section
/-! SUPPORT. Queue instructions on a queue of the own die (R196 to R202). -/

namespace Sys2Proof.Machine

section enqueue
variable {s : State} {a : SReg} {p : Place} {e : List Byte} {nb : Bool} {f : State → Word → State}

/-- What an enqueue does with its answer. -/
def afterPut (f : State → Word → State) : State → Answer → State := fun s x => match x with
  | .bytes _ n _ => f s (word n)
  | _ => f s 0

/-- What a dequeue does with its answer. -/
def afterGet (va : Word) (f : State → List Byte → Word → State) : State → Answer → State := fun s x => match x with
  | .bytes bs n lost =>
    let s := s.acquire
    if lost then
      let s := (s.orFlags flagDL).count s.me.die 8 0 16 1
      if s.dltrap s.me then s.trap (.of cDATA_LOST_TRAP va) else f s bs (word n)
    else f s bs (word n)
  | _ => f s.acquire [] 0

theorem enqueue_served (h : s.AtHome .rw (s.getS a) 64 p) (hroom : s.countRoom s.me.strand (e.length / 8 + 2) = true) (hset : s.settled .mask s.me.dmask = true)
    (nb : Bool) (f : State → Word → State) :
    ∃ c m, s.enqueue a e nb f = (s.noted c m).served s.asker (s.getS a) p.loc (.put e nb) s.tick 0 (afterPut f) := by
  have hr : s.requestRoom (.put e nb) = true := by rw [State.requestRoom, show (HomeOp.put e nb).credits = e.length / 8 + 2 from rfl, hroom, Bool.or_true]
  obtain ⟨c, m, hreq⟩ := viaHome_maskRelease (op := .put e nb) (t0 := s.tick) (lim := 0) h hr hset (afterPut f)
  exact ⟨c, m, hreq⟩

theorem dequeue_served (h : s.AtHome .rw (s.getS a) 64 p) (len : Nat) (nb : Bool) (f : State → List Byte → Word → State) :
    ∃ m, s.dequeue a len nb f = (s.noted s.ctr m).served s.asker (s.getS a) p.loc (.get len nb) s.tick 0 (afterGet (s.getS a) f) :=
  viaHome_noWait (op := .get len nb) h (requestRoom_of_atHome h fun _ => rfl) _ _ _

theorem answerless_mem (v : State) : v.answerless.mem = v.mem := rfl

theorem noted_qcb (s : State) (c : List (Nat × Word)) (m loc : Nat) : (s.noted c m).qcb loc = s.qcb loc := rfl

/-- An enqueue with room: what is left to do, on a state that holds the bytes. -/
theorem enqueue_done (h : s.AtHome .rw (s.getS a) 64 p) (hroom : s.countRoom s.me.strand (e.length / 8 + 2) = true) (hset : s.settled .mask s.me.dmask = true)
    (hw : s.Unwatched p.loc) (hq : (s.qcb p.loc).ok = true) (h0 : 0 < e.length) (hn : (s.qcb p.loc).elems e.length ≤ (s.qcb p.loc).cap - (s.qcb p.loc).count)
    (nb : Bool) (f : State → Word → State) :
    ∃ u v : State, s.enqueue a e nb f = f v (word ((s.qcb p.loc).elems e.length)) ∧ Like s v ∧ u.mem = s.mem
      ∧ v.mem = memWrite (u.qwrite (s.qcb p.loc) s.asker.who (s.qcb p.loc).tail ((s.qcb p.loc).elems e.length) e).mem (p.loc + 16)
        (qheader (s.qcb p.loc).head ((s.qcb p.loc).tail + (s.qcb p.loc).elems e.length) ((s.qcb p.loc).free - (s.qcb p.loc).elems e.length)) := by
  obtain ⟨c, m, hserved⟩ := enqueue_served h hroom hset nb f
  have hperf := put_performed (s := s.noted c m) (loc := p.loc) (e := e) (asker := s.asker) nb
  have hmem := enqueued_mem (s := s.noted c m) (loc := p.loc) (asker := s.asker) hw e
  rw [noted_qcb] at hperf hmem
  exact ⟨s.noted c m, _, hserved.trans (serve_bytes (hperf hq h0 hn)),
    ((noted_like s c m).trans (like_of_crew (enqueued_crew (serial_noted h.2.1 ..) e))).answerless, rfl, (answerless_mem _).trans hmem⟩

/-- An enqueue without room, in the form that does not wait. -/
theorem enqueue_refused (h : s.AtHome .rw (s.getS a) 64 p) (hroom : s.countRoom s.me.strand (e.length / 8 + 2) = true) (hset : s.settled .mask s.me.dmask = true)
    (hq : (s.qcb p.loc).ok = true) (h0 : 0 < e.length) (hc : (s.qcb p.loc).elems e.length ≤ (s.qcb p.loc).cap)
    (hn : (s.qcb p.loc).cap - (s.qcb p.loc).count < (s.qcb p.loc).elems e.length) (f : State → Word → State) :
    ∃ v : State, s.enqueue a e true f = f v 0 ∧ Like s v ∧ v.mem = s.mem := by
  obtain ⟨c, m, hserved⟩ := enqueue_served h hroom hset true f
  have hfull := put_full (s := s.noted c m) (loc := p.loc) (e := e) (asker := s.asker)
  rw [noted_qcb] at hfull
  exact ⟨_, hserved.trans (serve_bytes (hfull hq h0 hc hn).1), (noted_like s c m).answerless, rfl⟩

/-- An enqueue without room that waits. -/
theorem enqueue_waits (h : s.AtHome .rw (s.getS a) 64 p) (hroom : s.countRoom s.me.strand (e.length / 8 + 2) = true) (hset : s.settled .mask s.me.dmask = true)
    (hq : (s.qcb p.loc).ok = true) (h0 : 0 < e.length) (hc : (s.qcb p.loc).elems e.length ≤ (s.qcb p.loc).cap)
    (hn : (s.qcb p.loc).cap - (s.qcb p.loc).count < (s.qcb p.loc).elems e.length) (hwait : s.me.wait = none) (f : State → Word → State) :
    ∃ (v : State) (entry : Bool), s.enqueue a e false f = v.waiting .queue p.loc s.tick 0 entry ∧ Like s v := by
  obtain ⟨c, m, hserved⟩ := enqueue_served h hroom hset false f
  have hhome : homeOf p.loc = s.me.die := home_of_atHome h
  have hfull := put_full (s := s.noted c m) (loc := p.loc) (e := e) (asker := s.asker)
  rw [noted_qcb] at hfull
  obtain ⟨v, entry, hcrew, -, hsv⟩ := served_mustWait (g := afterPut f) (va := s.getS a) (t0 := s.tick) (lim := 0) (op := .put e false) (serial_noted h.2.1 c m) hhome hwait
    (hfull hq h0 hc hn).2
  exact ⟨v, entry, hserved.trans hsv, (noted_like s c m).trans (like_of_crew hcrew)⟩

theorem enqueue_corrupt (h : s.AtHome .rw (s.getS a) 64 p) (hroom : s.countRoom s.me.strand (e.length / 8 + 2) = true) (hset : s.settled .mask s.me.dmask = true)
    (hq : (s.qcb p.loc).ok = false) (hsent : s.me.sent = none) (nb : Bool) (f : State → Word → State) :
    ∃ c m, s.enqueue a e nb f = (s.noted c m).trap (.of cQCB_CORRUPT (s.getS a)) := by
  obtain ⟨c, m, hserved⟩ := enqueue_served h hroom hset nb f
  refine ⟨c, m, hserved.trans ((serve_trap (put_corrupt (s := s.noted c m) (asker := s.asker) nb hq)).trans ?_)⟩
  rw [answerless_of_none (s := s.noted c m) h.1 hsent]

end enqueue

section dequeue
variable {s : State} {a : SReg} {p : Place} {len : Nat}

/-- A dequeue of elements that are there: what is left to do. -/
theorem dequeue_done (h : s.AtHome .rw (s.getS a) 64 p) (hw : s.Unwatched p.loc) (hq : (s.qcb p.loc).ok = true) (h0 : 0 < len)
    (hc : (s.qcb p.loc).elems len ≤ (s.qcb p.loc).cap) (hn : (s.qcb p.loc).elems len ≤ (s.qcb p.loc).count) {bs : List Byte}
    (hread : (s.qread (s.qcb p.loc) (s.qcb p.loc).head ((s.qcb p.loc).elems len)).take len = bs.map some) (nb : Bool) (f : State → List Byte → Word → State) :
    ∃ v : State, s.dequeue a len nb f = f v bs (word ((s.qcb p.loc).elems len)) ∧ Like s v
      ∧ v.mem = memWrite s.mem (p.loc + 16) (qheader ((s.qcb p.loc).head + (s.qcb p.loc).elems len) (s.qcb p.loc).tail ((s.qcb p.loc).free + (s.qcb p.loc).elems len)) := by
  obtain ⟨m, hserved⟩ := dequeue_served h len nb f
  have hqread (k n : Nat) : (s.noted s.ctr m).qread (s.qcb p.loc) k n = s.qread (s.qcb p.loc) k n := by
    induction n generalizing k with
    | zero => rfl
    | succ n ih => rw [State.qread, State.qread, ih]; rfl
  have hperf := get_performed (s := s.noted s.ctr m) (loc := p.loc) (len := len) (asker := s.asker) nb
  have hmem := dequeued_mem (s := s.noted s.ctr m) (loc := p.loc) (asker := s.asker) hw len
  rw [noted_qcb, hqread] at hperf
  rw [noted_qcb] at hmem
  have hlike := ((noted_like s s.ctr m).trans (like_of_crew (dequeued_crew (asker := s.asker) (loc := p.loc) (serial_noted h.2.1 s.ctr m) len))).answerless
  refine ⟨_, (hserved.trans (serve_bytes (hperf hq h0 hc hn hread))).trans (congrArg (fun u => f u bs _) (acquire_serial (hlike.chunk h.2.1.1))), hlike, (answerless_mem _).trans hmem⟩

theorem dequeue_refused (h : s.AtHome .rw (s.getS a) 64 p) (hq : (s.qcb p.loc).ok = true) (h0 : 0 < len) (hc : (s.qcb p.loc).elems len ≤ (s.qcb p.loc).cap)
    (hn : (s.qcb p.loc).count < (s.qcb p.loc).elems len) (f : State → List Byte → Word → State) :
    ∃ v : State, s.dequeue a len true f = f v [] 0 ∧ Like s v ∧ v.mem = s.mem := by
  obtain ⟨m, hserved⟩ := dequeue_served h len true f
  have hlike := (noted_like s s.ctr m).answerless
  have hempty := get_empty (s := s.noted s.ctr m) (loc := p.loc) (len := len) (asker := s.asker)
  rw [noted_qcb] at hempty
  exact ⟨_, (hserved.trans (serve_bytes (hempty hq h0 hc hn).1)).trans
    (congrArg (fun u => f u [] 0) (acquire_serial (hlike.chunk h.2.1.1))), hlike, rfl⟩

theorem dequeue_waits (h : s.AtHome .rw (s.getS a) 64 p) (hq : (s.qcb p.loc).ok = true) (h0 : 0 < len) (hc : (s.qcb p.loc).elems len ≤ (s.qcb p.loc).cap)
    (hn : (s.qcb p.loc).count < (s.qcb p.loc).elems len) (hwait : s.me.wait = none) (f : State → List Byte → Word → State) :
    ∃ (v : State) (entry : Bool), s.dequeue a len false f = v.waiting .queue p.loc s.tick 0 entry ∧ Like s v := by
  obtain ⟨m, hserved⟩ := dequeue_served h len false f
  have hhome : homeOf p.loc = s.me.die := home_of_atHome h
  have hempty := get_empty (s := s.noted s.ctr m) (loc := p.loc) (len := len) (asker := s.asker)
  rw [noted_qcb] at hempty
  obtain ⟨v, entry, hcrew, -, hsv⟩ := served_mustWait (g := afterGet (s.getS a) f) (va := s.getS a) (t0 := s.tick) (lim := 0) (op := .get len false) (serial_noted h.2.1 s.ctr m)
    hhome hwait (hempty hq h0 hc hn).2
  exact ⟨v, entry, hserved.trans hsv, (noted_like s s.ctr m).trans (like_of_crew hcrew)⟩

theorem dequeue_corrupt (h : s.AtHome .rw (s.getS a) 64 p) (hq : (s.qcb p.loc).ok = false) (hsent : s.me.sent = none) (nb : Bool) (f : State → List Byte → Word → State) :
    ∃ c m, s.dequeue a len nb f = (s.noted c m).trap (.of cQCB_CORRUPT (s.getS a)) := by
  obtain ⟨m, hserved⟩ := dequeue_served h len nb f
  refine ⟨s.ctr, m, hserved.trans ((serve_trap (get_corrupt (s := s.noted s.ctr m) (asker := s.asker) nb hq)).trans ?_)⟩
  rw [answerless_of_none (s := s.noted s.ctr m) h.1 hsent]

end dequeue

/-! ### Closing steps -/

section closing
variable {s v : State} {d : SReg} {x : Word}


theorem Like.waits (h : Like s v) (what : WaitFor) (loc t0 lim : Nat) (entry : Bool) :
    let t := v.waiting what loc t0 lim entry
    t.me.pc = s.me.pc ∧ SlotKept s t id ∧ ∃ w, t.me.wait = some w ∧ w.what = what := by
  obtain ⟨hk, hpc⟩ := h.waiting what loc t0 lim entry
  exact ⟨hpc, hk, _, rfl, rfl⟩

end closing

/-- One element of 8 bytes, and the bytes of its slot. -/
theorem padded_word (q : Qcb) (x : Word) : q.padded (w64 x) = bytesOf 8 x.toNat ++ List.replicate (q.es - 8) 0 := by
  have hlen : (w64 x).length = 8 := bytesOf_length ..
  rw [Qcb.padded, List.take_of_length_le (by rw [hlen]; exact q.es_ge), hlen]
  rfl

/-- The first bytes of the slot at HEAD. -/
theorem qread_front {s : State} {q : Qcb} {k : Nat} (h : s.Sound (q.slot k) 8) : (s.qread q k 1).take 8 = (memBytes s.mem (q.slot k) 8).map some := by
  have htake : ∀ (n m loc : Nat), (upFrom loc (n + m)).take n = upFrom loc n := by
    intro n
    induction n with
    | zero => intro m loc; simp [upFrom]
    | succ n ih => intro m loc; rw [Nat.add_right_comm, upFrom, List.take_succ_cons, ih]; rfl
  obtain ⟨m, hm⟩ := Nat.exists_eq_add_of_le q.es_ge
  rw [State.qread, State.qread, List.append_nil, ← List.map_take, hm, htake, homeBytes_of_sound h]

end Sys2Proof.Machine
end

section
/-! SUPPORT. What the queue instructions do on a queue of the own die. -/

namespace Sys2Proof.Machine

theorem completes_of {i : Instr} {s t : State} {P : State → Prop} (hx : exec i s = .next t) (h : P t) : Completes i s P := ⟨t, hx, h⟩

section queue
variable {s v : State} {a b d : SReg} {p : Place}

/-- The bytes of one element, and the header over them. -/
theorem storedBoth_of_mem {u : State} {q : Qcb} {who : Requester} {e hdr : List Byte} (hm : s.MemOk) (hu : u.mem = s.mem)
    (hv : v.mem = memWrite (u.qwrite q who q.tail 1 e).mem (p.loc + 16) hdr) : StoredBoth s v (p.loc + 16) hdr (q.slot q.tail) (q.padded e) := fun x => by
  have hone : (u.qwrite q who q.tail 1 e).mem = memWrite s.mem (q.slot q.tail) (q.padded e) := by
    have h := writeHome_mem u (q.slot q.tail) (q.padded e) who none
    rw [hu] at h
    exact h
  rw [hv, hone, memGet_memWrite _ _ _ (memWrite_wf _ _ hm), memGet_memWrite _ _ _ hm]

/-- `qput` and `qput.nb` with room. -/
theorem qput_stores (h : s.AtHome .rw (s.getS a) 64 p) (hroom : s.countRoom s.me.strand 3 = true) (hset : s.settled .mask s.me.dmask = true) (hm : s.MemOk)
    (hw : s.Unwatched p.loc) (hq : (s.qcb p.loc).ok = true) (hn : (s.qcb p.loc).count < (s.qcb p.loc).cap) (nb : Bool) (f : State → Word → State) :
    ∃ v : State, s.enqueue a (w64 (s.getS b)) nb f = f v 1 ∧ Like s v ∧ StoredBoth s v (p.loc + 16)
      (qheader (s.qcb p.loc).head ((s.qcb p.loc).tail + 1) ((s.qcb p.loc).free - 1)) ((s.qcb p.loc).slot (s.qcb p.loc).tail)
      (bytesOf 8 (s.getS b).toNat ++ List.replicate ((s.qcb p.loc).es - 8) 0) := by
  have hone : (s.qcb p.loc).elems (w64 (s.getS b)).length = 1 := by rw [w64_length, elems_eight]
  obtain ⟨u, v, hf, hlike, hu, hv⟩ := enqueue_done (e := w64 (s.getS b)) h (by rw [w64_length]; exact hroom) hset hw hq (by rw [w64_length]; decide)
    (by rw [hone]; omega) nb f
  rw [hone] at hf hv
  exact ⟨v, hf, hlike, padded_word (s.qcb p.loc) (s.getS b) ▸ storedBoth_of_mem hm hu hv⟩

/-- `qget` and `qget.nb` of an element that is there. -/
theorem qget_reads (h : s.AtHome .rw (s.getS a) 64 p) (hm : s.MemOk) (hw : s.Unwatched p.loc) (hq : (s.qcb p.loc).ok = true) (hn : 0 < (s.qcb p.loc).count)
    (hs : s.Sound ((s.qcb p.loc).slot (s.qcb p.loc).head) 8) (nb : Bool) (f : State → List Byte → Word → State) :
    ∃ v : State, s.dequeue a 8 nb f = f v (memBytes s.mem ((s.qcb p.loc).slot (s.qcb p.loc).head) 8) 1 ∧ Like s v
      ∧ StoredBytes s v (p.loc + 16) (qheader ((s.qcb p.loc).head + 1) (s.qcb p.loc).tail ((s.qcb p.loc).free + 1)) := by
  have hone := elems_eight (s.qcb p.loc)
  obtain ⟨v, hf, hlike, hv⟩ := dequeue_done (len := 8) h hw hq (by decide) (hone ▸ Qcb.cap_pos _) (by rw [hone]; exact hn) (by rw [hone]; exact qread_front hs) nb f
  rw [hone] at hf hv
  exact ⟨v, hf, hlike, storedBytes_of_mem hm hv⟩

end queue

/-- Settles O22: each form is one enqueue or dequeue at home (`enqueue_done`, `dequeue_done` and their refusals). -/
theorem queueOperations : Obligations.QueueOperations := by
  unfold Obligations.QueueOperations
  intro d a b s p q hdr elem front settled hm h hroom3 hsent hwatch
  have hlen : (w64 (s.getS b)).length = 8 := w64_length _
  have hone : q.elems (w64 (s.getS b)).length = 1 := by rw [hlen]; exact elems_eight q
  have hroom : s.countRoom s.me.strand ((w64 (s.getS b)).length / 8 + 2) = true := by rw [hlen]; exact hroom3
  have h0 : 0 < (w64 (s.getS b)).length := by rw [hlen]; decide
  have hcap : 1 ≤ q.cap := q.cap_pos
  have hfull (heq : q.count = q.cap) : q.cap - q.count < q.elems (w64 (s.getS b)).length := by rw [hone]; omega
  have hempty (heq : q.count = 0) : q.count < q.elems 8 := by rw [elems_eight]; omega
  have hhome : homeOf p.loc = s.me.die := home_of_atHome h
  have hw : s.Unwatched p.loc := fun w hw' => hwatch w (hhome ▸ hw')
  refine ⟨fun hok hset hlt => ⟨?_, ?_⟩, fun hok hset heq => ⟨?_, fun hwait => ?_⟩, fun hok hpos hsound => ⟨?_, ?_⟩, fun hok heq => ⟨?_, fun hwait => ?_⟩,
    fun hok => ⟨fun hset => ⟨?_, ?_⟩, ?_, ?_⟩⟩
  · obtain ⟨v, hf, hlike, hst⟩ := qput_stores (b := b) h hroom3 hset hm hw hok hlt false fun s _ => s.done4
    exact completes_of (congrArg Host.Outcome.next hf) ⟨hst, hlike.done4⟩
  · obtain ⟨v, hf, hlike, hst⟩ := qput_stores (b := b) h hroom3 hset hm hw hok hlt true fun s n => s.result d n
    exact completes_of (congrArg Host.Outcome.next hf) ⟨hst, hlike.result d 1⟩
  · obtain ⟨v, hf, hlike, hmem⟩ := enqueue_refused h hroom hset hok h0 (hone ▸ hcap) (hfull heq) fun s n => s.result d n
    exact completes_of (congrArg Host.Outcome.next hf) ⟨sameMemory_of_mem hmem, hlike.result d 0⟩
  · obtain ⟨v, entry, hf, hlike⟩ := enqueue_waits h hroom hset hok h0 (hone ▸ hcap) (hfull heq) hwait fun s _ => s.done4
    exact completes_of (congrArg Host.Outcome.next hf) (hlike.waits ..)
  · obtain ⟨v, hf, hlike, hst⟩ := qget_reads h hm hw hok hpos hsound false fun s bs _ => s.result d (word (ofBytes bs))
    exact completes_of (congrArg Host.Outcome.next hf) ⟨hst, hlike.result d front⟩
  · obtain ⟨v, hf, hlike, hst⟩ := qget_reads h hm hw hok hpos hsound true fun s bs n => ((if n = 0 then s else s.setS d (word (ofBytes bs))).setS b n).done4
    rw [if_neg (by decide)] at hf
    obtain ⟨hwb, hpb, hkb⟩ := result_effect (v.setS d front) b 1
    refine completes_of (congrArg Host.Outcome.next hf) ⟨hst, fun r => (hwb r).trans ?_, Eq.trans hpb ?_, ?_⟩
    · rw [setS_wrote v d front r, hlike.getS]
    · rw [setS_pc, hlike.pc]
    · exact hlike.slotKept (e := Ctx.noS) (fun _ => rfl) ((setS_keeps v d front).trans hkb).slot
  · obtain ⟨v, hf, hlike, hmem⟩ := dequeue_refused (len := 8) h hok (by decide) ((elems_eight q).symm ▸ hcap) (hempty heq)
      fun s bs n => ((if n = 0 then s else s.setS d (word (ofBytes bs))).setS b n).done4
    rw [if_pos rfl] at hf
    exact completes_of (congrArg Host.Outcome.next hf) ⟨sameMemory_of_mem hmem, hlike.result b 0⟩
  · obtain ⟨v, entry, hf, hlike⟩ := dequeue_waits (len := 8) h hok (by decide) ((elems_eight q).symm ▸ hcap) (hempty heq) hwait
      fun s bs _ => s.result d (word (ofBytes bs))
    exact completes_of (congrArg Host.Outcome.next hf) (hlike.waits ..)
  · obtain ⟨c, m, hf⟩ := enqueue_corrupt h hroom hset hok hsent false fun s _ => s.done4
    exact completes_of (congrArg Host.Outcome.next hf) ⟨c, m, rfl⟩
  · obtain ⟨c, m, hf⟩ := enqueue_corrupt h hroom hset hok hsent true fun s n => s.result d n
    exact completes_of (congrArg Host.Outcome.next hf) ⟨c, m, rfl⟩
  · obtain ⟨c, m, hf⟩ := dequeue_corrupt (len := 8) h hok hsent false fun s bs _ => s.result d (word (ofBytes bs))
    exact completes_of (congrArg Host.Outcome.next hf) ⟨c, m, rfl⟩
  · obtain ⟨c, m, hf⟩ := dequeue_corrupt (len := 8) h hok hsent true fun s bs n => ((if n = 0 then s else s.setS d (word (ofBytes bs))).setS b n).done4
    exact completes_of (congrArg Host.Outcome.next hf) ⟨c, m, rfl⟩

/-! ### The status and a new queue -/

theorem bytesOf_zero (n : Nat) : bytesOf n 0 = List.replicate n 0 := by
  induction n with
  | zero => rfl
  | succ n ih => rw [bytesOf, Nat.zero_div, ih, List.replicate_succ]; rfl

theorem qinitBytes_eq (loc data es cap : Nat) : qinitBytes loc data es cap = bytesOf 4 0x51430001 ++ [1, BitVec.ofNat 8 es, BitVec.ofNat 8 cap, 1] ++ bytesOf 8 data
    ++ List.replicate 16 0 ++ bytesOf 4 (2 ^ cap) ++ List.replicate 4 0 ++ [BitVec.ofNat 8 (homeOf loc).val] ++ List.replicate 23 0 := by
  rw [qinitBytes, bytesOf_zero, bytesOf_zero, bytesOf_zero]

theorem snapshot_eq (q : Qcb) : q.snapshot = if q.ok then q.getw * 2 ^ 41 + q.putw * 2 ^ 25 + q.count else 2 ^ 63 := by
  rw [Qcb.snapshot]
  cases q.ok
  · rw [if_pos (by decide), if_neg Bool.false_ne_true]
  · rw [if_neg (by decide), if_pos rfl]

section qinit
variable {s : State} {loc : Nat} {asker : Asker}

theorem qstat_performed : s.performHome asker loc .qstat = (s, .value (word (s.qcb loc).snapshot) 0 none) := rfl

/-- A new queue written for a requester. -/
def State.newQueue (s : State) (asker : Asker) (loc data es cap : Nat) : State :=
  (s.writeHome loc (qinitBytes loc data es cap) asker.who).wake loc fun w => w.what == .queue

theorem qinit_performed (data es cap : Nat) : s.performHome asker loc (.qinit data es cap) = (s.newQueue asker loc data es cap, .value 0 0 none) := rfl

theorem newQueue_crew (hs : s.Serial) (data es cap : Nat) : (s.newQueue asker loc data es cap).crew = s.crew := by
  have hw := writeHome_crew hs loc (qinitBytes loc data es cap) asker.who none
  exact (wake_crew (serial_of_crew hw hs) ..).trans hw

theorem newQueue_mem (h : s.Unwatched loc) (data es cap : Nat) : (s.newQueue asker loc data es cap).mem = memWrite s.mem loc (qinitBytes loc data es cap) :=
  (wake_unwatched (unwatched_of_shell (writeHome_shell ..) h) _).trans (writeHome_mem ..)

/-- A new queue whose operand and array pass their checks is one request at home. -/
theorem exec_qinit {a b : SReg} {x : OxReg} {r : Word} {p : Place} {data : Nat} (hox : s.OxHolds x .qinit r) (h : s.AtHome .rw (s.getS a) 64 p)
    (hb : (s.getS b).toNat < 2 ^ 55) (halign : (s.getS b).toNat % 2 ^ (bits r 0 3 + 3) = 0)
    (hdata : s.queueData p (s.getS b) (2 ^ bits r 8 5 * 2 ^ (bits r 0 3 + 3)) = .ok data) :
    exec (.qinit a b x) s = .next (s.queueOp a .rw (.qinit data (bits r 0 3) (bits r 8 5)) maskRelease fun s _ => s.done4) := by
  obtain ⟨hkind, hbad, hval⟩ := hox
  obtain ⟨hans, -, ⟨hal, hlook, -⟩, -⟩ := h
  have hx : exec (.qinit a b x) s = execQinit a b x s := rfl
  rw [hx, execQinit]
  dsimp only
  rw [State.ox, if_neg (by rw [hkind, hbad]; simp), hval, hans, Option.isSome_none, if_neg Bool.false_ne_true, if_neg (by rw [hal]; decide),
    if_neg (by rw [halign]; omega), hlook]
  dsimp only
  rw [hdata]

end qinit

/-- Settles O24: `qstat` reads the snapshot at home, `qinit` is one write of 64 bytes there. -/
theorem queueStatusAndInit : Obligations.QueueStatusAndInit := by
  unfold Obligations.QueueStatusAndInit
  intro d a b x s p r data q es cap
  refine ⟨fun h => ?_, fun hm hox h hset hwatch hb halign hdata => ?_⟩
  · obtain ⟨m, hreq⟩ := viaHome_noWait (op := .qstat) (t0 := s.tick) (lim := 0) h (requestRoom_of_atHome h fun h => absurd h Bool.false_ne_true)
      fun s x => match x with | .value v _ _ => s.result d v | _ => s.done4
    obtain ⟨hout, hwr, hp, hk⟩ := served_result (d := d) (y := word q.snapshot) (noted_like s s.ctr m) hreq qstat_performed rfl rfl
    refine completes_of (i := .qstat d a) rfl ⟨?_, sameMemory_of_mem (mem_of_outside hout), hp, hk⟩
    rw [← snapshot_eq]
    exact hwr
  · have hhome : homeOf p.loc = s.me.die := home_of_atHome h
    obtain ⟨c, m, hreq⟩ := viaHome_maskRelease (op := .qinit data es cap) (t0 := s.tick) (lim := 0) h (requestRoom_of_atHome h fun _ => rfl) hset fun s _ => s.done4
    obtain ⟨hout, hp, hk⟩ := served_done4 (noted_like s c m) hreq (qinit_performed data es cap) (newQueue_crew (serial_noted h.2.1 ..) ..) rfl
    refine completes_of (exec_qinit hox h hb halign hdata) ⟨?_, hp, hk⟩
    rw [← hhome, ← qinitBytes_eq]
    exact storedBytes_of_mem hm ((mem_of_outside hout).trans (newQueue_mem (s := s.noted c m) (fun w hw => hwatch w (hhome ▸ hw)) ..))

end Sys2Proof.Machine
end

section
/-! SUPPORT. Register groups through queues (R197, R200). -/

namespace Sys2Proof.Machine

section group
variable {s v : State} {r : VReg}

theorem groupBytes_length (c : Ctx) (r : VReg) : (c.groupBytes r).length = c.groupLen := by
  rw [Ctx.groupBytes, List.length_map, upFrom_zero, List.length_range]

theorem groupBytes_get (c : Ctx) (r : VReg) (i : Nat) :
    ((c.groupBytes r)[i]?).getD 0 = if i < c.groupLen then BitVec.ofNat 8 (elemGet c.img.v r.val 8 i) else 0 := by
  rw [Ctx.groupBytes, upFrom_zero, List.getElem?_map]
  split
  next h => rw [List.getElem?_range h]; rfl
  next h => rw [List.getElem?_eq_none (by rw [List.length_range]; omega)]; rfl

/-- The half bytes of a group that its elements take. -/
def Ctx.nibbles (c : Ctx) : Nat := if c.et.ew = 4 then c.vl else 2 * c.groupLen

theorem nibbles_le (c : Ctx) : c.nibbles ≤ 2 * c.groupLen := by
  rw [Ctx.nibbles]
  split
  next h => rw [Ctx.groupLen, h]; omega
  next => exact le_rfl

/-- They lie in the file. -/
theorem nibbles_in_file (h : s.SpanOk [r]) {k : Nat} (hk : k < s.me.nibbles) : r.val * 512 + k < 16384 := by
  have hpos : 0 < s.me.vl := by
    rcases Nat.eq_zero_or_pos s.me.vl with h0 | h0
    · rw [Ctx.nibbles, Ctx.groupLen, h0] at hk
      split at hk <;> omega
    · exact h0
  have hfile := elem_in_file h (List.mem_singleton.2 rfl) (Nat.sub_lt hpos Nat.one_pos)
  have hmul := ew_mul s.me.et
  rw [perFile] at hfile
  have hbits : r.val * 2048 + s.me.vl * s.me.et.ew ≤ 32 * 2048 := by
    calc r.val * 2048 + s.me.vl * s.me.et.ew = (r.val * (2048 / s.me.et.ew) + s.me.vl) * s.me.et.ew := by rw [Nat.add_mul, Nat.mul_assoc, hmul]
      _ ≤ 32 * (2048 / s.me.et.ew) * s.me.et.ew := Nat.mul_le_mul_right _ (by omega)
      _ = 32 * 2048 := by rw [Nat.mul_assoc, hmul]
  rw [Ctx.nibbles] at hk
  split at hk
  next h4 => rw [h4] at hbits; omega
  next => rw [Ctx.groupLen] at hk; omega

theorem putGroup_nil (c : Ctx) (r : VReg) : c.putGroup r [] = c := by
  rw [Ctx.putGroup, List.length_nil, Nat.mul_zero, Nat.min_zero, ite_self]
  rfl

/-- The value of half byte `k` of some bytes. -/
def nibbleOf (bs : List Byte) (k : Nat) : Nat := ((bs[k / 2]?).getD 0).toNat / 16 ^ (k % 2) % 16

theorem putGroup_eq {c : Ctx} {bs : List Byte} (h : bs.length = c.groupLen) (r : VReg) :
    c.putGroup r bs = c.putElems r.val 4 ((List.range c.nibbles).map fun k => (k, nibbleOf bs k)) := by
  have hlen := nibbles_le c
  rw [Ctx.nibbles] at hlen ⊢
  rw [Ctx.putGroup, h, upFrom_zero]
  split
  next h4 => rw [if_pos h4] at hlen; rw [Nat.min_eq_left hlen]; rfl
  next => rfl

/-- Elements written: nothing else of the slot changes. -/
theorem putElems_keeps (c : Ctx) (r ew : Nat) (l : List (Nat × Nat)) :
    (c.putElems r ew l).still.noV = c.still.noV ∧ (c.putElems r ew l).pc = c.pc ∧ (c.putElems r ew l).s = c.s := by
  cases l
  · exact ⟨rfl, rfl, rfl⟩
  · exact ⟨rfl, rfl, rfl⟩

theorem putGroup_wroteV (h : s.SpanOk [r]) (hlike : Like s v) {bs : List Byte} (hlen : bs.length = s.me.groupLen) {t : State}
    (ht : t.me.img.v = (v.me.putGroup r bs).img.v) : WroteV s t r 4 fun k => if k < s.me.nibbles then some (nibbleOf bs k) else none := by
  have himg := hlike.img
  have het : v.me.et = s.me.et := hlike.field Ctx.et fun _ => rfl
  have hvl : v.me.vl = s.me.vl := hlike.field Ctx.vl fun _ => rfl
  have hgl : v.me.groupLen = s.me.groupLen := by rw [Ctx.groupLen, Ctx.groupLen, het, hvl]
  have hnib : v.me.nibbles = s.me.nibbles := by rw [Ctx.nibbles, Ctx.nibbles, het, hvl, hgl]
  intro j hj
  have hget := elemGet_elemsSet s.me.img.v .i4 (nibbleOf bs) r.val (is := List.range s.me.nibbles)
    (fun i hi => nibbles_in_file h (List.mem_range.1 hi)) (j := j) hj
  rw [ht, putGroup_eq (hlen.trans hgl.symm), putElems_v, himg, hnib]
  simp only [List.mem_range] at hget
  refine hget.trans ?_
  show (if r.val * 512 ≤ j ∧ j - r.val * 512 < s.me.nibbles then nibbleOf bs (j - r.val * 512) % 2 ^ 4 else _)
    = match (if r.val * 512 ≤ j then (if j - r.val * 512 < s.me.nibbles then some (nibbleOf bs (j - r.val * 512)) else none) else none) with
      | some x => x % 2 ^ 4
      | none => _
  by_cases hle : r.val * 512 ≤ j
  · by_cases hlt : j - r.val * 512 < s.me.nibbles
    · rw [if_pos ⟨hle, hlt⟩, if_pos hle, if_pos hlt]
    · rw [if_neg fun hc => hlt hc.2, if_pos hle, if_neg hlt]; rfl
  · rw [if_neg fun hc => hle hc.1, if_neg hle]; rfl

theorem setS_img (w : State) (d : SReg) (x : Word) : (w.setS d x).me.img = w.me.img := by
  rw [setS_me, Ctx.setS]; split <;> rfl

theorem result_img (w : State) (d : SReg) (x : Word) : (w.result d x).me.img = w.me.img := (advance_img ..).trans (setS_img ..)

/-- A group written, and the instruction completed. -/
theorem grouped_done4 {w : State} (hlike : Like s w) (r : VReg) (bs : List Byte) :
    Passed s (w.mapMe fun c => c.putGroup r bs).done4 4 ∧ SlotKept s (w.mapMe fun c => c.putGroup r bs).done4 Ctx.noV := by
  obtain ⟨hv, hpc, -⟩ := putElems_keeps w.me r.val 4 _
  obtain ⟨hp, hk⟩ := advance_keeps (w.mapMe fun c => c.putGroup r bs) 4 Ctx.noV
  exact ⟨Eq.trans hp (congrArg (· + word 4) (hpc.trans hlike.pc)), hlike.slotKept (e := Ctx.noV) (fun _ => rfl) (hk.slot.trans hv)⟩

/-- A group written, then a scalar register. -/
theorem grouped_result {w : State} (hlike : Like s w) (r : VReg) (bs : List Byte) (d : SReg) (x : Word) :
    let t := (w.mapMe fun c => c.putGroup r bs).result d x
    WroteS s t d x ∧ Passed s t 4 ∧ SlotKept s t (Ctx.noS ∘ Ctx.noV) := by
  obtain ⟨hv, hpc, hs⟩ := putElems_keeps w.me r.val 4 _
  obtain ⟨hwr, hp, hk⟩ := result_effect (w.mapMe fun c => c.putGroup r bs) d x
  have hgetS (q : SReg) : (w.mapMe fun c => c.putGroup r bs).getS q = w.getS q := congrArg (fun f => if q = 0 then (0 : Word) else f[q]) hs
  refine ⟨fun q => (hwr q).trans (by rw [hgetS, hlike.getS]), Eq.trans hp (congrArg (· + word 4) (hpc.trans hlike.pc)), ?_⟩
  have hslot : Ctx.noV (Ctx.noS ((w.mapMe fun c => c.putGroup r bs).result d x).me.still) = Ctx.noV (Ctx.noS (w.mapMe fun c => c.putGroup r bs).me.still) :=
    congrArg Ctx.noV hk.slot
  exact hlike.slotKept (e := Ctx.noS ∘ Ctx.noV) (fun _ => rfl) (hslot.trans (congrArg Ctx.noS hv))

end group

/-! ### The bytes of an enqueue -/

section put
variable {u s : State} {q : Qcb} {who : Requester} {e hdr : List Byte} {loc n : Nat}

/-- Memory after an enqueue whose header and array share no byte. -/
theorem enqueued_bytes (hm : s.MemOk) (hu : u.mem = s.mem) (hapart : loc + 64 ≤ q.data ∨ q.data + q.cap * q.es ≤ loc) (hn : n ≤ q.cap) (hlen : hdr.length = 20)
    {m : List Host.Cell} (hv : m = memWrite (u.qwrite q who q.tail n e).mem (loc + 16) hdr) :
    (∀ x, (x < q.data ∨ q.data + q.cap * q.es ≤ x) → memGet m x = if loc + 16 ≤ x ∧ x < loc + 36 then (hdr[x - (loc + 16)]?).getD 0 else memGet s.mem x)
    ∧ ∀ k, k < n → ∀ j, j < q.es → memGet m (q.slot (q.tail + k) + j) = (e[k * q.es + j]?).getD 0
      ∧ ∀ i, n ≤ i → i < q.cap → memGet m (q.slot (q.tail + i) + j) = memGet s.mem (q.slot (q.tail + i) + j) := by
  have hum : u.MemOk := (congrArg (Memory.wf · = true) hu).mpr hm
  have hget (x : Nat) : memGet m x = if loc + 16 ≤ x ∧ x < loc + 36 then (hdr[x - (loc + 16)]?).getD 0 else memGet (u.qwrite q who q.tail n e).mem x := by
    rw [hv, memGet_memWrite _ _ _ (qwrite_memOk hum ..), hlen, Nat.add_assoc loc 16 20]
  have hin (k j : Nat) (hj : j < q.es) : ¬ (loc + 16 ≤ q.slot k + j ∧ q.slot k + j < loc + 36) := by
    have := q.slot_range k
    omega
  refine ⟨fun x hx => ?_, fun k hk j hj => ⟨?_, fun i hi hc => ?_⟩⟩
  · rw [hget, qwrite_other hum, hu]
    intro i _ hc
    have := q.slot_range (q.tail + i)
    omega
  · rw [hget, if_neg (hin _ _ hj), qwrite_slot hum _ _ _ hn hk hj]
  · rw [hget, if_neg (hin _ _ hj), qwrite_other hum, hu]
    intro k hk hc
    have hapart := q.slot_apart (i := i - k) (q.tail + k) (by omega) (by omega)
    rw [show q.tail + k + (i - k) = q.tail + i by omega] at hapart
    omega

end put

/-- The first bytes of the elements at HEAD. -/
theorem qread_sound {s : State} {q : Qcb} {n len : Nat} (h : ∀ k, k < n → s.Sound (q.slot (q.head + k)) q.es) :
    (s.qread q q.head n).take len = ((slotBytes s.mem q q.head n).take len).map some := by
  rw [qread_of_sound _ _ h, List.map_take]

/-- Settles O23: each form is one enqueue or dequeue at home, of the bytes of a group. -/
theorem vectorQueueOperations : Obligations.VectorQueueOperations := by
  unfold Obligations.VectorQueueOperations
  intro v a b s p q ew len n hdr hdrAt settled hm hspan h hroom hwatch hok hapart hpos hcap putAll gotAll
  have hhome : homeOf p.loc = s.me.die := home_of_atHome h
  have hw : s.Unwatched p.loc := fun w hw' => hwatch w (hhome ▸ hw')
  have hlen : (s.me.groupBytes v).length = len := groupBytes_length ..
  have helems : q.elems (s.me.groupBytes v).length = n := by rw [hlen]; rfl
  have hroom' : s.countRoom s.me.strand ((s.me.groupBytes v).length / 8 + 2) = true := by rw [hlen]; exact hroom
  have hpos' : 0 < (s.me.groupBytes v).length := by rw [hlen]; exact hpos
  have hspanned (f : State → State) : s.span [v] anyType f = f s := span_of_ok hspan rfl f
  have hput (hset : settled) (hn : n ≤ q.cap - q.count) (nb : Bool) (f : State → Word → State) :
      ∃ w : State, s.enqueue a (s.me.groupBytes v) nb f = f w (word n) ∧ Like s w ∧ putAll w := by
    obtain ⟨u, w, hf, hlike, hu, hmem⟩ := enqueue_done (e := s.me.groupBytes v) h hroom' hset hw hok hpos' (by rw [helems]; exact hn) nb f
    rw [helems] at hf hmem
    obtain ⟨hout, hslots⟩ := enqueued_bytes hm hu hapart hcap (by simp only [qheader, List.length_append, bytesOf_length]) hmem
    refine ⟨w, hf, hlike, hout, fun k hk j hj => ⟨(hslots k hk j hj).1.trans (groupBytes_get ..), (hslots k hk j hj).2⟩⟩
  have hgot (hn : n ≤ q.count) (hsound : ∀ k, k < n → s.Sound (q.slot (q.head + k)) q.es) (nb : Bool) (f : State → List Byte → Word → State) :
      ∃ (w : State) (bs : List Byte), s.dequeue a len nb f = f w bs (word n) ∧ Like s w ∧ bs.length = s.me.groupLen
        ∧ StoredBytes s w (p.loc + 16) (hdr (q.head + n) q.tail (q.free + n))
        ∧ ∀ k, k < s.me.nibbles → nibbleOf bs k = (memGet s.mem (q.slot (q.head + k / 2 / q.es) + k / 2 % q.es)).toNat / 16 ^ (k % 2) % 16 := by
    obtain ⟨w, hf, hlike, hmem⟩ := dequeue_done (len := len) (bs := (slotBytes s.mem q q.head n).take len) h hw hok hpos hcap hn (qread_sound hsound) nb f
    have hbound : len ≤ n * q.es := elems_bound q len
    refine ⟨w, _, hf, hlike, ?_, storedBytes_of_mem hm hmem, fun k hk => ?_⟩
    · rw [List.length_take, slotBytes_length]
      exact Nat.min_eq_left hbound
    · have hk2 : k / 2 < len := by
        have h1 := lt_of_lt_of_le hk (nibbles_le s.me)
        have h2 : s.me.groupLen = len := rfl
        omega
      rw [nibbleOf, List.getElem?_take, if_pos hk2, slotBytes_get _ _ _ _ (lt_of_lt_of_le hk2 hbound)]
      rfl
  have hgroup {w : State} {bs : List Byte} (hlike : Like s w) (hbl : bs.length = s.me.groupLen)
      (hst : StoredBytes s w (p.loc + 16) (hdr (q.head + n) q.tail (q.free + n)))
      (hval : ∀ k, k < s.me.nibbles → nibbleOf bs k = (memGet s.mem (q.slot (q.head + k / 2 / q.es) + k / 2 % q.es)).toNat / 16 ^ (k % 2) % 16)
      {t : State} (hmem : t.mem = w.mem) (ht : t.me.img.v = (w.me.putGroup v bs).img.v) : gotAll t := by
    refine ⟨fun x => (congrArg (memGet · x) hmem).trans (hst x), ?_⟩
    refine cast (congrArg (WroteV s t v 4) (funext fun k => ?_)) (putGroup_wroteV hspan hlike hbl ht)
    have hnib : s.me.nibbles = if ew = 4 then s.me.vl else 2 * len := rfl
    rw [← hnib]
    by_cases hk : k < s.me.nibbles
    · rw [if_pos hk, if_pos hk, hval k hk]
    · rw [if_neg hk, if_neg hk]
  refine ⟨fun hset hn => ⟨?_, ?_⟩, fun hset hn => ?_, fun hn hsound => ⟨?_, ?_⟩, fun hn => ?_⟩
  · obtain ⟨w, hf, hlike, hall⟩ := hput hset hn false fun s _ => s.done4
    exact completes_of (congrArg Host.Outcome.next ((hspanned _).trans hf)) ⟨hall, hlike.done4⟩
  · obtain ⟨w, hf, hlike, hall⟩ := hput hset hn true fun s n => s.result b n
    exact completes_of (congrArg Host.Outcome.next ((hspanned _).trans hf)) ⟨hall, hlike.result b (word n)⟩
  · obtain ⟨w, hf, hlike, hmem⟩ := enqueue_refused (e := s.me.groupBytes v) h hroom' hset hok hpos' (by rw [helems]; exact hcap) (by rw [helems]; exact hn)
      fun s n => s.result b n
    exact completes_of (congrArg Host.Outcome.next ((hspanned _).trans hf)) ⟨sameMemory_of_mem hmem, hlike.result b 0⟩
  · obtain ⟨w, bs, hf, hlike, hbl, hst, hval⟩ := hgot hn hsound false fun s bs _ => (s.mapMe fun c => c.putGroup v bs).done4
    obtain ⟨hp, hk⟩ := grouped_done4 hlike v bs
    exact completes_of (congrArg Host.Outcome.next ((hspanned _).trans hf)) ⟨hgroup hlike hbl hst hval rfl (congrArg Image.v (advance_img ..)), hp, hk⟩
  · obtain ⟨w, bs, hf, hlike, hbl, hst, hval⟩ := hgot hn hsound true fun s bs n => (s.mapMe fun c => c.putGroup v bs).result b n
    obtain ⟨hwr, hp, hk⟩ := grouped_result hlike v bs b (word n)
    exact completes_of (congrArg Host.Outcome.next ((hspanned _).trans hf)) ⟨hgroup hlike hbl hst hval rfl (congrArg Image.v (result_img ..)), hwr, hp, hk⟩
  · obtain ⟨w, hf, hlike, hmem⟩ := dequeue_refused (len := len) h hok hpos hcap hn fun s bs n => (s.mapMe fun c => c.putGroup v bs).result b n
    have hnil : (w.mapMe fun c => c.putGroup v []) = w := by rw [State.mapMe, putGroup_nil]
    rw [hnil] at hf
    exact completes_of (congrArg Host.Outcome.next ((hspanned _).trans hf)) ⟨sameMemory_of_mem hmem, hlike.result b 0⟩

end Sys2Proof.Machine
end

section
/-! SUPPORT. Why a store need not leave its slot as it was: a state may list two contexts for one slot. -/

namespace Sys2Proof.Machine

/-- The first byte of the tile store of ring 1 of die 0, and its window address (R161). -/
def ring1Loc : Nat := tileBase + 2 ^ 21
def ring1Addr : Word := 0x0080400000000000

/-- A strand on ring 0 about to store to the tile store of ring 1, whose line other cores may hold (R333). -/
def storingSlot : Ctx := { Ctx.reset 0 0 with state := .running, strand := 1, s := (Vector.replicate 32 0).set 3 ring1Addr }
/-- A second context for the same slot: a chunk that has read another sector of that line. -/
def readingSlot : Ctx := { Ctx.reset 0 0 with state := .running, strand := 2, chunk := some { Chunk.start 1 true with er := [ring1Loc + 32] } }
/-- An older chunk, in another slot, that has written the byte. -/
def olderSlot : Ctx := { Ctx.reset 0 1 with state := .running, strand := 1, chunk := some { Chunk.start 0 true with wr := [(ring1Loc, 1)] } }

def storingSlotListedTwice : State :=
  { State.reset with
    me := storingSlot
    others := [readingSlot, olderSlot]
    dies := State.reset.dies.set 0 { Die.reset with present := true, remote := [ring1Loc] } }

/-- Where the store goes. -/
def ring1Place : Place := ⟨ring1Loc, false, false, 0, none⟩

theorem storingSlotListedTwice_reaches {k : AccessKind} {n : Nat} (hal : ring1Addr.toNat % n = 0)
    (hlook : storingSlotListedTwice.look k 2 ring1Addr n = .ok ring1Place) : storingSlotListedTwice.Reaches k 2 ring1Addr n ring1Place :=
  ⟨hal, hlook, fun _ h => nomatch h⟩

theorem storingSlotListedTwice_near : storingSlotListedTwice.Near ring1Loc := ⟨by decide +kernel, by decide +kernel⟩

/-- The sector that has been read is not the one that is stored to. -/
theorem storingSlotListedTwice_unread {n : Nat} (hn : n ≤ 8) : storingSlotListedTwice.Unread ring1Loc n := by
  rintro c hc k hk q hq ⟨hlow, -⟩
  have hc' : c = storingSlot ∨ c = readingSlot ∨ c = olderSlot := by simpa [storingSlotListedTwice] using hc
  rcases hc' with rfl | rfl | rfl
  · exact nomatch hk
  · obtain rfl := Option.some.inj hk
    rw [List.mem_singleton.1 hq] at hlow
    omega
  · obtain rfl := Option.some.inj hk
    exact nomatch hq

/-- The store clears REMOTE and squashes the chunk that has read the line (R333), and the squash reaches the slot that stores. -/
theorem storingSlotListedTwice_store : Tests.after (.stB 3 4 0) storingSlotListedTwice (fun t => t.me.chunk.isSome) = true
    ∧ Tests.after (.stRel 3 4 0 .die) storingSlotListedTwice (fun t => t.me.chunk.isSome) = true := by decide +kernel

/-- A slot that is kept runs no chunk where it ran none. -/
theorem slotKept_chunk {s t : State} (h : SlotKept s t id) (hs : s.me.chunk = none) : t.me.chunk = none := by
  have hc : t.me.still.noCounts.chunk = s.me.still.noCounts.chunk := congrArg Ctx.chunk h
  simpa [Ctx.still, Ctx.noCounts, hs] using hc

theorem not_completes_store {i : Instr} {s : State} {P : State → Prop} (h : Tests.after i s (fun t => t.me.chunk.isSome) = true) (hs : s.me.chunk = none)
    (hp : ∀ t, P t → SlotKept s t id) : ¬ Completes i s P := by
  rintro ⟨t, ht, hP⟩
  rw [Tests.after, ht] at h
  change t.me.chunk.isSome = true at h
  rw [slotKept_chunk (hp t hP) hs] at h
  exact absurd h (by decide)

/-- Refutes O9: where another context is listed for the slot that stores, which no hypothesis excludes, its squash reaches that slot. -/
theorem not_storeResults : ¬ Obligations.StoreResults := by
  unfold Obligations.StoreResults
  intro h
  obtain ⟨hstore, -⟩ := h 3 4 0 storingSlotListedTwice ring1Place
  exact not_completes_store storingSlotListedTwice_store.1 rfl (fun t ht => ht.2.2.1) (hstore rfl rfl
    (storingSlotListedTwice_reaches (by decide) (by decide +kernel)) storingSlotListedTwice_near (storingSlotListedTwice_unread (by decide)) (by decide +kernel))

/-- Refutes O14, in the clause of `st.rel`: as for a plain store, the squash of another context that is listed for the slot reaches the slot. -/
theorem not_acquireReleaseAndFence : ¬ Obligations.AcquireReleaseAndFence := by
  unfold Obligations.AcquireReleaseAndFence
  intro h
  obtain ⟨-, hrel, -⟩ := h 0 3 4 0 .die storingSlotListedTwice ring1Place [] rfl
  exact not_completes_store storingSlotListedTwice_store.2 rfl (fun t ht => ht.2.2) (hrel (by decide +kernel) rfl
    (storingSlotListedTwice_reaches (by decide) (by decide +kernel)) storingSlotListedTwice_near (storingSlotListedTwice_unread (by decide)) (by decide +kernel))

/-- After the store the slot holds the squashed chunk: its load finds the byte of the older chunk (R314), not the byte that was stored. -/
def ring1Stored : State := match exec (.stB 3 4 0) storingSlotListedTwice with | .next t => t | _ => storingSlotListedTwice

theorem ring1Stored_load : Tests.after (.ldBn 5 3 0) ring1Stored (fun u => u.getS 5 == 1) = true := by decide +kernel

/-- Refutes O11: where another context is listed for the slot, the store leaves the slot in a chunk, which sees the version of an older chunk. -/
theorem not_loadAfterStoreReturnsIt : ¬ Obligations.LoadAfterStoreReturnsIt := by
  unfold Obligations.LoadAfterStoreReturnsIt
  intro h
  obtain ⟨hback, -⟩ := h 3 4 5 0 storingSlotListedTwice ring1Stored ring1Place
  obtain ⟨u, hu, hwrote⟩ := hback rfl rfl (storingSlotListedTwice_reaches (by decide) (by decide +kernel)) storingSlotListedTwice_near (fun _ _ _ h => nomatch h)
    (storingSlotListedTwice_unread (by decide)) (by decide +kernel) (by rfl) ⟨by decide, by decide +kernel, fun _ h => nomatch h⟩
  have hload := ring1Stored_load
  rw [Tests.after, hu] at hload
  change (u.getS 5 == 1) = true at hload
  rw [hwrote 5] at hload
  exact absurd hload (by decide)

end Sys2Proof.Machine
end

section
/-! SUPPORT. Why a strip need not copy the bytes of memory: a row that begins in DRAM may run on into device space. -/

namespace Sys2Proof.Machine

/-- A row of two bytes from the last byte of DRAM, to DRAM. -/
def crossingRow : Move := ⟨2 ^ 40 - 1, 0x1000, 2, none, 2⟩
def crossingStrip : Strip := ⟨1, .cpTt, none, 0, 0, [crossingRow], none, none, 2, 0, [], [], 0, none, 0⟩
/-- Device space has no register at its first byte, which reads as a free value (log 8); memory holds another byte there. -/
def crossing : State := { State.reset with moves := [crossingStrip], mem := memPut [] (2 ^ 40) (Config.freeDev (2 ^ 40) + 1) }

theorem crossing_memOk : crossing.MemOk := memPut_wf _ _ rfl

theorem landBytes_short {s : State} {loc : Nat} {bs : List Byte} {who : Requester} (hd : isDevice loc = false) (hn : bs.length ≤ 32 - loc % 32) :
    s.landBytes loc bs who = (s.performWrite loc bs who).1 := by
  rw [State.landBytes, if_neg (by rw [hd]; decide), bySector, if_pos hn]
  rfl

/-- The only strip, of one row: memory after its landing is memory after its row. -/
theorem stripLand_single {s : State} {st : Strip} {m : Move} (hs : s.moves = [st]) (hk : st.kind ≠ .gx) (hm : st.moves = [m]) :
    ∃ t, exec (.stripLand 0) s = .next t ∧ t.mem = (({ s with moves := [] } : State).moveRow st m).1.mem := by
  have hx : exec (.stripLand 0) s = execStripLand 0 s := rfl
  rw [hx, execStripLand, hs]
  dsimp only [takeAt]
  rw [if_neg (by simp [hk]), hm, List.foldl_cons, List.foldl_nil]
  exact ⟨_, rfl, (send_mem ..).trans (count_mem ..)⟩

/-- The second byte that lands is the free value. -/
theorem crossing_lands : ∃ t, exec (.stripLand 0) crossing = .next t ∧ memGet t.mem 0x1001 = Config.freeDev (2 ^ 40) := by
  obtain ⟨t, ht, hmem⟩ := stripLand_single (s := crossing) (m := crossingRow) rfl (by decide) rfl
  refine ⟨t, ht, ?_⟩
  have hrow : ({ crossing with moves := [] } : State).moveRow crossingStrip crossingRow
      = (({ crossing with moves := [] } : State).landBytes 0x1000 [memGet crossing.mem (2 ^ 40 - 1), Config.freeDev (2 ^ 40)] (.transfer 1), false) := rfl
  rw [hmem, hrow, landBytes_short (by decide) (by decide), performWrite_mem, memGet_memWrite _ _ _ crossing_memOk]
  rfl

/-- Refutes O26, in the clause of `stripLand`: a row is only said to begin in DRAM; of one that runs on into device space the device is read. -/
theorem not_transfersMoveAndLand : ¬ Obligations.TransfersMoveAndLand := by
  unfold Obligations.TransfersMoveAndLand
  intro h
  obtain ⟨-, hland, -⟩ := h crossing 0 crossingStrip [] [] crossingRow 0 0
  obtain ⟨t, ht, hbytes, -⟩ := hland crossing_memOk ⟨rfl, fun _ h => nomatch h⟩ rfl (by decide) (fun _ h => nomatch h) rfl rfl rfl (.inr (by decide)) (.inr (by decide))
    (fun _ _ _ h => nomatch h)
  obtain ⟨u, hu, hbyte⟩ := crossing_lands
  obtain rfl : t = u := Host.Outcome.next.inj (ht.symm.trans hu)
  have hmem : memGet t.mem 0x1001 = memGet crossing.mem (2 ^ 40) := hbytes 0x1001
  have hput : memGet crossing.mem (2 ^ 40) = Config.freeDev (2 ^ 40) + 1 := (memGet_memPut _ _ _ rfl).trans (if_pos rfl)
  rw [hbyte, hput] at hmem
  generalize Config.freeDev (2 ^ 40) = x at hmem
  bv_omega

end Sys2Proof.Machine
end

section
/-! SUPPORT. What a load leaves behind (R339): counts, REMOTE bits and what the slices hold. `untraced` takes out just that, and of the slot what
an instruction in progress and a chunk's notes may change. -/

namespace Sys2Proof.Machine

/-! ### The frame -/

/-- Taking out what a read leaves on a die. -/
def Die.untraced (y : Die) : Die := { y with remote := [], shared := [], memside := [], replicas := [], dir := [] }
@[irreducible] def untracedDies (v : Vector Die 16) : Vector Die 16 := v.map Die.untraced
/-- Taking out what a read leaves. -/
def State.untraced (s : State) : State := { s with me := s.me.still.noNotes, ctr := [], dies := untracedDies s.dies }

section frame
variable {s t : State}

theorem traceless_outside (s : State) : s.traceless.outside = { s.untraced with me := Ctx.reset 0 0 } := by
  unfold State.traceless State.uncached State.noRemote State.uncounted State.outside State.untraced untracedDies
  rw [Vector.map_map]
  rfl

/-- What keeps the frame keeps everything but the trace of a read. -/
theorem keeps_of_untraced {e : Ctx → Ctx} (h : t.untraced = s.untraced) : Keeps s.traceless t.traceless (e ∘ Ctx.noNotes) := by
  refine ⟨by rw [traceless_outside, traceless_outside, h], congrArg e (congrArg State.me h : t.untraced.me = s.untraced.me), fun a => ?_⟩
  exact congrArg (memGet · a) (congrArg State.mem h : t.untraced.mem = s.untraced.mem)

theorem untraced_of_ite {p : Prop} [Decidable p] {a b : State} (ha : a.untraced = s.untraced) (hb : b.untraced = s.untraced) :
    (if p then a else b).untraced = s.untraced := by split <;> assumption

theorem mapDie_untraced {d : DieId} {g : Die → Die} (h : ∀ y, (g y).untraced = y.untraced) : (s.mapDie d g).untraced = s.untraced := by
  unfold State.untraced State.mapDie untracedDies
  rw [set_map_of_eq (h _)]

theorem count_untraced (d : DieId) (kind inst ix n : Nat) : (s.count d kind inst ix n).untraced = s.untraced := by
  unfold State.count
  exact untraced_of_ite rfl rfl

theorem mapMe_untraced {f : Ctx → Ctx} (h : (f s.me).still.noNotes = s.me.still.noNotes) : (s.mapMe f).untraced = s.untraced := by
  unfold State.mapMe State.untraced
  rw [h]

/-! ### A slice uses a line -/

theorem memTouch_untraced (d : DieId) (line : Nat) (dirty : BitVec 8) : (s.memTouch d line dirty).untraced = s.untraced := mapDie_untraced (by intro _; rfl)

/-- Where no chunk runs, an evicted line leaves nothing but its way. -/
theorem evict_untraced (hs : s.Serial) (d : DieId) (l : SharedLine) : (s.evict d l).untraced = s.untraced := by
  unfold State.evict
  extract_lets u
  have hu : u.untraced = s.untraced := mapDie_untraced (by intro _; rfl)
  have hser : u.Serial := serial_mapDie hs ..
  refine untraced_of_ite ?_ ?_
  · have hback : (if l.dirty = 0 then u else u.memTouch d l.line l.dirty).Serial := by
      split
      · exact hser
      · exact serial_mapDie hser ..
    rw [State.invalidateER, invalidate_serial hback]
    exact untraced_of_ite hu ((memTouch_untraced ..).trans hu)
  · have hdrop : (u.dropReplica d l.line).untraced = u.untraced := by
      rw [State.dropReplica, State.invalidateER, invalidate_serial (serial_mapDie hser ..)]
      exact mapDie_untraced (by intro _; rfl)
    exact (untraced_of_ite rfl (mapDie_untraced (by intro _; rfl))).trans (hdrop.trans hu)

/-- A slice that holds the line or has a way for it, or whose eviction meets no chunk. -/
def State.HasWay (s : State) (d : DieId) (line : Nat) : Prop :=
  (((s.die d).shared.find? fun l => l.line == line).filter fun _ => (s.die d).holds d line).isSome = true
    ∨ (s.setWays d line).length < Config.sliceWays ∨ s.Serial

theorem touch_untraced {d : DieId} {line : Nat} (h : s.HasWay d line) (dirty : BitVec 8) (core : Option Nat) : (s.touch d line dirty core).untraced = s.untraced := by
  unfold State.touch
  dsimp only
  refine (mapDie_untraced (by intro _; rfl)).trans ?_
  rcases h with hold | hway | hser
  · rw [if_pos hold]
  · rw [if_pos hway]
    exact untraced_of_ite rfl (untraced_of_ite (memTouch_untraced ..) rfl)
  · have hevict (ws : List SharedLine) :
        (if ws.length < Config.sliceWays then s else match victim ws with | some v => s.evict d v | none => s).untraced = s.untraced := by
      refine untraced_of_ite rfl ?_
      split
      · exact evict_untraced hser ..
      · rfl
    exact untraced_of_ite rfl (untraced_of_ite ((memTouch_untraced ..).trans (hevict _)) (hevict _))

/-- A load that uses a line for which there is room. -/
theorem useLine_untraced {p : Place} (h : s.Roomy p.loc) : (s.useLine p).untraced = s.untraced := by
  unfold State.useLine
  dsimp only
  split
  next hc =>
    simp only [Bool.and_eq_true] at hc
    refine touch_untraced ?_ ..
    rcases h with hold | hway | hser
    · refine .inl ?_
      obtain ⟨l, hl⟩ := Option.isSome_iff_exists.1 (List.find?_isSome.2 (List.any_eq_true.1 hold))
      rw [hl, Option.filter_some, hc.2]
      rfl
    · exact .inr (.inl hway)
    · exact .inr (.inr hser)
  next => rfl

/-! ### What a load notes -/

theorem noteDue_untraced (p : Place) : (s.noteDue p).untraced = s.untraced := untraced_of_ite rfl rfl

theorem noteMig_untraced (p : Place) : (s.noteMig p).untraced = s.untraced := untraced_of_ite (count_untraced ..) rfl

theorem setRemote_untraced (loc : Nat) : (s.setRemote loc).untraced = s.untraced := untraced_of_ite (mapDie_untraced (by intro _; rfl)) rfl

theorem noteSpec_untraced (loc n : Nat) : (s.noteSpec loc n).untraced = s.untraced := by
  unfold State.noteSpec
  split
  next k hk =>
    refine untraced_of_ite ?_ rfl
    extract_lets u
    have hu : u.untraced = s.untraced := (setRemote_untraced ..).trans (count_untraced ..)
    have hchunk : u.me.chunk = some k := by
      have hme : u.me = s.me := by
        show (State.setRemote _ _).me = _
        unfold State.setRemote
        split
        · exact count_me ..
        · exact count_me ..
      rw [hme, hk]
    refine (mapMe_untraced ?_).trans hu
    simp only [Ctx.still, Ctx.noNotes, hchunk, Option.map_some, Chunk.core, State.noteRead, Chunk.noteRead]
  next => rfl

/-- What decides whether a line has a way, and the slot, but for REMOTE bits, counts and the notes of the slot. -/
structure SameWays (s t : State) : Prop where
  die : t.me.die = s.me.die
  chunk : s.me.chunk = none → t.me.chunk = none
  others : t.others = s.others
  dies : ∀ d, ∃ r, t.die d = { s.die d with remote := r }

theorem SameWays.refl (s : State) : SameWays s s := ⟨rfl, id, rfl, fun d => ⟨(s.die d).remote, rfl⟩⟩

theorem SameWays.trans {u : State} (h : SameWays s t) (g : SameWays t u) : SameWays s u := by
  refine ⟨g.die.trans h.die, g.chunk ∘ h.chunk, g.others.trans h.others, fun d => ?_⟩
  obtain ⟨r, hr⟩ := h.dies d
  obtain ⟨q, hq⟩ := g.dies d
  exact ⟨q, by rw [hq, hr]⟩

theorem SameWays.roomy (h : SameWays s t) {loc : Nat} (hr : s.Roomy loc) : t.Roomy loc := by
  obtain ⟨r, hd⟩ := h.dies s.me.die
  rcases hr with hold | hway | hser
  · refine .inl ?_
    rw [h.die, hd]
    exact hold
  · refine .inr (.inl ?_)
    have hw : t.setWays t.me.die (lineOf loc) = s.setWays s.me.die (lineOf loc) := by
      unfold State.setWays State.sliceOn
      rw [h.die, hd]
      rfl
    rw [hw]
    exact hway
  · exact .inr (.inr ⟨h.chunk hser.1, fun c hc => hser.2 c (h.others ▸ hc)⟩)

theorem sameWays_of_ite {p : Prop} [Decidable p] {a b : State} (ha : SameWays s a) (hb : SameWays s b) : SameWays s (if p then a else b) := by
  split <;> assumption

theorem count_sameWays (d : DieId) (kind inst ix n : Nat) : SameWays s (s.count d kind inst ix n) := by
  unfold State.count
  exact sameWays_of_ite (.refl s) ⟨rfl, id, rfl, fun d => ⟨(s.die d).remote, rfl⟩⟩

theorem setRemote_sameWays (loc : Nat) : SameWays s (s.setRemote loc) := by
  refine sameWays_of_ite ⟨rfl, id, rfl, fun d => ?_⟩ (.refl s)
  rw [die_mapDie]
  split
  next he => exact ⟨_, by rw [he]⟩
  next => exact ⟨_, rfl⟩

theorem noteSpec_sameWays (loc n : Nat) : SameWays s (s.noteSpec loc n) := by
  unfold State.noteSpec
  split
  next k hk =>
    refine sameWays_of_ite ?_ (.refl s)
    obtain ⟨hdie, -, hothers, hdies⟩ := (count_sameWays (s := s) s.me.die 1 (ringOf s.me.slot) 8 (s.lookups s.me k loc n)).trans (setRemote_sameWays loc)
    exact ⟨hdie, fun hn => absurd hn (by rw [hk]; exact nofun), hothers, hdies⟩
  next => exact .refl s

/-! ### A load -/

theorem setRemote_program (loc : Nat) : (s.setRemote loc).program = s.program := program_of_ite (mapDie_program ..) rfl

theorem noteSpec_program (loc n : Nat) : (s.noteSpec loc n).program = s.program := by
  unfold State.noteSpec
  split
  · exact program_of_ite ((setRemote_program ..).trans (count_program ..)) rfl
  · rfl

/-- What a load has noted before it uses its line. -/
def State.seen (s : State) (p : Place) (n : Nat) : State :=
  (if !p.dev ∧ homeOf p.loc ≠ ((s.noteDue p).noteMig p).me.die ∧ !isTile p.loc
      ∧ (lineByte (((s.noteDue p).noteMig p).die ((s.noteDue p).noteMig p).me.die).replicas p.loc).isSome
    then ((s.noteDue p).noteMig p).count ((s.noteDue p).noteMig p).me.die 4 0 0 1 else (s.noteDue p).noteMig p).noteSpec p.loc n

theorem noteLoad_eq {p : Place} (hm : p.Marked false) (bs : List (Option Byte)) : s.noteLoad p bs = (s.seen p bs.length).useLine p := by
  unfold State.noteLoad State.seen
  dsimp only
  rw [markAccess_marked _ _ _ hm]

theorem seen_untraced (p : Place) (n : Nat) : (s.seen p n).untraced = s.untraced := by
  have h := (noteMig_untraced (s := s.noteDue p) p).trans (noteDue_untraced p)
  exact (noteSpec_untraced ..).trans (untraced_of_ite ((count_untraced ..).trans h) h)

theorem seen_sameWays (p : Place) (n : Nat) : SameWays s (s.seen p n) := by
  have hdue : SameWays s (s.noteDue p) := sameWays_of_ite ⟨rfl, id, rfl, fun d => ⟨(s.die d).remote, rfl⟩⟩ (.refl s)
  have h : SameWays s ((s.noteDue p).noteMig p) := hdue.trans (sameWays_of_ite (count_sameWays ..) (.refl _))
  exact (sameWays_of_ite (h.trans (count_sameWays ..)) h).trans (noteSpec_sameWays ..)

theorem noteLoad_untraced {p : Place} (hm : p.Marked false) (hr : s.Roomy p.loc) (bs : List (Option Byte)) : (s.noteLoad p bs).untraced = s.untraced := by
  rw [noteLoad_eq hm, useLine_untraced ((seen_sameWays ..).roomy hr), seen_untraced]

theorem noteLoad_program {p : Place} (hm : p.Marked false) (bs : List (Option Byte)) : (s.noteLoad p bs).program = s.program := by
  have hmig : ((s.noteDue p).noteMig p).program = s.program := (program_of_ite (count_program ..) rfl).trans (program_of_ite rfl rfl)
  rw [noteLoad_eq hm]
  exact (program_of_ite (touch_program ..) rfl).trans ((noteSpec_program ..).trans (program_of_ite ((count_program ..).trans hmig) hmig))

theorem noteLoad_mem {p : Place} (hm : p.Marked false) (bs : List (Option Byte)) : (s.noteLoad p bs).mem = s.mem := by
  have hmig : ((s.noteDue p).noteMig p).mem = s.mem := Eq.trans (noteMig_mem _ p) (mem_of_ite rfl rfl)
  rw [noteLoad_eq hm, useLine_mem]
  exact Eq.trans (noteSpec_mem _ ..) (mem_of_ite ((count_mem ..).trans hmig) hmig)

/-- A load that reaches its bytes: a result in a register, and of the rest only a trace. -/
theorem load_effect {va : Word} {n spaces : Nat} {p : Place} {bs : List Byte} (h : s.Reaches .r spaces va n p) (hb : s.loadBytes p n = .data (bs.map some)) (d : SReg) (g : Nat → Word)
    (len : Nat) : let t := s.load va n spaces fun s x => (s.setS d (g x)).advance len
    WroteS s t d (g (ofBytes bs)) ∧ Passed s t len ∧ SameMemory s t ∧ (s.Roomy p.loc → Keeps s.traceless t.traceless (Ctx.noS ∘ Ctx.noNotes)) := by
  obtain ⟨hal, hlook, hm⟩ := h
  have hload := load_ok s va n spaces (fun s x => (s.setS d (g x)).advance len) p bs hal hlook hb
  have hprog := noteLoad_program (s := s) hm (bs.map some)
  have hmem := noteLoad_mem (s := s) hm (bs.map some)
  have hroom (hr : s.Roomy p.loc) := noteLoad_untraced (s := s) hm hr (bs.map some)
  dsimp only
  rw [hload]
  generalize s.noteLoad p (bs.map some) = u at hprog hmem hroom
  obtain ⟨hw, hp, hk⟩ := setS_advance u d (g (ofBytes bs)) len
  have hpc : u.me.pc = s.me.pc := congrArg (fun q => q.1.1) hprog
  have hregs : u.me.s = s.me.s := congrArg (fun q => q.1.2.1) hprog
  have hgetS (r : SReg) : u.getS r = s.getS r := by unfold State.getS Ctx.getS; rw [hregs]
  refine ⟨fun r => (hw r).trans (by rw [hgetS]), Eq.trans hp (by rw [hpc]), fun a => (hk.memory a).trans (by rw [hmem]), fun hr => ?_⟩
  have hslot : ((u.setS d (g (ofBytes bs))).advance len).me.still.noS.noNotes = u.me.still.noS.noNotes := congrArg Ctx.noNotes hk.slot
  have hout (v w : State) (h : v.outside = w.outside) : v.traceless.outside = w.traceless.outside := congrArg State.traceless h
  obtain ⟨hout', hslot', hmem'⟩ := keeps_of_untraced (e := Ctx.noS) (hroom hr)
  exact ⟨(hout _ _ hk.outside).trans hout', hslot.trans hslot', fun a => (hk.memory a).trans (hmem' a)⟩

end frame

/-- Settles O8: each load is one access (`load_effect`), and its extension. -/
theorem loadResults : Obligations.LoadResults := by
  unfold Obligations.LoadResults
  intro d a i s p bs loads ea v
  have hone {j : Instr} {va : Word} {n len : Nat} (g : Nat → Word) {x : Word} (hx : exec j s = .next (s.load va n 2 fun s x => (s.setS d (g x)).advance len))
      (hg : g v = x) : loads j va n len x := fun h hb => ⟨_, hx, hg ▸ load_effect h hb d g len⟩
  have hea : s.getS a + imm11 i = ea := add_imm11 _ _
  have hldOp (n : Nat) (signed : Bool) : s.ldOp d a i n signed
      = .next (s.load ea n 2 fun s x => (s.setS d (if signed then sextN (8 * n) x else word x)).advance 4) := by
    rw [State.ldOp, hea]; rfl
  have hsext : sextN 64 v = BitVec.ofNat 64 v := by
    rw [sextN_eq_ofNat v (by decide) (by decide)]
    exact BitVec.signExtend_eq _
  exact ⟨hone (sextN 8) (hldOp 1 true) (sextN_eq_ofNat v (by decide) (by decide)), hone (sextN 16) (hldOp 2 true) (sextN_eq_ofNat v (by decide) (by decide)),
    hone (sextN 32) (hldOp 4 true) (sextN_eq_ofNat v (by decide) (by decide)), hone (sextN 64) (hldOp 8 true) hsext,
    hone word (hldOp 1 false) rfl, hone word (hldOp 2 false) rfl, hone word (hldOp 4 false) rfl, hone word rfl rfl⟩

end Sys2Proof.Machine
end

section
/-! SUPPORT. Pod accesses (R223 to R225). -/

namespace Sys2Proof.Machine

section pod
variable {s : State} {a b : SReg} {n : Nat} {load : Bool} {x : Word} {f : State → Nat → State}

theorem podIssue_misaligned (h : (s.getS a).toNat % n ≠ 0) : s.podIssue a b n load x f = s.trap (.of cMISALIGN (s.getS a)) := by
  rw [State.podIssue]
  exact if_pos (bne_iff_ne.2 h)

theorem podIssue_unknown (hal : (s.getS a).toNat % n = 0) (h : s.podSize s.me.die ≤ (s.getS b).toNat ∨ 1024 ≤ (s.getS b).toNat) :
    s.podIssue a b n load x f = s.trap (.of cACCESS (s.getS a)) := by
  rw [State.podIssue]
  refine (if_neg (by simp [hal])).trans (if_pos ?_)
  simpa [or_comm] using h

/-- The state in which a pod access has left: its message in the net, and on the wire where it goes to another module. -/
def State.podSent (s : State) (a b : SReg) (n : Nat) (load : Bool) (x : Word) : State :=
  let port := s.route (s.getS b).toNat
  let u := s.take.2.send (.pod s.serial s.me.die s.me.slot s.me.strand load n (s.getS b).toNat (s.getS a) x port s.me.deadline)
  match port with
  | none => u
  | some p => if (s.getS b).toNat = (u.myMod u.me.die).toNat then u
    else { u with wire := (if load then .podRead (s.getS b).toNat p (s.getS a) n else .podWrite (s.getS b).toNat p (s.getS a) n x) :: u.wire }

theorem podIssue_sends (hc : s.me.chunk = none) (hal : (s.getS a).toNat % n = 0) (hsize : (s.getS b).toNat < s.podSize s.me.die) (hmod : (s.getS b).toNat < 1024)
    (hroute : s.routeHeld (s.getS b).toNat (s.route (s.getS b).toNat) = false) : s.podIssue a b n load x f = f (s.podSent a b n load x) s.serial := by
  rw [State.podIssue]
  dsimp only
  have hknown : ¬ (decide (1024 ≤ (s.getS b).toNat) || decide (s.podSize s.me.die ≤ (s.getS b).toNat)) = true := by
    simp only [Bool.or_eq_true, decide_eq_true_eq]
    omega
  rw [State.checks, if_neg (by simp [hal]), State.checks, if_neg hknown, State.checks, held_serial s _ hc, if_neg (by rw [hroute]; exact Bool.false_ne_true)]
  rfl

theorem podSent_eq (s : State) (a b : SReg) (n : Nat) (load : Bool) (x : Word) : ∃ w, s.podSent a b n load x = { s.take.2.send
    (.pod s.serial s.me.die s.me.slot s.me.strand load n (s.getS b).toNat (s.getS a) x (s.route (s.getS b).toNat) s.me.deadline) with wire := w } := by
  unfold State.podSent
  generalize s.route (s.getS b).toNat = port
  cases port with
  | none => exact ⟨_, rfl⟩
  | some p =>
    dsimp only
    split
    · exact ⟨_, rfl⟩
    · exact ⟨_, rfl⟩

theorem podSent_keeps (s : State) (a b : SReg) (n : Nat) (load : Bool) (x : Word) : (s.podSent a b n load x).me = s.me ∧ (s.podSent a b n load x).mem = s.mem
    ∧ (s.podSent a b n load x).net
      = s.net ++ [.pod s.serial s.me.die s.me.slot s.me.strand load n (s.getS b).toNat (s.getS a) x (s.route (s.getS b).toNat) s.me.deadline] := by
  obtain ⟨w, hw⟩ := podSent_eq s a b n load x
  rw [hw]
  exact ⟨rfl, rfl, rfl⟩

end pod

/-- Settles O28: a pod access is its checks and the message it sends (`podIssue_sends`), and for a load the answer. -/
theorem podAccesses : Obligations.PodAccesses := by
  unfold Obligations.PodAccesses
  intro d a b z s x n sa modl port hc
  have hld (ha : s.me.answer = none) : exec (.ldPod d a b z) s
      = .next (s.podIssue a b n true 0 fun s id => s.mapMe fun c => { c with sent := some id }) := by
    have hx : exec (.ldPod d a b z) s = execLdPod d a b z s := rfl
    rw [hx, execLdPod, ha]
  have hst : exec (.stPod d a b z) s = .next (s.podIssue a b n false (word ((s.getS d).toNat % 2 ^ (8 * n))) fun s _ => s.done4) := rfl
  refine ⟨fun ha hal => ⟨?_, ?_⟩, fun ha hal hmod => ⟨?_, ?_⟩, fun ha hal hsize hmod hroute => ⟨?_, ?_⟩, fun ha => ?_⟩
  · rw [hld ha, podIssue_misaligned hal]
  · rw [hst, podIssue_misaligned hal]
  · rw [hld ha, podIssue_unknown hal hmod]
  · rw [hst, podIssue_unknown hal hmod]
  · obtain ⟨hme, hmem, hnet⟩ := podSent_keeps s a b n true 0
    refine ⟨_, (hld ha).trans (congrArg Host.Outcome.next (podIssue_sends hc hal hsize hmod hroute)), ?_⟩
    generalize s.podSent a b n true 0 = u at hme hmem hnet
    obtain ⟨hslot, hpc⟩ := (like_of_lean (congrArg Ctx.lean hme)).trans (like_mapMe (s := u) (f := fun c => { c with sent := some s.serial }) rfl rfl)
    exact ⟨hpc, rfl, hmem, hslot, hnet⟩
  · obtain ⟨hme, hmem, hnet⟩ := podSent_keeps s a b n false (word ((s.getS d).toNat % 2 ^ (8 * n)))
    refine completes_of (hst.trans (congrArg Host.Outcome.next (podIssue_sends hc hal hsize hmod hroute))) ?_
    have hlike : Like s (s.podSent a b n false (word ((s.getS d).toNat % 2 ^ (8 * n)))) := like_of_lean (by rw [hme])
    exact ⟨hlike.done4.1, hmem, hlike.done4.2, hnet⟩
  · have hx : exec (.ldPod d a b z) s = .next (s.result d (sextN (8 * n) x.toNat)) := by
      have hx : exec (.ldPod d a b z) s = execLdPod d a b z s := rfl
      rw [hx, execLdPod, ha]
      exact congrArg Host.Outcome.next (withValue_plain ..)
    have hw : 0 < 8 * n ∧ 8 * n ≤ 64 := by cases z <;> decide
    obtain ⟨hwr, hp, hk⟩ := (Like.refl s).result d (sextN (8 * n) x.toNat)
    rw [sextN_eq_signExtend x hw.1 hw.2] at hx hwr hp hk
    exact completes_of hx ⟨hwr, hp, rfl, hk⟩

end Sys2Proof.Machine
end

section
/-! SUPPORT. Replication degrees and prefetch (R212, R213, R351). -/

namespace Sys2Proof.Machine

/-! ### The region table -/

theorem region_setRegion (y : Die) (e : RegionEntry) : (y.setRegion e).region e.index = e := by
  simp [Die.setRegion, Die.region]

theorem region_index (y : Die) (ix : Nat) : (y.region ix).index = ix := by
  unfold Die.region
  cases h : y.regions.find? fun e => e.index == ix with
  | none => rfl
  | some e => simpa using List.find?_some h

/-! ### Degrees -/

section degree
variable {s : State} {a : SReg} {f : State → Nat → State}

theorem degree_region {loc : Nat} (hc : s.me.chunk = none) (ha : s.me.answer = none) (h : s.regionOfVa (s.getS a) = .ok (some loc)) : s.degree a f = .next (f s loc) := by
  unfold State.degree
  dsimp only
  rw [h]
  dsimp only
  rw [held_serial s _ hc, ha]
  rfl

theorem degree_nowhere (hc : s.me.chunk = none) (ha : s.me.answer = none) (h : s.regionOfVa (s.getS a) = .ok none) :
    s.degree a f = .next (s.count s.me.die 4 0 9 1).done4 := by
  unfold State.degree
  dsimp only
  rw [h]
  dsimp only
  rw [held_serial s _ hc, ha]
  rfl

/-- The region of a location set on its home. -/
def State.withRegion (s : State) (d : DieId) (r : RegionEntry) : State := s.mapDie d fun x => x.setRegion r

theorem withRegion_dir (s : State) (d : DieId) (r : RegionEntry) : ((s.withRegion d r).die d).dir = (s.die d).dir :=
  (congrArg Die.dir (die_mapDie_self s d fun x => x.setRegion r) : _ = ((s.die d).setRegion r).dir)

/-- A step that sets one region's entry and keeps the slot, completed. -/
theorem region_done4 {v : State} {d : DieId} {r : RegionEntry} (hlike : Like s v) (hmem : v.mem = s.mem) (hdies : v.dies = (s.withRegion d r).dies) :
    Passed s v.done4 4 ∧ SameMemory s v.done4 ∧ SlotKept s v.done4 id ∧ (v.done4.die d).region r.index = r := by
  refine ⟨hlike.done4.1, sameMemory_of_mem hmem, hlike.done4.2, ?_⟩
  have hdie : v.done4.die d = (s.die d).setRegion r := by
    rw [State.die, show v.done4.dies = (s.withRegion d r).dies from hdies]
    exact die_mapDie_self ..
  rw [hdie, region_setRegion]

theorem countDeg_noted (d : DieId) (old new : Nat) : ∃ c, s.countDeg d old new = { s with ctr := c } := by
  have hone (u : State) (k inst ix n : Nat) : ∃ c, u.count d k inst ix n = { u with ctr := c } := by
    unfold State.count
    split
    · exact ⟨u.ctr, rfl⟩
    · exact ⟨_, rfl⟩
  obtain ⟨c, hc⟩ := hone s 4 0 5 (if old < new then 1 else 0)
  obtain ⟨c', hc'⟩ := hone { s with ctr := c } 4 0 6 (if new < old then 1 else 0)
  exact ⟨c', by rw [State.countDeg, hc, hc']⟩

/-- Where no line of the region has a replica a lowering collapses none. -/
theorem lowerRegion_none {d : DieId} {ix : Nat} (h : ∀ e ∈ (s.die d).dir, regionIx e.line ≠ ix) (code : Nat) (who : Requester) : s.lowerRegion d ix code who = s := by
  unfold State.lowerRegion
  rw [List.filter_eq_nil_iff.2 fun e he => by simp [h e he]]
  rfl

/-- The lines of a region are lowered to a degree, and the instruction waits for their collapses (R351). -/
def State.lowerTo (s : State) (d : DieId) (ix code : Nat) : State :=
  let (id, s) := s.take
  let s := s.lowerRegion d ix code (.transfer id)
  if s.unsettled id then s.mapMe fun c => { c with sent := some id } else s.done4

theorem lowerTo_none {d : DieId} {ix : Nat} (h : ∀ e ∈ (s.die d).dir, regionIx e.line ≠ ix) (hs : s.unsettled s.serial = false) (code : Nat) :
    s.lowerTo d ix code = ({ s with serial := s.serial + 1 } : State).done4 := by
  have hnone := lowerRegion_none (s := { s with serial := s.serial + 1 }) (d := d) (ix := ix) h code (.transfer s.serial)
  unfold State.lowerTo State.take
  dsimp only
  rw [hnone]
  exact if_neg (by rw [show ({ s with serial := s.serial + 1 } : State).unsettled s.serial = false from hs]; exact Bool.false_ne_true)

end degree

/-! ### Prefetch -/

/-- Only reads of lines that are homed elsewhere have been sent. -/
structure State.Asks (s t : State) (d : DieId) (slot : SlotNo) (kind : Pref) : Prop where
  me : t.me = s.me
  mem : t.mem = s.mem
  dies : t.dies = s.dies
  net : ∃ l, t.net = s.net ++ l ∧ ∀ p ∈ l, ∃ i line h, p = .read i d slot line h kind ∧ homeOf line ≠ d

section prefetch
variable {s t u : State} {d : DieId} {slot : SlotNo} {kind : Pref}

theorem State.Asks.refl (s : State) : s.Asks s d slot kind := ⟨rfl, rfl, rfl, [], (List.append_nil _).symm, fun _ h => nomatch h⟩

theorem State.Asks.trans (h : s.Asks t d slot kind) (g : t.Asks u d slot kind) : s.Asks u d slot kind := by
  obtain ⟨l, hl, hread⟩ := h.net
  obtain ⟨m, hm, hread'⟩ := g.net
  exact ⟨g.me.trans h.me, g.mem.trans h.mem, g.dies.trans h.dies, l ++ m, by rw [hm, hl, List.append_assoc],
    fun p hp => (List.mem_append.1 hp).elim (hread p) (hread' p)⟩

theorem count_asks (e : DieId) (k inst ix n : Nat) : s.Asks (s.count e k inst ix n) d slot kind :=
  ⟨count_me .., count_mem .., count_dies .., [], by rw [count_net, List.append_nil], fun _ h => nomatch h⟩

theorem foldl_asks {α : Type} {f : State → α → State} (h : ∀ (t : State) x, t.Asks (f t x) d slot kind) (l : List α) (s : State) : s.Asks (l.foldl f s) d slot kind := by
  induction l generalizing s with
  | nil => exact .refl s
  | cons x l ih => exact (h s x).trans (ih _)

theorem prefetchLines_asks (hint : BitVec 2) (lo n : Nat) : s.Asks (s.prefetchLines d slot kind hint lo n) d slot kind := by
  refine foldl_asks (fun t line => ?_) _ s
  split
  · exact .refl t
  split
  · exact count_asks ..
  next hhome _ => exact ⟨rfl, rfl, rfl, _, rfl, fun p hp => ⟨_, line, hint, List.mem_singleton.1 hp, fun h => hhome (.inl h)⟩⟩

theorem prefetch_asks (level : Bool) (root fuel va n : Nat) : s.Asks (s.prefetch d (some slot) kind level root fuel va n) d slot kind := by
  induction fuel generalizing s va n with
  | zero => exact .refl s
  | succ fuel ih =>
    unfold State.prefetch
    split
    · exact .refl s
    dsimp only
    split
    · exact count_asks ..
    next p _ =>
      refine State.Asks.trans ?_ (ih ..)
      split
      · exact prefetchLines_asks ..
      · exact count_asks ..

end prefetch

/-- Settles O27: a degree instruction sets one entry of the region table; `rpref` only asks for lines (`prefetch_asks`). -/
theorem replicationDegrees : Obligations.ReplicationDegrees := by
  unfold Obligations.ReplicationDegrees
  intro a b g s loc d r hc ha
  have hix : r.index = regionIx loc := region_index ..
  refine ⟨fun hva => ⟨fun hle => ?_, fun hlt hdir hsettled => ?_, ?_⟩, fun hva i hi => ?_, ?_⟩
  · obtain ⟨c, hcount⟩ := countDeg_noted (s := s.withRegion d { r with deg := g, pin := true }) d r.deg.toNat g.toNat
    have hx : exec (.rdegPin a g) s = .next ({ s.withRegion d { r with deg := g, pin := true } with ctr := c } : State).done4 := by
      refine Eq.trans (show _ = s.degree a _ from rfl) ((degree_region hc ha hva).trans (congrArg Host.Outcome.next ?_))
      exact (if_neg (Nat.not_lt.2 hle)).trans (congrArg State.done4 hcount)
    have h := region_done4 (s := s) (v := { s.withRegion d { r with deg := g, pin := true } with ctr := c }) (d := d) (r := { r with deg := g, pin := true })
      ⟨rfl, rfl⟩ rfl rfl
    exact completes_of hx (hix ▸ h)
  · obtain ⟨c, hcount⟩ := countDeg_noted (s := s.withRegion d { r with deg := g, pin := true }) d r.deg.toNat g.toNat
    have hx : exec (.rdegPin a g) s = .next ({ s.withRegion d { r with deg := g, pin := true } with ctr := c, serial := s.serial + 1 } : State).done4 := by
      refine Eq.trans (show _ = s.degree a _ from rfl) ((degree_region hc ha hva).trans (congrArg Host.Outcome.next ?_))
      refine (if_pos hlt).trans ((congrArg (fun u : State => u.lowerTo d (regionIx loc) g.toNat) hcount).trans (lowerTo_none (s := { s.withRegion d { r with deg := g, pin := true } with ctr := c }) ?_ hsettled _))
      exact fun e he => hdir e (withRegion_dir s d _ ▸ he)
    have h := region_done4 (s := s) (v := { s.withRegion d { r with deg := g, pin := true } with ctr := c, serial := s.serial + 1 }) (d := d) (r := { r with deg := g, pin := true })
      ⟨rfl, rfl⟩ rfl rfl
    exact completes_of hx (hix ▸ h)
  · have hx : exec (.rdegAuto a g) s = .next (s.withRegion d { r with pin := false }).done4 :=
      Eq.trans (show _ = s.degree a _ from rfl) ((degree_region hc ha hva).trans rfl)
    have h := region_done4 (s := s) (v := s.withRegion d { r with pin := false }) (d := d) (r := { r with pin := false }) ⟨rfl, rfl⟩ rfl rfl
    exact completes_of hx (hix ▸ h)
  · have hdone : Passed s (s.count s.me.die 4 0 9 1).done4 4 ∧ Keeps s.uncounted (s.count s.me.die 4 0 9 1).done4.uncounted id := by
      obtain ⟨hp, hk⟩ := advance_keeps (s.count s.me.die 4 0 9 1) 4 id
      have hlike : Like s (s.count s.me.die 4 0 9 1) := like_of_lean (by rw [count_me])
      have hout := (congrArg State.uncounted hk.outside).trans (congrArg State.outside (count_uncounted s s.me.die 4 0 9 1))
      exact ⟨hlike.done4.1, hout, hk.slot.trans (by rw [count_me]; rfl), fun x => (hk.memory x).trans (by rw [count_mem]; rfl)⟩
    rcases List.mem_cons.1 hi with rfl | hi
    · exact completes_of (Eq.trans (show _ = s.degree a _ from rfl) (degree_nowhere hc ha hva)) hdone
    · rw [List.mem_singleton.1 hi]
      exact completes_of (Eq.trans (show _ = s.degree a _ from rfl) (degree_nowhere hc ha hva)) hdone
  · have hask := prefetch_asks (s := s) (d := s.me.die) (slot := s.me.slot) (kind := .strand s.me.strand s.me.deadline) (s.me.level == .strand) s.me.ctl.ptroot.toNat 64
      (s.getS a).toNat (min (s.getS b).toNat (2 ^ 21))
    obtain ⟨hme, hmem, hdies, hnet⟩ := hask
    have hx : exec (.rpref a b) s = .next (s.prefetch s.me.die (some s.me.slot) (.strand s.me.strand s.me.deadline) (s.me.level == .strand) s.me.ctl.ptroot.toNat 64
        (s.getS a).toNat (min (s.getS b).toNat (2 ^ 21))).done4 := congrArg Host.Outcome.next (held_serial s _ hc)
    generalize s.prefetch _ _ _ _ _ _ _ _ = u at hx hme hmem hdies hnet
    obtain ⟨hp, hk⟩ := (like_of_lean (congrArg Ctx.lean hme) : Like s u).done4
    exact completes_of hx ⟨hp, hmem, hdies, hk, hnet⟩

end Sys2Proof.Machine
end

section
/-! SUPPORT. A slot found after another was changed, counters, and messages that leave by a port: what each leaves as it was. -/

namespace Sys2Proof.Machine

/-! ### A slot that is not free, changed and found -/

section slots
variable {s : State} {d e : DieId} {k j : SlotNo} {c : Ctx} {f : Ctx → Ctx}

theorem find?_mapIf {α : Type} {p : α → Bool} {f : α → α} (hp : ∀ x, p (f x) = p x) (l : List α) : (mapIf p f l).find? p = (l.find? p).map f := by
  induction l with
  | nil => rfl
  | cons x l ih =>
    simp only [mapIf, List.map_cons] at ih ⊢
    by_cases hx : p x = true
    · simp [hp, hx]
    · simpa [hx] using ih

theorem find?_mapIf_ne (hat : ∀ c, (f c).at e j = c.at e j) (hne : (e, j) ≠ (d, k)) (l : List Ctx) :
    (mapIf (fun c => c.at d k) f l).find? (fun c => c.at e j) = l.find? fun c => c.at e j := by
  induction l with
  | nil => rfl
  | cons x l ih =>
    simp only [mapIf, List.map_cons] at ih ⊢
    cases hx : x.at e j with
    | true =>
      have hoff : x.at d k = false := by
        rw [← Bool.not_eq_true]
        intro hd
        rw [at_iff] at hx hd
        exact hne (by rw [← hx.1, ← hx.2, ← hd.1, ← hd.2])
      simp [hoff, hx]
    | false =>
      rw [List.find?_cons, List.find?_cons, hx]
      have : (if x.at d k then f x else x).at e j = false := by split <;> simp [hat, hx]
      simpa [this] using ih

/-- Changing a slot that is not free: it is found changed. -/
theorem ctx?_mapCtx (h : s.ctx? d k = some c) (hat : ∀ c, (f c).at d k = c.at d k) (hst : ∀ c, (f c).state = c.state) : (s.mapCtx d k f).ctx? d k = some (f c) := by
  unfold State.ctx? at h
  unfold State.mapCtx State.ctx?
  split at h
  next hme =>
    split at h
    · cases h
    next hfree =>
      cases h
      rw [if_pos hme, if_pos (by rw [← hme]; exact hat _), if_neg (by rw [hst]; exact hfree)]
  next hme =>
    rw [if_neg hme, if_neg hme]
    exact (find?_mapIf (p := fun c => Ctx.at c d k) hat _).trans (by rw [h]; rfl)

/-- Another slot is found as it was. -/
theorem ctx?_mapCtx_ne (hne : (e, j) ≠ (d, k)) (hat : ∀ c, (f c).at e j = c.at e j) : (s.mapCtx d k f).ctx? e j = s.ctx? e j := by
  unfold State.mapCtx State.ctx?
  split
  next hme =>
    have hoff : s.me.at e j = false := by
      rw [← Bool.not_eq_true]
      intro he
      rw [at_iff] at hme he
      exact hne (by rw [← he.1, ← he.2, ← hme.1, ← hme.2])
    have hoff' : (f s.me).at e j = false := by rw [hat, hoff]
    simp [hoff, hoff']
  next =>
    split
    · rfl
    · exact find?_mapIf_ne hat hne _

theorem ctx?_of_slots {t : State} (hme : t.me = s.me) (ho : t.others = s.others) : t.ctx? d k = s.ctx? d k := by
  unfold State.ctx?
  rw [hme, ho]

@[simp] theorem mapCtx_dies : (s.mapCtx d k f).dies = s.dies := by unfold State.mapCtx; split <;> rfl

@[simp] theorem mapCtx_die : (s.mapCtx e k f).die d = s.die d := by unfold State.die; simp

end slots

/-! ### Counters -/

theorem ctrGet_ctrPut (a : Nat) (x : Word) (m : List (Nat × Word)) : ctrGet (ctrPut a x m) a = x := by
  induction m with
  | nil => simp [ctrPut, ctrGet]
  | cons p m ih =>
    obtain ⟨k, y⟩ := p
    unfold ctrPut
    split
    · simp [ctrGet]
    · split
      · simp [ctrGet]
      next h1 h2 => simp only [ctrGet, if_neg h1, if_neg h2, ih]

theorem ctrGet_absent (a : Nat) (m : List (Nat × Word)) (h : ∀ p ∈ m, p.1 ≠ a) : ctrGet m a = 0 := by
  induction m with
  | nil => rfl
  | cons p m ih =>
    obtain ⟨k, y⟩ := p
    have hk : a ≠ k := fun he => h (k, y) List.mem_cons_self he.symm
    simp only [ctrGet, if_neg hk]
    split
    · rfl
    · exact ih fun q hq => h q (List.mem_cons_of_mem _ hq)

section counter
variable (s : State) (d : DieId) (kind inst ix n : Nat)

theorem counter_setCounter (x : Word) : (s.setCounter d kind inst ix x).counter d kind inst ix = x := by
  unfold State.setCounter State.counter ctrSet
  dsimp only
  split
  next hx => rw [hx]; exact ctrGet_absent _ _ fun p hp => by simpa using List.of_mem_filter hp
  next => exact ctrGet_ctrPut ..

theorem counter_count_one : (s.count d kind inst ix 1).counter d kind inst ix = s.counter d kind inst ix + 1 := counter_setCounter ..

theorem uncounted_count : (s.count d kind inst ix n).uncounted = s.uncounted := by unfold State.count; split <;> rfl

theorem count_link (e : DieId) (dir : Dir) : (s.count d kind inst ix n).link e dir = s.link e dir := by unfold State.link; simp

end counter

/-! ### Messages for other modules -/

section away
variable {s : State} {m : Member} {x : GroupMsg} {p : Fin 8}

/-- A message for another module leaves, or waits to leave; nothing else changes. -/
theorem sendAway_eq (s : State) (m : Member) (x : GroupMsg) : ∃ a w, s.sendAway m x = { s with away := a, wire := w } := by
  unfold State.sendAway
  split
  · exact ⟨_, _, rfl⟩
  · split
    · exact ⟨_, _, rfl⟩
    · exact ⟨_, _, rfl⟩

theorem flushAway_eq (s : State) : ∃ a w, s.flushAway = { s with away := a, wire := w } := by
  have hfold (l : List (Member × GroupMsg)) : ∀ t : State, ∃ a w, (l.foldl (fun s q => s.sendAway q.1 q.2) t) = { t with away := a, wire := w } := by
    induction l with
    | nil => exact fun t => ⟨_, _, rfl⟩
    | cons q l ih =>
      intro t
      obtain ⟨a, w, h⟩ := sendAway_eq t q.1 q.2
      obtain ⟨a', w', h'⟩ := ih (t.sendAway q.1 q.2)
      exact ⟨a', w', by rw [List.foldl_cons, h', h]⟩
  obtain ⟨a, w, h⟩ := hfold s.away { s with away := [] }
  exact ⟨a, w, h⟩

/-- What messages for other modules leave as it was. -/
def State.inner (s : State) : State := { s with away := [], wire := [] }

theorem sendAway_inner (s : State) (m : Member) (x : GroupMsg) : (s.sendAway m x).inner = s.inner := by
  obtain ⟨a, w, h⟩ := sendAway_eq s m x
  rw [h]
  rfl

theorem flushAway_inner (s : State) : s.flushAway.inner = s.inner := by
  obtain ⟨a, w, h⟩ := flushAway_eq s
  rw [h]
  rfl

theorem flushAway_net (s : State) : s.flushAway.net = s.net := (congrArg State.net (flushAway_inner s) : s.flushAway.inner.net = s.inner.net)
theorem flushAway_ctx? (s : State) (d : DieId) (k : SlotNo) : s.flushAway.ctx? d k = s.ctx? d k :=
  ctx?_of_slots (congrArg State.me (flushAway_inner s) : s.flushAway.inner.me = s.inner.me) (congrArg State.others (flushAway_inner s) : s.flushAway.inner.others = s.inner.others)

theorem flushAway_nil (h : s.away = []) : s.flushAway = s := by
  unfold State.flushAway
  rw [h, List.foldl_nil, ← h]

/-- A message leaves by the port of its route, where nothing holds it. -/
theorem sendAway_leaves (haway : s.away = []) (hroute : s.route m.modl.toNat = some p) (hfree : s.routeHeld m.modl.toNat (some p) = false) :
    s.sendAway m x = { s with wire := .group p m x :: s.wire } := by
  unfold State.sendAway
  rw [hroute]
  simp [haway, hfree]

end away

end Sys2Proof.Machine
end

section
/-! SUPPORT. Events of connections, addresses, the time base and links (R425 to R428, R436, R439). -/

namespace Sys2Proof.Machine

/-- Memory, the slots and the dies are as before. -/
def State.Apart (s t : State) : Prop := t.mem = s.mem ∧ t.busy = s.busy ∧ t.dies = s.dies

section connections
variable {s : State} {ep : Endpoint} {service : Word} {cn : Conn}

theorem cmReq_rep (he : endpointOf service = some ep) (ho : s.isOpen ep = true) (hc : ((s.conn? ep).any fun c => c.up) = false) :
    Completes (.cmReq service) s fun t => s.Apart t ∧ t.conn? ep = some ⟨ep, false, 0, [], 1⟩ ∧ t.wire = .rep (qpn ep) (Config.freePsn s.fresh) :: s.wire := by
  have hx : exec (.cmReq service) s = .next (({ s with conns := ⟨ep, false, 0, [], 1⟩ :: s.conns.filter fun c => c.ep != ep, fresh := s.fresh + 1 } : State).say
      (.rep (qpn ep) (Config.freePsn s.fresh))) := by
    change execCmReq service s = _
    unfold execCmReq
    simp [he, ho, hc]
  exact completes_of hx ⟨⟨rfl, rfl, rfl⟩, by simp [State.say, State.conn?], rfl⟩

theorem cmReq_rej_unknown (he : endpointOf service = none) : Completes (.cmReq service) s fun t => t = { s with wire := .rej :: s.wire } := by
  refine completes_of (t := s.say .rej) ?_ rfl
  change execCmReq service s = _
  unfold execCmReq
  rw [he]

theorem cmReq_rej_closed (he : endpointOf service = some ep) (h : s.isOpen ep = false ∨ ((s.conn? ep).any fun c => c.up) = true) :
    Completes (.cmReq service) s fun t => t = { s with wire := .rej :: s.wire } := by
  refine completes_of (t := s.say .rej) ?_ rfl
  change execCmReq service s = _
  unfold execCmReq
  rcases h with h | h <;> simp [he, h]

/-- A connection of an endpoint that stands. -/
def State.Stands (s : State) (ep : Endpoint) : Prop := ∃ c, s.conn? ep = some c ∧ c.up = true

/-- A connection that stands, among those of which one field was changed. -/
theorem stands_mapIf {f : Conn → Conn} {conns : List Conn} {c : Conn} (hc : conns.find? (fun c => c.ep == ep) = some c) (hep : ∀ c, (f c).ep = c.ep)
    (hup : (f c).up = true) : ({ s with conns := mapIf (fun c => c.ep == ep) f conns } : State).Stands ep :=
  ⟨f c, (find?_mapIf (p := fun c : Conn => c.ep == ep) (fun x => by rw [hep]) _).trans (by rw [hc]; rfl), hup⟩

theorem find?_stands {c : Conn} (hc : s.conn? ep = some c) (hup : c.up = true) : s.conns.find? (fun c => c.ep == ep && c.up) = some c := by
  obtain ⟨hep, before, after, hsplit, hbefore⟩ := List.find?_eq_some_iff_append.1 hc
  have hno : before.find? (fun c => c.ep == ep && c.up) = none := List.find?_eq_none.2 fun x hx => by
    have := hbefore x hx
    simp_all
  rw [hsplit, List.find?_append, hno, List.find?_cons]
  simp [hep, hup]

/-- A message of an endpoint whose connection stands is sent. -/
theorem post_stands {op : Nat} {die : DieId} {tag addr arg0 arg1 : Word} {payload : List Byte} (h : s.Stands ep) :
    ∃ m conns, s.post ep op die tag addr arg0 arg1 payload = { s with out := m :: s.out, conns } ∧ ({ s with conns } : State).Stands ep := by
  obtain ⟨c, hc, hup⟩ := h
  unfold State.post
  simp only [find?_stands hc hup]
  exact ⟨_, _, rfl, stands_mapIf (f := fun c => { c with aseq := c.aseq + 1 }) hc (by intro _; rfl) hup⟩

theorem posts_stand (l : List HostMsg) : (∀ m ∈ l, m.ep = ep) → ∀ u : State, u.Stands ep →
    let v := l.foldl (fun s m => s.post m.ep m.op.toNat m.die m.tag m.addr m.arg0 m.arg1 m.payload) u
    u.Apart v ∧ v.Stands ep ∧ v.asyncs = u.asyncs ∧ v.out.length = u.out.length + l.length := by
  induction l with
  | nil => exact fun _ u hu => ⟨⟨rfl, rfl, rfl⟩, hu, rfl, rfl⟩
  | cons m l ih =>
    intro hep u hu
    obtain ⟨w, conns, hpost, hst⟩ := post_stands (op := m.op.toNat) (die := m.die) (tag := m.tag) (addr := m.addr) (arg0 := m.arg0) (arg1 := m.arg1)
      (payload := m.payload) hu
    have hst' : ({ u with out := w :: u.out, conns } : State).Stands ep := hst
    obtain ⟨hsame, hup, hasync, hlen⟩ := ih (fun x hx => hep x (List.mem_cons_of_mem _ hx)) _ hst'
    simp only [List.foldl_cons]
    rw [hep m List.mem_cons_self, hpost]
    refine ⟨hsame, hup, hasync, hlen.trans ?_⟩
    simp only [List.length_cons]
    omega

theorem flushAsyncs_stands (h : s.Stands ep) : s.Apart (s.flushAsyncs ep) ∧ (s.flushAsyncs ep).Stands ep ∧ (∀ m ∈ (s.flushAsyncs ep).asyncs, m.ep ≠ ep)
    ∧ (s.flushAsyncs ep).out.length = s.out.length + (s.asyncs.filter fun m => m.ep == ep).length := by
  have hst : ({ s with asyncs := s.asyncs.filter fun m => m.ep != ep } : State).Stands ep := h
  obtain ⟨hsame, hup, hasync, hlen⟩ := posts_stand (s.asyncs.filter fun m => m.ep == ep) (fun m hm => by simpa using List.of_mem_filter hm) _ hst
  refine ⟨hsame, hup, fun m hm => ?_, hlen⟩
  unfold State.flushAsyncs at hm
  rw [hasync] at hm
  simpa using List.of_mem_filter hm

theorem cmRtu_stands (hc : s.conn? ep = some cn) (hu : cn.up = false) : Completes (.cmRtu ep) s fun t => s.Apart t ∧ (∃ c', t.conn? ep = some c' ∧ c'.up = true)
    ∧ (∀ m ∈ t.asyncs, m.ep ≠ ep) ∧ t.out.length = s.out.length + (s.asyncs.filter fun m => m.ep == ep).length := by
  have hx : exec (.cmRtu ep) s = .next (({ s with conns := mapIf (fun c => c.ep == ep) (fun c => { c with up := true }) s.conns } : State).flushAsyncs ep) := by
    change execCmRtu ep s = _
    unfold execCmRtu
    simp [hc, hu]
  exact completes_of hx (flushAsyncs_stands (stands_mapIf hc (by intro _; rfl) rfl))

theorem conn?_closeConn (s : State) (ep : Endpoint) : (s.closeConn ep).conn? ep = none :=
  List.find?_eq_none.2 fun c hc => by simpa using List.of_mem_filter hc

theorem cmDreq_closes (hc : s.conn? ep = some cn) (hu : cn.up = true) :
    Completes (.cmDreq ep) s fun t => s.Apart t ∧ t.conn? ep = none ∧ t.wire = .drep :: s.wire := by
  refine completes_of (t := (s.closeConn ep).say .drep) ?_ ⟨⟨rfl, rfl, rfl⟩, conn?_closeConn s ep, rfl⟩
  change execCmDreq ep s = _
  unfold execCmDreq
  simp [hc, hu]

theorem connectionBroken_closes : Completes (.connectionBroken ep) s fun t => t = { s with conns := t.conns } ∧ ∀ c, c ∈ t.conns ↔ c ∈ s.conns ∧ c.ep ≠ ep :=
  ⟨_, rfl, rfl, fun c => by simp [State.closeConn]⟩

end connections

section addresses
variable {s : State} {ip : BitVec 32} {ip6 : BitVec 128} {ptp : PtpMsg}

theorem arpRequest_answers (hn : s.netUp = true) (h : s.ip4 = some ip) : Completes (.arpRequest ip) s fun t => t = { s with wire := .arp ip Config.freeMac :: s.wire } :=
  completes_of (congrArg Host.Outcome.next (if_pos ⟨hn, h⟩)) rfl
theorem arpRequest_silent (h : s.ip4 ≠ some ip) : Completes (.arpRequest ip) s fun t => t = s :=
  completes_of (congrArg Host.Outcome.next (if_neg fun hc => h hc.2)) rfl
theorem neighbourSolicitation_answers (hn : s.netUp = true) (h : s.ip6 = some ip6) :
    Completes (.neighbourSolicitation ip6) s fun t => t = { s with wire := .neighbour ip6 Config.freeMac :: s.wire } :=
  completes_of (congrArg Host.Outcome.next (if_pos ⟨hn, h⟩)) rfl
theorem dhcpRenewal_asks (hn : s.netUp = true) (h : v4Dhcp s.netRec = true) : Completes .dhcpRenewal s fun t => t = { s with wire := .dhcpRequest :: s.wire } :=
  completes_of (congrArg Host.Outcome.next (if_pos ⟨hn, h⟩)) rfl
theorem dhcpMessage_keeps (hn : s.netUp = true) (h : v4Dhcp s.netRec = true) (hip : s.ip4 = none) :
    Completes (.dhcpMessage ip) s fun t => t = { s with ip4 := some ip } :=
  completes_of (congrArg Host.Outcome.next (if_pos ⟨hn, h, by rw [hip]; rfl⟩)) rfl
theorem routerAdvertisement_keeps (hn : s.netUp = true) (h : v6Auto s.netRec = true) (hip : s.ip6 = none) :
    Completes (.routerAdvertisement ip6) s fun t => t = { s with ip6 := some ip6 } :=
  completes_of (congrArg Host.Outcome.next (if_pos ⟨hn, h, by rw [hip]; rfl⟩)) rfl

theorem ptpDelayRequest_sends (h : s.ptpOn = true) : Completes .ptpDelayRequest s fun t => t = { s with wire := .ptp s.ptpPort :: s.wire } :=
  completes_of (congrArg Host.Outcome.next (if_pos h)) rfl
theorem ptpMessage_steers (h : s.ptpOn = true) (hp : ptp.port = s.ptpPort) :
    Completes (.ptpMessage ptp) s fun t => t.uncounted = s.uncounted ∧ t.counter 4 0 0 0 = ptp.offset :=
  completes_of (congrArg Host.Outcome.next (if_pos ⟨h, hp⟩)) ⟨rfl, counter_setCounter ..⟩
theorem ptpMessage_ignored (h : s.ptpOn = false ∨ ptp.port ≠ s.ptpPort) : Completes (.ptpMessage ptp) s fun t => t = s := by
  refine completes_of (congrArg Host.Outcome.next (if_neg ?_)) rfl
  rintro ⟨hon, hport⟩
  rcases h with h | h
  · rw [h] at hon; exact absurd hon (by decide)
  · exact h hport

end addresses

section links
variable {s : State} {d : DieId} {dir : Dir}

theorem countLink_apart (ix n : Nat) : s.Apart (s.countLink d dir ix n) ∧ (s.countLink d dir ix n).link d dir = s.link d dir := by
  unfold State.countLink
  exact ⟨⟨by simp, by simp [count_busy], by simp⟩, by rw [count_link, count_link]⟩

/-- A link changed, after its counts. -/
theorem mapLink_apart {u : State} (h : s.Apart u) (hl : u.link d dir = s.link d dir) (f : Link → Link) :
    s.Apart (u.mapLink d dir f) ∧ (u.mapLink d dir f).link d dir = f (s.link d dir) := by
  refine ⟨h, ?_⟩
  rw [← hl]
  simp [State.mapLink, State.link]

theorem flitReplay_counts {good : Bool} (h : (s.link d dir).up = true) : Completes (.flitReplay d dir good) s fun t =>
    s.Apart t ∧ t.link d dir = { s.link d dir with replays := if good then 0 else (s.link d dir).replays + 1 } := by
  refine completes_of (congrArg Host.Outcome.next (if_pos h)) ?_
  obtain ⟨⟨hm, hb, hd⟩, hl⟩ := countLink_apart (s := s) (d := d) (dir := dir) 1 1
  obtain ⟨⟨hm', hb', hd'⟩, hl'⟩ := countLink_apart (s := s.countLink d dir 1 1) (d := d) (dir := dir) 0 1
  exact mapLink_apart (f := fun l => { l with replays := if good then 0 else l.replays + 1 }) ⟨hm'.trans hm, hb'.trans hb, hd'.trans hd⟩ (hl'.trans hl)

theorem linkDown_downs (h : (s.link d dir).up = true) (hr : 16 ≤ (s.link d dir).replays) : Completes (.linkDown d dir) s fun t =>
    s.Apart t ∧ t.link d dir = { s.link d dir with up := false } := by
  refine completes_of (congrArg Host.Outcome.next (if_pos ⟨h, hr⟩)) ?_
  exact mapLink_apart (countLink_apart ..).1 (countLink_apart ..).2 _

theorem linkUp_ups (h : (s.link d dir).up = false) (hp : (s.link d dir).passed = true) (hd : (s.die d).present = true)
    (hn : (s.die (neighbour d dir)).present = true) : Completes (.linkUp d dir) s fun t =>
    s.Apart t ∧ t.link d dir = { s.link d dir with up := true, replays := 0 } := by
  refine completes_of (congrArg Host.Outcome.next (if_pos ⟨by rw [h]; rfl, hp, hd, hn⟩)) ?_
  exact mapLink_apart (countLink_apart ..).1 (countLink_apart ..).2 _

end links

end Sys2Proof.Machine
end

section
/-! SUPPORT. Transactions that end without an answer (R440, R441). -/

namespace Sys2Proof.Machine

section timeouts
variable {s : State} {n : Nat} {d e : DieId} {k : SlotNo} {c : Ctx} {p : Packet} {rest : List Packet}

/-- A transaction that is not yet late goes on. -/
theorem fabricTimeout_early {u : State} (ht : takeAt n s.net = some (p, rest)) (ho : ({ s with net := rest } : State).timeoutOf p = some (d, u))
    (hage : s.age n < s.fabricTicks d) : exec (.fabricTimeout n) s = .next s := by
  change execFabricTimeout n s = _
  unfold execFabricTimeout
  rw [ht]
  simp only [ho]
  rw [if_neg (by omega)]

/-- A late transaction ends, and its die counts it. -/
theorem fabricTimeout_late {u : State} {P : State → Prop} (ht : takeAt n s.net = some (p, rest))
    (ho : ({ s with net := rest } : State).timeoutOf p = some (d, u)) (hage : s.fabricTicks d ≤ s.age n) (h : P (u.count d 0 0 5 1)) :
    Completes (.fabricTimeout n) s P := by
  refine completes_of ?_ h
  change execFabricTimeout n s = _
  unfold execFabricTimeout
  rw [ht]
  simp only [ho]
  rw [if_pos hage]

/-- The answer of one message changes the slot that awaits it. -/
theorem ctx?_awaited {id : Nat} {f : Ctx → Ctx} (h : s.ctx? e k = some c) (hsent : c.sent = some id) (hat : ∀ c, (f c).at e k = c.at e k) (hst : ∀ c, (f c).state = c.state) :
    (s.mapCtx e k fun c => if c.sent = some id then f c else c).ctx? e k = some (f c) := by
  rw [ctx?_mapCtx h, if_pos hsent]
  · intro c; split <;> simp [hat]
  · intro c; split <;> simp [hst]

theorem readTimeout_loses {id line : Nat} {hint : BitVec 2} (ht : takeAt n s.net = some (.read id e k line hint .load, rest))
    (hage : s.fabricTicks e ≤ s.age n) (hc : s.ctx? e k = some c) (hsent : c.sent = some id) : Completes (.fabricTimeout n) s fun t => t.net = rest ∧ t.mem = s.mem
      ∧ ∃ o, t.ctx? e k = some o ∧ o.sent = none ∧ o.lines.head? = some ⟨line, List.replicate 256 none⟩ := by
  refine fabricTimeout_late ht rfl hage ⟨by rw [count_net]; exact mapCtx_net .., by rw [count_mem]; exact mapCtx_mem .., ?_⟩
  rw [count_ctx?]
  refine ⟨_, ctx?_awaited (f := fun c => { c with sent := none, lines := ⟨line, List.replicate 256 none⟩ :: c.lines.filter fun l => l.line != line }) ?_ hsent (fun _ => rfl)
    (fun _ => rfl), rfl, rfl⟩
  exact hc

theorem requestTimeout_answers {id line : Nat} {strand : Word} {op : HomeOp} (ht : takeAt n s.net = some (.request id e k strand line op, rest))
    (hage : s.fabricTicks e ≤ s.age n) (hop : ∀ o z x, op ≠ .rred o z x) (hc : s.ctx? e k = some c) (hsent : c.sent = some id) :
    Completes (.fabricTimeout n) s fun t => t.net = rest ∧ t.mem = s.mem ∧ ∃ a, t.ctx? e k = some { c with sent := none, answer := some a }
      ∧ ((∃ o z x, op = .amo o z x) → a = .value (BitVec.allOnes 64) 0 (some 0)) ∧ (op = .ldFe → a = .trap cFE_RETRY) := by
  have heq : ({ s with net := rest } : State).requestTimeout id e k op
      = ({ s with net := rest } : State).mapCtx e k fun c => if c.sent = some id then { c with sent := none, answer := some op.timeout } else c := by
    unfold State.requestTimeout
    split
    next o z x => exact absurd rfl (hop o z x)
    next => rfl
  refine fabricTimeout_late ht rfl hage ?_
  rw [heq, count_net, count_mem, count_ctx?]
  refine ⟨mapCtx_net .., mapCtx_mem .., op.timeout, ctx?_awaited (f := fun c => { c with sent := none, answer := some op.timeout }) ?_ hsent (fun _ => rfl) (fun _ => rfl), ?_, ?_⟩
  · exact hc
  · rintro ⟨o, z, x, rfl⟩; rfl
  · rintro rfl; rfl

theorem loseData_ctx? (hc : s.ctx? e k = some c) : (s.loseData (e, k)).ctx? e k = some { c with img := { c.img with flags := c.img.flags ||| flagDL } } :=
  ctx?_mapCtx hc (fun _ => rfl) (fun _ => rfl)

theorem storeTimeout_drops {q : Pend} (ht : takeAt n s.net = some (.pending d q.id, rest)) (hage : s.fabricTicks d ≤ s.age n)
    (hq : (s.die d).pend.find? (fun o => o.id == q.id) = some q) (hc : s.ctx? e k = some c) (hw : q.writers = [.slot e k]) :
    Completes (.fabricTimeout n) s fun t => t.net = rest ∧ t.mem = s.mem ∧ (∀ o ∈ (t.die d).pend, o.id ≠ q.id)
      ∧ t.ctx? e k = some { c with perfPend := c.perfPend - 1, img := { c.img with flags := c.img.flags ||| flagDL } } := by
  have hslots : q.slots = [(e, k)] := by unfold Pend.slots; rw [hw]; rfl
  have hend : ({ s with net := rest } : State).timeoutOf (.pending d q.id) = some (d,
      (((({ s with net := rest } : State).mapDie d fun x => { x with pend := x.pend.filter fun p => p.id != q.id }).mapCtx e k fun c =>
        { c with perfPend := c.perfPend - 1 }).loseData (e, k))) := by
    have hfind : (({ s with net := rest } : State).die d).pend.find? (fun o => o.id == q.id) = some q := hq
    unfold State.timeoutOf
    simp only [hfind, hslots]
    rfl
  refine fabricTimeout_late ht hend hage ?_
  rw [count_net, count_mem, count_ctx?, count_die]
  refine ⟨(mapCtx_net ..).trans (mapCtx_net ..), (mapCtx_mem ..).trans (mapCtx_mem ..), fun o ho => ?_, ?_⟩
  · rw [State.loseData, mapCtx_die, mapCtx_die, die_mapDie_self] at ho
    simpa using List.of_mem_filter ho
  · refine loseData_ctx? (c := { c with perfPend := c.perfPend - 1 }) (ctx?_mapCtx ?_ (fun _ => rfl) (fun _ => rfl))
    exact hc

theorem mem_of_takeAt {α : Type} {l rest : List α} {x : α} (h : takeAt n l = some (x, rest)) : x ∈ l ∧ ∀ y ∈ rest, y ∈ l := by
  induction l generalizing n rest with
  | nil => cases n <;> cases h
  | cons a l ih =>
    cases n with
    | zero => cases h; exact ⟨List.mem_cons_self, fun y hy => List.mem_cons_of_mem _ hy⟩
    | succ n =>
      unfold takeAt at h
      split at h
      next y ys hy =>
        cases h
        obtain ⟨hx, hr⟩ := ih hy
        refine ⟨List.mem_cons_of_mem _ hx, fun z hz => ?_⟩
        rcases List.mem_cons.1 hz with rfl | hz
        · exact List.mem_cons_self
        · exact List.mem_cons_of_mem _ (hr z hz)
      next => cases h

/-- A PERF that is not due among all packets is not due among some of them. -/
theorem perfDue_less {who : Requester} (h : s.perfDue d who = false) (hsub : ∀ p ∈ rest, p ∈ s.net) : ({ s with net := rest } : State).perfDue d who = false := by
  unfold State.perfDue at h ⊢
  rw [List.any_eq_false] at h ⊢
  exact fun p hp => h p (hsub p hp)

theorem cackTimeout_clears (ht : takeAt n s.net = some (.cack d (.slot e k), rest)) (hage : s.fabricTicks d ≤ s.age n)
    (hdue : s.perfDue d (.slot e k) = false) (hc : s.ctx? e k = some c) : Completes (.fabricTimeout n) s fun t =>
      t.net = rest.filterMap (Packet.forget d (.slot e k)) ∧ t.mem = s.mem
      ∧ t.ctx? e k = some { c with colPend := c.colPend.set d 0, img := { c.img with flags := c.img.flags ||| flagDL } } := by
  have hend : ({ s with net := rest } : State).timeoutOf (.cack d (.slot e k)) = some (d, ({ s with net := rest } : State).cackTimeout d (.slot e k)) :=
    if_neg (by rw [perfDue_less hdue (mem_of_takeAt ht).2]; decide)
  refine fabricTimeout_late ht hend hage ?_
  rw [count_net, count_mem, count_ctx?]
  unfold State.cackTimeout State.loseData
  dsimp only
  rw [mapCtx_net, mapCtx_mem, count_net, count_mem, mapCtx_net, mapCtx_mem]
  refine ⟨rfl, rfl, loseData_ctx? (c := { c with colPend := c.colPend.set d 0 }) ?_⟩
  rw [count_ctx?]
  exact ctx?_mapCtx (s := { s with net := rest.filterMap (Packet.forget d (.slot e k)) }) (f := fun c => { c with colPend := c.colPend.set d 0 }) hc (fun _ => rfl) (fun _ => rfl)

theorem stripTimeout_lands {st : Strip} (ht : takeAt n s.net = some (.strip st, rest)) (hage : s.fabricTicks st.die ≤ s.age n) :
    Completes (.fabricTimeout n) s fun t => t.mem = s.mem ∧ ∃ st', t.net = rest ++ [.landing st'] ∧ st'.id = st.id ∧ 3 ≤ st'.status ∧ st'.bytes = st.bytes ∧ st'.barrier = st.barrier :=
  fabricTimeout_late ht rfl hage ⟨by rw [count_mem]; rfl, { st with status := max st.status 3, moves := [], data := [], awaits := [] }, by rw [count_net]; rfl, rfl,
    le_max_right .., rfl, rfl⟩

theorem podTimeout_answers {id z modl : Nat} {strand addr x due : Word} {prt : Option (Fin 8)}
    (ht : takeAt n s.net = some (.pod id e k strand true z modl addr x prt due, rest)) (hage : s.fabricTicks e ≤ s.age n) (hc : s.ctx? e k = some c)
    (hsent : c.sent = some id) : Completes (.fabricTimeout n) s fun t => t.net = rest ∧ t.mem = s.mem
      ∧ t.ctx? e k = some { c with sent := none, answer := some (.value (BitVec.allOnes 64) 0 (some 0)) } := by
  refine fabricTimeout_late ht rfl hage ?_
  rw [count_net, count_mem, count_ctx?]
  unfold State.podTimeout
  rw [if_pos rfl]
  refine ⟨((mapCtx_net ..).trans (flushAway_net _)).trans (count_net ..), ((mapCtx_mem ..).trans (flushAway_mem _)).trans (count_mem ..), ?_⟩
  refine ctx?_awaited (f := fun c => { c with sent := none, answer := some (.value (BitVec.allOnes 64) 0 (some 0)) }) ?_ hsent (fun _ => rfl) (fun _ => rfl)
  rw [flushAway_ctx?, count_ctx?]
  exact hc

end timeouts

end Sys2Proof.Machine
end

section
/-! SUPPORT. Requests of other modules, replies to pod accesses, and ports (R224, R225, R443 to R446). -/

namespace Sys2Proof.Machine

section pod
variable {s : State}

theorem settleWrite_mem (s : State) (loc : Nat) (bs : List Byte) : (s.settleWrite loc bs).mem = memWrite s.mem loc bs := by
  unfold State.settleWrite
  rw [performWrite_mem]
  dsimp only
  rw [foldl_mem]
  intro t d
  exact (invalidate_mem ..).trans rfl

theorem settleWrite_shell (s : State) (loc : Nat) (bs : List Byte) : (s.settleWrite loc bs).shell = s.shell := by
  unfold State.settleWrite
  dsimp only
  generalize ((upFrom (loc / 256) ((loc + bs.length - 1) / 256 + 1 - loc / 256)).map (· * 256)) = ls
  have hdrop : (allDies.foldl (fun (s : State) d => (s.mapDie d fun x =>
      { x with replicas := x.replicas.filter (fun l => !ls.contains l.line), dir := x.dir.filter fun e => !ls.contains e.line }).invalidateER d loc bs.length none) s).hull = s.hull :=
    foldl_hull (fun t d => (invalidate_hull ..).trans (mapDie_hull (by intro _; rfl))) _ _
  rw [performWrite_shell]
  generalize allDies.foldl _ s = u at hdrop ⊢
  exact (shell_of_hull hdrop : u.shell = s.shell)

theorem markAD_marked {d : DieId} {p : Place} {w : Bool} (h : p.Marked w) : s.markAD d p w = s := by
  unfold State.markAD
  cases hp : p.pte with
  | none => rfl
  | some e =>
    obtain ⟨ha, hd⟩ := h e hp
    have hu : e.unmarked w = false := by
      unfold TlbEntry.unmarked
      cases w
      · simp [ha]
      · simp [ha, hd rfl]
    simp [hu]

/-- What a request of another module has to be before its bytes are looked at (R446). -/
structure State.Serves (s : State) (req : PodReq) (kind : AccessKind) (p : Place) : Prop where
  usable : s.portUsable req.port = true
  enabled : bitAt (s.die (portDie req.port)).regs.podroot 0 = true
  global : req.addr.toNat < 2 ^ 55
  size : req.size = 1 ∨ req.size = 2 ∨ req.size = 4 ∨ req.size = 8
  aligned : req.addr.toNat % req.size = 0
  place : s.translate (portDie req.port) none kind true (bits (s.die (portDie req.port)).regs.podroot 16 32 * 65536) req.addr.toNat = .ok p
  plain : p.dev = false

section serves
variable {req : PodReq} {kind : AccessKind} {p : Place}

theorem State.Serves.admitted (h : s.Serves req kind p) : (!bitAt (s.die (portDie req.port)).regs.podroot 0 || decide (2 ^ 55 ≤ req.addr.toNat)
    || !(req.size == 1 || req.size == 2 || req.size == 4 || req.size == 8) || req.addr.toNat % req.size != 0) = false := by
  have hsize : (req.size == 1 || req.size == 2 || req.size == 4 || req.size == 8) = true := by simpa [or_assoc] using h.size
  rw [h.enabled, hsize, h.aligned, decide_eq_false (Nat.not_le.2 h.global)]
  rfl

theorem podServe_read (h : s.Serves req .r p) (hm : p.Marked false) :
    s.podServe (portDie req.port) req.addr req.size .read = (s, some ((s.bytesAt p.loc req.size).map unlost)) := by
  unfold State.podServe podKind
  simp only [h.admitted, h.place, h.plain, Bool.false_eq_true, if_false, markAD_marked hm]

theorem podServe_write {data : List Byte} (h : s.Serves req .w p) (hm : p.Marked true) (hlen : data.length = req.size) :
    s.podServe (portDie req.port) req.addr req.size (.write data) = (s.settleWrite p.loc data, some []) := by
  unfold State.podServe podKind
  simp only [h.admitted, h.place, h.plain, Bool.false_eq_true, if_false, markAD_marked hm, hlen, ne_eq, not_true_eq_false]

theorem podRequest_read (hop : req.op = .read) (h : s.Serves req .r p) (hm : p.Marked false) : Completes (.podRequest req) s fun t =>
    s.Apart t ∧ t.wire = .podData req.port ((s.bytesAt p.loc req.size).map unlost) :: s.wire := by
  refine completes_of (t := { s with wire := .podData req.port ((s.bytesAt p.loc req.size).map unlost) :: s.wire }) ?_ ⟨⟨rfl, rfl, rfl⟩, rfl⟩
  change execPodRequest req s = _
  unfold execPodRequest
  simp only [hop, h.usable, podServe_read h hm]
  rfl

theorem podRequest_write {data : List Byte} (hop : req.op = .write data) (hlen : data.length = req.size) (h : s.Serves req .w p) (hm : p.Marked true)
    (hmem : s.MemOk) : Completes (.podRequest req) s fun t => StoredBytes s t p.loc data ∧ t.wire = .podAck req.port :: s.wire := by
  have hwire : (s.settleWrite p.loc data).wire = s.wire := (congrArg State.wire (settleWrite_shell s p.loc data) : (s.settleWrite p.loc data).shell.wire = s.shell.wire)
  refine completes_of (t := { s.settleWrite p.loc data with wire := .podAck req.port :: (s.settleWrite p.loc data).wire }) ?_
    ⟨storedBytes_of_mem hmem (settleWrite_mem ..), by rw [hwire]⟩
  change execPodRequest req s = _
  unfold execPodRequest
  simp only [hop, h.usable, podServe_write h hm hlen]
  rfl

theorem podRequest_refused (hu : s.portUsable req.port = true) (hroot : bitAt (s.die (portDie req.port)).regs.podroot 0 = false) :
    Completes (.podRequest req) s fun t => t.uncounted = { s.uncounted with wire := .podRefused req.port :: s.wire } := by
  have hserve : s.podServe (portDie req.port) req.addr req.size req.op = (s.count (portDie req.port) 0 0 6 1, none) := by
    unfold State.podServe
    simp [hroot]
  refine completes_of (t := { s.count (portDie req.port) 0 0 6 1 with wire := .podRefused req.port :: s.wire }) ?_ ?_
  · change execPodRequest req s = _
    unfold execPodRequest
    simp only [hu, hserve, count_wire]
    rfl
  · have := uncounted_count s (portDie req.port) 0 0 6 1
    exact congrArg (fun u : State => { u with wire := .podRefused req.port :: s.wire }) this

end serves

/-! ### Replies -/

section replies
variable {n id z modl : Nat} {e : DieId} {k : SlotNo} {strand addr x due : Word} {port : Fin 8} {load : Bool} {answer : Option Word} {rest : List Packet} {c : Ctx}

/-- The answer of another module to the first access of its strand to an address. -/
theorem podReply_ends {P : State → Prop} (ha : s.arrive n = some (.pod id e k strand load z modl addr x (some port) due, rest)) (hmod : modl ≠ (s.myMod e).toNat)
    (hfirst : ∀ q ∈ s.net.take n, ∀ i e k st ld z m a y r w, q = .pod i e k st ld z m a y r w → ¬ (st = strand ∧ m = modl ∧ a = addr))
    (h : P (({ s with net := rest } : State).podEnd id e k strand load answer).flushAway) : Completes (.podReply n answer) s P := by
  have hearlier : ((s.net.take n).any fun p => match p with
      | .pod _ _ _ st _ _ m ad _ _ _ => st == strand && m == modl && ad == addr
      | _ => false) = false := by
    rw [List.any_eq_false]
    intro q hq
    split
    next i e k st ld z m ad y r w =>
      have := hfirst _ hq i e k st ld z m ad y r w rfl
      simpa [and_assoc] using this
    next => exact Bool.false_ne_true
  refine completes_of ?_ h
  change execPodReply n answer s = _
  unfold execPodReply
  simp only [ha]
  refine (if_neg (by rw [Bool.not_eq_true]; exact hearlier)).trans ?_
  exact if_neg hmod

/-- What a load of another module's memory is answered. -/
def podAnswer (answer : Option Word) : Answer := match answer with | some v => .value v 0 none | none => .trap cACCESS

theorem podEnd_load (s : State) : s.podEnd id e k strand true answer
    = s.mapCtx e k fun c => if c.sent = some id then { c with sent := none, answer := some (podAnswer answer) } else c := rfl

theorem podReply_load (ha : s.arrive n = some (.pod id e k strand true z modl addr x (some port) due, rest)) (hmod : modl ≠ (s.myMod e).toNat)
    (hfirst : ∀ q ∈ s.net.take n, ∀ i e k st ld z m a y r w, q = .pod i e k st ld z m a y r w → ¬ (st = strand ∧ m = modl ∧ a = addr))
    (hc : s.ctx? e k = some c) (hsent : c.sent = some id) : Completes (.podReply n answer) s fun t => t.net = rest ∧ t.mem = s.mem
      ∧ t.ctx? e k = some { c with sent := none, answer := some (podAnswer answer) } := by
  refine podReply_ends ha hmod hfirst ?_
  rw [podEnd_load]
  refine ⟨(flushAway_net _).trans (mapCtx_net ..), (flushAway_mem _).trans (mapCtx_mem ..), ?_⟩
  rw [flushAway_ctx?]
  exact ctx?_awaited (s := { s with net := rest }) (f := fun c => { c with sent := none, answer := some (podAnswer answer) }) hc hsent
    (fun _ => rfl) (fun _ => rfl)

theorem podReply_store (ha : s.arrive n = some (.pod id e k strand false z modl addr x (some port) due, rest)) (hmod : modl ≠ (s.myMod e).toNat)
    (hfirst : ∀ q ∈ s.net.take n, ∀ i e k st ld z m a y r w, q = .pod i e k st ld z m a y r w → ¬ (st = strand ∧ m = modl ∧ a = addr))
    (hans : answer.isSome = true) (haway : s.away = []) : Completes (.podReply n answer) s fun t => t = { s with net := rest } := by
  obtain ⟨v, rfl⟩ := Option.isSome_iff_exists.1 hans
  exact podReply_ends ha hmod hfirst (flushAway_nil haway)

theorem podReply_refused (ha : s.arrive n = some (.pod id e k strand false z modl addr x (some port) due, rest)) (hmod : modl ≠ (s.myMod e).toNat)
    (hfirst : ∀ q ∈ s.net.take n, ∀ i e k st ld z m a y r w, q = .pod i e k st ld z m a y r w → ¬ (st = strand ∧ m = modl ∧ a = addr))
    (hslot : s.slotOfStrand strand = some c) (hc : s.ctx? c.die c.slot = some c) : Completes (.podReply n none) s fun t => t.net = rest ∧ t.mem = s.mem
      ∧ t.ctx? c.die c.slot = some { c with img := { c.img with flags := c.img.flags ||| flagDL } } := by
  refine podReply_ends ha hmod hfirst ?_
  have hend : ({ s with net := rest } : State).podEnd id e k strand false none = (({ s with net := rest } : State).count e 0 0 6 1).loseData (c.die, c.slot) := by
    have hs : (({ s with net := rest } : State).count e 0 0 6 1).slotOfStrand strand = some c := by
      unfold State.slotOfStrand
      rw [count_busy]
      exact hslot
    change (({ s with net := rest } : State).count e 0 0 6 1).strandLoses strand = _
    unfold State.strandLoses
    rw [hs]
  rw [hend]
  refine ⟨((flushAway_net _).trans (mapCtx_net ..)).trans (count_net ..), ((flushAway_mem _).trans (mapCtx_mem ..)).trans (count_mem ..), ?_⟩
  rw [flushAway_ctx?]
  refine loseData_ctx? (s := ({ s with net := rest } : State).count e 0 0 6 1) ?_
  rw [count_ctx?]
  exact hc

end replies

/-! ### Ports -/

section ports
variable {port other : Fin 8} {mem0 : Member} {gm : GroupMsg}

theorem portUsable_set (h : other ≠ port) (b : Bool) : ({ s with ports := s.ports.set port b } : State).portUsable other = s.portUsable other := by
  have hne : port.val ≠ other.val := fun he => h (Fin.ext he.symm)
  unfold State.portUsable
  dsimp only
  rw [Fin.getElem_fin, Fin.getElem_fin, Vector.getElem_set_ne _ _ hne]
  rfl

theorem mem_ports (p : Fin 8) : p ∈ (upFrom 0 8).map (Fin.ofNat 8) := by revert p; decide

theorem ualinkPortDown_others (hu : s.portUsable other = true) (hne : other ≠ port) (haway : s.away = []) :
    Completes (.ualinkPortDown port) s fun t => t = { s with ports := s.ports.set port false } := by
  refine completes_of (congrArg Host.Outcome.next (if_pos ?_)) (flushAway_nil haway)
  exact List.any_eq_true.2 ⟨other, mem_ports other, (portUsable_set hne false).trans hu⟩

theorem ualinkPortUp_idle (hp : s.present (portDie port).val = true) (haway : s.away = []) :
    Completes (.ualinkPortUp port) s fun t => t = { s with ports := s.ports.set port true } :=
  completes_of (congrArg Host.Outcome.next (if_pos hp)) (flushAway_nil haway)

theorem ualinkPortUp_sends (hp : s.present (portDie port).val = true) (haway : s.away = [(mem0, gm)])
    (hroute : ({ s with ports := s.ports.set port true, away := [] } : State).route mem0.modl.toNat = some other)
    (hfree : ({ s with ports := s.ports.set port true, away := [] } : State).routeHeld mem0.modl.toNat (some other) = false) :
    Completes (.ualinkPortUp port) s fun t => t = { s with ports := s.ports.set port true, away := [], wire := .group other mem0 gm :: s.wire } := by
  refine completes_of (congrArg Host.Outcome.next (if_pos hp)) ?_
  unfold State.flushAway
  dsimp only
  rw [haway, List.foldl_cons, List.foldl_nil]
  exact sendAway_leaves (s := { s with ports := s.ports.set port true, away := [] }) rfl hroute hfree

end ports

end pod

end Sys2Proof.Machine
end

section
/-! SUPPORT. The entry of a group through what happens around it: writes at home, landings, messages, aborts (R220, R448, R450). -/

namespace Sys2Proof.Machine

section groups
variable {s t u : State} {d : DieId} {h : BitVec 8} {g : Group}

/-- The tables of groups are as before. -/
def State.SameGroups (s t : State) : Prop := ∀ d, (t.die d).groups = (s.die d).groups

theorem sameGroups_trans (h : s.SameGroups t) (g : t.SameGroups u) : s.SameGroups u := fun d => (g d).trans (h d)
theorem sameGroups_of_dies (h : t.dies = s.dies) : s.SameGroups t := fun d => by rw [State.die, h]; rfl
theorem sameGroups_of_shell (h : t.shell = s.shell) : s.SameGroups t := fun d => (congrArg Die.groups (die_shell h d) : (t.die d).shell.groups = (s.die d).shell.groups)
theorem sameGroups_mapDie {f : Die → Die} (hf : ∀ x, (f x).groups = x.groups) : s.SameGroups (s.mapDie d f) := fun e => by
  rw [die_mapDie]
  split
  next he => rw [hf, he]
  next => rfl

theorem group?_of_same (hs : s.SameGroups t) (d : DieId) (h : BitVec 8) : t.group? d h = s.group? d h := by
  unfold State.group?
  rw [hs d]

theorem group?_handle (hg : s.group? d h = some g) : g.handle = h := by simpa using List.find?_some hg

theorem wake_groups (s : State) (loc : Nat) (p : Waiter → Bool) : s.SameGroups (s.wake loc p) := by
  unfold State.wake
  dsimp only
  have hdrop : s.SameGroups (s.mapDie (homeOf loc) fun d => { d with waiters := d.waiters.filter fun w => !(w.loc == loc && p w) }) :=
    sameGroups_mapDie (by intro _; rfl)
  exact sameGroups_trans hdrop (sameGroups_of_shell (foldl_keeps State.shell _ (fun t w => shell_wake_step t w loc) _ _))

theorem putBar_groups (s : State) (loc : Nat) (b : Bar) (who : Requester) (done : Bool) : s.SameGroups (s.putBar loc b who done).1 := by
  have hwrite : s.SameGroups (s.performWrite loc (w64 b.word) who).1 := sameGroups_of_shell (performWrite_shell ..)
  unfold State.putBar
  cases done with
  | true => exact sameGroups_trans hwrite (wake_groups _ _ _)
  | false => exact hwrite

/-- A barrier after a landing of some bytes with a status, and whether its phase is over (R190). -/
def Bar.landed (b rl : Bar) (k status : Nat) : Bar × Bool :=
  (if b.bytes < k then { b with bytes := 0, status := max (max b.status status) 1 } else { b with bytes := b.bytes - k, status := max b.status status } : Bar).settle rl

theorem landAt_eq {loc k status : Nat} (hk : k ≠ 0) : s.landAt loc k status
    = (s.putBar loc ((Bar.ofWord (s.rd loc)).landed (Bar.ofWord (s.rd (loc + 8))) k status).1 .none ((Bar.ofWord (s.rd loc)).landed (Bar.ofWord (s.rd (loc + 8))) k status).2).1 :=
  if_neg hk

theorem landAt_groups (s : State) (loc k status : Nat) : s.SameGroups (s.landAt loc k status) := by
  by_cases hk : k = 0
  · rw [State.landAt, if_pos hk]
    exact fun _ => rfl
  · rw [landAt_eq hk]
    exact putBar_groups _ _ _ _ _

theorem putGroup_group? (s : State) (d : DieId) (g : Group) : (s.putGroup d g).group? d g.handle = some g := by
  unfold State.putGroup State.group?
  rw [die_mapDie_self]
  simp

theorem find?_map_keep {l : List Group} {f : Group → Group} (hf : ∀ g, (f g).handle = g.handle) (h : BitVec 8) :
    (l.map f).find? (fun g => g.handle == h) = (l.find? fun g => g.handle == h).map f := by
  rw [List.find?_map]
  congr 1
  exact List.find?_congr fun g _ => by simp [hf]

theorem endColl_group? (s : State) (id : Nat) (d : DieId) (h : BitVec 8) :
    (s.endColl id).group? d h = (s.group? d h).map fun g => { g with ops := g.ops.filter fun o => o.id != id } := by
  have hgroups : ((s.endColl id).die d).groups = (s.die d).groups.map fun g => { g with ops := g.ops.filter fun o => o.id != id } := by
    simp [State.endColl, State.die]
  unfold State.group?
  rw [hgroups]
  exact find?_map_keep (f := fun g => { g with ops := g.ops.filter fun o => o.id != id }) (by intro _; rfl) h

/-- An entry that has ended with a cause. -/
def State.Ended (s : State) (d : DieId) (h cause : BitVec 8) : Prop := ∃ g, s.group? d h = some g ∧ g.state = .aborted ∧ g.cause = cause

variable {cause : BitVec 8}

theorem ended_of_same (hs : s.SameGroups t) (he : s.Ended d h cause) : t.Ended d h cause := by
  obtain ⟨g, hg, hst⟩ := he
  exact ⟨g, (group?_of_same hs d h).trans hg, hst⟩

theorem ended_abortOp (o : CollOp) (he : s.Ended d h cause) : (s.abortOp o).Ended d h cause := by
  unfold State.abortOp
  split
  · exact he
  · obtain ⟨g, hg, hst, hcause⟩ := ended_of_same (landAt_groups s o.barrier o.bytes 2) he
    exact ⟨{ g with ops := g.ops.filter fun x => x.id != o.id }, (endColl_group? ..).trans (by rw [hg]; rfl), hst, hcause⟩

theorem ended_foldl {α : Type} {f : State → α → State} (hf : ∀ s x, State.Ended s d h cause → (f s x).Ended d h cause) (l : List α) (he : s.Ended d h cause) :
    (l.foldl f s).Ended d h cause := by
  induction l generalizing s with
  | nil => exact he
  | cons x l ih => exact ih (hf s x he)

theorem sendAway_dies (s : State) (m : Member) (x : GroupMsg) : (s.sendAway m x).dies = s.dies :=
  (congrArg State.dies (sendAway_inner s m x) : (s.sendAway m x).inner.dies = s.inner.dies)

theorem sendAborts_dies (s : State) (d : DieId) (g : Group) (cause : BitVec 8) : (s.sendAborts d g cause).dies = s.dies := by
  unfold State.sendAborts
  split
  · rfl
  · refine foldl_keeps State.dies _ (fun t m => ?_) _ _
    split
    · rfl
    · exact sendAway_dies ..

/-- A READY group ends with the cause that is applied to it. -/
theorem applyAbort_ended (s : State) (d : DieId) (cause : BitVec 8) (hr : g.state = .ready) : (s.applyAbort d g cause).Ended d g.handle cause := by
  unfold State.applyAbort
  rw [if_neg (by rw [hr]; simp)]
  have hput : (s.putGroup d { g with state := .aborted, cause, early := [] }).Ended d g.handle cause :=
    ⟨_, putGroup_group? s d { g with state := .aborted, cause, early := [] }, rfl, rfl⟩
  exact ended_of_same (sameGroups_of_dies (count_dies ..)) (ended_foldl (fun _ o he => ended_abortOp o he) _ hput)

theorem detectAbort_ended (s : State) (d : DieId) (cause : BitVec 8) (hr : g.state = .ready) : (s.detectAbort d g cause).Ended d g.handle cause := by
  unfold State.detectAbort
  rw [if_neg (by rw [hr]; simp)]
  exact ended_of_same (sameGroups_of_dies (sendAborts_dies ..)) (applyAbort_ended s d cause hr)

/-! ### A landing's status -/

theorem settle_status (b rl : Bar) : (b.settle rl).1.status = b.status := by
  unfold Bar.settle
  split <;> rfl

theorem landed_status (b rl : Bar) (k status : Nat) : status ≤ (b.landed rl k status).1.status ∧ (b.status < 4 → status < 4 → (b.landed rl k status).1.status < 4) := by
  unfold Bar.landed
  rw [settle_status]
  split
  · dsimp only
    omega
  · dsimp only
    omega

/-- A range that reads as some bytes. -/
theorem memBytes_of_get {m : List Host.Cell} {loc : Nat} {bs : List Byte} (h : ∀ i, i < bs.length → memGet m (loc + i) = (bs[i]?).getD 0) :
    memBytes m loc bs.length = bs := by
  refine List.ext_getElem? fun i => ?_
  by_cases hi : i < bs.length
  · rw [memBytes_get _ _ _ _ hi, h i hi, List.getElem?_eq_getElem hi]
    rfl
  · rw [List.getElem?_eq_none (by rw [memBytes_length]; omega), List.getElem?_eq_none (by omega)]

theorem rd_of_get {loc : Nat} {x : Word} (h : ∀ i, i < 8 → memGet s.mem (loc + i) = ((w64 x)[i]?).getD 0) : s.rd loc = x := by
  have hlen : (w64 x).length = 8 := bytesOf_length ..
  have hbytes : memBytes s.mem loc 8 = w64 x := by
    rw [← hlen]
    exact memBytes_of_get (by rwa [hlen])
  unfold State.rd
  rw [hbytes, w64, ofBytes_bytesOf, Nat.mod_eq_of_lt (lt_of_lt_of_eq x.isLt (by norm_num))]
  exact BitVec.ofNat_toNat ..

theorem rd_of_write {loc : Nat} {x : Word} (hm : s.MemOk) (h : t.mem = memWrite s.mem loc (w64 x)) : t.rd loc = x := by
  refine rd_of_get fun i hi => ?_
  have hlen : (w64 x).length = 8 := bytesOf_length ..
  rw [h, memGet_memWrite _ _ _ hm, if_pos (by omega)]
  congr 2
  omega

/-- A landing leaves its status, or a greater one, in the barrier. -/
theorem landAt_status {loc k status : Nat} (hm : s.MemOk) (hk : k ≠ 0) (hst : status < 4) (h : t.mem = (s.landAt loc k status).mem) :
    status ≤ (Bar.ofWord (t.rd loc)).status := by
  rw [landAt_eq hk, putBar_mem] at h
  obtain ⟨hle, hlt⟩ := landed_status (Bar.ofWord (s.rd loc)) (Bar.ofWord (s.rd (loc + 8))) k status
  have hold : (Bar.ofWord (s.rd loc)).status < 4 := by
    rw [ofWord_status]
    omega
  have hnew := hlt hold hst
  rw [rd_of_write hm h, ofWord_status, bar_word_toNat]
  generalize ((Bar.ofWord (s.rd loc)).landed (Bar.ofWord (s.rd (loc + 8))) k status).1 = b at hle hnew ⊢
  have hphase : phaseNat b.phase = 0 ∨ phaseNat b.phase = 2 ^ 63 := by cases b.phase <;> decide
  have := Nat.mod_lt b.arr (show 0 < 2 ^ 21 by decide)
  have := Nat.mod_lt b.bytes (show 0 < 2 ^ 40 by decide)
  omega

end groups

end Sys2Proof.Machine
end

section
/-! SUPPORT. Formations: registrations at rank 0, and what rank 0 answers (R215, R448, R449). -/

namespace Sys2Proof.Machine

section forming
variable {s t : State} {d : DieId} {h : BitVec 8} {g : Group} {f : Forming} {m mem0 mem1 : Member} {x : GroupMsg} {port : Fin 8} {gen : BitVec 32} {gid : Gid}

/-! ### A message of a group that nothing holds back -/

/-- A message to a module would leave by a port now. -/
structure State.Unheld (s : State) (m : Member) (port : Fin 8) : Prop where
  idle : s.away = []
  route : s.route m.modl.toNat = some port
  free : s.routeHeld m.modl.toNat (some port) = false

theorem State.Unheld.sendAway (hl : s.Unheld m port) (x : GroupMsg) : s.sendAway m x = { s with wire := .group port m x :: s.wire } :=
  sendAway_leaves hl.idle hl.route hl.free

/-- Routes depend on the ports and the dies present, and what holds them back on the packets of the pod. -/
theorem State.Unheld.congr (hl : s.Unheld m port) (ha : t.away = s.away) (hp : t.ports = s.ports) (hd : ∀ e, (t.die e).present = (s.die e).present)
    (hn : t.routeHeld m.modl.toNat (some port) = s.routeHeld m.modl.toNat (some port)) : t.Unheld m port := by
  refine ⟨ha.trans hl.idle, ?_, hn.trans hl.free⟩
  rw [← hl.route]
  unfold State.route State.portUsable State.present
  rw [hp]
  simp only [hd]

theorem routeHeld_send (n : Nat) (q : Option (Fin 8)) (d : DieId) (w : Word) (loc : Nat) : (s.send (.wake d w loc)).routeHeld n q = s.routeHeld n q := by
  unfold State.routeHeld
  rw [send_net, List.any_append]
  simp

theorem present_mapDie {f : Die → Die} (hf : ∀ x, (f x).present = x.present) (e : DieId) : ((s.mapDie d f).die e).present = (s.die e).present := by
  rw [die_mapDie]
  split
  next he => rw [hf, he]
  next => rfl

theorem myMod_mapDie {f : Die → Die} (hf : ∀ x, (f x).regs = x.regs) (e : DieId) : (s.mapDie d f).myMod e = s.myMod e := by
  unfold State.myMod
  rw [die_mapDie]
  split
  next he => rw [hf, he]
  next => rfl

/-! ### The end of a formation -/

section formDone
variable {strand : Word} {status : BitVec 8}

/-- A die with the outcome of a formation. -/
def Die.withOutcome (x : Die) (g : Group) (strand : Word) (status : BitVec 8) : Die :=
  { x with groups := (if g.state = .free then [] else [{ g with forming := none, regs := [] }]) ++ x.groups.filter fun o => o.handle != g.handle,
           formed := x.formed ++ [⟨strand, g.handle, status, g.gen⟩] }

theorem formDone_eq : s.formDone d g strand status = (s.mapDie d fun x => x.withOutcome g strand status).send (.wake d strand g.handle.toNat) := rfl

theorem formDone_die : (s.formDone d g strand status).die d = (s.die d).withOutcome g strand status := die_mapDie_self s d fun x => x.withOutcome g strand status

theorem formDone_group? : (s.formDone d g strand status).group? d g.handle = if g.state = .free then none else some { g with forming := none, regs := [] } := by
  unfold State.group?
  rw [formDone_die, Die.withOutcome]
  split
  · simp
  · simp

theorem formDone_formed : (⟨strand, g.handle, status, g.gen⟩ : FormDone) ∈ ((s.formDone d g strand status).die d).formed := by
  rw [formDone_die, Die.withOutcome]
  simp

theorem formDone_present (e : DieId) : ((s.formDone d g strand status).die e).present = (s.die e).present := by
  rw [formDone_eq]
  exact present_mapDie (s := s) (d := d) (f := fun x => x.withOutcome g strand status) (by intro _; rfl) e

theorem State.Unheld.formDone (hl : s.Unheld m port) : (s.formDone d g strand status).Unheld m port :=
  hl.congr rfl rfl formDone_present (routeHeld_send ..)

end formDone

/-- A strand's formation has succeeded: the entry is READY, and its outcome is kept for `gform`. -/
def State.Formed (t : State) (d : DieId) (h : BitVec 8) (f : Forming) (gen : BitVec 32) (gid : Gid) : Prop :=
  (∃ g', t.group? d h = some g' ∧ g'.state = .ready ∧ g'.gen = gen ∧ g'.rank = f.rank ∧ g'.members = f.members ∧ g'.det = f.det ∧ g'.forming = none ∧ g'.gid = some gid
    ∧ g'.seqno = 0 ∧ g'.ops = []) ∧ (⟨f.strand, h, gOK, gen⟩ : FormDone) ∈ (t.die d).formed

theorem formed_of_dies (hd : t.dies = s.dies) (hf : s.Formed d h f gen gid) : t.Formed d h f gen gid := by
  unfold State.Formed State.group? State.die at hf ⊢
  rwa [hd]

/-- The entry of a formation that has succeeded. -/
def Group.readied (g : Group) (f : Forming) (gen : BitVec 32) (gid : Gid) : Group :=
  { g with state := .ready, gen, rank := f.rank, det := f.det, members := f.members, tmo := f.tmo, gid := some gid,
           oldGids := (g.gid.toList.filter fun o => o != gid && !g.oldGids.contains o) ++ g.oldGids, seqno := 0, ops := [], early := [] }

theorem formReady_eq (hf : g.forming = some f) (gen : BitVec 32) (gid : Gid) :
    s.formReady d g gen gid = (s.formDone d (g.readied f gen gid) f.strand gOK).count d 0 0 8 1 := by
  unfold State.formReady
  rw [hf]
  rfl

theorem formReady_formed (hf : g.forming = some f) (gen : BitVec 32) (gid : Gid) : (s.formReady d g gen gid).Formed d g.handle f gen gid := by
  rw [formReady_eq hf]
  refine formed_of_dies (count_dies ..) ⟨⟨_, (formDone_group? (g := g.readied f gen gid)).trans (if_neg ?_), rfl, rfl, rfl, rfl, rfl, rfl, rfl, rfl, rfl⟩, ?_⟩
  · simp [Group.readied]
  · exact formDone_formed (g := g.readied f gen gid)

theorem formReady_net (hf : g.forming = some f) (gen : BitVec 32) (gid : Gid) : (s.formReady d g gen gid).net = s.net ++ [.wake d f.strand g.handle.toNat] := by
  rw [formReady_eq hf, count_net]
  rfl

theorem formReady_wire (hf : g.forming = some f) (gen : BitVec 32) (gid : Gid) : (s.formReady d g gen gid).wire = s.wire := by
  rw [formReady_eq hf, count_wire]
  rfl

theorem count_routeHeld (kind inst ix n a : Nat) (q : Option (Fin 8)) : (s.count d kind inst ix n).routeHeld a q = s.routeHeld a q := by
  unfold State.routeHeld
  rw [count_net]

theorem State.Unheld.formReady (hl : s.Unheld m port) (hf : g.forming = some f) : (s.formReady d g gen gid).Unheld m port := by
  rw [formReady_eq hf]
  exact hl.formDone.congr (count_away ..) (count_ports ..) (fun e => by rw [count_die]) (count_routeHeld ..)

theorem formFail_eq (hf : g.forming = some f) (status : BitVec 8) : s.formFail d g status = s.formDone d { g with state := g.prior } f.strand status := by
  unfold State.formFail
  rw [hf]

/-! ### A registration from another module (R449) -/

section registration
variable {reg r0 : GroupReg} {x0 : Option (DieId × BitVec 8)}

/-- A refusal told. -/
def State.unrefused (s : State) (d : DieId) (h : BitVec 8) : State := s.mapDie d fun x => { x with refused := x.refused.erase (h, 1) }

theorem unrefused_refused (s : State) (d : DieId) (h : BitVec 8) : ((s.unrefused d h).die d).refused = (s.die d).refused.erase (h, 1) :=
  congrArg Die.refused (die_mapDie_self s d fun x => { x with refused := x.refused.erase (h, 1) })

theorem State.Unheld.unrefused (hl : s.Unheld m port) (d : DieId) (h : BitVec 8) : (s.unrefused d h).Unheld m port :=
  hl.congr rfl rfl (present_mapDie (by intro _; rfl)) rfl

theorem unrefused_gidOf (s : State) (d : DieId) (h : BitVec 8) : (s.unrefused d h).gidOf d h = s.gidOf d h := by
  unfold State.gidOf State.unrefused
  rw [myMod_mapDie (by intro _; rfl)]

theorem registration_refused (hrank : reg.rank = 1) (hmem : reg.members = [mem0, mem1]) (hhere : s.here reg.die mem1 = false)
    (href : (s.die reg.die).refused.contains (reg.handle, 1) = true) (hl : s.Unheld mem1 port) : Completes (.groupRegistration reg) s fun t =>
      t.wire = .group port mem1 (.mismatch (s.gidOf reg.die reg.handle)) :: s.wire ∧ (t.die reg.die).refused = (s.die reg.die).refused.erase (reg.handle, 1) ∧ t.mem = s.mem := by
  have hsender : reg.members[reg.rank]? = some mem1 := by rw [hmem, hrank]; rfl
  have hx : exec (.groupRegistration reg) s = .next ((s.unrefused reg.die reg.handle).sendAway mem1 (.mismatch ((s.unrefused reg.die reg.handle).gidOf reg.die reg.handle))) := by
    rw [hrank] at hsender
    change execGroupRegistration reg s = _
    unfold execGroupRegistration
    simp only [hrank, hsender, hhere, Bool.false_eq_true, if_false, href, if_true, State.tellMismatch]
    rfl
  rw [(hl.unrefused reg.die reg.handle).sendAway, unrefused_gidOf] at hx
  exact completes_of hx ⟨rfl, unrefused_refused s reg.die reg.handle, rfl⟩

/-- An entry with a registration of rank 1 from another module. -/
def Group.withReg (g : Group) (reg : GroupReg) : Group := { g with regs := (reg, none) :: g.regs.filter fun q => q.1.rank != 1 }

/-- A registration of the first formation of a list reaches the entry of its rank 0. -/
theorem exec_registration (hrank : reg.rank = 1) (hmem : reg.members = [mem0, mem1]) (hhere : s.here reg.die mem1 = false)
    (href : (s.die reg.die).refused.contains (reg.handle, 1) = false) (hg : s.group? reg.die reg.handle = some g) (hre : reg.reform = false) :
    exec (.groupRegistration reg) s = .next (match g.forming with
      | some f => if f.rank = 0 then (s.putGroup reg.die (g.withReg reg)).collect reg.die (g.withReg reg) f else s.putGroup reg.die (g.withReg reg)
      | none => s.putGroup reg.die (g.withReg reg)) := by
  have hsender : reg.members[reg.rank]? = some mem1 := by rw [hmem, hrank]; rfl
  rw [hrank] at hsender
  change execGroupRegistration reg s = _
  unfold execGroupRegistration
  simp only [hrank, hsender, hhere, Bool.false_eq_true, if_false, href, hre, hg]
  unfold Group.withReg
  cases g.forming <;> rfl

theorem registration_waits (hrank : reg.rank = 1) (hmem : reg.members = [mem0, mem1]) (hhere : s.here reg.die mem1 = false)
    (href : (s.die reg.die).refused.contains (reg.handle, 1) = false) (hg : s.group? reg.die reg.handle = some g) (hre : reg.reform = false) (hf : g.forming = none) :
    Completes (.groupRegistration reg) s fun t => t.group? reg.die reg.handle = some (g.withReg reg) ∧ t.mem = s.mem := by
  have hx := exec_registration hrank hmem hhere href hg hre
  rw [hf] at hx
  refine completes_of hx ⟨?_, rfl⟩
  rw [← group?_handle hg]
  exact putGroup_group? s reg.die (g.withReg reg)

/-- The two registrations of a group of two at its rank 0. -/
theorem withReg_regs (hregs : g.regs = [(r0, x0)]) (hr0 : r0.rank = 0) : (g.withReg reg).regs = [(reg, none), (r0, x0)] := by
  unfold Group.withReg
  simp [hregs, hr0]

theorem State.Unheld.putGroup (hl : s.Unheld m port) (d : DieId) (g : Group) : (s.putGroup d g).Unheld m port :=
  hl.congr rfl rfl (present_mapDie (by intro _; rfl)) rfl

theorem registration_confirms (hrank : reg.rank = 1) (hmem : reg.members = [mem0, mem1]) (hhere : s.here reg.die mem1 = false)
    (href : (s.die reg.die).refused.contains (reg.handle, 1) = false) (hg : s.group? reg.die reg.handle = some g) (hre : reg.reform = false) (hf : g.forming = some f)
    (hzero : f.rank = 0) (hms : f.members = reg.members) (hdet : f.det = reg.det) (hfre : f.reform = false) (hregs : g.regs = [(r0, x0)]) (hr0 : r0.rank = 0)
    (hms0 : r0.members = reg.members) (hdet0 : r0.det = reg.det) (hre0 : r0.reform = false) (hl : s.Unheld mem1 port) : Completes (.groupRegistration reg) s fun t =>
      t.Formed reg.die reg.handle f 1 (s.gidOf reg.die reg.handle) ∧ .wake reg.die f.strand g.handle.toNat ∈ t.net
      ∧ t.wire = .group port mem1 (.confirm (s.gidOf reg.die reg.handle) 1) :: s.wire := by
  have hhandle := group?_handle hg
  have hx := exec_registration hrank hmem hhere href hg hre
  rw [hf] at hx
  simp only [hzero, if_true] at hx
  have hrs := withReg_regs (reg := reg) hregs hr0
  have hgid : (s.putGroup reg.die (g.withReg reg)).gidOf reg.die reg.handle = s.gidOf reg.die reg.handle := by
    unfold State.gidOf State.putGroup
    rw [myMod_mapDie (by intro _; rfl)]
  have hf' : (g.withReg reg).forming = some f := hf
  have hl' := ((hl.putGroup reg.die (g.withReg reg)).formReady (d := reg.die) (gen := 1) (gid := s.gidOf reg.die reg.handle) hf').sendAway (.confirm (s.gidOf reg.die reg.handle) 1)
  have hcollect : (s.putGroup reg.die (g.withReg reg)).collect reg.die (g.withReg reg) f
      = ((s.putGroup reg.die (g.withReg reg)).formReady reg.die (g.withReg reg) 1 (s.gidOf reg.die reg.handle)).sendAway mem1 (.confirm (s.gidOf reg.die reg.handle) 1) := by
    have hh : (g.withReg reg).handle = reg.handle := hhandle
    unfold State.collect
    rw [hrs, hh, hgid]
    simp [hms, hdet, hfre, hms0, hdet0, hre0, hre, hrank, hr0, hmem, upFrom]
  rw [hcollect, hl'] at hx
  refine completes_of hx ⟨?_, ?_, ?_⟩
  · rw [← hhandle]
    exact formed_of_dies rfl (formReady_formed hf' 1 _)
  · have hn := formReady_net (s := s.putGroup reg.die (g.withReg reg)) (d := reg.die) hf' 1 (s.gidOf reg.die reg.handle)
    dsimp only
    rw [hn]
    exact List.mem_append_right _ (List.mem_singleton.2 rfl)
  · dsimp only
    rw [formReady_wire hf']
    rfl

end registration

end forming

end Sys2Proof.Machine
end

section
/-! SUPPORT. Events of groups: formations refused and confirmed, collective packets, aborts, timeouts (R215, R218, R220, R447 to R450). -/

namespace Sys2Proof.Machine

section events
variable {s t : State} {d : DieId} {h : BitVec 8} {g : Group} {f : Forming} {m mem0 mem1 : Member} {port : Fin 8} {gen : BitVec 32} {gid : Gid}

/-! ### A formation is refused (R449) -/

/-- A die that holds refusals for the ranks of an entry that have not registered. -/
def Die.refuses (x : Die) (h : BitVec 8) (missing : List Nat) : Die := { x with refused := x.refused ++ missing.map fun k => (h, k) }

/-- Ranks that have not registered. -/
def unregistered (n : Nat) (regs : List (GroupReg × Option (DieId × BitVec 8))) : List Nat := (upFrom 0 n).filter fun k => !regs.any fun r => r.1.rank == k

/-- A formation of rank 0 that fails, before the members are told. -/
def State.failed (s : State) (d : DieId) (g : Group) (f : Forming) : State :=
  (s.formDone d { g with state := g.prior } f.strand gMISMATCH).mapDie d fun x => x.refuses g.handle (unregistered f.members.length g.regs)

theorem mismatch_eq (hf : g.forming = some f) : s.mismatch d g g.regs = g.regs.foldl (fun s r => s.tellMismatch d g.handle r) (s.failed d g f) := by
  unfold State.mismatch
  rw [formFail_eq hf, hf]
  rfl

theorem failed_die : (s.failed d g f).die d = ((s.die d).withOutcome { g with state := g.prior } f.strand gMISMATCH).refuses g.handle (unregistered f.members.length g.regs) := by
  unfold State.failed
  rw [die_mapDie_self, formDone_die]

theorem State.Unheld.failed (hl : s.Unheld m port) : (s.failed d g f).Unheld m port :=
  hl.formDone.congr rfl rfl (present_mapDie (by intro _; rfl)) rfl

theorem failed_gidOf : (s.failed d g f).gidOf d h = s.gidOf d h := by
  unfold State.gidOf State.myMod
  rw [failed_die]
  rfl

/-- Rank 0 is not told of its own refusal. -/
theorem tellMismatch_self (s : State) (d : DieId) (h : BitVec 8) (r : GroupReg) : s.tellMismatch d h (r, some (d, h)) = s := by
  unfold State.tellMismatch
  cases hg : s.group? d h with
  | none => simp [hg]
  | some o => simp [hg]

theorem tellMismatch_away {reg : GroupReg} (hm : reg.members[reg.rank]? = some m) (hl : s.Unheld m port) :
    s.tellMismatch d h (reg, none) = { s with wire := .group port m (.mismatch (s.gidOf d h)) :: s.wire } := by
  unfold State.tellMismatch
  simp only [hm]
  exact hl.sendAway _

section registration
variable {reg r0 : GroupReg}

theorem registration_mismatches (hrank : reg.rank = 1) (hmem : reg.members = [mem0, mem1]) (hhere : s.here reg.die mem1 = false)
    (href : (s.die reg.die).refused.contains (reg.handle, 1) = false) (hg : s.group? reg.die reg.handle = some g) (hre : reg.reform = false) (hf : g.forming = some f)
    (hzero : f.rank = 0) (hbad : f.members ≠ reg.members ∨ f.det ≠ reg.det) (hregs : g.regs = [(r0, some (reg.die, reg.handle))]) (hr0 : r0.rank = 0)
    (hl : s.Unheld mem1 port) : Completes (.groupRegistration reg) s fun t =>
      (⟨f.strand, g.handle, gMISMATCH, g.gen⟩ : FormDone) ∈ (t.die reg.die).formed ∧ .wake reg.die f.strand g.handle.toNat ∈ t.net
      ∧ t.wire = .group port mem1 (.mismatch (s.gidOf reg.die reg.handle)) :: s.wire ∧ t.mem = s.mem
      ∧ ∀ k, 1 < k → k < f.members.length → (reg.handle, k) ∈ (t.die reg.die).refused := by
  have hhandle := group?_handle hg
  have hx := exec_registration hrank hmem hhere href hg hre
  rw [hf] at hx
  simp only [hzero, if_true] at hx
  have hrs := withReg_regs (reg := reg) hregs hr0
  have hh : (g.withReg reg).handle = reg.handle := hhandle
  have hf' : (g.withReg reg).forming = some f := hf
  have hdiffers : (reg.members != f.members || reg.det != f.det) = true := by
    rcases hbad with hb | hb
    · simp [Ne.symm hb]
    · simp [Ne.symm hb]
  have hcollect : (s.putGroup reg.die (g.withReg reg)).collect reg.die (g.withReg reg) f
      = (s.putGroup reg.die (g.withReg reg)).mismatch reg.die (g.withReg reg) (g.withReg reg).regs := by
    unfold State.collect
    exact if_pos (List.any_eq_true.2 ⟨(reg, none), by rw [hrs]; exact List.mem_cons_self, by rw [Bool.or_eq_true]; exact .inl hdiffers⟩)
  have hsender : reg.members[reg.rank]? = some mem1 := by rw [hmem, hrank]; rfl
  have hgid : ((s.putGroup reg.die (g.withReg reg)).failed reg.die (g.withReg reg) f).gidOf reg.die reg.handle = s.gidOf reg.die reg.handle := by
    rw [failed_gidOf]
    unfold State.gidOf State.putGroup
    rw [myMod_mapDie (by intro _; rfl)]
  rw [hcollect, mismatch_eq hf', hrs, hh, List.foldl_cons, List.foldl_cons, List.foldl_nil,
    tellMismatch_away hsender (hl.putGroup reg.die (g.withReg reg)).failed, tellMismatch_self, hgid] at hx
  have hdie := failed_die (s := s.putGroup reg.die (g.withReg reg)) (d := reg.die) (g := g.withReg reg) (f := f)
  refine completes_of hx ⟨?_, ?_, rfl, rfl, fun k h1 hk => ?_⟩
  · change _ ∈ (((s.putGroup reg.die (g.withReg reg)).failed reg.die (g.withReg reg) f).die reg.die).formed
    rw [hdie]
    exact List.mem_append_right _ (List.mem_singleton.2 rfl)
  · exact List.mem_append_right _ (List.mem_singleton.2 rfl)
  · change _ ∈ (((s.putGroup reg.die (g.withReg reg)).failed reg.die (g.withReg reg) f).die reg.die).refused
    rw [hdie, hh, hrs]
    refine List.mem_append_right _ (List.mem_map.2 ⟨k, List.mem_filter.2 ⟨?_, ?_⟩, rfl⟩)
    · rw [upFrom_eq_range', List.mem_range'_1]
      omega
    · simp only [List.any_cons, List.any_nil, hrank, hr0]
      simp
      omega

end registration

/-! ### What rank 0 of another module answers (R448, R449) -/

section confirm
variable {zero : BitVec 8}

theorem exec_confirm (hg : s.group? d h = some g) (hf : g.forming = some f) (hm : f.members.head? = some mem0) (hr : f.rank ≠ 0) (hhere : s.here d mem0 = false) (ok : Bool) :
    exec (.groupConfirm d ⟨h, gen, zero⟩ ok) s = .next (if ok then s.formReady d g gen ⟨mem0.modl, mem0.die, zero⟩ else s.formFail d g gMISMATCH) := by
  obtain ⟨rest, hms⟩ := List.head?_eq_some_iff.1 hm
  change execGroupConfirm d ⟨h, gen, zero⟩ ok s = _
  unfold execGroupConfirm
  simp only [hg, hf, hms, if_neg hr, hhere, Bool.false_eq_true, if_false]

theorem confirm_forms (hg : s.group? d h = some g) (hf : g.forming = some f) (hm : f.members.head? = some mem0) (hr : f.rank ≠ 0) (hhere : s.here d mem0 = false) :
    Completes (.groupConfirm d ⟨h, gen, zero⟩ true) s fun t =>
      t.Formed d h f gen ⟨mem0.modl, mem0.die, zero⟩ ∧ .wake d f.strand g.handle.toNat ∈ t.net ∧ t.mem = s.mem := by
  refine completes_of (exec_confirm hg hf hm hr hhere true) ⟨?_, ?_, formReady_mem ..⟩
  · rw [← group?_handle hg]
    exact formReady_formed hf ..
  · rw [if_pos rfl, formReady_net hf]
    exact List.mem_append_right _ (List.mem_singleton.2 rfl)

theorem confirm_refuses (hg : s.group? d h = some g) (hf : g.forming = some f) (hm : f.members.head? = some mem0) (hr : f.rank ≠ 0) (hhere : s.here d mem0 = false) :
    Completes (.groupConfirm d ⟨h, gen, zero⟩ false) s fun t =>
      t.group? d h = (if g.prior = .free then none else some { g with state := g.prior, forming := none, regs := [] })
      ∧ (⟨f.strand, g.handle, gMISMATCH, g.gen⟩ : FormDone) ∈ (t.die d).formed ∧ t.mem = s.mem := by
  have hx := exec_confirm (gen := gen) (zero := zero) hg hf hm hr hhere false
  rw [if_neg (by decide), formFail_eq hf] at hx
  refine completes_of hx ⟨?_, formDone_formed (g := { g with state := g.prior }), rfl⟩
  rw [← group?_handle hg]
  exact formDone_group? (g := { g with state := g.prior })

end confirm

/-! ### A message of a GID reaches the entry that holds it (R447, R450) -/

theorem entryOf_holds (he : s.entryOf d gid = some g) : g ∈ (s.die d).groups ∧ (g.gid = some gid ∨ gid ∈ g.oldGids) := by
  refine ⟨List.mem_of_find?_eq_some he, ?_⟩
  have := List.find?_some he
  simpa using this

section packet
variable {pkt : CollPkt} {o : CollOp}

theorem exec_packet (he : s.entryOf pkt.die pkt.gid = some g) (hm : g.members[pkt.rank]? = some mem0) (hhere : s.here pkt.die mem0 = false) :
    exec (.collectivePacket pkt) s = .next (s.forMember s pkt.die pkt.gid pkt.gen (fun _ => s.count pkt.die 0 0 10 1) fun g =>
      if g.state ≠ .ready then s else s.takePart pkt.die g pkt) := by
  have habroad : ((s.entryOf pkt.die pkt.gid).any fun g => (g.members[pkt.rank]?).any fun m => !s.here pkt.die m) = true := by
    simp [he, hm, hhere]
  change execCollectivePacket pkt s = _
  unfold execCollectivePacket
  simp only [habroad, if_true]

theorem packet_old (he : s.entryOf pkt.die pkt.gid = some g) (hm : g.members[pkt.rank]? = some mem0) (hhere : s.here pkt.die mem0 = false) (hgen : pkt.gen.toNat < g.gen.toNat) :
    Completes (.collectivePacket pkt) s fun t => t.uncounted = s.uncounted := by
  refine completes_of (exec_packet he hm hhere) ?_
  unfold State.forMember
  rw [he]
  simp only [hgen, if_true]
  exact uncounted_count ..

/-- A packet of the current generation of a READY group. -/
theorem exec_packet_now (he : s.entryOf pkt.die pkt.gid = some g) (hm : g.members[pkt.rank]? = some mem0) (hhere : s.here pkt.die mem0 = false) (hgen : pkt.gen = g.gen)
    (hgid : g.gid = some pkt.gid) (hr : g.state = .ready) : exec (.collectivePacket pkt) s = .next (s.takePart pkt.die g pkt) := by
  rw [exec_packet he hm hhere]
  unfold State.forMember
  rw [he]
  simp [hgen, hgid, hr]

theorem packet_early (he : s.entryOf pkt.die pkt.gid = some g) (hm : g.members[pkt.rank]? = some mem0) (hhere : s.here pkt.die mem0 = false) (hgen : pkt.gen = g.gen)
    (hgid : g.gid = some pkt.gid) (hr : g.state = .ready) (hno : ∀ o ∈ g.ops, o.seqno ≠ pkt.seqno) (hseq : g.seqno ≤ pkt.seqno) :
    Completes (.collectivePacket pkt) s fun t => t.group? pkt.die g.handle = some { g with early := g.early ++ [pkt] } ∧ t.mem = s.mem := by
  have hfind : g.ops.find? (fun o => o.seqno == pkt.seqno) = none := List.find?_eq_none.2 fun o ho => by simpa using hno o ho
  refine completes_of (t := s.putGroup pkt.die { g with early := g.early ++ [pkt] }) ?_ ⟨putGroup_group? s pkt.die { g with early := g.early ++ [pkt] }, rfl⟩
  rw [exec_packet_now he hm hhere hgen hgid hr]
  unfold State.takePart
  rw [hfind]
  exact congrArg Host.Outcome.next (if_pos hseq)

/-- A contribution that does not yet make a pending collective whole. -/
theorem packet_part (he : s.entryOf pkt.die pkt.gid = some g) (hm : g.members[pkt.rank]? = some mem0) (hhere : s.here pkt.die mem0 = false) (hgen : pkt.gen = g.gen)
    (hgid : g.gid = some pkt.gid) (hr : g.state = .ready) (hops : g.ops = [o]) (hseq : o.seqno = pkt.seqno) (hfields : o.fields = pkt.fields)
    (hnew : ∀ q ∈ o.parts, q.1 ≠ pkt.rank)
    (hwhole : ({ o with parts := o.parts ++ [(pkt.rank, pkt.data)] } : CollOp).whole (CollRec.ofFields o.fields) g.members.length = false) :
    Completes (.collectivePacket pkt) s fun t => t.group? pkt.die g.handle = some { g with ops := [{ o with parts := o.parts ++ [(pkt.rank, pkt.data)] }] } ∧ t.mem = s.mem := by
  have hfind : g.ops.find? (fun o => o.seqno == pkt.seqno) = some o := by simp [hops, hseq]
  have hfirst : (o.parts.any fun q => q.1 == pkt.rank) = false := List.any_eq_false.2 fun q hq => by simpa using hnew q hq
  refine completes_of (t := s.putGroup pkt.die { g with ops := [{ o with parts := o.parts ++ [(pkt.rank, pkt.data)] }] }) ?_
    ⟨putGroup_group? s pkt.die { g with ops := [{ o with parts := o.parts ++ [(pkt.rank, pkt.data)] }] }, rfl⟩
  rw [exec_packet_now he hm hhere hgen hgid hr]
  unfold State.takePart
  rw [hfind]
  simp only [hfields, hfirst, ne_eq, not_true_eq_false, Bool.false_eq_true, if_false, hops, List.map_cons, List.map_nil, if_true]
  unfold State.finishColl
  rw [hfields] at hwhole
  simp only [hwhole, Bool.not_false, Bool.or_true, if_true]

theorem packet_differs (he : s.entryOf pkt.die pkt.gid = some g) (hm : g.members[pkt.rank]? = some mem0) (hhere : s.here pkt.die mem0 = false) (hgen : pkt.gen = g.gen)
    (hgid : g.gid = some pkt.gid) (hr : g.state = .ready) (hops : g.ops = [o]) (hseq : o.seqno = pkt.seqno) (hfields : o.fields ≠ pkt.fields) :
    Completes (.collectivePacket pkt) s fun t => t.Ended pkt.die g.handle gMISMATCH := by
  have hfind : g.ops.find? (fun o => o.seqno == pkt.seqno) = some o := by simp [hops, hseq]
  refine completes_of (t := s.detectAbort pkt.die g gMISMATCH) ?_ (detectAbort_ended s pkt.die gMISMATCH hr)
  rw [exec_packet_now he hm hhere hgen hgid hr]
  unfold State.takePart
  rw [hfind]
  exact congrArg Host.Outcome.next (if_pos hfields)

end packet

/-! ### Aborts and timeouts -/

theorem exec_abort (he : s.entryOf d gid = some g) (hnet : ∀ p ∈ s.net, p.isAbort d gid gen = false) (ha : s.abroad d g.members = true) :
    exec (.abort d gid gen) s = .next (s.forMember s d gid gen (fun _ => s.count d 0 0 10 1) fun g => s.applyAbort d g gREMOTE) := by
  have hnone : s.takePacket (Packet.isAbort d gid gen) = none := by
    have hix : s.net.findIdx? (Packet.isAbort d gid gen) = none := List.findIdx?_eq_none_iff.2 hnet
    unfold State.takePacket State.arriveAt
    rw [hix]
    rfl
  have hany : s.net.any (Packet.isAbort d gid gen) = false := List.any_eq_false.2 fun p hp => by simp [hnet p hp]
  change execAbort d gid gen s = _
  unfold execAbort
  simp [hnone, hany, he, ha]

theorem abort_now (he : s.entryOf d gid = some g) (hnet : ∀ p ∈ s.net, p.isAbort d gid gen = false) (ha : s.abroad d g.members = true) (hgen : gen = g.gen)
    (hgid : g.gid = some gid) (hr : g.state = .ready) : Completes (.abort d gid gen) s fun t => t.Ended d g.handle gREMOTE := by
  refine completes_of (exec_abort he hnet ha) ?_
  unfold State.forMember
  rw [he]
  simp only [hgen, lt_irrefl, if_false, hgid, BEq.rfl, decide_true, Bool.and_self, if_true]
  exact applyAbort_ended s d gREMOTE hr

theorem abort_old (he : s.entryOf d gid = some g) (hnet : ∀ p ∈ s.net, p.isAbort d gid gen = false) (ha : s.abroad d g.members = true) (hgen : gen.toNat < g.gen.toNat) :
    Completes (.abort d gid gen) s fun t => t.uncounted = s.uncounted := by
  refine completes_of (exec_abort he hnet ha) ?_
  unfold State.forMember
  rw [he]
  simp only [hgen, if_true]
  exact uncounted_count ..

theorem memberLost_aborts (hg : s.group? d h = some g) (hr : g.state = .ready) (hgone : s.memberGone d g = true) : Completes (.memberLost d h) s fun t => t.Ended d h gLOST := by
  refine completes_of (t := s.detectAbort d g gLOST) ?_ (by rw [← group?_handle hg]; exact detectAbort_ended s d gLOST hr)
  change execMemberLost d h s = _
  unfold execMemberLost
  simp [hg, hgone]

theorem groupTimeout_aborts {o : CollOp} (hg : s.group? d h = some g) (hr : g.state = .ready) (hops : g.ops = [o]) (hlate : o.since + g.tmo ≤ s.tick) :
    Completes (.groupTimeout d h) s fun t => t.Ended d h gTIMEOUT ∧ (o.written = false → 0 < o.bytes → s.MemOk → 2 ≤ (Bar.ofWord (t.rd o.barrier)).status) := by
  refine completes_of (t := s.detectAbort d g gTIMEOUT) ?_ ⟨by rw [← group?_handle hg]; exact detectAbort_ended s d gTIMEOUT hr, fun hw hb hm => ?_⟩
  · change execGroupTimeout d h s = _
    unfold execGroupTimeout
    simp [hg, hops, hlate]
  · refine landAt_status (s := s.putGroup d { g with state := .aborted, cause := gTIMEOUT, early := [] }) hm (Nat.ne_of_gt hb) (by decide) ?_
    have hne : ¬ g.state ≠ .ready := by simp [hr]
    rw [State.detectAbort, if_neg hne, sendAborts_mem, State.applyAbort, if_neg hne, count_mem, hops, List.foldl_cons, List.foldl_nil, State.abortOp, hw]
    rfl

section ports
variable {u : State}

theorem sendAborts_ports (s : State) (d : DieId) (g : Group) (cause : BitVec 8) : (s.sendAborts d g cause).ports = s.ports := by
  unfold State.sendAborts
  split
  · rfl
  · refine foldl_keeps State.ports _ (fun t m => ?_) _ _
    split
    · rfl
    · exact (congrArg State.ports (sendAway_inner ..) : (State.inner _).ports = (State.inner _).ports)

/-- A READY group without pending collectives ends: its entry is all that changes in the dies. -/
theorem detectAbort_idle (s : State) (d : DieId) (cause : BitVec 8) (hr : g.state = .ready) (hops : g.ops = []) :
    (s.detectAbort d g cause).dies = (s.putGroup d { g with state := .aborted, cause, early := [] }).dies ∧ (s.detectAbort d g cause).ports = s.ports := by
  have hne : ¬ g.state ≠ .ready := by simp [hr]
  rw [State.detectAbort, if_neg hne, sendAborts_dies, sendAborts_ports, State.applyAbort, if_neg hne]
  dsimp only
  rw [hops, List.foldl_nil, count_dies, count_ports]
  exact ⟨rfl, rfl⟩

/-- The groups of a die end. -/
def State.loseGroups (s : State) (d : DieId) : State := (s.die d).groups.foldl (fun s g => s.detectAbort d g gLOST) s

theorem loseGroups_none (l : List DieId) (hu : ∀ e ∈ l, (u.die e).groups = []) : l.foldl State.loseGroups u = u := by
  induction l with
  | nil => rfl
  | cons e l ih =>
    have hone : u.loseGroups e = u := by unfold State.loseGroups; rw [hu e List.mem_cons_self]; rfl
    rw [List.foldl_cons, hone]
    exact ih fun x hx => hu x (List.mem_cons_of_mem _ hx)

/-- Where one group is all that the module has, only that one ends. -/
theorem loseGroups_one (hall : ∀ e, (u.die e).groups = if e = d then [g] else []) (hr : g.state = .ready) (hops : g.ops = []) :
    allDies.foldl State.loseGroups u = u.detectAbort d g gLOST := by
  obtain ⟨before, after, hsplit⟩ := List.append_of_mem (mem_allDies d)
  have hnodup : allDies.Nodup := by decide
  rw [hsplit] at hnodup ⊢
  have hout : d ∉ before ++ after := (List.nodup_cons.1 (List.nodup_middle.1 hnodup)).1
  have hone : u.loseGroups d = u.detectAbort d g gLOST := by unfold State.loseGroups; rw [hall, if_pos rfl]; rfl
  rw [List.foldl_append, List.foldl_cons, loseGroups_none before, hone, loseGroups_none after]
  · intro e he
    have hed : e ≠ d := fun h => hout (List.mem_append_right _ (h ▸ he))
    rw [State.die, (detectAbort_idle u d gLOST hr hops).1]
    refine (congrArg Die.groups ((die_mapDie u d e _).trans (if_neg hed))).trans ?_
    rw [hall, if_neg hed]
  · intro e he
    have hed : e ≠ d := fun h => hout (List.mem_append_left _ (h ▸ he))
    rw [hall, if_neg hed]

/-- The last port goes down: the one group of the module ends (R444). -/
theorem ualinkPortDown_last (hp : ∀ r, r ≠ port → s.portUsable r = false) (hg : s.group? d h = some g) (hr : g.state = .ready) (hops : g.ops = [])
    (hall : ∀ e, (s.die e).groups = if e = d then [g] else []) : Completes (.ualinkPortDown port) s fun t => t.ports = s.ports.set port false ∧ t.Ended d h gLOST := by
  have hnone : (((upFrom 0 8).map (Fin.ofNat 8)).any fun q => ({ s with ports := s.ports.set port false } : State).portUsable q) = false := by
    refine List.any_eq_false.2 fun q _ => ?_
    rw [Bool.not_eq_true]
    by_cases hq : q = port
    · subst hq
      simp [State.portUsable]
    · exact (portUsable_set hq false).trans (hp q hq)
  have hlose := loseGroups_one (u := { s with ports := s.ports.set port false }) hall hr hops
  refine completes_of (t := allDies.foldl State.loseGroups { s with ports := s.ports.set port false }) ?_ ?_
  · exact congrArg Host.Outcome.next (if_neg (by rw [hnone]; decide))
  · rw [hlose, ← group?_handle hg]
    exact ⟨(detectAbort_idle _ d gLOST hr hops).2, detectAbort_ended _ d gLOST hr⟩

end ports

end events

end Sys2Proof.Machine
end

section
/-! SUPPORT. The events of the network, the pod and groups. -/

namespace Sys2Proof.Machine

/-- Settles O54: each clause is the lemma about its event, in the order of the statement: connections, addresses, links, timeouts, pod, groups. -/
theorem networkAndGroupEvents : Obligations.NetworkAndGroupEvents := by
  unfold Obligations.NetworkAndGroupEvents
  intro n id line modl z d e k h gen dir port other prt service addr x strand due ip ip6 good load hint ep op o g f reg r0 x0 mem0 mem1 pkt req data answer st p q c s
    cn rest ptp gid zero gm v u
  refine ⟨fun he ho hc => cmReq_rep he ho hc, fun he => cmReq_rej_unknown he, fun he hc => cmReq_rej_closed he hc, fun hc hu => cmRtu_stands hc hu, fun hc hu => cmDreq_closes hc hu,
    connectionBroken_closes, ⟨s, rfl, rfl⟩, ?_⟩
  refine ⟨fun hn hip => arpRequest_answers hn hip, fun hip => arpRequest_silent hip, fun hn hip => neighbourSolicitation_answers hn hip, fun hn hv => dhcpRenewal_asks hn hv,
    fun hn hv hip => dhcpMessage_keeps hn hv hip, fun hn hv hip => routerAdvertisement_keeps hn hv hip, ⟨rfl, rfl⟩, fun hon => ptpDelayRequest_sends hon,
    fun hon hp => ptpMessage_steers hon hp, fun hoff => ptpMessage_ignored hoff, ?_⟩
  refine ⟨fun hu => flitReplay_counts hu, fun hu hr => linkDown_downs hu hr, fun hu hp hd hn => linkUp_ups hu hp hd hn, ?_⟩
  refine ⟨rfl, fun ht ho hage => fabricTimeout_early ht ho hage, fun ht hage hc hsent => readTimeout_loses ht hage hc.1 hsent,
    fun ht hage hop hc hsent => requestTimeout_answers ht hage hop hc.1 hsent, fun ht hage hq hc hw => storeTimeout_drops ht hage hq hc.1 hw,
    fun ht hage hdue hc => cackTimeout_clears ht hage hdue hc.1, fun ht hage => stripTimeout_lands ht hage, fun ht hage hc hsent => podTimeout_answers ht hage hc.1 hsent, ?_⟩
  refine ⟨fun hu hne haway => ualinkPortDown_others hu hne haway, fun hp hready hops hall => ualinkPortDown_last hp hready.1 hready.2 hops hall,
    fun hp haway => ualinkPortUp_idle hp haway, fun hp haway hl => ualinkPortUp_sends hp haway hl.2.1 hl.2.2, ?_⟩
  refine ⟨fun hop hok hm => ?_, fun hop hlen hok hm hmem => ?_, fun hu hroot => podRequest_refused hu hroot, ?_⟩
  · obtain ⟨hu, hen, hglobal, hsize, hal, hplace, hplain⟩ := hok
    exact podRequest_read hop ⟨hu, hen, hglobal, hsize, hal, hplace, hplain⟩ hm
  · obtain ⟨hu, hen, hglobal, hsize, hal, hplace, hplain⟩ := hok
    exact podRequest_write hop hlen ⟨hu, hen, hglobal, hsize, hal, hplace, hplain⟩ hm hmem
  refine ⟨fun ha hmod hfirst => ⟨?_, ?_, ?_⟩, ?_⟩
  · rintro rfl hc hsent
    exact podReply_load ha hmod hfirst hc.1 hsent
  · rintro rfl hans haway
    exact podReply_store ha hmod hfirst hans haway
  · rintro rfl rfl hslot hc
    exact podReply_refused ha hmod hfirst hslot hc
  refine ⟨?_, ?_, ?_⟩
  · rintro rfl rfl hrank hmem hhere href hl
    exact registration_refused hrank hmem hhere href ⟨hl.1, hl.2.1, hl.2.2⟩
  · rintro hg rfl rfl hrank hmem hhere hre href
    refine ⟨fun hf => registration_waits hrank hmem hhere href hg hre hf, fun hf hzero hms hdet hfre hregs hr0 hms0 hdet0 hre0 hl => ?_,
      fun hf hzero hbad hregs hr0 hl => registration_mismatches hrank hmem hhere href hg hre hf hzero hbad hregs hr0 ⟨hl.1, hl.2.1, hl.2.2⟩⟩
    have hc := registration_confirms hrank hmem hhere href hg hre hf hzero hms hdet hfre hregs hr0 hms0 hdet0 hre0 ⟨hl.1, hl.2.1, hl.2.2⟩
    rwa [group?_handle hg] at hc ⊢
  refine ⟨fun hg hf hm hr hhere => ⟨?_, confirm_refuses hg hf hm hr hhere⟩, fun he => entryOf_holds he, ?_, ?_, ?_, fun hready hgone => memberLost_aborts hready.1 hready.2 hgone⟩
  · have hc := confirm_forms (gen := gen) (zero := zero) hg hf hm hr hhere
    rwa [group?_handle hg] at hc ⊢
  · rintro rfl he hg hm hhere
    have hh := group?_handle hg
    subst hh
    exact ⟨fun hgen => packet_old he hm hhere hgen, fun hgen hgid hr hno hseq => packet_early he hm hhere hgen hgid hr hno hseq,
      fun hgen hgid hr hops hseq hfields hnew hwhole => packet_part he hm hhere hgen hgid hr hops hseq hfields hnew hwhole,
      fun hgen hgid hr hops hseq hfields => packet_differs he hm hhere hgen hgid hr hops hseq hfields⟩
  · intro he hg hnet ha
    have hh := group?_handle hg
    subst hh
    exact ⟨fun hgen hgid hr => abort_now he hnet ha hgen hgid hr, fun hgen => abort_old he hnet ha hgen⟩
  · exact fun hready hops hlate => groupTimeout_aborts hready.1 hready.2 hops hlate

end Sys2Proof.Machine
end

section
/-! SUPPORT. Requests of other dies at their home (R174, R183, R190, R203). -/

namespace Sys2Proof.Machine

section requests
variable {s : State} {n id loc : Nat} {d : DieId} {k : SlotNo} {strand : Word} {op : HomeOp} {rest : List Packet}

/-- A request of another die arrives, and none that its strand has sent before it to the same bytes is on its way. -/
structure State.Requested (s : State) (n id : Nat) (d : DieId) (k : SlotNo) (strand : Word) (loc : Nat) (rest : List Packet) (op : HomeOp) : Prop where
  arrives : s.arrive n = some (.request id d k strand loc op, rest)
  memOk : s.MemOk
  first : ∀ q ∈ s.net.take n, ∀ i e j st l o, q = .request i e j st l o → st = strand → l / 8 ≠ loc / 8

/-- A request that is answered. -/
theorem serve_answers {ok : HomeOp → Bool} {u : State} {a : Answer} (h : s.Requested n id d k strand loc rest op) (hok : ok op = true) (hop : ∀ o z x, op ≠ .rred o z x)
    (hp : ({ s with net := rest } : State).performHome ⟨d, k, strand⟩ loc op = (u, a)) : s.serve ok n = u.send (.reply id d k loc op a) := by
  have hfirst : ((s.net.take n).any fun p => match p with
      | .request _ _ _ st l _ => st == strand && l / 8 == loc / 8
      | _ => false) = false := by
    rw [List.any_eq_false]
    intro q hq
    split
    next i e j st l o =>
      have := h.first _ hq i e j st l o rfl
      simpa using this
    next => exact Bool.false_ne_true
  unfold State.serve
  rw [h.arrives]
  simp only [hok, hp]
  refine (if_neg ?_).trans ?_
  · rw [Bool.not_true, Bool.false_or, Bool.not_eq_true]
    exact hfirst
  · cases op with
    | rred o z x => exact absurd rfl (hop o z x)
    | _ => rfl

/-- What an answered request brings about, with its reply at the end of the net. -/
theorem request_answered {ok : HomeOp → Bool} {i : Instr} {u : State} {a : Answer} {P : State → Prop} (hi : exec i s = .next (s.serve ok n))
    (h : s.Requested n id d k strand loc rest op) (hok : ok op = true) (hop : ∀ o z x, op ≠ .rred o z x)
    (hp : ({ s with net := rest } : State).performHome ⟨d, k, strand⟩ loc op = (u, a)) (hP : P (u.send (.reply id d k loc op a))) : Completes i s P :=
  completes_of (hi.trans (congrArg Host.Outcome.next (serve_answers h hok hop hp))) hP

/-- A reply stands at the end of the net. -/
def State.Replied (t : State) (id : Nat) (d : DieId) (k : SlotNo) (loc : Nat) (op : HomeOp) (a : Answer) : Prop := ∃ pre, t.net = pre ++ [.reply id d k loc op a]

theorem replied_send (u : State) (id : Nat) (d : DieId) (k : SlotNo) (loc : Nat) (op : HomeOp) (a : Answer) : (u.send (.reply id d k loc op a)).Replied id d k loc op a := ⟨u.net, rfl⟩

/-- An aligned word that does not begin in device space does not reach it. -/
theorem not_device_of_aligned {z : Nat} (h : isDevice loc = false) (hz : z = 4 ∨ z = 8) (ha : loc % z = 0) : ∀ a, loc ≤ a → a < loc + z → isDevice a = false := by
  intro a h1 h2
  simp only [isDevice, Bool.and_eq_false_iff, decide_eq_false_iff_not] at h ⊢
  rcases hz with rfl | rfl <;> omega

theorem homeWrite_plain {asker : Asker} (hd : isDevice loc = false) (z x : Nat) : s.homeWrite asker loc z x = s.writeHome loc (bytesOf z x) asker.who := by
  unfold State.homeWrite
  rw [hd]
  rfl

/-! ### Atomics and full/empty words -/

theorem homeAtomic_amo {o : AmoOp} {z : Nat} {x : Word} (h : s.Requested n id d k strand loc rest (.amo o z x)) (hd : isDevice loc = false) (hs : s.Sound loc 8)
    (hz : z = 4 ∨ z = 8) (ha : loc % z = 0) : Completes (.homeAtomic n) s fun t => Stored s t loc z (o.apply z (numAt s.mem loc z) x.toNat).1
      ∧ ∃ f, t.Replied id d k loc (.amo o z x) (.value (word (numAt s.mem loc z)) f none) := by
  have hnum : ({ s with net := rest } : State).homeNum loc z = (numAt s.mem loc z, none) :=
    homeNum_of_sound (not_device_of_aligned hd hz ha) fun a h1 h2 => hs a h1 (by omega)
  refine request_answered rfl h rfl (by intro _ _ _; exact nofun) (amo_performed hnum o x) ⟨stored_of_mem h.memOk ?_, _, replied_send ..⟩
  rw [send_mem, homeWrite_plain hd, writeHome_mem]

theorem wakeFe_told {u : State} : ∀ w ∈ ((u.wakeFe loc).die (homeOf loc)).waiters, w.loc = loc → w.what ≠ .fullEmpty := by
  intro w hw hl hwhat
  unfold State.wakeFe at hw
  rw [wake_waiters, List.mem_filter] at hw
  simp [hl, hwhat] at hw

theorem homeFe_stFe {x : Word} (h : s.Requested n id d k strand loc rest (.stFe x)) (hd : isDevice loc = false) (hs : s.Sound loc 8) (ha : loc % 8 = 0)
    (he : s.isEmpty loc = true) : Completes (.homeFeRequest n) s fun t => Stored s t loc 8 x.toNat ∧ t.isEmpty loc = false
      ∧ (∀ w ∈ (t.die (homeOf loc)).waiters, w.loc = loc → w.what ≠ .fullEmpty) ∧ t.Replied id d k loc (.stFe x) (.value 0 0 none) := by
  have hnum : ({ s with net := rest } : State).homeNum loc 8 = (numAt s.mem loc 8, none) := homeNum_of_sound (not_device_of_aligned hd (.inr rfl) ha) hs
  refine request_answered rfl h rfl (by intro _ _ _; exact nofun) (stFe_performed hnum he x) ⟨stored_of_mem h.memOk ?_, ?_, wakeFe_told, replied_send ..⟩
  · rw [send_mem, wakeFe_mem]
    exact (congrArg State.mem (homeWrite_plain hd 8 x.toNat)).trans (writeHome_mem ..)
  · rw [isEmpty_congr (send_empties ..), State.wakeFe, isEmpty_congr (wake_empties ..), isEmpty_setEmpty, if_pos rfl]

/-! ### Queues -/

theorem qcount_mem (s : State) (loc : Nat) (put up : Bool) : ∃ bs : List Byte, bs.length = 2 ∧ (s.qcount loc put up).mem = memWrite s.mem (loc + if put then 36 else 38) bs :=
  ⟨_, bytesOf_length .., performWrite_mem ..⟩

/-- Waking the waiters of a queue changes only the counts of those that wait. -/
theorem wake_mem_counts (hm : s.MemOk) (p : Waiter → Bool) {x : Nat} (hx : ¬ (loc + 36 ≤ x ∧ x < loc + 40)) : memGet (s.wake loc p).mem x = memGet s.mem x := by
  have hfold (ws : List Waiter) : ∀ t : State, t.MemOk → memGet (ws.foldl (fun s w =>
      let s := if w.what = .queue then s.qcount loc w.put false else s
      s.send (.wake w.die w.strand loc)) t).mem x = memGet t.mem x := by
    induction ws with
    | nil => exact fun _ _ => rfl
    | cons w ws ih =>
      intro t ht
      obtain ⟨bs, hlen, hmem⟩ := qcount_mem t loc w.put false
      have hok : (t.qcount loc w.put false).MemOk := (congrArg (Memory.wf · = true) hmem).mpr (memWrite_wf _ _ ht)
      rw [List.foldl_cons]
      by_cases hq : w.what = .queue
      · have hsent : ((t.qcount loc w.put false).send (.wake w.die w.strand loc)).MemOk := hok
        simp only [if_pos hq] at ih ⊢
        rw [ih _ hsent, send_mem, hmem, memGet_memWrite _ _ _ ht, if_neg]
        rw [hlen]
        split <;> omega
      · simp only [if_neg hq] at ih ⊢
        exact ih _ ht
  exact hfold _ _ hm

/-- A queue after an enqueue, but for the counts of those that wait. -/
theorem enqueued_get (hm : s.MemOk) (asker : Asker) (e : List Byte) {x : Nat} (hx : ¬ (loc + 36 ≤ x ∧ x < loc + 40)) : memGet (s.enqueued asker loc e).mem x
    = memGet (memWrite (s.qwrite (s.qcb loc) asker.who (s.qcb loc).tail ((s.qcb loc).elems e.length) e).mem (loc + 16)
      (qheader (s.qcb loc).head ((s.qcb loc).tail + (s.qcb loc).elems e.length) ((s.qcb loc).free - (s.qcb loc).elems e.length))) x := by
  have hok := qwrite_memOk (q := s.qcb loc) (who := asker.who) hm (s.qcb loc).tail ((s.qcb loc).elems e.length) e
  unfold State.enqueued
  dsimp only
  rw [qput_eq, wake_mem_counts ?_ _ hx, writeHome_mem]
  · rfl
  · exact (congrArg (Memory.wf · = true) (writeHome_mem ..)).mpr (memWrite_wf _ _ hok)

theorem elems_es (q : Qcb) : q.elems q.es = 1 := by
  have := q.es_ge
  exact Nat.div_eq_of_lt_le (by omega) (by omega)

theorem qheader_head (head tail free i : Nat) (hi : i < 8) : ((qheader head tail free)[i]?).getD 0 = ((w64 (word head))[i]?).getD 0 := by
  rw [w64_word, qheader, List.append_assoc, List.getElem?_append_left (by rw [bytesOf_length]; exact hi)]

theorem qheader_tail (head tail free i : Nat) (hi : i < 8) : ((qheader head tail free)[8 + i]?).getD 0 = ((w64 (word tail))[i]?).getD 0 := by
  rw [w64_word, qheader, List.append_assoc, List.getElem?_append_right (by rw [bytesOf_length]; omega), bytesOf_length, Nat.add_sub_cancel_left,
    List.getElem?_append_left (by rw [bytesOf_length]; exact hi)]

theorem qheader_length (head tail free : Nat) : (qheader head tail free).length = 20 := by
  simp [qheader, bytesOf_length]

/-- One element enqueued: its bytes in its slot, and the header moved on. -/
theorem enqueued_one (hm : s.MemOk) (asker : Asker) {bs : List Byte} (hlen : bs.length = (s.qcb loc).es)
    (hapart : (s.qcb loc).slot (s.qcb loc).tail + (s.qcb loc).es ≤ loc ∨ loc + 64 ≤ (s.qcb loc).slot (s.qcb loc).tail) :
    numAt (s.enqueued asker loc bs).mem ((s.qcb loc).slot (s.qcb loc).tail) (s.qcb loc).es = ofBytes bs ∧ (s.enqueued asker loc bs).rd (loc + 16) = word (s.qcb loc).head
      ∧ (s.enqueued asker loc bs).rd (loc + 24) = word ((s.qcb loc).tail + 1) := by
  have hget {x : Nat} (hx : ¬ (loc + 36 ≤ x ∧ x < loc + 40)) := enqueued_get hm asker bs hx
  generalize s.qcb loc = q at *
  have hes := q.es_ge
  rw [hlen, elems_es] at hget
  have hok := qwrite_memOk (q := q) (who := asker.who) hm q.tail 1 bs
  refine ⟨?_, rd_of_get fun i hi => ?_, rd_of_get fun i hi => ?_⟩
  · unfold numAt
    rw [← hlen]
    congr 1
    refine memBytes_of_get fun j hj => ?_
    have hslot := qwrite_slot (q := q) (who := asker.who) hm q.tail 1 bs q.cap_pos (i := 0) Nat.one_pos (hlen ▸ hj)
    rw [hget (by omega), memGet_memWrite _ _ _ hok, qheader_length, if_neg (by omega)]
    rw [Nat.zero_mul, Nat.zero_add, Nat.add_zero] at hslot
    exact hslot
  · rw [hget (by omega), memGet_memWrite _ _ _ hok, qheader_length, if_pos (by omega), Nat.add_sub_cancel_left, qheader_head _ _ _ i hi]
  · rw [hget (by omega), memGet_memWrite _ _ _ hok, qheader_length, if_pos (by omega), show loc + 24 + i - (loc + 16) = 8 + i by omega, qheader_tail _ _ _ i hi]

theorem homeQueue_put {bs : List Byte} {nb : Bool} (h : s.Requested n id d k strand loc rest (.put bs nb)) (hq : (s.qcb loc).ok = true) (hlen : bs.length = (s.qcb loc).es)
    (hroom : (s.qcb loc).count < (s.qcb loc).cap)
    (hapart : (s.qcb loc).slot (s.qcb loc).tail + (s.qcb loc).es ≤ loc ∨ loc + 64 ≤ (s.qcb loc).slot (s.qcb loc).tail) : Completes (.homeQueueRequest n) s fun t =>
      numAt t.mem ((s.qcb loc).slot (s.qcb loc).tail) (s.qcb loc).es = ofBytes bs ∧ t.rd (loc + 16) = word (s.qcb loc).head ∧ t.rd (loc + 24) = word ((s.qcb loc).tail + 1)
      ∧ t.Replied id d k loc (.put bs nb) (.bytes [] 1 false) := by
  have hqcb : ({ s with net := rest } : State).qcb loc = s.qcb loc := rfl
  have hes := (s.qcb loc).es_ge
  have hone : (s.qcb loc).elems bs.length = 1 := by rw [hlen, elems_es]
  have hp := put_performed (s := { s with net := rest }) (asker := ⟨d, k, strand⟩) (loc := loc) (e := bs) nb (by rw [hqcb]; exact hq) (by omega) (by rw [hqcb, hone]; omega)
  rw [hqcb, hone] at hp
  obtain ⟨hslot, hhead, htail⟩ := enqueued_one (s := { s with net := rest }) (loc := loc) (bs := bs) h.memOk ⟨d, k, strand⟩ (by rw [hqcb]; exact hlen) (by rw [hqcb]; exact hapart)
  rw [hqcb] at hslot hhead htail
  refine request_answered rfl h rfl (by intro _ _ _; exact nofun) hp ⟨?_, ?_, ?_, replied_send ..⟩
  · rw [send_mem, hslot]
  · rw [rd_of_mem (send_mem ..), hhead]
  · rw [rd_of_mem (send_mem ..), htail]

theorem homeQueue_qstat (h : s.Requested n id d k strand loc rest .qstat) : Completes (.homeQueueRequest n) s fun t =>
    t.Replied id d k loc .qstat (.value (word (s.qcb loc).snapshot) 0 none) ∧ t.mem = s.mem :=
  request_answered (u := { s with net := rest }) rfl h rfl (by intro _ _ _; exact nofun) rfl ⟨replied_send .., rfl⟩

/-! ### Barriers -/

/-- A barrier whose fields fit its word is read back from it. -/
theorem ofWord_word {b : Bar} (hst : b.status < 4) (harr : b.arr < 2 ^ 21) (hb : b.bytes < 2 ^ 40) : Bar.ofWord b.word = b := by
  have hword := bar_word_toNat b
  rw [Nat.mod_eq_of_lt hst, Nat.mod_eq_of_lt harr, Nat.mod_eq_of_lt hb] at hword
  have hp : (Bar.ofWord b.word).phase = b.phase := by
    change bitAt b.word 63 = b.phase
    rw [bitAt_div]
    cases hphase : b.phase with
    | false =>
      rw [hphase, show phaseNat false = 0 from rfl] at hword
      exact decide_eq_false (by omega)
    | true =>
      rw [hphase, show phaseNat true = 2 ^ 63 from rfl] at hword
      exact decide_eq_true (by omega)
  have hle : phaseNat b.phase = 0 ∨ phaseNat b.phase = 2 ^ 63 := by cases b.phase <;> decide
  have hs : (Bar.ofWord b.word).status = b.status := by rw [ofWord_status]; omega
  have ha : (Bar.ofWord b.word).arr = b.arr := by rw [ofWord_arr]; omega
  have hbytes : (Bar.ofWord b.word).bytes = b.bytes := by rw [ofWord_bytes]; omega
  obtain ⟨p, st, ar, by_⟩ := b
  generalize Bar.ofWord _ = b' at hp hs ha hbytes ⊢
  cases b'
  simp_all

/-- An arrival that is not the last. -/
theorem arrive_early {b : Bar} (h : 2 ≤ b.arr) (rl : Bar) : b.arrive rl = ({ b with arr := b.arr - 1 }, false) := by
  unfold Bar.arrive Bar.settle
  rw [if_neg (by omega), if_neg]
  dsimp only
  omega

theorem homeBarrier_barr (h : s.Requested n id d k strand loc rest .barr) (harr : 2 ≤ (Bar.ofWord (s.rd loc)).arr) : Completes (.homeBarrierRequest n) s fun t =>
    Bar.ofWord (t.rd loc) = { Bar.ofWord (s.rd loc) with arr := (Bar.ofWord (s.rd loc)).arr - 1 } ∧ t.Replied id d k loc .barr (.value 0 0 none) := by
  have hearly := arrive_early harr (Bar.ofWord (s.rd (loc + 8)))
  have hmem := setBar_mem (s := { s with net := rest }) (asker := ⟨d, k, strand⟩) (loc := loc) ((Bar.ofWord (s.rd loc)).arrive (Bar.ofWord (s.rd (loc + 8)))).1
    ((Bar.ofWord (s.rd loc)).arrive (Bar.ofWord (s.rd (loc + 8)))).2
  refine request_answered rfl h rfl (by intro _ _ _; exact nofun) barr_performed ⟨?_, replied_send ..⟩
  rw [rd_of_write (s := s) h.memOk (by rw [send_mem]; exact hmem), hearly]
  have hst := ofWord_status (s.rd loc)
  have ha := ofWord_arr (s.rd loc)
  have hb := ofWord_bytes (s.rd loc)
  refine ofWord_word ?_ ?_ ?_
  · dsimp only; omega
  · dsimp only; omega
  · dsimp only; omega

end requests

end Sys2Proof.Machine
end

section
/-! SUPPORT. Replies, pending stores and their acknowledgements (R299, R341, R345, R346). -/

namespace Sys2Proof.Machine

/-! ### The bytes of a pending store -/

section runs

/-- Runs of a sector's bytes written in turn write its bytes in turn. -/
theorem sectorRuns_puts (cells : List Host.Cell) (sector : Nat) (m : List Host.Cell) : (sectorRuns cells sector).foldl (fun m r => memWrite m r.1 r.2) m
    = (cells.filter fun c => sectorOf c.1 == sector).foldl (fun m c => memPut m c.1 c.2) m := by
  unfold sectorRuns
  generalize cells.filter (fun c => sectorOf c.1 == sector) = l
  induction l generalizing m with
  | nil => rfl
  | cons c l ih =>
    rw [List.foldl_cons, ← ih, List.foldr_cons]
    generalize l.foldr _ [] = acc
    cases acc with
    | nil => rfl
    | cons r rest =>
      obtain ⟨a, bs⟩ := r
      dsimp only
      split
      next ha => rw [ha, List.foldl_cons, List.foldl_cons]; rfl
      next => rfl

/-- Cells put in turn: each reads as its cell. -/
theorem memGet_puts (cells : List Host.Cell) {lo : Nat} (hc : cellsFrom lo cells = true) {m : List Host.Cell} (hm : Memory.wf m = true) (a : Nat) :
    memGet (cells.foldl (fun m c => memPut m c.1 c.2) m) a = (cellGet cells a).getD (memGet m a) := by
  induction cells generalizing lo m with
  | nil => rfl
  | cons c cells ih =>
    obtain ⟨k, v⟩ := c
    have hrest : cellsFrom (k + 1) cells = true := (Bool.and_eq_true_iff.1 hc).2
    rw [List.foldl_cons, ih hrest (memPut_wf _ _ hm), memGet_memPut _ _ _ hm]
    have hcell : cellGet ((k, v) :: cells) a = if a = k then some v else if a < k then none else cellGet cells a := rfl
    rw [hcell]
    by_cases hk : a = k
    · rw [if_pos hk, if_pos hk, cellGet_below hrest (by omega)]
      rfl
    · rw [if_neg hk, if_neg hk]
      by_cases hlt : a < k
      · rw [if_pos hlt, cellGet_below hrest (by omega)]
      · rw [if_neg hlt]

theorem sectorRuns_write {cells : List Host.Cell} {sector : Nat} (hc : cellsFrom 0 cells = true) (hs : ∀ c ∈ cells, sectorOf c.1 = sector) {m : List Host.Cell}
    (hm : Memory.wf m = true) (a : Nat) : memGet ((sectorRuns cells sector).foldl (fun m r => memWrite m r.1 r.2) m) a = (cellGet cells a).getD (memGet m a) := by
  have hall : (cells.filter fun c => sectorOf c.1 == sector) = cells := List.filter_eq_self.2 fun c h => by simpa using hs c h
  rw [sectorRuns_puts, hall, memGet_puts cells hc hm]

end runs

section messages
variable {s : State} {n id loc : Nat} {d e : DieId} {k : SlotNo} {c : Ctx} {rest : List Packet}

/-- An answer reaches its slot. -/
theorem homeReply_answers {op : HomeOp} {a : Answer} (ha : s.arrive n = some (.reply id e k loc op a, rest)) (hfree : collapseFirst (s.net.take n) e (lineOf loc) = false)
    (hc : s.ctx? e k = some c) (hsent : c.sent = some id) : Completes (.homeReply n) s fun t =>
      t.ctx? e k = some { c with sent := none, answer := some a } ∧ t.net = rest ∧ t.mem = s.mem := by
  refine completes_of (t := ({ s with net := rest } : State).mapCtx e k fun c => if c.sent = some id then { c with sent := none, answer := some a } else c) ?_
    ⟨ctx?_awaited (s := { s with net := rest }) (f := fun c => { c with sent := none, answer := some a }) hc hsent (fun _ => rfl) (fun _ => rfl), mapCtx_net .., mapCtx_mem ..⟩
  change execHomeReply n s = _
  unfold execHomeReply
  simp only [ha, hfree, Bool.false_eq_true, if_false]

/-! ### A pending store at its home -/

/-- The writes of an entry at its home. -/
def State.performPend (s : State) (p : Pend) (but : Option Word) : State :=
  (sectorRuns p.bytes p.sector).foldl (fun s r => s.writeBytes r.1 r.2 (.slots p.slots.eraseDups) but) s

theorem performPend_mem (s : State) (p : Pend) (but : Option Word) :
    (s.performPend p but).mem = (sectorRuns p.bytes p.sector).foldl (fun m r => memWrite m r.1 r.2) s.mem :=
  (List.foldl_hom State.mem fun t r => (writeBytes_mem t r.1 r.2 _ but).symm).symm

/-- A state in which an entry of a die has been sent on. -/
def State.pendSent (s : State) (d : DieId) (id : Nat) : State :=
  s.mapDie d fun x => { x with pend := mapIf (fun p => p.id == id) (fun p => { p with sent := true }) x.pend }

theorem pendSent_sent (s : State) (d : DieId) (id : Nat) : ∀ q ∈ ((s.pendSent d id).die d).pend, q.id = id → q.sent = true := by
  have hdie : ((s.pendSent d id).die d).pend = mapIf (fun p => p.id == id) (fun p => { p with sent := true }) (s.die d).pend :=
    congrArg Die.pend (die_mapDie_self s d fun x => { x with pend := mapIf (fun p => p.id == id) (fun p => { p with sent := true }) x.pend })
  intro q hq hid
  rw [hdie] at hq
  obtain ⟨p, -, rfl⟩ := List.mem_map.1 hq
  split
  · rfl
  next hp =>
    rw [if_neg hp] at hid
    exact absurd (beq_iff_eq.2 hid) hp

/-- A collapse, unless a tile store is written. -/
def State.collapsePend (s : State) (p : Pend) : State × BitVec 16 :=
  if isTile p.sector then (s, 0) else s.collapseLine (lineOf p.sector) (.slots p.slots.eraseDups)

theorem collapsePend_mem (s : State) (p : Pend) : (s.collapsePend p).1.mem = s.mem := by
  unfold State.collapsePend
  split
  · rfl
  · exact collapseLine_mem ..

theorem pendingStore_performed {p : Pend} (ha : s.arrive n = some (.pending d p.id, rest)) (hp : (s.die d).pend.find? (fun q => q.id == p.id) = some p)
    (hfirst : ∀ q ∈ (s.die d).pend.takeWhile fun q => q.id != p.id, q.sector ≠ p.sector) (hhalves : p.halves = []) (hcells : cellsFrom 0 p.bytes = true)
    (hsector : ∀ c ∈ p.bytes, sectorOf c.1 = p.sector) (hm : s.MemOk) : Completes (.pendingStoreArrival n) s fun t =>
      (∀ a, memGet t.mem a = (cellGet p.bytes a).getD (memGet s.mem a)) ∧ (∃ pre m, t.net = pre ++ [.perf d p.id p.slots p.slots.eraseDups m])
        ∧ ∀ q ∈ (t.die d).pend, q.id = p.id → q.sent = true := by
  have hno : ((s.die d).pend.takeWhile fun q => q.id != p.id).any (fun q => q.sector == p.sector) = false :=
    List.any_eq_false.2 fun q hq => by simpa using hfirst q hq
  have hbytes (u : State) : u.pendBytes p = p.bytes := by unfold State.pendBytes; rw [hhalves]; rfl
  have hx : ∃ but, exec (.pendingStoreArrival n) s = .next ((((({ s with net := rest } : State).performPend p but).collapsePend p).1.pendSent d p.id).send
      (.perf d p.id p.slots p.slots.eraseDups ((({ s with net := rest } : State).performPend p but).collapsePend p).2)) := by
    refine ⟨(p.slots.head?.bind fun w => ({ s with net := rest } : State).ctx? w.1 w.2).map fun c => c.strand, ?_⟩
    change execPendingStoreArrival n s = _
    unfold execPendingStoreArrival
    simp only [ha, hp, hno, Bool.false_eq_true, if_false, hbytes]
    rfl
  obtain ⟨but, hx⟩ := hx
  refine completes_of hx ⟨fun a => ?_, ⟨_, _, rfl⟩, pendSent_sent _ d p.id⟩
  rw [send_mem, State.pendSent, mapDie_mem, collapsePend_mem, performPend_mem]
  exact sectorRuns_write hcells hsector hm a

/-! ### Acknowledgements -/

/-- A slot after a change for each time that it is named. -/
theorem ctx?_foldl_mapCtx {f : Ctx → Ctx} (hat : ∀ c d k, (f c).at d k = c.at d k) (hst : ∀ c, (f c).state = c.state) (l : List (DieId × SlotNo)) (hc : s.ctx? e k = some c) :
    (l.foldl (fun s w => s.mapCtx w.1 w.2 f) s).ctx? e k = some (f^[l.count (e, k)] c) := by
  induction l generalizing s c with
  | nil => exact hc
  | cons w l ih =>
    rw [List.foldl_cons]
    by_cases hw : (e, k) = w
    · subst hw
      rw [List.count_cons_self, Function.iterate_succ_apply]
      exact ih (ctx?_mapCtx hc (fun c => hat c e k) hst)
    · rw [List.count_cons_of_ne (Ne.symm hw)]
      exact ih ((ctx?_mapCtx_ne hw (fun c => hat c e k)).trans hc)

theorem foldl_mapCtx_net {f : Ctx → Ctx} (l : List (DieId × SlotNo)) (s : State) : (l.foldl (fun s w => s.mapCtx w.1 w.2 f) s).net = s.net :=
  foldl_keeps State.net _ (fun _ _ => mapCtx_net ..) _ _
theorem foldl_mapCtx_dies {f : Ctx → Ctx} (l : List (DieId × SlotNo)) (s : State) : (l.foldl (fun s w => s.mapCtx w.1 w.2 f) s).dies = s.dies :=
  foldl_keeps State.dies _ (fun _ _ => mapCtx_dies ..) _ _

/-- One store of a slot is performed. -/
def Ctx.perfed (c : Ctx) : Ctx := { c with perfPend := c.perfPend - 1 }
/-- The acknowledgements that one store awaits are due. -/
def Ctx.owed (m : BitVec 16) (c : Ctx) : Ctx := { c with colPend := addCol c.colPend m }

theorem perfed_iterate (j : Nat) (c : Ctx) : (Ctx.perfed^[j] c).perfPend = c.perfPend - BitVec.ofNat 12 j ∧ (Ctx.perfed^[j] c).colPend = c.colPend := by
  induction j generalizing c with
  | zero => simp
  | succ j ih =>
    rw [Function.iterate_succ_apply]
    obtain ⟨hp, hcol⟩ := ih c.perfed
    refine ⟨hp.trans ?_, hcol⟩
    rw [Ctx.perfed, BitVec.sub_sub, Nat.add_comm j 1, BitVec.ofNat_add]
    rfl

theorem addCol_get (v : Vector (BitVec 12) 16) (m : BitVec 16) (f : DieId) : (addCol v m)[f] = v[f] + if m.getLsbD f.val then 1 else 0 := by
  have hfold (l : List DieId) (hl : l.Nodup) : ∀ v : Vector (BitVec 12) 16,
      (l.foldl (fun v (d : DieId) => if m.getLsbD d.val then v.set d (v[d] + 1) else v) v)[f] = v[f] + if f ∈ l ∧ m.getLsbD f.val then 1 else 0 := by
    induction l with
    | nil => intro v; simp
    | cons d l ih =>
      intro v
      obtain ⟨hd, hl⟩ := List.nodup_cons.1 hl
      rw [List.foldl_cons, ih hl]
      by_cases hf : f = d
      · subst hf
        by_cases hm : m.getLsbD f.val = true
        · simp [hd, hm]
        · rw [if_neg hm, if_neg fun h => hd h.1, if_neg fun h => hm h.2]
      · have hv : (if m.getLsbD d.val then v.set d (v[d] + 1) else v)[f] = v[f] := by
          split
          · exact Vector.getElem_set_ne _ _ fun h => hf (Fin.ext h.symm)
          · rfl
        rw [hv]
        simp [hf]
  have := hfold allDies (by decide) v
  rw [addCol, this]
  simp [mem_allDies]

theorem owed_iterate (m : BitVec 16) (j : Nat) (c : Ctx) (f : DieId) : ((Ctx.owed m)^[j] c).perfPend = c.perfPend
    ∧ ((Ctx.owed m)^[j] c).colPend[f] = c.colPend[f] + BitVec.ofNat 12 (if m.getLsbD f.val then j else 0) := by
  induction j generalizing c with
  | zero => simp
  | succ j ih =>
    rw [Function.iterate_succ_apply]
    obtain ⟨hp, hcol⟩ := ih (Ctx.owed m c)
    refine ⟨hp, ?_⟩
    rw [hcol, Ctx.owed, addCol_get]
    split
    · rw [BitVec.add_assoc, Nat.add_comm j 1, BitVec.ofNat_add]
      rfl
    · simp

theorem perf_frees {whos cols : List (DieId × SlotNo)} {mask : BitVec 16} (ha : s.arrive n = some (.perf d id whos cols mask, rest)) (hc : s.ctx? e k = some c) :
    Completes (.perf n) s fun t => t.net = rest ∧ t.mem = s.mem ∧ (∀ q ∈ (t.die d).pend, q.id ≠ id)
      ∧ ∃ o, t.ctx? e k = some o ∧ o.perfPend = c.perfPend - BitVec.ofNat 12 (whos.count (e, k))
        ∧ ∀ f : DieId, o.colPend[f] = c.colPend[f] + BitVec.ofNat 12 (if mask.getLsbD f.val then cols.count (e, k) else 0) := by
  have hx : exec (.perf n) s = .next (cols.foldl (fun s w => s.mapCtx w.1 w.2 (Ctx.owed mask)) (whos.foldl (fun s w => s.mapCtx w.1 w.2 Ctx.perfed)
      (({ s with net := rest } : State).mapDie d fun x => { x with pend := x.pend.filter fun p => p.id != id }))) := by
    change execPerf n s = _
    unfold execPerf
    rw [ha]
    rfl
  refine completes_of hx ⟨(foldl_mapCtx_net ..).trans (foldl_mapCtx_net ..), ?_, fun q hq => ?_, ?_⟩
  · rw [foldl_mem _ fun _ _ => mapCtx_mem .., foldl_mem _ fun _ _ => mapCtx_mem ..]
    rfl
  · rw [State.die, foldl_mapCtx_dies, foldl_mapCtx_dies] at hq
    have hdie := congrArg Die.pend (die_mapDie_self { s with net := rest } d fun x => { x with pend := x.pend.filter fun p => p.id != id })
    rw [State.die] at hdie
    rw [hdie] at hq
    simpa using List.of_mem_filter hq
  · refine ⟨_, ctx?_foldl_mapCtx (f := Ctx.owed mask) (fun _ _ _ => rfl) (fun _ => rfl) cols (ctx?_foldl_mapCtx (f := Ctx.perfed) (fun _ _ _ => rfl) (fun _ => rfl) whos (c := c) hc), ?_, fun f => ?_⟩
    · rw [(owed_iterate mask _ _ 0).1, (perfed_iterate ..).1]
    · rw [(owed_iterate mask _ _ f).2, (perfed_iterate ..).2]

theorem cack_waits (ha : s.arrive n = some (.cack d (.slot e k), rest)) (hdue : s.perfDue d (.slot e k) = true) : exec (.cack n) s = .next s := by
  change execCack n s = _
  unfold execCack
  rw [ha]
  exact if_pos hdue

/-- One acknowledgement of a die has come. -/
def Ctx.cacked (d : DieId) (c : Ctx) : Ctx := { c with colPend := if c.colPend[d] = 0 then c.colPend else c.colPend.set d (c.colPend[d] - 1) }

theorem cack_counts (ha : s.arrive n = some (.cack d (.slot e k), rest)) (hdue : s.perfDue d (.slot e k) = false) (hc : s.ctx? e k = some c) (hcol : c.colPend[d] ≠ 0) :
    Completes (.cack n) s fun t => t.ctx? e k = some { c with colPend := c.colPend.set d (c.colPend[d] - 1) } ∧ t.net = rest ∧ t.mem = s.mem := by
  refine completes_of (t := ({ s with net := rest } : State).mapCtx e k (Ctx.cacked d)) ?_
    ⟨?_, mapCtx_net .., mapCtx_mem ..⟩
  · change execCack n s = _
    unfold execCack
    rw [ha]
    exact if_neg (by rw [hdue]; decide)
  · rw [ctx?_mapCtx (s := { s with net := rest }) (f := Ctx.cacked d) (c := c) hc (fun _ => rfl) (fun _ => rfl), Ctx.cacked, if_neg hcol]

end messages

end Sys2Proof.Machine
end

section
/-! SUPPORT. Remote lines, replicas, evictions and epochs (R339, R343 to R349). -/

namespace Sys2Proof.Machine

/-- A part of a die that a change of a die leaves as it is. -/
theorem die_mapDie_of {α : Type} {P : Die → α} {g : Die → Die} (h : ∀ y, P (g y) = P y) (s : State) (d e : DieId) : P ((s.mapDie e g).die d) = P (s.die d) := by
  rw [die_mapDie]
  split
  next he => rw [he]; exact h _
  next => rfl

/-- A die in the same dies. -/
theorem die_of_dies {s t : State} (h : t.dies = s.dies) (d : DieId) : t.die d = s.die d := by rw [State.die, h, State.die]

/-! ### Only dies change -/

/-- `t` differs from `s` in its dies only. -/
def OnlyDies (s t : State) : Prop := ∃ v, t = { s with dies := v }

section onlyDies
variable {s t u : State}

theorem OnlyDies.refl (s : State) : OnlyDies s s := ⟨s.dies, rfl⟩

theorem OnlyDies.trans (h : OnlyDies s t) (g : OnlyDies t u) : OnlyDies s u := by
  obtain ⟨v, rfl⟩ := h
  obtain ⟨w, rfl⟩ := g
  exact ⟨w, rfl⟩

theorem onlyDies_mapDie (s : State) (d : DieId) (g : Die → Die) : OnlyDies s (s.mapDie d g) := ⟨_, rfl⟩

theorem onlyDies_of_ite {p : Prop} [Decidable p] {a b : State} (ha : OnlyDies s a) (hb : OnlyDies s b) : OnlyDies s (if p then a else b) := by split <;> assumption

theorem OnlyDies.serial (h : OnlyDies s t) (hs : s.Serial) : t.Serial := by
  obtain ⟨v, rfl⟩ := h
  exact hs

/-- Where no chunk runs an eviction changes dies only. -/
theorem evict_onlyDies (hs : s.Serial) (d : DieId) (l : SharedLine) : OnlyDies s (s.evict d l) := by
  unfold State.evict
  extract_lets u
  have hu : OnlyDies s u := onlyDies_mapDie ..
  refine onlyDies_of_ite ?_ ?_
  · have hback : OnlyDies s (if l.dirty = 0 then u else u.memTouch d l.line l.dirty) := onlyDies_of_ite hu (hu.trans (onlyDies_mapDie ..))
    rw [State.invalidateER, invalidate_serial (hback.serial hs)]
    exact hback
  · have hdrop : OnlyDies s (u.dropReplica d l.line) := by
      rw [State.dropReplica, State.invalidateER, invalidate_serial (serial_mapDie (hu.serial hs) ..)]
      exact hu.trans (onlyDies_mapDie ..)
    exact onlyDies_of_ite hdrop (hdrop.trans (onlyDies_mapDie ..))

theorem touch_onlyDies (hs : s.Serial) (d : DieId) (line : Nat) (dirty : BitVec 8) (core : Option Nat) : OnlyDies s (s.touch d line dirty core) := by
  have hevict (ws : List SharedLine) :
      OnlyDies s (if ws.length < Config.sliceWays then s else match victim ws with | some v => s.evict d v | none => s) := by
    refine onlyDies_of_ite (.refl s) ?_
    split
    · exact evict_onlyDies hs ..
    · exact .refl s
  unfold State.touch
  dsimp only
  exact (onlyDies_of_ite (.refl s) (onlyDies_of_ite ((hevict _).trans (onlyDies_mapDie ..)) (hevict _))).trans (onlyDies_mapDie ..)

/-- A die with a replica, before its slice takes the line. -/
def State.withReplica (s : State) (d : DieId) (l : Line) : State :=
  (s.mapDie d fun x => { x with shared := x.shared.filter fun o => o.line != l.line }).mapDie d fun x =>
    { x with replicas := l :: x.replicas.filter fun o => o.line != l.line }

theorem install_eq (s : State) (d : DieId) (l : Line) : s.install d l = (s.withReplica d l).touch d l.line 0 none := rfl

theorem withReplica_onlyDies (s : State) (d : DieId) (l : Line) : OnlyDies s (s.withReplica d l) := ⟨_, rfl⟩

theorem install_onlyDies (hs : s.Serial) (d : DieId) (l : Line) : OnlyDies s (s.install d l) := by
  have hr := withReplica_onlyDies s d l
  rw [install_eq]
  exact hr.trans (touch_onlyDies (hr.serial hs) ..)

end onlyDies

/-! ### The victim of a set (R339) -/

section ways
variable {ws : List SharedLine} {v : SharedLine}

theorem victim_none : victim ws = none ↔ ws = [] := by
  unfold victim
  constructor
  · intro h
    split at h
    · exact absurd h nofun
    · exact List.getLast?_eq_none_iff.1 h
  · rintro rfl
    rfl

/-- The victim: the last of the lines that no core holds, or the last line where cores hold them all. -/
theorem victim_some (h : victim ws = some v) : ∃ before after, ws = before ++ v :: after ∧ (v.cores = [] → ∀ w ∈ after, w.cores ≠ [])
    ∧ (v.cores ≠ [] → after = [] ∧ ∀ w ∈ ws, w.cores ≠ []) := by
  unfold victim at h
  split at h
  next l hl =>
    obtain rfl := Option.some.inj h
    obtain ⟨hempty, as, bs, hsplit, has⟩ := List.find?_eq_some_iff_append.1 hl
    have hv : l.cores = [] := by simpa using hempty
    refine ⟨bs.reverse, as.reverse, ?_, fun _ w hw => ?_, fun hne => absurd hv hne⟩
    · rw [← List.reverse_reverse ws, hsplit]
      simp
    · simpa using has w (List.mem_reverse.1 hw)
  next hnone =>
    obtain ⟨before, rfl⟩ := List.getLast?_eq_some_iff.1 h
    have hall : ∀ w ∈ before ++ [v], w.cores ≠ [] := fun w hw => by simpa using List.find?_eq_none.1 hnone w (List.mem_reverse.2 hw)
    exact ⟨before, [], rfl, fun _ _ hw => absurd hw List.not_mem_nil, fun _ => ⟨rfl, hall⟩⟩

theorem victim_mem (h : victim ws = some v) : v ∈ ws := by
  obtain ⟨before, after, rfl, -⟩ := victim_some h
  simp

end ways

/-! ### What reaches the net -/

/-- A message on the rill. -/
def Packet.onRill : Packet → Bool
  | .rill .. => true
  | _ => false

/-- Each packet of `t` is one of `s` or a message on the rill. -/
structure Rilled (s t : State) : Prop where
  packets : ∀ p ∈ t.net, p ∈ s.net ∨ p.onRill = true

section rilled
variable {s t u : State}

theorem Rilled.trans (h : Rilled s t) (g : Rilled t u) : Rilled s u := ⟨fun p hp => (g.packets p hp).elim (h.packets p) .inr⟩

theorem rilled_of_net (h : t.net = s.net) : Rilled s t := ⟨fun _ hp => .inl (h ▸ hp)⟩

theorem mapCtx_rilled (s : State) (d : DieId) (k : SlotNo) (f : Ctx → Ctx) : Rilled s (s.mapCtx d k f) := rilled_of_net (mapCtx_net ..)

theorem count_rilled (s : State) (d : DieId) (kind inst ix n : Nat) : Rilled s (s.count d kind inst ix n) := rilled_of_net (count_net ..)

theorem rilled_of_ite {p : Prop} [Decidable p] {a b : State} (ha : Rilled s a) (hb : Rilled s b) : Rilled s (if p then a else b) := by split <;> assumption

theorem squashSlot_rilled (s : State) (c : Ctx) (origin : Nat) (cause : SquashCause) (here : Bool) : Rilled s (s.squashSlot c origin cause here) := by
  unfold State.squashSlot
  split
  · exact rilled_of_net rfl
  · refine .trans ⟨fun p hp => .inl ?_⟩ (mapCtx_rilled ..)
    have := List.mem_of_mem_filter hp
    simpa using this

theorem outrank_rilled (s : State) (c : Ctx) (k : Chunk) (origin : Nat) (cause : SquashCause) (here : Bool) : Rilled s (s.outrank c k origin cause here) := by
  have hevent (p : Prop) [Decidable p] (t : State) (h : Rilled s t) : Rilled s (if p then t.squashEvent c cause else t) :=
    rilled_of_ite (h.trans (count_rilled ..)) h
  have hcounter (t : State) (d : DieId) (kind inst ix : Nat) (x : Word) : Rilled t (t.setCounter d kind inst ix x) := rilled_of_net rfl
  unfold State.outrank
  split
  · exact rilled_of_net rfl
  · exact rilled_of_ite ((hevent _ _ (rilled_of_ite (hcounter ..) (rilled_of_net rfl))).trans (mapCtx_rilled ..)) (rilled_of_net rfl)

theorem squash_rilled (s : State) (c : Ctx) (cause : SquashCause) : Rilled s (s.squash c cause) := by
  unfold State.squash
  split
  · exact rilled_of_net rfl
  next k _ =>
    have hslot : Rilled s ((s.squashEvent c cause).squashSlot c k.j cause true) := (count_rilled s ..).trans (squashSlot_rilled ..)
    have hsend (t : State) (h : Rilled s t) : Rilled s (if t.ringed c.strand then t.send (c.rill k.j (.squash cause)) else t) := by
      refine rilled_of_ite (h.trans ⟨fun p hp => ?_⟩) h
      rcases List.mem_append.1 hp with hp | hp
      · exact .inl hp
      · exact .inr (by rw [List.mem_singleton.1 hp]; rfl)
    refine rilled_of_ite (rilled_of_net rfl) (rilled_of_ite (outrank_rilled ..) (hsend _ (rilled_of_ite ?_ hslot)))
    exact (hslot.trans (count_rilled ..)).trans (mapCtx_rilled ..)

theorem foldl_rilled {α : Type} {f : State → α → State} (h : ∀ t x, Rilled t (f t x)) (l : List α) (s : State) : Rilled s (l.foldl f s) := by
  induction l generalizing s with
  | nil => exact rilled_of_net rfl
  | cons x l ih => exact (h s x).trans (ih _)

theorem invalidate_rilled (s : State) (on : Ctx → Bool) (loc n : Nat) (but : Option Word) : Rilled s (s.invalidate on loc n but) := by
  unfold State.invalidate
  dsimp only
  refine .trans ?_ (foldl_rilled (fun t c => squash_rilled t c .memory) _ _)
  exact rilled_of_ite (rilled_of_net rfl) (rilled_of_net rfl)

theorem dropReplica_rilled (s : State) (d : DieId) (line : Nat) : Rilled s (s.dropReplica d line) := by
  unfold State.dropReplica State.invalidateER
  refine .trans ?_ (invalidate_rilled ..)
  exact rilled_of_net rfl

end rilled

end Sys2Proof.Machine
end

section
/-! SUPPORT. Events of the home slices (R339, R343 to R349). -/

namespace Sys2Proof.Machine

section events
variable {s : State} {n id line : Nat} {d e : DieId} {k : SlotNo} {c : Ctx} {rest : List Packet}

/-! ### A read of a remote line at its home (R343, R344) -/

theorem grants_iff (z : Nat) (entry : DirEntry) : grants z entry = true ↔ 1 ≤ z ∧ (entry.coarse = true ∨ entry.holders.length < z ∨ 15 ≤ z) := by
  unfold grants
  cases entry.coarse <;> simp <;> omega

theorem homeByte_of {t : State} (hm : t.mem = s.mem) (hl : t.lost = s.lost) : t.homeByte = s.homeByte := by
  funext loc
  unfold State.homeByte
  rw [hm, hl]

theorem net_of_untraced {t : State} (h : t.untraced = s.untraced) : t.net = s.net := (congrArg State.net h : t.untraced.net = s.untraced.net)

theorem mem_of_untraced {t : State} (h : t.untraced = s.untraced) : t.mem = s.mem := (congrArg State.mem h : t.untraced.mem = s.untraced.mem)

theorem homeBytes_untraced {t : State} (h : t.untraced = s.untraced) : t.homeByte = s.homeByte := 
  homeByte_of (congrArg State.mem h : t.untraced.mem = s.untraced.mem) (congrArg State.lost h : t.untraced.lost = s.untraced.lost)

/-- A slice has a way for a line that its die is the home of. -/
theorem hasWay_home (h : ((s.die (homeOf line)).shared.any fun l => l.line == line) = true ∨ (s.setWays (homeOf line) line).length < Config.sliceWays ∨ s.Serial) :
    s.HasWay (homeOf line) line := by
  refine h.imp_left fun hold => ?_
  obtain ⟨l, hl⟩ := Option.isSome_iff_exists.1 (List.find?_isSome.2 (List.any_eq_true.1 hold))
  rw [hl, Option.filter_some, if_pos]
  · rfl
  · simp [Die.holds]

theorem grant_line (entry : DirEntry) (d : DieId) : (entry.grant d).line = entry.line := by
  unfold DirEntry.grant
  split
  · rfl
  · split <;> rfl

theorem dirFind_putDir (y : Die) (entry : DirEntry) : dirFind (y.putDir entry).dir entry.line = entry := by
  simp [dirFind, Die.putDir]

/-- The directory after a grant. -/
def State.withDir (s : State) (g : Bool) (home : DieId) (entry : DirEntry) : State :=
  if g then (s.mapDie home fun x => x.putDir entry).count home 4 0 2 1 else s

theorem withDir_untraced (g : Bool) (home : DieId) (entry : DirEntry) : (s.withDir g home entry).untraced = s.untraced :=
  untraced_of_ite ((count_untraced ..).trans (mapDie_untraced (by intro _; rfl))) rfl

theorem withDir_dir (home : DieId) (entry : DirEntry) : dirFind ((s.withDir true home entry).die home).dir entry.line = entry := by
  rw [State.withDir, if_pos rfl, count_die, die_mapDie_self, dirFind_putDir]

/-- The entry of a line in its home's directory. -/
def State.lineEntry (s : State) (line : Nat) : DirEntry := dirFind (s.die (homeOf line)).dir line
/-- Does the home of a line grant a replica, as its region's degree and its page's hint allow? -/
def State.grantOf (s : State) (line : Nat) (hint : BitVec 2) : Bool :=
  grants (Min.min (degDies ((s.die (homeOf line)).region (regionIx line)).deg.toNat) (capDies hint.toNat)) (s.lineEntry line)
/-- A home that has counted a read of a line. -/
def State.readCounted (s : State) (line : Nat) : State :=
  s.withRegion (homeOf line) { (s.die (homeOf line)).region (regionIx line) with rsh := satAdd ((s.die (homeOf line)).region (regionIx line)).rsh 1 }
/-- A home that has read a line, and granted it where it does. -/
def State.lineRead (s : State) (line : Nat) (hint : BitVec 2) (d : DieId) : State :=
  (((s.readCounted line).touch (homeOf line) line 0 none).withDir (s.grantOf line hint) (homeOf line) ((s.lineEntry line).grant d)).count (homeOf line) 4 0 7
    (if s.grantOf line hint && ((s.lineEntry line).grant d).coarse && !(s.lineEntry line).coarse then 1 else 0)

theorem readCounted_hasWay (h : ((s.die (homeOf line)).shared.any fun l => l.line == line) = true ∨ (s.setWays (homeOf line) line).length < Config.sliceWays ∨ s.Serial) :
    (s.readCounted line).HasWay (homeOf line) line := by
  have hd : (s.readCounted line).die (homeOf line) = (s.die (homeOf line)).setRegion
      { (s.die (homeOf line)).region (regionIx line) with rsh := satAdd ((s.die (homeOf line)).region (regionIx line)).rsh 1 } := die_mapDie_self ..
  have hways : (s.readCounted line).setWays (homeOf line) line = s.setWays (homeOf line) line := by
    unfold State.setWays State.sliceOn
    rw [hd]
    rfl
  refine hasWay_home ?_
  rw [hways, hd]
  exact h

theorem lineRead_untraced (hint : BitVec 2)
    (h : ((s.die (homeOf line)).shared.any fun l => l.line == line) = true ∨ (s.setWays (homeOf line) line).length < Config.sliceWays ∨ s.Serial) :
    (s.lineRead line hint d).untraced = (s.readCounted line).untraced :=
  (count_untraced ..).trans ((withDir_untraced ..).trans (touch_untraced (readCounted_hasWay h) ..))

theorem lineRead_dir {hint : BitVec 2} (hg : s.grantOf line hint = true) (hline : (s.lineEntry line).line = line) : (s.lineRead line hint d).lineEntry line = (s.lineEntry line).grant d := by
  have hdir := withDir_dir (s := (s.readCounted line).touch (homeOf line) line 0 none) (homeOf line) ((s.lineEntry line).grant d)
  rw [grant_line, hline, ← hg] at hdir
  unfold State.lineEntry State.lineRead
  rw [count_die]
  exact hdir

theorem lineEntry_send (s : State) (p : Packet) (line : Nat) : (s.send p).lineEntry line = s.lineEntry line := rfl

theorem remoteRead_fills {hint : BitVec 2} {pref : Pref} (ha : s.arrive n = some (.read id d k line hint pref, rest))
    (hway : ((s.die (homeOf line)).shared.any fun l => l.line == line) = true ∨ (s.setWays (homeOf line) line).length < Config.sliceWays ∨ s.Serial) :
    Completes (.remoteReadRequest n) s fun t =>
      t.net = rest ++ [.fill id d k ⟨line, (upFrom line 256).map s.homeByte⟩ (s.grantOf line hint) true pref false []] ∧ t.mem = s.mem
      ∧ (s.grantOf line hint = true → (s.lineEntry line).line = line → t.lineEntry line = (s.lineEntry line).grant d) := by
  let u : State := { s with net := rest }
  have hu := lineRead_untraced (s := u) (d := d) hint hway
  have hx : exec (.remoteReadRequest n) s = .next ((u.lineRead line hint d).send
      (.fill id d k ⟨line, (upFrom line 256).map (u.lineRead line hint d).homeByte⟩ (u.grantOf line hint) true pref false [])) := by
    change execRemoteReadRequest n s = _
    unfold execRemoteReadRequest
    rw [ha]
    rfl
  have hnet : (u.lineRead line hint d).net = rest := net_of_untraced hu
  have hmem : (u.lineRead line hint d).mem = s.mem := (mem_of_untraced hu).trans rfl
  have hgrant : u.grantOf line hint = s.grantOf line hint := rfl
  have hentry : u.lineEntry line = s.lineEntry line := rfl
  have hbyte : (u.readCounted line).homeByte = s.homeByte := rfl
  rw [homeBytes_untraced hu, hbyte, hgrant] at hx
  refine completes_of hx ⟨?_, (send_mem ..).trans hmem, fun hg hline => ?_⟩
  · rw [send_net, hnet]
  · rw [lineEntry_send, lineRead_dir (s := u) (hgrant.trans hg) (hentry ▸ hline), hentry]

/-! ### A fill arrives (R344, R347) -/

theorem join_nil (p : Packet) : p.join [] = p := by
  cases p <;> simp [Packet.join]

theorem mapFirst_id {α : Type} {f : α → α} (h : ∀ x, f x = x) (p : α → Bool) (l : List α) : mapFirst p f l = l := by
  induction l with
  | nil => rfl
  | cons x l ih => rw [mapFirst, h, ih, ite_self]

theorem sendCacks_nil (s : State) (d : DieId) (line : Nat) : s.sendCacks d line [] = s := by
  unfold State.sendCacks
  rw [mapFirst_id join_nil]
  split
  · rfl
  · exact congrArg (fun l => ({ s with net := l } : State)) (List.append_nil _)

/-- Where a line's slice has none of its set's ways in that line, a replica stays while the slice takes it. -/
theorem evict_replicas (s : State) (d : DieId) (v : SharedLine) {l : Line} (hl : l ∈ (s.die d).replicas) (hv : v.line ≠ l.line) : l ∈ ((s.evict d v).die d).replicas := by
  unfold State.evict
  extract_lets u
  have hu : (u.die d).replicas = (s.die d).replicas := die_mapDie_of (P := Die.replicas) (by intro _; rfl) s d d
  split
  · rw [die_of_dies (invalidateER_dies ..)]
    split
    · rw [hu]; exact hl
    · rw [State.memTouch, die_mapDie_self]
      dsimp only
      rw [hu]; exact hl
  · have hdrop : l ∈ ((u.dropReplica d v.line).die d).replicas := by
      rw [dropReplica_die]
      refine List.mem_filter.2 ⟨hu ▸ hl, ?_⟩
      simpa using Ne.symm hv
    unfold State.evictNotice
    dsimp only
    split
    · exact hdrop
    · rw [die_mapDie_of (P := Die.replicas) (by intro _; rfl)]
      exact hdrop

theorem touch_replicas {l : Line} (hl : l ∈ (s.die d).replicas) (hnone : ∀ o ∈ (s.die d).shared, o.line ≠ l.line) (line : Nat) (dirty : BitVec 8) (core : Option Nat) :
    l ∈ ((s.touch d line dirty core).die d).replicas := by
  have hevict : l ∈ ((if (s.setWays d line).length < Config.sliceWays then s else match victim (s.setWays d line) with | some v => s.evict d v | none => s).die d).replicas := by
    split
    · exact hl
    · split
      next v hv => exact evict_replicas s d v hl (hnone v (List.mem_of_mem_filter (victim_mem hv)))
      next => exact hl
  unfold State.touch
  dsimp only
  rw [die_mapDie_self]
  dsimp only
  split
  · exact hl
  · split
    · rw [State.memTouch, die_mapDie_self]
      exact hevict
    · exact hevict

theorem install_replicas (s : State) (d : DieId) (l : Line) : l ∈ ((s.install d l).die d).replicas := by
  rw [install_eq]
  refine touch_replicas ?_ ?_ ..
  · rw [State.withReplica, die_mapDie_self]
    exact List.mem_cons_self
  · rw [State.withReplica, die_mapDie_self, die_mapDie_self]
    intro o ho
    simpa using List.of_mem_filter ho

end events

end Sys2Proof.Machine
end

section
/-! SUPPORT. Fills, collapses, evictions and epochs (R339, R343 to R349). -/

namespace Sys2Proof.Machine

section onlyDies
variable {s t : State}
theorem OnlyDies.net (h : OnlyDies s t) : t.net = s.net := by obtain ⟨v, rfl⟩ := h; rfl
theorem OnlyDies.mem (h : OnlyDies s t) : t.mem = s.mem := by obtain ⟨v, rfl⟩ := h; rfl
theorem OnlyDies.busy (h : OnlyDies s t) : t.busy = s.busy := by obtain ⟨v, rfl⟩ := h; rfl
theorem OnlyDies.ctx? (h : OnlyDies s t) (d : DieId) (k : SlotNo) : t.ctx? d k = s.ctx? d k := by obtain ⟨v, rfl⟩ := h; rfl
theorem OnlyDies.counter (h : OnlyDies s t) (d : DieId) (kind inst ix : Nat) : t.counter d kind inst ix = s.counter d kind inst ix := by obtain ⟨v, rfl⟩ := h; rfl
end onlyDies

section fills
variable {s : State} {n id : Nat} {d e : DieId} {k : SlotNo} {c : Ctx} {rest : List Packet} {l : Line} {g keep stale : Bool} {pref : Pref}

/-- A slot of a state in which no chunk runs runs none. -/
theorem ctx?_serial (hs : s.Serial) (h : s.ctx? e k = some c) : c.chunk = none := by
  unfold State.ctx? at h
  split at h
  · split at h
    · exact absurd h nofun
    · rw [← Option.some.inj h]; exact hs.1
  · exact hs.2 c (List.mem_of_find?_eq_some h)

/-- Are stores of a die to a line pending? -/
def State.storesPend (s : State) (d : DieId) (line : Nat) : Bool := (s.die d).pend.any fun q => lineOf q.sector == line

/-- A die after a fill, which holds the line where it was granted, not collapsed since, and no store to it is pending. -/
def State.filled (s : State) (d : DieId) (l : Line) (g keep : Bool) : State := if g && keep && !s.storesPend d l.line then s.install d l else s

/-- A slot whose line has come. -/
def Ctx.lineCame (l : Line) (stale : Bool) (c : Ctx) : Ctx :=
  { c with sent := none, lines := if stale && (c.chunk.any fun k => k.spec) || l.data.isEmpty then c.lines else l :: c.lines.filter fun o => o.line != l.line }

theorem filled_onlyDies (hs : s.Serial) : OnlyDies s (s.filled d l g keep) := onlyDies_of_ite (install_onlyDies hs ..) (.refl s)

theorem filled_held (hg : g = true) (hk : keep = true) (hp : s.storesPend d l.line = false) : l ∈ ((s.filled d l g keep).die d).replicas := by
  rw [State.filled, hg, hk, hp, if_pos (by decide)]
  exact install_replicas ..

theorem filled_passed (h : (g && keep && !s.storesPend d l.line) = false) : s.filled d l g keep = s := if_neg (by rw [h]; decide)

theorem replicaFill_load (ha : s.arrive n = some (.fill id e k l g keep .load stale [], rest)) (hfree : collapseFirst (s.net.take n) e l.line = false) :
    exec (.replicaFill n) s = .next (((({ s with net := rest } : State).filled e l g keep).count e 4 0 1 (if g then 0 else 1)).mapCtx e k
      fun c => if c.sent = some id then c.lineCame l stale else c) := by
  change execReplicaFill n s = _
  unfold execReplicaFill
  simp only [ha, hfree, Bool.false_eq_true, if_false, sendCacks_nil]
  rfl

theorem isLoad_eq_false (h : pref ≠ .load) : pref.isLoad = false := by simpa [Pref.isLoad] using h

theorem replicaFill_prefetch (ha : s.arrive n = some (.fill id e k l g keep pref stale [], rest)) (hfree : collapseFirst (s.net.take n) e l.line = false) (hp : pref ≠ .load) :
    exec (.replicaFill n) s = .next ((({ s with net := rest } : State).filled e l g keep).count e 4 0 (if g && keep && !s.storesPend e l.line then 8 else 9) 1) := by
  change execReplicaFill n s = _
  unfold execReplicaFill
  simp only [ha, hfree, isLoad_eq_false hp, Bool.false_eq_true, if_false, sendCacks_nil]
  rfl

theorem fill_serves (ha : s.arrive n = some (.fill id e k l g true .load stale [], rest)) (hfree : collapseFirst (s.net.take n) e l.line = false)
    (hc : s.ctx? e k = some c) (hsent : c.sent = some id) (hs : s.Serial) (hdata : l.data ≠ []) : Completes (.replicaFill n) s fun t => t.net = rest ∧ t.mem = s.mem
      ∧ (g = true → s.storesPend e l.line = false → l ∈ (t.die e).replicas) ∧ (g = false ∨ s.storesPend e l.line = true → (t.die e).replicas = (s.die e).replicas)
      ∧ ∃ o, t.ctx? e k = some o ∧ o.sent = none ∧ o.lines.head? = some l := by
  have hfill := filled_onlyDies (s := { s with net := rest }) (d := e) (l := l) (g := g) (keep := true) hs
  refine completes_of (replicaFill_load ha hfree) ⟨?_, ?_, fun hg hp => ?_, fun h => ?_, c.lineCame l stale, ?_, rfl, ?_⟩
  · rw [mapCtx_net, count_net, hfill.net]
  · rw [mapCtx_mem, count_mem, hfill.mem]
  · rw [mapCtx_die, count_die]
    exact filled_held hg rfl hp
  · rw [mapCtx_die, count_die, filled_passed]
    · rfl
    · rcases h with rfl | h
      · rfl
      · exact (congrArg (fun b => g && true && !b) h).trans (Bool.and_false _)
  · refine ctx?_awaited (f := Ctx.lineCame l stale) ?_ hsent (fun _ => rfl) (fun _ => rfl)
    rw [count_ctx?, hfill.ctx?]
    exact hc
  · have hspec : (c.chunk.any fun k => k.spec) = false := by rw [ctx?_serial hs hc]; rfl
    have hempty : l.data.isEmpty = false := by simpa using hdata
    rw [Ctx.lineCame, hspec, hempty, Bool.and_false]
    rfl

theorem fill_prefetched (ha : s.arrive n = some (.fill id e k l g keep pref stale [], rest)) (hfree : collapseFirst (s.net.take n) e l.line = false) (hp : pref ≠ .load)
    (hs : s.Serial) : Completes (.replicaFill n) s fun t => t.net = rest ∧ t.mem = s.mem ∧ t.busy = s.busy
      ∧ (g = true → keep = true → s.storesPend e l.line = false → l ∈ (t.die e).replicas ∧ t.counter e 4 0 8 = s.counter e 4 0 8 + 1)
      ∧ (g = false ∨ keep = false ∨ s.storesPend e l.line = true → (t.die e).replicas = (s.die e).replicas ∧ t.counter e 4 0 9 = s.counter e 4 0 9 + 1) := by
  have hfill := filled_onlyDies (s := { s with net := rest }) (d := e) (l := l) (g := g) (keep := keep) hs
  refine completes_of (replicaFill_prefetch ha hfree hp) ⟨?_, ?_, ?_, fun hg hk hpend => ?_, fun h => ?_⟩
  · rw [count_net, hfill.net]
  · rw [count_mem, hfill.mem]
  · rw [count_busy, hfill.busy]
    rfl
  · subst hg hk
    rw [count_die, hpend]
    exact ⟨filled_held rfl rfl hpend, (counter_count_one ..).trans (congrArg (· + 1) (hfill.counter ..))⟩
  · have hpass : (g && keep && !s.storesPend e l.line) = false := by
      rcases h with rfl | rfl | h
      · rfl
      · rw [Bool.and_false, Bool.false_and]
      · rw [h, Bool.not_true, Bool.and_false]
    rw [count_die, filled_passed (s := { s with net := rest }) hpass, hpass]
    exact ⟨rfl, counter_count_one ..⟩

end fills

/-! ### A collapse (R345, R347) -/

section collapse
variable {s : State} {n line : Nat} {d e : DieId} {k : SlotNo} {rest : List Packet}

/-- A fill of a line on its way to a die is not installed there any more. -/
def Packet.collapsed (d : DieId) (line : Nat) (p : Packet) : Packet := match p with
  | .fill id e sl l true _ q st c => if e = d ∧ l.line = line then Packet.fill id e sl l true false q st c else p
  | p => p

theorem collapsed_overtaken {p : Packet} (h : (p.collapsed d line).overtaken d line = true) : ∃ i f j m g b q st cs, p = .fill i f j m g b q st cs ∧ m.line = line := by
  cases p with
  | fill i f j m g b q st cs =>
    refine ⟨i, f, j, m, g, b, q, st, cs, rfl, ?_⟩
    cases g with
    | false => simp [Packet.collapsed, Packet.overtaken] at h
    | true =>
      by_cases hm : f = d ∧ m.line = line
      · exact hm.2
      · simp [Packet.collapsed, Packet.overtaken, hm] at h
  | _ => exact absurd h nofun

theorem collapse_drops (ha : s.arrive n = some (.collapse line d [.slot e k], rest)) (hnone : ∀ q ∈ rest, ∀ i f j m g b p st cs, q = .fill i f j m g b p st cs → m.line ≠ line) :
    Completes (.collapse n) s fun t => (∀ q ∈ (t.die d).replicas, q.line ≠ line) ∧ .cack d (.slot e k) ∈ t.net ∧ t.mem = s.mem := by
  obtain ⟨u, hu⟩ : ∃ u, u = (({ s with net := rest } : State).dropReplica d line).count d 4 0 4 1 := ⟨_, rfl⟩
  have hx : exec (.collapse n) s = .next (({ u with net := u.net.map (Packet.collapsed d line) } : State).sendCacks d line [.slot e k]) := by
    change execCollapse n s = _
    unfold execCollapse
    rw [ha, hu]
    rfl
  have hclear : (u.net.map (Packet.collapsed d line)).any (Packet.overtaken d line) = false := by
    refine List.any_eq_false.2 fun q hq hover => ?_
    obtain ⟨p, hp, rfl⟩ := List.mem_map.1 hq
    obtain ⟨i, f, j, m, g, b, q, st, cs, rfl, hm⟩ := collapsed_overtaken hover
    rcases (dropReplica_rilled { s with net := rest } d line).packets _ (by rwa [hu, count_net] at hp) with hrest | hrill
    · exact hnone _ hrest i f j m g b q st cs rfl hm
    · exact absurd hrill nofun
  rw [State.sendCacks, if_neg (by rw [hclear]; decide)] at hx
  refine completes_of hx ⟨?_, List.mem_append_right _ List.mem_cons_self, ?_⟩
  · have hdie : (u.die d).replicas = (s.die d).replicas.filter fun l => l.line != line := by
      rw [hu, count_die, dropReplica_die]
      rfl
    intro q hq
    change q ∈ (u.die d).replicas at hq
    rw [hdie] at hq
    simpa using List.of_mem_filter hq
  · exact (congrArg State.mem hu).trans ((count_mem ..).trans (dropReplica_mem ..))

end collapse

/-! ### An eviction (R339, R343) -/

section eviction
variable {s : State} {line : Nat} {d : DieId} {v : SharedLine}

theorem evictionNotice_other (hv : victim (s.setWays d line) = some v) (hne : v.line ≠ line) : exec (.evictionNotice d line) s = .next s := by
  change execEvictionNotice d line s = _
  unfold execEvictionNotice
  rw [hv]
  exact congrArg Host.Outcome.next (if_neg hne)

theorem evictionNotice_evicts (hv : victim (s.setWays d line) = some v) (hline : v.line = line) : exec (.evictionNotice d line) s = .next (s.evict d v) := by
  change execEvictionNotice d line s = _
  unfold execEvictionNotice
  rw [hv]
  exact congrArg Host.Outcome.next (if_pos hline)

/-- A slice without a line. -/
def State.withoutLine (s : State) (d : DieId) (line : Nat) : State := s.mapDie d fun y => { y with shared := y.shared.filter fun o => o.line != line }

theorem withoutLine_shared (s : State) (d : DieId) (line : Nat) : ∀ q ∈ ((s.withoutLine d line).die d).shared, q.line ≠ line := by
  rw [State.withoutLine, die_mapDie_self]
  intro q hq
  simpa using List.of_mem_filter hq

theorem withoutLine_replicas (s : State) (d : DieId) (line : Nat) : ((s.withoutLine d line).die d).replicas = (s.die d).replicas :=
  die_mapDie_of (P := Die.replicas) (by intro _; rfl) s d d

theorem or_and_right_self (a b : BitVec 8) : (a ||| b) &&& b = b := by
  ext i hi
  rw [BitVec.getElem_and, BitVec.getElem_or, Bool.and_comm, Bool.and_or_distrib_left, Bool.and_self]
  cases b[i] <;> simp

/-- A line leaves the slice of its home, written back where it is dirty. -/
theorem evict_home (hhome : homeOf v.line = d) : ((s.evict d v).die d).replicas = (s.die d).replicas ∧ (∀ q ∈ ((s.evict d v).die d).shared, q.line ≠ v.line)
    ∧ (v.dirty ≠ 0 → ∃ m ∈ ((s.evict d v).die d).memside, m.line = v.line ∧ m.dirty &&& v.dirty = v.dirty) := by
  have hx : s.evict d v = (if v.dirty = 0 then s.withoutLine d v.line else (s.withoutLine d v.line).memTouch d v.line v.dirty).invalidateER d v.line 256 none := if_pos hhome
  have hshared := withoutLine_shared s d v.line
  rw [hx, die_of_dies (invalidateER_dies ..)]
  split
  next hclean => exact ⟨withoutLine_replicas .., hshared, fun hd => absurd hclean hd⟩
  next =>
    rw [State.memTouch, die_mapDie_self]
    refine ⟨withoutLine_replicas .., hshared, fun _ => ⟨_, List.mem_cons_self, rfl, or_and_right_self ..⟩⟩

/-- A fill that is to be installed on a die. -/
def Packet.promises (d : DieId) (line : Nat) : Packet → Bool
  | .fill _ e _ l g keep _ _ _ => e == d && l.line == line && g && keep
  | _ => false

theorem evictNotice_eq (s : State) (d : DieId) (line : Nat) : s.evictNotice d line = if s.net.any (Packet.promises d line) then s else s.mapDie (homeOf line) fun x =>
    { x with dir := mapIf (fun e => e.line == line && !e.coarse) (fun e => { e with holders := e.holders.erase d }) x.dir } := rfl

/-- A notice takes its die out of the directory. -/
theorem evictNotice_dir (hnone : ∀ q ∈ s.net, ∀ i j m p st cs, q = .fill i d j m true true p st cs → m.line ≠ line) (f : DirEntry)
    (hf : f ∈ ((s.evictNotice d line).die (homeOf line)).dir) (hline : f.line = line) (hcoarse : f.coarse = false) :
    ∃ f' ∈ (s.die (homeOf line)).dir, f'.line = line ∧ f.holders = f'.holders.erase d := by
  have hcoming : s.net.any (Packet.promises d line) = false := by
    refine List.any_eq_false.2 fun q hq h => ?_
    unfold Packet.promises at h
    split at h
    next i e j m g keep p st cs =>
      simp only [Bool.and_eq_true, beq_iff_eq] at h
      obtain ⟨⟨⟨rfl, hm⟩, rfl⟩, rfl⟩ := h
      exact hnone _ hq i j m p st cs rfl hm
    next => exact Bool.false_ne_true h
  rw [evictNotice_eq, hcoming, if_neg Bool.false_ne_true, die_mapDie_self] at hf
  obtain ⟨f', hmem, rfl⟩ := mem_mapIf hf
  split at hline
  next h =>
    rw [if_pos h]
    exact ⟨f', hmem, hline, rfl⟩
  next h =>
    rw [if_neg h] at hcoarse
    exact absurd (by simp [hline, hcoarse]) h

/-- A replica leaves its slice, with its notice. -/
theorem evict_replica (hhome : homeOf v.line ≠ d) : (∀ q ∈ ((s.evict d v).die d).replicas, q.line ≠ v.line) ∧ (∀ q ∈ ((s.evict d v).die d).shared, q.line ≠ v.line)
    ∧ ((∀ q ∈ s.net, ∀ i j m p st cs, q = .fill i d j m true true p st cs → m.line ≠ v.line) → ∀ f ∈ ((s.evict d v).die (homeOf v.line)).dir, f.line = v.line → f.coarse = false →
      ∃ f' ∈ (s.die (homeOf v.line)).dir, f'.line = v.line ∧ f.holders = f'.holders.erase d) := by
  have hx : s.evict d v = ((s.withoutLine d v.line).dropReplica d v.line).evictNotice d v.line := if_neg hhome
  have hnotice {α : Type} {P : Die → α} (h : ∀ (y : Die) l, P { y with dir := l } = P y) (u : State) : P ((u.evictNotice d v.line).die d) = P (u.die d) := by
    unfold State.evictNotice
    dsimp only
    split
    · rfl
    · exact die_mapDie_of (by intro _; exact h _ _) ..
  rw [hx]
  refine ⟨?_, ?_, fun hnone f hf hline hcoarse => ?_⟩
  · rw [hnotice (P := Die.replicas) (by intro _ _; rfl), dropReplica_die]
    intro q hq
    simpa using List.of_mem_filter hq
  · rw [hnotice (P := Die.shared) (by intro _ _; rfl), dropReplica_die]
    have h := withoutLine_shared s d v.line
    exact h
  · obtain ⟨f', hf', hl', hh⟩ := evictNotice_dir (s := (s.withoutLine d v.line).dropReplica d v.line) (fun q hq i j m p st cs hfill => by
      rcases (dropReplica_rilled ..).packets q hq with h | h
      · exact hnone q h i j m p st cs hfill
      · rw [hfill] at h; exact absurd h nofun) f hf hline hcoarse
    refine ⟨f', ?_, hl', hh⟩
    rw [State.dropReplica, die_of_dies (invalidateER_dies ..), die_mapDie_of (P := Die.dir) (by intro _; rfl), State.withoutLine, die_mapDie_of (P := Die.dir) (by intro _; rfl)] at hf'
    exact hf'

end eviction

/-! ### The end of an epoch (R349) -/

section epochs
variable {s : State} {d : DieId} {r : RegionEntry} {ctl : Word}

theorem epoch_pinned (h : r.pin = true) (ctl : Word) : r.epoch ctl = ({ r with rsh := 0, col := 0 }, false, false) := by
  unfold RegionEntry.epoch
  simp only [h, if_true]

theorem up_step : ∀ up : BitVec 2, BitVec.ofNat 2 (min (up.toNat + 1) 3) = if up.toNat = 0 then 1 else if up.toNat = 1 then 2 else 3 := by decide

/-- A region that is to rise counts an epoch more, or rises where it has counted enough and can. -/
theorem epoch_rises (hpin : r.pin = false) (hrsh : bits ctl 32 8 ≤ r.rsh.toNat) (hratio : r.col.toNat * 2 ^ bits ctl 28 4 < r.rsh.toNat) (hcol : r.col.toNat < bits ctl 40 8) :
    ∃ up, r.epoch ctl = (if r.up.toNat = 0 ∨ r.deg.toNat = 3 then
        { r with up := if r.up.toNat = 0 then 1 else if r.up.toNat = 1 then 2 else 3, down := 0, rsh := 0, col := 0 }
      else { r with deg := r.deg + 1, up := 0, down := 0, rsh := 0, col := 0 }, up, false) := by
  have hlow : ¬ bits ctl 40 8 ≤ r.col.toNat := by omega
  refine ⟨decide (2 ≤ min (r.up.toNat + 1) 3 ∧ r.deg.toNat < 3), ?_⟩
  have hdeg := r.deg.isLt
  by_cases h : r.up.toNat = 0 ∨ r.deg.toNat = 3
  · have hstay : ¬ (1 ≤ r.up.toNat ∧ r.deg.toNat < 3) := by omega
    have hstep := up_step r.up
    simp [RegionEntry.epoch, hpin, hrsh, hratio, hlow, hstay, h, hstep]
  · have hrise : 1 ≤ r.up.toNat ∧ r.deg.toNat < 3 := by omega
    simp [RegionEntry.epoch, hpin, hrsh, hratio, hlow, hrise, h, BitVec.ofNat_add]

theorem epochEnd_one (hpresent : (s.die d).present = true) (htick : s.tick % 2 ^ max 10 (bits (s.die d).regs.replctl 16 8) = 0) (hone : (s.die d).regions = [r]) {r' : RegionEntry}
    {up : Bool} (hr : r.epoch (s.die d).regs.replctl = (r', up, false)) (hix : r'.index = r.index) :
    Completes (.epochEnd d) s fun t => t.mem = s.mem ∧ (t.die d).region r.index = r' := by
  have hx : exec (.epochEnd d) s = .next (((s.withRegion d r').count d 4 0 5 (if up then 1 else 0)).count d 4 0 6 0) := by
    change execEpochEnd d s = _
    unfold execEpochEnd
    simp only [hpresent, htick, hone, List.foldl_cons, List.foldl_nil, hr]
    rfl
  refine completes_of hx ⟨by rw [count_mem, count_mem]; rfl, ?_⟩
  rw [count_die, count_die, State.withRegion, die_mapDie_self, ← hix]
  exact region_setRegion ..

end epochs

end Sys2Proof.Machine
end

section
/-! The events of the home slices (O51). -/

namespace Sys2Proof.Machine

/-- Settles O51: requests are performed through the lemmas of each home operation, replicas follow from what a slice's use of a line and an eviction leave
of a die, and a squash puts nothing on the net but messages of the rill. -/
theorem homeAndCoherenceEvents : Obligations.HomeAndCoherenceEvents := by
  unfold Obligations.HomeAndCoherenceEvents
  intro n id line loc z d e k strand x o op a bs nb s c p l g stale pref hint mask whos cols r rest v keep
  dsimp only
  refine ⟨grants_iff .., rfl, rfl, ?_, ?_, ?_, ?_, ?_, ?_, ?_, ?_, ?_, ?_, ?_, ?_, ?_, ?_, victim_none, victim_some, evictionNotice_other, ?_, ?_, ?_⟩
  · rintro ⟨harr, hm, hfirst⟩ ⟨hd, hs⟩ hz ha
    exact homeAtomic_amo ⟨harr, hm, hfirst⟩ hd hs hz ha
  · rintro ⟨harr, hm, hfirst⟩ ⟨hd, hs⟩ ha he
    exact homeFe_stFe ⟨harr, hm, hfirst⟩ hd hs ha he
  · rintro ⟨harr, hm, hfirst⟩ hq hlen hroom hapart
    exact homeQueue_put ⟨harr, hm, hfirst⟩ hq hlen hroom hapart
  · rintro ⟨harr, hm, hfirst⟩
    exact homeQueue_qstat ⟨harr, hm, hfirst⟩
  · rintro ⟨harr, hm, hfirst⟩ h
    exact homeBarrier_barr ⟨harr, hm, hfirst⟩ h
  · rintro harr hfree ⟨hc, -, -⟩ hsent
    exact homeReply_answers harr hfree hc hsent
  · exact pendingStore_performed
  · rintro harr ⟨hc, -, -⟩
    exact perf_frees harr hc
  · exact cack_waits
  · rintro harr hdue ⟨hc, -, -⟩ hcol
    exact cack_counts harr hdue hc hcol
  · exact remoteRead_fills
  · rintro harr hfree ⟨hc, -, -⟩ hsent hs hdata
    obtain ⟨t, hx, hnet, hmem, hheld, hpass, ho⟩ := fill_serves harr hfree hc hsent hs hdata
    refine ⟨t, hx, hnet, hmem, fun hg hno => hheld hg ?_, fun h => hpass (h.imp_right ?_), ho⟩
    · exact List.any_eq_false.2 fun q hq => by simpa using hno q hq
    · rintro ⟨q, hq, hline⟩
      exact List.any_eq_true.2 ⟨q, hq, beq_iff_eq.2 hline⟩
  · exact fill_prefetched
  · exact collapse_drops
  · rintro hv rfl hhome
    exact completes_of (evictionNotice_evicts hv rfl) ⟨evict_mem .., evict_home hhome⟩
  · rintro hv rfl hhome
    obtain ⟨hrep, hshared, hdir⟩ := evict_replica (s := s) hhome
    exact completes_of (evictionNotice_evicts hv rfl) ⟨hrep, evict_mem .., hshared, hdir⟩
  · intro hpresent htick hone
    refine ⟨fun hpin => ?_, fun hpin hrsh hratio hcol => ?_⟩
    · obtain ⟨t, hx, hmem, hregion⟩ := epochEnd_one hpresent htick hone (epoch_pinned hpin _) rfl
      exact ⟨t, hx, hregion, hmem⟩
    · obtain ⟨up, hr⟩ := epoch_rises hpin hrsh hratio hcol
      exact epochEnd_one hpresent htick hone hr (by split <;> rfl)

end Sys2Proof.Machine
end

section
/-! Copies and gathers complete at issue (R204 to R210; O25). -/

namespace Sys2Proof.Machine

/-! ### Only counts change -/

/-- `t` differs from `s` in its counters only. -/
def OnlyCounts (s t : State) : Prop := ∃ c, t = { s with ctr := c }

theorem OnlyCounts.refl (s : State) : OnlyCounts s s := ⟨s.ctr, rfl⟩

theorem OnlyCounts.trans {s t u : State} (h : OnlyCounts s t) (g : OnlyCounts t u) : OnlyCounts s u := by
  obtain ⟨c, rfl⟩ := h
  obtain ⟨c', rfl⟩ := g
  exact ⟨c', rfl⟩

theorem count_onlyCounts (s : State) (d : DieId) (kind inst ix n : Nat) : OnlyCounts s (s.count d kind inst ix n) := by
  unfold State.count
  split
  · exact .refl s
  · exact ⟨_, rfl⟩

theorem noteMig_onlyCounts (s : State) (p : Place) : OnlyCounts s (s.noteMig p) := by
  unfold State.noteMig
  split
  · exact count_onlyCounts ..
  · exact .refl s

theorem noteBarrier_onlyCounts (s : State) (bar : Option Place) : OnlyCounts s (s.noteBarrier bar) := by
  cases bar with
  | none => exact .refl s
  | some p => exact noteMig_onlyCounts s p

/-- Accesses without an A or D bit to set are counted only. -/
theorem marks_onlyCounts (l : List (Place × Bool)) (h : ∀ x ∈ l, x.1.Marked x.2) (s : State) :
    OnlyCounts s (l.foldl (fun s p => (s.markAccess p.1 p.2).noteMig p.1) s) := by
  induction l generalizing s with
  | nil => exact .refl s
  | cons x l ih =>
    rw [List.foldl_cons, markAccess_marked s _ _ (h x List.mem_cons_self)]
    exact (noteMig_onlyCounts ..).trans (ih (fun y hy => h y (List.mem_cons_of_mem _ hy)) _)

theorem markRows_onlyCounts {rs : List RowPlan} (h : ∀ r ∈ rs, r.Marked) (s : State) : OnlyCounts s (s.markRows rs) := by
  refine marks_onlyCounts _ (fun x hx => ?_) s
  obtain ⟨l, hl, hx⟩ := List.mem_flatten.1 hx
  obtain ⟨r, hr, rfl⟩ := List.mem_map.1 hl
  obtain ⟨hreads, hwrites⟩ := h r hr
  rcases List.mem_append.1 hx with hx | hx
  · obtain ⟨p, hp, rfl⟩ := List.mem_map.1 hx
    exact hreads p hp
  · obtain ⟨p, hp, rfl⟩ := List.mem_map.1 hx
    exact hwrites p hp

/-! ### The range of an interlock entry -/

theorem foldl_min_le (rs : List (Nat × Nat)) (a : Nat) : rs.foldl (fun m r => min m r.1) a ≤ a ∧ ∀ r ∈ rs, rs.foldl (fun m r => min m r.1) a ≤ r.1 := by
  induction rs generalizing a with
  | nil => exact ⟨Nat.le_refl a, nofun⟩
  | cons x rs ih =>
    obtain ⟨ha, hr⟩ := ih (min a x.1)
    refine ⟨Nat.le_trans ha (Nat.min_le_left ..), fun r hmem => ?_⟩
    rcases List.mem_cons.1 hmem with rfl | hmem
    · exact Nat.le_trans ha (Nat.min_le_right ..)
    · exact hr r hmem

theorem le_foldl_max (rs : List (Nat × Nat)) (a : Nat) : a ≤ rs.foldl (fun m r => max m (r.1 + r.2)) a ∧ ∀ r ∈ rs, r.1 + r.2 ≤ rs.foldl (fun m r => max m (r.1 + r.2)) a := by
  induction rs generalizing a with
  | nil => exact ⟨Nat.le_refl a, nofun⟩
  | cons x rs ih =>
    obtain ⟨ha, hr⟩ := ih (max a (x.1 + x.2))
    refine ⟨Nat.le_trans (Nat.le_max_left ..) ha, fun r hmem => ?_⟩
    rcases List.mem_cons.1 hmem with rfl | hmem
    · exact Nat.le_trans (Nat.le_max_right ..) ha
    · exact hr r hmem

/-- The smallest range that holds some ranges holds each that is not empty. -/
theorem hull_covers (l : List (Nat × Nat)) : ∀ r ∈ l, (hull l).1 ≤ r.1 ∧ r.1 + r.2 ≤ (hull l).1 + (hull l).2 ∨ r.2 = 0 := by
  intro r hr
  by_cases h0 : r.2 = 0
  · exact .inr h0
  refine .inl ?_
  have hmem : r ∈ l.filter fun r => r.2 != 0 := List.mem_filter.2 ⟨hr, by simpa using h0⟩
  unfold hull
  cases hf : l.filter fun r => r.2 != 0 with
  | nil => rw [hf] at hmem; exact absurd hmem List.not_mem_nil
  | cons x xs =>
    rw [hf] at hmem
    dsimp only
    obtain ⟨hlo, hlos⟩ := foldl_min_le xs x.1
    obtain ⟨hhi, hhis⟩ := le_foldl_max xs (x.1 + x.2)
    rcases List.mem_cons.1 hmem with rfl | hmem
    · omega
    · have := hlos r hmem
      have := hhis r hmem
      omega

/-! ### What is sent -/

/-- A strip of some rows that is sent. -/
structure Strip.Sent (st : Strip) (s : State) (kind : IlkKind) (bar : Option Place) (rs : List RowPlan) : Prop where
  id : st.id = s.serial
  kind : st.kind = kind
  owner : st.owner = some (s.me.die, s.me.slot)
  barrier : st.barrier = bar.map (·.loc)
  bytes : st.bytes = (rs.map (·.dn)).sum
  status : st.status = 0
  moves : st.moves = (rs.map (·.moves)).flatten

/-- An interlock entry that covers some rows. -/
structure Ilk.Over (e : Ilk) (s : State) (kind : IlkKind) (rs : List RowPlan) : Prop where
  id : e.id = s.serial
  kind : e.kind = kind
  covers : ∀ r ∈ rs, e.dst ≤ r.dst ∧ r.dst + r.dn ≤ e.dst + e.dlen ∨ r.dn = 0

/-- A state with new counters, a new entry and a packet sent. -/
def State.launched (s : State) (c : List (Nat × Word)) (e : Ilk) (p : Packet) : State := (({ s with ctr := c, serial := s.serial + 1 } : State).addIlk e).send p

section issue
variable {s : State} {rs : List RowPlan} {bar : Option Place}

theorem sum_bytes (rs : List RowPlan) : rs.foldl (fun n r => n + r.dn) 0 = (rs.map (·.dn)).sum := by
  rw [List.sum_eq_foldl, List.foldl_map]

theorem hull_covers_rows {g : RowPlan → Nat} (hg : ∀ r ∈ rs, g r = r.dn) :
    ∀ r ∈ rs, (hull (rs.map fun r => (r.dst, g r))).1 ≤ r.dst ∧ r.dst + r.dn ≤ (hull (rs.map fun r => (r.dst, g r))).1 + (hull (rs.map fun r => (r.dst, g r))).2 ∨ r.dn = 0 := by
  intro r hr
  have h := hull_covers (rs.map fun r => (r.dst, g r)) _ (List.mem_map_of_mem hr)
  dsimp only at h
  rwa [hg r hr] at h

/-- The entry and the strip of some rows. -/
def State.ilkOf (s : State) (kind : IlkKind) (src dst es ed : Nat × Nat) : Ilk := ⟨kind, s.serial, src.1, src.2, dst.1, dst.2, es.1, es.2, ed.1, ed.2⟩
def State.stripOf (s : State) (kind : IlkKind) (unit : DieId × Nat) (place : Option ETy) (bar : Option Place) (bytes : Nat) (rs : List RowPlan) : Strip :=
  ⟨s.serial, kind, some (s.me.die, s.me.slot), unit.1, unit.2, (rs.map (·.moves)).flatten, place, bar.map (·.loc), bytes, 0, [], [], 0, some s.me.strand, s.me.deadline⟩

theorem stripOf_sent {kind : IlkKind} {unit : DieId × Nat} {place : Option ETy} {bytes : Nat} (h : bytes = (rs.map (·.dn)).sum) :
    (s.stripOf kind unit place bar bytes rs).Sent s kind bar rs := ⟨rfl, rfl, rfl, rfl, h, rfl, rfl⟩

/-- The marks and counts of rows that are sent. -/
theorem noted_rows (hm : ∀ r ∈ rs, r.Marked) : ∃ c, (s.markRows rs).noteBarrier bar = { s with ctr := c } :=
  (markRows_onlyCounts hm s).trans (noteBarrier_onlyCounts _ bar)

theorem sendStrip_sends (k : CpKind) (place : Option ETy) (len : Nat) (hne : rs ≠ []) (hm : ∀ r ∈ rs, r.Marked) :
    ∃ c e st, s.sendStrip k place bar len rs = s.launched c e (.strip st) ∧ e.Over s k.ilk rs ∧ st.Sent s k.ilk bar rs := by
  obtain ⟨c, hc⟩ := noted_rows (s := s) (bar := bar) hm
  have hempty : rs.isEmpty = false := by simpa using hne
  refine ⟨c, s.ilkOf k.ilk (hull (rs.map fun r => (r.src, len))) (hull (rs.map fun r => (r.dst, r.dn))) (hull (rs.map (·.esrc))) (hull (rs.map (·.edst))),
    s.stripOf k.ilk (k.streamer ((rs.map (·.moves)).flatten.headD ⟨0, 0, 0, none, 0⟩)) place bar (rs.foldl (fun n r => n + r.dn) 0) rs, ?_,
    ⟨rfl, rfl, hull_covers_rows (g := RowPlan.dn) fun _ _ => rfl⟩, stripOf_sent (sum_bytes rs)⟩
  unfold State.sendStrip
  rw [hempty, if_neg Bool.false_ne_true, hc]
  rfl

theorem sendGather_sends {es : Nat} (unit : DieId) (hne : rs ≠ []) (hm : ∀ r ∈ rs, r.Marked) (hes : ∀ r ∈ rs, r.dn = es) :
    ∃ c e st, s.sendGather es unit bar rs = s.launched c e (.gather st) ∧ e.Over s .gx rs ∧ st.Sent s .gx bar rs := by
  obtain ⟨c, hc⟩ := noted_rows (s := s) (bar := bar) hm
  have hempty : rs.isEmpty = false := by simpa using hne
  have hsum : rs.length * es = (rs.map (·.dn)).sum := by
    rw [List.map_congr_left hes, List.map_const', List.sum_replicate, smul_eq_mul]
  refine ⟨c, s.ilkOf .gx (hull (rs.map fun r => (r.src, es))) (hull (rs.map fun r => (r.dst, es))) (0, 0) (0, 0), s.stripOf .gx (unit, 0) none bar (rs.length * es) rs, ?_,
    ⟨rfl, rfl, hull_covers_rows (g := fun _ => es) fun r hr => (hes r hr).symm⟩, stripOf_sent hsum⟩
  unfold State.sendGather
  rw [hempty, if_neg Bool.false_ne_true, hc]
  rfl

theorem net_of_outside {t v : State} (h : t.outside = v.outside) : t.net = v.net := (congrArg State.net h : t.outside.net = v.outside.net)

/-- The end of an element-wise instruction: RIDX is 0, and the slot goes on. -/
theorem doneElems_effect (u : State) : Passed u u.doneElems 4 ∧ u.doneElems.me.img.ridx = 0 ∧ u.doneElems.me.still.noRidx = u.me.still.noRidx
    ∧ u.doneElems.me.ilk = u.me.ilk ∧ u.doneElems.net = u.net := by
  unfold State.doneElems State.done4
  obtain ⟨w, hw⟩ : ∃ w, w = u.mapMe fun c => c.setRidx 0 := ⟨_, rfl⟩
  rw [← hw]
  obtain ⟨hp, hk⟩ := advance_keeps w 4 id
  have hslot : (w.advance 4).me.still = w.me.still := hk.slot
  have hilk : (w.advance 4).me.ilk = w.me.ilk := (congrArg Ctx.ilk hslot : (w.advance 4).me.still.ilk = w.me.still.ilk)
  have hridx : (w.advance 4).me.img.ridx = w.me.img.ridx := (congrArg (fun c => c.img.ridx) hslot : (w.advance 4).me.still.img.ridx = w.me.still.img.ridx)
  refine ⟨?_, hridx.trans (by rw [hw]; rfl), (congrArg Ctx.noRidx hslot).trans (by rw [hw]; rfl), hilk.trans (by rw [hw]; rfl), (net_of_outside hk.outside).trans (by rw [hw]; rfl)⟩
  exact Eq.trans hp (by rw [hw]; rfl)

theorem launched_me (s : State) (c : List (Nat × Word)) (e : Ilk) (pk : Packet) : (s.launched c e pk).me = { s.me with ilk := s.me.ilk ++ [e] } := rfl
theorem launched_mem (s : State) (c : List (Nat × Word)) (e : Ilk) (pk : Packet) : (s.launched c e pk).mem = s.mem := rfl
theorem launched_net (s : State) (c : List (Nat × Word)) (e : Ilk) (pk : Packet) : (s.launched c e pk).net = s.net ++ [pk] := rfl

/-- What a copy or a gather leaves that has issued. -/
theorem launched_issues (c : List (Nat × Word)) (e : Ilk) (pk : Packet) : SameMemory s (s.launched c e pk).doneElems ∧ Passed s (s.launched c e pk).doneElems 4
    ∧ (s.launched c e pk).doneElems.me.img.ridx = 0 ∧ SlotKept s (s.launched c e pk).doneElems (Ctx.noIlk ∘ Ctx.noRidx)
    ∧ (s.launched c e pk).doneElems.me.ilk = s.me.ilk ++ [e] ∧ (s.launched c e pk).doneElems.net = s.net ++ [pk] := by
  have hme := launched_me s c e pk
  have hmem := launched_mem s c e pk
  have hnet := launched_net s c e pk
  generalize s.launched c e pk = u at hme hmem hnet ⊢
  obtain ⟨hp, hridx, hslot, hilk, hunet⟩ := doneElems_effect u
  refine ⟨sameMemory_of_mem ((doneElems_mem u).trans hmem), ?_, hridx, ?_, hilk.trans (by rw [hme]), hunet.trans hnet⟩
  · exact Eq.trans hp (by rw [hme])
  · have hkept := congrArg (fun c : Ctx => c.noCounts.noIlk) hslot
    rw [hme] at hkept
    exact hkept

/-! ### The checks at issue -/

theorem checks_pass {f : State → State} {l : List (Bool × Trap)} (h : ∀ x ∈ l, x.1 = false) : s.checks f l = f s := by
  induction l with
  | nil => rfl
  | cons x l ih =>
    obtain ⟨bad, t⟩ := x
    have hbad : bad = false := h (bad, t) List.mem_cons_self
    rw [State.checks, hbad, if_neg Bool.false_ne_true]
    exact ih fun y hy => h y (List.mem_cons_of_mem _ hy)

/-- A barrier operand that passes its checks: none, or the place of its word. -/
def State.OnBarrier (s : State) (va : Word) (bar : Option Place) : Prop :=
  (va = 0 ∧ bar = none) ∨ (va ≠ 0 ∧ va.toNat < 2 ^ 55 ∧ va.toNat % 16 = 0 ∧ ∃ q, bar = some q ∧ s.look .rw 0 va 16 = .ok q ∧ q.Marked true)

theorem barrierOf_passes {va : Word} {f : State → Option Place → State} (h : s.OnBarrier va bar) : s.barrierOf va f = f s bar := by
  unfold State.barrierOf
  rcases h with ⟨rfl, rfl⟩ | ⟨hne, hlt, hal, q, rfl, hlook, hm⟩
  · exact if_pos rfl
  · rw [if_neg hne, if_neg (by omega), hlook]
    dsimp only
    rw [markAccess_marked s q true hm, ite_self]

theorem entryFree_passes {f : State → State} (h : s.me.ilk.length < 8) : s.entryFree f = f s := if_pos h

end issue

/-! ### Copies -/

section copies
variable {s : State} {d a b : SReg} {x : OxReg} {rec at_ : Word} {rs : List RowPlan} {bar : Option Place}

theorem copy_issues {k : CpKind} {place : Option ETy} (hc : s.me.chunk = none) (hilk : s.me.ilk.length < 8) (hne : rs ≠ []) (hm : ∀ r ∈ rs, r.Marked) (hbar : s.OnBarrier (s.getS b) bar)
    (hox : s.OxHolds x .shape rec) (hplace : place = if bitAt rec 63 then some (ETy.ofCode (bits rec 59 4)) else none)
    (hal : ∀ u ∈ [s.getS d, s.getS a, (BitVec.ofNat 20 (bits rec 36 20)).signExtend 64, (BitVec.ofNat 20 (bits rec 16 20)).signExtend 64], u.toNat % 2 ^ bits rec 56 3 = 0)
    (hsrc : inSpace k.srcTile (s.getS a) = true) (hdst : inSpace k.dstTile (s.getS d) = true) (hout : ¬ (k = .cpOut ∧ place.isSome))
    (hplan : s.planRows (fun r => s.planRow k place (bits rec 0 11) (s.getS a + word r * (BitVec.ofNat 20 (bits rec 16 20)).signExtend 64)
      (s.getS d + word r * (BitVec.ofNat 20 (bits rec 36 20)).signExtend 64)) (upFrom s.me.ridx (s.me.vl - s.me.ridx)) = (rs, none)) :
    ∃ c e st, s.copy k d a b x = .next (s.launched c e (.strip st)).doneElems ∧ e.Over s k.ilk rs ∧ st.Sent s k.ilk bar rs := by
  obtain ⟨c, e, st, hsend, he, hst⟩ := sendStrip_sends (s := s) (bar := bar) k place (bits rec 0 11) hne hm
  obtain ⟨hkind, hbad, rfl⟩ := hox
  simp only [List.forall_mem_cons] at hal
  obtain ⟨hd, ha, hds, hss, -⟩ := hal
  have hox : ¬ (s.me.ox[x].kind.toNat ≠ OxKind.code .shape ∨ s.me.ox[x].bad = true) := not_or.2 ⟨not_not.2 hkind, Bool.eq_false_iff.1 hbad⟩
  have hcheck : (k == .cpOut && place.isSome) = false := by simpa using hout
  refine ⟨c, e, st, ?_, he, hst⟩
  unfold State.copy State.ox
  simp only [if_neg hox, sextN_eq_ofNat _ (show 0 < 20 by decide) (show 20 ≤ 64 by decide), ← hplace]
  rw [checks_pass, barrierOf_passes hbar, held_serial _ _ hc, entryFree_passes hilk, hplan, ← hsend]
  · rfl
  · simp only [List.forall_mem_cons, hd, ha, hds, hss, hsrc, hdst, hcheck, bne_self_eq_false, Bool.not_true, true_and]
    exact nofun

end copies

/-! ### Gathers -/

section gathers
variable {s : State} {a b : SReg} {v : VReg} {wd : Wid} {z : Sz} {x : OxReg} {at_ : Word} {rs : List RowPlan} {bar : Option Place} {p : Place}

/-- Every row of a plan has been planned. -/
theorem planRows_mem {f : Nat → Except Look RowPlan} {is : List Nat} : ∀ r ∈ (s.planRows f is).1, ∃ i, f i = .ok r := by
  induction is with
  | nil => exact nofun
  | cons i is ih =>
    intro r hr
    rw [State.planRows] at hr
    split at hr
    · exact absurd hr List.not_mem_nil
    next q hq =>
      split at hr
      · exact absurd hr List.not_mem_nil
      · rcases List.mem_cons.1 hr with rfl | hr
        · exact ⟨i, hq⟩
        · exact ih r hr

theorem planElems_dn {es : Nat} {sa sb : Word} {is : List Nat} {stop : Option (Nat × Look)} (h : s.planElems v wd es sa sb is = (rs, stop)) : ∀ r ∈ rs, r.dn = es := by
  intro r hr
  have hmem : r ∈ (s.planElems v wd es sa sb is).1 := by rw [h]; exact hr
  obtain ⟨i, hi⟩ := planRows_mem r hmem
  dsimp only at hi
  split at hi
  · exact absurd hi nofun
  · split at hi
    · exact absurd hi nofun
    · split at hi
      · exact (congrArg RowPlan.dn (Except.ok.inj hi)).symm
      · exact absurd hi (by intro h; cases h)

theorem gx_issues (hc : s.me.chunk = none) (hilk : s.me.ilk.length < 8) (hne : rs ≠ []) (hm : ∀ r ∈ rs, r.Marked) (hbar : s.OnBarrier at_ bar) (hox : s.OxHolds x .raw at_)
    (hgroup : v.val + max 1 ((s.me.vl * (8 * wd.bytes) + 2047) / 2048) ≤ 32) (hal : (s.getS b).toNat % z.bytes = 0) (hspace : inSpace true (s.getS b) = true)
    (hplace : s.placeOf s.me .w 3 (s.getS b) = .ok p) (hbank : oneBank (p.loc + s.me.ridx * z.bytes) ((s.me.vl - s.me.ridx) * z.bytes) = true)
    (hplan : s.planElems v wd z.bytes (s.getS a) (s.getS b) (upFrom s.me.ridx (s.me.vl - s.me.ridx)) = (rs, none)) :
    ∃ c e st, exec (.gx v a b wd z x) s = .next (s.launched c e (.gather st)).doneElems ∧ e.Over s .gx rs ∧ st.Sent s .gx bar rs := by
  obtain ⟨c, e, st, hsend, he, hst⟩ := sendGather_sends (s := s) (bar := bar) (s.gatherDie (s.getS a)) hne hm (planElems_dn hplan)
  obtain ⟨hkind, hbad, rfl⟩ := hox
  have hox : ¬ (s.me.ox[x].kind.toNat ≠ OxKind.code .raw ∨ s.me.ox[x].bad = true) := not_or.2 ⟨not_not.2 hkind, Bool.eq_false_iff.1 hbad⟩
  refine ⟨c, e, st, ?_, he, hst⟩
  change execGx v a b wd z x s = _
  unfold execGx State.ox
  simp only [if_neg hox, if_neg (Nat.not_lt.2 hgroup)]
  rw [checks_pass, hplace]
  · simp only [hbank, Bool.not_true, Bool.false_eq_true, and_false, if_false]
    rw [barrierOf_passes hbar, held_serial _ _ hc, entryFree_passes hilk, hplan, ← hsend]
    rfl
  · simp only [List.forall_mem_cons, hal, hspace, bne_self_eq_false, Bool.not_true, true_and]
    exact nofun

end gathers

/-- Settles O25: a plan whose rows all pass is launched as one strip, with one interlock entry that covers the rows; its marks and counts touch counters only. -/
theorem transfersIssueAStrip : Obligations.TransfersIssueAStrip := by
  unfold Obligations.TransfersIssueAStrip
  intro d a b v wd z x s rec rs p bar at_
  dsimp only
  intro hc hilk hne hm hbar
  refine ⟨fun i kind hi hox hat hal hsrc hdst hout hplan => ?_, fun hox hgroup hal hspace hplace hbank hplan => ?_⟩
  · subst hat
    obtain ⟨c, e, st, hx, ⟨heid, hekind, hcovers⟩, ⟨hid, hkind, howner, hb, hbytes, hst, hmoves⟩⟩ := copy_issues hc hilk hne hm hbar hox rfl hal hsrc hdst hout hplan
    have hexec : exec i s = s.copy kind d a b x := by
      simp only [List.mem_cons, Prod.mk.injEq, List.not_mem_nil, or_false] at hi
      rcases hi with ⟨rfl, rfl⟩ | ⟨rfl, rfl⟩ | ⟨rfl, rfl⟩ <;> rfl
    obtain ⟨hmem, hpc, hridx, hkept, hilks, hnet⟩ := launched_issues (s := s) c e (.strip st)
    refine completes_of (hexec.trans hx) ⟨hmem, hpc, hridx, hkept, st, e, hid, hkind, howner, hb, hbytes, hst, hmoves, heid, hekind, hilks, hcovers, ?_⟩
    rw [hnet, if_neg (by cases kind <;> decide)]
  · obtain ⟨c, e, st, hx, ⟨heid, hekind, hcovers⟩, ⟨hid, hkind, howner, hb, hbytes, hst, hmoves⟩⟩ := gx_issues hc hilk hne hm hbar hox hgroup hal hspace hplace hbank hplan
    obtain ⟨hmem, hpc, hridx, hkept, hilks, hnet⟩ := launched_issues (s := s) c e (.gather st)
    refine completes_of hx ⟨hmem, hpc, hridx, hkept, st, e, hid, hkind, howner, hb, hbytes, hst, hmoves, heid, hekind, hilks, hcovers, ?_⟩
    rw [hnet, if_pos rfl]

end Sys2Proof.Machine
end

section
/-! SUPPORT. Bytes performed at home for an agent, and the bytes it reads there (R205, R218, R345). -/

namespace Sys2Proof.Machine

/-! ### Lost data -/

section lost
variable {s t : State}

theorem OnlyDies.lost (h : OnlyDies s t) : t.lost = s.lost := by obtain ⟨v, rfl⟩ := h; rfl

/-- A fold of steps that change dies only, where no chunk runs. -/
theorem foldl_onlyDies {α : Type} {f : State → α → State} (h : ∀ t x, t.Serial → OnlyDies t (f t x)) (l : List α) {s : State} (hs : s.Serial) : OnlyDies s (l.foldl f s) := by
  induction l generalizing s with
  | nil => exact .refl s
  | cons x l ih => exact (h s x hs).trans (ih ((h s x hs).serial hs))

theorem invalidate_onlyDies (hs : s.Serial) (on : Ctx → Bool) (loc n : Nat) (but : Option Word) : OnlyDies s (s.invalidate on loc n but) := by
  rw [invalidate_serial hs]
  exact .refl s

theorem invalidateTile_onlyDies (hs : s.Serial) (loc n : Nat) (but : Option Word) : OnlyDies s (s.invalidateTile loc n but) := by
  unfold State.invalidateTile
  dsimp only
  rw [invalidate_serial hs]
  refine foldl_onlyDies (fun t line ht => onlyDies_of_ite ?_ (.refl t)) _ hs
  exact (onlyDies_mapDie ..).trans (invalidate_onlyDies (serial_mapDie ht ..) ..)

theorem squashReaders_lost (hs : s.Serial) (loc n : Nat) (own : List Word) (but : Option Word) : (s.squashReaders loc n own but).lost = s.lost := by
  have hread : OnlyDies s (if isTile loc then s.invalidateTile loc n but
      else (allDies.filter fun d => !((s.die d).replicas.any fun l => [lineOf loc, lineOf (loc + n - 1)].contains l.line)).foldl
        (fun s d => s.invalidateER d loc n but) s) :=
    onlyDies_of_ite (invalidateTile_onlyDies hs ..) (foldl_onlyDies (fun t d ht => invalidate_onlyDies ht ..) _ hs)
  unfold State.squashReaders
  dsimp only
  generalize (if isTile loc then s.invalidateTile loc n but else _) = r at hread ⊢
  rw [← hread.lost]
  split <;> rfl

theorem dirtied_onlyDies (hs : s.Serial) (loc n : Nat) : OnlyDies s (s.dirtied loc n) :=
  onlyDies_of_ite (.refl s) (foldl_onlyDies (fun _ _ ht => touch_onlyDies ht ..) _ hs)

theorem loseResv_lost (s : State) (loc n : Nat) : (s.loseResv loc n).lost = s.lost := by
  refine foldl_keeps State.lost _ (fun t r => ?_) _ _
  dsimp only
  split <;> rfl

theorem loseResv_crew (s : State) (loc n : Nat) : (s.loseResv loc n).crew = s.crew := dropResv_crew _

theorem collapseLine_lost (s : State) (line : Nat) (who : Requester) : (s.collapseLine line who).1.lost = s.lost := by
  have hjoin (late : List DieId) (u : State) (hu : u.lost = s.lost) : (late.foldl (fun (t : State) (d : DieId) =>
      { t with net := mapFirst (fun p => p.collapsing line d) (fun p => p.join who.each) t.net }) u).lost = s.lost := by
    rw [← hu]
    exact foldl_keeps State.lost _ (by intro _ _; rfl) late u
  unfold State.collapseLine
  refine hjoin _ _ ?_
  split
  · rfl
  · exact count_lost ..

theorem writeBytes_lost (hs : s.Serial) (loc : Nat) (bs : List Byte) (who : Requester) (but : Option Word) : ∀ a ∈ (s.writeBytes loc bs who but).lost, a ∈ s.lost := by
  unfold State.writeBytes
  dsimp only
  obtain ⟨l, hl, hsub⟩ : ∃ l, l = (if s.lost.isEmpty then [] else s.lost.filter fun a => a / 8 * 8 < loc || loc + bs.length < a / 8 * 8 + 8) ∧ ∀ a ∈ l, a ∈ s.lost := by
    refine ⟨_, rfl, fun a ha => ?_⟩
    split at ha
    · exact absurd ha List.not_mem_nil
    · exact List.mem_of_mem_filter ha
  rw [← hl]
  obtain ⟨u, hu⟩ : ∃ u : State, u = { s with mem := memWrite s.mem loc bs, lost := l } := ⟨_, rfl⟩
  have hser : u.Serial := by rw [hu]; exact hs
  rw [← hu]
  have hlose : (u.loseResv loc bs.length).Serial := serial_of_crew (loseResv_crew ..) hser
  have hread : ((u.loseResv loc bs.length).squashReaders loc bs.length (u.strandsOf who) but).Serial := serial_of_crew (squashReaders_crew hlose ..) hlose
  rw [(dirtied_onlyDies hread ..).lost, squashReaders_lost hlose, loseResv_lost, hu]
  exact hsub

/-- A write loses no data. -/
theorem performWrite_lost (hs : s.Serial) (loc : Nat) (bs : List Byte) (who : Requester) (but : Option Word) : ∀ a ∈ (s.performWrite loc bs who but).1.lost, a ∈ s.lost := by
  have hwrite := writeBytes_lost hs loc bs who but
  unfold State.performWrite
  dsimp only
  split
  · exact hwrite
  · split
    · rwa [collapseLine_lost]
    · rwa [collapseLine_lost, collapseLine_lost]

end lost

/-! ### Bytes performed for an agent -/

section land
variable {s : State} {loc : Nat}

/-- The parts of a write, one for each sector, together write it. -/
theorem bySector_get {m : List Host.Cell} (hm : Memory.wf m = true) (loc fuel : Nat) (bs : List Byte) (hf : bs.length < fuel) (a : Nat) :
    memGet ((bySector loc fuel bs).foldl (fun m p => memWrite m p.1 p.2) m) a = if loc ≤ a ∧ a < loc + bs.length then (bs[a - loc]?).getD 0 else memGet m a := by
  induction fuel generalizing loc bs m with
  | zero => omega
  | succ fuel ih =>
    unfold bySector
    dsimp only
    split
    next hshort => exact memGet_memWrite _ _ _ hm
    next hlong =>
      have hn : 0 < 32 - loc % 32 := by omega
      generalize 32 - loc % 32 = n at hlong hn ⊢
      have hlen : (bs.take n).length = n := by rw [List.length_take]; omega
      rw [List.foldl_cons, ih (memWrite_wf _ _ hm) _ _ (by rw [List.length_drop]; omega), memGet_memWrite _ _ _ hm, hlen, List.length_drop, List.getElem?_drop]
      by_cases h1 : loc + n ≤ a ∧ a < loc + bs.length
      · rw [if_pos (by omega), if_pos (by omega), show n + (a - (loc + n)) = a - loc by omega]
      · rw [if_neg (by omega)]
        by_cases h2 : loc ≤ a ∧ a < loc + n
        · rw [if_pos h2, if_pos (by omega), List.getElem?_take_of_lt (by omega)]
        · rw [if_neg h2, if_neg (by omega)]

theorem landBytes_eq (hd : isDevice loc = false) (bs : List Byte) (who : Requester) :
    s.landBytes loc bs who = (bySector loc (bs.length + 1) bs).foldl (fun s p => (s.performWrite p.1 p.2 who).1) s := if_neg (by rw [hd]; decide)

theorem landBytes_get (hd : isDevice loc = false) (hm : s.MemOk) (bs : List Byte) (who : Requester) (a : Nat) :
    memGet (s.landBytes loc bs who).mem a = if loc ≤ a ∧ a < loc + bs.length then (bs[a - loc]?).getD 0 else memGet s.mem a := by
  have hmem : (s.landBytes loc bs who).mem = (bySector loc (bs.length + 1) bs).foldl (fun m p => memWrite m p.1 p.2) s.mem := by
    rw [landBytes_eq hd]
    exact (List.foldl_hom State.mem fun t p => (performWrite_mem t p.1 p.2 who none).symm).symm
  rw [hmem]
  exact bySector_get hm loc _ bs (Nat.lt_succ_self _) a

theorem landBytes_crew (hd : isDevice loc = false) (hs : s.Serial) (bs : List Byte) (who : Requester) : (s.landBytes loc bs who).crew = s.crew := by
  rw [landBytes_eq hd]
  exact foldl_crew (fun t p ht => performWrite_crew ht p.1 p.2 who none) _ hs

end land

/-! ### Bytes that an agent reads -/

section reads
variable {s : State}

/-- A range within a page that begins outside device space stays outside it. -/
theorem page_not_device {loc n : Nat} (hd : isDevice loc = false) (hn : loc % 65536 + n ≤ 65536) : ∀ a, loc ≤ a → a < loc + n → isDevice a = false := by
  intro a h1 h2
  simp only [isDevice, Bool.and_eq_false_iff, decide_eq_false_iff_not] at hd ⊢
  omega

theorem bytesAt_of_sound {loc n : Nat} (hd : ∀ a, loc ≤ a → a < loc + n → isDevice a = false) (hs : s.Sound loc n) : s.bytesAt loc n = (memBytes s.mem loc n).map some := by
  rw [← homeBytes_of_sound hs]
  exact upFrom_map_congr fun a h1 h2 => if_neg (by rw [hd a h1 h2]; decide)

/-- A range in one piece: the whole of it, within a page. -/
theorem spanAll_single {k : AccessKind} {va : Word} {fuel n m : Nat} {p : Place} (hf : 2 ≤ fuel) (h : s.spanAll k va fuel n = .ok [(p, m)]) :
    m = n ∧ p.loc % 65536 + n ≤ 65536 := by
  obtain ⟨fuel, rfl⟩ : ∃ f, fuel = f + 2 := ⟨fuel - 2, by omega⟩
  have hmod := va.toNat.mod_lt (show 0 < 65536 by decide)
  rw [State.spanAll] at h
  split at h
  · cases h
  next hn =>
    dsimp only at h
    split at h
    next q hq =>
      split at h
      next l hl =>
        obtain ⟨⟨rfl, rfl⟩, rfl⟩ : (q = p ∧ min n (65536 - va.toNat % 65536) = m) ∧ l = [] := by
          simpa using h
        rw [State.spanAll] at hl
        split at hl
        next hrest =>
          have hplace := placeOf_mod (look_place hq)
          omega
        · dsimp only at hl
          split at hl
          · split at hl
            · cases hl
            · cases hl
          · cases hl
      · cases h
    · cases h

end reads

end Sys2Proof.Machine
end

section
/-! Collectives (R218, R219, R447; O30). -/

namespace Sys2Proof.Machine

/-! ### Bytes posted on a barrier of the slot's die -/

section post
variable {s u : State} {p : Place} {bytes : Nat}

/-- `u` is `s` with bytes posted on the barrier at `p`, but for what the slot notes and counts. -/
structure Posted (s u : State) (p : Place) (bytes : Nat) : Prop where
  like : Like s u
  ilk : u.me.ilk = s.me.ilk
  serial : u.Serial
  groups : s.SameGroups u
  stored : Stored s u p.loc 8 (numAt s.mem p.loc 8 + bytes)
  memOk : u.MemOk
  lost : ∀ a ∈ u.lost, a ∈ s.lost

theorem creditPerf_lost (s : State) (who : Requester) (m : BitVec 16) (remote : Bool) : (s.creditPerf who m remote).lost = s.lost := by
  unfold State.creditPerf State.mapCtx
  split
  · split <;> rfl
  · rfl

theorem setBar_lost (hs : s.Serial) (asker : Asker) (loc : Nat) (b : Bar) : ∀ a ∈ (s.setBar asker loc b false).lost, a ∈ s.lost := by
  unfold State.setBar
  rw [creditPerf_lost]
  exact performWrite_lost hs loc (w64 b.word) asker.who none

theorem setBar_groups (asker : Asker) (loc : Nat) (b : Bar) (done : Bool) : s.SameGroups (s.setBar asker loc b done) :=
  sameGroups_trans (putBar_groups _ _ _ _ _) (sameGroups_of_shell (shell_of_hull (creditPerf_hull ..)))

/-- The word of a barrier after some bytes are posted. -/
theorem posted_word {w : Word} (hsum : w.toNat % 2 ^ 40 + bytes < 2 ^ 40) : ({ Bar.ofWord w with bytes := (Bar.ofWord w).bytes + bytes } : Bar).word.toNat = w.toNat + bytes := by
  have hw := w.isLt
  rw [bar_word_toNat]
  dsimp only
  rw [ofWord_phase, ofWord_status, ofWord_arr, ofWord_bytes]
  omega

theorem bpost_posts (hm : s.MemOk) (hs : s.Serial) (asker : Asker) (hbytes : bytes < 2 ^ 40) (hsum : numAt s.mem p.loc 8 % 2 ^ 40 + bytes < 2 ^ 40) :
    ∃ u, s.performHome asker p.loc (.bpost (word bytes)) = (u, .value 0 0 none) ∧ Posted s u p bytes := by
  have hword : (word bytes).toNat = bytes := word_toNat (by omega)
  have hrd : (s.rd p.loc).toNat = numAt s.mem p.loc 8 := rd_toNat ..
  refine ⟨_, bpost_performed (by rw [hword, ofWord_bytes, hrd]; omega), ?_⟩
  by_cases h0 : word bytes = 0
  · have hzero : bytes = 0 := by rw [← hword, h0]; rfl
    rw [if_pos h0]
    refine ⟨.refl s, rfl, hs, fun _ => rfl, ?_, hm, fun _ h => h⟩
    rw [hzero, Nat.add_zero]
    exact stored_self rfl
  · rw [if_neg h0, hword]
    have hcrew := setBar_crew (asker := asker) (loc := p.loc) hs { Bar.ofWord (s.rd p.loc) with bytes := (Bar.ofWord (s.rd p.loc)).bytes + bytes } false
    have hmem := setBar_mem (s := s) (asker := asker) (loc := p.loc) { Bar.ofWord (s.rd p.loc) with bytes := (Bar.ofWord (s.rd p.loc)).bytes + bytes } false
    rw [posted_word (by rw [hrd]; exact hsum), hrd] at hmem
    have hlean := congrArg Prod.fst hcrew
    exact ⟨like_of_crew hcrew, (congrArg Ctx.ilk hlean : (State.me _).lean.ilk = s.me.lean.ilk), serial_of_crew hcrew hs, setBar_groups _ _ _ _, stored_of_mem hm hmem,
      (congrArg (Memory.wf · = true) hmem).mpr (memWrite_wf _ _ hm), setBar_lost hs _ _ _⟩

theorem Posted.counted (h : Posted s u p bytes) (c : List (Nat × Word)) : Posted s { u with ctr := c } p bytes := by
  obtain ⟨hlike, hilk, hserial, hgroups, hstored, hok, hlost⟩ := h
  exact ⟨⟨hlike.slot, hlike.pc⟩, hilk, hserial, fun d => hgroups d, hstored, hok, hlost⟩

end post

/-! ### After the post -/

section after
variable {s : State} {p : Place} {fields : BitVec 48} {n : Nat} {sa sd sb : Word} {src dst : List (Place × Nat)} {g : Group}

/-- The source of a collective as it is read, the operand that its entry names, its entry and its operation. -/
def State.collData (u : State) (src : List (Place × Nat)) : List (Option Byte) := (src.map fun p => u.bytesAt p.1.loc p.2).flatten
def State.collFlat (u : State) (r : CollRec) (sd sb : Word) : Nat := if r.kind = .barrier then u.me.flat sb else u.me.flat sd
def State.collIlk (u : State) (r : CollRec) (n : Nat) (sa sd sb : Word) (src : List (Place × Nat)) : Ilk :=
  ⟨.coll, u.serial, u.me.flat sa, (u.collData src).length, u.collFlat r sd sb, r.dstLen n, 0, 0, 0, 0⟩
def State.collOp (u : State) (fields : BitVec 48) (sd sb : Word) (src dst : List (Place × Nat)) (bar bytes : Nat) : CollOp :=
  ⟨0, u.serial, u.me.strand, u.me.slot, u.tick, fields, dst.map fun p => (p.1.loc, p.2), u.collFlat (.ofFields fields) sd sb, bar, bytes, [], anyLost (u.collData src), false, u.me.deadline⟩

/-- A collective joins its group. -/
def State.collJoins (u : State) (g : Group) (fields : BitVec 48) (n : Nat) (sa sd sb : Word) (src dst : List (Place × Nat)) (bar bytes : Nat) : State :=
  (({ u with serial := u.serial + 1 } : State).addIlk (u.collIlk (.ofFields fields) n sa sd sb src)).joinColl u.me.die g (u.collOp fields sd sb src dst bar bytes)
    ((u.collData src).map unlost)

theorem collMarks_onlyCounts (hsrc : ∀ q ∈ src, q.1.Marked false) (hdst : ∀ q ∈ dst, q.1.Marked true) (u : State) :
    OnlyCounts u (((src.map fun p => (p, false)) ++ (dst.map fun p => (p, true))).foldl (fun s p => (s.markAccess p.1.1 p.2).noteMig p.1.1) u) := by
  have hmarks := marks_onlyCounts (((src.map fun p => (p, false)) ++ (dst.map fun p => (p, true))).map fun x => (x.1.1, x.2)) (fun x hx => by
    obtain ⟨y, hy, rfl⟩ := List.mem_map.1 hx
    rcases List.mem_append.1 hy with hy | hy
    · obtain ⟨q, hq, rfl⟩ := List.mem_map.1 hy
      exact hsrc q hq
    · obtain ⟨q, hq, rfl⟩ := List.mem_map.1 hy
      exact hdst q hq) u
  rwa [List.foldl_map] at hmarks

/-- A collective whose checks are done: the bytes are posted, and it joins a READY group, or lands ABORT. -/
theorem postColl_posts (hm : s.MemOk) (hs : s.Serial) (hh : homeOf p.loc = s.me.die) (hsrc : ∀ q ∈ src, q.1.Marked false) (hdst : ∀ q ∈ dst, q.1.Marked true)
    (hbytes : (CollRec.ofFields fields).posted n < 2 ^ 40) (hsum : numAt s.mem p.loc 8 % 2 ^ 40 + (CollRec.ofFields fields).posted n < 2 ^ 40) :
    ∃ u, Posted s u p ((CollRec.ofFields fields).posted n)
      ∧ (g.state = .ready → s.postColl (some g) fields n sa sd sb src dst p = (u.collJoins g fields n sa sd sb src dst p.loc ((CollRec.ofFields fields).posted n)).done4)
      ∧ (∀ o : Option Group, (∀ q, o = some q → q.state ≠ .ready) → s.postColl o fields n sa sd sb src dst p = (u.landAt p.loc ((CollRec.ofFields fields).posted n) 2).done4) := by
  obtain ⟨v, hv, hposted⟩ := bpost_posts hm hs s.asker hbytes hsum
  obtain ⟨c, hc⟩ := collMarks_onlyCounts hsrc hdst v
  have hnote : s.noteBarrier (some p) = s := noteMig_near hh
  refine ⟨{ v with ctr := c }, hposted.counted c, fun hready => ?_, fun o ho => ?_⟩
  · unfold State.postColl
    simp only [hnote, hv, hc, hready, ne_eq, not_true_eq_false, if_false]
    rfl
  · unfold State.postColl
    simp only [hnote, hv, hc]
    cases o with
    | none => rfl
    | some q => exact if_pos (ho q rfl)

end after

end Sys2Proof.Machine
end

section
/-! A collective is issued (R218, R219, R447; O30). -/

namespace Sys2Proof.Machine

section issue
variable {s : State} {d a b : SReg} {x : OxReg} {rec : Word} {p : Place} {src dst : List (Place × Nat)} {n rank : Nat} {det formed : Bool} {og : Option Group}

/-- The record, the addresses and the barrier of a collective pass their checks, and what comes before it is settled. -/
structure CollChecks (s : State) (d a b : SReg) (x : OxReg) (rec : Word) (p : Place) (n rank : Nat) (det formed : Bool) (src dst : List (Place × Nat)) : Prop where
  memOk : s.MemOk
  serial : s.Serial
  holds : s.OxHolds x .coll rec
  root : formed = true → (CollRec.ofFields (rec.setWidth 48)).root < n
  count : (CollRec.ofFields (rec.setWidth 48)).kind = .barrier → (CollRec.ofFields (rec.setWidth 48)).count = 0
  det : s.me.det = true → formed = true → det = true
  aligned : (CollRec.ofFields (rec.setWidth 48)).kind ≠ .barrier →
    (s.getS a).toNat % (CollRec.ofFields (rec.setWidth 48)).ty.bytes = 0 ∧ (s.getS d).toNat % (CollRec.ofFields (rec.setWidth 48)).ty.bytes = 0
  some : s.getS b ≠ 0
  global : (s.getS b).toNat < 2 ^ 55
  reaches : s.Reaches .rw 0 (s.getS b) 16 p
  home : homeOf p.loc = s.me.die
  room : s.me.ilk.length < 8
  source : ∀ len, len = (if formed then (CollRec.ofFields (rec.setWidth 48)).srcLen n rank else 0) → s.spanAll .r (s.getS a) (len / 65536 + 2) len = .ok src
  dest : ∀ len, len = (if formed then (CollRec.ofFields (rec.setWidth 48)).dstLen n else 0) → s.spanAll .w (s.getS d) (len / 65536 + 2) len = .ok dst
  settled : s.settled .mask s.me.dmask = true
  small : (CollRec.ofFields (rec.setWidth 48)).posted n < 2 ^ 40
  sum : numAt s.mem p.loc 8 % 2 ^ 40 + (CollRec.ofFields (rec.setWidth 48)).posted n < 2 ^ 40

theorem coll_reaches (h : CollChecks s d a b x rec p n rank det formed src dst)
    (hog : (if bits rec 48 16 < 256 then s.group? s.me.die (BitVec.ofNat 8 (bits rec 48 16)) else none) = og) (hformed : (og.bind Group.shape).isSome = formed)
    (hshape : (og.bind Group.shape).getD (1, 0, false) = (n, rank, det)) :
    ∃ c, exec (.coll d a b x) s = .next ((s.noted c s.me.overdue).postColl og (rec.setWidth 48) n (s.getS a) (s.getS d) (s.getS b) src dst p) := by
  obtain ⟨c, hc⟩ := countDropped_eq s s.me.dmask
  refine ⟨c, ?_⟩
  obtain ⟨hkind, hbad, hval⟩ := h.holds
  have hox : ¬ (s.me.ox[x].kind.toNat ≠ OxKind.code .coll ∨ s.me.ox[x].bad = true) := not_or.2 ⟨not_not.2 hkind, Bool.eq_false_iff.1 hbad⟩
  obtain ⟨hal, hlook, hmarked⟩ := h.reaches
  have hbar : s.OnBarrier (s.getS b) (some p) := .inr ⟨h.some, h.global, hal, p, rfl, hlook, hmarked⟩
  have hroot : ((formed && decide (n ≤ (CollRec.ofFields (rec.setWidth 48)).root))
      || ((CollRec.ofFields (rec.setWidth 48)).kind == .barrier && (CollRec.ofFields (rec.setWidth 48)).count != 0)) = false := by
    refine Bool.or_eq_false_iff.2 ⟨?_, ?_⟩
    · cases formed with
      | false => rfl
      | true => simpa using h.root rfl
    · by_cases hk : (CollRec.ofFields (rec.setWidth 48)).kind = .barrier
      · simp [h.count hk]
      · simp [hk]
  have hdet : (s.me.det && formed && !det) = false := by
    cases hd : s.me.det with
    | false => rfl
    | true =>
      cases formed with
      | false => rfl
      | true => rw [h.det hd rfl]; rfl
  change execColl d a b x s = _
  unfold execColl State.ox
  simp only [if_neg hox, hval, hog, hformed, hshape, hroot, hdet, Bool.false_eq_true, if_false]
  rw [checks_pass, barrierOf_passes hbar, held_serial _ _ h.serial.1, entryFree_passes h.room, h.source _ rfl]
  · simp only [h.dest _ rfl]
    unfold State.release
    rw [if_pos h.settled, if_pos rfl, hc]
    rfl
  · have h1 := h.aligned
    have h2 := h.some
    simp only [List.forall_mem_cons, hal, bne_self_eq_false, true_and]
    refine ⟨?_, ?_, by simpa using h2, nofun⟩
    · by_cases hk : (CollRec.ofFields (rec.setWidth 48)).kind = .barrier
      · simp [hk]
      · simp [hk, (h1 hk).1]
    · by_cases hk : (CollRec.ofFields (rec.setWidth 48)).kind = .barrier
      · simp [hk]
      · simp [hk, (h1 hk).2]

end issue

/-! ### The operation joins its group (R219, R447) -/

section join
variable {s : State} {d : DieId} {g : Group} {o : CollOp} {data : List Byte}

/-- The parts that an operation begins with: the member's own, where it has one. -/
def ownParts (r : CollRec) (rank : Nat) (data : List Byte) : List (Nat × List Byte) := if r.kind = .broadcast ∧ rank ≠ r.root then [] else [(rank, data)]

/-- An operation and its group once it has joined. -/
def CollOp.joined (o : CollOp) (g : Group) (data : List Byte) : CollOp := { o with seqno := g.seqno, parts := ownParts (.ofFields o.fields) g.rank.toNat data }
def Group.joined (g : Group) (o : CollOp) (data : List Byte) : Group := { g with seqno := g.seqno + 1, ops := [o.joined g data], early := [] }

theorem joinColl_first (hearly : g.early = []) (hops : g.ops = []) (s : State) (d : DieId) (o : CollOp) (data : List Byte) : s.joinColl d g o data
    = ((s.putGroup d (g.joined o data)).sendParts d (g.joined o data) (o.joined g data) data).finishColl d (g.joined o data) (o.joined g data) := by
  unfold State.joinColl
  simp only [hearly, hops, List.filter_nil, List.nil_append, List.foldl_nil]
  rfl

/-- What is sent to other members changes the net and what leaves the module only. -/
theorem sendParts_sends (s : State) (d : DieId) (g : Group) (o : CollOp) (data : List Byte) : ∃ l a w, s.sendParts d g o data = { s with net := l, away := a, wire := w } := by
  have hfold (f : State → Member → State) (hf : ∀ t m, ∃ l a w, f t m = { t with net := l, away := a, wire := w }) (ms : List Member) :
      ∀ t : State, ∃ l a w, ms.foldl f t = { t with net := l, away := a, wire := w } := by
    induction ms with
    | nil => exact fun t => ⟨_, _, _, rfl⟩
    | cons m ms ih =>
      intro t
      obtain ⟨l, a, w, h⟩ := hf t m
      obtain ⟨l', a', w', h'⟩ := ih (f t m)
      exact ⟨l', a', w', by rw [List.foldl_cons, h', h]⟩
  unfold State.sendParts
  dsimp only
  split
  · exact ⟨_, _, _, rfl⟩
  · split
    · exact ⟨_, _, _, rfl⟩
    · refine hfold _ (fun t m => ?_) _ s
      split
      · exact ⟨_, _, _, rfl⟩
      · obtain ⟨a, w, h⟩ := sendAway_eq t m (.data _ g.gen o.seqno o.fields g.rank.toNat data)
        exact ⟨_, _, _, h⟩

theorem finishColl_waits {n : Nat} (hn : n = g.members.length) (h : o.whole (.ofFields o.fields) n = false) (s : State) (d : DieId) : s.finishColl d g o = s := by
  unfold State.finishColl
  subst hn
  dsimp only
  rw [h]
  exact if_pos (Bool.or_true _)

/-- An operation that has just joined is whole only as the ROOT of a broadcast, in a group of two or more. -/
theorem joined_whole {n : Nat} (hn : 2 ≤ n) : (o.joined g data).whole (.ofFields o.fields) n = true
    ↔ (CollRec.ofFields o.fields).kind = .broadcast ∧ g.rank.toNat = (CollRec.ofFields o.fields).root := by
  unfold CollOp.whole CollOp.joined ownParts
  generalize CollRec.ofFields o.fields = r
  by_cases hk : r.kind = .broadcast
  · by_cases hr : g.rank.toNat = r.root
    · simp [hk, hr]
    · simp [hk, hr]
  · simp only [hk, false_and, if_false, iff_false, Bool.not_eq_true]
    refine List.all_eq_false.2 ⟨if g.rank.toNat = 0 then 1 else 0, ?_, ?_⟩
    · rw [upFrom_eq_range', List.mem_range'_1]
      split <;> omega
    · split
      next h0 => simp [h0]
      next h0 => simpa using h0

/-- The result of a broadcast: what its ROOT contributes. -/
theorem broadcast_result {r : CollRec} {n rank fresh : Nat} {det : Bool} {parts : List (List Byte)} {bs : List Byte} (hk : r.kind = .broadcast) (hroot : parts[r.root]? = some bs)
    (hlen : bs.length = r.count * r.ty.bytes) : r.result det fresh n rank parts = bs := by
  unfold CollRec.result
  rw [hk, hroot]
  refine List.ext_getElem? fun i => ?_
  rw [← hlen, upFrom_eq_range', List.getElem?_map]
  by_cases hi : i < bs.length
  · rw [List.getElem?_range' hi, List.getElem?_eq_getElem hi]
    simp [hi]
  · rw [List.getElem?_eq_none (by simpa using hi), List.getElem?_eq_none (by omega)]
    rfl

/-- The group once an operation of it is written. -/
def Group.written (g : Group) (o : CollOp) : Group := { g with ops := g.ops.map fun x => if x.id = o.id then { o with written := true } else x }

/-- A whole broadcast at its ROOT: its destination of one piece is written. -/
theorem finishColl_root {bs : List Byte} {into : Nat} (hw : o.written = false) (hwhole : o.whole (.ofFields o.fields) g.members.length = true)
    (hk : (CollRec.ofFields o.fields).kind = .broadcast) (hparts : o.parts = [((CollRec.ofFields o.fields).root, bs)]) (hroot : (CollRec.ofFields o.fields).root < g.members.length)
    (hlen : bs.length = (CollRec.ofFields o.fields).count * (CollRec.ofFields o.fields).ty.bytes) (hdst : o.dst = [(into, bs.length)]) (s : State) (d : DieId) :
    ∃ st, s.finishColl d g o = ((({ s with fresh := s.fresh + 1 } : State).landBytes into bs (.transfer o.id)).putGroup d (g.written o)).send (.landing st) := by
  have hresult : (CollRec.ofFields o.fields).result g.det s.fresh g.members.length g.rank.toNat
      ((upFrom 0 g.members.length).map fun k => ((o.parts.find? fun p => p.1 == k).map Prod.snd).getD []) = bs := by
    refine broadcast_result hk ?_ hlen
    rw [upFrom_eq_range', List.getElem?_map, List.getElem?_range' hroot, hparts]
    simp
  unfold State.finishColl
  dsimp only
  rw [hw, hwhole, if_neg (by decide), hresult]
  simp only [Group.written, hdst, List.foldl_cons, List.foldl_nil, List.take_length]
  exact ⟨_, rfl⟩

/-- The slot's operation: joined to its group, and complete at issue. -/
structure Joined (s t : State) (h : BitVec 8) (dlen bytes bar : Nat) (g : Group) (P : CollOp → Prop) : Prop where
  pc : Passed s t 4
  slot : SlotKept s t Ctx.noIlk
  entry : ∃ e, t.me.ilk = s.me.ilk ++ [e] ∧ e.kind = .coll ∧ e.dlen = dlen
  group : ∃ q o, t.group? s.me.die h = some q ∧ q.seqno = g.seqno + 1 ∧ q.ops = [o] ∧ o.seqno = g.seqno ∧ o.bytes = bytes ∧ o.barrier = bar ∧ o.strand = s.me.strand ∧ P o

end join

end Sys2Proof.Machine
end

section
/-! A collective of a READY group completes at issue (R218, R219; O30). -/

namespace Sys2Proof.Machine

section collective
variable {s u : State} {p : Place} {bytes : Nat} {g : Group} {fields : BitVec 48} {n : Nat} {sa sd sb : Word} {src dst : List (Place × Nat)}

theorem done4_groups (y : State) : y.SameGroups y.done4 := sameGroups_of_dies (dies_of_outside (advance_keeps y 4 id).2.outside)

/-- A slot with one more entry in its interlock table completes. -/
theorem joined_of_finished {y : State} {h : BitVec 8} {e : Ilk} {q : Group} {o : CollOp} {P : CollOp → Prop} (hlike : Like s u) (hilk : u.me.ilk = s.me.ilk)
    (hy : y.me.lean = (u.addIlk e).me.lean) (hek : e.kind = .coll) (hq : y.group? s.me.die h = some q) (hseq : q.seqno = g.seqno + 1) (hops : q.ops = [o]) (ho : o.seqno = g.seqno)
    (hbytes : o.bytes = bytes) (hbar : o.barrier = p.loc) (hstrand : o.strand = s.me.strand) (hP : P o) : Joined s y.done4 h e.dlen bytes p.loc g P := by
  obtain ⟨hpc, hkept⟩ := (like_of_lean (s := u.addIlk e) hy).done4
  have hslot : y.done4.me.still.noCounts = (u.addIlk e).me.still.noCounts := hkept
  refine ⟨Eq.trans hpc ?_, ?_, ⟨e, ?_, hek, rfl⟩, q, o, (group?_of_same (done4_groups y) ..).trans hq, hseq, hops, ho, hbytes, hbar, hstrand, hP⟩
  · have hu : (u.addIlk e).me.pc = s.me.pc := hlike.pc
    rw [hu]
  · have hadd : (u.addIlk e).me.still.noCounts.noIlk = u.me.still.noCounts.noIlk := rfl
    exact Eq.trans (congrArg Ctx.noIlk hslot) (hadd.trans (congrArg Ctx.noIlk hlike.still))
  · have ht : y.done4.me.ilk = (u.addIlk e).me.ilk := (congrArg Ctx.ilk hslot : y.done4.me.still.noCounts.ilk = (u.addIlk e).me.still.noCounts.ilk)
    rw [ht, ← hilk]
    rfl

/-- The state in which a posted collective joins its group. -/
def State.withEntry (u : State) (e : Ilk) : State := ({ u with serial := u.serial + 1 } : State).addIlk e

/-- The group and the operation of a posted collective. -/
def State.opOf (u : State) (g : Group) (fields : BitVec 48) (sd sb : Word) (src dst : List (Place × Nat)) (bar bytes : Nat) : CollOp :=
  (u.collOp fields sd sb src dst bar bytes).joined g ((u.collData src).map unlost)
def State.groupOf (u : State) (g : Group) (fields : BitVec 48) (sd sb : Word) (src dst : List (Place × Nat)) (bar bytes : Nat) : Group :=
  g.joined (u.collOp fields sd sb src dst bar bytes) ((u.collData src).map unlost)

theorem collJoins_first (hearly : g.early = []) (hops : g.ops = []) : ∃ l a w, u.collJoins g fields n sa sd sb src dst p.loc bytes
    = State.finishColl { (u.withEntry (u.collIlk (.ofFields fields) n sa sd sb src)).putGroup u.me.die (u.groupOf g fields sd sb src dst p.loc bytes) with net := l, away := a, wire := w }
      u.me.die (u.groupOf g fields sd sb src dst p.loc bytes) (u.opOf g fields sd sb src dst p.loc bytes) := by
  obtain ⟨l, a, w, hsent⟩ := sendParts_sends ((u.withEntry (u.collIlk (.ofFields fields) n sa sd sb src)).putGroup u.me.die (u.groupOf g fields sd sb src dst p.loc bytes)) u.me.die
    (u.groupOf g fields sd sb src dst p.loc bytes) (u.opOf g fields sd sb src dst p.loc bytes) ((u.collData src).map unlost)
  refine ⟨l, a, w, ?_⟩
  rw [← hsent]
  exact joinColl_first hearly hops ..

/-- A collective that is not whole: its entry, its group and its operation. -/
theorem collJoins_waits (h : Posted s u p bytes) (hearly : g.early = []) (hops : g.ops = []) (hn : 2 ≤ g.members.length)
    (hpart : ¬ ((CollRec.ofFields fields).kind = .broadcast ∧ g.rank.toNat = (CollRec.ofFields fields).root)) :
    (u.collJoins g fields n sa sd sb src dst p.loc bytes).done4.mem = u.mem
      ∧ Joined s (u.collJoins g fields n sa sd sb src dst p.loc bytes).done4 g.handle ((CollRec.ofFields fields).dstLen n) bytes p.loc g fun o => o.written = false := by
  obtain ⟨l, a, w, hjoin⟩ := collJoins_first (u := u) (p := p) (bytes := bytes) (fields := fields) (n := n) (sa := sa) (sd := sd) (sb := sb) (src := src) (dst := dst) hearly hops
  have hwhole : (u.opOf g fields sd sb src dst p.loc bytes).whole (.ofFields (u.opOf g fields sd sb src dst p.loc bytes).fields)
      (u.groupOf g fields sd sb src dst p.loc bytes).members.length = false := Bool.eq_false_iff.2 fun hc => hpart ((joined_whole hn).1 hc)
  rw [finishColl_waits rfl hwhole] at hjoin
  rw [hjoin]
  refine ⟨rfl, joined_of_finished (e := u.collIlk (.ofFields fields) n sa sd sb src) (q := u.groupOf g fields sd sb src dst p.loc bytes)
    (o := u.opOf g fields sd sb src dst p.loc bytes) h.like h.ilk rfl rfl ?_ rfl rfl rfl rfl rfl h.like.strand rfl⟩
  rw [← h.like.die]
  exact putGroup_group? (u.withEntry (u.collIlk (.ofFields fields) n sa sd sb src)) u.me.die (u.groupOf g fields sd sb src dst p.loc bytes)

/-- The source of one sound piece, apart from the barrier. -/
theorem collData_single {from_ : Place} {len : Nat} (h : Posted s u p bytes) (hd : isDevice from_.loc = false) (hs : s.Sound from_.loc len) (hpage : from_.loc % 65536 + len ≤ 65536)
    (hapart : from_.loc + len ≤ p.loc ∨ p.loc + 8 ≤ from_.loc) : (u.collData [(from_, len)]).map unlost = memBytes s.mem from_.loc len := by
  have hsound : u.Sound from_.loc len := fun a h1 h2 hmem => hs a h1 h2 (h.lost a hmem)
  have hsame : memBytes u.mem from_.loc len = memBytes s.mem from_.loc len := by
    refine List.ext_getElem? fun i => ?_
    by_cases hi : i < len
    · rw [memBytes_get _ _ _ _ hi, memBytes_get _ _ _ _ hi, h.stored, if_neg (by omega)]
    · rw [List.getElem?_eq_none (by rw [memBytes_length]; omega), List.getElem?_eq_none (by rw [memBytes_length]; omega)]
  have hdata : u.collData [(from_, len)] = (memBytes s.mem from_.loc len).map some := by
    rw [← hsame, ← bytesAt_of_sound (page_not_device hd hpage) hsound]
    exact List.append_nil _
  rw [hdata, List.map_map]
  exact List.map_id _

/-- A broadcast at its ROOT: its own destination is written. -/
theorem collJoins_root {from_ into : Place} {len : Nat} (h : Posted s u p bytes) (hearly : g.early = []) (hops : g.ops = []) (hn : 2 ≤ g.members.length)
    (hk : (CollRec.ofFields fields).kind = .broadcast) (hrank : g.rank.toNat = (CollRec.ofFields fields).root) (hroot : (CollRec.ofFields fields).root < g.members.length)
    (hlen : len = (CollRec.ofFields fields).count * (CollRec.ofFields fields).ty.bytes) (hdata : (u.collData [(from_, len)]).map unlost = memBytes s.mem from_.loc len)
    (hinto : isDevice into.loc = false) :
    (∀ a, memGet (u.collJoins g fields n sa sd sb [(from_, len)] [(into, len)] p.loc bytes).done4.mem a =
        if into.loc ≤ a ∧ a < into.loc + len then ((memBytes s.mem from_.loc len)[a - into.loc]?).getD 0 else memGet u.mem a)
      ∧ Joined s (u.collJoins g fields n sa sd sb [(from_, len)] [(into, len)] p.loc bytes).done4 g.handle ((CollRec.ofFields fields).dstLen n) bytes p.loc g fun o => o.written = true := by
  obtain ⟨l, a, w, hjoin⟩ := collJoins_first (u := u) (p := p) (bytes := bytes) (fields := fields) (n := n) (sa := sa) (sd := sd) (sb := sb) (src := [(from_, len)])
    (dst := [(into, len)]) hearly hops
  have hbs : (memBytes s.mem from_.loc len).length = len := memBytes_length ..
  have hparts : (u.opOf g fields sd sb [(from_, len)] [(into, len)] p.loc bytes).parts = [((CollRec.ofFields fields).root, memBytes s.mem from_.loc len)] := by
    rw [← hdata, ← hrank]
    exact if_neg fun hc => hc.2 hrank
  obtain ⟨st, hfin⟩ := finishColl_root (g := u.groupOf g fields sd sb [(from_, len)] [(into, len)] p.loc bytes) (o := u.opOf g fields sd sb [(from_, len)] [(into, len)] p.loc bytes)
    (bs := memBytes s.mem from_.loc len) (into := into.loc) rfl ((joined_whole hn).2 ⟨hk, hrank⟩) hk hparts hroot (hbs.trans hlen) (by rw [hbs]; rfl)
    { (u.withEntry (u.collIlk (.ofFields fields) n sa sd sb [(from_, len)])).putGroup u.me.die (u.groupOf g fields sd sb [(from_, len)] [(into, len)] p.loc bytes) with
      net := l, away := a, wire := w } u.me.die
  rw [hfin] at hjoin
  obtain ⟨k, hkeq⟩ : ∃ k : State, k = { (u.withEntry (u.collIlk (.ofFields fields) n sa sd sb [(from_, len)])).putGroup u.me.die
      (u.groupOf g fields sd sb [(from_, len)] [(into, len)] p.loc bytes) with net := l, away := a, wire := w, fresh := u.fresh + 1 } := ⟨_, rfl⟩
  have hkmem : k.mem = u.mem := by rw [hkeq]; rfl
  have hkme : k.me = (u.addIlk (u.collIlk (.ofFields fields) n sa sd sb [(from_, len)])).me := by rw [hkeq]; rfl
  have hkserial : k.Serial := by rw [hkeq]; exact h.serial
  replace hjoin := hjoin.trans (congrArg (fun k : State => ((k.landBytes into.loc (memBytes s.mem from_.loc len)
    (.transfer (u.opOf g fields sd sb [(from_, len)] [(into, len)] p.loc bytes).id)).putGroup u.me.die
      ((u.groupOf g fields sd sb [(from_, len)] [(into, len)] p.loc bytes).written (u.opOf g fields sd sb [(from_, len)] [(into, len)] p.loc bytes))).send (.landing st)) hkeq.symm)
  rw [hjoin]
  have hget := landBytes_get (s := k) hinto ((congrArg (Memory.wf · = true) hkmem).mpr h.memOk) (memBytes s.mem from_.loc len)
    (.transfer (u.opOf g fields sd sb [(from_, len)] [(into, len)] p.loc bytes).id)
  have hcrew := landBytes_crew (s := k) hinto hkserial (memBytes s.mem from_.loc len) (.transfer (u.opOf g fields sd sb [(from_, len)] [(into, len)] p.loc bytes).id)
  rw [hkmem, hbs] at hget
  refine ⟨hget, joined_of_finished (e := u.collIlk (.ofFields fields) n sa sd sb [(from_, len)])
    (q := (u.groupOf g fields sd sb [(from_, len)] [(into, len)] p.loc bytes).written (u.opOf g fields sd sb [(from_, len)] [(into, len)] p.loc bytes))
    (o := { u.opOf g fields sd sb [(from_, len)] [(into, len)] p.loc bytes with written := true }) h.like h.ilk ?_ rfl ?_ rfl ?_ rfl rfl rfl h.like.strand rfl⟩
  · rw [← hkme]
    exact congrArg Prod.fst hcrew
  · rw [← h.like.die]
    exact putGroup_group? _ u.me.die ((u.groupOf g fields sd sb [(from_, len)] [(into, len)] p.loc bytes).written (u.opOf g fields sd sb [(from_, len)] [(into, len)] p.loc bytes))
  · exact congrArg (fun x => [x]) (if_pos rfl)

theorem Posted.of_noted {c : List (Nat × Word)} {m : Nat} (h : Posted (s.noted c m) u p bytes) : Posted s u p bytes := by
  obtain ⟨hlike, hilk, hserial, hgroups, hstored, hok, hlost⟩ := h
  exact ⟨(noted_like s c m).trans hlike, hilk, hserial, fun d => hgroups d, hstored, hok, hlost⟩

/-- A collective whose operation has joined, after the write of its barrier. -/
theorem issues_of_joined {i : Instr} {t : State} {h : BitVec 8} {dlen : Nat} {P : CollOp → Prop} {Q : Prop} (hx : exec i s = .next t) (hQ : Q) (hj : Joined s t h dlen bytes p.loc g P) :
    exec i s = .next t ∧ Q ∧ Passed s t 4 ∧ SlotKept s t Ctx.noIlk ∧ (∃ e, t.me.ilk = s.me.ilk ++ [e] ∧ e.kind = .coll ∧ e.dlen = dlen)
      ∧ ∃ q o, t.group? s.me.die h = some q ∧ q.seqno = g.seqno + 1 ∧ q.ops = [o] ∧ o.seqno = g.seqno ∧ o.bytes = bytes ∧ o.barrier = p.loc ∧ o.strand = s.me.strand ∧ P o := by
  obtain ⟨hpc, hslot, hentry, hgroup⟩ := hj
  exact ⟨hx, hQ, hpc, hslot, hentry, hgroup⟩

theorem shape_of_members {g : Group} (hst : g.state ≠ .free) (hm : g.members ≠ []) : g.shape = some (g.members.length, g.rank.toNat, g.det) := by
  unfold Group.shape
  rw [if_neg hst, if_neg (by simpa using hm)]

end collective

/-- Settles O30: the bytes are posted as by `bpost`, and the operation joins its group; at issue only the ROOT of a broadcast has every part that it needs. -/
theorem collectiveIssue : Obligations.CollectiveIssue := by
  unfold Obligations.CollectiveIssue
  intro d a b x s rec g p src dst
  dsimp only
  intro hm hs hox hh hg hready hearly hops hn hroot hcount hrank hdet hal hne hlt hreach hdram hhome hilk hsrc hdst hmsrc hmdst hset hbytes hsum
  have hhandle := group?_handle hg
  have hchecks : CollChecks s d a b x rec p g.members.length g.rank.toNat g.det true src dst :=
    ⟨hm, hs, hox, fun _ => hroot, hcount, fun h _ => hdet h, hal, hne, hlt, hreach, hhome, hilk, fun len hl => by rw [hl]; exact hsrc, fun len hl => by rw [hl]; exact hdst,
      hset, hbytes, hsum⟩
  have hshape := shape_of_members (g := g) (by rw [hready]; decide) fun h => by rw [h] at hn; exact absurd hn (by decide)
  obtain ⟨c, hx⟩ := coll_reaches hchecks (og := some g) (by rw [if_pos hh, hg]) (by rw [Option.bind_some, hshape]; rfl) (by rw [Option.bind_some, hshape]; rfl)
  obtain ⟨u, hposted, hjoins, -⟩ := postColl_posts (g := g) (s := s.noted c s.me.overdue) (sa := s.getS a) (sd := s.getS d) (sb := s.getS b) (fields := rec.setWidth 48) hm hs hhome hmsrc hmdst
    hbytes hsum
  rw [hjoins hready] at hx
  replace hposted := hposted.of_noted
  refine ⟨fun hpart => ?_, fun ⟨hk, hrk⟩ from_ into len hsrc1 hdst1 hfrom hinto hsound hapart hapart' => ?_⟩
  · obtain ⟨hmem, hj⟩ := collJoins_waits (n := g.members.length) (sa := s.getS a) (sd := s.getS d) (sb := s.getS b) (src := src) (dst := dst) hposted hearly hops hn hpart
    rw [hhandle] at hj
    exact ⟨_, issues_of_joined hx (fun y => by rw [hmem]; exact hposted.stored y) hj⟩
  · subst hsrc1 hdst1
    obtain ⟨hlen, hpage⟩ := spanAll_single (by omega) hsrc
    have hcount' : len = (CollRec.ofFields (rec.setWidth 48)).count * (CollRec.ofFields (rec.setWidth 48)).ty.bytes := by
      rw [hlen, CollRec.srcLen, hk]
      exact if_pos hrk
    obtain ⟨hget, hj⟩ := collJoins_root (n := g.members.length) (sa := s.getS a) (sd := s.getS d) (sb := s.getS b) hposted hearly hops hn hk hrk hroot hcount'
      (collData_single hposted hfrom hsound (by omega) hapart) hinto
    rw [hhandle] at hj
    refine ⟨_, issues_of_joined hx (fun y => ?_) hj⟩
    rw [hget, hposted.stored, bytesOf_length, memBytes_length]
    by_cases h8 : p.loc ≤ y ∧ y < p.loc + 8
    · rw [if_neg (by omega), if_pos h8, if_pos h8, bytesOf_get _ _ _ (by omega)]
      rfl
    · rw [if_neg h8, if_neg h8]

end Sys2Proof.Machine
end

section
/-! SUPPORT. What a read sees does not depend on counts, on the note of late packets, and on which lines the slices hold (R293, R365). -/

namespace Sys2Proof.Machine

/-- Taking out what the slices of a die hold. -/
def Die.bare (y : Die) : Die := { y with shared := [], memside := [] }
@[irreducible] def bareDies (v : Vector Die 16) : Vector Die 16 := v.map Die.bare
/-- Taking out the counts, the note of late packets and what the slices hold. -/
def State.bare (s : State) : State := { s with ctr := [], me := { s.me with overdue := 0 }, dies := bareDies s.dies }

section bare
variable (s : State)

theorem bare_die (d : DieId) : s.bare.die d = (s.die d).bare := by
  unfold State.bare State.die bareDies
  simp

theorem bare_present (n : Nat) : s.bare.present n = s.present n := by
  unfold State.present
  rw [bare_die]
  rfl

theorem bare_homeByte : s.bare.homeByte = s.homeByte := rfl

/-- A slot without its note of late packets. -/
def Ctx.punctual (c : Ctx) : Ctx := { c with overdue := 0 }

theorem bare_ctx? (d : DieId) (k : SlotNo) : s.bare.ctx? d k = if s.me.at d k then (s.ctx? d k).map Ctx.punctual else s.ctx? d k := by
  have hat : s.bare.me.at d k = s.me.at d k := rfl
  have hst : s.bare.me.state = s.me.state := rfl
  unfold State.ctx?
  rw [hat, hst]
  split
  · split <;> rfl
  · rfl

/-- A part of a slot that is not its note of late packets. -/
theorem bare_ctx?_field {α : Type} {f : Ctx → α} (hf : ∀ c, f c.punctual = f c) (d : DieId) (k : SlotNo) : (s.bare.ctx? d k).map f = (s.ctx? d k).map f := by
  rw [bare_ctx?]
  split
  · rw [Option.map_map]
    congr 1
    exact funext hf
  · rfl

theorem bare_strand (d : DieId) (k : SlotNo) : (s.bare.ctx d k).strand = (s.ctx d k).strand := by
  have h := bare_ctx?_field s (f := Ctx.strand) (by intro _; rfl) d k
  unfold State.ctx
  cases hb : s.bare.ctx? d k <;> cases hc : s.ctx? d k <;> rw [hb, hc] at h
  · cases h
  · cases h
  · exact Option.some.inj h

theorem bare_ownPend (strand : Word) (p : Pend) : s.bare.ownPend strand p = s.ownPend strand p := by
  unfold State.ownPend
  congr 1
  funext w
  cases w with
  | slot d k => exact congrArg (· == strand) (bare_strand s d k)
  | _ => rfl

theorem bare_dieByte (d : DieId) (strand : Option Word) (extra : List Line) (loc : Nat) : s.bare.dieByte d strand extra loc = s.dieByte d strand extra loc := by
  have hpend : (s.bare.die d).pend = (s.die d).pend := by rw [bare_die]; rfl
  have hrep : (s.bare.die d).replicas = (s.die d).replicas := by rw [bare_die]; rfl
  unfold State.dieByte
  simp only [bare_homeByte, hpend, hrep, bare_ownPend]

theorem bare_comingByte (d : DieId) (loc : Nat) : s.bare.comingByte d loc = s.comingByte d loc := by
  have hpend : (s.bare.die d).pend = (s.die d).pend := by rw [bare_die]; rfl
  unfold State.comingByte
  rw [hpend]
  rfl

theorem bare_walkRead (d : DieId) (loc : Nat) : s.bare.walkRead d loc = s.walkRead d loc := by
  have hbyte : s.bare.agentByte d = s.agentByte d := by
    funext a
    unfold State.agentByte
    rw [bare_dieByte, bare_comingByte, bare_homeByte]
  unfold State.walkRead
  rw [hbyte]

/-! ### Translation -/

theorem bare_paFault (pa : Nat) (dev : Bool) : s.bare.paFault pa dev = s.paFault pa dev := by
  unfold State.paFault
  rw [bare_present]

theorem bare_entryFault (k : AccessKind) (level : Nat) (p : Word) : s.bare.entryFault k level p = s.entryFault k level p := by
  unfold State.entryFault
  simp only [bare_paFault]

theorem bare_walkFrom (d : DieId) (k : AccessKind) (root va level node : Nat) : s.bare.walkFrom d k root va level node = s.walkFrom d k root va level node := by
  have hwalks : (s.bare.die d).walks = (s.die d).walks := by rw [bare_die]; rfl
  induction level generalizing node with
  | zero => rfl
  | succ level ih =>
    unfold State.walkFrom
    simp only [hwalks, bare_walkRead, bare_entryFault, ih]

theorem bare_pageOf (d : DieId) (slot : Option SlotNo) (k : AccessKind) (root va : Nat) : s.bare.pageOf d slot k root va = s.pageOf d slot k root va := by
  have htlb : (s.bare.die d).tlb = (s.die d).tlb := by rw [bare_die]; rfl
  unfold State.pageOf State.leafOf State.walk
  simp only [htlb, bare_walkFrom, bare_paFault]

theorem bare_translate (d : DieId) (slot : Option SlotNo) (k : AccessKind) (level : Bool) (root va : Nat) : s.bare.translate d slot k level root va = s.translate d slot k level root va := by
  unfold State.translate
  rw [bare_pageOf]

theorem bare_privOwner (c : Ctx) (k : AccessKind) (va : Nat) : s.bare.privOwner c k va = s.privOwner c k va := by
  have h := bare_ctx?_field s (f := fun c => (c.launch, c.ctl)) (by intro _; rfl) (Fin.ofNat 16 (va / 2 ^ 49)) (Fin.ofNat 256 (va / 2 ^ 40))
  have hshare : s.bare.privshare c = s.privshare c := by unfold State.privshare State.launchFlags; rw [bare_walkRead]
  unfold State.privOwner
  rw [bare_present]
  cases hb : s.bare.ctx? (Fin.ofNat 16 (va / 2 ^ 49)) (Fin.ofNat 256 (va / 2 ^ 40)) <;> cases hc : s.ctx? (Fin.ofNat 16 (va / 2 ^ 49)) (Fin.ofNat 256 (va / 2 ^ 40)) <;> rw [hb, hc] at h
  · cases h
  · cases h
  · obtain ⟨hl, hctl⟩ := Prod.mk.inj (Option.some.inj h)
    simp only [hl, hctl, hshare]

theorem bare_nameOf (c : Ctx) (k : AccessKind) (spaces : Nat) (va : Word) : s.bare.nameOf c k spaces va = s.nameOf c k spaces va := by
  unfold State.nameOf
  simp only [bare_present, bare_privOwner]

/-! ### The checks of an access of the slot -/

theorem bare_placeOf (c : Ctx) (k : AccessKind) (spaces : Nat) (va : Word) : s.bare.placeOf c k spaces va = s.placeOf c k spaces va := by
  unfold State.placeOf
  simp only [bare_nameOf, bare_translate]

theorem bare_locOf (a : Nat) : s.bare.locOf a = s.locOf a := by
  have hname : s.bare.nameOf s.bare.me .r 2 (word a) = s.nameOf s.me .r 2 (word a) := bare_nameOf ..
  have hpage (g : Nat) : s.bare.pageOf s.bare.me.die (some s.bare.me.slot) .r s.bare.me.ctl.ptroot.toNat g = s.pageOf s.me.die (some s.me.slot) .r s.me.ctl.ptroot.toNat g := bare_pageOf ..
  unfold State.locOf
  simp only [hname, hpage]

theorem bare_interlocked (write : Bool) (loc n : Nat) : s.bare.interlocked write loc n = s.interlocked write loc n := by
  have hmeets (lo len loc n : Nat) : s.bare.rangeMeets lo len loc n = s.rangeMeets lo len loc n := by
    unfold State.rangeMeets
    simp only [bare_locOf]
  unfold State.interlocked
  simp only [hmeets]
  rfl

theorem bare_devBusy (p : Place) (n : Nat) : s.bare.devBusy p n = s.devBusy p n := by
  have hpend : (s.bare.die s.bare.me.die).pend = (s.die s.me.die).pend := by rw [bare_die]; rfl
  unfold State.devBusy
  rw [hpend]
  rfl

theorem bare_hold? (hc : s.me.chunk = none) {k : AccessKind} {spaces : Nat} (hs : spaces ≠ 2) (n : Nat) (p : Place) : s.bare.hold? k spaces n p = s.hold? k spaces n p := by
  have hred : s.bare.rredBusy p.loc n = s.rredBusy p.loc n := rfl
  have hstale (e : TlbEntry) : s.bare.pteStale e k.writes = s.pteStale e k.writes := rfl
  have hchunk : s.bare.me.chunk = none := hc
  have hsp : (spaces == 2) = false := by simpa using hs
  unfold State.hold?
  simp only [bare_interlocked, hred, bare_devBusy, hstale, hc, hchunk, hsp, Option.isSome_none, Bool.false_and, Bool.false_eq_true, if_false]

theorem bare_watch (rwx va n : Nat) : s.bare.watch s.bare.me rwx va n = s.watch s.me rwx va n := by
  have hregs : (s.bare.die s.bare.me.die).regs = (s.die s.me.die).regs := by rw [bare_die]; rfl
  unfold State.watch State.debugged
  rw [hregs]
  rfl

theorem bare_look (hc : s.me.chunk = none) {spaces : Nat} (hs : spaces ≠ 2) (k : AccessKind) (va : Word) (n : Nat) : s.bare.look k spaces va n = s.look k spaces va n := by
  have hplace : s.bare.placeOf s.bare.me k spaces va = s.placeOf s.me k spaces va := bare_placeOf ..
  have hmig (p : Place) : s.bare.migrates s.bare.me p = s.migrates s.me p := rfl
  unfold State.look
  simp only [bare_watch, hplace, bare_hold? s hc hs, hmig]

/-! ### The bytes -/

theorem bare_loadBytes (p : Place) (n : Nat) (hc : s.me.chunk = none) : s.bare.loadBytes p n = s.loadBytes p n := by
  have hdev : s.bare.devByte = s.devByte := by
    funext a
    have hreg : (s.bare.die (homeOf a)).reg = (s.die (homeOf a)).reg := by rw [bare_die]; rfl
    unfold State.devByte
    simp only [hreg]
  have hseen : s.bare.seenByte s.bare.me = s.seenByte s.me := by
    funext a
    have hchunk : s.bare.me.chunk = none := hc
    unfold State.seenByte
    rw [hc, hchunk]
    exact bare_dieByte ..
  unfold State.loadBytes
  rw [hdev, hseen, bare_homeByte]

end bare

/-! ### States that differ only so -/

/-- `t` is `s` but for counts, the note of late packets and what the slices of the slot's die hold: no line fewer, unless it holds no replica and no chunk runs. -/
structure Reread (s t : State) : Prop where
  bare : t.bare = s.bare
  lines : (∀ line, ((s.die s.me.die).shared.any fun l => l.line == line) = true → ((t.die s.me.die).shared.any fun l => l.line == line) = true)
    ∨ (s.Serial ∧ (s.die s.me.die).replicas = [])

section reread
variable {s t u : State}

theorem Reread.refl (s : State) : Reread s s := ⟨rfl, .inl fun _ h => h⟩

theorem Reread.punctual (h : Reread s t) : t.me.punctual = s.me.punctual := congrArg State.me h.bare

theorem Reread.field (h : Reread s t) {α : Type} (f : Ctx → α) (hf : ∀ c, f c.punctual = f c) : f t.me = f s.me := by rw [← hf, h.punctual, hf]

theorem Reread.chunk (h : Reread s t) : t.me.chunk = s.me.chunk := h.field Ctx.chunk fun _ => rfl
theorem Reread.die (h : Reread s t) : t.me.die = s.me.die := h.field Ctx.die fun _ => rfl
theorem Reread.others (h : Reread s t) : t.others = s.others := (congrArg State.others h.bare : t.bare.others = s.bare.others)
theorem Reread.mem (h : Reread s t) : t.mem = s.mem := (congrArg State.mem h.bare : t.bare.mem = s.bare.mem)

theorem Reread.like (h : Reread s t) : Like s t := by
  refine ⟨?_, h.field Ctx.pc fun _ => rfl⟩
  exact h.field (fun c => c.still.noCounts) fun _ => rfl

theorem Reread.serial (h : Reread s t) (hs : s.Serial) : t.Serial := ⟨h.chunk.trans hs.1, fun c hc => hs.2 c (h.others ▸ hc)⟩

theorem Reread.bareDie (h : Reread s t) (d : DieId) : (t.die d).bare = (s.die d).bare := by rw [← bare_die, h.bare, bare_die]

/-- A part of a die that is not what its slices hold. -/
theorem Reread.dieField (h : Reread s t) {α : Type} (f : Die → α) (hf : ∀ y, f y.bare = f y) (d : DieId) : f (t.die d) = f (s.die d) := by rw [← hf, h.bareDie, hf]

theorem Reread.replicas (h : Reread s t) (d : DieId) : (t.die d).replicas = (s.die d).replicas := h.dieField Die.replicas (fun _ => rfl) d

theorem Reread.trans (h : Reread s t) (g : Reread t u) : Reread s u := by
  refine ⟨g.bare.trans h.bare, ?_⟩
  rcases h.lines with hl | hl
  · rcases g.lines with gl | ⟨gs, gr⟩
    · rw [h.die] at gl
      exact .inl fun line hline => gl line (hl line hline)
    · rw [h.die, h.replicas] at gr
      exact .inr ⟨⟨h.chunk.symm.trans gs.1, fun c hc => gs.2 c (h.others.symm ▸ hc)⟩, gr⟩
  · exact .inr hl

theorem Reread.calm (h : Reread s t) {loc : Nat} (hc : s.Calm loc) : t.Calm loc := by
  rcases hc with hline | hdram | ⟨hser, hrep⟩
  · rcases h.lines with hl | ⟨hser, hrep⟩
    · refine .inl ?_
      rw [h.die]
      exact hl _ hline
    · exact .inr (.inr ⟨h.serial hser, by rw [h.die, h.replicas]; exact hrep⟩)
  · exact .inr (.inl hdram)
  · exact .inr (.inr ⟨h.serial hser, by rw [h.die, h.replicas]; exact hrep⟩)

/-- A read that can be performed can still be. -/
theorem Reread.readsIn (h : Reread s t) (hc : s.me.chunk = none) {spaces n x : Nat} (hs : spaces ≠ 2) {va : Word} (hr : s.ReadsIn spaces va n x) : t.ReadsIn spaces va n x := by
  obtain ⟨p, bs, hlook, hm, hcalm, hbytes, hx⟩ := hr
  have htc : t.me.chunk = none := h.chunk.trans hc
  refine ⟨p, bs, ?_, hm, h.calm hcalm, ?_, hx⟩
  · rw [← bare_look t htc hs, h.bare, bare_look s hc hs, hlook]
  · rw [← bare_loadBytes t p n htc, h.bare, bare_loadBytes s p n hc, hbytes]

end reread

end Sys2Proof.Machine
end

section
/-! SUPPORT. Reads in turn: what one leaves, the next sees through (R214, R339). -/

namespace Sys2Proof.Machine

section load
variable {s : State}

theorem mapDie_bare {d : DieId} {g : Die → Die} (h : ∀ y, (g y).bare = y.bare) : (s.mapDie d g).bare = s.bare := by
  unfold State.bare State.mapDie bareDies
  rw [set_map_of_eq (h _)]

theorem bare_of_ite {p : Prop} [Decidable p] {a b : State} (ha : a.bare = s.bare) (hb : b.bare = s.bare) : (if p then a else b).bare = s.bare := by split <;> assumption

theorem count_bare (d : DieId) (kind inst ix n : Nat) : (s.count d kind inst ix n).bare = s.bare := bare_of_ite rfl rfl

/-- A slot's core that loses its copy of a line leaves the line in the slice. -/
theorem trimL1_line (core set : Nat) (pinned : List Nat) (l : List SharedLine) (line : Nat) :
    ((trimL1 core set pinned l).any fun o => o.line == line) = l.any fun o => o.line == line := by
  unfold trimL1
  dsimp only
  split
  · rfl
  · split
    · rw [List.any_map]
      congr 1
      funext o
      simp only [Function.comp_apply]
      split <;> rfl
    · rfl

/-- Where a die holds no replica and no chunk runs, an eviction changes what the slices hold only. -/
theorem evict_bare (hs : s.Serial) {d : DieId} {v : SharedLine} (hv : homeOf v.line = d) : (s.evict d v).bare = s.bare := by
  unfold State.evict
  extract_lets u
  have hu : u.bare = s.bare := mapDie_bare (by intro _; rfl)
  have hback : OnlyDies s (if v.dirty = 0 then u else u.memTouch d v.line v.dirty) := onlyDies_of_ite (onlyDies_mapDie ..) ((onlyDies_mapDie ..).trans (onlyDies_mapDie ..))
  rw [if_pos hv, State.invalidateER, invalidate_serial (hback.serial hs)]
  exact bare_of_ite hu ((mapDie_bare (by intro _; rfl)).trans hu)

theorem touch_bare {d : DieId} {line : Nat} (h : (((s.die d).shared.find? fun l => l.line == line).filter fun _ => (s.die d).holds d line).isSome = true
    ∨ (s.Serial ∧ (s.die d).replicas = [])) (dirty : BitVec 8) (core : Option Nat) : (s.touch d line dirty core).bare = s.bare := by
  unfold State.touch
  dsimp only
  refine (mapDie_bare (by intro _; rfl)).trans ?_
  rcases h with hold | ⟨hs, hr⟩
  · rw [if_pos hold]
  · have hevict : (if (s.setWays d line).length < Config.sliceWays then s else match victim (s.setWays d line) with | some v => s.evict d v | none => s).bare = s.bare := by
      refine bare_of_ite rfl ?_
      split
      next v hv =>
        refine evict_bare hs ?_
        have hways := (List.mem_filter.1 (victim_mem hv)).2
        simpa [Die.holds, hr] using (Bool.and_eq_true_iff.1 hways).2
      · rfl
    exact bare_of_ite rfl (bare_of_ite ((mapDie_bare (by intro _; rfl)).trans hevict) hevict)

theorem touch_lines {d : DieId} {line : Nat} (h : (((s.die d).shared.find? fun l => l.line == line).filter fun _ => (s.die d).holds d line).isSome = true)
    (dirty : BitVec 8) (core : Option Nat) (x : Nat) (hx : ((s.die d).shared.any fun l => l.line == x) = true) : (((s.touch d line dirty core).die d).shared.any fun l => l.line == x) = true := by
  obtain ⟨old, hold⟩ := Option.isSome_iff_exists.1 h
  have hline : old.line = line := by
    have := List.find?_some (Option.filter_eq_some_iff.1 hold).1
    simpa using this
  have hall (y : SharedLine) (hy : y.line = line) : ((y :: (s.die d).shared.filter fun o => o.line != line).any fun l => l.line == x) = true := by
    rw [List.any_cons, hy]
    by_cases hl : line = x
    · simp [hl]
    · obtain ⟨o, ho, hox⟩ := List.any_eq_true.1 hx
      have hox : o.line = x := by simpa using hox
      have : o ∈ (s.die d).shared.filter fun o => o.line != line := List.mem_filter.2 ⟨ho, by simpa [hox] using Ne.symm hl⟩
      exact Bool.or_eq_true_iff.2 (.inr (List.any_eq_true.2 ⟨o, this, by simpa using hox⟩))
  unfold State.touch
  dsimp only
  rw [if_pos h, die_mapDie_self, hold]
  cases core with
  | none => exact hall _ hline
  | some c =>
    dsimp only
    rw [trimL1_line]
    exact hall _ hline

theorem useLine_rereads {p : Place} (h : s.Calm p.loc) : Reread s (s.useLine p) := by
  unfold State.useLine
  dsimp only
  split
  next hc =>
    simp only [Bool.and_eq_true] at hc
    obtain ⟨⟨hdram, -⟩, hholds⟩ := hc
    rcases h with hline | hno | hser
    · have hold : (((s.die s.me.die).shared.find? fun l => l.line == lineOf p.loc).filter fun _ => (s.die s.me.die).holds s.me.die (lineOf p.loc)).isSome = true := by
        obtain ⟨l, hl⟩ := Option.isSome_iff_exists.1 (List.find?_isSome.2 (List.any_eq_true.1 hline))
        rw [hl, Option.filter_some, hholds]
        rfl
      exact ⟨touch_bare (.inl hold) .., .inl (touch_lines hold _ _)⟩
    · rw [hdram] at hno
      exact absurd hno (by decide)
    · exact ⟨touch_bare (.inr hser) .., .inr hser⟩
  next => exact .refl s

theorem reread_of_dies {t : State} (hb : t.bare = s.bare) (hd : t.dies = s.dies) : Reread s t := by
  refine ⟨hb, .inl fun line h => ?_⟩
  rwa [die_of_dies hd]

theorem seen_rereads (hc : s.me.chunk = none) (p : Place) (n : Nat) : Reread s (s.seen p n) := by
  have hdue : (s.noteDue p).bare = s.bare ∧ (s.noteDue p).dies = s.dies ∧ (s.noteDue p).me.chunk = s.me.chunk := by
    unfold State.noteDue
    dsimp only
    split <;> exact ⟨rfl, rfl, rfl⟩
  have hmig : ((s.noteDue p).noteMig p).bare = s.bare ∧ ((s.noteDue p).noteMig p).dies = s.dies ∧ ((s.noteDue p).noteMig p).me.chunk = s.me.chunk := by
    unfold State.noteMig
    split
    · exact ⟨(count_bare ..).trans hdue.1, (count_dies ..).trans hdue.2.1, (congrArg Ctx.chunk (count_me ..)).trans hdue.2.2⟩
    · exact hdue
  unfold State.seen
  generalize (s.noteDue p).noteMig p = u at hmig ⊢
  have hite (q : Prop) [Decidable q] : (if q then u.count u.me.die 4 0 0 1 else u).bare = s.bare ∧ (if q then u.count u.me.die 4 0 0 1 else u).dies = s.dies
      ∧ (if q then u.count u.me.die 4 0 0 1 else u).me.chunk = none := by
    split
    · exact ⟨(count_bare ..).trans hmig.1, (count_dies ..).trans hmig.2.1, (congrArg Ctx.chunk (count_me ..)).trans (hmig.2.2.trans hc)⟩
    · exact ⟨hmig.1, hmig.2.1, hmig.2.2.trans hc⟩
  obtain ⟨hb, hd, hchunk⟩ := hite (!p.dev ∧ homeOf p.loc ≠ u.me.die ∧ !isTile p.loc ∧ (lineByte (u.die u.me.die).replicas p.loc).isSome)
  unfold State.noteSpec
  rw [hchunk]
  exact reread_of_dies hb hd

/-- A load that can be performed goes on with its value, and leaves what later reads see as it was. -/
theorem load_rereads (hc : s.me.chunk = none) {spaces n x : Nat} {va : Word} (hal : va.toNat % n = 0) (h : s.ReadsIn spaces va n x) :
    ∃ t, Reread s t ∧ ∀ f, s.load va n spaces f = f t x := by
  obtain ⟨p, bs, hlook, hm, hcalm, hbytes, rfl⟩ := h
  have hseen := seen_rereads hc p (bs.map some).length
  refine ⟨s.noteLoad p (bs.map some), ?_, fun f => load_ok s va n spaces f p bs hal hlook hbytes⟩
  rw [noteLoad_eq hm]
  exact hseen.trans (useLine_rereads (hseen.calm hcalm))

end load

end Sys2Proof.Machine
end

section
/-! The formation of a group (R214, R215, R216, R448, R449; O29). -/

namespace Sys2Proof.Machine

/-! ### The member list is read -/

section list
variable {s t : State}

theorem add_word_step (va : Word) (k : Nat) : va + 8 + word (8 * k) = va + word (8 * (k + 1)) := by
  unfold word
  rw [Nat.mul_add, BitVec.ofNat_add, BitVec.add_assoc, BitVec.add_comm (BitVec.ofNat 64 (8 * k))]
  rfl

theorem add_eight_aligned {va : Word} (h : va.toNat % 8 = 0) : (va + 8).toNat % 8 = 0 := by
  rw [BitVec.toNat_add, show (8 : Word).toNat = 8 from rfl]
  omega

/-- Dwords in turn: each is read through what the reads before it leave. -/
theorem loadDwords_rereads (ws : List Word) : ∀ {s : State} {va : Word}, s.me.chunk = none → va.toNat % 8 = 0 →
    (∀ k v, ws[k]? = some v → s.ReadsIn 0 (va + word (8 * k)) 8 v.toNat) → ∃ t, Reread s t ∧ ∀ f, s.loadDwords va f ws.length = f t ws := by
  induction ws with
  | nil => exact fun {s} _ _ _ _ => ⟨s, .refl s, fun _ => rfl⟩
  | cons w ws ih =>
    intro s va hc hal h
    have hfirst : s.ReadsIn 0 va 8 w.toNat := by simpa [word] using h 0 w rfl
    obtain ⟨u, hu, hload⟩ := load_rereads hc hal hfirst
    obtain ⟨t, ht, hrest⟩ := ih (s := u) (va := va + 8) (hu.chunk.trans hc) (add_eight_aligned hal) fun k v hk =>
      hu.readsIn hc (by decide) (by rw [add_word_step]; exact h (k + 1) v hk)
    refine ⟨t, hu.trans ht, fun f => ?_⟩
    have hw : word w.toNat = w := BitVec.ofNat_toNat ..
    rw [List.length_cons, State.loadDwords, hload, hrest, hw]

theorem Reread.myMod (h : Reread s t) (d : DieId) : t.myMod d = s.myMod d := by
  unfold State.myMod
  rw [h.dieField Die.regs (fun _ => rfl) d]

theorem Reread.present (h : Reread s t) (n : Nat) : t.present n = s.present n := h.dieField Die.present (fun _ => rfl) _

theorem Reread.here (h : Reread s t) (d : DieId) (m : Member) : t.here d m = s.here d m := by
  unfold State.here
  rw [h.myMod]

theorem Reread.listOk (h : Reread s t) (d : DieId) (ws : List Word) (par : Word) : t.listOk d ws par = s.listOk d ws par := by
  unfold State.listOk
  simp only [h.myMod, h.here, h.present]

theorem Reread.sameGroups (h : Reread s t) : s.SameGroups t := fun d => h.dieField Die.groups (fun _ => rfl) d

theorem freeHandle_of_same (h : s.SameGroups t) (d : DieId) : t.freeHandle d = s.freeHandle d := by
  unfold State.freeHandle
  simp only [group?_of_same h]

/-- A list that passes its checks has a member for each of its dwords, this die among them. -/
theorem members_of_listOk {d : DieId} {w0 par : Word} {ws : List Word} {ms : List Member} {det : Bool} (h : s.listOk d (w0 :: ws) par = some (ms, det)) :
    ms.length = ws.length ∧ ⟨s.myMod d, d⟩ ∈ ms := by
  unfold State.listOk at h
  dsimp only at h
  split at h
  next hok =>
    obtain ⟨rfl, -⟩ := Prod.mk.inj (Option.some.inj h)
    simp only [Bool.and_eq_true] at hok
    exact ⟨by simp, List.contains_iff_mem.1 hok.1.2⟩
  next => cases h

end list

/-! ### A formation starts in a new entry -/

section start
variable {s t : State} {d : DieId} {h : BitVec 8} {f : Forming} {ms : List Member} {det : Bool} {tmo : Nat}

theorem rankIn_lt {m : Member} (h : m ∈ ms) : rankIn ms m < ms.length := List.findIdx_lt_length_of_exists ⟨m, h, beq_self_eq_true m⟩

theorem rankIn_get {m : Member} (h : m ∈ ms) : ms[rankIn ms m]? = some m := by
  have hlt := rankIn_lt h
  rw [List.getElem?_eq_getElem hlt]
  have hat := List.findIdx_getElem (w := hlt)
  exact congrArg some (beq_iff_eq.1 hat)

/-- The formation that a `gform` of the slot starts, and the new entry that it takes. -/
def State.formingOf (s : State) (ms : List Member) (det : Bool) (tmo : Nat) : Forming :=
  ⟨ms, BitVec.ofNat 10 (rankIn ms ⟨s.myMod s.me.die, s.me.die⟩), det, false, tmo, s.me.strand, s.tick⟩
def Group.starting (h : BitVec 8) (f : Forming) : Group := { Group.free h with state := .forming, forming := some f }

theorem formingOf_rank (hm : (⟨s.myMod s.me.die, s.me.die⟩ : Member) ∈ ms) (hn : ms.length ≤ 1024) :
    (s.formingOf ms det tmo).rank.toNat = rankIn ms ⟨s.myMod s.me.die, s.me.die⟩ := by
  have := rankIn_lt hm
  exact Nat.mod_eq_of_lt (by omega)

/-- Rank 0 that alone has registered waits for the others (R449). -/
theorem collect_alone {g : Group} {r : GroupReg} {o : Option (DieId × BitVec 8)} (hregs : g.regs = [(r, o)]) (hm : r.members = f.members) (hd : r.det = f.det) (hre : r.reform = f.reform)
    (hr : r.rank = 0) (hn : 2 ≤ f.members.length) (s : State) (d : DieId) : s.collect d g f = s := by
  have hall : ((upFrom 0 f.members.length).all fun k => g.regs.any fun x => x.1.rank == k) = false := by
    refine List.all_eq_false.2 ⟨1, ?_, by simp [hregs, hr]⟩
    rw [upFrom_eq_range', List.mem_range'_1]
    omega
  unfold State.collect
  dsimp only
  rw [hall, if_neg (by simp [hregs, hm, hd, hre])]
  rfl

/-- A new entry registers with rank 0 of its list, and waits for the others (R449). -/
theorem register_starts (hn : 2 ≤ f.members.length) (hre : f.reform = false) (s : State) (d : DieId) (h : BitVec 8) : ∃ regs l a w,
    s.register d (.starting h f) f = { s.putGroup d { Group.starting h f with regs } with net := l, away := a, wire := w }
      ∧ (f.rank ≠ 0 → ∀ z, f.members.head? = some z → s.here d z = true → .register ⟨z.die, 0, f.rank.toNat, f.members, f.det, false, 0⟩ d h ∈ l) := by
  cases hms : f.members with
  | nil => rw [hms] at hn; exact absurd hn (by decide)
  | cons z zs =>
    by_cases hr : f.rank = 0
    · refine ⟨[((Group.starting h f).reg f d h, some (d, h))], s.net, s.away, s.wire, ?_, fun h0 => absurd hr h0⟩
      unfold State.register
      simp only [hms, if_pos hr]
      exact collect_alone rfl rfl rfl rfl (by rw [Group.reg, hr]; rfl) hn _ _
    · have hhere : (s.putGroup d (.starting h f)).here d z = s.here d z := by
        unfold State.here State.myMod
        rw [State.putGroup, die_mapDie_of (P := Die.regs) (by intro _; rfl)]
      obtain ⟨a, w, haway⟩ := sendAway_eq (s.putGroup d (.starting h f)) z (.register ((Group.starting h f).reg f z.die 0))
      unfold State.register
      simp only [hms, if_neg hr, hhere]
      by_cases hz : s.here d z = true
      · refine ⟨[], _, _, _, if_pos hz, fun _ y hy _ => ?_⟩
        obtain rfl := Option.some.inj hy
        refine List.mem_append_right _ (List.mem_singleton.2 ?_)
        rw [Group.reg, hre, hms]
        rfl
      · refine ⟨[], _, a, w, (if_neg hz).trans haway, fun _ y hy hhy => ?_⟩
        obtain rfl := Option.some.inj hy
        exact absurd hhy hz

/-- The slot waits for a formation. -/
def Ctx.awaits (h : BitVec 8) (tick tmo : Nat) (c : Ctx) : Ctx :=
  { c with wait := some ⟨.group, h.toNat, tick, tick, tmo, true, 0, tick + Config.nackTicks, false⟩, wend := none }

theorem startForm_starts (hw : s.me.wait = none) (hn : 2 ≤ ms.length) : ∃ regs,
    (s.startForm (.free h) ms det false tmo).group? s.me.die h = some { Group.starting h (s.formingOf ms det tmo) with regs }
      ∧ (s.startForm (.free h) ms det false tmo).me = s.me.awaits h s.tick tmo ∧ (s.startForm (.free h) ms det false tmo).mem = s.mem
      ∧ ((s.formingOf ms det tmo).rank ≠ 0 → ∀ z, ms.head? = some z → s.here s.me.die z = true →
        .register ⟨z.die, 0, (s.formingOf ms det tmo).rank.toNat, ms, det, false, 0⟩ s.me.die h ∈ (s.startForm (.free h) ms det false tmo).net) := by
  obtain ⟨u, hu⟩ : ∃ u, u = s.mapDie s.me.die fun x => { x with refused := x.refused.filter fun q => q.1 != (Group.starting h (s.formingOf ms det tmo)).handle } := ⟨_, rfl⟩
  obtain ⟨hme, htick, hmem⟩ : u.me = s.me ∧ u.tick = s.tick ∧ u.mem = s.mem := by rw [hu]; exact ⟨rfl, rfl, rfl⟩
  have hhere (z : Member) : u.here s.me.die z = s.here s.me.die z := by
    unfold State.here State.myMod
    rw [hu, die_mapDie_of (P := Die.regs) (by intro _; rfl)]
  obtain ⟨regs, l, a, w, hreg, hnet⟩ := register_starts (f := s.formingOf ms det tmo) hn rfl u s.me.die h
  have hform : s.startForm (.free h) ms det false tmo = (u.register s.me.die (.starting h (s.formingOf ms det tmo)) (s.formingOf ms det tmo)).waitAt .group h.toNat u.tick tmo true false := by
    rw [hu]
    rfl
  rw [hreg, waitAt_fresh (hme ▸ hw)] at hform
  rw [hform]
  refine ⟨regs, putGroup_group? u s.me.die { Group.starting h (s.formingOf ms det tmo) with regs }, ?_, hmem, fun hr z hz hhz => hnet hr z hz ((hhere z).trans hhz)⟩
  change u.me.awaits h u.tick tmo = _
  rw [hme, htick]

end start

end Sys2Proof.Machine
end

section
/-! The instructions on groups (R214, R215, R217, R221, R448; O29). -/

namespace Sys2Proof.Machine

/-! ### gform (R214, R215) -/

section gform
variable {s : State} {d a b : SReg}

theorem heldAt_aligned (hc : s.me.chunk = none) {k : AccessKind} {align n spaces : Nat} {va : Word} (hal : va.toNat % align = 0) (f : State → State) :
    s.heldAt k align n spaces va f = f s := by
  have hspec : s.me.speculative = false := by unfold Ctx.speculative; rw [hc]
  unfold State.heldAt
  rw [if_neg (by simp [hal]), hspec, held_serial _ _ hc]
  rfl

theorem formResult_ok (s : State) (d : SReg) (gen : BitVec 32) (h : BitVec 8) : s.formResult d 0 gen h = s.result d (word (gen.toNat * 2 ^ 16 + h.toNat)) := by
  unfold State.formResult State.result
  rw [show (0 : BitVec 8) = gOK from rfl]
  simp only [if_true, show (gOK : BitVec 8).toNat = 0 from rfl, Nat.zero_mul, Nat.zero_add]

theorem formResult_failed {status : BitVec 8} (h0 : status ≠ 0) (s : State) (d : SReg) (gen : BitVec 32) (h : BitVec 8) :
    s.formResult d status gen h = ({ s with fresh := s.fresh + 1 } : State).result d (word (status.toNat * 2 ^ 56 + (Config.freeForm s.fresh).toNat)) := by
  have hne : ¬ status = gOK := h0
  unfold State.formResult State.result
  simp only [if_neg hne]

/-- A state whose `gform` has taken the outcome that waited for the strand. -/
def State.outcomeTaken (s : State) (o : FormDone) : State :=
  (s.mapDie s.me.die fun x => { x with formed := x.formed.erase o }).mapMe fun c => { c with wait := none }

theorem gform_takes (hc : s.me.chunk = none) (hal : (s.getS a).toNat % 8 = 0) {out : FormDone} (hf : (s.die s.me.die).formed.find? (fun o => o.strand == s.me.strand) = some out) :
    exec (.gform d a b) s = .next ((s.outcomeTaken out).formResult d out.status out.gen out.handle) := by
  change execGform d a b s = _
  unfold execGform
  dsimp only
  rw [heldAt_aligned hc hal, hf]
  rfl

/-- A `gform` without an outcome, whose release is done, reads its list. -/
theorem gform_reads (hc : s.me.chunk = none) (hal : (s.getS a).toNat % 8 = 0) (hformed : ∀ o ∈ (s.die s.me.die).formed, o.strand ≠ s.me.strand)
    (hforming : ∀ q ∈ (s.die s.me.die).groups, ∀ f, q.forming = some f → f.strand ≠ s.me.strand) (hset : s.settled .die s.me.dmask = true) {w0 : Word} {ws : List Word}
    (hr : s.ReadsIn 0 (s.getS a) 8 w0.toNat) (hlen : bits w0 0 11 = ws.length) (hle : ws.length ≤ 1024)
    (hws : ∀ k v, ws[k]? = some v → s.ReadsIn 0 (s.getS a + 8 + word (8 * k)) 8 v.toNat) :
    ∃ t, Reread s t ∧ exec (.gform d a b) s = .next (t.form d (w0 :: ws) (s.getS b)) := by
  have hnone : (s.die s.me.die).formed.find? (fun r => r.strand == s.me.strand) = none := List.find?_eq_none.2 fun o ho => by simpa using hformed o ho
  have hentry : (s.die s.me.die).groups.findSome? (fun g => g.forming.bind fun f => if f.strand = s.me.strand then some (g, f) else none) = none := by
    refine List.findSome?_eq_none_iff.2 fun q hq => ?_
    cases hf : q.forming with
    | none => rfl
    | some f => exact if_neg (hforming q hq f hf)
  have hn : w0.toNat % 2 ^ 11 = ws.length := by simpa [bits] using hlen
  obtain ⟨u, hu, hload⟩ := load_rereads hc hal hr
  obtain ⟨t, ht, hrest⟩ := loadDwords_rereads ws (hu.chunk.trans hc) (add_eight_aligned hal) fun k v hk => hu.readsIn hc (by decide) (hws k v hk)
  refine ⟨t, hu.trans ht, ?_⟩
  have hw : word w0.toNat = w0 := BitVec.ofNat_toNat ..
  change execGform d a b s = _
  unfold execGform State.release
  dsimp only
  rw [heldAt_aligned hc hal, hnone, hentry]
  simp only [hal, hset, ne_eq, not_true_eq_false, if_false, if_true, reduceCtorEq]
  rw [hload, hn, if_neg (by omega), hrest, hw]

/-- R216: an empty list fails. -/
theorem form_empty {w0 par : Word} (h0 : bits w0 0 11 = 0) (ws : List Word) (t : State) (d : SReg) : t.form d (w0 :: ws) par = t.formResult d gBADLIST 0 0 := by
  unfold State.form
  exact if_pos (.inl h0)

/-- R215: a list that passes its checks starts a formation in the entry that is free. -/
theorem form_starts {t : State} {w0 par : Word} {ws : List Word} {ms : List Member} {det : Bool} {h : BitVec 8} (hlen : bits w0 0 11 = ws.length) (hn : 2 ≤ ws.length)
    (hle : ws.length ≤ 1024) (hlist : t.listOk t.me.die (w0 :: ws) par = some (ms, det)) (hnew : bits par 32 16 = 0xFFFF) (hfree : t.freeHandle t.me.die = some h) (d : SReg) :
    t.form d (w0 :: ws) par = t.startForm (.free h) ms det false (tmoTicks (bits par 0 20)) := by
  unfold State.form
  simp only [List.headD_cons, hlen, hlist, hnew, hfree, if_true]
  exact if_neg (by omega)

end gform

/-! ### cabort (R221, R448) -/

section cabort
variable {s : State} {d : DieId} {g : Group} {gid : Gid} {cause : BitVec 8}

/-- One other member hears of an abort. -/
def State.tellAbort (s : State) (d : DieId) (gid : Gid) (gen : BitVec 32) (cause : BitVec 8) (m : Member) : State :=
  if s.here d m then s.send (.abort d m.die gid gen) else s.sendAway m (.abort gid gen cause)

theorem sendAborts_eq (hgid : g.gid = some gid) : s.sendAborts d g cause
    = (g.members.filter fun m => m != ⟨s.myMod d, d⟩).foldl (fun s m => s.tellAbort d gid g.gen cause m) s := by
  unfold State.sendAborts
  rw [hgid]
  rfl

theorem tellAbort_here (gen : BitVec 32) (m z : Member) : (s.tellAbort d gid gen cause m).here d z = s.here d z := by
  have hdies : (s.tellAbort d gid gen cause m).dies = s.dies := by
    unfold State.tellAbort
    split
    · rfl
    · exact sendAway_dies ..
  unfold State.here State.myMod
  rw [die_of_dies hdies]

theorem tellAbort_net {p : Packet} (h : p ∈ s.net) (gen : BitVec 32) (m : Member) : p ∈ (s.tellAbort d gid gen cause m).net := by
  unfold State.tellAbort
  split
  · exact List.mem_append_left _ h
  · obtain ⟨_, _, haway⟩ := sendAway_eq s m (.abort gid gen cause)
    rw [haway]
    exact h

theorem tellAbort_tells {m : Member} (h : s.here d m = true) (gen : BitVec 32) : .abort d m.die gid gen ∈ (s.tellAbort d gid gen cause m).net := by
  unfold State.tellAbort
  rw [if_pos h]
  exact List.mem_append_right _ (List.mem_singleton_self _)

theorem tellAborts_net {p : Packet} (gen : BitVec 32) (l : List Member) : ∀ {s : State},
    (p ∈ s.net ∨ ∃ m ∈ l, s.here d m = true ∧ p = .abort d m.die gid gen) → p ∈ (l.foldl (fun s m => s.tellAbort d gid gen cause m) s).net := by
  induction l with
  | nil =>
    rintro s (h | ⟨m, hm, -⟩)
    · exact h
    · cases hm
  | cons z l ih =>
    rintro s (h | ⟨m, hm, hhere, rfl⟩)
    · exact ih (.inl (tellAbort_net h gen z))
    · rcases List.mem_cons.1 hm with rfl | hm
      · exact ih (.inl (tellAbort_tells hhere gen))
      · exact ih (.inr ⟨m, hm, (tellAbort_here gen z m).trans hhere, rfl⟩)

theorem sendAborts_slot (s : State) (d : DieId) (g : Group) (cause : BitVec 8) : ((s.sendAborts d g cause).me, (s.sendAborts d g cause).mem) = (s.me, s.mem) := by
  unfold State.sendAborts
  split
  · rfl
  · refine foldl_keeps (fun s => (s.me, s.mem)) _ (fun t m => ?_) _ _
    split
    · rfl
    · obtain ⟨_, _, haway⟩ := sendAway_eq t m (.abort _ g.gen cause)
      rw [haway]

/-- A READY group without pending collectives ends; the slot and memory are as before, and the members here are told. -/
theorem detectAbort_tells (s : State) (d : DieId) (cause : BitVec 8) (hr : g.state = .ready) (hops : g.ops = []) :
    (s.detectAbort d g cause).me = s.me ∧ (s.detectAbort d g cause).mem = s.mem
      ∧ (s.detectAbort d g cause).group? d g.handle = some { g with state := .aborted, cause, early := [] }
      ∧ ∀ gid, g.gid = some gid → ∀ m ∈ g.members, m ≠ ⟨s.myMod d, d⟩ → s.here d m = true → .abort d m.die gid g.gen ∈ (s.detectAbort d g cause).net := by
  have hne : ¬ g.state ≠ .ready := by simp [hr]
  have hdies := (detectAbort_idle s d cause hr hops).1
  obtain ⟨u, hu⟩ : ∃ u, u = (s.putGroup d { g with state := .aborted, cause, early := [] }).count d 0 0 9 1 := ⟨_, rfl⟩
  have hx : s.detectAbort d g cause = u.sendAborts d g cause := by
    rw [State.detectAbort, if_neg hne, State.applyAbort, if_neg hne, hu]
    dsimp only
    rw [hops]
    rfl
  have hmod : u.myMod d = s.myMod d := by
    unfold State.myMod
    rw [hu, die_of_dies (count_dies ..), State.putGroup, die_mapDie_of (P := Die.regs) (by intro _; rfl)]
  obtain ⟨hme, hmem⟩ := Prod.mk.inj (sendAborts_slot u d g cause)
  refine ⟨?_, ?_, ?_, fun gid hgid m hm hown hhere => ?_⟩
  · rw [hx, hme, hu, count_me]; rfl
  · rw [hx, hmem, hu, count_mem]; rfl
  · exact (group?_of_same (sameGroups_of_dies hdies) d g.handle).trans (putGroup_group? s d { g with state := .aborted, cause, early := [] })
  · rw [hx, sendAborts_eq hgid]
    refine tellAborts_net g.gen _ (.inr ⟨m, List.mem_filter.2 ⟨hm, by rw [hmod]; simpa using hown⟩, ?_, rfl⟩)
    unfold State.here at hhere ⊢
    rw [hmod, hhere]

end cabort

/-! ### A collective of an ended group (R219, R448) -/

section ended
variable {s u : State} {p : Place} {bytes : Nat}

/-- The word of a barrier once bytes that were posted last are landed with ABORT, from its word and its reload word before (R190). -/
def abortedWord (w rl : Nat) : Nat :=
  if w % 2 ^ 61 = 0 then (1 - w / 2 ^ 63) * 2 ^ 63 + max (w / 2 ^ 61 % 4) 2 * 2 ^ 61 + rl % 2 ^ 61
  else w / 2 ^ 63 * 2 ^ 63 + max (w / 2 ^ 61 % 4) 2 * 2 ^ 61 + w % 2 ^ 61

theorem landed_word {x rl : Word} {w : Nat} (hx : x.toNat = w + bytes) (hsum : w % 2 ^ 40 + bytes < 2 ^ 40) :
    ((Bar.ofWord x).landed (Bar.ofWord rl) bytes 2).1.word.toNat = abortedWord w rl.toNat := by
  have hlt := x.isLt
  have hphase : phaseNat (Bar.ofWord x).phase = w / 2 ^ 63 * 2 ^ 63 := by rw [ofWord_phase]; omega
  have hstatus : (Bar.ofWord x).status = w / 2 ^ 61 % 4 := by rw [ofWord_status]; omega
  have harr : (Bar.ofWord x).arr = w / 2 ^ 40 % 2 ^ 21 := by rw [ofWord_arr]; omega
  have hbytes : (Bar.ofWord x).bytes = w % 2 ^ 40 + bytes := by rw [ofWord_bytes]; omega
  have hno : ¬ (Bar.ofWord x).bytes < bytes := by omega
  unfold Bar.landed abortedWord
  rw [if_neg hno, hbytes, hstatus, Nat.add_sub_cancel, Bar.settle]
  by_cases h0 : w % 2 ^ 61 = 0
  · rw [if_pos h0, if_pos (by dsimp only; omega), bar_word_toNat]
    dsimp only
    rw [phaseNat_not, ofWord_arr, ofWord_bytes]
    omega
  · rw [if_neg h0, if_neg (by dsimp only; omega), bar_word_toNat]
    dsimp only
    rw [hphase, harr]
    omega

end ended

end Sys2Proof.Machine
end

section
/-! The instructions on groups, settled (R214 to R221; O29). -/

namespace Sys2Proof.Machine

section ended
variable {s u : State} {p : Place} {bytes : Nat}

/-- Bytes that have been posted are landed with ABORT, and the slot goes on. -/
theorem lands_abort (h : Posted s u p bytes) (hb : 0 < bytes) (hsum : numAt s.mem p.loc 8 % 2 ^ 40 + bytes < 2 ^ 40) :
    Passed s (u.landAt p.loc bytes 2).done4 4 ∧ SlotKept s (u.landAt p.loc bytes 2).done4 id
      ∧ Stored s (u.landAt p.loc bytes 2).done4 p.loc 8 (abortedWord (numAt s.mem p.loc 8) (numAt s.mem (p.loc + 8) 8)) := by
  have hlt := numAt_lt_two s.mem p.loc 8
  have hword : (word (numAt s.mem p.loc 8 + bytes)).toNat = numAt s.mem p.loc 8 + bytes := word_toNat (by omega)
  have hrd : u.rd p.loc = word (numAt s.mem p.loc 8 + bytes) := rd_of_get fun i hi => by
    rw [h.stored, if_pos (by omega), Nat.add_sub_cancel_left, w64, bytesOf_get _ _ _ hi, hword]
    rfl
  have hrl : u.rd (p.loc + 8) = s.rd (p.loc + 8) := rd_of_get fun i hi => by
    rw [h.stored, if_neg (by omega), w64, bytesOf_get _ _ _ hi, rd_toNat]
    exact (numAt_byte _ _ _ _ hi).symm
  have hmem : (u.landAt p.loc bytes 2).done4.mem = _ := (mem_of_outside (advance_keeps _ 4 id).2.outside).trans (by rw [landAt_eq hb.ne', putBar_mem])
  rw [landed_word (by rw [hrd, hword]) hsum, hrl, rd_toNat] at hmem
  have hlike : Like s (u.landAt p.loc bytes 2) := h.like.trans (like_of_crew (by rw [landAt_eq hb.ne']; exact putBar_crew h.serial ..))
  refine ⟨hlike.done4.1, hlike.done4.2, fun y => ?_⟩
  rw [stored_of_mem h.memOk hmem y]
  by_cases hy : p.loc ≤ y ∧ y < p.loc + 8
  · rw [if_pos hy, if_pos hy]
  · rw [if_neg hy, if_neg hy, h.stored, if_neg hy]

/-- A collective that no READY group takes lands ABORT at once. -/
theorem completes_aborted {i : Instr} {c : List (Nat × Word)} {m n : Nat} {og : Option Group} {fields : BitVec 48} {sa sd sb : Word} {src dst : List (Place × Nat)}
    (hx : exec i s = .next ((s.noted c m).postColl og fields n sa sd sb src dst p)) (hno : ∀ q, og = some q → q.state ≠ .ready)
    (hm : s.MemOk) (hs : s.Serial) (hh : homeOf p.loc = s.me.die) (hsrc : ∀ q ∈ src, q.1.Marked false) (hdst : ∀ q ∈ dst, q.1.Marked true)
    (hb : 0 < (CollRec.ofFields fields).posted n) (hbytes : (CollRec.ofFields fields).posted n < 2 ^ 40)
    (hsum : numAt s.mem p.loc 8 % 2 ^ 40 + (CollRec.ofFields fields).posted n < 2 ^ 40) :
    Completes i s fun t => Passed s t 4 ∧ SlotKept s t id ∧ Stored s t p.loc 8 (abortedWord (numAt s.mem p.loc 8) (numAt s.mem (p.loc + 8) 8)) := by
  obtain ⟨u, hposted, -, hlands⟩ := postColl_posts (g := .free 0) (s := s.noted c m) (sa := sa) (sd := sd) (sb := sb) hm hs hh hsrc hdst hbytes hsum
  rw [hlands og hno] at hx
  exact ⟨_, hx, lands_abort hposted.of_noted hb hsum⟩

end ended

section clauses
variable {s v : State} {d a b : SReg}

theorem Like.resultMem (h : Like s v) (hm : v.mem = s.mem) (d : SReg) (x : Word) :
    WroteS s (v.result d x) d x ∧ Passed s (v.result d x) 4 ∧ (v.result d x).mem = s.mem ∧ SlotKept s (v.result d x) Ctx.noS := by
  obtain ⟨hw, hp, hk⟩ := h.result d x
  exact ⟨hw, hp, (mem_of_outside (result_effect v d x).2.2.outside).trans hm, hk⟩

/-- An outcome that waited is written and no longer waits. -/
theorem outcome_effect (s : State) (out : FormDone) : Like s (s.outcomeTaken out) ∧ ((s.outcomeTaken out).die s.me.die).formed = (s.die s.me.die).formed.erase out := by
  exact ⟨⟨rfl, rfl⟩, congrArg Die.formed (die_mapDie_self s s.me.die fun x => { x with formed := x.formed.erase out })⟩

/-- A result of no success is written. -/
theorem failed_result (h : Like s v) (hm : v.mem = s.mem) {status : BitVec 8} (h0 : status ≠ 0) (d : SReg) (gen : BitVec 32) (k : BitVec 8) :
    (∃ low : BitVec 48, WroteS s (v.formResult d status gen k) d (word (status.toNat * 2 ^ 56 + low.toNat))) ∧ Passed s (v.formResult d status gen k) 4
      ∧ (v.formResult d status gen k).mem = s.mem ∧ SlotKept s (v.formResult d status gen k) Ctx.noS := by
  rw [formResult_failed h0]
  have hlike : Like s { v with fresh := v.fresh + 1 } := ⟨h.slot, h.pc⟩
  obtain ⟨hw, hp, hmem, hk⟩ := hlike.resultMem hm d (word (status.toNat * 2 ^ 56 + (Config.freeForm v.fresh).toNat))
  exact ⟨⟨_, hw⟩, hp, hmem, hk⟩

/-- A formation that starts: what the entry, the messages and the slot hold. -/
theorem startForm_effect {t : State} {ms : List Member} {det : Bool} {hd : BitVec 8} {tmo : Nat} (ht : Reread s t) (hw : s.me.wait = none) (hn : 2 ≤ ms.length) (hle : ms.length ≤ 1024)
    (hown : (⟨s.myMod s.me.die, s.me.die⟩ : Member) ∈ ms) (hv : v = t.startForm (.free hd) ms det false tmo) :
    (∃ q f, v.group? s.me.die hd = some q ∧ q.state = .forming ∧ q.gen = 0 ∧ q.forming = some f ∧ f.members = ms ∧ f.det = det ∧ f.reform = false
      ∧ f.strand = s.me.strand ∧ f.since = s.tick ∧ f.tmo = tmo ∧ ms[f.rank.toNat]? = some ⟨s.myMod s.me.die, s.me.die⟩
      ∧ ∀ z, ms.head? = some z → z ≠ ⟨s.myMod s.me.die, s.me.die⟩ → s.here s.me.die z = true → .register ⟨z.die, 0, f.rank.toNat, ms, det, false, 0⟩ s.me.die hd ∈ v.net)
      ∧ v.me.pc = s.me.pc ∧ SameMemory s v ∧ SlotKept s v id ∧ ∃ w, v.me.wait = some w ∧ w.what = .group ∧ w.loc = hd.toNat ∧ w.lim = tmo := by
  have htick : t.tick = s.tick := (congrArg State.tick ht.bare : t.bare.tick = s.bare.tick)
  have hmod := ht.myMod s.me.die
  obtain ⟨regs, hgroup, hme, hmem, hnet⟩ := startForm_starts (s := t) (h := hd) (det := det) (tmo := tmo) ((ht.field Ctx.wait fun _ => rfl).trans hw) hn
  rw [← hv, ht.die] at hgroup hnet
  rw [← hv] at hme hmem
  have hrank : (t.formingOf ms det tmo).rank.toNat = rankIn ms ⟨s.myMod s.me.die, s.me.die⟩ := by
    rw [← hmod, ← ht.die]
    exact formingOf_rank (by rw [ht.die, hmod]; exact hown) hle
  refine ⟨⟨_, t.formingOf ms det tmo, hgroup, rfl, rfl, rfl, rfl, rfl, rfl, ht.like.strand, htick, rfl, ?_, fun z hz hne hhere => ?_⟩, ?_, ?_, ?_, ?_⟩
  · rw [hrank]
    exact rankIn_get hown
  · refine hnet (fun h0 => hne ?_) z hz ((ht.here _ z).trans hhere)
    have hfirst := rankIn_get hown
    rw [← hrank, h0, show (0 : BitVec 10).toNat = 0 from rfl, ← List.head?_eq_getElem?, hz] at hfirst
    exact Option.some.inj hfirst
  · rw [hme]
    exact ht.like.pc
  · intro y
    rw [hmem, ht.mem]
  · unfold SlotKept
    rw [hme]
    exact ht.like.slot
  · exact ⟨_, by rw [hme]; rfl, rfl, rfl, rfl⟩

/-- `cabort` on a READY group without pending collectives. -/
theorem cabort_ends {g : Group} (hc : s.me.chunk = none) (hh : (s.getS a).toNat < 256) (hg : s.group? s.me.die (BitVec.ofNat 8 (s.getS a).toNat) = some g) (hr : g.state = .ready)
    (hops : g.ops = []) : Completes (.cabort a) s fun t => Passed s t 4 ∧ t.mem = s.mem ∧ SlotKept s t id
      ∧ t.group? s.me.die (BitVec.ofNat 8 (s.getS a).toNat) = some { g with state := .aborted, cause := gLOCAL, early := [] }
      ∧ ∀ gid, g.gid = some gid → ∀ m ∈ g.members, m ≠ ⟨s.myMod s.me.die, s.me.die⟩ → s.here s.me.die m = true → .abort s.me.die m.die gid g.gen ∈ t.net := by
  obtain ⟨hme, hmem, hgroup, htold⟩ := detectAbort_tells s s.me.die gLOCAL hr hops
  have hout : (s.detectAbort s.me.die g gLOCAL).done4.outside = _ := (advance_keeps (s.detectAbort s.me.die g gLOCAL) 4 id).2.outside
  have hlike : Like s (s.detectAbort s.me.die g gLOCAL) := like_of_lean (congrArg Ctx.lean hme)
  have hx : exec (.cabort a) s = .next (s.detectAbort s.me.die g gLOCAL).done4 := by
    refine congrArg Host.Outcome.next ((held_serial s _ hc).trans ?_)
    rw [if_pos hh, hg]
  refine ⟨_, hx, hlike.done4.1, (mem_of_outside hout).trans hmem, hlike.done4.2, ?_, fun gid hgid m hm hown hhere => ?_⟩
  · rw [group?_of_same (done4_groups _), ← group?_handle hg]
    exact hgroup
  · rw [net_of_outside hout]
    exact htold gid hgid m hm hown hhere

/-- `cabort` on any other handle. -/
theorem cabort_passes (hc : s.me.chunk = none) (hno : 256 ≤ (s.getS a).toNat ∨ ∀ q, s.group? s.me.die (BitVec.ofNat 8 (s.getS a).toNat) = some q → q.state ≠ .ready) :
    exec (.cabort a) s = .next s.done4 := by
  refine congrArg Host.Outcome.next ((held_serial s _ hc).trans (congrArg State.done4 ?_))
  split
  next q hq =>
    have hready : q.state ≠ .ready := by
      rcases hno with hh | hno
      · rw [if_neg (by omega)] at hq
        cases hq
      · split at hq
        · exact hno q hq
        · cases hq
    exact if_pos hready
  next => rfl

end clauses

/-- Settles O29: a list is read through what the reads before it leave (`loadDwords_rereads`); what a formation, an abort and a landing change is said of each once. -/
theorem groupInstructions : Obligations.GroupInstructions := by
  unfold Obligations.GroupInstructions
  intro d a b x s g out gid w0 rec ws ms det hd p src dst n rank
  dsimp only
  intro hc
  refine ⟨fun hal hout => ?_, ?_, ?_, ?_, ?_, ?_, ?_⟩
  · have hx := gform_takes (d := d) (b := b) hc hal hout
    obtain ⟨hlike, hformed⟩ := outcome_effect s out
    refine ⟨fun h0 => ?_, fun h0 => ⟨_, hx, failed_result hlike rfl h0 d out.gen out.handle⟩⟩
    rw [h0, formResult_ok] at hx
    obtain ⟨hw, hp, hmem, hk⟩ := hlike.resultMem rfl d (word (out.gen.toNat * 2 ^ 16 + out.handle.toNat))
    exact ⟨_, hx, hw, hp, hmem, hk, by rw [die_of_dies (dies_of_outside (result_effect _ d _).2.2.outside), hformed]⟩
  · rintro ⟨hal, hformed, hforming, hset, hw, hr⟩ hlen hn hle hws hlist hnew hfree
    obtain ⟨t, ht, hx⟩ := gform_reads (d := d) (b := b) hc hal hformed hforming hset hr hlen hle hws
    obtain ⟨hms, hown⟩ := members_of_listOk hlist
    rw [form_starts hlen hn hle (by rw [ht.die, ht.listOk]; exact hlist) hnew (by rw [ht.die, freeHandle_of_same ht.sameGroups]; exact hfree)] at hx
    exact ⟨_, hx, startForm_effect ht hw (hms ▸ hn) (hms ▸ hle) hown rfl⟩
  · rintro ⟨hal, hformed, hforming, hset, hw, hr⟩ h0
    obtain ⟨t, ht, hx⟩ := gform_reads (d := d) (b := b) (ws := []) hc hal hformed hforming hset hr h0 (by decide) fun k v hk => by cases hk
    rw [form_empty h0] at hx
    obtain ⟨hres, hp, hmem, hk⟩ := failed_result ht.like ht.mem (status := gBADLIST) (by decide) d 0 0
    exact ⟨_, hx, hres, hp, sameMemory_of_mem hmem, hk⟩
  · obtain ⟨hw, hp, hk⟩ := result_effect s d (match (if (s.getS a).toNat < 256 then s.group? s.me.die (BitVec.ofNat 8 (s.getS a).toNat) else none) with
      | some q => q.stat
      | none => 0)
    exact ⟨_, congrArg Host.Outcome.next (held_serial s _ hc), hp, hk, hw⟩
  · intro hh hg hr hops
    obtain ⟨t, hx, hp, hmem, hk, hgroup, htold⟩ := cabort_ends hc hh hg hr hops
    exact ⟨t, hx, hp, hmem, hk, hgroup, htold gid⟩
  · exact fun hno => ⟨_, cabort_passes hc hno, advance_keeps s 4 id⟩
  · intro hm hs hox hended hcount hb hal hne hlt hreach hdram hhome hilk hset hbytes hsum
    rcases hended with ⟨hh, hg, hab, rfl, rfl, hmem, hroot, hdet, hsrc, hdst, hmsrc, hmdst⟩ | ⟨hno, rfl⟩
    · have hshape := shape_of_members (g := g) (by rw [hab]; decide) hmem
      obtain ⟨c, hx⟩ := coll_reaches (det := g.det) (formed := true) ⟨hm, hs, hox, fun _ => hroot, hcount, fun h _ => hdet h, hal, hne, hlt, hreach, hhome, hilk,
        fun len hl => by rw [hl]; exact hsrc, fun len hl => by rw [hl]; exact hdst, hset, hbytes, hsum⟩ (og := some g) (by rw [if_pos hh, hg])
        (by rw [Option.bind_some, hshape]; rfl) (by rw [Option.bind_some, hshape]; rfl)
      exact completes_aborted hx (fun q hq => by obtain rfl := Option.some.inj hq; rw [hab]; decide) hm hs hhome hmsrc hmdst hb hbytes hsum
    · have hnone : (if bits rec 48 16 < 256 then s.group? s.me.die (BitVec.ofNat 8 (bits rec 48 16)) else none) = none := by
        rcases hno with hh | hg
        · exact if_neg (by omega)
        · rw [hg, ite_self]
      obtain ⟨c, hx⟩ := coll_reaches (rank := 0) (det := false) (formed := false) (src := []) (dst := []) ⟨hm, hs, hox, nofun, hcount, nofun, hal, hne, hlt, hreach, hhome, hilk,
        fun len hl => by rw [hl]; rfl, fun len hl => by rw [hl]; rfl, hset, hbytes, hsum⟩ hnone rfl rfl
      exact completes_aborted hx nofun hm hs hhome nofun nofun hb hbytes hsum

end Sys2Proof.Machine
end
